-- ==== Sys2Proof/Word.lean ====
section
/-! DEFINITION. The words of the machine (spec 00 R1, 04 R81): bytes, 32-bit registers, 64-bit
addresses and masks, 128-bit lineage names. -/

namespace Sys2Proof

/-- One byte of memory. -/
abbrev Byte := BitVec 8

/-- A 32-bit register or instruction word (R81). -/
abbrev Word := BitVec 32

/-- A 64-bit value: an address, a pair of registers (R1, R56). -/
abbrev DWord := BitVec 64

/-- A lane mask: bit l stands for lane l (R213). -/
abbrev Mask := BitVec 64

/-- A lineage name, word 0 in bits [31:0] (R313). -/
abbrev Name := BitVec 128

end Sys2Proof
end

