-- ==== Sys2Proof/Syntax.lean ====
section
/-! DEFINITION. The syntax: one constructor of Instr per row of spec/opcode_table.json. Rows with an
encoding carry the operands of their word (06 R125-R147); rows that are events of the device (spec 95)
carry what the event brings from outside the step. Operands are named by their fields. -/

namespace Sys2Proof

/-- A vector register field: 0-119 name v0-v119, 120-127 name t0-t7 (R126). -/
abbrev VReg := Fin 128
/-- A scalar register field, relative to SBASE (R126). -/
abbrev SReg := Fin 128
/-- A predicate field; p15 reads 1 (R107). -/
abbrev PReg := Fin 16
/-- A rejoin mask k0-k7. -/
abbrev KReg := Fin 8
/-- A hypervector h0-h15. -/
abbrev HReg := Fin 16
/-- An accumulator tile z0-z15. -/
abbrev ZReg := Fin 16
/-- A bundle counter c0-c3. -/
abbrev CReg := Fin 4
/-- A context slot (R344). -/
abbrev Slot := Fin 64

/-- The scopes of R66, in the order of their codes (R128). -/
inductive Scope where
  | grp | core | clu | dev | pod
  deriving DecidableEq, Repr

/-- The SEM codes of R128. -/
inductive Sem where
  | rlx | acq | rel | ar
  deriving DecidableEq, Repr

/-- The rounding modes of R85, in the order of their codes. -/
inductive Rnd where
  | rn | rz | ru | rd
  deriving DecidableEq, Repr

/-- The special registers of R163, in the order of their numbers. -/
inductive SpecReg where
  | lin | lane | gid | bid | core | cluster | width | partword | gstatus | cycle | energy | serai
  | routebase | spbase | vbase | sbase | svcarg | perf
  deriving DecidableEq, Repr

/-- The type field of class 0x4 (R136). -/
inductive FTy where
  | f64 | f32 | f16x2 | bf16x2
  deriving DecidableEq, Repr

/-- The packed element types of FDOT2 (R204). -/
inductive Half where
  | f16 | bf16
  deriving DecidableEq, Repr

/-- The conditions of FCMP (R136). -/
inductive FCond where
  | eq | ne | lt | le | gt | ge | un
  deriving DecidableEq, Repr

/-- The types of CVT, in the order of their codes (R129). -/
inductive NumTy where
  | s8 | s16 | s32 | s64 | u32 | u64 | f16 | bf16 | f32 | f64
  deriving DecidableEq, Repr

/-- The pairs of CVTN, destination first (R208). -/
inductive Narrow where
  | f16f32 | bf16f32 | f32f64 | f16f64 | bf16f64
  deriving DecidableEq, Repr

/-- The type bit of class 0x5 (R137). -/
inductive Prec where
  | f32 | f64
  deriving DecidableEq, Repr

/-- The operations of REDUCE and SCAN (R138). -/
inductive RedOp where
  | add | min | max | and | or | xor
  deriving DecidableEq, Repr

/-- The types of REDUCE and SCAN (R138). -/
inductive RedTy where
  | s32 | s64 | u32 | u64 | f32 | f64
  deriving DecidableEq, Repr

/-- The sizes of loads and stores, in the order of their codes (R139). -/
inductive LdSize where
  | b8 | b16 | b32 | b64 | b128 | s8 | s16
  deriving DecidableEq, Repr

/-- The sizes of LDLOD and TEX (R139). -/
inductive LodSize where
  | b32 | b64 | b128
  deriving DecidableEq, Repr

/-- The narrowing of a store (R140). -/
inductive StNarrow where
  | none | f16 | bf16
  deriving DecidableEq, Repr

/-- The address of a memory word that carries XM (R130): the base, the index and the offset. -/
inductive MemX where
  /-- `[sB + off]`, the offset in units of the access size. -/
  | base (b : SReg) (off : BitVec 7)
  /-- `[sB + xi]`, the offset a byte count. -/
  | baseXi (b : SReg) (xi : Word)
  /-- `[sB + vI*k + xi]`; `sc` says k is the access size. -/
  | idx (b : SReg) (i : VReg) (sc : Bool) (xi : Option Word)
  /-- `[vA + off]`. -/
  | vbase (a : VReg) (off : BitVec 7)
  /-- `[vA + xi]`. -/
  | vbaseXi (a : VReg) (xi : Word)
  deriving DecidableEq, Repr

/-- The modes of TEX (R233). -/
inductive TexMode where
  | auto | level | bias
  deriving DecidableEq, Repr

/-- The kinds of STBRK (R237); a BFP brick of mantissa width `m + 2`. -/
inductive BrickTy where
  | bfp (m : Fin 7) | int8 | f16 | bf16
  deriving DecidableEq, Repr

/-- The operations of atomics, in the order of their codes (R140). -/
inductive AtomOp where
  | add | min | max | and | or | xor | exch | cas
  deriving DecidableEq, Repr

/-- The types of atomics (R140). -/
inductive AtomTy where
  | s32 | s64 | u32 | u64 | f32
  deriving DecidableEq, Repr

/-- The operand types of MMA and MLOOP; both operands have one type (R142). -/
inductive MatTy where
  | f16 | bf16 | f32 | bfp
  deriving DecidableEq, Repr

/-- The shapes of R262. -/
inductive MatShape where
  | view (n : Fin 16) | whole | deep
  deriving DecidableEq, Repr

/-- The types of MLDZ and MSTZ (R269). -/
inductive TileTy where
  | f16 | bf16 | f32
  deriving DecidableEq, Repr

/-- The kinds of MQNT (R270). -/
inductive QuantTy where
  | bfp (m : Fin 7) | int8
  deriving DecidableEq, Repr

/-- A registration flit of a party of an XALL (R256, R257). -/
structure XallFlit where
  coll  : Nat
  seq   : Word
  party : Nat
  ids   : List Nat
  bytes : Word
  deriving DecidableEq, Repr

/-- A unit with a background activity of its own (R401): the patrol scrub of a memory channel, a core's pool or
a slice; the calibration of a SerDes lane; the telemetry of the Ultra Ethernet ports. -/
inductive ScrubUnit where
  | hbm (channel : Nat) | lpddr (channel : Nat) | pool (core : Nat) | l2 (cluster : Fin 8)
  | serdes (lane : Nat) | telemetry
  deriving DecidableEq, Repr

/-- Where an uncorrectable error strikes (R376, R377). -/
inductive ErrorSite where
  /-- A 16-bit half of a vector element: group, lane, allocation register, half. -/
  | vreg (g lane reg half : Nat)
  /-- A 16-bit half of a scalar register. -/
  | sreg (g reg half : Nat)
  /-- A 16-bit half of a block's scratchpad, by its even byte offset. -/
  | spad (b off : Nat)
  /-- A 16-bit half of a tile element. -/
  | tile (g z elem half : Nat)
  /-- A 16-bit half of a hypervector. -/
  | hyper (g h half : Nat)
  /-- The 64-byte ECC block at a physical address, in the memory or in the slice of a cluster. -/
  | memory (pa : Nat) (slice : Option (Fin 8))
  deriving DecidableEq, Repr

/-- The header of a service request and the connection it came on, and whether that is a ROD connection (R407,
R409, R414). -/
structure Req where
  conn  : Nat
  rod   : Bool := true
  magic : BitVec 16 := 0x5657
  version : Byte := 1
  tag   : Word
  slot  : Slot
  length : Word := 0
  stamp : DWord
  /-- The reserved bytes 9 and 24 to 31, as one number. -/
  spare : Nat := 0
  /-- Its payload does not have the form of the request: its LENGTH, its reserved bytes (R408). -/
  malformed : Bool := false
  deriving DecidableEq, Repr

/-- A message that breaks the format (R407, R408). -/
def Req.bad (q : Req) : Bool :=
  q.magic != 0x5657 || q.version != 1 || q.spare != 0 || decide (16384 < q.length.toNat) || q.malformed

/-- A flit from a peer for a page this device owns (R418); addresses are physical. -/
inductive PeerFlit where
  | load (pa : DWord) (size : Nat)
  | store (pa : DWord) (data : List Byte)
  | rmw (op : AtomOp) (ty : AtomTy) (pa : DWord) (operand new : DWord)
  deriving DecidableEq, Repr

/-- What bring-up finds (R422): the stacks, packages and ports that train, and the ids the switches give. -/
structure BringUp where
  hbm   : BitVec 8
  lpddr : BitVec 32
  ue    : BitVec 4
  ids   : List (Option (Fin 144))
  deriving DecidableEq, Repr

/-- The instructions and the device's own steps: one constructor per row of spec/opcode_table.json. -/
inductive Instr where
  /-- SADD (R159): Scalar add, wrapping. -/
  | sadd (d : SReg) (a : SReg) (b : SReg)
  /-- SSUB (R159): Scalar subtract, wrapping. -/
  | ssub (d : SReg) (a : SReg) (b : SReg)
  /-- SMUL (R159): Scalar multiply, low 32 bits. -/
  | smul (d : SReg) (a : SReg) (b : SReg)
  /-- SMULH (R159): Scalar signed multiply, high 32 bits. -/
  | smulh (d : SReg) (a : SReg) (b : SReg)
  /-- SMULH_U (R159): Scalar unsigned multiply, high 32 bits. -/
  | smulhU (d : SReg) (a : SReg) (b : SReg)
  /-- SAND (R159): Scalar bitwise AND. -/
  | sand (d : SReg) (a : SReg) (b : SReg)
  /-- SOR (R159): Scalar bitwise OR. -/
  | sor (d : SReg) (a : SReg) (b : SReg)
  /-- SXOR (R159): Scalar bitwise XOR. -/
  | sxor (d : SReg) (a : SReg) (b : SReg)
  /-- SSHL (R159): Scalar shift left, 0 for amounts of 32 or more. -/
  | sshl (d : SReg) (a : SReg) (b : SReg)
  /-- SSHR (R159): Scalar logical shift right. -/
  | sshr (d : SReg) (a : SReg) (b : SReg)
  /-- SSAR (R159): Scalar arithmetic shift right. -/
  | ssar (d : SReg) (a : SReg) (b : SReg)
  /-- SMIN (R159): Scalar signed minimum. -/
  | smin (d : SReg) (a : SReg) (b : SReg)
  /-- SMAX (R159): Scalar signed maximum. -/
  | smax (d : SReg) (a : SReg) (b : SReg)
  /-- SMINU (R159): Scalar unsigned minimum. -/
  | sminu (d : SReg) (a : SReg) (b : SReg)
  /-- SMAXU (R159): Scalar unsigned maximum. -/
  | smaxu (d : SReg) (a : SReg) (b : SReg)
  /-- SSEL (R161): Scalar select by a third scalar held in XM. -/
  | ssel (d : SReg) (a : SReg) (b : SReg) (c : SReg)
  /-- SCLZ (R159): Scalar count of leading zeros. -/
  | sclz (d : SReg) (a : SReg)
  /-- SPOP (R159): Scalar population count. -/
  | spop (d : SReg) (a : SReg)
  /-- SMOV (R159): Scalar move. -/
  | smov (d : SReg) (a : SReg)
  /-- SCMP_EQ (R160): Scalar compare equal. -/
  | scmpEq (d : SReg) (a : SReg) (b : SReg)
  /-- SCMP_NE (R160): Scalar compare not equal. -/
  | scmpNe (d : SReg) (a : SReg) (b : SReg)
  /-- SCMP_LT (R160): Scalar signed less-than. -/
  | scmpLt (d : SReg) (a : SReg) (b : SReg)
  /-- SCMP_LE (R160): Scalar signed less-or-equal. -/
  | scmpLe (d : SReg) (a : SReg) (b : SReg)
  /-- SCMP_GT (R160): Scalar signed greater-than. -/
  | scmpGt (d : SReg) (a : SReg) (b : SReg)
  /-- SCMP_GE (R160): Scalar signed greater-or-equal. -/
  | scmpGe (d : SReg) (a : SReg) (b : SReg)
  /-- SCMP_LTU (R160): Scalar unsigned less-than. -/
  | scmpLtu (d : SReg) (a : SReg) (b : SReg)
  /-- SCMP_LEU (R160): Scalar unsigned less-or-equal. -/
  | scmpLeu (d : SReg) (a : SReg) (b : SReg)
  /-- SCMP_GTU (R160): Scalar unsigned greater-than. -/
  | scmpGtu (d : SReg) (a : SReg) (b : SReg)
  /-- SCMP_GEU (R160): Scalar unsigned greater-or-equal. -/
  | scmpGeu (d : SReg) (a : SReg) (b : SReg)
  /-- SMOVI (R162): Scalar move of a sign-extended 14-bit immediate. -/
  | smovi (d : SReg) (i : BitVec 14)
  /-- SADDI_SHORT (R162): Scalar add of a 7-bit immediate. -/
  | saddiShort (d : SReg) (a : SReg) (i : BitVec 7)
  /-- SADDI_XI (R162): Scalar add of a 32-bit immediate from an XI word. -/
  | saddiXi (d : SReg) (a : SReg) (i : Word)
  /-- SLIT (R162): Scalar load of a 32-bit literal from an XI word. -/
  | slit (d : SReg) (i : Word)
  /-- SRD_S (R164): Read a special register into a scalar. -/
  | srdS (d : SReg) (n : SpecReg)
  /-- SRD_V (R164): Read a special register into a vector register per lane. -/
  | srdV (d : VReg) (n : SpecReg)
  /-- SWR (R165): Write VBASE, SBASE or SVCARG from a scalar. -/
  | swr (s : SReg) (n : SpecReg)
  /-- SWIN (R168): Move the scalar window by a signed delta. -/
  | swin (i : BitVec 14)
  /-- VWIN (R168): Move each lane's vector window by a signed delta. -/
  | vwin (i : BitVec 14)
  /-- BRA (R171): Per-lane branch on a predicate, which may split the path. -/
  | bra (p : PReg) (o : BitVec 17)
  /-- BRS (R171): Uniform branch when a scalar is non-zero. -/
  | brs (s : SReg) (o : BitVec 14)
  /-- BRS_Z (R171): Uniform branch when a scalar is zero. -/
  | brsZ (s : SReg) (o : BitVec 14)
  /-- JMP (R171): Unconditional direct jump. -/
  | jmp (o : BitVec 21)
  /-- BRX (R172): Indirect branch to per-lane targets carrying LPAD.jump. -/
  | brx (t : VReg)
  /-- CALL (R173): Direct call that writes a per-lane link. -/
  | call (l : VReg) (o : BitVec 14)
  /-- CALLX (R173): Indirect call to targets carrying LPAD.call. -/
  | callx (l : VReg) (t : VReg)
  /-- RET (R174): Return through per-lane links. -/
  | ret (l : VReg)
  /-- LPAD (R176): Landing pad; executes as a no-op. -/
  | lpad (k : Fin 4)
  /-- KSET (R177): Write the mask of executing lanes to a k register. -/
  | kset (k : KReg)
  /-- JOIN (R178): Lane waits at the JOIN until the lanes of kN arrive or exit. -/
  | join (k : KReg)
  /-- EXIT (R179): Exit the executing lanes and clear their k bits. -/
  | exitLanes
  /-- TRAP (R181): Raise the USER trap with a code. -/
  | trap (c : BitVec 14)
  /-- BRK (R182): Stop the group with a BREAK event when debug is enabled. -/
  | brk (c : BitVec 14)
  /-- NOP (R184): No operation. -/
  | nop
  /-- PERF (R185): Set the context's performance-level request. -/
  | perf (s : SReg)
  /-- LAUNCH (R187): Create child tasks from task records, numbered by the block sequence. -/
  | launch (v : VReg)
  /-- LAUNCH_ORD (R187): Create child tasks with order-independent LAUNCH.ORD numbering. -/
  | launchOrd (v : VReg)
  /-- RENQ (R189): Enqueue per-lane entries to a route, parking when it is full. -/
  | renq (r : SReg) (e : VReg)
  /-- RDEQ (R190): Dequeue one entry for the group, parking when the route is empty. -/
  | rdeq (d : SReg) (r : SReg)
  /-- SVC (R183): Send a request to the resident service and park the group. -/
  | svc (c : BitVec 14)
  /-- VADD (R196): Vector add. -/
  | vadd (d : VReg) (a : VReg) (b : VReg)
  /-- VSUB (R196): Vector subtract. -/
  | vsub (d : VReg) (a : VReg) (b : VReg)
  /-- VMUL (R196): Vector multiply, low 32 bits. -/
  | vmul (d : VReg) (a : VReg) (b : VReg)
  /-- VMULH_S32 (R196): Vector signed multiply, high bits. -/
  | vmulhS32 (d : VReg) (a : VReg) (b : VReg)
  /-- VMULH_U32 (R196): Vector unsigned multiply, high bits. -/
  | vmulhU32 (d : VReg) (a : VReg) (b : VReg)
  /-- VMAD (R197): Vector multiply-add with the addend in XM. -/
  | vmad (d : VReg) (a : VReg) (b : VReg) (c : VReg)
  /-- VADDC (R197): Vector add with carry predicate. -/
  | vaddc (d : VReg) (a : VReg) (b : VReg) (c : PReg)
  /-- VAND (R196): Vector AND. -/
  | vand (d : VReg) (a : VReg) (b : VReg)
  /-- VOR (R196): Vector OR. -/
  | vor (d : VReg) (a : VReg) (b : VReg)
  /-- VXOR (R196): Vector XOR. -/
  | vxor (d : VReg) (a : VReg) (b : VReg)
  /-- VSHL (R196): Vector shift left. -/
  | vshl (d : VReg) (a : VReg) (b : VReg)
  /-- VSHR (R196): Vector logical shift right. -/
  | vshr (d : VReg) (a : VReg) (b : VReg)
  /-- VSAR (R196): Vector arithmetic shift right. -/
  | vsar (d : VReg) (a : VReg) (b : VReg)
  /-- VMIN_S32 (R196): Vector signed minimum. -/
  | vminS32 (d : VReg) (a : VReg) (b : VReg)
  /-- VMIN_U32 (R196): Vector unsigned minimum. -/
  | vminU32 (d : VReg) (a : VReg) (b : VReg)
  /-- VMAX_S32 (R196): Vector signed maximum. -/
  | vmaxS32 (d : VReg) (a : VReg) (b : VReg)
  /-- VMAX_U32 (R196): Vector unsigned maximum. -/
  | vmaxU32 (d : VReg) (a : VReg) (b : VReg)
  /-- VABS (R196): Vector absolute value. -/
  | vabs (d : VReg) (a : VReg)
  /-- VCLZ (R196): Vector count of leading zeros. -/
  | vclz (d : VReg) (a : VReg)
  /-- VPOP (R196): Vector population count. -/
  | vpop (d : VReg) (a : VReg)
  /-- VBFE_S32 (R197): Vector signed bit-field extract. -/
  | vbfeS32 (d : VReg) (a : VReg) (b : VReg) (c : VReg)
  /-- VBFE_U32 (R197): Vector unsigned bit-field extract. -/
  | vbfeU32 (d : VReg) (a : VReg) (b : VReg) (c : VReg)
  /-- VBFI (R197): Vector bit-field insert. -/
  | vbfi (d : VReg) (a : VReg) (b : VReg) (c : VReg)
  /-- VSEL (R197): Vector select by predicate. -/
  | vsel (d : VReg) (a : VReg) (b : VReg) (c : PReg)
  /-- VMOV (R196): Vector move. -/
  | vmov (d : VReg) (a : VReg)
  /-- VMOVI (R198): Vector move of a 14-bit immediate. -/
  | vmovi (d : VReg) (i : BitVec 14)
  /-- VLIT (R198): Vector move of a 32-bit literal from an XI word. -/
  | vlit (d : VReg) (i : Word)
  /-- VCMP_EQ_S32 (R199): Vector compare equal, signed. -/
  | vcmpEqS32 (d : PReg) (a : VReg) (b : VReg)
  /-- VCMP_NE_S32 (R199): Vector compare not equal, signed. -/
  | vcmpNeS32 (d : PReg) (a : VReg) (b : VReg)
  /-- VCMP_LT_S32 (R199): Vector signed less-than. -/
  | vcmpLtS32 (d : PReg) (a : VReg) (b : VReg)
  /-- VCMP_LE_S32 (R199): Vector signed less-or-equal. -/
  | vcmpLeS32 (d : PReg) (a : VReg) (b : VReg)
  /-- VCMP_GT_S32 (R199): Vector signed greater-than. -/
  | vcmpGtS32 (d : PReg) (a : VReg) (b : VReg)
  /-- VCMP_GE_S32 (R199): Vector signed greater-or-equal. -/
  | vcmpGeS32 (d : PReg) (a : VReg) (b : VReg)
  /-- VCMP_EQ_U32 (R199): Vector compare equal, unsigned. -/
  | vcmpEqU32 (d : PReg) (a : VReg) (b : VReg)
  /-- VCMP_NE_U32 (R199): Vector compare not equal, unsigned. -/
  | vcmpNeU32 (d : PReg) (a : VReg) (b : VReg)
  /-- VCMP_LT_U32 (R199): Vector unsigned less-than. -/
  | vcmpLtU32 (d : PReg) (a : VReg) (b : VReg)
  /-- VCMP_LE_U32 (R199): Vector unsigned less-or-equal. -/
  | vcmpLeU32 (d : PReg) (a : VReg) (b : VReg)
  /-- VCMP_GT_U32 (R199): Vector unsigned greater-than. -/
  | vcmpGtU32 (d : PReg) (a : VReg) (b : VReg)
  /-- VCMP_GE_U32 (R199): Vector unsigned greater-or-equal. -/
  | vcmpGeU32 (d : PReg) (a : VReg) (b : VReg)
  /-- FADD (R201): Float add, rounded once. -/
  | fadd (t : FTy) (r : Rnd) (d : VReg) (a : VReg) (b : VReg)
  /-- FSUB (R201): Float subtract, rounded once. -/
  | fsub (t : FTy) (r : Rnd) (d : VReg) (a : VReg) (b : VReg)
  /-- FMUL (R201): Float multiply, rounded once. -/
  | fmul (t : FTy) (r : Rnd) (d : VReg) (a : VReg) (b : VReg)
  /-- FFMA (R201): Fused float multiply-add with the addend in XM. -/
  | ffma (t : FTy) (r : Rnd) (d : VReg) (a : VReg) (b : VReg) (c : VReg)
  /-- FMIN (R202): Float minimum. -/
  | fmin (t : FTy) (d : VReg) (a : VReg) (b : VReg)
  /-- FMAX (R202): Float maximum. -/
  | fmax (t : FTy) (d : VReg) (a : VReg) (b : VReg)
  /-- FCMP (R203): Float compare into a predicate, condition in XM. -/
  | fcmp (t : FTy) (x : FCond) (d : PReg) (a : VReg) (b : VReg)
  /-- FDOT2 (R204): Packed two-element dot product accumulated into binary32. -/
  | fdot2 (t : Half) (r : Rnd) (d : VReg) (a : VReg) (b : VReg)
  /-- CVT (R207): Convert between types under IEEE rules. -/
  | cvt (dt : NumTy) (sty : NumTy) (r : Rnd) (d : VReg) (a : VReg)
  /-- CVTN (R208): Narrow a float under the overflow table. -/
  | cvtn (n : Narrow) (r : Rnd) (d : VReg) (a : VReg)
  /-- FRCP (R209): Correctly rounded reciprocal. -/
  | frcp (t : Prec) (r : Rnd) (d : VReg) (a : VReg)
  /-- FRSQ (R209): Correctly rounded reciprocal square root. -/
  | frsq (t : Prec) (d : VReg) (a : VReg)
  /-- FSQRT (R209): Correctly rounded square root. -/
  | fsqrt (t : Prec) (r : Rnd) (d : VReg) (a : VReg)
  /-- FDIV (R209): Correctly rounded division. -/
  | fdiv (t : Prec) (r : Rnd) (d : VReg) (a : VReg) (b : VReg)
  /-- FEXP2 (R209): Correctly rounded base-2 exponential. -/
  | fexp2 (t : Prec) (d : VReg) (a : VReg)
  /-- FLOG2 (R209): Correctly rounded base-2 logarithm. -/
  | flog2 (t : Prec) (d : VReg) (a : VReg)
  /-- FSIN (R209): Correctly rounded sine. -/
  | fsin (t : Prec) (d : VReg) (a : VReg)
  /-- FCOS (R209): Correctly rounded cosine. -/
  | fcos (t : Prec) (d : VReg) (a : VReg)
  /-- FROUND (R210): Round to an integral float value. -/
  | fround (t : Prec) (r : Rnd) (d : VReg) (a : VReg)
  /-- FFRACT (R210): Fractional part. -/
  | ffract (t : Prec) (d : VReg) (a : VReg)
  /-- FCLASS (R211): Classify a float into a one-hot word. -/
  | fclass (t : Prec) (d : VReg) (a : VReg)
  /-- QSWAP_H (R214): Exchange with the horizontal quad partner. -/
  | qswapH (d : VReg) (a : VReg)
  /-- QSWAP_V (R214): Exchange with the vertical quad partner. -/
  | qswapV (d : VReg) (a : VReg)
  /-- QSWAP_D (R214): Exchange with the diagonal quad partner. -/
  | qswapD (d : VReg) (a : VReg)
  /-- DDX_FINE (R215): Fine horizontal quad derivative. -/
  | ddxFine (d : VReg) (a : VReg)
  /-- DDX_COARSE (R215): Coarse horizontal quad derivative. -/
  | ddxCoarse (d : VReg) (a : VReg)
  /-- DDY_FINE (R215): Fine vertical quad derivative. -/
  | ddyFine (d : VReg) (a : VReg)
  /-- DDY_COARSE (R215): Coarse vertical quad derivative. -/
  | ddyCoarse (d : VReg) (a : VReg)
  /-- SHFL_IDX (R216): Shuffle from an indexed lane. -/
  | shflIdx (d : VReg) (a : VReg) (b : VReg)
  /-- SHFL_UP (R216): Shuffle from a lower lane. -/
  | shflUp (d : VReg) (a : VReg) (b : VReg)
  /-- SHFL_DOWN (R216): Shuffle from a higher lane. -/
  | shflDown (d : VReg) (a : VReg) (b : VReg)
  /-- SHFL_XOR (R216): Shuffle from the XOR partner lane. -/
  | shflXor (d : VReg) (a : VReg) (b : VReg)
  /-- VOTE_ANY (R217): Predicate true when any participant's predicate is 1. -/
  | voteAny (d : PReg) (a : PReg)
  /-- VOTE_ALL (R217): Predicate true when every participant's predicate is 1. -/
  | voteAll (d : PReg) (a : PReg)
  /-- VOTE_BALLOT (R217): Mask of participants whose predicate is 1. -/
  | voteBallot (d : VReg) (a : PReg)
  /-- MATCH (R218): Mask of participants holding an equal value. -/
  | matchAny (d : VReg) (a : VReg)
  /-- REDUCE (R220): Group reduction over the fixed pairwise tree. -/
  | reduce (o : RedOp) (t : RedTy) (r : Rnd) (d : VReg) (a : VReg)
  /-- SCAN (R220): Group inclusive scan built from tree nodes. -/
  | scan (o : RedOp) (t : RedTy) (r : Rnd) (d : VReg) (a : VReg)
  /-- ACTMASK (R219): Mask of all participants. -/
  | actmask (d : VReg)
  /-- ISHELP (R219): Predicate 1 in helper lanes. -/
  | ishelp (d : PReg)
  /-- PAND (R221): Predicate AND. -/
  | pand (d : PReg) (a : PReg) (b : PReg)
  /-- POR (R221): Predicate OR. -/
  | por (d : PReg) (a : PReg) (b : PReg)
  /-- PXOR (R221): Predicate XOR. -/
  | pxor (d : PReg) (a : PReg) (b : PReg)
  /-- PNOT (R221): Predicate NOT. -/
  | pnot (d : PReg) (a : PReg)
  /-- PMOV (R221): Predicate move. -/
  | pmov (d : PReg) (a : PReg)
  /-- LD (R228): Global load, short form without XM. -/
  | ld (z : LdSize) (d : VReg) (b : SReg) (o : BitVec 7)
  /-- LD_X (R228): Global load with an XM word (acquire, index, offset). -/
  | ldX (z : LdSize) (q : Option Scope) (d : VReg) (m : MemX)
  /-- LDS (R228): Scratchpad load, short form; parks on an empty line. -/
  | lds (z : LdSize) (d : VReg) (b : SReg) (o : BitVec 7)
  /-- LDS_X (R228): Scratchpad load with an XM word. -/
  | ldsX (z : LdSize) (q : Option Scope) (d : VReg) (m : MemX)
  /-- LDC (R228): Cluster pool load, short form. -/
  | ldc (z : LdSize) (d : VReg) (b : SReg) (o : BitVec 7)
  /-- LDC_X (R228): Cluster pool load with an XM word. -/
  | ldcX (z : LdSize) (q : Option Scope) (d : VReg) (m : MemX)
  /-- SLD (R228): Group-level scalar global load, short form. -/
  | sld (z : LdSize) (d : SReg) (b : SReg) (o : BitVec 7)
  /-- SLD_X (R228): Scalar global load with an XM word. -/
  | sldX (z : LdSize) (q : Option Scope) (d : SReg) (m : MemX)
  /-- LDLOD (R231): LOD load at level 0 without XM, falling back to coarser levels. -/
  | ldlod (z : LodSize) (d : VReg) (b : SReg) (o : BitVec 7)
  /-- LDLOD_X (R231): LOD load with the wanted level and address mode in XM. -/
  | ldlodX (l : Fin 16) (z : LodSize) (d : VReg) (m : MemX)
  /-- LDBRK (R232): Load and decode one brick element. -/
  | ldbrk (d : VReg) (m : MemX) (c : VReg)
  /-- TEX (R234): Filtered texture sample with level selection. -/
  | tex (u : TexMode) (z : LodSize) (d : VReg) (s : SReg) (c : VReg)
  /-- TEXG (R234): Gather one channel of four texels. -/
  | texg (n : Fin 4) (d : VReg) (s : SReg) (c : VReg)
  /-- ST (R236): Global store, short form. -/
  | st (z : LdSize) (d : VReg) (b : SReg) (o : BitVec 7)
  /-- ST_X (R236): Global store with XM (release, narrowing, index). -/
  | stX (z : LdSize) (w : StNarrow) (q : Option Scope) (d : VReg) (m : MemX)
  /-- STS (R236): Scratchpad store, short form. -/
  | sts (z : LdSize) (d : VReg) (b : SReg) (o : BitVec 7)
  /-- STS_X (R236): Scratchpad store with an XM word. -/
  | stsX (z : LdSize) (w : StNarrow) (q : Option Scope) (d : VReg) (m : MemX)
  /-- STC (R236): Cluster pool store, short form. -/
  | stc (z : LdSize) (d : VReg) (b : SReg) (o : BitVec 7)
  /-- STC_X (R236): Cluster pool store with an XM word. -/
  | stcX (z : LdSize) (w : StNarrow) (q : Option Scope) (d : VReg) (m : MemX)
  /-- SST (R236): Group-level scalar global store, short form. -/
  | sst (z : LdSize) (d : SReg) (b : SReg) (o : BitVec 7)
  /-- SST_X (R236): Scalar global store with an XM word. -/
  | sstX (z : LdSize) (w : StNarrow) (q : Option Scope) (d : SReg) (m : MemX)
  /-- STBRK (R237): Quantise group values into one brick and store it. -/
  | stbrk (k : BrickTy) (a : VReg) (m : MemX)
  /-- ATOM (R239): Global atomic read-modify-write returning the old value. -/
  | atom (o : AtomOp) (t : AtomTy) (q : Sem) (w : Scope) (d : VReg) (m : MemX) (c : VReg)
  /-- ATOMS (R239): Scratchpad atomic read-modify-write. -/
  | atoms (o : AtomOp) (t : AtomTy) (q : Sem) (w : Scope) (d : VReg) (m : MemX) (c : VReg)
  /-- RED (R239): Global atomic reduction without result. -/
  | red (o : AtomOp) (t : AtomTy) (q : Sem) (w : Scope) (m : MemX) (c : VReg)
  /-- ATOMX (R240): Pod-scope atomic performed at the owning device. -/
  | atomx (o : AtomOp) (t : AtomTy) (q : Sem) (w : Scope) (d : VReg) (m : MemX) (c : VReg)
  /-- CPA_B32 (R241): Asynchronous 4-byte per-lane copy into scratchpad. -/
  | cpaB32 (s : SReg) (g : SReg) (i : VReg)
  /-- CPA_B64 (R241): Asynchronous 8-byte per-lane copy into scratchpad. -/
  | cpaB64 (s : SReg) (g : SReg) (i : VReg)
  /-- CPA_B128 (R241): Asynchronous 16-byte per-lane copy into scratchpad. -/
  | cpaB128 (s : SReg) (g : SReg) (i : VReg)
  /-- CPB (R242): Asynchronous bulk copy between global memory and scratchpad. -/
  | cpb (d : SReg) (s : SReg) (n : SReg)
  /-- PREFR (R244): Prefetch a range into L2 and return a token. -/
  | prefr (d : SReg) (a : SReg) (b : SReg)
  /-- TOKW (R246): Park until a token resolves and write its status. -/
  | tokw (d : SReg) (a : SReg)
  /-- FEMARK_FULL (R243): Set scratchpad lines full. -/
  | femarkFull (a : SReg) (b : SReg)
  /-- FEMARK_EMPTY (R243): Set scratchpad lines empty. -/
  | femarkEmpty (a : SReg) (b : SReg)
  /-- WAITC_TOKEN (R247): Register a continuation on a token and exit the lanes. -/
  | waitcToken (t : SReg) (o : BitVec 14)
  /-- WAITC_BARRIER (R247): Register a continuation on the block barrier and exit the lanes. -/
  | waitcBarrier (o : BitVec 14)
  /-- BAR (R248): Wait at the block barrier. -/
  | bar
  /-- MBARA (R250): Arrive at a phase barrier, completing the round when pending reaches 0. -/
  | mbara (b : SReg)
  /-- MBARW (R251): Park while a phase barrier's phase equals the expected bit. -/
  | mbarw (b : SReg) (p : SReg)
  /-- FENCE_ACQ (R252): Acquire fence at a scope. -/
  | fenceAcq (w : Scope)
  /-- FENCE_REL (R252): Release fence at a scope. -/
  | fenceRel (w : Scope)
  /-- FENCE_SC (R252): Sequentially consistent fence at a scope. -/
  | fenceSc (w : Scope)
  /-- OPFENCE (R253): Order block writes ahead of later matrix operand fetches. -/
  | opfence
  /-- XALL (R255): Register a pod-wide all-to-all transpose. -/
  | xall (d : SReg) (a : SReg)
  /-- CFLUSH (R254): Write back and invalidate a range in every cache of the device. -/
  | cflush (a : SReg) (b : SReg)
  /-- MMA (R265): One matrix step into an accumulator tile. -/
  | mma (t : MatTy) (h : MatShape) (z : ZReg) (a : SReg) (b : SReg)
  /-- MLOOP (R267): Start a looped matrix computation with a progress counter. -/
  | mloop (t : MatTy) (h : MatShape) (z : ZReg) (p : SReg)
  /-- MZERO (R269): Zero an accumulator tile. -/
  | mzero (z : ZReg)
  /-- MLDZ (R269): Load an accumulator tile from memory. -/
  | mldz (t : TileTy) (z : ZReg) (a : SReg)
  /-- MSTZ (R269): Store an accumulator tile to memory. -/
  | mstz (t : TileTy) (z : ZReg) (a : SReg)
  /-- MQNT (R270): Quantise a tile into bricks. -/
  | mqnt (k : QuantTy) (z : ZReg) (a : SReg)
  /-- MSTAT (R271): Snapshot a tile's busy, fault and progress state. -/
  | mstat (d : SReg) (z : ZReg)
  /-- HLD (R272): Load a hypervector. -/
  | hld (d : HReg) (b : SReg) (o : BitVec 7)
  /-- HST (R272): Store a hypervector. -/
  | hst (a : HReg) (b : SReg) (o : BitVec 7)
  /-- HMOV (R272): Hypervector move. -/
  | hmov (d : HReg) (a : HReg)
  /-- HBIND (R272): Hypervector XOR bind. -/
  | hbind (d : HReg) (a : HReg) (b : HReg)
  /-- HPERM (R272): Hypervector rotation. -/
  | hperm (d : HReg) (a : HReg) (n : SReg)
  /-- HBUND (R272): Bundle a hypervector into saturating counters. -/
  | hbund (c : CReg) (a : HReg)
  /-- HTHR (R272): Threshold counters into a hypervector, ties from HTIE. -/
  | hthr (d : HReg) (c : CReg)
  /-- HCLRC (R272): Clear a bundle counter register. -/
  | hclrc (c : CReg)
  /-- HHAM (R272): Hamming distance of two hypervectors. -/
  | hham (d : SReg) (a : HReg) (b : HReg)
  /-- HNEAR (R273): Nearest-match recall over up to eight hypervectors. -/
  | hnear (d : SReg) (a : HReg) (b : HReg) (c : SReg)
  /-- HTIE (R272): Set the tie vector. -/
  | htie (a : HReg)
  /-- HBIT (R272): Set one hypervector bit. -/
  | hbit (d : HReg) (n : SReg) (v : SReg)
  /-- GOPEN_W1 (R38): Open a generator with one-word entries. -/
  | gopenW1 (p : SReg) (t : Fin 65) (o : Word)
  /-- GOPEN_W2 (R38): Open a generator with two-word entries. -/
  | gopenW2 (p : SReg) (t : Fin 65) (o : Word)
  /-- GOPEN_W3 (R38): Open a generator with three-word entries. -/
  | gopenW3 (p : SReg) (t : Fin 65) (o : Word)
  /-- GOPEN_W4 (R38): Open a generator with four-word entries. -/
  | gopenW4 (p : SReg) (t : Fin 65) (o : Word)
  /-- GYIELD (R39): Append one serai entry per executing lane. -/
  | gyield (a : VReg)
  /-- GTAKE (R41): Deliver batch entries to consumer lanes. -/
  | gtake (d : VReg)
  /-- GBACK (R42): End a consumer pass and decide the next mode. -/
  | gback
  /-- GDONE (R39): Lane finishes producing. -/
  | gdone
  /-- GCLOSE (R42): Free the serai and close the generator. -/
  | gclose
  /-- REPACK (R44): Group joins a repack collective of its block. -/
  | repack (k : VReg)
  /-- TRAVB (R282): Open a traversal walk for the lane. -/
  | travb (r : VReg) (d : SReg)
  /-- TRAVS (R281): Advance the lane's walk to its next candidate or end. -/
  | travs (d : VReg)
  /-- TRAVC (R282): Commit the pending candidate. -/
  | travc (t : VReg)
  /-- TRAVE (R282): Close the lane's walk. -/
  | trave
  /-- DRAW (R285): Hand a state block and primitive count to the pipeline. -/
  | draw (d : SReg) (a : SReg) (n : SReg)
  /-- VXEMIT (R285): Emit a vertex into the block's batch. -/
  | vxemit (i : VReg) (a : VReg)
  /-- PRIMEMIT (R285): Emit a primitive naming three vertices. -/
  | primemit (i : VReg) (p : VReg)
  /-- PXOUT (R285): Set a fragment's colour for a target. -/
  | pxout (n : Fin 8) (a : VReg)
  /-- DISCARD (R286): Turn executing lanes into helper lanes. -/
  | discard
  /-- DEPW (R285): Set the fragment depth, clamped. -/
  | depw (a : VReg)
  /-- WREC (R285): Write a work-graph record to a node port. -/
  | wrec (s : SReg) (t : VReg) (a : VReg)
  /-- LINSET (R287): Set the thread's child-name value. -/
  | linset (a : VReg)
  /-- WATCH (R288): Arm or disarm a watch comparator from a specification. -/
  | watch (n : SReg) (a : SReg)
  /-- REPLAY (R289): Start a replay of a watched item in a replay context. -/
  | replay (d : SReg) (a : SReg)
  /-- ERET (R351): Return from a handler to the saved resume addresses. -/
  | eret
  /-- CTXSAVE (R352): Save or destroy a live context. -/
  | ctxsave (d : SReg) (c : SReg) (a : SReg)
  /-- CTXLOAD (R353): Load a context image into a free slot. -/
  | ctxload (d : SReg) (c : SReg) (a : SReg)
  /-- OVTBL (R354): Write a context's overflow table. -/
  | ovtbl (c : SReg) (v : SReg)
  /-- TLBINV (R355): Invalidate cached translations of a range. -/
  | tlbinv (d : SReg) (r : SReg)
  /-- RESFENCE (R355): Fence residency-map changes and empty the miss filters. -/
  | resfence (d : SReg) (c : SReg)
  /-- PGATTR (R355): Rewrite a page's KIND field. -/
  | pgattr (d : SReg) (r : SReg)
  /-- ADMIT (R356): Set a cluster's partition and admission budgets. -/
  | admitCluster (r : SReg)
  /-- RASLOG (R356): Copy the oldest unread RAS record. -/
  | raslog (d : SReg) (a : SReg)
  /-- HALT (R356): Park the service group until work arrives. -/
  | halt
  /-- HINT (R147): Hint word executing as a no-op. -/
  | hint (h : BitVec 24)
  /-- CLAUSE_BEGIN (R28): A clause is decoded and begins once its wait flags are clear. -/
  | clauseBegin (g : Nat) (l : Nat)
  /-- FLAG_CLEAR (R28): A flag clears when every long-latency operation tied to it completes. -/
  | flagClear (g : Nat) (f : Fin 12)
  /-- FAIRNESS_TIMER (R24): Fairness count reaches 1,024 and the path's turn ends at its next clause boundary. -/
  | fairnessTimer (g : Nat)
  /-- JOIN_RELEASE (R22): Waiting lanes released together when every lane of kN has arrived or exited. -/
  | joinRelease (g : Nat) (a : DWord)
  /-- GROUP_RETIRE (R180): A group with no live non-helper lane retires once its flags clear. -/
  | groupRetire (g : Nat)
  /-- REPACK_COMPLETE (R45): Survivors are sorted by key and placed when the last participant joins. -/
  | repackComplete (b : Nat) (c : Fin 32)
  /-- ROUTE_ENTRY_WAKE (R35): A group parked on RDEQ takes an entry when one arrives. -/
  | routeEntryWake (c : Slot) (r : BitVec 12)
  /-- ROUTE_SPACE_WAKE (R189): A group parked on a full route appends its remaining lanes when space frees. -/
  | routeSpaceWake (c : Slot) (r : BitVec 12)
  /-- CARAVAN_LAND (R60): A caravan lands its bytes and lowers pending counts, filling lines. -/
  | caravanLand (n : Nat)
  /-- FULL_BIT_WAKE (R61): A group parked on an empty line resumes when the line becomes full. -/
  | fullBitWake (g : Nat)
  /-- CONTINUATION_SPAWN (R64): A registered WAITC continuation spawns a new group when its barrier or token resolves. -/
  | continuationSpawn (n : Nat)
  /-- TOKEN_RESOLVE (R245): A prefetch token resolves once every line arrived or was skipped. -/
  | tokenResolve (c : Slot) (t : BitVec 8)
  /-- BARRIER_RESOLVE (R248): The block barrier resolves when every live group has arrived. -/
  | barrierResolve (b : Nat)
  /-- PHASE_BARRIER_WAKE (R251): A group parked on MBARW resumes when PHASE differs. -/
  | phaseBarrierWake (g : Nat)
  /-- MLOOP_ITERATION (R267): The matrix engine completes one MLOOP iteration and advances PROGRESS. -/
  | mloopIteration (g : Nat) (z : ZReg)
  /-- THERMAL_SAMPLE (R398): Temperature sensors are sampled every 100 us. -/
  | thermalSample (c : Fin 8) (r : List (Nat × Nat))
  /-- ENGINE_SWITCH (R7): The core switches its active matrix engine at a K-step boundary. -/
  | engineSwitch (c : Fin 8) (k : Fin 32)
  /-- XALL_REGISTRATION (R256): A registration flit from a party arrives for a collective. -/
  | xallRegistration (m : XallFlit)
  /-- XALL_START (R257): All parties have registered; the transfer begins after a pod fence. -/
  | xallStart (n : Nat)
  /-- XALL_COMPLETE (R257): A party's slices have landed; its flag clears with its status. -/
  | xallComplete (n : Nat) (x : List (Nat × List Byte))
  /-- BLOCK_PLACEMENT (R382): The scheduler places the head of the highest queue on a cluster. -/
  | blockPlacement (p : Fin 8)
  /-- BLOCK_SAVE (R388): A block is saved whole once all its groups have stopped. -/
  | blockSave (b : Nat)
  /-- PIXEL_WATCHDOG (R388): A pixel group not retired 100 us after the gate closed is saved. -/
  | pixelWatchdog (g : Nat)
  /-- BIN_STAGE (R296): The bin stage runs after a draw's vertex blocks retire. -/
  | binStage (w : Nat)
  /-- PARTIAL_RENDER (R297): A requested partial render renders, resets parameter memory and arrives at the barrier. -/
  | partialRender (w : Nat)
  /-- FINAL_RENDER (R331): The final render runs after the last bin block and partial renders complete. -/
  | finalRender (w : Nat)
  /-- FRAGMENT_RETIRE (R301): A fragment retires through depth test and blend. -/
  | fragmentRetire (g : Nat) (l : Nat)
  /-- NODE_FIRE (R304): A work-graph node fires when each port holds a record with the key. -/
  | nodeFire (c : Slot) (n : Nat) (t : Word)
  /-- REPLAY_COMPLETE (R323): A replay finishes; status and trace length are written and the flag clears. -/
  | replayComplete (n : Nat)
  /-- LEAD_TIME (R395): A head's lead time enqueues the frame entry and pre-empts other contexts. -/
  | leadTime (h : Fin 4)
  /-- DEADLINE (R312): A head reaches its deadline and scans out, counting misses. -/
  | deadline (h : Fin 4)
  /-- CONTROL_INTERVAL (R385): An admission interval boundary computes debt, cap and level. -/
  | controlInterval (c : Fin 8) (m : List (Nat × Nat))
  /-- GOVERNOR_PERIOD (R401): A 1 ms budget period restarts background budgets. -/
  | governorPeriod
  /-- PATROL_SCRUB (R401): A background scrub reads and corrects one ECC block. -/
  | patrolScrub (u : ScrubUnit)
  /-- CORRECTED_ERROR (R402): A corrected memory error is counted and may request page retirement. -/
  | correctedError (a : Nat) (t : Nat)
  /-- UNCORRECTABLE_ERROR (R377): An uncorrectable error marks destroyed bytes with poison. -/
  | uncorrectableError (e : ErrorSite) (t : Nat)
  /-- LOGIC_ERROR (R402): A core logic error kills its block and may fence the core. -/
  | logicError (c : Fin 8) (k : Fin 32) (b : Option Nat) (t : Nat)
  /-- FAULT_BUFFER_RETRY (R367): A group parked for a full fault buffer walks again when a record frees. -/
  | faultBufferRetry (g : Nat)
  /-- FAULT_ANSWER (R372): The service's store to ANSWER resolves a fault record. -/
  | faultAnswer (n : Nat) (a : Word)
  /-- CONTEXT_SAVE_COMPLETE (R352): CTXSAVE's image is written, units freed and the slot becomes FREE. -/
  | contextSaveComplete (c : Slot)
  /-- CONTEXT_LOAD_COMPLETE (R353): CTXLOAD's image has been read and the slot becomes LIVE. -/
  | contextLoadComplete (c : Slot)
  /-- TLBINV_COMPLETE (R355): Every translation cache has dropped the range; the token resolves. -/
  | tlbinvComplete (c : Slot) (t : BitVec 8)
  /-- RESFENCE_COMPLETE (R355): Residency caches and filters are clean; the token resolves. -/
  | resfenceComplete (c : Slot) (t : BitVec 8)
  /-- PGATTR_COMPLETE (R355): The leaf's KIND has been rewritten; the token resolves. -/
  | pgattrComplete (c : Slot) (t : BitVec 8)
  /-- HALT_WAKE (R356): A halted service group wakes on a request, SVC, fault or RAS record. -/
  | haltWake (g : Nat)
  /-- CREATE (R408): Service request to create a context from an image. -/
  | create (q : Req) (a : DWord)
  /-- DESTROY (R408): Service request to save or discard a context. -/
  | destroy (q : Req) (a : DWord)
  /-- MAP (R408): Service request to store page-table entries. -/
  | mapPages (q : Req) (x : List (DWord × Name))
  /-- UNMAP (R408): Service request to invalidate leaves and TLBs. -/
  | unmapPages (q : Req) (a : DWord) (n : Word)
  /-- RESIDENCY (R408): Service request to set or clear a residency bit with RESFENCE. -/
  | residency (q : Req) (a : DWord) (l : Byte) (v : Byte) (p : Word)
  /-- ENQUEUE (R408): Service request to append entries to a route. -/
  | enqueue (q : Req) (r : Word) (x : List DWord)
  /-- READ (R408): Service request to read memory with an acquire. -/
  | readMem (q : Req) (a : DWord) (n : Word)
  /-- WRITE (R408): Service request to write memory with a release. -/
  | writeMem (q : Req) (a : DWord) (x : List Byte)
  /-- WATCH_REQUEST (R412): Service request performed by launching a WATCH task. -/
  | watchRequest (q : Req) (n : Byte) (x : List Byte)
  /-- REPLAY_REQUEST (R412): Service request performed by launching a REPLAY task. -/
  | replayRequest (q : Req) (a : DWord) (t : DWord)
  /-- TELEMETRY (R411): Service request returning device counters. -/
  | telemetry (q : Req)
  /-- RASLOG_REQUEST (R408): Service request returning up to 32 RAS records. -/
  | raslogRequest (q : Req)
  /-- ATTEST (R421): Service request returning a signed identity statement. -/
  | attest (q : Req) (x : List Byte)
  /-- BOOTSTATUS (R423): Service request returning the three bring-up words. -/
  | bootstatus (q : Req)
  /-- SVCANSWER (R408): Service request answering an SVC and waking its group. -/
  | svcanswer (q : Req) (t : Word) (a : Word)
  /-- FAULTANSWER (R408): Service request giving the answer for a pending fault record. -/
  | faultanswer (q : Req) (t : Word) (a : Word)
  /-- RESUME (R408): Service request releasing a group stopped by BREAK. -/
  | resume (q : Req) (t : Word)
  /-- BIND (R413): Service request rebinding an unbound slot to a connection. -/
  | bindSlot (q : Req) (t : DWord)
  /-- UE_PACKET_REFUSED (R406): A packet of a refused Ultra Ethernet mode is dropped and counted. -/
  | uePacketRefused (p : Fin 4)
  /-- CONNECTION_CLOSE (R413): A bound connection closes and the slot becomes unbound. -/
  | connectionClose (n : Nat)
  /-- ROUTE_ENABLE (R415): ROUTECTL write with EN 1 loads HEAD and TAIL into the route cache. -/
  | routeEnable (c : Slot) (r : BitVec 12)
  /-- ROUTE_DISABLE (R415): ROUTECTL write with EN 0 writes HEAD and TAIL back. -/
  | routeDisable (c : Slot) (r : BitVec 12)
  /-- ROUTE_WRITEBACK_DONE (R415): The route cache finishes and ROUTESTAT.BUSY reads 0. -/
  | routeWritebackDone (c : Slot) (r : BitVec 12)
  /-- HEADCTL_WRITE (R394): Write of a display head's control register. -/
  | headctlWrite (h : Fin 4) (v : Word)
  /-- REGISTER_WRITE (R393): Write to a device register with no behaviour of its own. -/
  | registerWrite (a : BitVec 17) (v : Word)
  /-- LINK_TRAINING (R417): Tombinos link training assigns the pod id. -/
  | linkTraining (x : List (Option (Fin 144)))
  /-- PEER_REQUEST (R418): A load, store or ATOMX flit from a peer is performed for a local page. -/
  | peerRequest (p : PeerFlit)
  /-- PEER_ENQUEUE (R418): A peer's RENQ arrives and is appended or refused. -/
  | peerEnqueue (c : Slot) (r : BitVec 12) (e : DWord)
  /-- PEER_LOST (R418): Every path to a peer is down or silent for 10 ms. -/
  | peerLost (p : Fin 144)
  /-- BOOT (R422): Reset runs bring-up from image verification to the service. -/
  | boot (b : BringUp)
  /-- POWER_DOWN (R397): Logic rails reach 0 V before the SRAM rail falls. -/
  | powerDown
  /-- POWER_UP (R397): At power-up the SRAM rail settles before any logic rail leaves 0 V. -/
  | powerUp
  /-- PORT_DOWN (R418): A Tombinos port goes down, and line traffic moves to the next port that is up. -/
  | portDown (p : Fin 18)
  deriving DecidableEq, Repr

end Sys2Proof
end

