-- ==== Sys2Proof/WellFormed.lean ====
section
/-! DEFINITION. Well-formed instructions: the limits of 06 R126, R127 and of the instructions' entries
that an operand can break. The decoder raises ILLEGAL where one is broken. Events have no word and no
limit here. -/

namespace Sys2Proof

/-- A register number is even (R126). -/
def even (r : Fin 128) : Bool := r.val % 2 == 0

/-- A span of n vector registers passes neither v119 nor t7 and does not cross (R126). -/
def vspan (r : VReg) (n : Nat) : Bool :=
  if r.val < 120 then decide (r.val + n ≤ 120) else decide (r.val + n ≤ 128)

/-- A span of n scalar registers does not pass s127 (R126). -/
def sspan (r : SReg) (n : Nat) : Bool := decide (r.val + n ≤ 128)

/-- An even pair of vector registers. -/
def vpair (r : VReg) : Bool := even r && vspan r 2

/-- An even pair of scalar registers. -/
def spair (r : SReg) : Bool := even r && sspan r 2

/-- The destination SRD needs for a special register (R164): a span of four for LIN, an even pair for a
64-bit register. -/
def SpecReg.destOk (n : SpecReg) (span : Nat → Bool) (pair : Bool) : Bool :=
  match n with
  | .lin => span 4
  | .cycle | .energy | .routebase => pair && span 2
  | _ => true

/-- A .f64 operand is a pair (R193). -/
def FTy.pairOk (t : FTy) (r : VReg) : Bool := match t with | .f64 => vpair r | _ => true

/-- A .f64 operand is a pair (R205). -/
def Prec.pairOk (t : Prec) (r : VReg) : Bool := match t with | .f64 => vpair r | _ => true

/-- A 64-bit type's operand is a pair (R206). -/
def NumTy.pairOk (t : NumTy) (r : VReg) : Bool :=
  match t with | .s64 | .u64 | .f64 => vpair r | _ => true

/-- The destination type of CVTN. -/
def Narrow.dst : Narrow → NumTy
  | .f16f32 | .f16f64 => .f16
  | .bf16f32 | .bf16f64 => .bf16
  | .f32f64 => .f32

/-- The source type of CVTN. -/
def Narrow.src : Narrow → NumTy
  | .f16f32 | .bf16f32 => .f32
  | _ => .f64

/-- A 64-bit type's operand is a pair (R220). -/
def RedTy.pairOk (t : RedTy) (r : VReg) : Bool :=
  match t with | .s64 | .u64 | .f64 => vpair r | _ => true

/-- A float type of REDUCE. -/
def RedTy.isFloat : RedTy → Bool | .f32 | .f64 => true | _ => false

/-- The refused combinations of R138. -/
def RedOp.ok (o : RedOp) (t : RedTy) (r : Rnd) : Bool :=
  (match o with | .and | .or | .xor => !t.isFloat | _ => true) &&
    (decide (r = .rn) || (t.isFloat && decide (o = .add)))

/-- The registers a load or store of this size spans (R229). -/
def LdSize.words : LdSize → Nat | .b64 => 2 | .b128 => 4 | _ => 1

/-- The bytes of an access of this size (R229). -/
def LdSize.bytes : LdSize → Nat
  | .b8 | .s8 => 1 | .b16 | .s16 => 2 | .b32 => 4 | .b64 => 8 | .b128 => 16

/-- A vector data register of R229: .b64 and .b128 begin at an even one. -/
def LdSize.vOk (z : LdSize) (d : VReg) : Bool := (z.words == 1 || even d) && vspan d z.words

/-- A scalar data register of R229. -/
def LdSize.sOk (z : LdSize) (d : SReg) : Bool := (z.words == 1 || even d) && sspan d z.words

/-- The number of a scope (R128). -/
def Scope.code : Scope → Nat | .grp => 0 | .core => 1 | .clu => 2 | .dev => 3 | .pod => 4

/-- A scope lies between two codes. -/
def Scope.within (w : Scope) (lo hi : Nat) : Bool := decide (lo ≤ w.code ∧ w.code ≤ hi)

/-- .acq and .rel stand only on sizes of 4 bytes and more (R229, R235), at the scopes of R228. -/
def LdSize.ordOk (z : LdSize) (q : Option Scope) (lo hi : Nat) : Bool :=
  match q with
  | none => true
  | some w => decide (4 ≤ z.bytes) && w.within lo hi

/-- A narrowing store has size .b16 (R140). -/
def LdSize.narrowOk (z : LdSize) (w : StNarrow) : Bool := decide (w = .none ∨ z = .b16)

/-- The words of an LOD value (R230, R234). -/
def LodSize.words : LodSize → Nat | .b32 => 1 | .b64 => 2 | .b128 => 4

/-- An LDLOD destination of more than one register begins at an even one (R126, R229). -/
def LodSize.evenOk (z : LodSize) (d : VReg) : Bool := z.words == 1 || even d

/-- The base of a global access is a pair (R130). -/
def MemX.globalOk : MemX → Bool
  | .base b _ | .baseXi b _ | .idx b _ _ _ => spair b
  | .vbase a _ | .vbaseXi a _ => vpair a

/-- The scalar form `[sB + off]` (R228). -/
def MemX.isBase : MemX → Bool | .base _ _ | .baseXi _ _ => true | _ => false

/-- A 64-bit atomic type. -/
def AtomTy.is64 : AtomTy → Bool | .s64 | .u64 => true | _ => false

/-- A 64-bit atomic type's register is a pair (R238). -/
def AtomTy.pairOk (t : AtomTy) (r : VReg) : Bool := !t.is64 || vpair r

/-- f32 takes only .add, .min, .max, .exch and .cas (R140). -/
def AtomOp.ok (o : AtomOp) (t : AtomTy) : Bool :=
  match t, o with | .f32, .and | .f32, .or | .f32, .xor => false | _, _ => true

/-- The operand of an atomic, doubled for .cas (R238). -/
def AtomOp.operandOk (o : AtomOp) (t : AtomTy) (c : VReg) : Bool :=
  t.pairOk c && vspan c ((if t.is64 then 2 else 1) * (if o = .cas then 2 else 1))

/-- The instruction's operands meet the limits of its entry (DEDUCED, log entry 47). -/
def Instr.wellFormed : Instr → Bool
  | .sadd _ _ _ => true
  | .ssub _ _ _ => true
  | .smul _ _ _ => true
  | .smulh _ _ _ => true
  | .smulhU _ _ _ => true
  | .sand _ _ _ => true
  | .sor _ _ _ => true
  | .sxor _ _ _ => true
  | .sshl _ _ _ => true
  | .sshr _ _ _ => true
  | .ssar _ _ _ => true
  | .smin _ _ _ => true
  | .smax _ _ _ => true
  | .sminu _ _ _ => true
  | .smaxu _ _ _ => true
  | .ssel _ _ _ _ => true
  | .sclz _ _ => true
  | .spop _ _ => true
  | .smov _ _ => true
  | .scmpEq _ _ _ => true
  | .scmpNe _ _ _ => true
  | .scmpLt _ _ _ => true
  | .scmpLe _ _ _ => true
  | .scmpGt _ _ _ => true
  | .scmpGe _ _ _ => true
  | .scmpLtu _ _ _ => true
  | .scmpLeu _ _ _ => true
  | .scmpGtu _ _ _ => true
  | .scmpGeu _ _ _ => true
  | .smovi _ _ => true
  | .saddiShort _ _ _ => true
  | .saddiXi _ _ _ => true
  | .slit _ _ => true
  | .srdS d n => SpecReg.destOk n (fun k => sspan d k) (even d)
  | .srdV d n => SpecReg.destOk n (fun k => vspan d k) (vpair d)
  | .swr _ n => decide (n = .vbase ∨ n = .sbase ∨ n = .svcarg)
  | .swin i => decide (i.toNat % 32 = 0)
  | .vwin i => decide (i.toNat % 8 = 0)
  | .bra _ _ => true
  | .brs _ _ => true
  | .brsZ _ _ => true
  | .jmp _ => true
  | .brx t => vpair t
  | .call l _ => vpair l
  | .callx l t => vpair l && vpair t
  | .ret l => vpair l
  | .lpad _ => true
  | .kset _ => true
  | .join _ => true
  | .exitLanes => true
  | .trap _ => true
  | .brk _ => true
  | .nop => true
  | .perf _ => true
  | .launch v => vpair v
  | .launchOrd v => vpair v
  | .renq _ e => vpair e
  | .rdeq d _ => spair d
  | .svc _ => true
  | .vadd _ _ _ => true
  | .vsub _ _ _ => true
  | .vmul _ _ _ => true
  | .vmulhS32 _ _ _ => true
  | .vmulhU32 _ _ _ => true
  | .vmad _ _ _ _ => true
  | .vaddc _ _ _ _ => true
  | .vand _ _ _ => true
  | .vor _ _ _ => true
  | .vxor _ _ _ => true
  | .vshl _ _ _ => true
  | .vshr _ _ _ => true
  | .vsar _ _ _ => true
  | .vminS32 _ _ _ => true
  | .vminU32 _ _ _ => true
  | .vmaxS32 _ _ _ => true
  | .vmaxU32 _ _ _ => true
  | .vabs _ _ => true
  | .vclz _ _ => true
  | .vpop _ _ => true
  | .vbfeS32 _ _ _ _ => true
  | .vbfeU32 _ _ _ _ => true
  | .vbfi _ _ _ _ => true
  | .vsel _ _ _ _ => true
  | .vmov _ _ => true
  | .vmovi _ _ => true
  | .vlit _ _ => true
  | .vcmpEqS32 _ _ _ => true
  | .vcmpNeS32 _ _ _ => true
  | .vcmpLtS32 _ _ _ => true
  | .vcmpLeS32 _ _ _ => true
  | .vcmpGtS32 _ _ _ => true
  | .vcmpGeS32 _ _ _ => true
  | .vcmpEqU32 _ _ _ => true
  | .vcmpNeU32 _ _ _ => true
  | .vcmpLtU32 _ _ _ => true
  | .vcmpLeU32 _ _ _ => true
  | .vcmpGtU32 _ _ _ => true
  | .vcmpGeU32 _ _ _ => true
  | .fadd t _ d a b => t.pairOk d && t.pairOk a && t.pairOk b
  | .fsub t _ d a b => t.pairOk d && t.pairOk a && t.pairOk b
  | .fmul t _ d a b => t.pairOk d && t.pairOk a && t.pairOk b
  | .ffma t _ d a b c => t.pairOk d && t.pairOk a && t.pairOk b && t.pairOk c
  | .fmin t d a b => t.pairOk d && t.pairOk a && t.pairOk b
  | .fmax t d a b => t.pairOk d && t.pairOk a && t.pairOk b
  | .fcmp t _ _ a b => t.pairOk a && t.pairOk b
  | .fdot2 _ _ _ _ _ => true
  | .cvt dt sty _ d a => decide (dt ≠ sty) && dt.pairOk d && sty.pairOk a
  | .cvtn n _ d a => n.dst.pairOk d && n.src.pairOk a
  | .frcp t _ d a => t.pairOk d && t.pairOk a
  | .frsq t d a => t.pairOk d && t.pairOk a
  | .fsqrt t _ d a => t.pairOk d && t.pairOk a
  | .fdiv t _ d a b => t.pairOk d && t.pairOk a && t.pairOk b
  | .fexp2 t d a => t.pairOk d && t.pairOk a
  | .flog2 t d a => t.pairOk d && t.pairOk a
  | .fsin t d a => t.pairOk d && t.pairOk a
  | .fcos t d a => t.pairOk d && t.pairOk a
  | .fround t _ d a => t.pairOk d && t.pairOk a
  | .ffract t d a => t.pairOk d && t.pairOk a
  | .fclass t _ a => t.pairOk a
  | .qswapH _ _ => true
  | .qswapV _ _ => true
  | .qswapD _ _ => true
  | .ddxFine _ _ => true
  | .ddxCoarse _ _ => true
  | .ddyFine _ _ => true
  | .ddyCoarse _ _ => true
  | .shflIdx _ _ _ => true
  | .shflUp _ _ _ => true
  | .shflDown _ _ _ => true
  | .shflXor _ _ _ => true
  | .voteAny _ _ => true
  | .voteAll _ _ => true
  | .voteBallot d _ => vpair d
  | .matchAny d _ => vpair d
  | .reduce o t r d a => t.pairOk d && t.pairOk a && RedOp.ok o t r
  | .scan o t r d a => t.pairOk d && t.pairOk a && RedOp.ok o t r
  | .actmask d => vpair d
  | .ishelp _ => true
  | .pand _ _ _ => true
  | .por _ _ _ => true
  | .pxor _ _ _ => true
  | .pnot _ _ => true
  | .pmov _ _ => true
  | .ld z d b _ => z.vOk d && spair b
  | .ldX z q d m => z.vOk d && m.globalOk && z.ordOk q 0 4
  | .lds z d _ _ => z.vOk d
  | .ldsX z q d _ => z.vOk d && z.ordOk q 0 2
  | .ldc z d _ _ => z.vOk d
  | .ldcX z q d _ => z.vOk d && z.ordOk q 1 2
  | .sld z d b _ => z.sOk d && spair b
  | .sldX z q d m => z.sOk d && m.globalOk && m.isBase && z.ordOk q 0 4
  | .ldlod z d b _ => z.evenOk d && vspan d (z.words + 1) && spair b
  | .ldlodX _ z d m => z.evenOk d && vspan d (z.words + 1) && m.globalOk
  | .ldbrk _ m _ => m.globalOk
  | .tex u z d s c => vspan d (z.words + 1) && spair s && vspan c (if u = .auto then 2 else 3)
  | .texg _ d s c => vspan d 5 && spair s && vspan c 3
  | .st z d b _ => z.vOk d && spair b
  | .stX z w q d m => z.vOk d && m.globalOk && z.ordOk q 0 4 && z.narrowOk w
  | .sts z d _ _ => z.vOk d
  | .stsX z w q d _ => z.vOk d && z.ordOk q 0 2 && z.narrowOk w
  | .stc z d _ _ => z.vOk d
  | .stcX z w q d _ => z.vOk d && z.ordOk q 1 2 && z.narrowOk w
  | .sst z d b _ => z.sOk d && spair b
  | .sstX z w q d m => z.sOk d && m.globalOk && m.isBase && z.ordOk q 0 4 && z.narrowOk w
  | .stbrk _ _ m => m.globalOk && m.isBase
  | .atom o t _ w d m c => t.pairOk d && AtomOp.operandOk o t c && m.globalOk && AtomOp.ok o t && w.within 0 3
  | .atoms o t _ w d _ c => t.pairOk d && AtomOp.operandOk o t c && AtomOp.ok o t && w.within 0 2
  | .red o t _ w m c => AtomOp.operandOk o t c && m.globalOk && AtomOp.ok o t && decide (o ≠ .exch ∧ o ≠ .cas) && w.within 0 3
  | .atomx o t _ w d m c => t.pairOk d && AtomOp.operandOk o t c && m.globalOk && AtomOp.ok o t && w.within 3 4
  | .cpaB32 _ g _ => spair g
  | .cpaB64 _ g _ => spair g
  | .cpaB128 _ g _ => spair g
  | .cpb _ _ _ => true
  | .prefr _ a _ => spair a
  | .tokw _ _ => true
  | .femarkFull _ _ => true
  | .femarkEmpty _ _ => true
  | .waitcToken _ _ => true
  | .waitcBarrier _ => true
  | .bar => true
  | .mbara _ => true
  | .mbarw _ _ => true
  | .fenceAcq _ => true
  | .fenceRel _ => true
  | .fenceSc _ => true
  | .opfence => true
  | .xall _ a => even a && sspan a 8
  | .cflush a _ => spair a
  | .mma t h _ _ _ => decide (h ≠ .deep ∨ t ≠ .bfp)
  | .mloop _ h _ p => even p && sspan p 8 && decide (h ≠ .deep)
  | .mzero _ => true
  | .mldz _ _ a => spair a
  | .mstz _ _ a => spair a
  | .mqnt _ _ a => spair a
  | .mstat _ _ => true
  | .hld _ b _ => spair b
  | .hst _ b _ => spair b
  | .hmov _ _ => true
  | .hbind _ _ _ => true
  | .hperm _ _ _ => true
  | .hbund _ _ => true
  | .hthr _ _ => true
  | .hclrc _ => true
  | .hham _ _ _ => true
  | .hnear d _ _ _ => spair d
  | .htie _ => true
  | .hbit _ _ _ => true
  | .gopenW1 p _ _ => spair p
  | .gopenW2 p _ _ => spair p
  | .gopenW3 p _ _ => spair p
  | .gopenW4 p _ _ => spair p
  | .gyield _ => true
  | .gtake _ => true
  | .gback => true
  | .gdone => true
  | .gclose => true
  | .repack _ => true
  | .travb r d => vspan r 8 && spair d
  | .travs d => vspan d 5
  | .travc _ => true
  | .trave => true
  | .draw _ a _ => spair a
  | .vxemit _ _ => true
  | .primemit _ _ => true
  | .pxout _ a => vspan a 4
  | .discard => true
  | .depw _ => true
  | .wrec _ _ _ => true
  | .linset _ => true
  | .watch _ a => spair a
  | .replay d a => spair d && even a && sspan a 4
  | .eret => true
  | .ctxsave _ _ a => spair a
  | .ctxload _ _ a => spair a
  | .ovtbl _ _ => true
  | .tlbinv _ r => even r && sspan r 4
  | .resfence _ _ => true
  | .pgattr _ r => even r && sspan r 4
  | .admitCluster r => even r && sspan r 4
  | .raslog _ a => spair a
  | .halt => true
  | .hint _ => true
  | .clauseBegin _ _ => true
  | .flagClear _ _ => true
  | .fairnessTimer _ => true
  | .joinRelease _ _ => true
  | .groupRetire _ => true
  | .repackComplete _ _ => true
  | .routeEntryWake _ _ => true
  | .routeSpaceWake _ _ => true
  | .caravanLand _ => true
  | .fullBitWake _ => true
  | .continuationSpawn _ => true
  | .tokenResolve _ _ => true
  | .barrierResolve _ => true
  | .phaseBarrierWake _ => true
  | .mloopIteration _ _ => true
  | .thermalSample _ _ => true
  | .engineSwitch _ _ => true
  | .xallRegistration _ => true
  | .xallStart _ => true
  | .xallComplete _ _ => true
  | .blockPlacement _ => true
  | .blockSave _ => true
  | .pixelWatchdog _ => true
  | .binStage _ => true
  | .partialRender _ => true
  | .finalRender _ => true
  | .fragmentRetire _ _ => true
  | .nodeFire _ _ _ => true
  | .replayComplete _ => true
  | .leadTime _ => true
  | .deadline _ => true
  | .controlInterval _ _ => true
  | .governorPeriod => true
  | .patrolScrub _ => true
  | .correctedError _ _ => true
  | .uncorrectableError _ _ => true
  | .logicError _ _ _ _ => true
  | .faultBufferRetry _ => true
  | .faultAnswer _ _ => true
  | .contextSaveComplete _ => true
  | .contextLoadComplete _ => true
  | .tlbinvComplete _ _ => true
  | .resfenceComplete _ _ => true
  | .pgattrComplete _ _ => true
  | .haltWake _ => true
  | .create _ _ => true
  | .destroy _ _ => true
  | .mapPages _ _ => true
  | .unmapPages _ _ _ => true
  | .residency _ _ _ _ _ => true
  | .enqueue _ _ _ => true
  | .readMem _ _ _ => true
  | .writeMem _ _ _ => true
  | .watchRequest _ _ _ => true
  | .replayRequest _ _ _ => true
  | .telemetry _ => true
  | .raslogRequest _ => true
  | .attest _ _ => true
  | .bootstatus _ => true
  | .svcanswer _ _ _ => true
  | .faultanswer _ _ _ => true
  | .resume _ _ => true
  | .bindSlot _ _ => true
  | .uePacketRefused _ => true
  | .connectionClose _ => true
  | .routeEnable _ _ => true
  | .routeDisable _ _ => true
  | .routeWritebackDone _ _ => true
  | .headctlWrite _ _ => true
  | .registerWrite _ _ => true
  | .linkTraining _ => true
  | .peerRequest _ => true
  | .peerEnqueue _ _ _ => true
  | .peerLost _ => true
  | .boot _ => true
  | .powerDown => true
  | .powerUp => true
  | .portDown _ => true

end Sys2Proof
end

