-- ==== Sys2Proof/Decode.lean ====
section
/-! DEFINITION. Decoding of instruction words (06 R116-R154), total on any words and rejecting by name,
and the encoder written from the same tables. Words and fields are natural numbers here. -/

namespace Sys2Proof

/-- The decode traps of R153. -/
inductive Trap where
  | clause | priv | illegal | mtype
  deriving DecidableEq, Repr

/-- The field of `len` bits from bit `lo` (R1). -/
def fld (w lo len : Nat) : Nat := w / 2 ^ lo % 2 ^ len

/-- A number below 128 as a register. -/
def n7 (n : Nat) : Fin 128 := ⟨n % 128, Nat.mod_lt _ (by decide)⟩

/-- A number below 16 as a register. -/
def n4 (n : Nat) : Fin 16 := ⟨n % 16, Nat.mod_lt _ (by decide)⟩

/-- A 7-bit register field. -/
def r7 (w lo : Nat) : Fin 128 := ⟨w / 2 ^ lo % 128, Nat.mod_lt _ (by decide)⟩

/-- A 4-bit register field. -/
def r4 (w lo : Nat) : Fin 16 := ⟨w / 2 ^ lo % 16, Nat.mod_lt _ (by decide)⟩

/-- A 3-bit register field. -/
def r3 (w lo : Nat) : Fin 8 := ⟨w / 2 ^ lo % 8, Nat.mod_lt _ (by decide)⟩

/-- A 2-bit register field. -/
def r2 (w lo : Nat) : Fin 4 := ⟨w / 2 ^ lo % 4, Nat.mod_lt _ (by decide)⟩

/-- The immediate in the low `n` bits. -/
def imm (n w : Nat) : BitVec n := BitVec.ofNat n w

/-- The instruction, when what the fields must hold is there; otherwise ILLEGAL (R127). -/
def okIf (b : Bool) (i : Instr) : Except Trap Instr := if b then .ok i else .error .illegal

/-- A rounding code (R128). -/
def Rnd.code : Rnd → Nat | .rn => 0 | .rz => 1 | .ru => 2 | .rd => 3
/-- The rounding mode of a code. -/
def Rnd.ofCode : Nat → Rnd | 0 => .rn | 1 => .rz | 2 => .ru | _ => .rd

/-- A SEM code (R128). -/
def Sem.code : Sem → Nat | .rlx => 0 | .acq => 1 | .rel => 2 | .ar => 3
/-- The semantics of a code. -/
def Sem.ofCode : Nat → Sem | 0 => .rlx | 1 => .acq | 2 => .rel | _ => .ar

/-- The scope of a code; 5 to 7 have none (R128). -/
def Scope.ofCode : Nat → Option Scope
  | 0 => some .grp | 1 => some .core | 2 => some .clu | 3 => some .dev | 4 => some .pod | _ => none

/-- SCOPE of an access, 0 when it is plain (R130). -/
def Scope.optCode : Option Scope → Nat | none => 0 | some w => w.code

/-- A special register's number (R163). -/
def SpecReg.code : SpecReg → Nat
  | .lin => 0 | .lane => 1 | .gid => 2 | .bid => 3 | .core => 4 | .cluster => 5 | .width => 6
  | .partword => 7 | .gstatus => 8 | .cycle => 9 | .energy => 10 | .serai => 11 | .routebase => 12
  | .spbase => 13 | .vbase => 14 | .sbase => 15 | .svcarg => 16 | .perf => 17

/-- The special register of a number; others are unassigned (R163). -/
def SpecReg.ofCode : Nat → Option SpecReg
  | 0 => some .lin | 1 => some .lane | 2 => some .gid | 3 => some .bid | 4 => some .core
  | 5 => some .cluster | 6 => some .width | 7 => some .partword | 8 => some .gstatus
  | 9 => some .cycle | 10 => some .energy | 11 => some .serai | 12 => some .routebase
  | 13 => some .spbase | 14 => some .vbase | 15 => some .sbase | 16 => some .svcarg
  | 17 => some .perf | _ => none

/-- The type field of class 0x4 (R136). -/
def FTy.code : FTy → Nat | .f64 => 0 | .f32 => 1 | .f16x2 => 2 | .bf16x2 => 3
/-- The type of a code. -/
def FTy.ofCode : Nat → FTy | 0 => .f64 | 1 => .f32 | 2 => .f16x2 | _ => .bf16x2

/-- The type field of FDOT2 (R204). -/
def Half.code : Half → Nat | .f16 => 2 | .bf16 => 3

/-- The OPC code of a condition of FCMP (R136). -/
def FCond.code : FCond → Nat
  | .eq => 0 | .ne => 1 | .lt => 2 | .le => 3 | .gt => 4 | .ge => 5 | .un => 6
/-- The condition of a code; 7 to 15 have none. -/
def FCond.ofCode : Nat → Option FCond
  | 0 => some .eq | 1 => some .ne | 2 => some .lt | 3 => some .le | 4 => some .gt | 5 => some .ge
  | 6 => some .un | _ => none

/-- A type code (R129). -/
def NumTy.code : NumTy → Nat
  | .s8 => 0 | .s16 => 1 | .s32 => 2 | .s64 => 3 | .u32 => 4 | .u64 => 5 | .f16 => 6 | .bf16 => 7
  | .f32 => 8 | .f64 => 9
/-- The type of a code (R129, R137). -/
def NumTy.ofCode : Nat → Option NumTy
  | 0 => some .s8 | 1 => some .s16 | 2 => some .s32 | 3 => some .s64 | 4 => some .u32
  | 5 => some .u64 | 6 => some .f16 | 7 => some .bf16 | 8 => some .f32 | 9 => some .f64 | _ => none

/-- The pairs of CVTN (R208). -/
def Narrow.ofCodes : Nat → Nat → Option Narrow
  | 6, 8 => some .f16f32 | 7, 8 => some .bf16f32 | 8, 9 => some .f32f64 | 6, 9 => some .f16f64
  | 7, 9 => some .bf16f64 | _, _ => none

/-- The type bit of class 0x5 (R137). -/
def Prec.code : Prec → Nat | .f32 => 0 | .f64 => 1
/-- The type of the bit. -/
def Prec.ofCode : Nat → Prec | 0 => .f32 | _ => .f64

/-- The OPC code of a reduction (R138). -/
def RedOp.code : RedOp → Nat | .add => 0 | .min => 1 | .max => 2 | .and => 3 | .or => 4 | .xor => 5
/-- The reduction of a code. -/
def RedOp.ofCode : Nat → Option RedOp
  | 0 => some .add | 1 => some .min | 2 => some .max | 3 => some .and | 4 => some .or
  | 5 => some .xor | _ => none

/-- A type code of a reduction (R138). -/
def RedTy.code : RedTy → Nat | .s32 => 2 | .s64 => 3 | .u32 => 4 | .u64 => 5 | .f32 => 8 | .f64 => 9
/-- The reduction type of a code. -/
def RedTy.ofCode : Nat → Option RedTy
  | 2 => some .s32 | 3 => some .s64 | 4 => some .u32 | 5 => some .u64 | 8 => some .f32
  | 9 => some .f64 | _ => none

/-- A size code (R139). -/
def LdSize.code : LdSize → Nat
  | .b8 => 0 | .b16 => 1 | .b32 => 2 | .b64 => 3 | .b128 => 4 | .s8 => 5 | .s16 => 6
/-- The size of a code; 7 has none. -/
def LdSize.ofCode : Nat → Option LdSize
  | 0 => some .b8 | 1 => some .b16 | 2 => some .b32 | 3 => some .b64 | 4 => some .b128
  | 5 => some .s8 | 6 => some .s16 | _ => none

/-- A size code of LDLOD and TEX (R139). -/
def LodSize.code : LodSize → Nat | .b32 => 2 | .b64 => 3 | .b128 => 4
/-- The size of a code; the others are refused. -/
def LodSize.ofCode : Nat → Option LodSize
  | 2 => some .b32 | 3 => some .b64 | 4 => some .b128 | _ => none

/-- TYA of a narrowing store (R140). -/
def StNarrow.code : StNarrow → Nat | .none => 0 | .f16 => 6 | .bf16 => 7
/-- The narrowing of TYA. -/
def StNarrow.ofCode : Nat → Option StNarrow
  | 0 => some .none | 6 => some .f16 | 7 => some .bf16 | _ => .none

/-- The OPC code of a TEX mode (R233). -/
def TexMode.code : TexMode → Nat | .auto => 0 | .level => 1 | .bias => 2
/-- The mode of a code. -/
def TexMode.ofCode : Nat → Option TexMode
  | 0 => some .auto | 1 => some .level | 2 => some .bias | _ => none

/-- TYA of a brick kind (R140). -/
def BrickTy.tya : BrickTy → Nat | .int8 => 0 | .f16 => 6 | .bf16 => 7 | .bfp _ => 10
/-- TYB of a brick kind. -/
def BrickTy.tyb : BrickTy → Nat | .bfp m => m.val | _ => 0
/-- The brick kind of TYA and TYB. -/
def BrickTy.ofCodes (a b : Nat) : Option BrickTy :=
  if a = 10 then (if h : b < 7 then some (.bfp ⟨b, h⟩) else none)
  else if b ≠ 0 then none
  else if a = 0 then some .int8 else if a = 6 then some .f16 else if a = 7 then some .bf16 else none

/-- The OPC code of an atomic (R140). -/
def AtomOp.code : AtomOp → Nat
  | .add => 0 | .min => 1 | .max => 2 | .and => 3 | .or => 4 | .xor => 5 | .exch => 6 | .cas => 7
/-- The atomic of a code. -/
def AtomOp.ofCode : Nat → Option AtomOp
  | 0 => some .add | 1 => some .min | 2 => some .max | 3 => some .and | 4 => some .or
  | 5 => some .xor | 6 => some .exch | 7 => some .cas | _ => none

/-- The type code of an atomic (R140). -/
def AtomTy.code : AtomTy → Nat | .s32 => 2 | .s64 => 3 | .u32 => 4 | .u64 => 5 | .f32 => 8
/-- The atomic type of a code at a width. -/
def AtomTy.ofCode (w64 : Bool) : Nat → Option AtomTy
  | 2 => if w64 then none else some .s32
  | 3 => if w64 then some .s64 else none
  | 4 => if w64 then none else some .u32
  | 5 => if w64 then some .u64 else none
  | 8 => if w64 then none else some .f32
  | _ => none

/-- The type code of a matrix operand (R142). -/
def MatTy.code : MatTy → Nat | .f16 => 6 | .bf16 => 7 | .f32 => 8 | .bfp => 10
/-- The operand type of a code. -/
def MatTy.ofCode : Nat → Option MatTy
  | 6 => some .f16 | 7 => some .bf16 | 8 => some .f32 | 10 => some .bfp | _ => none

/-- OPC of a shape (R262). -/
def MatShape.code : MatShape → Nat | .view _ => 0 | .whole => 1 | .deep => 2
/-- XM.C of a shape: the view's number. -/
def MatShape.viewNo : MatShape → Nat | .view n => n.val | _ => 0
/-- The shape of OPC and C. -/
def MatShape.ofCodes (o c : Nat) : Option MatShape :=
  if o = 0 then (if h : c < 16 then some (.view ⟨c, h⟩) else none)
  else if c ≠ 0 then none
  else if o = 1 then some .whole else if o = 2 then some .deep else none

/-- The type code of a tile load or store (R269). -/
def TileTy.code : TileTy → Nat | .f16 => 6 | .bf16 => 7 | .f32 => 8
/-- The type of a code. -/
def TileTy.ofCode : Nat → Option TileTy
  | 6 => some .f16 | 7 => some .bf16 | 8 => some .f32 | _ => none

/-- TYA of MQNT (R270). -/
def QuantTy.tya : QuantTy → Nat | .bfp _ => 10 | .int8 => 0
/-- TYB of MQNT. -/
def QuantTy.tyb : QuantTy → Nat | .bfp m => m.val | .int8 => 0
/-- The kind of TYA and TYB. -/
def QuantTy.ofCodes (a b : Nat) : Option QuantTy :=
  if a = 10 then (if h : b < 7 then some (.bfp ⟨b, h⟩) else none)
  else if a = 0 ∧ b = 0 then some .int8 else none

/-- The fields of an XM word (R128). -/
structure Xm where
  c     : Nat := 0
  scope : Nat := 0
  sem   : Nat := 0
  rnd   : Nat := 0
  opc   : Nat := 0
  tya   : Nat := 0
  tyb   : Nat := 0
  am    : Nat := 0
  sc    : Nat := 0
  xi    : Nat := 0
  rsv   : Nat := 0
  deriving DecidableEq, Repr

/-- The fields of a word read as XM. -/
def Xm.ofNat (n : Nat) : Xm :=
  { c := fld n 25 7, scope := fld n 22 3, sem := fld n 20 2, rnd := fld n 18 2, opc := fld n 14 4,
    tya := fld n 10 4, tyb := fld n 6 4, am := fld n 4 2, sc := fld n 3 1, xi := fld n 2 1,
    rsv := fld n 0 2 }

/-- The XM word of its fields. -/
def Xm.toNat (x : Xm) : Nat :=
  x.c * 2 ^ 25 + x.scope * 2 ^ 22 + x.sem * 2 ^ 20 + x.rnd * 2 ^ 18 + x.opc * 2 ^ 14 +
    x.tya * 2 ^ 10 + x.tyb * 2 ^ 6 + x.am * 2 ^ 4 + x.sc * 2 ^ 3 + x.xi * 2 ^ 2 + x.rsv

/-- Every field the instruction does not use holds 0 (R127, R128): `u` repeats the used ones. -/
def Xm.only (x u : Xm) : Bool := decide (x = u)

/-- The address of the M forms that carry XM (R130); a scale with AM other than 1 is an unused field. -/
def MemX.parse (b : Nat) (o : Nat) (x : Xm) (y : Nat) : Option MemX :=
  if x.am = 0 then
    if x.sc ≠ 0 then none
    else if x.xi = 0 then some (.base (n7 b) (imm 7 o))
    else if o = 0 then some (.baseXi (n7 b) (imm 32 y)) else none
  else if x.am = 1 then
    some (.idx (n7 b) (n7 o) (x.sc == 1) (if x.xi = 1 then some (imm 32 y) else none))
  else if x.am = 2 then
    if x.sc ≠ 0 then none
    else if x.xi = 0 then some (.vbase (n7 b) (imm 7 o))
    else if o = 0 then some (.vbaseXi (n7 b) (imm 32 y)) else none
  else none

/-- The base field of a memory word. -/
def MemX.reg : MemX → Nat
  | .base b _ | .baseXi b _ | .idx b _ _ _ => b.val
  | .vbase a _ | .vbaseXi a _ => a.val

/-- [6:0] of a memory word. -/
def MemX.low : MemX → Nat
  | .base _ o | .vbase _ o => o.toNat
  | .idx _ i _ _ => i.val
  | .baseXi _ _ | .vbaseXi _ _ => 0

/-- The XM word and the XI word of a memory word; `x` holds the fields that are not the address's. -/
def MemX.tail (m : MemX) (x : Xm) : List Nat :=
  match m with
  | .base _ _ => [x.toNat]
  | .baseXi _ y => [{ x with xi := 1 }.toNat, y.toNat]
  | .idx _ _ sc none => [{ x with am := 1, sc := sc.toNat }.toNat]
  | .idx _ _ sc (some y) => [{ x with am := 1, sc := sc.toNat, xi := 1 }.toNat, y.toNat]
  | .vbase _ _ => [{ x with am := 2 }.toNat]
  | .vbaseXi _ y => [{ x with am := 2, xi := 1 }.toNat, y.toNat]

/-- A word of format T3 (R125): class and opcode, and the three fields. -/
def wd (op d a b : Nat) : Nat := op * 2 ^ 21 + d * 2 ^ 14 + a * 2 ^ 7 + b

/-- A word of classes 0x7 and 0x8 (R139, R140). -/
def memWord (cls op size x d b o : Nat) : Nat :=
  wd (cls * 128 + op * 16 + size * 2 + x) d b o

/-- MMA: ILLEGAL comes before MTYPE (R142, R153, R262). -/
def parseMma (w : Nat) (xm : Xm) : Except Trap Instr :=
  match MatTy.ofCode xm.tya, MatTy.ofCode xm.tyb, MatShape.ofCodes xm.opc xm.c with
  | some t, some u, some h =>
    if !xm.only { c := xm.c, opc := xm.opc, tya := xm.tya, tyb := xm.tyb } || fld w 18 3 != 0 then
      .error .illegal
    else if t ≠ u ∨ (h = .deep ∧ t = .bfp) then .error .mtype
    else .ok (.mma t h (r4 w 14) (r7 w 7) (r7 w 0))
  | _, _, _ => .error .illegal

/-- MLOOP: its parameter block is checked before the types (R142, R266). -/
def parseMloop (w : Nat) (xm : Xm) : Except Trap Instr :=
  match MatTy.ofCode xm.tya, MatTy.ofCode xm.tyb, MatShape.ofCodes xm.opc xm.c with
  | some t, some u, some h =>
    if !xm.only { c := xm.c, opc := xm.opc, tya := xm.tya, tyb := xm.tyb } || fld w 18 3 != 0 ||
        fld w 0 7 != 0 || !(even (r7 w 7) && sspan (r7 w 7) 8) then
      .error .illegal
    else if t ≠ u ∨ h = .deep then .error .mtype
    else .ok (.mloop t h (r4 w 14) (r7 w 7))
  | _, _, _ => .error .illegal

/-- Class 0x0 (R132). -/
def parseScalar (w x : Nat) : Except Trap Instr :=
  let xm := Xm.ofNat x
  match fld w 21 7 with
  | 0x00 => .ok (.sadd (r7 w 14) (r7 w 7) (r7 w 0))
  | 0x01 => .ok (.ssub (r7 w 14) (r7 w 7) (r7 w 0))
  | 0x02 => .ok (.smul (r7 w 14) (r7 w 7) (r7 w 0))
  | 0x03 => .ok (.smulh (r7 w 14) (r7 w 7) (r7 w 0))
  | 0x04 => .ok (.smulhU (r7 w 14) (r7 w 7) (r7 w 0))
  | 0x05 => .ok (.sand (r7 w 14) (r7 w 7) (r7 w 0))
  | 0x06 => .ok (.sor (r7 w 14) (r7 w 7) (r7 w 0))
  | 0x07 => .ok (.sxor (r7 w 14) (r7 w 7) (r7 w 0))
  | 0x08 => .ok (.sshl (r7 w 14) (r7 w 7) (r7 w 0))
  | 0x09 => .ok (.sshr (r7 w 14) (r7 w 7) (r7 w 0))
  | 0x0A => .ok (.ssar (r7 w 14) (r7 w 7) (r7 w 0))
  | 0x0B => .ok (.smin (r7 w 14) (r7 w 7) (r7 w 0))
  | 0x0C => .ok (.smax (r7 w 14) (r7 w 7) (r7 w 0))
  | 0x0D => .ok (.sminu (r7 w 14) (r7 w 7) (r7 w 0))
  | 0x0E => .ok (.smaxu (r7 w 14) (r7 w 7) (r7 w 0))
  | 0x0F => okIf (xm.only { c := xm.c }) (.ssel (r7 w 14) (r7 w 7) (r7 w 0) (n7 xm.c))
  | 0x10 => okIf (fld w 0 7 == 0) (.sclz (r7 w 14) (r7 w 7))
  | 0x11 => okIf (fld w 0 7 == 0) (.spop (r7 w 14) (r7 w 7))
  | 0x12 => okIf (fld w 0 7 == 0) (.smov (r7 w 14) (r7 w 7))
  | 0x20 => .ok (.scmpEq (r7 w 14) (r7 w 7) (r7 w 0))
  | 0x21 => .ok (.scmpNe (r7 w 14) (r7 w 7) (r7 w 0))
  | 0x22 => .ok (.scmpLt (r7 w 14) (r7 w 7) (r7 w 0))
  | 0x23 => .ok (.scmpLe (r7 w 14) (r7 w 7) (r7 w 0))
  | 0x24 => .ok (.scmpGt (r7 w 14) (r7 w 7) (r7 w 0))
  | 0x25 => .ok (.scmpGe (r7 w 14) (r7 w 7) (r7 w 0))
  | 0x26 => .ok (.scmpLtu (r7 w 14) (r7 w 7) (r7 w 0))
  | 0x27 => .ok (.scmpLeu (r7 w 14) (r7 w 7) (r7 w 0))
  | 0x28 => .ok (.scmpGtu (r7 w 14) (r7 w 7) (r7 w 0))
  | 0x29 => .ok (.scmpGeu (r7 w 14) (r7 w 7) (r7 w 0))
  | _ => .error .illegal

/-- Class 0x1 (R133). -/
def parseImm (w x : Nat) : Except Trap Instr :=
  match fld w 21 7 with
  | 0x00 => .ok (.smovi (r7 w 14) (imm 14 w))
  | 0x01 => .ok (.saddiShort (r7 w 14) (r7 w 7) (imm 7 w))
  | 0x02 => okIf (fld w 0 7 == 0) (.saddiXi (r7 w 14) (r7 w 7) (BitVec.ofNat 32 x))
  | 0x03 => okIf (fld w 0 14 == 0) (.slit (r7 w 14) (BitVec.ofNat 32 x))
  | 0x08 => match SpecReg.ofCode (fld w 0 14) with | some n => .ok (.srdS (r7 w 14) n) | none => .error .illegal
  | 0x09 => match SpecReg.ofCode (fld w 0 14) with | some n => .ok (.srdV (r7 w 14) n) | none => .error .illegal
  | 0x0A => match SpecReg.ofCode (fld w 0 14) with | some n => .ok (.swr (r7 w 14) n) | none => .error .illegal
  | 0x10 => okIf (fld w 14 7 == 0) (.swin (imm 14 w))
  | 0x11 => okIf (fld w 14 7 == 0) (.vwin (imm 14 w))
  | _ => .error .illegal

/-- Class 0x2 (R134). -/
def parseControl (w : Nat) : Except Trap Instr :=
  match fld w 21 7 with
  | 0x00 => .ok (.bra (r4 w 17) (imm 17 w))
  | 0x01 => .ok (.brs (r7 w 14) (imm 14 w))
  | 0x02 => .ok (.brsZ (r7 w 14) (imm 14 w))
  | 0x03 => .ok (.jmp (imm 21 w))
  | 0x04 => okIf (fld w 14 7 == 0 && fld w 0 7 == 0) (.brx (r7 w 7))
  | 0x05 => .ok (.call (r7 w 14) (imm 14 w))
  | 0x06 => okIf (fld w 0 7 == 0) (.callx (r7 w 14) (r7 w 7))
  | 0x07 => okIf (fld w 14 7 == 0 && fld w 0 7 == 0) (.ret (r7 w 7))
  | 0x08 => okIf (fld w 2 19 == 0) (.lpad (r2 w 0))
  | 0x09 => okIf (fld w 17 4 == 0 && fld w 0 14 == 0) (.kset (r3 w 14))
  | 0x0A => okIf (fld w 10 11 == 0 && fld w 0 7 == 0) (.join (r3 w 7))
  | 0x0B => okIf (fld w 0 21 == 0) .exitLanes
  | 0x0C => okIf (fld w 14 7 == 0) (.trap (imm 14 w))
  | 0x0D => okIf (fld w 14 7 == 0) (.brk (imm 14 w))
  | 0x0E => okIf (fld w 0 21 == 0) .nop
  | 0x0F => okIf (fld w 14 7 == 0 && fld w 0 7 == 0) (.perf (r7 w 7))
  | 0x10 => okIf (fld w 14 7 == 0 && fld w 0 7 == 0) (.launch (r7 w 7))
  | 0x11 => okIf (fld w 14 7 == 0 && fld w 0 7 == 0) (.launchOrd (r7 w 7))
  | 0x12 => okIf (fld w 14 7 == 0) (.renq (r7 w 7) (r7 w 0))
  | 0x13 => okIf (fld w 0 7 == 0) (.rdeq (r7 w 14) (r7 w 7))
  | 0x14 => okIf (fld w 14 7 == 0) (.svc (imm 14 w))
  | _ => .error .illegal

/-- Class 0x3 (R135). -/
def parseVector (w x : Nat) : Except Trap Instr :=
  let xm := Xm.ofNat x
  match fld w 21 7 with
  | 0x00 => .ok (.vadd (r7 w 14) (r7 w 7) (r7 w 0))
  | 0x01 => .ok (.vsub (r7 w 14) (r7 w 7) (r7 w 0))
  | 0x02 => .ok (.vmul (r7 w 14) (r7 w 7) (r7 w 0))
  | 0x03 => .ok (.vmulhS32 (r7 w 14) (r7 w 7) (r7 w 0))
  | 0x04 => .ok (.vmulhU32 (r7 w 14) (r7 w 7) (r7 w 0))
  | 0x05 => okIf (xm.only { c := xm.c }) (.vmad (r7 w 14) (r7 w 7) (r7 w 0) (n7 xm.c))
  | 0x06 => okIf (xm.only { c := xm.c } && decide (xm.c < 16)) (.vaddc (r7 w 14) (r7 w 7) (r7 w 0) (n4 xm.c))
  | 0x07 => .ok (.vand (r7 w 14) (r7 w 7) (r7 w 0))
  | 0x08 => .ok (.vor (r7 w 14) (r7 w 7) (r7 w 0))
  | 0x09 => .ok (.vxor (r7 w 14) (r7 w 7) (r7 w 0))
  | 0x0A => .ok (.vshl (r7 w 14) (r7 w 7) (r7 w 0))
  | 0x0B => .ok (.vshr (r7 w 14) (r7 w 7) (r7 w 0))
  | 0x0C => .ok (.vsar (r7 w 14) (r7 w 7) (r7 w 0))
  | 0x0D => .ok (.vminS32 (r7 w 14) (r7 w 7) (r7 w 0))
  | 0x0E => .ok (.vminU32 (r7 w 14) (r7 w 7) (r7 w 0))
  | 0x0F => .ok (.vmaxS32 (r7 w 14) (r7 w 7) (r7 w 0))
  | 0x10 => .ok (.vmaxU32 (r7 w 14) (r7 w 7) (r7 w 0))
  | 0x11 => okIf (fld w 0 7 == 0) (.vabs (r7 w 14) (r7 w 7))
  | 0x12 => okIf (fld w 0 7 == 0) (.vclz (r7 w 14) (r7 w 7))
  | 0x13 => okIf (fld w 0 7 == 0) (.vpop (r7 w 14) (r7 w 7))
  | 0x14 => okIf (xm.only { c := xm.c }) (.vbfeS32 (r7 w 14) (r7 w 7) (r7 w 0) (n7 xm.c))
  | 0x15 => okIf (xm.only { c := xm.c }) (.vbfeU32 (r7 w 14) (r7 w 7) (r7 w 0) (n7 xm.c))
  | 0x16 => okIf (xm.only { c := xm.c }) (.vbfi (r7 w 14) (r7 w 7) (r7 w 0) (n7 xm.c))
  | 0x17 => okIf (xm.only { c := xm.c } && decide (xm.c < 16)) (.vsel (r7 w 14) (r7 w 7) (r7 w 0) (n4 xm.c))
  | 0x18 => okIf (fld w 0 7 == 0) (.vmov (r7 w 14) (r7 w 7))
  | 0x19 => .ok (.vmovi (r7 w 14) (imm 14 w))
  | 0x1A => okIf (fld w 0 14 == 0) (.vlit (r7 w 14) (BitVec.ofNat 32 x))
  | 0x20 => okIf (fld w 18 3 == 0) (.vcmpEqS32 (r4 w 14) (r7 w 7) (r7 w 0))
  | 0x21 => okIf (fld w 18 3 == 0) (.vcmpNeS32 (r4 w 14) (r7 w 7) (r7 w 0))
  | 0x22 => okIf (fld w 18 3 == 0) (.vcmpLtS32 (r4 w 14) (r7 w 7) (r7 w 0))
  | 0x23 => okIf (fld w 18 3 == 0) (.vcmpLeS32 (r4 w 14) (r7 w 7) (r7 w 0))
  | 0x24 => okIf (fld w 18 3 == 0) (.vcmpGtS32 (r4 w 14) (r7 w 7) (r7 w 0))
  | 0x25 => okIf (fld w 18 3 == 0) (.vcmpGeS32 (r4 w 14) (r7 w 7) (r7 w 0))
  | 0x28 => okIf (fld w 18 3 == 0) (.vcmpEqU32 (r4 w 14) (r7 w 7) (r7 w 0))
  | 0x29 => okIf (fld w 18 3 == 0) (.vcmpNeU32 (r4 w 14) (r7 w 7) (r7 w 0))
  | 0x2A => okIf (fld w 18 3 == 0) (.vcmpLtU32 (r4 w 14) (r7 w 7) (r7 w 0))
  | 0x2B => okIf (fld w 18 3 == 0) (.vcmpLeU32 (r4 w 14) (r7 w 7) (r7 w 0))
  | 0x2C => okIf (fld w 18 3 == 0) (.vcmpGtU32 (r4 w 14) (r7 w 7) (r7 w 0))
  | 0x2D => okIf (fld w 18 3 == 0) (.vcmpGeU32 (r4 w 14) (r7 w 7) (r7 w 0))
  | _ => .error .illegal

/-- Class 0x6 (R138). -/
def parseCross (w x : Nat) : Except Trap Instr :=
  let xm := Xm.ofNat x
  match fld w 21 7 with
  | 0x00 => okIf (fld w 0 7 == 0) (.qswapH (r7 w 14) (r7 w 7))
  | 0x01 => okIf (fld w 0 7 == 0) (.qswapV (r7 w 14) (r7 w 7))
  | 0x02 => okIf (fld w 0 7 == 0) (.qswapD (r7 w 14) (r7 w 7))
  | 0x03 => okIf (fld w 0 7 == 0) (.ddxFine (r7 w 14) (r7 w 7))
  | 0x04 => okIf (fld w 0 7 == 0) (.ddxCoarse (r7 w 14) (r7 w 7))
  | 0x05 => okIf (fld w 0 7 == 0) (.ddyFine (r7 w 14) (r7 w 7))
  | 0x06 => okIf (fld w 0 7 == 0) (.ddyCoarse (r7 w 14) (r7 w 7))
  | 0x08 => .ok (.shflIdx (r7 w 14) (r7 w 7) (r7 w 0))
  | 0x09 => .ok (.shflUp (r7 w 14) (r7 w 7) (r7 w 0))
  | 0x0A => .ok (.shflDown (r7 w 14) (r7 w 7) (r7 w 0))
  | 0x0B => .ok (.shflXor (r7 w 14) (r7 w 7) (r7 w 0))
  | 0x0C => okIf (fld w 18 3 == 0 && fld w 11 3 == 0 && fld w 0 7 == 0) (.voteAny (r4 w 14) (r4 w 7))
  | 0x0D => okIf (fld w 18 3 == 0 && fld w 11 3 == 0 && fld w 0 7 == 0) (.voteAll (r4 w 14) (r4 w 7))
  | 0x0E => okIf (fld w 11 3 == 0 && fld w 0 7 == 0) (.voteBallot (r7 w 14) (r4 w 7))
  | 0x0F => okIf (fld w 0 7 == 0) (.matchAny (r7 w 14) (r7 w 7))
  | 0x10 => match RedOp.ofCode xm.opc, RedTy.ofCode xm.tya with
      | some o, some t => okIf (xm.only { rnd := xm.rnd, opc := xm.opc, tya := xm.tya } && fld w 0 7 == 0) (.reduce o t (Rnd.ofCode xm.rnd) (r7 w 14) (r7 w 7))
      | _, _ => .error .illegal
  | 0x11 => match RedOp.ofCode xm.opc, RedTy.ofCode xm.tya with
      | some o, some t => okIf (xm.only { rnd := xm.rnd, opc := xm.opc, tya := xm.tya } && fld w 0 7 == 0) (.scan o t (Rnd.ofCode xm.rnd) (r7 w 14) (r7 w 7))
      | _, _ => .error .illegal
  | 0x12 => okIf (fld w 0 14 == 0) (.actmask (r7 w 14))
  | 0x13 => okIf (fld w 18 3 == 0 && fld w 0 14 == 0) (.ishelp (r4 w 14))
  | 0x18 => okIf (fld w 18 3 == 0 && fld w 11 3 == 0 && fld w 4 3 == 0) (.pand (r4 w 14) (r4 w 7) (r4 w 0))
  | 0x19 => okIf (fld w 18 3 == 0 && fld w 11 3 == 0 && fld w 4 3 == 0) (.por (r4 w 14) (r4 w 7) (r4 w 0))
  | 0x1A => okIf (fld w 18 3 == 0 && fld w 11 3 == 0 && fld w 4 3 == 0) (.pxor (r4 w 14) (r4 w 7) (r4 w 0))
  | 0x1B => okIf (fld w 18 3 == 0 && fld w 11 3 == 0 && fld w 0 7 == 0) (.pnot (r4 w 14) (r4 w 7))
  | 0x1C => okIf (fld w 18 3 == 0 && fld w 11 3 == 0 && fld w 0 7 == 0) (.pmov (r4 w 14) (r4 w 7))
  | _ => .error .illegal

/-- Class 0x9 (R141). -/
def parseSync (w : Nat) : Except Trap Instr :=
  match fld w 21 7 with
  | 0x00 => .ok (.cpaB32 (r7 w 14) (r7 w 7) (r7 w 0))
  | 0x01 => .ok (.cpaB64 (r7 w 14) (r7 w 7) (r7 w 0))
  | 0x02 => .ok (.cpaB128 (r7 w 14) (r7 w 7) (r7 w 0))
  | 0x04 => .ok (.cpb (r7 w 14) (r7 w 7) (r7 w 0))
  | 0x08 => .ok (.prefr (r7 w 14) (r7 w 7) (r7 w 0))
  | 0x09 => okIf (fld w 0 7 == 0) (.tokw (r7 w 14) (r7 w 7))
  | 0x0A => okIf (fld w 14 7 == 0) (.femarkFull (r7 w 7) (r7 w 0))
  | 0x0B => okIf (fld w 14 7 == 0) (.femarkEmpty (r7 w 7) (r7 w 0))
  | 0x0C => .ok (.waitcToken (r7 w 14) (imm 14 w))
  | 0x0D => okIf (fld w 14 7 == 0) (.waitcBarrier (imm 14 w))
  | 0x0E => okIf (fld w 0 21 == 0) .bar
  | 0x10 => okIf (fld w 14 7 == 0 && fld w 0 7 == 0) (.mbara (r7 w 7))
  | 0x11 => okIf (fld w 14 7 == 0) (.mbarw (r7 w 7) (r7 w 0))
  | 0x12 => match Scope.ofCode (fld w 0 3) with | some x => okIf (fld w 3 18 == 0) (.fenceAcq x) | none => .error .illegal
  | 0x13 => match Scope.ofCode (fld w 0 3) with | some x => okIf (fld w 3 18 == 0) (.fenceRel x) | none => .error .illegal
  | 0x14 => match Scope.ofCode (fld w 0 3) with | some x => okIf (fld w 3 18 == 0) (.fenceSc x) | none => .error .illegal
  | 0x15 => okIf (fld w 0 21 == 0) .opfence
  | 0x16 => okIf (fld w 0 7 == 0) (.xall (r7 w 14) (r7 w 7))
  | 0x17 => okIf (fld w 14 7 == 0) (.cflush (r7 w 7) (r7 w 0))
  | _ => .error .illegal

/-- Class 0xA (R142). -/
def parseMatrix (w x : Nat) : Except Trap Instr :=
  let xm := Xm.ofNat x
  match fld w 21 7 with
  | 0x00 => parseMma w xm
  | 0x01 => parseMloop w xm
  | 0x02 => okIf (fld w 18 3 == 0 && fld w 0 14 == 0) (.mzero (r4 w 14))
  | 0x03 => match TileTy.ofCode (fld w 0 7) with | some x => okIf (fld w 18 3 == 0) (.mldz x (r4 w 14) (r7 w 7)) | none => .error .illegal
  | 0x04 => match TileTy.ofCode (fld w 0 7) with | some x => okIf (fld w 18 3 == 0) (.mstz x (r4 w 14) (r7 w 7)) | none => .error .illegal
  | 0x05 => match QuantTy.ofCodes xm.tya xm.tyb with
    | some k => okIf (xm.only { tya := xm.tya, tyb := xm.tyb } && fld w 0 7 == 0 && fld w 18 3 == 0) (.mqnt k (r4 w 14) (r7 w 7))
    | none => .error .illegal
  | 0x06 => okIf (fld w 11 3 == 0 && fld w 0 7 == 0) (.mstat (r7 w 14) (r4 w 7))
  | _ => .error .illegal

/-- Class 0xB (R143). -/
def parseHyper (w x : Nat) : Except Trap Instr :=
  let xm := Xm.ofNat x
  match fld w 21 7 with
  | 0x00 => okIf (fld w 18 3 == 0) (.hld (r4 w 14) (r7 w 7) (imm 7 w))
  | 0x01 => okIf (fld w 18 3 == 0) (.hst (r4 w 14) (r7 w 7) (imm 7 w))
  | 0x02 => okIf (fld w 18 3 == 0 && fld w 11 3 == 0 && fld w 0 7 == 0) (.hmov (r4 w 14) (r4 w 7))
  | 0x03 => okIf (fld w 18 3 == 0 && fld w 11 3 == 0 && fld w 4 3 == 0) (.hbind (r4 w 14) (r4 w 7) (r4 w 0))
  | 0x04 => okIf (fld w 18 3 == 0 && fld w 11 3 == 0) (.hperm (r4 w 14) (r4 w 7) (r7 w 0))
  | 0x05 => okIf (fld w 16 5 == 0 && fld w 11 3 == 0 && fld w 0 7 == 0) (.hbund (r2 w 14) (r4 w 7))
  | 0x06 => okIf (fld w 18 3 == 0 && fld w 9 5 == 0 && fld w 0 7 == 0) (.hthr (r4 w 14) (r2 w 7))
  | 0x07 => okIf (fld w 16 5 == 0 && fld w 0 14 == 0) (.hclrc (r2 w 14))
  | 0x08 => okIf (fld w 11 3 == 0 && fld w 4 3 == 0) (.hham (r7 w 14) (r4 w 7) (r4 w 0))
  | 0x09 => okIf (xm.only { c := xm.c } && fld w 11 3 == 0 && fld w 4 3 == 0) (.hnear (r7 w 14) (r4 w 7) (r4 w 0) (n7 xm.c))
  | 0x0A => okIf (fld w 11 10 == 0 && fld w 0 7 == 0) (.htie (r4 w 7))
  | 0x0B => okIf (fld w 18 3 == 0) (.hbit (r4 w 14) (r7 w 7) (r7 w 0))
  | _ => .error .illegal

/-- Class 0xC (R144). -/
def parseGen (w x : Nat) : Except Trap Instr :=
  match fld w 21 7 with
  | 0x00 => if h : fld w 0 7 < 65 then okIf (fld w 7 7 == 0) (.gopenW1 (r7 w 14) ⟨fld w 0 7, h⟩ (BitVec.ofNat 32 x)) else .error .illegal
  | 0x01 => if h : fld w 0 7 < 65 then okIf (fld w 7 7 == 0) (.gopenW2 (r7 w 14) ⟨fld w 0 7, h⟩ (BitVec.ofNat 32 x)) else .error .illegal
  | 0x02 => if h : fld w 0 7 < 65 then okIf (fld w 7 7 == 0) (.gopenW3 (r7 w 14) ⟨fld w 0 7, h⟩ (BitVec.ofNat 32 x)) else .error .illegal
  | 0x03 => if h : fld w 0 7 < 65 then okIf (fld w 7 7 == 0) (.gopenW4 (r7 w 14) ⟨fld w 0 7, h⟩ (BitVec.ofNat 32 x)) else .error .illegal
  | 0x04 => okIf (fld w 14 7 == 0 && fld w 0 7 == 0) (.gyield (r7 w 7))
  | 0x05 => okIf (fld w 0 14 == 0) (.gtake (r7 w 14))
  | 0x06 => okIf (fld w 0 21 == 0) .gback
  | 0x07 => okIf (fld w 0 21 == 0) .gdone
  | 0x08 => okIf (fld w 0 21 == 0) .gclose
  | 0x09 => okIf (fld w 14 7 == 0 && fld w 0 7 == 0) (.repack (r7 w 7))
  | 0x0A => okIf (fld w 14 7 == 0) (.travb (r7 w 7) (r7 w 0))
  | 0x0B => okIf (fld w 0 14 == 0) (.travs (r7 w 14))
  | 0x0C => okIf (fld w 14 7 == 0 && fld w 0 7 == 0) (.travc (r7 w 7))
  | 0x0D => okIf (fld w 0 21 == 0) .trave
  | _ => .error .illegal

/-- Class 0xD (R145). -/
def parseGraphics (w : Nat) : Except Trap Instr :=
  match fld w 21 7 with
  | 0x00 => .ok (.draw (r7 w 14) (r7 w 7) (r7 w 0))
  | 0x01 => okIf (fld w 14 7 == 0) (.vxemit (r7 w 7) (r7 w 0))
  | 0x02 => okIf (fld w 14 7 == 0) (.primemit (r7 w 7) (r7 w 0))
  | 0x03 => okIf (fld w 17 4 == 0 && fld w 0 7 == 0) (.pxout (r3 w 14) (r7 w 7))
  | 0x04 => okIf (fld w 0 21 == 0) .discard
  | 0x05 => okIf (fld w 14 7 == 0 && fld w 0 7 == 0) (.depw (r7 w 7))
  | 0x06 => .ok (.wrec (r7 w 14) (r7 w 7) (r7 w 0))
  | 0x07 => okIf (fld w 14 7 == 0 && fld w 0 7 == 0) (.linset (r7 w 7))
  | 0x08 => okIf (fld w 14 7 == 0) (.watch (r7 w 7) (r7 w 0))
  | 0x09 => okIf (fld w 0 7 == 0) (.replay (r7 w 14) (r7 w 7))
  | _ => .error .illegal

/-- Class 0xE (R146). -/
def parsePriv (w : Nat) : Except Trap Instr :=
  match fld w 21 7 with
  | 0x00 => okIf (fld w 0 21 == 0) .eret
  | 0x01 => .ok (.ctxsave (r7 w 14) (r7 w 7) (r7 w 0))
  | 0x02 => .ok (.ctxload (r7 w 14) (r7 w 7) (r7 w 0))
  | 0x03 => okIf (fld w 14 7 == 0) (.ovtbl (r7 w 7) (r7 w 0))
  | 0x04 => okIf (fld w 0 7 == 0) (.tlbinv (r7 w 14) (r7 w 7))
  | 0x05 => okIf (fld w 0 7 == 0) (.resfence (r7 w 14) (r7 w 7))
  | 0x06 => okIf (fld w 0 7 == 0) (.pgattr (r7 w 14) (r7 w 7))
  | 0x07 => okIf (fld w 14 7 == 0 && fld w 0 7 == 0) (.admitCluster (r7 w 7))
  | 0x08 => okIf (fld w 0 7 == 0) (.raslog (r7 w 14) (r7 w 7))
  | 0x09 => okIf (fld w 0 21 == 0) .halt
  | _ => .error .illegal

/-- Class 0x4 (R136). -/
def parseFloat (w x : Nat) : Except Trap Instr :=
  let xm := Xm.ofNat x
  let t := FTy.ofCode (fld w 23 2)
  let r := Rnd.ofCode (fld w 21 2)
  let d := r7 w 14
  let a := r7 w 7
  let b := r7 w 0
  match fld w 25 3 with
  | 0 => .ok (.fadd t r d a b)
  | 1 => .ok (.fsub t r d a b)
  | 2 => .ok (.fmul t r d a b)
  | 3 => okIf (xm.only { c := xm.c }) (.ffma t r d a b (n7 xm.c))
  | 4 => okIf (fld w 21 2 == 0) (.fmin t d a b)
  | 5 => okIf (fld w 21 2 == 0) (.fmax t d a b)
  | 6 =>
    match FCond.ofCode xm.opc with
    | some c => okIf (xm.only { opc := xm.opc } && fld w 21 2 == 0 && fld w 18 3 == 0)
        (.fcmp t c (r4 w 14) a b)
    | none => .error .illegal
  | _ =>
    match t with
    | .f16x2 => .ok (.fdot2 .f16 r d a b)
    | .bf16x2 => .ok (.fdot2 .bf16 r d a b)
    | _ => .error .illegal

/-- Class 0x5 (R137). -/
def parseConvert (w x : Nat) : Except Trap Instr :=
  let xm := Xm.ofNat x
  let t := Prec.ofCode (fld w 21 1)
  let r := Rnd.ofCode (fld w 22 2)
  let d := r7 w 14
  let a := r7 w 7
  let one := fld w 0 7 == 0
  let rn := one && fld w 22 2 == 0
  match fld w 24 4 with
  | 0 =>
    match NumTy.ofCode xm.tya, NumTy.ofCode xm.tyb with
    | some p, some q => okIf (xm.only { tya := xm.tya, tyb := xm.tyb } && one && fld w 21 1 == 0)
        (.cvt p q r d a)
    | _, _ => .error .illegal
  | 1 =>
    match Narrow.ofCodes xm.tya xm.tyb with
    | some n => okIf (xm.only { tya := xm.tya, tyb := xm.tyb } && one && fld w 21 1 == 0)
        (.cvtn n r d a)
    | none => .error .illegal
  | 2 => okIf one (.frcp t r d a)
  | 3 => okIf rn (.frsq t d a)
  | 4 => okIf one (.fsqrt t r d a)
  | 5 => .ok (.fdiv t r d a (r7 w 0))
  | 6 => okIf rn (.fexp2 t d a)
  | 7 => okIf rn (.flog2 t d a)
  | 8 => okIf rn (.fsin t d a)
  | 9 => okIf rn (.fcos t d a)
  | 10 => okIf one (.fround t r d a)
  | 11 => okIf rn (.ffract t d a)
  | 12 => okIf rn (.fclass t d a)
  | _ => .error .illegal

/-- The optional order of an access: SEM 0 or `sem`, a scope only with it (R139, R140). -/
def parseOrd (sem : Nat) (x : Xm) : Option (Option Scope) :=
  if x.sem = 0 then (if x.scope = 0 then some none else none)
  else if x.sem = sem then (Scope.ofCode x.scope).map some else none

/-- The fields of XM that hold the address (R130). -/
def Xm.addr (x : Xm) : Xm := { am := x.am, sc := x.sc, xi := x.xi }

/-- Class 0x7 (R139). -/
def parseLoad (w x y : Nat) : Except Trap Instr :=
  let xm := Xm.ofNat x
  let d := r7 w 14
  let b := r7 w 7
  let o := imm 7 w
  match LdSize.ofCode (fld w 22 3) with
  | none => .error .illegal
  | some z =>
    if fld w 21 1 = 0 then
      match fld w 25 3 with
      | 0 => .ok (.ld z d b o)
      | 1 => .ok (.lds z d b o)
      | 2 => .ok (.ldc z d b o)
      | 3 => .ok (.sld z d b o)
      | 4 =>
        match LodSize.ofCode (fld w 22 3) with
        | some s => .ok (.ldlod s d b o)
        | none => .error .illegal
      | _ => .error .illegal
    else
      match MemX.parse (fld w 7 7) (fld w 0 7) xm y with
      | none => .error .illegal
      | some m =>
        let plain := xm.only { xm.addr with scope := xm.scope, sem := xm.sem }
        match fld w 25 3 with
        | 0 => match parseOrd 1 xm with | some q => okIf plain (.ldX z q d m) | none => .error .illegal
        | 1 => match parseOrd 1 xm with | some q => okIf plain (.ldsX z q d m) | none => .error .illegal
        | 2 => match parseOrd 1 xm with | some q => okIf plain (.ldcX z q d m) | none => .error .illegal
        | 3 => match parseOrd 1 xm with | some q => okIf plain (.sldX z q d m) | none => .error .illegal
        | 4 =>
          match LodSize.ofCode (fld w 22 3) with
          | some s => okIf (xm.only { xm.addr with opc := xm.opc }) (.ldlodX (n4 xm.opc) s d m)
          | none => .error .illegal
        | 5 => okIf (xm.only { xm.addr with c := xm.c } && decide (z = .b32)) (.ldbrk d m (n7 xm.c))
        | 6 =>
          match LodSize.ofCode (fld w 22 3), TexMode.ofCode xm.opc with
          | some s, some u =>
            okIf (xm.only { c := xm.c, opc := xm.opc } && fld w 0 7 == 0) (.tex u s d b (n7 xm.c))
          | _, _ => .error .illegal
        | _ =>
          if h : xm.opc < 4 then
            okIf (xm.only { c := xm.c, opc := xm.opc } && fld w 0 7 == 0 && decide (z = .b128))
              (.texg ⟨xm.opc, h⟩ d b (n7 xm.c))
          else .error .illegal

/-- The four atomics of class 0x8 share one form (R140). -/
def parseAtomic (xm : Xm) (w64 : Bool) (mk : AtomOp → AtomTy → Sem → Scope → Instr) :
    Except Trap Instr :=
  match AtomOp.ofCode xm.opc, AtomTy.ofCode w64 xm.tya, Scope.ofCode xm.scope with
  | some o, some t, some s =>
    okIf (xm.only { xm.addr with
        c := xm.c, scope := xm.scope, sem := xm.sem, opc := xm.opc, tya := xm.tya })
      (mk o t (Sem.ofCode xm.sem) s)
  | _, _, _ => .error .illegal

/-- The stores of class 0x8 with XM share one form (R140). -/
def parseStore (xm : Xm) (mk : StNarrow → Option Scope → Instr) : Except Trap Instr :=
  match StNarrow.ofCode xm.tya, parseOrd 2 xm with
  | some n, some q =>
    okIf (xm.only { xm.addr with scope := xm.scope, sem := xm.sem, tya := xm.tya }) (mk n q)
  | _, _ => .error .illegal

/-- Class 0x8 (R140). -/
def parseStores (w x y : Nat) : Except Trap Instr :=
  let xm := Xm.ofNat x
  let d := r7 w 14
  let b := r7 w 7
  let o := imm 7 w
  if fld w 21 1 = 0 then
    match LdSize.ofCode (fld w 22 3), fld w 25 3 with
    | some z, 0 => .ok (.st z d b o)
    | some z, 1 => .ok (.sts z d b o)
    | some z, 2 => .ok (.stc z d b o)
    | some z, 3 => .ok (.sst z d b o)
    | _, _ => .error .illegal
  else
    match MemX.parse (fld w 7 7) (fld w 0 7) xm y with
    | none => .error .illegal
    | some m =>
      let c := n7 xm.c
      if fld w 25 3 = 7 then
        if fld w 22 3 < 2 then
          if fld w 14 7 = 0 then
            parseAtomic xm (fld w 22 1 == 1) (fun o t q s => .red o t q s m c)
          else .error .illegal
        else if fld w 22 3 = 4 ∨ fld w 22 3 = 5 then
          parseAtomic xm (fld w 22 1 == 1) (fun o t q s => .atomx o t q s d m c)
        else .error .illegal
      else
        match LdSize.ofCode (fld w 22 3) with
        | none => .error .illegal
        | some z =>
          match fld w 25 3 with
          | 0 => parseStore xm (fun n q => .stX z n q d m)
          | 1 => parseStore xm (fun n q => .stsX z n q d m)
          | 2 => parseStore xm (fun n q => .stcX z n q d m)
          | 3 => parseStore xm (fun n q => .sstX z n q d m)
          | 4 =>
            match BrickTy.ofCodes xm.tya xm.tyb with
            | some k => okIf (xm.only { xm.addr with tya := xm.tya, tyb := xm.tyb } &&
                decide (z = .b8)) (.stbrk k d m)
            | none => .error .illegal
          | 5 =>
            if z = .b32 ∨ z = .b64 then
              parseAtomic xm (decide (z = .b64)) (fun o t q s => .atom o t q s d m c)
            else .error .illegal
          | _ =>
            if z = .b32 ∨ z = .b64 then
              parseAtomic xm (decide (z = .b64)) (fun o t q s => .atoms o t q s d m c)
            else .error .illegal

/-- Class 0xF where an instruction is expected (R147): headers and trailers raise CLAUSE. -/
def parseHint (w : Nat) : Except Trap Instr :=
  if fld w 21 7 < 0x48 then .error .clause
  else if fld w 21 7 < 0x78 then .error .illegal
  else .ok (.hint (imm 24 w))

/-- The fields of an instruction word and the two words after it (R131) (DEDUCED, log entry 47). -/
def parse (w x y : Nat) : Except Trap Instr :=
  match fld w 28 4 with
  | 0 => parseScalar w x
  | 1 => parseImm w x
  | 2 => parseControl w
  | 3 => parseVector w x
  | 4 => parseFloat w x
  | 5 => parseConvert w x
  | 6 => parseCross w x
  | 7 => parseLoad w x y
  | 8 => parseStores w x y
  | 9 => parseSync w
  | 10 => parseMatrix w x
  | 11 => parseHyper w x
  | 12 => parseGen w x
  | 13 => parseGraphics w
  | 14 => parsePriv w
  | _ => parseHint w

/-- The instruction an instruction word and the two words after it stand for, or the decode trap they
raise (R126, R127, R131-R147). PRIV and the declared counts are the clause's to check. -/
def decode (w x y : Nat) : Except Trap Instr :=
  match parse w x y with
  | .ok i => if i.wellFormed then .ok i else .error .illegal
  | .error t => .error t

/-- An XM word follows this instruction word (R128, R132-R144). -/
def hasXm (w : Nat) : Bool :=
  match fld w 28 4, fld w 21 7 with
  | 0, op => op == 0x0F
  | 3, op => op == 0x05 || op == 0x06 || (decide (0x14 ≤ op) && decide (op ≤ 0x17))
  | 4, op => op / 16 == 3 || op / 16 == 6
  | 5, op => decide (op / 8 < 2)
  | 6, op => op == 0x10 || op == 0x11
  | 7, op => op % 2 == 1
  | 8, op => op % 2 == 1
  | 10, op => op == 0 || op == 1 || op == 5
  | 11, op => op == 9
  | _, _ => false

/-- An XI word always follows this instruction word (R133, R135, R144). -/
def hasXi (w : Nat) : Bool :=
  match fld w 28 4, fld w 21 7 with
  | 1, op => op == 2 || op == 3
  | 3, op => op == 0x1A
  | 12, op => decide (op < 4)
  | _, _ => false

/-- The words of an instruction: its own, XM, and XI when always there or named by XM (R128). -/
def wordCount (w x : Nat) : Nat :=
  if hasXm w then 2 + fld x 2 1 else if hasXi w then 2 else 1

/-- The words of a well-formed instruction, written from the spec's encodings; an event has none. -/
def encode : Instr → List Nat
  | .sadd d a b => [wd 0x000 d.val a.val b.val]
  | .ssub d a b => [wd 0x001 d.val a.val b.val]
  | .smul d a b => [wd 0x002 d.val a.val b.val]
  | .smulh d a b => [wd 0x003 d.val a.val b.val]
  | .smulhU d a b => [wd 0x004 d.val a.val b.val]
  | .sand d a b => [wd 0x005 d.val a.val b.val]
  | .sor d a b => [wd 0x006 d.val a.val b.val]
  | .sxor d a b => [wd 0x007 d.val a.val b.val]
  | .sshl d a b => [wd 0x008 d.val a.val b.val]
  | .sshr d a b => [wd 0x009 d.val a.val b.val]
  | .ssar d a b => [wd 0x00A d.val a.val b.val]
  | .smin d a b => [wd 0x00B d.val a.val b.val]
  | .smax d a b => [wd 0x00C d.val a.val b.val]
  | .sminu d a b => [wd 0x00D d.val a.val b.val]
  | .smaxu d a b => [wd 0x00E d.val a.val b.val]
  | .ssel d a b c => [wd 0x00F d.val a.val b.val, Xm.toNat { c := c.val }]
  | .sclz d a => [wd 0x010 d.val a.val 0]
  | .spop d a => [wd 0x011 d.val a.val 0]
  | .smov d a => [wd 0x012 d.val a.val 0]
  | .scmpEq d a b => [wd 0x020 d.val a.val b.val]
  | .scmpNe d a b => [wd 0x021 d.val a.val b.val]
  | .scmpLt d a b => [wd 0x022 d.val a.val b.val]
  | .scmpLe d a b => [wd 0x023 d.val a.val b.val]
  | .scmpGt d a b => [wd 0x024 d.val a.val b.val]
  | .scmpGe d a b => [wd 0x025 d.val a.val b.val]
  | .scmpLtu d a b => [wd 0x026 d.val a.val b.val]
  | .scmpLeu d a b => [wd 0x027 d.val a.val b.val]
  | .scmpGtu d a b => [wd 0x028 d.val a.val b.val]
  | .scmpGeu d a b => [wd 0x029 d.val a.val b.val]
  | .smovi d i => [wd 0x080 d.val 0 i.toNat]
  | .saddiShort d a i => [wd 0x081 d.val a.val i.toNat]
  | .saddiXi d a i => [wd 0x082 d.val a.val 0, i.toNat]
  | .slit d i => [wd 0x083 d.val 0 0, i.toNat]
  | .srdS d n => [wd 0x088 d.val 0 n.code]
  | .srdV d n => [wd 0x089 d.val 0 n.code]
  | .swr s n => [wd 0x08A s.val 0 n.code]
  | .swin i => [wd 0x090 0 0 i.toNat]
  | .vwin i => [wd 0x091 0 0 i.toNat]
  | .bra p o => [0x100 * 2 ^ 21 + p.val * 2 ^ 17 + o.toNat]
  | .brs s o => [wd 0x101 s.val 0 o.toNat]
  | .brsZ s o => [wd 0x102 s.val 0 o.toNat]
  | .jmp o => [wd 0x103 0 0 o.toNat]
  | .brx t => [wd 0x104 0 t.val 0]
  | .call l o => [wd 0x105 l.val 0 o.toNat]
  | .callx l t => [wd 0x106 l.val t.val 0]
  | .ret l => [wd 0x107 0 l.val 0]
  | .lpad k => [wd 0x108 0 0 k.val]
  | .kset k => [wd 0x109 k.val 0 0]
  | .join k => [wd 0x10A 0 k.val 0]
  | .exitLanes => [wd 0x10B 0 0 0]
  | .trap c => [wd 0x10C 0 0 c.toNat]
  | .brk c => [wd 0x10D 0 0 c.toNat]
  | .nop => [wd 0x10E 0 0 0]
  | .perf s => [wd 0x10F 0 s.val 0]
  | .launch v => [wd 0x110 0 v.val 0]
  | .launchOrd v => [wd 0x111 0 v.val 0]
  | .renq r e => [wd 0x112 0 r.val e.val]
  | .rdeq d r => [wd 0x113 d.val r.val 0]
  | .svc c => [wd 0x114 0 0 c.toNat]
  | .vadd d a b => [wd 0x180 d.val a.val b.val]
  | .vsub d a b => [wd 0x181 d.val a.val b.val]
  | .vmul d a b => [wd 0x182 d.val a.val b.val]
  | .vmulhS32 d a b => [wd 0x183 d.val a.val b.val]
  | .vmulhU32 d a b => [wd 0x184 d.val a.val b.val]
  | .vmad d a b c => [wd 0x185 d.val a.val b.val, Xm.toNat { c := c.val }]
  | .vaddc d a b c => [wd 0x186 d.val a.val b.val, Xm.toNat { c := c.val }]
  | .vand d a b => [wd 0x187 d.val a.val b.val]
  | .vor d a b => [wd 0x188 d.val a.val b.val]
  | .vxor d a b => [wd 0x189 d.val a.val b.val]
  | .vshl d a b => [wd 0x18A d.val a.val b.val]
  | .vshr d a b => [wd 0x18B d.val a.val b.val]
  | .vsar d a b => [wd 0x18C d.val a.val b.val]
  | .vminS32 d a b => [wd 0x18D d.val a.val b.val]
  | .vminU32 d a b => [wd 0x18E d.val a.val b.val]
  | .vmaxS32 d a b => [wd 0x18F d.val a.val b.val]
  | .vmaxU32 d a b => [wd 0x190 d.val a.val b.val]
  | .vabs d a => [wd 0x191 d.val a.val 0]
  | .vclz d a => [wd 0x192 d.val a.val 0]
  | .vpop d a => [wd 0x193 d.val a.val 0]
  | .vbfeS32 d a b c => [wd 0x194 d.val a.val b.val, Xm.toNat { c := c.val }]
  | .vbfeU32 d a b c => [wd 0x195 d.val a.val b.val, Xm.toNat { c := c.val }]
  | .vbfi d a b c => [wd 0x196 d.val a.val b.val, Xm.toNat { c := c.val }]
  | .vsel d a b c => [wd 0x197 d.val a.val b.val, Xm.toNat { c := c.val }]
  | .vmov d a => [wd 0x198 d.val a.val 0]
  | .vmovi d i => [wd 0x199 d.val 0 i.toNat]
  | .vlit d i => [wd 0x19A d.val 0 0, i.toNat]
  | .vcmpEqS32 d a b => [wd 0x1A0 d.val a.val b.val]
  | .vcmpNeS32 d a b => [wd 0x1A1 d.val a.val b.val]
  | .vcmpLtS32 d a b => [wd 0x1A2 d.val a.val b.val]
  | .vcmpLeS32 d a b => [wd 0x1A3 d.val a.val b.val]
  | .vcmpGtS32 d a b => [wd 0x1A4 d.val a.val b.val]
  | .vcmpGeS32 d a b => [wd 0x1A5 d.val a.val b.val]
  | .vcmpEqU32 d a b => [wd 0x1A8 d.val a.val b.val]
  | .vcmpNeU32 d a b => [wd 0x1A9 d.val a.val b.val]
  | .vcmpLtU32 d a b => [wd 0x1AA d.val a.val b.val]
  | .vcmpLeU32 d a b => [wd 0x1AB d.val a.val b.val]
  | .vcmpGtU32 d a b => [wd 0x1AC d.val a.val b.val]
  | .vcmpGeU32 d a b => [wd 0x1AD d.val a.val b.val]
  | .fadd t r d a b => [wd (0x200 + 0 * 16 + t.code * 4 + r.code) d.val a.val b.val]
  | .fsub t r d a b => [wd (0x200 + 1 * 16 + t.code * 4 + r.code) d.val a.val b.val]
  | .fmul t r d a b => [wd (0x200 + 2 * 16 + t.code * 4 + r.code) d.val a.val b.val]
  | .ffma t r d a b c => [wd (0x200 + 3 * 16 + t.code * 4 + r.code) d.val a.val b.val, Xm.toNat { c := c.val }]
  | .fmin t d a b => [wd (0x200 + 4 * 16 + t.code * 4) d.val a.val b.val]
  | .fmax t d a b => [wd (0x200 + 5 * 16 + t.code * 4) d.val a.val b.val]
  | .fcmp t x d a b => [wd (0x200 + 6 * 16 + t.code * 4) d.val a.val b.val, Xm.toNat { opc := x.code }]
  | .fdot2 t r d a b => [wd (0x200 + 7 * 16 + t.code * 4 + r.code) d.val a.val b.val]
  | .cvt dt sty r d a => [wd (0x280 + r.code * 2) d.val a.val 0, Xm.toNat { tya := dt.code, tyb := sty.code }]
  | .cvtn n r d a => [wd (0x280 + 8 + r.code * 2) d.val a.val 0, Xm.toNat { tya := n.dst.code, tyb := n.src.code }]
  | .frcp t r d a => [wd (0x280 + 2 * 8 + r.code * 2 + t.code) d.val a.val 0]
  | .frsq t d a => [wd (0x280 + 3 * 8 + t.code) d.val a.val 0]
  | .fsqrt t r d a => [wd (0x280 + 4 * 8 + r.code * 2 + t.code) d.val a.val 0]
  | .fdiv t r d a b => [wd (0x280 + 5 * 8 + r.code * 2 + t.code) d.val a.val b.val]
  | .fexp2 t d a => [wd (0x280 + 6 * 8 + t.code) d.val a.val 0]
  | .flog2 t d a => [wd (0x280 + 7 * 8 + t.code) d.val a.val 0]
  | .fsin t d a => [wd (0x280 + 8 * 8 + t.code) d.val a.val 0]
  | .fcos t d a => [wd (0x280 + 9 * 8 + t.code) d.val a.val 0]
  | .fround t r d a => [wd (0x280 + 10 * 8 + r.code * 2 + t.code) d.val a.val 0]
  | .ffract t d a => [wd (0x280 + 11 * 8 + t.code) d.val a.val 0]
  | .fclass t d a => [wd (0x280 + 12 * 8 + t.code) d.val a.val 0]
  | .qswapH d a => [wd 0x300 d.val a.val 0]
  | .qswapV d a => [wd 0x301 d.val a.val 0]
  | .qswapD d a => [wd 0x302 d.val a.val 0]
  | .ddxFine d a => [wd 0x303 d.val a.val 0]
  | .ddxCoarse d a => [wd 0x304 d.val a.val 0]
  | .ddyFine d a => [wd 0x305 d.val a.val 0]
  | .ddyCoarse d a => [wd 0x306 d.val a.val 0]
  | .shflIdx d a b => [wd 0x308 d.val a.val b.val]
  | .shflUp d a b => [wd 0x309 d.val a.val b.val]
  | .shflDown d a b => [wd 0x30A d.val a.val b.val]
  | .shflXor d a b => [wd 0x30B d.val a.val b.val]
  | .voteAny d a => [wd 0x30C d.val a.val 0]
  | .voteAll d a => [wd 0x30D d.val a.val 0]
  | .voteBallot d a => [wd 0x30E d.val a.val 0]
  | .matchAny d a => [wd 0x30F d.val a.val 0]
  | .reduce o t r d a => [wd 0x310 d.val a.val 0, Xm.toNat { rnd := r.code, opc := o.code, tya := t.code }]
  | .scan o t r d a => [wd 0x311 d.val a.val 0, Xm.toNat { rnd := r.code, opc := o.code, tya := t.code }]
  | .actmask d => [wd 0x312 d.val 0 0]
  | .ishelp d => [wd 0x313 d.val 0 0]
  | .pand d a b => [wd 0x318 d.val a.val b.val]
  | .por d a b => [wd 0x319 d.val a.val b.val]
  | .pxor d a b => [wd 0x31A d.val a.val b.val]
  | .pnot d a => [wd 0x31B d.val a.val 0]
  | .pmov d a => [wd 0x31C d.val a.val 0]
  | .ld z d b o => [memWord 7 0 z.code 0 d.val b.val o.toNat]
  | .ldX z q d m => memWord 7 0 z.code 1 d.val m.reg m.low :: m.tail { scope := Scope.optCode q, sem := if q.isSome then 1 else 0 }
  | .lds z d b o => [memWord 7 1 z.code 0 d.val b.val o.toNat]
  | .ldsX z q d m => memWord 7 1 z.code 1 d.val m.reg m.low :: m.tail { scope := Scope.optCode q, sem := if q.isSome then 1 else 0 }
  | .ldc z d b o => [memWord 7 2 z.code 0 d.val b.val o.toNat]
  | .ldcX z q d m => memWord 7 2 z.code 1 d.val m.reg m.low :: m.tail { scope := Scope.optCode q, sem := if q.isSome then 1 else 0 }
  | .sld z d b o => [memWord 7 3 z.code 0 d.val b.val o.toNat]
  | .sldX z q d m => memWord 7 3 z.code 1 d.val m.reg m.low :: m.tail { scope := Scope.optCode q, sem := if q.isSome then 1 else 0 }
  | .ldlod z d b o => [memWord 7 4 z.code 0 d.val b.val o.toNat]
  | .ldlodX l z d m => memWord 7 4 z.code 1 d.val m.reg m.low :: m.tail { opc := l.val }
  | .ldbrk d m c => memWord 7 5 2 1 d.val m.reg m.low :: m.tail { c := c.val }
  | .tex u z d s c => [memWord 7 6 z.code 1 d.val s.val 0, Xm.toNat { c := c.val, opc := u.code }]
  | .texg n d s c => [memWord 7 7 4 1 d.val s.val 0, Xm.toNat { c := c.val, opc := n.val }]
  | .st z d b o => [memWord 8 0 z.code 0 d.val b.val o.toNat]
  | .stX z w q d m => memWord 8 0 z.code 1 d.val m.reg m.low :: m.tail { scope := Scope.optCode q, sem := if q.isSome then 2 else 0, tya := w.code }
  | .sts z d b o => [memWord 8 1 z.code 0 d.val b.val o.toNat]
  | .stsX z w q d m => memWord 8 1 z.code 1 d.val m.reg m.low :: m.tail { scope := Scope.optCode q, sem := if q.isSome then 2 else 0, tya := w.code }
  | .stc z d b o => [memWord 8 2 z.code 0 d.val b.val o.toNat]
  | .stcX z w q d m => memWord 8 2 z.code 1 d.val m.reg m.low :: m.tail { scope := Scope.optCode q, sem := if q.isSome then 2 else 0, tya := w.code }
  | .sst z d b o => [memWord 8 3 z.code 0 d.val b.val o.toNat]
  | .sstX z w q d m => memWord 8 3 z.code 1 d.val m.reg m.low :: m.tail { scope := Scope.optCode q, sem := if q.isSome then 2 else 0, tya := w.code }
  | .stbrk k a m => memWord 8 4 0 1 a.val m.reg m.low :: m.tail { tya := k.tya, tyb := k.tyb }
  | .atom o t q w d m c => memWord 8 5 (if t.is64 then 3 else 2) 1 d.val m.reg m.low :: m.tail { c := c.val, scope := w.code, sem := q.code, opc := o.code, tya := t.code }
  | .atoms o t q w d m c => memWord 8 6 (if t.is64 then 3 else 2) 1 d.val m.reg m.low :: m.tail { c := c.val, scope := w.code, sem := q.code, opc := o.code, tya := t.code }
  | .red o t q w m c => memWord 8 7 (if t.is64 then 1 else 0) 1 0 m.reg m.low :: m.tail { c := c.val, scope := w.code, sem := q.code, opc := o.code, tya := t.code }
  | .atomx o t q w d m c => memWord 8 7 (4 + if t.is64 then 1 else 0) 1 d.val m.reg m.low :: m.tail { c := c.val, scope := w.code, sem := q.code, opc := o.code, tya := t.code }
  | .cpaB32 s g i => [wd 0x480 s.val g.val i.val]
  | .cpaB64 s g i => [wd 0x481 s.val g.val i.val]
  | .cpaB128 s g i => [wd 0x482 s.val g.val i.val]
  | .cpb d s n => [wd 0x484 d.val s.val n.val]
  | .prefr d a b => [wd 0x488 d.val a.val b.val]
  | .tokw d a => [wd 0x489 d.val a.val 0]
  | .femarkFull a b => [wd 0x48A 0 a.val b.val]
  | .femarkEmpty a b => [wd 0x48B 0 a.val b.val]
  | .waitcToken t o => [wd 0x48C t.val 0 o.toNat]
  | .waitcBarrier o => [wd 0x48D 0 0 o.toNat]
  | .bar => [wd 0x48E 0 0 0]
  | .mbara b => [wd 0x490 0 b.val 0]
  | .mbarw b p => [wd 0x491 0 b.val p.val]
  | .fenceAcq w => [wd 0x492 0 0 w.code]
  | .fenceRel w => [wd 0x493 0 0 w.code]
  | .fenceSc w => [wd 0x494 0 0 w.code]
  | .opfence => [wd 0x495 0 0 0]
  | .xall d a => [wd 0x496 d.val a.val 0]
  | .cflush a b => [wd 0x497 0 a.val b.val]
  | .mma t h z a b => [wd 0x500 z.val a.val b.val, Xm.toNat { c := h.viewNo, opc := h.code, tya := t.code, tyb := t.code }]
  | .mloop t h z p => [wd 0x501 z.val p.val 0, Xm.toNat { c := h.viewNo, opc := h.code, tya := t.code, tyb := t.code }]
  | .mzero z => [wd 0x502 z.val 0 0]
  | .mldz t z a => [wd 0x503 z.val a.val t.code]
  | .mstz t z a => [wd 0x504 z.val a.val t.code]
  | .mqnt k z a => [wd 0x505 z.val a.val 0, Xm.toNat { tya := k.tya, tyb := k.tyb }]
  | .mstat d z => [wd 0x506 d.val z.val 0]
  | .hld d b o => [wd 0x580 d.val b.val o.toNat]
  | .hst a b o => [wd 0x581 a.val b.val o.toNat]
  | .hmov d a => [wd 0x582 d.val a.val 0]
  | .hbind d a b => [wd 0x583 d.val a.val b.val]
  | .hperm d a n => [wd 0x584 d.val a.val n.val]
  | .hbund c a => [wd 0x585 c.val a.val 0]
  | .hthr d c => [wd 0x586 d.val c.val 0]
  | .hclrc c => [wd 0x587 c.val 0 0]
  | .hham d a b => [wd 0x588 d.val a.val b.val]
  | .hnear d a b c => [wd 0x589 d.val a.val b.val, Xm.toNat { c := c.val }]
  | .htie a => [wd 0x58A 0 a.val 0]
  | .hbit d n v => [wd 0x58B d.val n.val v.val]
  | .gopenW1 p t o => [wd 0x600 p.val 0 t.val, o.toNat]
  | .gopenW2 p t o => [wd 0x601 p.val 0 t.val, o.toNat]
  | .gopenW3 p t o => [wd 0x602 p.val 0 t.val, o.toNat]
  | .gopenW4 p t o => [wd 0x603 p.val 0 t.val, o.toNat]
  | .gyield a => [wd 0x604 0 a.val 0]
  | .gtake d => [wd 0x605 d.val 0 0]
  | .gback => [wd 0x606 0 0 0]
  | .gdone => [wd 0x607 0 0 0]
  | .gclose => [wd 0x608 0 0 0]
  | .repack k => [wd 0x609 0 k.val 0]
  | .travb r d => [wd 0x60A 0 r.val d.val]
  | .travs d => [wd 0x60B d.val 0 0]
  | .travc t => [wd 0x60C 0 t.val 0]
  | .trave => [wd 0x60D 0 0 0]
  | .draw d a n => [wd 0x680 d.val a.val n.val]
  | .vxemit i a => [wd 0x681 0 i.val a.val]
  | .primemit i p => [wd 0x682 0 i.val p.val]
  | .pxout n a => [wd 0x683 n.val a.val 0]
  | .discard => [wd 0x684 0 0 0]
  | .depw a => [wd 0x685 0 a.val 0]
  | .wrec s t a => [wd 0x686 s.val t.val a.val]
  | .linset a => [wd 0x687 0 a.val 0]
  | .watch n a => [wd 0x688 0 n.val a.val]
  | .replay d a => [wd 0x689 d.val a.val 0]
  | .eret => [wd 0x700 0 0 0]
  | .ctxsave d c a => [wd 0x701 d.val c.val a.val]
  | .ctxload d c a => [wd 0x702 d.val c.val a.val]
  | .ovtbl c v => [wd 0x703 0 c.val v.val]
  | .tlbinv d r => [wd 0x704 d.val r.val 0]
  | .resfence d c => [wd 0x705 d.val c.val 0]
  | .pgattr d r => [wd 0x706 d.val r.val 0]
  | .admitCluster r => [wd 0x707 0 r.val 0]
  | .raslog d a => [wd 0x708 d.val a.val 0]
  | .halt => [wd 0x709 0 0 0]
  | .hint h => [0xFF * 2 ^ 24 + h.toNat]
  | .clauseBegin _ _ => []
  | .flagClear _ _ => []
  | .fairnessTimer _ => []
  | .joinRelease _ _ => []
  | .groupRetire _ => []
  | .repackComplete _ _ => []
  | .routeEntryWake _ _ => []
  | .routeSpaceWake _ _ => []
  | .caravanLand _ => []
  | .fullBitWake _ => []
  | .continuationSpawn _ => []
  | .tokenResolve _ _ => []
  | .barrierResolve _ => []
  | .phaseBarrierWake _ => []
  | .mloopIteration _ _ => []
  | .thermalSample _ _ => []
  | .engineSwitch _ _ => []
  | .xallRegistration _ => []
  | .xallStart _ => []
  | .xallComplete _ _ => []
  | .blockPlacement _ => []
  | .blockSave _ => []
  | .pixelWatchdog _ => []
  | .binStage _ => []
  | .partialRender _ => []
  | .finalRender _ => []
  | .fragmentRetire _ _ => []
  | .nodeFire _ _ _ => []
  | .replayComplete _ => []
  | .leadTime _ => []
  | .deadline _ => []
  | .controlInterval _ _ => []
  | .governorPeriod => []
  | .patrolScrub _ => []
  | .correctedError _ _ => []
  | .uncorrectableError _ _ => []
  | .logicError _ _ _ _ => []
  | .faultBufferRetry _ => []
  | .faultAnswer _ _ => []
  | .contextSaveComplete _ => []
  | .contextLoadComplete _ => []
  | .tlbinvComplete _ _ => []
  | .resfenceComplete _ _ => []
  | .pgattrComplete _ _ => []
  | .haltWake _ => []
  | .create _ _ => []
  | .destroy _ _ => []
  | .mapPages _ _ => []
  | .unmapPages _ _ _ => []
  | .residency _ _ _ _ _ => []
  | .enqueue _ _ _ => []
  | .readMem _ _ _ => []
  | .writeMem _ _ _ => []
  | .watchRequest _ _ _ => []
  | .replayRequest _ _ _ => []
  | .telemetry _ => []
  | .raslogRequest _ => []
  | .attest _ _ => []
  | .bootstatus _ => []
  | .svcanswer _ _ _ => []
  | .faultanswer _ _ _ => []
  | .resume _ _ => []
  | .bindSlot _ _ => []
  | .uePacketRefused _ => []
  | .connectionClose _ => []
  | .routeEnable _ _ => []
  | .routeDisable _ _ => []
  | .routeWritebackDone _ _ => []
  | .headctlWrite _ _ => []
  | .registerWrite _ _ => []
  | .linkTraining _ => []
  | .peerRequest _ => []
  | .peerEnqueue _ _ _ => []
  | .peerLost _ => []
  | .boot _ => []
  | .powerDown => []
  | .powerUp => []
  | .portDown _ => []

/-- Decoding of a list of words, the missing ones read as 0. -/
def decodeWords (ws : List Nat) : Except Trap Instr :=
  decode (ws.getD 0 0) (ws.getD 1 0) (ws.getD 2 0)

/-- The instruction read from bits numbered as the opcode table numbers them: bit 0 the least
significant of the first word; the bits above `nbits` are 0. -/
def decodeTableWord (nbits w : Nat) : Option Instr :=
  let v := w % 2 ^ nbits
  match decode (fld v 0 32) (fld v 32 32) (fld v 64 32) with
  | .ok i => some i
  | .error _ => none

end Sys2Proof
end

