-- ==== Sys2Proof/Config.lean ====
section
/-! DEFINITION. What the spec leaves open: opaque constants with no body, so that no proof can see a
value of them (log entries 1 to 4 and 123). Every claim holds whatever they are. -/

namespace Sys2Proof.Config

/-- An Undefined 32-bit value (R4): the context slot, how many steps of that context have drawn values since the
slot was last empty (`State.undefCtrs`), and a position that tells apart the values of one step. Narrower and wider Undefined values
are cut from or built of these. -/
opaque undefWord : Nat → Nat → Nat → Word

/-- A value that the device as a whole is free in (how far CYCLE advances, where a damaged cell lies), by
`State.undefCtr` and a position. -/
opaque freeWord : Nat → Nat → Word

/-- The bind token the service gives a slot in its CREATE response (R411) (DESIGN CHOICE, log entry 2). -/
opaque bindToken : Nat → DWord

/-- The TAG the service chooses for an event (R411), by the event's number (DESIGN CHOICE, log entry 2). -/
opaque eventTag : Nat → Word

/-- The byte at a position of the HSS signature that a leaf of the identity key makes over a message
(R421). -/
opaque hssSign : Nat → List Byte → Nat → Byte

/-- The serial number of the module (R411). -/
opaque serial : DWord

/-- The bytes of the root hash blown into the fuses at manufacture (R419, R420). -/
opaque rootHash : Nat → Byte

/-- The virtual address at which the device keeps the PRIMBUF entries of a draw (R296): slot, draw
(DESIGN CHOICE, log entry 3). -/
opaque primbufBase : Nat → Nat → DWord

/-- The virtual address of the partial-render record of a draw (R296, R297): slot, draw
(DESIGN CHOICE, log entry 3). -/
opaque renderRecord : Nat → Nat → DWord

/-- A word of that record (R296, R330): slot, draw, position (DESIGN CHOICE, log entry 3). -/
opaque renderWord : Nat → Nat → Nat → Word

/-- The `.width` declaration of the kernel at an address of a slot, as the width code (R14, R294)
(DESIGN CHOICE, log entry 4). -/
opaque kernelWidth : Nat → DWord → Option (Fin 4)

/-- The `.pool` declaration of a kernel that the pipeline launches: its counts coded as POOL is, and its
scratchpad bytes (R294, R348) (DESIGN CHOICE, log entry 4). -/
opaque kernelPool : Nat → DWord → Nat × Nat

/-- Whether an access made while a cached translation differs from the tables uses the cached one
(R365): a free choice by `State.undefCtr`. -/
opaque useCached : Nat → Bool

/-- What CLUSTER reads on a Waystation core (R6) (DESIGN CHOICE, log entry 123). -/
opaque wayCluster : Word

/-- The virtual address of the PAYLOAD of a boot image in slot 0, and the PTROOT with which the boot sequence
creates that slot (R420, R422) (DESIGN CHOICE, log entry 123). -/
opaque payloadAt : DWord
opaque bootPtroot : DWord

/-- The address of the service kernel that performs a WATCH or REPLAY request (R412). -/
opaque serviceKernel : Bool → DWord

end Sys2Proof.Config
end

