-- ==== Sys2Proof/Machine/State.lean ====
section
/-! DEFINITION. The state of the machine as plain data: everything the spec names that an instruction
or a step of the device reads or writes. Sparse tables are lists of (key, value) in rising key order with
no entry equal to what an unlisted key reads as. -/

namespace Sys2Proof.Machine

/-- Why the machine stops. -/
inductive Fault where
  /-- Raised by the meaning of an instruction word when no clause is in flight, or by a step whose
  buffered word no longer decodes. No run from `State.reset` reaches it: a clause is decoded whole before
  it begins (R152). Safe: the model stops where the hardware has nothing to do. -/
  | noIssue
  deriving DecidableEq, Repr

/-- Why the model gives an instruction no meaning. -/
inductive Refusal where
  /-- The instruction of this mnemonic has no meaning in the model yet. Raised by an arm of `exec` only.
  Safe: the model stops. -/
  | notModelled (mnemonic : String)
  deriving DecidableEq, Repr

/-- A sparse table. -/
abbrev Table (α : Type) := List (Nat × α)

/-- A read-as-zero table of 32-bit registers. -/
abbrev Regs := Table Word

/-- The trap, fault and event codes of R368. -/
inductive Code where
  | clause | priv | illegal | mtype
  | linekind | badtarget | landkind | nulllink
  | window | joindead | user | launcharg | route
  | memarg | genarg | gennest | genmode | repackgen | repackrole | pipearg | discardstate | depwstate
  | debug | privarg
  | addrform | align | spadrange | spadperm | kindop
  | notmapped | writeprot | execprot | ptformat | poison | brickpoison | brickkind
  | brk
  deriving DecidableEq, Repr

/-- The kinds of page (R57, R361). -/
inductive PageKind where
  | plain | brick | compressed | lod
  deriving DecidableEq, Repr

/-- What a parked path or group waits for (R19, R357). -/
inductive Park where
  /-- RDEQ on a route: the park's number, the allocation index of the destination pair (R190), the
  instruction's clause header and word (R369). -/
  | route (r inst dst : Nat) (header word : DWord)
  /-- RENQ on a full route: the park's number, this lane's entry, none once it is appended (R189), the
  instruction's clause header and word (R369). -/
  | routeSpace (r inst : Nat) (entry : Option DWord) (header word : DWord)
  /-- TOKW on a token; the allocation index of the destination (R246). -/
  | token (t : Word) (dst : Nat)
  /-- MBARW on the phase barrier at a scratchpad offset while PHASE equals the bit (R251). -/
  | phase (off : Nat) (bit : Bool)
  /-- SVC, by the number of its event (R183). -/
  | svc (ev : Nat)
  /-- HALT, and whether the service has received something since (R356). -/
  | halt (called : Bool)
  /-- BRK, by the number of its record (R182). -/
  | brk (n : Nat)
  /-- A fault record awaits the service's answer (R372), by the record's number. -/
  | fault (n : Nat)
  /-- No handler record slot is free (R371); the record waits in `State.handlerQueue`. -/
  | handlerSlot
  deriving DecidableEq, Repr

/-- The state of a lane (R19, R357). -/
inductive LaneState where
  | runnable
  /-- Waits at the JOIN whose word lies at `site`, for the mask k (R22); its clause and the number of its
  arrival in the group (R23). -/
  | join (k : KReg) (site header : DWord) (seq : Nat)
  | parked (p : Park)
  /-- Suspended by a switch to consumer mode (R39). -/
  | producer
  /-- Its yield has not completed: the words still to append (R40). -/
  | pendingYield (ws : List Word)
  /-- Waits at a BAR (R248). -/
  | bar
  /-- Has executed GDONE (R39). -/
  | gdone
  /-- Waits at the REPACK whose word lies at `site`, with the key of R45; its clause. -/
  | repack (key : Nat) (site header : DWord)
  /-- Has executed GBACK in this pass, or is inactive for it (R41, R276). -/
  | passDone
  | exited
  deriving DecidableEq, Repr

/-- A pending or committed candidate of a walk (R281). -/
inductive Cand where
  | tri (t u v id : Word)
  | custom (id : Word) (node : DWord)
  | dist (ref d2 size : Word)
  deriving DecidableEq, Repr

/-- The fields of a traversal descriptor (R278). -/
structure TravDesc where
  nodeBase : DWord
  root     : Word
  flags    : Word
  theta2   : Word
  fmt      : DWord
  deriving DecidableEq, Repr

/-- A match of a watch comparator that an item carries: comparator and generation (R317, R318). -/
abbrev WatchHit := Nat × Word

/-- An open walk (R277-R283). -/
structure Walk where
  ray     : List Word
  descAt  : DWord
  desc    : Option TravDesc
  /-- Node references, the newest first, each with its key when it carries one (R281). -/
  stack   : List (Word × Option Word)
  tmax    : Word
  /-- The committed hit: t, u, v, primitive id. -/
  hit     : Option (Word × Word × Word × Word)
  cand    : Option Cand
  name    : Name
  watch   : List WatchHit
  deriving DecidableEq, Repr

/-- One texture or LOD load of an item (R320, R322): the words returned, the status word. -/
structure LodLoad where
  words  : List Word
  status : Word
  deriving DecidableEq, Repr

/-- The primitive a lane shades (R293): draw, number, its three vertices of W words. -/
structure Prim where
  number : Nat
  verts  : List (List Word)
  culled : Bool
  deriving DecidableEq, Repr

/-- A fragment, or the quad member a helper lane stands for (R293, R301, R333). -/
structure Frag where
  draw    : Nat
  prim    : Prim
  x       : Nat
  y       : Nat
  depth   : Word
  /-- PXOUT colours by target (R285). -/
  colors  : Table (List Word)
  depw    : Option Word
  /-- A helper from the start: made to complete the quad, or culled early (R302). -/
  helper0 : Bool
  discarded : Bool
  /-- The quad members that were fragments, and that were helpers (R320). -/
  quadCov : Nat
  quadHelp : Nat
  name    : Name
  watch   : List WatchHit
  /-- It comes from the visibility image (R299). -/
  resolve : Bool
  deriving DecidableEq, Repr

/-- One lane of a group (DESIGN CHOICE, log entry 6). -/
structure Lane where
  pc      : DWord := 0
  st      : LaneState := .exited
  helper  : Bool := false
  lin     : Name := 0
  /-- p0-p14, bit n for pn (R107). -/
  preds   : BitVec 15 := 0
  /-- The allocation's vector registers (R107). -/
  v       : Regs := []
  /-- Poisoned 16-bit halves of vector registers: 2 × register + half (R194). -/
  vPoison : List Nat := []
  /-- The clause temporaries written in this clause (R30). -/
  t       : Regs := []
  vbase   : Nat := 0
  /-- The producer frame's base while a consumer pass runs, and the consumer frame's (R38, R169). -/
  prodBase : Nat := 0
  consBase : Nat := 0
  /-- Where the lane stands in the producer body, and its state there, while a consumer pass runs (R39). -/
  prodPc  : DWord := 0
  prodSt  : LaneState := .exited
  /-- Counts as having executed GDONE (R39). -/
  gdone   : Bool := false
  /-- Position in the pass's batch (R41). -/
  entry   : Option Nat := none
  linset  : Word := 0
  launches : Nat := 0
  /-- The saved resume address of a handler (R351, R371). -/
  resume  : DWord := 0
  /-- Where a SKIP of the record that parks the lane sends it (R372). -/
  skipTo  : DWord := 0
  walk    : Option Walk := none
  frag    : Option Frag := none
  watch   : List WatchHit := []
  lods    : List LodLoad := []
  /-- GID and LANE when the thread was launched (R314, R322). -/
  gid0    : Nat := 0
  lane0   : Nat := 0
  deriving DecidableEq, Repr

/-- Where a long-latency result goes (R112). -/
inductive Dst where
  /-- Lane, allocation register. -/
  | v (lane reg : Nat)
  /-- Lane, clause temporary; lost with the clause (R30). -/
  | t (lane reg : Nat)
  | s (reg : Nat)
  | h (reg : Nat)
  deriving DecidableEq, Repr

/-- A result that waits for its flag (R28, R112). -/
structure Pending where
  flag  : Fin 12
  dst   : Dst
  word  : Word
  hyper : BitVec 8192 := 0
  /-- Another instruction wrote the register in the window (R112). -/
  clob  : Bool := false
  deriving DecidableEq, Repr

/-- The modes of a generator (R26). -/
inductive GenMode where
  | producer | consumer
  deriving DecidableEq, Repr

/-- An open generator and its serai (R38-R43, R275, R276). -/
structure Generator where
  offset : Nat
  cap    : Nat
  words  : Nat
  thr    : Nat
  label  : DWord
  mode   : GenMode
  /-- The entries, oldest first. -/
  entries : List (List Word)
  /-- Entries ever removed: the oldest entry's number. -/
  head   : Nat
  /-- Entries of the pass's batch, whether it has left the serai, and the batch once it has (R276). -/
  batchN : Nat
  taken  : Bool
  batch  : List (List Word)
  deriving DecidableEq, Repr

/-- What a matrix instruction holds in use until its flag clears (R76). -/
structure MatUse where
  flag : Fin 12
  tile : Nat
  /-- The tile elements it writes. -/
  elems : List Nat
  /-- Its scratchpad operand regions: iteration, offset, bytes; and its global ones: address, bytes. -/
  spads : List (Nat × Nat × Nat)
  globs : List (Nat × Nat)
  /-- The global image it writes. -/
  dest : Option (Nat × Nat)
  deriving DecidableEq, Repr

/-- Why a clause in flight does not go on (R61, R245, R305, R367, R373). -/
inductive Wait where
  /-- Scratchpad lines that must all be full: block, line. -/
  | line (ls : List (Nat × Nat))
  | tokenSlot
  /-- Room in the token store of a cluster. -/
  | storeSpace (cl : Nat)
  | answers | faultBuffer
  deriving DecidableEq, Repr

/-- A per-lane fault of the clause that is delivered at its end (R371) (DEDUCED, log entry 42). -/
structure Deferred where
  code : Code
  mask : Mask
  addr : DWord
  word : DWord
  header : DWord
  write  : Bool
  atomic : Bool
  source : Nat
  /-- The level and AUX of R369. -/
  level  : Nat := 0
  aux    : Word := 0
  /-- The access that a RETRY makes again, by the number of its `LateOp` (R372). -/
  num    : Nat := 0
  /-- The clause ran in a consumer pass (R41). -/
  pass   : Bool := false
  deriving DecidableEq, Repr

/-- A clause in flight (R27, R120-R123, R152). -/
structure Clause where
  header  : DWord
  /-- The address of the current instruction's word, and the words from it on. -/
  word    : DWord
  buf     : List Word
  /-- The current instruction's number, and LEN + 1. -/
  idx     : Nat
  count   : Nat
  setA    : Option (Fin 12)
  setB    : Option (Fin 12)
  tie     : BitVec 24
  /-- The lanes that began the clause, and those whose guard read 1 (R29). -/
  path    : Mask
  exec    : Mask
  /-- Lanes whose PC or state the clause has already settled. -/
  moved   : Mask
  /-- Lanes of the current instruction that performed before a wait. -/
  partialDone : Mask
  /-- The first word after the clause (R150) and the next clause header (R119). -/
  after   : DWord
  nextAt  : DWord
  wait    : Option Wait
  /-- The current instruction executes again, for the lanes that stay at it (R151). -/
  again   : Bool := false
  deferred : List Deferred
  deriving DecidableEq, Repr

/-- What an instance of LDLOD, TEX or TEXG has read (R341): residency bits by map bit address, none for one that
cannot be read, and whether level pages translate, by address. -/
structure LodSeen where
  bits  : List (Nat × Option Bool) := []
  pages : List (Nat × Bool) := []
  deriving DecidableEq, Repr

/-- A group (R13) (DESIGN CHOICE, log entry 6). -/
structure Group where
  uid    : Nat
  block  : Nat
  gid    : Nat
  /-- WIDTH in force (R14). -/
  width  : Nat
  lanes  : List Lane
  s      : Regs := []
  /-- Poisoned halves of scalar registers: 2 × register + half. -/
  sPoison : List Nat := []
  sbase  : Nat := 0
  k      : List Mask := [0, 0, 0, 0, 0, 0, 0, 0]
  flags  : BitVec 12 := 0
  h      : Table (BitVec 8192) := []
  /-- Poisoned 16-bit halves of hypervectors: 512 × register + half. -/
  hPoison : List Nat := []
  /-- 8,192 signed 8-bit counters each (R272). -/
  c      : Table (BitVec 65536) := []
  htie   : BitVec 8192 := 0
  /-- Element (i, j) of a tile at 64 i + j. -/
  z      : Table Regs := []
  /-- Poisoned halves of tiles: (tile, 2 × element + half). -/
  zPoison : List (Nat × Nat) := []
  /-- PROGRESS of each tile (R267). -/
  progress : Table Nat := []
  uses   : List MatUse := []
  svcarg : Word := 0
  role   : Nat := 0
  /-- Vector registers a lane may reach: the role budget or the allocation (R33, R168). -/
  budget : Nat := 512
  handler : Bool := false
  /-- Handler record slot of the lanes in handler state (R371). -/
  hslot  : Option Nat := none
  replay : Bool := false
  restored : Bool := false
  serial : Bool := false
  /-- Issue cycles of the running path while another waits (R24), and the path that must yield. -/
  fair   : Nat := 0
  yieldPc : Option DWord := none
  /-- The path whose turn it is, by its PC; PCs of paths in the order in which their turns ended (R24). -/
  lastPc : DWord := 0
  issued : List DWord := []
  /-- In serial mode, the lane whose turn it is (R25). -/
  serialLane : Option Nat := none
  /-- Per-lane faults of clauses that have ended whose lanes could not take them yet (R371). -/
  late   : List Deferred := []
  gen    : Option Generator := none
  clause : Option Clause := none
  pend   : List Pending := []
  /-- What the LOD instance in flight has read (R341). -/
  seen   : LodSeen := {}
  /-- In the copy that an instruction latches as it issues, the overflow table it read (R354); none in a group. -/
  ovt    : Option (BitVec 16) := none
  /-- Its REPACKROLE waits for room in the fault buffer (R338, R367). -/
  roleTrap : Bool := false
  /-- JOINs executed so far, which number the arrivals at them (R23). -/
  joins  : Nat := 0
  /-- Scalars at launch, for the retention slot (R322). -/
  s0     : Regs := []
  /-- A number of the last clause issue, none when it never issued, and the same on each port (R387). -/
  lastIssue : Option Nat := none
  lastA  : Option Nat := none
  lastB  : Option Nat := none
  core   : Nat := 0
  /-- The issue slot it is placed in; the lower one of a pair (R15). -/
  hwslot : Nat := 0
  /-- Its first lane of the slot when it is packed with others (R15). -/
  slotLane : Nat := 0
  /-- It runs a pixel kernel, a resolve, or a replay of a fragment (20, Pre-emption). -/
  pixel  : Bool := false
  /-- The pixel watchdog has fired: it stops at its next clause boundary (R388). -/
  expired : Bool := false
  deriving DecidableEq, Repr

/-- What a block runs (R292, R294, R296, R324). -/
inductive BlockKind where
  | compute
  | vertex (draw : Nat)
  | bin (draw : Nat)
  | pixel (draw : Nat)
  | raster (draw : Nat)
  /-- A replay block, by the replay's number. -/
  | replay (n : Nat)
  deriving DecidableEq, Repr

/-- The fields of a task record (R348). -/
structure TaskRec where
  kaddr : DWord
  partword : Word
  nblocks : Nat
  threads : Nat
  width : Nat
  prio  : Nat
  persist : Bool
  /-- Copy, matrix, epilogue: group count and budget (R33). -/
  roles : List (Nat × Nat)
  vregs : Nat
  sregs : Nat
  hcount : Nat
  ccount : Nat
  zcount : Nat
  ept   : Nat
  ipeak : Nat
  parent : Name
  arg   : DWord
  /-- Pool units beyond PARTWORD's on the first core it occupies: a replay's overlay (R326). -/
  extra : Nat := 0
  deriving DecidableEq, Repr

/-- A scratchpad line that is not plainly full: its full bit, its pending-byte count, and the offsets
of bytes stored to while a copy to them was pending (R60, R61). -/
structure SpadLine where
  full : Bool := true
  pendingBytes : Nat := 0
  clob : List Nat := []
  deriving DecidableEq, Repr

/-- A block (R13, R31, R53). -/
structure Block where
  uid    : Nat
  slot   : Nat
  grid   : Nat
  bid    : Nat
  kind   : BlockKind
  task   : TaskRec
  cluster : Nat
  /-- The cores it spans and, for each, the pool unit its scratchpad part starts at. -/
  cores  : List (Nat × Nat)
  spad   : List Host.Cell
  lines  : Table SpadLine
  /-- Poisoned scratchpad bytes. -/
  spadPoison : List Nat
  /-- Those whose mark a copy has brought from memory (R63). -/
  carried : List Nat := []
  launchSeq : Nat
  relaunches : Nat
  /-- Members of the block barrier that partial renders add and that have not arrived (R297). -/
  renders : Nat
  /-- The batch of a vertex block: vertices by index, and by primitive number the three indices and
  the culling bit (R285, R294). -/
  verts  : Table (List Word)
  prims  : Table (List Nat × Bool)
  /-- Groups it began with; groups that have retired count as arrived. -/
  ngroups : Nat
  energy : Nat
  current : Nat
  order  : Nat
  /-- The parity of the rounds its barrier has resolved (R357). -/
  round  : Bool := false
  /-- A save of it for the head of queue 7 has not fitted (R392). -/
  misfit : Bool := false
  deriving DecidableEq, Repr

/-- A grid: one launch (R13). -/
structure Grid where
  uid    : Nat
  slot   : Nat
  task   : TaskRec
  /-- The record's 64 bytes, for retention (R322). -/
  bytes  : List Byte
  kind   : BlockKind
  /-- The task's own name, which its threads' names follow (R314). -/
  name   : Name
  watch  : List WatchHit
  /-- The dispatch number, once admitted (R315). -/
  dispatch : Option Nat
  /-- Blocks placed so far, and blocks finished. -/
  placed : Nat
  done   : Nat
  /-- The clusters its blocks have been placed on (R349). -/
  homes  : List Nat := []
  /-- Scalars every group starts with beyond ARG (R292, R296, R304). -/
  scalars : Regs
  /-- A replay's single lane: GID and LANE, with its scalars (R324). -/
  only   : Option (Nat × Nat)
  /-- Fragments of a pixel grid, block by block: one lane list per block. -/
  frags  : List (List (Option Frag))
  deriving DecidableEq, Repr

/-- A registered WAITC continuation (R64, R247, R358). -/
structure Cont where
  block : Nat
  gid   : Nat
  width : Nat
  core  : Nat
  role  : Nat
  budget : Nat
  barrier : Bool
  /-- Its barrier has resolved. -/
  resolved : Bool
  token : Word
  mask  : Mask
  helpers : Mask
  label : DWord
  /-- The lanes' names, LINSET values and matches, by lane. -/
  lanes : List Lane
  s     : Regs
  sPoison : List Nat
  /-- The registering group's scalars at launch (R322). -/
  s0    : Regs := []
  pixel : Bool
  replay : Bool
  deriving DecidableEq, Repr

/-- One copy within a caravan: its lane (64 for CPB), global address, scratchpad offset and size; for a
copy into scratchpad the bytes it carries with their marks, none for a byte that a higher lane of the
instance also copies (R59, R63, R241). -/
structure Part where
  lane : Nat
  ga   : Nat
  off  : Nat
  n    : Nat
  data : List (Option (Byte × Bool))
  deriving DecidableEq, Repr

/-- A line transfer of CPA or CPB (R59, R60). -/
structure Caravan where
  num   : Nat
  group : Nat
  block : Nat
  flag  : Option (Fin 12)
  /-- From scratchpad to global memory (CPB with DIR 1). -/
  out   : Bool
  parts : List Part
  /-- The executing lanes of the instance, and its clause's addresses, for a fault record. -/
  mask  : Mask
  word  : DWord
  header : DWord
  /-- The three operands of a CPB as it read them at issue: global, scratchpad, sn (R242, R357). -/
  cpb   : Option (DWord × Word × Word) := none
  /-- The fault record that stops it. -/
  record : Option Nat
  deriving DecidableEq, Repr

/-- An engine operation in progress (R75, R242, R267, R268): the instruction and the group's registers
as it read them at issue (DEDUCED, log entry 86). -/
structure Engine where
  group : Nat
  flag  : Option (Fin 12)
  instr : Instr
  src   : Group
  /-- Iterations, lines or bytes already performed. -/
  done  : Nat
  /-- The fault record that stops it (R268). -/
  record : Option Nat
  word  : DWord
  header : DWord
  /-- Its tile or an operand was written in the window of R76: its result is Undefined. -/
  spoiled : Bool := false
  deriving DecidableEq, Repr

/-- An access that faulted and waits for the service: the instruction, the lanes, and the registers as
they were read (R78, R373) (DEDUCED, log entry 53). -/
structure Replayed where
  /-- The record that stops it; none while the fault buffer has no room for one (R367). -/
  record : Option Nat
  group : Nat
  flag  : Option (Fin 12)
  instr : Instr
  src   : Group
  mask  : Mask
  word  : DWord
  header : DWord
  /-- The bytes each lane's access touches: lane, address, size, scratchpad when true (R373). -/
  spans : List (Nat × Nat × Nat × Bool) := []
  deriving DecidableEq, Repr

/-- What the lanes that an unresolvable code or a trap holds do when the service answers RETRY (R372). -/
inductive Again where
  /-- Their access is made once more. -/
  | access (r : Replayed)
  /-- They execute the instruction at the head of a clause once more: the clause, and each lane's
  temporaries. -/
  | instr (c : Clause) (temps : List (Nat × Regs))
  /-- They wait again as they did. -/
  | wait (ls : List (Nat × LaneState))
  deriving DecidableEq, Repr

/-- Lanes that a RETRY of a record sends back to what they were doing: `num` names the deferred fault they
come from, `record` the record once there is one; answered when the lanes have the way free. -/
structure LateOp where
  num    : Nat
  record : Option Nat
  /-- RETRY has been answered, and the lanes execute the instruction before their next clause. -/
  ready  : Bool := false
  group  : Nat
  mask   : Mask
  what   : Again
  deriving DecidableEq, Repr

/-- An XALL in progress (R255-R258). -/
structure Xall where
  group : Nat
  slot  : Nat
  flag  : Option (Fin 12)
  dst   : Nat
  coll  : Nat
  seq   : Word
  src   : DWord
  dest  : DWord
  bytes : Nat
  ids   : List Nat
  rank  : Nat
  /-- Registrations of the other parties seen: (pod id, id list, S). -/
  seen  : List (Nat × List Nat × Nat)
  begun : Bool
  mismatch : Bool
  /-- Slices that have landed: the sender's rank, the bytes. -/
  slices : List (Nat × List Byte) := []
  /-- The fault record that stops it. -/
  record : Option Nat
  /-- Who made it, for its accesses and its fault record (R258, R369): cluster, core, BID, GID, block, the
  executing lanes, the clause and the word. -/
  cluster : Nat := 0
  core  : Nat := 0
  bid   : Nat := 0
  gid   : Nat := 0
  block : Nat := 0
  mask  : Mask := 0
  header : DWord := 0
  word  : DWord := 0
  /-- PTROOT of its context, once a CTXSAVE has taken that out of the machine: the link engines go on in its tables
  (R258). -/
  root  : Option DWord := none
  deriving DecidableEq, Repr

/-- An access of a fixed unit (R427): its job, which access of the job's step it is, its address, and whether it
writes. -/
structure FixedAccess where
  job   : Nat
  nth   : Nat
  addr  : Nat
  write : Bool
  deriving DecidableEq, Repr

/-- A fault record (R369) and what its answer acts on. -/
structure Record where
  num    : Nat
  code   : Code
  source : Nat
  slot   : Nat
  core   : Nat
  cluster : Nat
  bid    : Nat
  gid    : Nat
  write  : Bool
  atomic : Bool
  helper : Bool
  waiters : Nat
  mask   : Mask
  addr   : DWord
  header : DWord
  word   : DWord
  aux    : Word
  arg    : Word
  level  : Nat
  answer : Word
  /-- The groups whose lanes the record holds or merged, with their masks (R367). -/
  who    : List (Nat × Mask)
  block  : Nat
  /-- It has a 64 KiB unit, whose faults share it (R367). -/
  unit   : Bool
  /-- It is the first active read of an uncorrectable error of the pool (R376, R402). -/
  logic  : Bool := false
  /-- The accesses of fixed units that it stops, by draw (R427). -/
  draws  : List (Nat × FixedAccess) := []
  /-- Its index in the fault ring, when mirrored (R416). -/
  ring   : Option Nat
  /-- Its place in its cluster's fault buffer (R367, R357). -/
  index  : Nat := 0
  deriving DecidableEq, Repr

/-- A record whose lanes wait for a free record slot of the handler table (R371): the group, the lanes,
and each lane's resume address. -/
structure HandlerWait where
  record : Record
  group  : Nat
  mask   : Mask
  resume : List (Nat × DWord)
  deriving DecidableEq, Repr

/-- A watch specification (R316) and its comparator's generation (R318) (DESIGN CHOICE, log entry 7). -/
structure Comparator where
  value  : Name := 0
  mask   : Name := 0
  ring   : DWord := 0
  retain : DWord := 0
  log2cap : Nat := 0
  mode   : Nat := 0
  tgt    : Nat := 0
  inherit : Bool := false
  stages : BitVec 16 := 0
  gen    : Word := 0
  deriving DecidableEq, Repr

/-- A token slot (R245, R357) (DESIGN CHOICE, log entry 7). -/
structure Token where
  gen      : BitVec 24 := 0
  resolved : Bool := true
  skipped  : Bool := false
  deriving DecidableEq, Repr

/-- A dirty line of a cluster's L2 slice (R379): the physical line, the context and the address that wrote it,
the kind it was filled under. -/
structure Fill where
  cluster : Nat
  line : Nat
  slot : Nat
  va   : Nat
  kind : PageKind
  deriving DecidableEq, Repr

/-- The states of a context slot (R344). -/
inductive SlotState where
  | free | loading | live | saving
  deriving DecidableEq, Repr

/-- The context control block (R345, R346). -/
structure Ccb where
  prioCeil : Nat := 0
  debug    : Bool := false
  sys      : Bool := false
  part     : Nat := 0
  pinQuota : Nat := 0
  ovt      : BitVec 16 := 0x0015
  ptroot   : DWord := 0
  routeBase : DWord := 0
  nodeTab  : DWord := 0
  spillBase : DWord := 0
  spillBytes : Nat := 0
  fring    : DWord := 0
  htab     : DWord := 0
  hmask    : DWord := 0
  collTab  : DWord := 0
  energy   : DWord := 0
  perfReq  : Nat := 7
  drawCtr  : BitVec 24 := 0
  lastFrame : BitVec 20 := 0
  dispCtr  : BitVec 24 := 0
  deriving DecidableEq, Repr

/-- A route as the route cache holds it while EN is 1 (R34, R188). -/
structure RouteCache where
  head : Word
  tail : Word
  /-- Numbers of the parks that wait for an entry, then for space, in park order. -/
  waitEntry : List Nat
  waitSpace : List Nat
  deriving DecidableEq, Repr

/-- A held or sent service message: opcode, slot, connection when bound, tag, status, payload. -/
structure Message where
  op     : Nat
  conn   : Option Nat
  tag    : Word
  slot   : Nat
  status : Nat
  stamp  : DWord
  payload : List Byte
  deriving DecidableEq, Repr

/-- A context (R344, R345). -/
structure Ctx where
  slot   : Nat
  state  : SlotState := .free
  ccb    : Ccb := {}
  tokens : Table Token := []
  nextToken : Nat := 0
  comps  : Table Comparator := []
  /-- The comparators' last arming with MODE 1 or 2 (R318): RING, RETAIN, LOG2CAP. -/
  routes : Table RouteCache := []
  /-- Handler record slots in use (R371). -/
  hslots : List Nat := []
  /-- The connection the slot is bound to (R409), whether it was ever bound, and its bind token. -/
  conn   : Option Nat := none
  token  : Option DWord := none
  /-- Events held while unbound, oldest first, and those dropped (R413). -/
  held   : List Message := []
  dropped : Nat := 0
  /-- Where CTXSAVE writes the image, or 0 (R352), and the token slot that resolves. -/
  saveAt : DWord := 0
  saveTok : Option (Nat × Nat) := none
  /-- The CREATE or DESTROY request that is answered when the load or the save completes (R408). -/
  asked  : Option Req := none
  deriving DecidableEq, Repr

/-- A record in the token store (R304, R305). -/
structure NodeRec where
  slot  : Nat
  node  : Nat
  tag   : Word
  port  : Nat
  words : List Word
  name  : Name
  watch : List WatchHit
  /-- In the spill area of the context, no longer in the cluster's store. -/
  spilled : Bool
  deriving DecidableEq, Repr

/-- A cached translation: slot, 64 KiB unit, and the leaf it was filled from (R365, R379). -/
structure Tlb where
  cluster : Nat
  slot  : Nat
  unit  : Nat
  base  : Nat
  log2  : Nat
  kind  : PageKind
  write : Bool
  exec  : Bool
  owner : Nat
  side  : Nat
  deriving DecidableEq, Repr

/-- A core (R7, R398, R403) (DESIGN CHOICE, log entry 8). -/
structure CoreState where
  fenced : Bool := false
  /-- The active engine of the pair, and whether it has switched in this 1 ms period. -/
  engine : Bool := false
  switched : Bool := false
  /-- Times of the core's logic errors within the window, µs (R402). -/
  errors : List Nat := []
  deriving DecidableEq, Repr

/-- A cluster (DESIGN CHOICE, log entry 8). -/
structure ClusterState where
  part   : Nat := 0
  energyBudget : Nat := 0
  currentBudget : Nat := 0
  /-- Budgets that take effect at the next boundary (R356). -/
  newBudgets : Option (Nat × Nat) := none
  /-- Energy left in this interval, and whether a block has been charged in it (R384). -/
  left   : Nat := 0
  charged : Bool := false
  debt   : Nat := 0
  cap    : Nat := 7
  debtRun : Nat := 0
  level  : Nat := 0
  metered : Nat := 0
  cycle  : DWord := 0
  /-- Nanojoules carried per slot (R400). -/
  frac   : Table Nat := []
  hot    : Bool := false
  /-- Readings in 0.25 °C units: sensors 2k and 2k + 1 are core k's engine sites, 64 to 67 the cluster's own
  (R398). -/
  sensors : List (Nat × Nat) := []
  cores  : Table CoreState := []
  /-- Keys of the miss filter, newest first (R311): slot, RESID, level, page. -/
  filter : List (Nat × Nat × Nat × Nat) := []
  store  : List NodeRec := []
  /-- Slots whose rasteriser gate is closed (R388). -/
  gates  : List Nat := []
  /-- Heads whose hold is on this cluster (R395). -/
  holds  : List Nat := []
  /-- Instruction lines of kind 0x2 that it has fetched: slot, physical line, kernel address, whether the line
  is pinned (R349). -/
  pins   : List (Nat × Nat × DWord × Bool) := []
  placed : Nat := 0
  /-- Logic rail in mV (R396). -/
  rail   : Nat := 0
  deriving DecidableEq, Repr

/-- Why a block is being pre-empted (R392). -/
inductive Preempt where
  | queue7 | hold | ctxsave
  deriving DecidableEq, Repr

/-- A block saved whole: the block and its groups (R357, R391), with the operations saved in progress (R79) and
the XALLs that register again (R258). -/
structure Saved where
  block  : Block
  groups : List Group
  engines : List Engine
  xalls  : List Xall
  conts  : List Cont
  caravans : List Caravan
  lateOps : List LateOp
  /-- Bytes of its partition's pre-emption area; 0 in an image. -/
  bytes  : Nat
  /-- A number that rises with each save, and whether a CTXLOAD has brought it (R381, R391). -/
  order  : Nat
  loaded : Bool := false
  deriving DecidableEq, Repr

/-- What waits in a queue of a partition (R381). -/
inductive Waiting where
  /-- Blocks of a grid not yet placed. -/
  | grid (g : Nat)
  /-- A block to launch again with this BID (R375). -/
  | again (g bid relaunches : Nat)
  | saved (b : Saved)
  deriving DecidableEq, Repr

/-- An entry of a queue: partition, priority, slot, what waits. -/
structure QEntry where
  part : Nat
  prio : Nat
  slot : Nat
  what : Waiting
  deriving DecidableEq, Repr

/-- The stages of a draw: vertex blocks run, bin blocks run, the final render is due (R292-R302). -/
inductive DrawStage where
  | vertex | bin | rendering
  deriving DecidableEq, Repr

/-- A render under way (R297-R302). -/
structure Render where
  final : Bool
  /-- The block whose barrier the render arrives at; none for the final render and for the vendor default
  bin kernel's requests (R297, R426). -/
  block : Option Nat
  /-- The visibility image is being resolved (R299). -/
  resolving : Bool
  /-- The grids it waits for. -/
  grids : List Nat
  deriving DecidableEq, Repr

/-- A fragment culled early, with the stored depth and the targets' pixels as they stood then (R332). -/
structure Culled where
  frag   : Frag
  stored : Word
  targets : Table (List Byte)
  deriving DecidableEq, Repr

/-- A draw in flight (R285, R291). -/
structure Draw where
  uid    : Nat
  slot   : Nat
  number : Nat
  name   : Name
  watch  : List WatchHit
  sbAt   : DWord
  /-- The 256 bytes of the state block as it was read. -/
  sb     : List Byte
  nprims : Nat
  frame  : Nat
  prio   : Nat
  stage  : DrawStage
  prims  : Table Prim
  /-- The matches of each primitive (R317). -/
  primHits : Table (List WatchHit)
  /-- The grid of the vertex or bin kernel that runs, and the first primitive of the next bin block. -/
  grid   : Option Nat
  nextBin : Nat
  /-- Partial renders requested, in launch order, with the block that asked (R297). -/
  requests : List (Option Nat)
  render : Option Render
  /-- Primitives left for the vendor default bin kernel: (primitive, tiles left) (R426). -/
  defer  : List (Nat × List Nat)
  /-- Fragments that have not retired: x, y, primitive. -/
  pending : List (Nat × Nat × Nat)
  /-- Early-culled fragments whose records wait for earlier ones (R334). -/
  culled : List Culled
  /-- Where the device keeps its partial-render record and its PRIMBUF entries (R296, R330), and the slot and the
  number under which it chose them. -/
  recAt  : DWord := 0
  primAt : DWord := 0
  key    : Nat × Nat := (0, 0)
  /-- Fixed-unit accesses answered SKIP, for the step that is made again (R427). -/
  skips  : List FixedAccess
  /-- KILL or RELAUNCH answered a fault of a stage, 1 a render and 2 the retirement of fragments: the work of that
  stage and of those after it is dropped (R427). -/
  cut    : Option Nat := none
  deriving DecidableEq, Repr

/-- A replay in progress (R289, R323-R327). -/
structure Replay where
  num    : Nat
  group  : Nat
  slot   : Nat
  flag   : Option (Fin 12)
  dst    : Nat
  recBytes : List Byte
  retain : List Byte
  traceAt : DWord
  cap    : Nat
  cond   : BitVec 8
  /-- Entries of the trace, oldest first, each of four words, and how many of them are in memory. -/
  trace  : List (List Word)
  written : Nat
  /-- Instructions the item's lane has executed; offset and ordinal of the last one (R336). -/
  ordinal : Nat
  lastAt : Word × Word
  /-- The overlay: bytes by global address (R326). -/
  overlay : List Host.Cell
  /-- Kernel entry, the item's lane, its block once placed, and the grid that brings it. -/
  kernel : DWord
  lane   : Nat
  block  : Option Nat
  grid   : Option Nat
  /-- The status, once it is known. -/
  status : Option Nat
  /-- The fault record of a trace write, and whether a SKIP dropped the rest of the trace (R289). -/
  record : Option Nat
  dropped : Bool
  /-- The lanes that executed REPLAY, and its clause's addresses, for that record. -/
  mask   : Mask
  word   : DWord
  header : DWord
  deriving DecidableEq, Repr

/-- What a saved image holds of a context: its blocks, and beside them what the bytes of R357 do not show:
its grids and queue, its draws and its work-graph records; `body` is the bytes after the header. -/
structure SavedImage where
  body   : List Byte
  blocks : List Saved
  grids  : List Grid
  queue  : List QEntry
  draws  : List Draw
  nodes  : List (Nat × NodeRec)
  /-- How far the counter of its Undefined values had come (R4). -/
  drawn  : Nat := 0
  deriving DecidableEq, Repr

/-- A display head (R312, R393, R394) (DESIGN CHOICE, log entry 5). -/
structure Head where
  ctl    : Word := 0
  period : Word := 0
  lead   : Word := 0x00030D40
  /-- Values that take effect at the next deadline (R394). -/
  newPeriod : Option Word := none
  newLead : Option Word := none
  misses : Word := 0
  frames : Word := 0
  leadLost : Word := 0
  /-- A new frame has been presented since the last deadline. -/
  fresh  : Bool := false
  shown  : DWord := 0
  next   : DWord := 0
  deriving DecidableEq, Repr

/-- The registers and area of a partition (R391, R393) (DESIGN CHOICE, log entry 5). -/
structure PartState where
  saveBase : DWord := 0
  saveSize : Word := 0
  used   : Nat := 0
  watchdog : Word := 0
  saveFull : Word := 0
  deriving DecidableEq, Repr

/-- A RAS record (R405). -/
structure Ras where
  type  : Nat
  unit  : Nat
  slot  : Nat
  count : Nat
  time  : Nat
  paddr : Nat
  loc   : Nat
  detail : DWord
  deriving DecidableEq, Repr

/-- The boot image that runs (R420): its offset in the flash, the LENGTH and the ENTRY of its PAYLOAD. -/
structure Firmware where
  offset : Nat
  length : Nat
  entry  : Nat
  deriving DecidableEq, Repr

/-- An event the service has sent and that awaits an answer (R410, R411). -/
inductive Awaited where
  | svc (group : Nat) (mask : Mask)
  | fault (n : Nat)
  | brk (n : Nat)
  deriving DecidableEq, Repr

/-- What a service task executes (R412): WATCH with a comparator and a specification, REPLAY with the record's
and the trace's addresses. -/
inductive Job where
  | watch (n : Nat) (spec : List Byte)
  | replay (rec trace : DWord)
  deriving DecidableEq, Repr

/-- A one-thread task of a service kernel: its grid, the request it performs, what it executes (R412). -/
structure ServiceTask where
  grid : Nat
  req  : Req
  job  : Job
  deriving DecidableEq, Repr

/-- What the agenda says moves next: a step of the device or the next instruction of a group's clause. -/
inductive Act where
  | event (i : Instr)
  | issue (g : Nat)
  /-- A write of ROUTECTL: slot, route, EN (R415). -/
  | route (slot r : Nat) (en : Bool)
  /-- An active read of a pool error, a logic error of its core (R402): cluster, core, block, time. -/
  | logic (cl core block time : Nat)
  /-- The service carries out a PAGERETIRE request (R404): physical address, time. -/
  | retire (pa time : Nat)
  deriving DecidableEq, Repr

/-- The whole machine. -/
structure State where
  /-- The model's own schedule and input: what moves next, oldest first. -/
  agenda : List Act := []
  /-- The group whose clause in flight issues. -/
  turn   : Option Nat := none
  /-- The model's own counter of steps; the free values of the device as a whole are drawn by it. -/
  undefCtr : Nat := 0
  /-- The model's own counters of steps of each context, by slot; a context's Undefined values are drawn by
  its own (R4). -/
  undefCtrs : Table Nat := []
  /-- The model's own source of fresh numbers. -/
  fresh  : Nat := 0
  /-- Physical memory: HBM4E, LPDDR-6 and nothing else; an unlisted byte reads 0. -/
  mem    : List Host.Cell := []
  /-- Physical byte addresses that carry a poison mark. -/
  memPoison : List Nat := []
  /-- The same for decoded bytes of compressed blocks that a store in part has coded again: 64 × block + byte. -/
  codedPoison : List Nat := []
  groups : List Group := []
  blocks : List Block := []
  grids  : List Grid := []
  conts  : List Cont := []
  ctxs   : List Ctx := []
  clusters : Table ClusterState := []
  queue  : List QEntry := []
  /-- Blocks asked to stop: block, reason (R388). -/
  preempting : List (Nat × Preempt) := []
  caravans : List Caravan := []
  engines : List Engine := []
  replayed : List Replayed := []
  lateOps : List LateOp := []
  xalls  : List Xall := []
  records : List Record := []
  handlerQueue : List HandlerWait := []
  draws  : List Draw := []
  replays : List Replay := []
  tlbs   : List Tlb := []
  /-- Dirty lines of the L2 slices (R379). -/
  fills  : List Fill := []
  /-- Token operations under way: slot, token slot, what the step completes. -/
  tokenOps : List (Nat × Nat × Instr × Group) := []
  heads  : Table Head := []
  parts  : Table PartState := []
  /-- Saved images by physical address (R357). -/
  images : Table SavedImage := []
  /-- The Waystation control page (R415): FRBASE, BUSY routes, the bring-up words (R423). -/
  frbase : DWord := 0
  busyRoutes : List (Nat × Nat) := []
  bringup0 : Word := 0xFF000000
  lpok   : Word := 0
  tomup  : Word := 0
  /-- The fault ring's PUT as the device counts it (R416). -/
  ringPut : Word := 0
  /-- Pod id, and the peers lost (R417, R418). -/
  podId  : Option Nat := none
  lost   : List Nat := []
  /-- Registration flits of peers that no XALL here has met yet (R257). -/
  flits  : List XallFlit := []
  /-- RAS log, oldest first, unread; records dropped; records written by type (R405, R411). -/
  ras    : List Ras := []
  rasDropped : Nat := 0
  /-- The RAS unit's timer as its last record showed it, µs. -/
  rasClock : Nat := 0
  rasCount : Table Nat := []
  /-- Times of corrected errors by 64-byte block, µs (R402). -/
  corrected : List (Nat × Nat) := []
  /-- The device's retirement table, 64 KiB pages by number (R404); survives reset. -/
  retired : List Nat := []
  /-- Stacks 0-7, and packages 0-31 from bit 8 on, that bring-up has left out of every map (R422). -/
  failed : BitVec 40 := 0
  /-- Flash, blown fuses, the identity key's used leaves, the running image (R419-R421). -/
  flash  : List Host.Cell := []
  fuses  : Nat := 0
  leaf   : Nat := 0
  running : Option Firmware := none
  /-- Messages sent, newest first; events awaiting an answer by their number: slot, TAG, what waits. -/
  outbox : List Message := []
  awaited : Table (Nat × Word × Awaited) := []
  /-- Requests of ROD connections that wait for an earlier one of their connection, in arrival order (R414). -/
  waiting : List Instr := []
  /-- Service tasks whose requests have no response yet (R412). -/
  tasks  : List ServiceTask := []
  /-- Packets dropped by port (R406). -/
  drops  : Table Nat := []
  /-- Background budgets used in the period, by unit code (R401). -/
  scrubbed : Table Nat := []
  /-- The units whose period ends next, in the order in which their clocks reach it: an input, as the agenda is
  (R401) (DESIGN CHOICE, log entry 133). -/
  periods : List ScrubUnit := []
  /-- The SRAM rail in mV (R10, R397). -/
  sramRail : Nat := 0
  deriving DecidableEq, Repr

/-- The machine right after reset, before bring-up (R422): no context, nothing queued, the SRAM rail and the logic
rails at 0 mV. Heads, clusters and words hold their stated reset values, given as the defaults above; unlisted table
entries read as them (DESIGN CHOICE, log entry 9). -/
def State.reset : State := {}

end Sys2Proof.Machine
end

