-- ==== Sys2Proof/Machine/Table.lean ====
section
/-! DEFINITION. Sparse tables in one canonical form (keys strictly rising, no entry equal to what an
unlisted key reads as), byte lists, bit fields, sign extension, lane masks: the helpers every meaning
uses. -/

namespace Sys2Proof.Machine

/-- The value at a key; `d` is what an unlisted key reads as. -/
def tget {α : Type} (d : α) : Table α → Nat → α
  | [], _ => d
  | (k, v) :: t, n => if k = n then v else tget d t n

/-- Put a value at a key, keeping the keys' order. -/
def tput {α : Type} : Table α → Nat → α → Table α
  | [], n, v => [(n, v)]
  | (k, u) :: t, n, v =>
    if n < k then (n, v) :: (k, u) :: t else if n = k then (n, v) :: t else (k, u) :: tput t n v

/-- Keep the table entries whose key meets a test. -/
def tkeep {α : Type} (p : Nat → Bool) (t : Table α) : Table α := t.filter fun e => p e.1

/-- Write a value at a key, keeping the canonical form: writing `d` removes the entry. -/
def tset {α : Type} [DecidableEq α] (d : α) (t : Table α) (n : Nat) (v : α) : Table α :=
  if v = d then tkeep (fun k => k != n) t else tput t n v

/-- The keys are above `lo`, strictly rising, and no entry is `d`. -/
def tabove {α : Type} [DecidableEq α] (d : α) : Nat → Table α → Bool
  | _, [] => true
  | lo, (k, v) :: t => decide (lo ≤ k) && decide (v ≠ d) && tabove d (k + 1) t

/-- The canonical form. -/
def twf {α : Type} [DecidableEq α] (d : α) (t : Table α) : Bool := tabove d 0 t

/-- Memory in canonical form: what an unlisted byte reads as is 0 (log entry 10). -/
def Memory.wf (m : List Host.Cell) : Bool := twf (0 : Byte) m

/-- One byte of a memory (DESIGN CHOICE, log entry 10). -/
def Memory.read (m : List Host.Cell) (a : Nat) : Byte := tget 0 m a

/-- Write one byte. -/
def Memory.write (m : List Host.Cell) (a : Nat) (b : Byte) : List Host.Cell := tset 0 m a b

/-- Read `n` bytes from an address up. -/
def Memory.reads (m : List Host.Cell) (a : Nat) : Nat → List Byte
  | 0 => []
  | n + 1 => Memory.read m a :: Memory.reads m (a + 1) n

/-- Write a list of bytes from an address up. -/
def Memory.writes (m : List Host.Cell) (a : Nat) : List Byte → List Host.Cell
  | [] => m
  | b :: bs => Memory.writes (Memory.write m a b) (a + 1) bs

/-- The little-endian value of a list of bytes (R1). -/
def leNat : List Byte → Nat
  | [] => 0
  | b :: bs => b.toNat + 256 * leNat bs

/-- The `n` low bytes of a number, lowest first (R1). -/
def natLe : Nat → Nat → List Byte
  | 0, _ => []
  | n + 1, v => BitVec.ofNat 8 (v % 256) :: natLe n (v / 256)

/-- The 32-bit words of a list of bytes, the last padded with 0. -/
def wordsOf : Nat → List Byte → List Word
  | 0, _ => []
  | n + 1, bs => BitVec.ofNat 32 (leNat (bs.take 4)) :: wordsOf n (bs.drop 4)

/-- The bytes of a list of words. -/
def bytesOf : List Word → List Byte
  | [] => []
  | w :: ws => natLe 4 w.toNat ++ bytesOf ws

/-- The field of a list of bytes: `n` bytes at `off`, little-endian. -/
def fieldOf (bs : List Byte) (off n : Nat) : Nat := leNat ((bs.drop off).take n)

/-- Two words as a 64-bit value, the first the low half (R107). -/
def pair64 (lo hi : Word) : DWord := BitVec.ofNat 64 (lo.toNat + 2 ^ 32 * hi.toNat)

/-- The low word of a 64-bit value. -/
def lo32 (d : DWord) : Word := BitVec.ofNat 32 d.toNat

/-- The high word of a 64-bit value. -/
def hi32 (d : DWord) : Word := BitVec.ofNat 32 (d.toNat / 2 ^ 32)

/-- The signed value of an immediate (R125). -/
def sext {n : Nat} (b : BitVec n) : Int := b.toInt

/-- A signed byte count added to an address, modulo 2^64 (R108). -/
def addr64 (a : DWord) (off : Int) : DWord := a + BitVec.ofInt 64 off

/-- A signed byte count added to a scratchpad or cluster address, modulo 2^32 (R108). -/
def addr32 (a : Word) (off : Int) : Word := a + BitVec.ofInt 32 off

/-- Bits [63:57] equal bit 56 (R56). -/
def canonical (a : DWord) : Bool := a.toNat / 2 ^ 56 == 0 || a.toNat / 2 ^ 56 == 255

/-- Lane l is in the mask. -/
def mHas (m : Mask) (l : Nat) : Bool := m.getLsbD l

/-- The mask of one lane. -/
def maskOne (l : Nat) : Mask := BitVec.ofNat 64 (2 ^ l)

/-- The lanes of a mask, ascending. -/
def lanesOf (m : Mask) : List Nat := (List.range 64).filter fun l => m.getLsbD l

/-- The mask of a list of lanes. -/
def maskOf (ls : List Nat) : Mask := ls.foldl (fun m l => m ||| maskOne l) 0

/-- The number of lanes of a mask. -/
def maskCount (m : Mask) : Nat := (lanesOf m).length

/-- The lowest lane of a mask. -/
def maskLowest (m : Mask) : Nat := (lanesOf m).headD 0

/-- Insert into a list in rising order, once. -/
def insertNat (n : Nat) : List Nat → List Nat
  | [] => [n]
  | k :: ks => if n < k then n :: k :: ks else if n = k then k :: ks else k :: insertNat n ks

/-- Ceiling of a quotient. -/
def ceilDiv (a b : Nat) : Nat := (a + b - 1) / b

/-- A value between two limits. -/
def clampInt (x lo hi : Int) : Int := if x < lo then lo else if hi < x then hi else x

/-- A number of leading zero bits (R159, R196). -/
def clz32 (w : Word) : Nat := if w.toNat = 0 then 32 else 31 - Nat.log2 w.toNat

/-- The number of 1 bits among the low `n`. -/
def popNat : Nat → Nat → Nat
  | 0, _ => 0
  | n + 1, v => v % 2 + popNat n (v / 2)

end Sys2Proof.Machine
end

