-- ==== Sys2Proof/Machine/Float.lean ====
section
/-! DEFINITION. Floating point (04 R82-R85, R98-R100): values are exact, each result is rounded once.
An Undefined or platform value occurs nowhere here. -/

namespace Sys2Proof.Machine

/-- An interchange format (R82): exponent bits, fraction bits. -/
structure Fmt where
  eb : Nat
  fb : Nat
  deriving DecidableEq, Repr

/-- binary16. -/
def Fmt.f16 : Fmt := ⟨5, 10⟩
/-- BF16. -/
def Fmt.bf16 : Fmt := ⟨8, 7⟩
/-- binary32. -/
def Fmt.f32 : Fmt := ⟨8, 23⟩
/-- binary64. -/
def Fmt.f64 : Fmt := ⟨11, 52⟩

/-- The exponent bias. -/
def Fmt.bias (f : Fmt) : Nat := 2 ^ (f.eb - 1) - 1
/-- The exponent of the least subnormal's unit. -/
def Fmt.qmin (f : Fmt) : Int := 1 - (f.bias : Int) - f.fb
/-- The bits of +∞. -/
def Fmt.infBits (f : Fmt) : Nat := (2 ^ f.eb - 1) * 2 ^ f.fb
/-- The sign bit. -/
def Fmt.signBit (f : Fmt) : Nat := 2 ^ (f.eb + f.fb)
/-- The canonical NaN (R82). -/
def Fmt.nanBits (f : Fmt) : Nat := f.infBits + 2 ^ (f.fb - 1)

/-- An exact value: a NaN, an infinity, or (−1)^neg × m × 2^e; a zero keeps its sign. -/
inductive Num where
  | nan
  | inf (neg : Bool)
  | fin (neg : Bool) (m : Nat) (e : Int)
  deriving DecidableEq, Repr

/-- The exact value of the bits of a format (R82). -/
def Fmt.value (f : Fmt) (bits : Nat) : Num :=
  let neg := bits / f.signBit % 2 == 1
  let ex := bits / 2 ^ f.fb % 2 ^ f.eb
  let fr := bits % 2 ^ f.fb
  if ex = 2 ^ f.eb - 1 then (if fr = 0 then .inf neg else .nan)
  else if ex = 0 then .fin neg fr f.qmin
  else .fin neg (fr + 2 ^ f.fb) (f.qmin + (ex - 1 : Nat))

/-- Is the discarded part rounded up in magnitude: the kept part is odd, the remainder, the weight of
the last kept bit (R85)? -/
def roundUp (r : Rnd) (neg odd : Bool) (rem unit : Nat) : Bool :=
  match r with
  | .rn => decide (unit < 2 * rem) || (decide (2 * rem = unit) && odd)
  | .rz => false
  | .ru => !neg && decide (rem ≠ 0)
  | .rd => neg && decide (rem ≠ 0)

/-- The magnitude bits of a non-zero finite value rounded in a format with an unbounded exponent range:
`f.infBits` and above have overflowed (R83, R99). -/
def Fmt.roundMag (f : Fmt) (r : Rnd) (neg : Bool) (m : Nat) (e : Int) : Nat :=
  let top : Int := (Nat.log2 m : Int) + e
  let q : Int := max (top - f.fb) f.qmin
  let sh : Int := q - e
  let sig :=
    if sh ≤ 0 then m * 2 ^ (-sh).toNat
    else
      let unit := 2 ^ sh.toNat
      m / unit + (if roundUp r neg (m / unit % 2 == 1) (m % unit) unit then 1 else 0)
  sig + (q - f.qmin).toNat * 2 ^ f.fb

/-- The sign in the bits of a format. -/
def Fmt.withSign (f : Fmt) (neg : Bool) (mag : Nat) : Nat := if neg then f.signBit + mag else mag

/-- What IEEE 754 gives for an overflow in a mode (R83, R99). -/
def Fmt.ieeeOverflow (f : Fmt) (r : Rnd) (neg : Bool) : Nat :=
  let big := match r with | .rn => true | .rz => false | .ru => !neg | .rd => neg
  f.withSign neg (if big then f.infBits else f.infBits - 1)

/-- Round an exact value to a format once, IEEE 754 overflow for the mode (R83, R85, R200). -/
def Fmt.round (f : Fmt) (r : Rnd) : Num → Nat
  | .nan => f.nanBits
  | .inf neg => f.withSign neg f.infBits
  | .fin neg m e =>
    if m = 0 then f.withSign neg 0
    else
      let b := f.roundMag r neg m e
      if f.infBits ≤ b then f.ieeeOverflow r neg else f.withSign neg b

/-- Narrow an exact value under an action of the overflow table (R99): 0 the largest finite value, 1 the
IEEE 754 result, 2 the canonical NaN. -/
def Fmt.narrow (f : Fmt) (r : Rnd) (action : Nat) : Num → Nat
  | .fin neg m e =>
    if m = 0 then f.withSign neg 0
    else
      let b := f.roundMag r neg m e
      if f.infBits ≤ b then
        (if action = 0 then f.withSign neg (f.infBits - 1)
         else if action = 2 then f.nanBits else f.ieeeOverflow r neg)
      else f.withSign neg b
  | x => f.round r x

/-- The signed integer of a finite value at an exponent not above its own. -/
def scaled (neg : Bool) (m : Nat) (e q : Int) : Int :=
  let v : Int := (m * 2 ^ (e - q).toNat : Nat)
  if neg then -v else v

/-- A signed integer times a power of two; `z` is the sign a zero takes. -/
def Num.ofInt (v : Int) (q : Int) (z : Bool) : Num :=
  if v = 0 then .fin z 0 q else .fin (decide (v < 0)) v.natAbs q

/-- The exact sum; an exact zero sum is +0 but −0 under .rd, and equal signed zeros keep their sign
(R200). -/
def Num.add (r : Rnd) (a b : Num) : Num :=
  match a, b with
  | .nan, _ | _, .nan => .nan
  | .inf x, .inf y => if x = y then .inf x else .nan
  | .inf x, _ => .inf x
  | _, .inf y => .inf y
  | .fin x m e, .fin y n g =>
    let q := min e g
    let z := if m = 0 ∧ n = 0 ∧ x = y then x else decide (r = .rd)
    Num.ofInt (scaled x m e q + scaled y n g q) q z

/-- The negative. -/
def Num.neg : Num → Num
  | .nan => .nan
  | .inf x => .inf (!x)
  | .fin x m e => .fin (!x) m e

/-- The exact product (R200). -/
def Num.mul (a b : Num) : Num :=
  match a, b with
  | .nan, _ | _, .nan => .nan
  | .inf x, .inf y => .inf (xor x y)
  | .inf x, .fin y n _ => if n = 0 then .nan else .inf (xor x y)
  | .fin x m _, .inf y => if m = 0 then .nan else .inf (xor x y)
  | .fin x m e, .fin y n g => .fin (xor x y) (m * n) (e + g)

/-- The exact sum of a list, left to right in exact arithmetic, so that no order exists (R101). -/
def Num.sum (r : Rnd) : List Num → Num
  | [] => .fin false 0 0
  | [a] => a
  | a :: as => Num.add r a (Num.sum r as)

/-- The exact quotient, cut with a sticky bit below every rounding position (R209). -/
def Num.div (a b : Num) : Num :=
  match a, b with
  | .nan, _ | _, .nan => .nan
  | .inf _, .inf _ => .nan
  | .inf x, .fin y _ _ => .inf (xor x y)
  | .fin x _ _, .inf y => .fin (xor x y) 0 0
  | .fin x m e, .fin y n g =>
    if n = 0 then (if m = 0 then .nan else .inf (xor x y))
    else if m = 0 then .fin (xor x y) 0 0
    else
      let k := 128 + Nat.log2 n
      let num := m * 2 ^ k
      .fin (xor x y) (4 * (num / n) + (if num % n = 0 then 0 else 1)) (e - g - k - 2)

/-- The integer square root by bits: `r` the root so far, `b` the next bit's number. -/
def isqrtAux (n : Nat) : Nat → Nat → Nat
  | 0, r => r
  | b + 1, r => let t := r + 2 ^ b; isqrtAux n b (if t * t ≤ n then t else r)

/-- The largest r with r × r ≤ n. -/
def isqrt (n : Nat) : Nat := isqrtAux n (Nat.log2 n / 2 + 1) 0

/-- The square root with a sticky bit (R209). -/
def Num.sqrt : Num → Num
  | .nan => .nan
  | .inf neg => if neg then .nan else .inf false
  | .fin neg m e =>
    if m = 0 then .fin neg 0 0
    else if neg then .nan
    else
      let k : Nat := 256 + (if (e % 2 = 0) then 0 else 1)
      let n := m * 2 ^ k
      let r := isqrt n
      .fin false (4 * r + (if r * r = n then 0 else 1)) ((e - k) / 2 - 2)

/-- One over the square root with a sticky bit (R209). -/
def Num.rsqrt : Num → Num
  | .nan => .nan
  | .inf neg => if neg then .nan else .fin false 0 0
  | .fin neg m e =>
    if m = 0 then .inf neg
    else if neg then .nan
    else
      let k : Nat := 512 + 2 * Nat.log2 m + (if (e % 2 = 0) then 0 else 1)
      let n := 2 ^ k / m
      let r := isqrt n
      .fin false (4 * r + (if r * r * m = 2 ^ k then 0 else 1)) ((-e - k) / 2 - 2)

/-- Compare two numbers that are not NaN: is a < b? Zeros of either sign are equal. -/
def Num.lt (a b : Num) : Bool :=
  match a, b with
  | .nan, _ | _, .nan => false
  | .inf x, .inf y => x && !y
  | .inf x, .fin _ _ _ => x
  | .fin _ _ _, .inf y => !y
  | .fin x m e, .fin y n g =>
    let q := min e g
    decide (scaled x m e q < scaled y n g q)

/-- Equality of numbers, with +0 = −0 (R203). -/
def Num.eqv (a b : Num) : Bool :=
  match a, b with
  | .nan, _ | _, .nan => false
  | .inf x, .inf y => x == y
  | .fin x m e, .fin y n g =>
    let q := min e g
    decide (scaled x m e q = scaled y n g q)
  | _, _ => false

/-- A NaN. -/
def Num.isNan : Num → Bool | .nan => true | _ => false

/-- A negative sign. -/
def Num.isNeg : Num → Bool | .nan => false | .inf n => n | .fin n _ _ => n

/-- A zero. -/
def Num.isZero : Num → Bool | .fin _ m _ => decide (m = 0) | _ => false

/-- FMIN and FMAX (R202) on bits of a format; `max` selects FMAX. -/
def Fmt.minMax (f : Fmt) (isMax : Bool) (a b : Nat) : Nat :=
  let x := f.value a
  let y := f.value b
  if x.isNan then (if y.isNan then f.nanBits else b)
  else if y.isNan then a
  else if x.isZero && y.isZero then (if x.isNeg != isMax then a else b)
  else if x.lt y then (if isMax then b else a)
  else if y.lt x then (if isMax then a else b)
  else a

/-- A condition of FCMP (R203). -/
def Num.cond (c : FCond) (a b : Num) : Bool :=
  match c with
  | .eq => a.eqv b
  | .ne => !a.eqv b
  | .lt => a.lt b
  | .le => a.lt b || a.eqv b
  | .gt => b.lt a
  | .ge => b.lt a || a.eqv b
  | .un => a.isNan || b.isNan

/-- Addition on bits (R201). -/
def Fmt.add (f : Fmt) (r : Rnd) (a b : Nat) : Nat := f.round r (Num.add r (f.value a) (f.value b))
/-- Subtraction on bits (R201). -/
def Fmt.sub (f : Fmt) (r : Rnd) (a b : Nat) : Nat :=
  f.round r (Num.add r (f.value a) (f.value b).neg)
/-- Multiplication on bits (R201). -/
def Fmt.mul (f : Fmt) (r : Rnd) (a b : Nat) : Nat := f.round r (Num.mul (f.value a) (f.value b))
/-- Fused multiply-add on bits (R201). -/
def Fmt.fma (f : Fmt) (r : Rnd) (a b c : Nat) : Nat :=
  f.round r (Num.add r (Num.mul (f.value a) (f.value b)) (f.value c))
/-- Division on bits (R209). -/
def Fmt.div (f : Fmt) (r : Rnd) (a b : Nat) : Nat := f.round r (Num.div (f.value a) (f.value b))

/-- The bits of 1. -/
def Fmt.one (f : Fmt) : Nat := f.bias * 2 ^ f.fb

/-- A finite value rounded to an integer in a mode (R100, R207). -/
def roundInt (r : Rnd) (neg : Bool) (m : Nat) (e : Int) : Int :=
  let mag :=
    if 0 ≤ e then m * 2 ^ e.toNat
    else
      let unit := 2 ^ (-e).toNat
      m / unit + (if roundUp r neg (m / unit % 2 == 1) (m % unit) unit then 1 else 0)
  if neg then -(mag : Int) else mag

/-- Round to an integer and saturate to a range; NaN gives 0, infinities the range's ends (R100). -/
def Num.toInt (r : Rnd) (lo hi : Int) : Num → Int
  | .nan => 0
  | .inf neg => if neg then lo else hi
  | .fin neg m e => clampInt (roundInt r neg m e) lo hi

/-- FROUND (R210): an integral value in the mode, which stays a float and keeps its sign. -/
def Fmt.integral (f : Fmt) (r : Rnd) (a : Nat) : Nat :=
  match f.value a with
  | .fin neg m e => f.round .rz (.fin neg (roundInt r neg m e).natAbs 0)
  | x => f.round .rz x

/-- The largest integer not above a finite value. -/
def floorNum (neg : Bool) (m : Nat) (e : Int) : Int := roundInt .rd neg m e

/-- FFRACT (R210). -/
def Fmt.fract (f : Fmt) (a : Nat) : Nat :=
  match f.value a with
  | .fin neg m e =>
    let d := Num.add .rn (.fin neg m e) (Num.ofInt (-(floorNum neg m e)) 0 false)
    let b := match d with | .fin _ n g => f.round .rn (.fin false n g) | x => f.round .rn x
    if b = f.one then f.one - 1 else b
  | _ => f.nanBits

/-- FCLASS (R211): exactly one bit of ten. -/
def Fmt.classOf (f : Fmt) (a : Nat) : Nat :=
  let neg := a / f.signBit % 2 == 1
  let ex := a / 2 ^ f.fb % 2 ^ f.eb
  let fr := a % 2 ^ f.fb
  if ex = 2 ^ f.eb - 1 then
    (if fr = 0 then (if neg then 2 ^ 0 else 2 ^ 7)
     else if fr / 2 ^ (f.fb - 1) = 1 then 2 ^ 9 else 2 ^ 8)
  else if ex = 0 then
    (if fr = 0 then (if neg then 2 ^ 3 else 2 ^ 4) else (if neg then 2 ^ 2 else 2 ^ 5))
  else (if neg then 2 ^ 1 else 2 ^ 6)

/-! ### Elementary functions (R209)

A fixed-point enclosure of the exact result at a working precision of `p` bits, of an error below `2^16`
units; the precision grows until both ends of the enclosure round alike, which an irrational result
always reaches. -/

/-- The series of atanh(1/n) at `p` bits. -/
def atanhAux (n2 : Nat) : Nat → Nat → Nat → Nat
  | 0, _, _ => 0
  | fuel + 1, k, t => if t = 0 then 0 else t / k + atanhAux n2 fuel (k + 2) (t / n2)

/-- The series of atan(1/n) at `p` bits; `s` is the sign of the next term. -/
def atanAux (n2 : Nat) : Nat → Nat → Nat → Bool → Int
  | 0, _, _, _ => 0
  | fuel + 1, k, t, s =>
    if t = 0 then 0 else (if s then -((t / k : Nat) : Int) else ((t / k : Nat) : Int)) +
      atanAux n2 fuel (k + 2) (t / n2) (!s)

/-- ln 2 in units of 2^−p. -/
def ln2Fix (p : Nat) : Nat := 2 * atanhAux 9 p 1 (2 ^ p / 3)

/-- π in units of 2^−p. -/
def piFix (p : Nat) : Nat :=
  (16 * atanAux 25 p 1 (2 ^ p / 5) false - 4 * atanAux 57121 p 1 (2 ^ p / 239) false).toNat

/-- The series of e^x for 0 ≤ x < 1 in units of 2^−p: `t` is the term, `k` its number. -/
def expAux (p x : Nat) : Nat → Nat → Nat → Nat
  | 0, _, _ => 0
  | fuel + 1, k, t => if t = 0 then 0 else t + expAux p x fuel (k + 1) (t * x / 2 ^ p / k)

/-- The series of atanh(y/2^p). -/
def atanhFix (p y2 : Nat) : Nat → Nat → Nat → Nat
  | 0, _, _ => 0
  | fuel + 1, k, t => if t = 0 then 0 else t / k + atanhFix p y2 fuel (k + 2) (t * y2 / 2 ^ p)

/-- The alternating series of sine and cosine from the term `t` of number `k`. -/
def sinAux (p x2 : Nat) : Nat → Nat → Nat → Bool → Int
  | 0, _, _, _ => 0
  | fuel + 1, k, t, s =>
    if t = 0 then 0 else (if s then -(t : Int) else (t : Int)) +
      sinAux p x2 fuel (k + 2) (t * x2 / 2 ^ p / ((k + 1) * (k + 2))) (!s)

/-- Round an enclosure `v ± 2^16` units of 2^−q when both ends round alike (UNVERIFIED, log entry 110). -/
def Fmt.settle (f : Fmt) (v : Int) (q : Int) : Option Nat :=
  let a := f.round .rn (Num.ofInt (v - 65536) (-q) false)
  let b := f.round .rn (Num.ofInt (v + 65536) (-q) false)
  if a = b then some a else none

/-- Try growing precisions; `last` if none settles, which no operand reaches (UNVERIFIED, log entry 110). -/
def refine (g : Nat → Option Nat) (last : Nat) : List Nat → Nat
  | [] => last
  | p :: ps => match g p with | some b => b | none => refine g last ps

/-- 2^x of a finite value, as an enclosure at `p` bits (R209). -/
def exp2At (f : Fmt) (neg : Bool) (m : Nat) (e : Int) (p : Nat) : Option Nat :=
  let n := floorNum neg m e
  let fr := Num.add .rn (.fin neg m e) (Num.ofInt (-n) 0 false)
  let x := match fr with
    | .fin _ k g => if 0 ≤ g + p then k * 2 ^ (g + p).toNat else k / 2 ^ (-(g + p)).toNat
    | _ => 0
  let y := x * ln2Fix p / 2 ^ p
  f.settle (expAux p y p 1 (2 ^ p) : Nat) (p - n)

/-- FEXP2 (R209). -/
def Fmt.exp2 (f : Fmt) (a : Nat) : Nat :=
  match f.value a with
  | .nan => f.nanBits
  | .inf neg => if neg then 0 else f.infBits
  | .fin neg m e =>
    if m = 0 then f.one
    else if 12 ≤ (Nat.log2 m : Int) + e then (if neg then 0 else f.infBits)
    else if roundInt .rz neg m e * 2 ^ (-e).toNat = (if neg then -(m : Int) else m) ∨ 0 ≤ e then
      f.round .rn (.fin false 1 (roundInt .rz neg m e))
    else refine (exp2At f neg m e) f.one [160, 320, 640, 1400]

/-- log2 of a positive finite value that is no power of two, at `p` bits (R209). -/
def log2At (f : Fmt) (m : Nat) (e : Int) (p : Nat) : Option Nat :=
  let k := Nat.log2 m
  let t := m * 2 ^ p / 2 ^ k
  let y := (t - 2 ^ p) * 2 ^ p / (t + 2 ^ p)
  let ln := 2 * atanhFix p (y * y / 2 ^ p) p 1 y
  f.settle ((ln * 2 ^ p / ln2Fix p : Nat) + (e + k) * 2 ^ p) p

/-- FLOG2 (R209). -/
def Fmt.log2 (f : Fmt) (a : Nat) : Nat :=
  match f.value a with
  | .nan => f.nanBits
  | .inf neg => if neg then f.nanBits else f.infBits
  | .fin neg m e =>
    if m = 0 then f.withSign true f.infBits
    else if neg then f.nanBits
    else if m = 2 ^ Nat.log2 m then f.round .rn (Num.ofInt (e + Nat.log2 m) 0 false)
    else refine (log2At f m e) f.one [256, 512, 1024]

/-- Sine or cosine of a finite value at `p` bits, π taken to as many more bits as the value is large
(R209). -/
def sinAt (f : Fmt) (cos neg : Bool) (m : Nat) (e : Int) (p : Nat) : Option Nat :=
  let q := p + ((Nat.log2 m : Int) + e + 8).toNat
  let x := if 0 ≤ e + q then m * 2 ^ (e + q).toNat else m / 2 ^ (-(e + q)).toNat
  let half := piFix q / 2
  let n := x / half
  let r := (x % half) / 2 ^ (q - p)
  let r2 := r * r / 2 ^ p
  let quad := (n + if cos then 1 else 0) % 4
  let v := if quad % 2 = 0 then sinAux p r2 p 1 r false else sinAux p r2 p 0 (2 ^ p) false
  let flip := xor (decide (2 ≤ quad)) (neg && !cos)
  f.settle (if flip then -v else v) p

/-- FSIN (R209). Below 2^−30 the result rounds to the operand. -/
def Fmt.sin (f : Fmt) (a : Nat) : Nat :=
  match f.value a with
  | .fin neg m e =>
    if m = 0 ∨ (Nat.log2 m : Int) + e < -30 then a
    else refine (sinAt f false neg m e) f.one [224, 448, 1024]
  | _ => f.nanBits

/-- FCOS (R209). Below 2^−30 the result rounds to 1. -/
def Fmt.cos (f : Fmt) (a : Nat) : Nat :=
  match f.value a with
  | .fin neg m e =>
    if m = 0 ∨ (Nat.log2 m : Int) + e < -30 then f.one
    else refine (sinAt f true neg m e) f.one [224, 448, 1024]
  | _ => f.nanBits

/-- The format of a floating type of CVT. -/
def fmtOf : NumTy → Option Fmt
  | .f16 => some .f16 | .bf16 => some .bf16 | .f32 => some .f32 | .f64 => some .f64 | _ => none

/-- The range of an integer type of CVT (R81). -/
def intRange : NumTy → Int × Int
  | .s8 => (-128, 127) | .s16 => (-32768, 32767)
  | .s32 => (-(2 ^ 31), 2 ^ 31 - 1) | .s64 => (-(2 ^ 63), 2 ^ 63 - 1)
  | .u32 => (0, 2 ^ 32 - 1) | _ => (0, 2 ^ 64 - 1)

/-- The value of a source register of CVT (R206): the low bits of its width. -/
def cvtSource (t : NumTy) (bits : Nat) : Num :=
  let sx (n : Nat) : Num := Num.ofInt ((BitVec.ofNat n bits).toInt) 0 false
  match t with
  | .s8 => sx 8 | .s16 => sx 16 | .s32 => sx 32 | .s64 => sx 64
  | .u32 => .fin false (bits % 2 ^ 32) 0 | .u64 => .fin false (bits % 2 ^ 64) 0
  | .f16 => Fmt.f16.value (bits % 2 ^ 16) | .bf16 => Fmt.bf16.value (bits % 2 ^ 16)
  | .f32 => Fmt.f32.value (bits % 2 ^ 32) | .f64 => Fmt.f64.value (bits % 2 ^ 64)

/-- The 64-bit register value of a CVT result (R206, R207): s8 and s16 sign-extended to 32 bits. -/
def cvtResult (t : NumTy) (r : Rnd) (x : Num) : Nat :=
  match fmtOf t with
  | some f => f.round r x
  | none =>
    let v := x.toInt r (intRange t).1 (intRange t).2
    match t with
    | .s64 | .u64 => (v % 2 ^ 64).toNat
    | _ => (v % 2 ^ 32).toNat

/-- The action of the overflow table for a format (R98): BFP 6, BF16 4, F16 2, F32 0. -/
def ovAction (ovt : BitVec 16) (f : Fmt) : Nat :=
  if f = .f32 then ovt.toNat % 4
  else if f = .f16 then ovt.toNat / 4 % 4
  else if f = .bf16 then ovt.toNat / 16 % 4
  else 1

/-- Narrow the bits of one format to another by CVTN's rules (R99, R208). -/
def narrowBits (ovt : BitVec 16) (src dst : Fmt) (r : Rnd) (bits : Nat) : Nat :=
  dst.narrow r (ovAction ovt dst) (src.value bits)

/-- Addition of binary32 words, .rn. -/
def f32add (a b : Word) : Word := BitVec.ofNat 32 (Fmt.f32.add .rn a.toNat b.toNat)
/-- Subtraction of binary32 words, .rn. -/
def f32sub (a b : Word) : Word := BitVec.ofNat 32 (Fmt.f32.sub .rn a.toNat b.toNat)
/-- Multiplication of binary32 words, .rn. -/
def f32mul (a b : Word) : Word := BitVec.ofNat 32 (Fmt.f32.mul .rn a.toNat b.toNat)
/-- Fused multiply-add of binary32 words, .rn. -/
def f32fma (a b c : Word) : Word := BitVec.ofNat 32 (Fmt.f32.fma .rn a.toNat b.toNat c.toNat)
/-- Division of binary32 words, .rn. -/
def f32div (a b : Word) : Word := BitVec.ofNat 32 (Fmt.f32.div .rn a.toNat b.toNat)
/-- FMIN of binary32 words. -/
def f32min (a b : Word) : Word := BitVec.ofNat 32 (Fmt.f32.minMax false a.toNat b.toNat)
/-- FMAX of binary32 words. -/
def f32max (a b : Word) : Word := BitVec.ofNat 32 (Fmt.f32.minMax true a.toNat b.toNat)
/-- The exact value of a binary32 word. -/
def f32val (a : Word) : Num := Fmt.f32.value a.toNat
/-- A comparison of binary32 words. -/
def f32cond (c : FCond) (a b : Word) : Bool := (f32val a).cond c (f32val b)
/-- The sign of a binary32 word flipped. -/
def f32neg (a : Word) : Word := a ^^^ 0x80000000

end Sys2Proof.Machine
end

