-- ==== Sys2Proof/Machine/Bricks.lean ====
section
/-! DEFINITION. Bricks, the quantiser and the fixed-rate compressed coder (04 R86-R97). A brick is a list
of 64 bytes; a coded block is a number of 128 bits; every choice is made in exact arithmetic. -/

namespace Sys2Proof.Machine

/-- `n` bits of a number from bit `lo` up. -/
def bitsAt (v lo n : Nat) : Nat := v / 2 ^ lo % 2 ^ n

/-- The two's-complement value of the low `n` bits. -/
def signedAt (v lo n : Nat) : Int :=
  let b := bitsAt v lo n
  if 2 ^ (n - 1) ≤ b then (b : Int) - 2 ^ n else b

/-- KIND of a brick (R86). -/
def brickKind (b : List Byte) : Nat := fieldOf b 0 1 / 32

/-- The BFP width code MW (R86). -/
def brickMw (b : List Byte) : Nat := fieldOf b 0 1 / 4 % 8

/-- The scale E (R86). -/
def brickE (b : List Byte) : Nat := fieldOf b 1 1

/-- A poison brick (R90). -/
def brickPoison (b : List Byte) : Bool := brickKind b == 7

/-- The number of elements of a BFP brick of width `m` (R88). -/
def bfpCount (m : Nat) : Nat := 496 / m

/-- The number of elements (R87, R89). -/
def brickCount (b : List Byte) : Nat :=
  match brickKind b with
  | 1 => if brickMw b = 7 then 62 else bfpCount (brickMw b + 2)
  | 2 | 3 => 31
  | 6 => 48
  | 7 => 0
  | _ => 62

/-- An exact value times 2^k. -/
def Num.scale (k : Int) : Num → Num
  | .fin n m e => .fin n m (e + k)
  | x => x

/-- Mantissa word k of a coded block and its exponent weight, as an exact value (R94). -/
def blockFinite (m : Int) (q : Int) : Word := BitVec.ofNat 32 (Fmt.f32.round .rn (Num.ofInt m q false))

/-- Word k of a coded block; its mantissas are two's complement (R94) (DESIGN CHOICE, log entry 126). -/
def blockWord (c k : Nat) : Word :=
  let emax : Int := (bitsAt c 2 8 : Nat)
  match bitsAt c 0 2 with
  | 0 => blockFinite (signedAt c (10 + 7 * k) 7) (emax - 132)
  | 1 => BitVec.ofNat 32 (bitsAt c 10 32)
  | 2 =>
    match bitsAt c (90 + 2 * k) 2 with
    | 0 => blockFinite (signedAt c (10 + 5 * k) 5) (emax - 130)
    | 1 => BitVec.ofNat 32 Fmt.f32.infBits
    | 2 => BitVec.ofNat 32 (Fmt.f32.withSign true Fmt.f32.infBits)
    | _ => BitVec.ofNat 32 Fmt.f32.nanBits
  | _ => BitVec.ofNat 32 Fmt.f32.nanBits

/-- The sixteen words of a coded block (R94). -/
def blockDecode (c : Nat) : List Word := (List.range 16).map (blockWord c)

/-- The exponent field of a binary32 word. -/
def expField (w : Word) : Nat := w.toNat / 2 ^ 23 % 256

/-- Emax over the finite words, at least 1 (R95). -/
def blockEmax (ws : List Word) : Nat :=
  ws.foldl (fun e w => if expField w = 255 then e else max e (expField w)) 1

/-- The saturated mantissa of a finite word at weight 2^q, and 0 of a word that is not finite (R95)
(DESIGN CHOICE, log entry 126). -/
def blockMant (w : Word) (q lim : Int) : Int :=
  match f32val w with
  | .fin n m e => clampInt (roundInt .rn n m (e - q)) (-lim) lim
  | _ => 0

/-- Pack fields of `n` bits upward from bit `lo`. -/
def packBits (n : Nat) : Nat → List Int → Nat
  | _, [] => 0
  | lo, v :: vs => (v % (2 ^ n : Nat)).toNat * 2 ^ lo + packBits n (lo + n) vs

/-- The code of a special word in mode 2 (R94). -/
def blockCode (w : Word) : Int :=
  match f32val w with
  | .fin _ _ _ => 0
  | .inf false => 1
  | .inf true => 2
  | .nan => 3

/-- The code of sixteen words (R95). -/
def blockEncode (ws : List Word) : Nat :=
  let emax := blockEmax ws
  if ws.all fun w => w == ws.headD 0 then 1 + (ws.headD 0).toNat * 2 ^ 10
  else if ws.any fun w => expField w == 255 then
    2 + emax * 4 + packBits 5 10 (ws.map fun w => blockMant w ((emax : Int) - 130) 15) +
      packBits 2 90 (ws.map blockCode)
  else emax * 4 + packBits 7 10 (ws.map fun w => blockMant w ((emax : Int) - 132) 63)

/-- A finite binary32 value in units of 2^−149; 0 for the others. -/
def f32units (w : Word) : Int :=
  match f32val w with
  | .fin n m e => scaled n m e (-149)
  | _ => 0

/-- The side-table entry of a block: its largest absolute error rounded up to binary16 (R96). -/
def blockError (ws : List Word) (c : Nat) : Nat :=
  let errs := (ws.zip (blockDecode c)).map fun (x, y) =>
    if expField y = 255 then 0 else (f32units x - f32units y).natAbs
  Fmt.f16.round .ru (.fin false (errs.foldl max 0) (-149))

/-- The exact value of element `i` of a brick that is no poison brick; an element beyond the count is +0
(R87-R89, R232). -/
def brickElem (b : List Byte) (i : Nat) : Num :=
  let k := brickKind b
  let e := brickE b
  let all := leNat b
  let zero : Num := .fin false 0 0
  if brickCount b ≤ i then zero
  else if k = 0 then .fin false (fieldOf b (2 + i) 1) 0
  else if k = 5 ∨ (k = 1 ∧ brickMw b = 7) then .nan
  else if k = 6 then f32val (blockWord (fieldOf b (2 + 16 * (i / 16)) 16) (i % 16))
  else if e = 0 then zero
  else if e = 255 then .nan
  else
    let s : Int := (e : Int) - 127
    match k with
    | 1 =>
      let m := brickMw b + 2
      Num.ofInt (signedAt all (16 + m * i) m) (s - (m - 1 : Nat)) false
    | 2 => (Fmt.f16.value (fieldOf b (2 + 2 * i) 2)).scale s
    | 3 => (Fmt.bf16.value (fieldOf b (2 + 2 * i) 2)).scale s
    | _ => Num.ofInt (signedAt (fieldOf b (2 + i) 1) 0 8) s false

/-- Element `i` as binary32 (R91). -/
def brickWord (b : List Byte) (i : Nat) : Word := BitVec.ofNat 32 (Fmt.f32.round .rn (brickElem b i))

/-! ### The quantiser (R92) -/

/-- What the quantiser fits: the width of a mantissa and the weight of its last bit beside E. -/
structure QFmt where
  kind : Nat
  mw   : Nat
  bits : Nat
  /-- S(E) = 2^(E − 127 − sub). -/
  sub  : Nat
  deriving DecidableEq, Repr

/-- A BFP brick of width m. -/
def QFmt.bfp (m : Nat) : QFmt := ⟨1, m - 2, m, m - 1⟩
/-- An INT8 brick. -/
def QFmt.int8 : QFmt := ⟨4, 0, 8, 0⟩

/-- The element count of the kind. -/
def QFmt.count (q : QFmt) : Nat := 496 / q.bits
/-- The least mantissa. -/
def QFmt.lo (q : QFmt) : Int := -(2 ^ (q.bits - 1) : Nat)
/-- The greatest mantissa. -/
def QFmt.hi (q : QFmt) : Int := (2 ^ (q.bits - 1) : Nat) - 1

/-- S(E) in units of 2^−149, a power of two: its exponent. -/
def QFmt.exp (q : QFmt) (e : Nat) : Nat := e + 22 - q.sub

/-- Fits(E), unrounded, over inputs in units of 2^−149. -/
def QFmt.fits (q : QFmt) (xs : List Int) (e : Nat) : Bool :=
  let s : Int := (2 ^ q.exp e : Nat)
  xs.all fun x => decide (q.lo * s ≤ x) && decide (x ≤ q.hi * s)

/-- The brick of mantissas at E. -/
def QFmt.pack (q : QFmt) (e : Nat) (ms : List Int) : List Byte :=
  natLe 64 (q.kind * 32 + q.mw * 4 + e * 256 + packBits q.bits 16 ms)

/-- A candidate: E, squared error, saturated elements, mantissas. -/
structure QCand where
  e : Nat
  sse : Nat
  nsat : Nat
  ms : List Int
  deriving DecidableEq, Repr

/-- The candidate at E. -/
def QFmt.cand (q : QFmt) (xs : List Int) (e : Nat) : QCand :=
  let k := q.exp e
  let qs := xs.map fun x => roundInt .rn (decide (x < 0)) x.natAbs (-(k : Int))
  let ms := qs.map fun v => clampInt v q.lo q.hi
  { e := e
    sse := ((xs.zip ms).map fun (x, m) => (x - m * (2 ^ k : Nat)).natAbs ^ 2).sum
    nsat := ((qs.zip ms).filter fun (v, m) => decide (v ≠ m)).length
    ms := ms }

/-- The later candidate wins a smaller error, or an equal one with no more saturated elements. -/
def QCand.better (a b : QCand) : QCand :=
  if b.sse < a.sse ∨ (b.sse = a.sse ∧ b.nsat ≤ a.nsat) then b else a

/-- The quantiser (R92) on binary32 inputs; `action` is OvTable(BFP): 0 largest finite, 2 NaN. -/
def quantise (q : QFmt) (action : Nat) (inputs : List Word) : List Byte :=
  let ws := (inputs ++ List.replicate q.count 0).take q.count
  let clip (w : Word) : Word :=
    if action = 0 ∧ expField w = 255 then BitVec.ofNat 32 (w.toNat / 2 ^ 31 * 2 ^ 31 + 0x7F7FFFFF) else w
  if ws.any fun w => (f32val w).isNan then q.pack 255 []
  else
    let ws := ws.map clip
    let anyInf := ws.any fun w => expField w == 255
    let xs := ws.map f32units
    if !anyInf && xs.all fun x => x == 0 then q.pack 0 []
    else
      let choose (e0 : Nat) : List Byte :=
        let best := ([e0 - 1, e0, e0 + 1].filter fun e => 1 ≤ e ∧ e ≤ 254).foldl
          (fun (b : Option QCand) e => match b with
            | none => some (q.cand xs e)
            | some b => some (b.better (q.cand xs e))) none
        match best with
        | some b => q.pack b.e b.ms
        | none => q.pack 0 []
      match if anyInf then none else (List.range' 1 254).find? fun e => q.fits xs e with
      | some e0 => choose e0
      | none => if action = 2 then q.pack 255 [] else choose 254

/-- An FP16 or BF16 brick of 31 elements (R93, R99). -/
def floatBrick (ovt : BitVec 16) (kind : Nat) (f : Fmt) (inputs : List Word) : List Byte :=
  let ws := (inputs ++ List.replicate 31 0).take 31
  natLe 1 (kind * 32) ++ natLe 1 127 ++
    (ws.map fun w => natLe 2 (narrowBits ovt .f32 f .rn w.toNat)).flatten

/-- The brick STBRK writes (R92, R93). -/
def brickOf (ovt : BitVec 16) (k : BrickTy) (inputs : List Word) : List Byte :=
  let bfp := ovt.toNat / 64 % 4
  match k with
  | .bfp m => quantise (QFmt.bfp (m.val + 2)) bfp inputs
  | .int8 => quantise QFmt.int8 bfp inputs
  | .f16 => floatBrick ovt 2 .f16 inputs
  | .bf16 => floatBrick ovt 3 .bf16 inputs

end Sys2Proof.Machine
end

