-- ==== Sys2Proof/Machine/Access.lean ====
section
/-! DEFINITION. Reading and updating the parts of the state: groups, blocks, contexts, clusters, lanes,
and the registers of a group with their pending results (05 R112) and poison marks (07 R158, 08 R194). -/

namespace Sys2Proof.Machine

/-- The group of a number. -/
def State.group? (s : State) (u : Nat) : Option Group := s.groups.find? fun g => g.uid == u

/-- Replace the group that has the same number. -/
def State.setGroup (s : State) (g : Group) : State :=
  { s with groups := s.groups.map fun x => if x.uid = g.uid then g else x }

/-- A halted lane is called: the service has received a request, an SVC, a fault record or a RAS record
(R356). -/
def LaneState.called (x : LaneState) : LaneState :=
  match x with
  | .parked (.halt _) => .parked (.halt true)
  | y => y

/-- The halted groups are called (R356). -/
def State.callHalted (s : State) : State :=
  { s with groups := s.groups.map fun g => { g with lanes := g.lanes.map fun x =>
      { x with st := x.st.called, prodSt := x.prodSt.called } } }

/-- Change the group of a number. -/
def State.modGroup (s : State) (u : Nat) (f : Group → Group) : State :=
  { s with groups := s.groups.map fun x => if x.uid = u then f x else x }

/-- The block of a number. -/
def State.block? (s : State) (u : Nat) : Option Block := s.blocks.find? fun b => b.uid == u

/-- Change the block of a number. -/
def State.modBlock (s : State) (u : Nat) (f : Block → Block) : State :=
  { s with blocks := s.blocks.map fun x => if x.uid = u then f x else x }

/-- The grid of a number. -/
def State.grid? (s : State) (u : Nat) : Option Grid := s.grids.find? fun g => g.uid == u

/-- Change the grid of a number. -/
def State.modGrid (s : State) (u : Nat) (f : Grid → Grid) : State :=
  { s with grids := s.grids.map fun x => if x.uid = u then f x else x }

/-- The context of a slot; an unlisted slot is FREE (R344). -/
def State.ctx (s : State) (slot : Nat) : Ctx :=
  (s.ctxs.find? fun c => c.slot == slot).getD { slot := slot }

/-- Put a context in the list, in slot order. -/
def putCtx (c : Ctx) : List Ctx → List Ctx
  | [] => [c]
  | x :: xs => if c.slot < x.slot then c :: x :: xs
    else if c.slot = x.slot then c :: xs else x :: putCtx c xs

/-- Replace the context of its slot. -/
def State.setCtx (s : State) (c : Ctx) : State := { s with ctxs := putCtx c s.ctxs }

/-- Change the context of a slot. -/
def State.modCtx (s : State) (slot : Nat) (f : Ctx → Ctx) : State := s.setCtx (f (s.ctx slot))

/-- A cluster; an unlisted one reads as at reset. -/
def State.cluster (s : State) (n : Nat) : ClusterState := tget {} s.clusters n

/-- Change a cluster. -/
def State.modCluster (s : State) (n : Nat) (f : ClusterState → ClusterState) : State :=
  { s with clusters := tset {} s.clusters n (f (s.cluster n)) }

/-- A core of a cluster. -/
def State.coreOf (s : State) (cl k : Nat) : CoreState := tget {} (s.cluster cl).cores k

/-- Change a core of a cluster. -/
def State.modCore (s : State) (cl k : Nat) (f : CoreState → CoreState) : State :=
  s.modCluster cl fun c => { c with cores := tset {} c.cores k (f (tget {} c.cores k)) }

/-- A partition's registers. -/
def State.partOf (s : State) (p : Nat) : PartState := tget {} s.parts p

/-- Change a partition's registers. -/
def State.modPart (s : State) (p : Nat) (f : PartState → PartState) : State :=
  { s with parts := tset {} s.parts p (f (s.partOf p)) }

/-- A display head. -/
def State.head (s : State) (h : Nat) : Head := tget {} s.heads h

/-- Change a display head. -/
def State.modHead (s : State) (h : Nat) (f : Head → Head) : State :=
  { s with heads := tset {} s.heads h (f (s.head h)) }

/-- The draw of a number. -/
def State.draw? (s : State) (u : Nat) : Option Draw := s.draws.find? fun d => d.uid == u

/-- Change the draw of a number. -/
def State.modDraw (s : State) (u : Nat) (f : Draw → Draw) : State :=
  { s with draws := s.draws.map fun x => if x.uid = u then f x else x }

/-- The replay of a number. -/
def State.replay? (s : State) (n : Nat) : Option Replay := s.replays.find? fun r => r.num == n

/-- Change the replay of a number. -/
def State.modReplay (s : State) (n : Nat) (f : Replay → Replay) : State :=
  { s with replays := s.replays.map fun x => if x.num = n then f x else x }

/-- The replay whose block a group belongs to (R323). -/
def State.replayOf (s : State) (g : Group) : Option Replay :=
  if g.replay then s.replays.find? fun r => r.block == some g.block else none

/-- A fresh number of the model. -/
def State.newId (s : State) : Nat × State := (s.fresh, { s with fresh := s.fresh + 1 })

/-- The kinds of places whose Undefined values differ from each other within a step. -/
inductive Spot where
  | vreg | sreg | hreg | mem | spad | line | serai | tile | write | result | late | image | slice
  deriving DecidableEq, Repr

/-- The position of a place of a kind. -/
def Spot.pos (k : Spot) (a : Nat) : Nat := 16 * a + k.ctorIdx

/-- An Undefined 32-bit value of a context, for a place of a kind (R4). -/
def State.undef (s : State) (slot : Nat) (k : Spot) (a : Nat) : Word :=
  Config.undefWord slot (tget 0 s.undefCtrs slot) (k.pos a)

/-- An Undefined value of 8,192 bits of a context. -/
def State.undefHyper (s : State) (slot : Nat) (k : Spot) (a : Nat) : BitVec 8192 :=
  BitVec.ofNat 8192 (leNat (bytesOf ((List.range 256).map fun i => s.undef slot k (256 * a + i))))

/-- A step of a context: its Undefined values from here on are new ones. -/
def State.drawn (s : State) (slot : Nat) : State := { s with undefCtrs := tset 0 s.undefCtrs slot (tget 0 s.undefCtrs slot + 1) }

/-- A step of the device that has changed something has drawn a context's Undefined values. -/
def State.drawnIf (s : State) (slot : Nat) (t : State) : State := if t = s then s else t.drawn slot

/-- A free value of the device as a whole. -/
def State.free (s : State) (pos : Nat) : Word := Config.freeWord s.undefCtr pos

/-- The slot of a group's context. -/
def State.slotOf (s : State) (g : Group) : Nat := ((s.block? g.block).map (·.slot)).getD 0

/-- The cluster a group runs on. -/
def State.clusterOf (s : State) (g : Group) : Nat := ((s.block? g.block).map (·.cluster)).getD 0

/-- The context of a group. -/
def State.ctxOf (s : State) (g : Group) : Ctx := s.ctx (s.slotOf g)

/-- The lane of an index; a lane beyond the width reads as an exited lane. -/
def Group.lane (g : Group) (l : Nat) : Lane := g.lanes.getD l {}

/-- Change one lane. -/
def Group.modLane (g : Group) (l : Nat) (f : Lane → Lane) : Group :=
  { g with lanes := g.lanes.modify l f }

/-- Change every lane of a mask. -/
def Group.modLanes (g : Group) (m : Mask) (f : Nat → Lane → Lane) : Group :=
  { g with lanes := g.lanes.mapIdx fun l x => if mHas m l then f l x else x }

/-- The lanes that meet a test. -/
def Group.maskWhere (g : Group) (p : Lane → Bool) : Mask :=
  maskOf ((List.range g.lanes.length).filter fun l => p (g.lane l))

/-- A lane that has not exited. -/
def Lane.live (l : Lane) : Bool := decide (l.st ≠ .exited)

/-- The live lanes of a group. -/
def Group.live (g : Group) : Mask := g.maskWhere Lane.live

/-- The helper lanes among a mask. -/
def Group.helpers (g : Group) (m : Mask) : Mask := m &&& g.maskWhere fun l => l.helper

/-- A mask without its helper lanes (R18, R212). -/
def Group.noHelpers (g : Group) (m : Mask) : Mask := m &&& ~~~ g.helpers m

/-- Every lane of the mask is a helper lane (R18, R226, R260). -/
def Group.allHelpers (g : Group) (m : Mask) : Bool := decide (g.noHelpers m = 0)

/-- A result for a vector register still waits for its flag (R112). -/
def Group.pendV (g : Group) (l reg : Nat) : Bool := g.pend.any fun p => decide (p.dst = .v l reg)

/-- A result for a clause temporary still waits for its flag. -/
def Group.pendT (g : Group) (l reg : Nat) : Bool := g.pend.any fun p => decide (p.dst = .t l reg)

/-- A result for a scalar register still waits for its flag. -/
def Group.pendS (g : Group) (reg : Nat) : Bool := g.pend.any fun p => decide (p.dst = .s reg)

/-- A load of a hypervector still waits for its flag. -/
def Group.pendH (g : Group) (h : Nat) : Bool := g.pend.any fun p => decide (p.dst = .h h)

/-- The allocation register a vector field names in a lane (R107); fields 120 and up are temporaries. -/
def Lane.vIdx (x : Lane) (r : Nat) : Nat := x.vbase + r

/-- The place of a vector register of a lane, by its allocation index; the temporaries lie above the 512
registers (R107). -/
def vPlace (l idx : Nat) : Nat := 1024 * l + idx

/-- Read a vector register or temporary of a lane. A pending destination and a temporary not yet
written in the clause read Undefined (R30, R112). -/
def readV (s : State) (g : Group) (l : Nat) (r : Nat) : Word :=
  let x := g.lane l
  if r < 120 then
    if g.pendV l (x.vIdx r) then s.undef (s.slotOf g) .vreg (vPlace l (x.vIdx r)) else tget 0 x.v (x.vIdx r)
  else if g.pendT l r then s.undef (s.slotOf g) .vreg (vPlace l (392 + r))
  else match x.t.find? fun e => e.1 == r with
    | some e => e.2
    | none => s.undef (s.slotOf g) .vreg (vPlace l (392 + r))

/-- Read a pair (R107). -/
def readV64 (s : State) (g : Group) (l : Nat) (r : Nat) : DWord :=
  pair64 (readV s g l r) (readV s g l (r + 1))

/-- Mark as clobbered the pending result for a destination (R112). -/
def Group.clobber (g : Group) (d : Dst) : Group :=
  { g with pend := g.pend.map fun p => if p.dst = d then { p with clob := true } else p }

/-- Write an element whole: its poison marks clear (R194), a result pending for it is clobbered. -/
def Group.writeV (g : Group) (l : Nat) (r : Nat) (w : Word) : Group :=
  if r < 120 then
    let i := (g.lane l).vIdx r
    (g.modLane l fun x => { x with
      v := tset 0 x.v i w
      vPoison := x.vPoison.filter fun h => h / 2 ≠ i }).clobber (.v l i)
  else
    (g.modLane l fun x => { x with
      t := (r, w) :: x.t.filter fun e => e.1 ≠ r }).clobber (.t l r)

/-- Write a pair. -/
def Group.writeV64 (g : Group) (l : Nat) (r : Nat) (d : DWord) : Group :=
  (g.writeV l r (lo32 d)).writeV l (r + 1) (hi32 d)

/-- Write consecutive registers. -/
def Group.writeVs (g : Group) (l : Nat) (r : Nat) : List Word → Group
  | [] => g
  | w :: ws => (g.writeV l r w).writeVs l (r + 1) ws

/-- A half of a vector element carries a poison mark (R194); a clause temporary carries none
(DESIGN CHOICE, log entry 127). -/
def Group.vHalf (g : Group) (l : Nat) (r half : Nat) : Bool :=
  decide (r < 120) && ((g.lane l).vPoison.contains (2 * (g.lane l).vIdx r + half))

/-- A vector element carries a poison mark. -/
def Group.vBad (g : Group) (l : Nat) (r : Nat) : Bool := g.vHalf l r 0 || g.vHalf l r 1

/-- Read a scalar register (R107); a pending destination reads Undefined (R112). -/
def readS (s : State) (g : Group) (r : Nat) : Word :=
  if g.pendS (g.sbase + r) then s.undef (s.slotOf g) .sreg (g.sbase + r) else tget 0 g.s (g.sbase + r)

/-- Read a scalar pair. -/
def readS64 (s : State) (g : Group) (r : Nat) : DWord := pair64 (readS s g r) (readS s g (r + 1))

/-- Write a scalar register of the allocation. -/
def Group.putS (g : Group) (i : Nat) (w : Word) : Group :=
  ({ g with s := tset 0 g.s i w, sPoison := g.sPoison.filter fun h => h / 2 ≠ i }).clobber (.s i)

/-- Write a scalar register. -/
def Group.writeS (g : Group) (r : Nat) (w : Word) : Group := g.putS (g.sbase + r) w

/-- Write a scalar pair. -/
def Group.writeS64 (g : Group) (r : Nat) (d : DWord) : Group :=
  (g.writeS r (lo32 d)).writeS (r + 1) (hi32 d)

/-- A scalar element carries a poison mark (R158). -/
def Group.sBad (g : Group) (r : Nat) : Bool :=
  g.sPoison.contains (2 * (g.sbase + r)) || g.sPoison.contains (2 * (g.sbase + r) + 1)

/-- Read a predicate; p15 reads 1 (R107). -/
def Lane.pred (x : Lane) (p : Nat) : Bool := if p = 15 then true else x.preds.getLsbD p

/-- Write a predicate; a write to p15 is discarded (R107). -/
def Group.writeP (g : Group) (l : Nat) (p : Nat) (b : Bool) : Group :=
  if p = 15 then g
  else g.modLane l fun x => { x with
    preds := (x.preds &&& ~~~ BitVec.ofNat 15 (2 ^ p)) ||| BitVec.ofNat 15 (if b then 2 ^ p else 0) }

/-- Read a hypervector; one still loading reads Undefined (R112). -/
def readH (s : State) (g : Group) (h : Nat) : BitVec 8192 :=
  if g.pendH h then s.undefHyper (s.slotOf g) .hreg h else tget 0 g.h h

/-- Write a hypervector. -/
def Group.writeH (g : Group) (h : Nat) (v : BitVec 8192) : Group :=
  ({ g with h := tset 0 g.h h v, hPoison := g.hPoison.filter fun i => i / 512 ≠ h }).clobber (.h h)

/-- A hypervector carries a poison mark. -/
def Group.hBad (g : Group) (h : Nat) : Bool := g.hPoison.any fun i => i / 512 == h

/-- The elements of a tile; element (i, j) at 64 i + j. -/
def Group.tileElems (g : Group) (z : Nat) : Regs := tget [] g.z z

/-- Replace the elements of a tile. -/
def Group.putTile (g : Group) (z : Nat) (t : Regs) : Group := { g with z := tset [] g.z z t }

/-- A group's number among its context's groups, and a block's among its context's blocks: what tells their places
apart in an Undefined value rests on the context alone (R4). -/
def State.groupRank (s : State) (g : Group) : Nat :=
  (s.groups.filter fun x => s.slotOf x == s.slotOf g).findIdx fun x => x.uid == g.uid

/-- A block's number among its context's blocks. -/
def State.blockRank (s : State) (b : Block) : Nat :=
  (s.blocks.filter fun x => x.slot == b.slot).findIdx fun x => x.uid == b.uid

/-- Elements of a tile become Undefined (R76). -/
def Group.spoilTile (s : State) (g : Group) (z : Nat) (es : List Nat) : Group :=
  let at_ := 65536 * s.groupRank g + 4096 * z
  g.putTile z (es.foldl (fun t e => tset 0 t e (s.undef (s.slotOf g) .tile (at_ + e))) (g.tileElems z))

/-- Two runs of bytes meet. -/
def overlaps (a n b m : Nat) : Bool := decide (a < b + m) && decide (b < a + n)

/-- The tile a matrix instruction names. -/
def Instr.tile? : Instr → Option Nat
  | .mma _ _ z _ _ | .mloop _ _ z _ | .mzero z | .mldz _ z _ | .mstz _ z _ | .mqnt _ z _ => some z.val
  | _ => none

/-- The same as a number. -/
def Instr.tile (i : Instr) : Nat := (Instr.tile? i).getD 0

/-- The operation in progress whose use of a tile this is. -/
def Engine.uses (e : Engine) (g : Group) (u : MatUse) : Bool :=
  e.group == g.uid && e.flag == some u.flag && Instr.tile? e.instr == some u.tile

/-- The instruction that uses a tile stands still on a fault record: what the service itself writes for it before
it answers is no write of R76's window (R374; log entry 38). -/
def State.stoppedUse (s : State) (g : Group) (u : MatUse) : Bool :=
  s.engines.any fun e => e.uses g u && e.record.isSome

/-- The iterations whose operands a use has fetched are those below this (R267). -/
def State.fetched (s : State) (g : Group) (u : MatUse) (k : Nat) : Bool :=
  match s.engines.find? fun e => e.uses g u with
  | some e => decide (k < e.done)
  | none => true

/-- The matrix results that meet a test become Undefined: what their tiles hold now, and what an instruction
still in progress is yet to write (R76). -/
def State.spoilWhere (s : State) (p : Group → MatUse → Bool) : State :=
  if s.groups.any fun g => g.uses.any (p g) then
    { s with
      groups := s.groups.map fun g => (g.uses.filter (p g)).foldl (fun y u => y.spoilTile s u.tile u.elems) g
      engines := s.engines.map fun e =>
        if s.groups.any fun g => g.uses.any fun u => p g u && e.uses g u then { e with spoiled := true } else e }
  else s

/-- A store to scratchpad spoils the matrix results whose operands are in use there (R76). -/
def State.spadSpoil (s : State) (bu off n : Nat) : State :=
  s.spoilWhere fun g u => g.block == bu && u.spads.any fun e => overlaps e.2.1 e.2.2 off n

/-- A copy that lands spoils only results whose operands were fetched before: a fetch still to come waits
until the line is full and is ordered after the copy (R61, R75). -/
def State.landSpoil (s : State) (bu off n : Nat) : State :=
  s.spoilWhere fun g u => g.block == bu && u.spads.any fun e => overlaps e.2.1 e.2.2 off n && s.fetched g u e.1

/-- Read a rejoin mask. -/
def Group.kMask (g : Group) (k : Nat) : Mask := g.k.getD k 0

/-- Write a rejoin mask. -/
def Group.setK (g : Group) (k : Nat) (m : Mask) : Group := { g with k := g.k.set k m }

/-- A flag is set (R28). -/
def Group.flag (g : Group) (f : Fin 12) : Bool := g.flags.getLsbD f.val

/-- Set a flag. -/
def Group.setFlag (g : Group) (f : Fin 12) : Group :=
  { g with flags := g.flags ||| BitVec.ofNat 12 (2 ^ f.val) }

/-- Clear a flag. -/
def Group.clearFlag (g : Group) (f : Fin 12) : Group :=
  { g with flags := g.flags &&& ~~~ BitVec.ofNat 12 (2 ^ f.val) }

/-- The clause in flight of the group whose turn it is. -/
def State.issue? (s : State) : Option (Group × Clause) :=
  match s.turn with
  | none => none
  | some u =>
    match s.group? u with
    | none => none
    | some g =>
      match g.clause with
      | none => none
      | some c => some (g, c)

/-- Change the clause in flight of a group. -/
def Group.modClause (g : Group) (f : Clause → Clause) : Group := { g with clause := g.clause.map f }

/-- The clause in flight waits and its instruction does not advance; it executes again when woken
(DEDUCED, log entry 51). -/
def State.holdClause (s : State) (u : Nat) (w : Wait) : State :=
  s.modGroup u fun g => g.modClause fun c => { c with wait := some w }

/-- The flag the current instruction of a clause is tied to (R123). -/
def Clause.tied (c : Clause) : Option (Fin 12) :=
  if c.tie.getLsbD c.idx then c.setB else c.setA

/-- Where the result of a long-latency instruction for a vector register goes. -/
def Lane.dst (x : Lane) (l r : Nat) : Dst := if r < 120 then .v l (x.vIdx r) else .t l r

/-- A result comes to wait for its flag; another one that waits for the same register makes both Undefined,
each being a write in the other's window (R112). -/
def Group.enqueue (g : Group) (p : Pending) : Group :=
  let twice : Bool := g.pend.any fun q => decide (q.dst = p.dst)
  let h := g.clobber p.dst
  { h with pend := h.pend ++ [{ p with clob := twice }] }

/-- Queue the result of a long-latency instruction until its flag clears (R112); an instruction tied
to no flag writes at once. -/
def Group.queueV (g : Group) (f : Option (Fin 12)) (l r : Nat) (ws : List Word) : Group :=
  match f with
  | none => g.writeVs l r ws
  | some f => (ws.mapIdx fun i w => (i, w)).foldl (fun y e =>
      y.enqueue { flag := f, dst := (g.lane l).dst l (r + e.1), word := e.2 }) g

/-- Queue words for consecutive scalar registers. -/
def Group.queueS (g : Group) (f : Option (Fin 12)) (r : Nat) (ws : List Word) : Group :=
  match f with
  | none => (ws.mapIdx fun i w => (i, w)).foldl (fun g e => g.writeS (r + e.1) e.2) g
  | some f => (ws.mapIdx fun i w => (i, w)).foldl (fun y e =>
      y.enqueue { flag := f, dst := .s (g.sbase + r + e.1), word := e.2 }) g

/-- Queue a hypervector until its flag clears (R112). -/
def Group.queueH (g : Group) (f : Option (Fin 12)) (h : Nat) (v : BitVec 8192) : Group :=
  match f with
  | none => g.writeH h v
  | some f => g.enqueue { flag := f, dst := .h h, word := 0, hyper := v }


end Sys2Proof.Machine
end

