-- ==== Sys2Proof/Machine/Translate.lean ====
section
/-! DEFINITION. Page tables, walks, the checks of an access and the cached translations
(19 R360-R366, R379); the RAS log's append (21 R405). -/

namespace Sys2Proof.Machine

/-- Who makes an access: its cluster, its context's slot, and the replay whose overlay it uses (R326). -/
structure Who where
  cl : Nat
  slot : Nat
  replay : Option Nat := none
  /-- The core, where a core makes the access (R405). -/
  core : Nat := 0
  /-- The service, which carries out a request (R408). -/
  service : Bool := false
  deriving DecidableEq, Repr

/-- What a group's accesses are made as. -/
def State.who (s : State) (g : Group) : Who :=
  { cl := s.clusterOf g, slot := s.slotOf g, replay := (s.replayOf g).map (·.num), core := g.core }

/-- What an access needs of its page (R57, R363). -/
inductive Need where
  | read | write | fetch | atomic | brickRead | brickWrite
  deriving DecidableEq, Repr

/-- A leaf of the page tables (R361). -/
structure Leaf where
  base  : Nat
  log2  : Nat
  kind  : PageKind
  write : Bool
  exec  : Bool
  owner : Nat
  side  : Nat
  deriving DecidableEq, Repr

/-- The level of a leaf (R360). -/
def Leaf.level (l : Leaf) : Nat := if l.log2 = 16 then 0 else if l.log2 = 21 then 1 else 2

/-- Where a walk ends. -/
inductive WalkEnd where
  | leaf (l : Leaf)
  /-- V = 0, with NF, at a level. -/
  | invalid (nf : Bool) (level : Nat)
  /-- An entry that breaks the format. -/
  | bad (level : Nat)
  deriving DecidableEq, Repr

/-- The level at which a walk ends. -/
def WalkEnd.level : WalkEnd → Nat
  | .leaf l => l.level
  | .invalid _ n | .bad n => n

/-- Bits of a number from `lo`, `n` of them. -/
def bfield (v lo n : Nat) : Nat := v / 2 ^ lo % 2 ^ n

/-- The device-register range (R362). -/
def inDevice (pa : Nat) : Bool := decide (0x080000000000 ≤ pa) && decide (pa < 0x080100000000)

/-- The range a TIER names (R362). -/
def inTier (tier pa : Nat) : Bool :=
  if tier = 0 then decide (pa < 0x8000000000)
  else decide (0x20000000000 ≤ pa) && decide (pa < 0x40000000000)

/-- The size of a leaf by level (R360). -/
def leafLog2 (level : Nat) : Nat := if level = 0 then 16 else if level = 1 then 21 else 30

/-- The KIND field (R361). -/
def kindOf (n : Nat) : PageKind :=
  match n with | 0 => .plain | 1 => .brick | 2 => .compressed | _ => .lod

/-- The KIND code of a kind. -/
def PageKind.code : PageKind → Nat
  | .plain => 0 | .brick => 1 | .compressed => 2 | .lod => 3

/-- A valid entry that breaks the format at a level of a slot's tables (R361, R362) (DEDUCED, log entry 62). -/
def badEntry (slot level w0 w1 : Nat) : Bool :=
  let isLeaf := bfield w0 1 1 == 1
  let addr := bfield w0 12 40 * 4096
  let owner := bfield w0 52 8
  let tier := bfield w0 10 1
  let kind := bfield w0 8 2
  bfield w0 60 4 != 0 || bfield w0 11 1 != 0 || bfield w0 5 3 != 0 ||
  (level == 0 && !isLeaf) || (decide (3 ≤ level) && isLeaf) ||
  (if isLeaf then
    addr % 2 ^ leafLog2 level != 0 ||
    (decide (144 ≤ owner) && decide (owner ≤ 254)) ||
    (if kind = 2 then w1 / 2 ^ 52 != 0 || w1 % 64 != 0 else w1 != 0) ||
    (owner == 255 &&
      (if inDevice addr then slot != 0 || kind != 0 || tier != 0 || level != 0
       else !inTier tier addr))
  else owner != 0 || tier != 0 || kind != 0 || w1 != 0)

/-- An entry: the next table's base, or where the walk ends (R360, R361) (DEDUCED, log entry 62). -/
def readEntry (m : List Host.Cell) (slot level at_ : Nat) : Nat ⊕ WalkEnd :=
  let w0 := leNat (Memory.reads m at_ 8)
  let w1 := leNat (Memory.reads m (at_ + 8) 8)
  if bfield w0 0 1 = 0 then .inr (.invalid (bfield w0 4 1 == 1) level)
  else if badEntry slot level w0 w1 then .inr (.bad level)
  else if bfield w0 1 1 = 1 then
    .inr (.leaf {
      base := bfield w0 12 40 * 4096, log2 := leafLog2 level, kind := kindOf (bfield w0 8 2)
      write := bfield w0 2 1 == 1, exec := bfield w0 3 1 == 1, owner := bfield w0 52 8
      side := if bfield w0 8 2 = 2 then w1 else 0 })
  else .inl (bfield w0 12 40 * 4096)

/-- The index of an address at a level (R360). -/
def levelIndex (level va : Nat) : Nat :=
  if level = 0 then bfield va 16 5 else bfield va (12 + 9 * level) 9

/-- A walk from a table at a level. -/
def walkFrom (m : List Host.Cell) (slot va : Nat) : Nat → Nat → WalkEnd
  | 0, base =>
    match readEntry m slot 0 (base + 16 * levelIndex 0 va) with
    | .inr e => e
    | .inl _ => .bad 0
  | level + 1, base =>
    match readEntry m slot (level + 1) (base + 16 * levelIndex (level + 1) va) with
    | .inr e => e
    | .inl next => walkFrom m slot va level next

/-- A physical address lies in a stack or package that bring-up has left out of every map (R422): each holds
64 GiB. -/
def State.leftOut (s : State) (pa : Nat) : Bool :=
  if inTier 0 pa then s.failed.getLsbD (pa / 2 ^ 36) else if inTier 1 pa then s.failed.getLsbD (8 + (pa - 2 ^ 41) / 2 ^ 36)
  else false

/-- The walk of an address in a slot's tables (R360); a leaf of memory left out of every map lies outside its
tier's range (R362, R422) (DEDUCED, log entry 62). -/
def State.walk (s : State) (slot va : Nat) : WalkEnd :=
  match walkFrom s.mem slot (va % 2 ^ 57) 4 (s.ctx slot).ccb.ptroot.toNat with
  | .leaf l => if l.owner = 255 ∧ s.leftOut (l.base + va % 2 ^ l.log2) then .bad l.level else .leaf l
  | e => e

/-- The physical address of the leaf entry a walk stops at on a level-0 to level-2 table, for PGATTR. -/
def leafSlot (m : List Host.Cell) (slot va : Nat) : Nat → Nat → Nat
  | 0, base => base + 16 * levelIndex 0 va
  | level + 1, base =>
    let at_ := base + 16 * levelIndex (level + 1) va
    match readEntry m slot (level + 1) at_ with
    | .inr _ => at_
    | .inl next => leafSlot m slot va level next

/-- The 64 KiB unit of an address (R366). -/
def vaUnit (va : Nat) : Nat := va % 2 ^ 57 / 65536

/-- The cached translation of a unit. -/
def State.cached (s : State) (w : Who) (va : Nat) : Option Leaf :=
  (s.tlbs.find? fun t => t.cluster == w.cl && t.slot == w.slot && t.unit == vaUnit va).map fun t =>
    { base := t.base, log2 := t.log2, kind := t.kind, write := t.write, exec := t.exec
      owner := t.owner, side := t.side }

/-- The translation an access uses: the tables', or the cached entry that differs from them (R365; a
free choice) (DESIGN CHOICE, log entry 132). -/
def State.lookup (s : State) (w : Who) (va : Nat) : WalkEnd :=
  let now := s.walk w.slot va
  match s.cached w va with
  | none => now
  | some l =>
    if now = .leaf l then now
    else if Config.useCached s.undefCtr then .leaf l else now

/-- What an access to one page reaches. -/
inductive Reach where
  | ok (l : Leaf)
  /-- A never-fault miss (R364). -/
  | hole
  | bad (c : Code) (level : Nat)
  deriving DecidableEq, Repr

/-- A need that writes. -/
def Need.writes : Need → Bool
  | .write | .atomic | .brickWrite => true
  | _ => false

/-- The checks of an access of `n` bytes (R57, R363, R364, R393; log entry 21: a device-register access
that is not one aligned word raises ALIGN). A lost owner's page raises NOTMAPPED with LEVEL 7 (22 R418). -/
def State.reach (s : State) (w : Who) (va n : Nat) (need : Need) : Reach :=
  match s.lookup w va with
  | .bad level => .bad .ptformat level
  | .invalid nf level => if nf && decide (need ≠ .fetch) then .hole else .bad .notmapped level
  | .leaf l =>
    if need = .fetch ∧ !l.exec then .bad .execprot l.level
    else if need.writes && !l.write then .bad .writeprot l.level
    else if (need = .brickRead ∨ need = .brickWrite) ∧ l.kind ≠ .brick then .bad .kindop l.level
    else if need = .atomic ∧ l.kind = .compressed then .bad .kindop l.level
    else if l.owner = 255 ∧ inDevice (l.base + va % 2 ^ l.log2) ∧ (n ≠ 4 ∨ va % 4 ≠ 0) then
      .bad .align l.level
    else if l.owner ≠ 255 ∧ s.lost.contains l.owner then .bad .notmapped 7
    else .ok l

/-- A record takes a free entry of the RAS log, and the service is called (R356); the records written are counted
by type (R405, R411). -/
def State.putRas (s : State) (r : Ras) : State :=
  { s.callHalted with ras := s.ras ++ [r], rasCount := tset 0 s.rasCount r.type (tget 0 s.rasCount r.type + 1) }

/-- Drops are reported by one OVERFLOW record at the next free entry (R405). -/
def State.reportDrops (s : State) (unit time : Nat) : State :=
  if s.ras.length < 1024 ∧ s.rasDropped ≠ 0 then
    { s with rasDropped := 0 }.putRas {
      type := 0x0B, unit := unit, slot := 255, count := min 255 s.rasDropped, time := time, paddr := 0, loc := 0
      detail := BitVec.ofNat 64 s.rasDropped }
  else s

/-- Append a record to the RAS log of 1,024 records (R405): a full log drops a CORRECTED record, and
another type takes the place of the oldest unread CORRECTED one (DESIGN CHOICE, log entry 109). -/
def State.logRas (s : State) (r : Ras) : State :=
  let s := { s with rasClock := max s.rasClock r.time }.reportDrops r.unit r.time
  if s.ras.length < 1024 then s.putRas r
  else if decide (r.type ≠ 1) && s.ras.any fun x => x.type == 1 then
    { s with ras := s.ras.eraseP fun x => x.type == 1 }.putRas r
  else { s with rasDropped := s.rasDropped + 1 }

/-- The RAS unit's timer as a record made at no stated time shows it: a free value from the last one on (R405)
(DESIGN CHOICE, log entry 109). -/
def State.rasTime (s : State) : Nat := s.rasClock + (s.free 3).toNat

/-- UNIT and the stack or package of WHERE of a physical address: stacks and packages of 64 GiB; the channel of a
stack is a free value (R405) (DESIGN CHOICE, log entry 61). -/
def State.memPlace (s : State) (pa : Nat) : Nat × Nat :=
  if pa < 0x8000000000 then
    (0, 2 ^ 8 * (pa / 2 ^ 36 % 8) + 2 ^ 11 * ((s.free 1).toNat % 32))
  else (1, 2 ^ 11 * ((pa - 0x20000000000) / 2 ^ 36 % 32))

/-- The record ATTRMISMATCH of a line that a core of a cluster uses, or that a cluster's slice, with no core, writes
back (R379, R405). -/
def State.attrMismatch (s : State) (cl core slot line fillKind nowKind : Nat) : State :=
  s.logRas { type := 9, unit := 2, slot := slot, count := 1, time := s.rasTime, paddr := line * 128
             loc := cl % 8 + 8 * core + (s.memPlace (line * 128)).2, detail := BitVec.ofNat 64 (fillKind + 256 * nowKind) }

/-- Dirty lines are written back, each under its fill kind, which a record reports where the page's leaf now
has another one (R379). -/
def State.writeBack (s : State) (p : Fill → Bool) : State :=
  let s' := (s.fills.filter p).foldl (fun t f => match s.walk f.slot f.va with
    | .leaf l => if (l.base + f.va % 2 ^ l.log2) / 128 = f.line ∧ l.kind ≠ f.kind then
        t.attrMismatch f.cluster 0 f.slot f.line f.kind.code l.kind.code else t
    | _ => t) s
  { s' with fills := s.fills.filter fun f => !p f }

/-- The physical line that an address of a leaf lies in. -/
def Leaf.line (l : Leaf) (va : Nat) : Nat := (l.base + va % 2 ^ l.log2) / 128

/-- A stale entry used under a kind that the page's leaf no longer has is reported (R379). -/
def State.staleUse (s : State) (w : Who) (va : Nat) (l : Leaf) : State :=
  match s.walk w.slot va with
  | .leaf n => if n.kind = l.kind then s else s.attrMismatch w.cl w.core w.slot (l.line va) l.kind.code n.kind.code
  | _ => s

/-- A translation is cached (R365). One table holds the entries of the three places (DESIGN CHOICE,
log entry 132). -/
def State.cacheLeaf (s : State) (w : Who) (va : Nat) (l : Leaf) : State :=
  match s.cached w va with
  | some _ => s
  | none =>
    { s with
      tlbs := s.tlbs ++ [
        { cluster := w.cl, slot := w.slot, unit := vaUnit va, base := l.base, log2 := l.log2
          kind := l.kind, write := l.write, exec := l.exec, owner := l.owner, side := l.side }] }

/-- A written line of the device keeps its fill kind in the cluster's slice until it is written back (R379). -/
def State.fillLine (s : State) (w : Who) (va : Nat) (l : Leaf) : State :=
  if decide (l.owner = 255) && !inDevice (l.line va * 128)
      && !(s.fills.any fun f => f.cluster == w.cl && f.line == l.line va) then
    { s with
      fills := s.fills ++ [{ cluster := w.cl, line := l.line va, slot := w.slot, va := va % 2 ^ 57, kind := l.kind }] }
  else s

/-- An access has used a page: its translation is cached, a stale entry used under another kind is reported,
and a written line keeps its fill kind (R365, R379). -/
def State.touch (s : State) (w : Who) (va : Nat) (dirty : Bool) : State :=
  match s.lookup w va with
  | .leaf l =>
    let s := (s.staleUse w va l).cacheLeaf w va l
    if dirty then s.fillLine w va l else s
  | _ => s

/-- One address of each 64 KiB unit that a run of bytes meets. -/
def unitStarts (a n : Nat) : List Nat :=
  if n = 0 then []
  else (List.range' (a / 65536) ((a + n - 1) / 65536 - a / 65536 + 1)).map fun u => max a (u * 65536)

/-- A run of bytes has been read: the translations it used are cached (R365, R379). -/
def State.touchRun (s : State) (w : Who) (a n : Nat) : State :=
  (unitStarts a n).foldl (fun s x => s.touch w x false) s

end Sys2Proof.Machine
end

