-- ==== Sys2Proof/Machine/Memory.lean ====
section
/-! DEFINITION. Global memory as an access sees it (03 R57, R63; 04 R94-R97; 09 R225): bytes with their
poison marks, compressed blocks, the device-register pages (20 R393, R394; 22 R415), what the device
serves of a draw (11 R296), and the replay overlay (12 R326). -/

namespace Sys2Proof.Machine

/-- Bytes with their poison marks. -/
abbrev MBytes := List (Byte × Bool)

/-- The plain bytes. -/
def mbPlain (m : MBytes) : List Byte := m.map fun x => x.1

/-- Some byte carries a mark. -/
def mbBad (m : MBytes) : Bool := m.any fun x => x.2

/-- Bytes without marks. -/
def mbClean (b : List Byte) : MBytes := b.map fun x => (x, false)

/-! ### Device registers -/

/-- Offsets of the two device pages in the device-register range: the scheduler page from 0, the
Waystation control page from 0x10000 (R393, R415). -/
def devOffset (pa : Nat) : Nat := pa - 0x080000000000

/-- The value of a device register; every other offset reads 0 (R393, R415). -/
def State.regRead (s : State) (off : Nat) : Word :=
  if off < 0x100 then
    let h := s.head (off / 0x40)
    match off % 0x40 with
    | 0x00 => h.ctl
    | 0x04 => h.newPeriod.getD h.period
    | 0x08 => h.newLead.getD h.lead
    | 0x0C => h.misses
    | 0x10 => h.frames
    | 0x14 => h.leadLost
    | _ => 0
  else if 0x200 ≤ off ∧ off < 0x300 then
    let p := s.partOf ((off - 0x200) / 0x20)
    match (off - 0x200) % 0x20 with
    | 0x00 => lo32 p.saveBase
    | 0x04 => hi32 p.saveBase
    | 0x08 => p.saveSize
    | 0x0C => p.watchdog
    | 0x10 => p.saveFull
    | _ => 0
  else
    match off with
    | 0x10004 => if s.busyRoutes = [] then 0 else 1
    | 0x10008 => lo32 s.frbase
    | 0x1000C => hi32 s.frbase
    | 0x10010 => s.bringup0
    | 0x10014 => s.lpok
    | 0x10018 => s.tomup
    | _ => 0

/-- A write of HEADCTL; reserved bits read 0 (R394). -/
def State.writeHeadCtl (s : State) (h : Nat) (v : Word) : State :=
  s.modHead h fun x => { x with ctl := v &&& 0x00FF3F03 }

/-- A write of a device register (R393, R394, R415). FRAMEPERIOD and LEADTIME take effect at the next
deadline, at once while the head has none. A write of ROUTECTL starts the route cache, whose step follows
(DEDUCED, log entry 84). -/
def State.regWrite (s : State) (off : Nat) (v : Word) : State :=
  if off < 0x100 then
    let n := off / 0x40
    let idle (x : Head) : Bool := x.period == 0 || x.ctl.getLsbD 0 == false
    match off % 0x40 with
    | 0x00 => s.writeHeadCtl n v
    | 0x04 => s.modHead n fun x =>
        if idle x then { x with period := v, newPeriod := none } else { x with newPeriod := some v }
    | 0x08 => s.modHead n fun x =>
        if idle x then { x with lead := v, newLead := none } else { x with newLead := some v }
    | _ => s
  else if 0x200 ≤ off ∧ off < 0x300 then
    let n := (off - 0x200) / 0x20
    match (off - 0x200) % 0x20 with
    | 0x00 => s.modPart n fun p => { p with saveBase := pair64 v (hi32 p.saveBase) }
    | 0x04 => s.modPart n fun p => { p with saveBase := pair64 (lo32 p.saveBase) (v &&& 0xFFFFF) }
    | 0x08 => s.modPart n fun p => { p with saveSize := v }
    | _ => s
  else
    match off with
    | 0x10000 =>
      let c := v.toNat % 64
      let r := v.toNat / 64 % 4096
      { s with agenda := .route c r (v.getLsbD 31) :: s.agenda, busyRoutes := s.busyRoutes ++ [(c, r)] }
    | 0x10008 => { s with frbase := pair64 (v &&& 0xFFFFF000) (hi32 s.frbase) }
    | 0x1000C => { s with frbase := pair64 (lo32 s.frbase) (v &&& 0xFFFFF) }
    | _ => s

/-! ### What the device serves of a draw -/

/-- A screen value of a vertex of W words: coordinate `i` divided by w (R293). -/
def screenOf (v : List Word) (i : Nat) : Word := f32div (v.getD i 0) (v.getD 3 0)

/-- A primitive of a draw; one never emitted is culled (R296). -/
def Draw.prim (d : Draw) (n : Nat) : Prim :=
  ((d.prims.find? fun e => e.1 == n).map (·.2)).getD { number := n, verts := [], culled := true }

/-- The PRIMBUF entry of a primitive (R296). -/
def primEntry (p : Prim) : List Byte :=
  let words := if p.verts.length = 3 then
      (p.verts.map fun v => [screenOf v 0, screenOf v 1, screenOf v 2]).flatten
    else List.replicate 9 0
  bytesOf (words ++ [BitVec.ofNat 32 p.number, if p.culled then 1 else 0] ++ List.replicate 5 0)

/-- The bytes that the device keeps for a draw: its partial-render record and its PRIMBUF entries. -/
def Draw.keeps (d : Draw) : List (Nat × Nat) := [(d.recAt.toNat, 64), (d.primAt.toNat, 64 * d.nprims)]

/-- An address of `n` bytes that the device keeps itself: canonical, aligned to 64, and clear of runs already taken
(log entry 3). -/
def keptAt (taken : List (Nat × Nat)) (a : DWord) (n : Nat) : DWord :=
  let at_ (k : Nat) : Nat := a.toNat % 2 ^ 50 / 64 * 64 + 2 ^ 40 * k
  BitVec.ofNat 64 ((((List.range (taken.length + 1)).map at_).find? fun b =>
    taken.all fun t => !overlaps b n t.1 t.2).getD (at_ 0))

/-- The runs of bytes that the device keeps for the draws in flight of a slot. -/
def State.keptRuns (s : State) (slot : Nat) : List (Nat × Nat) :=
  (s.draws.filter fun d => d.slot == slot).flatMap Draw.keeps

/-- A draw that begins is given its partial-render record and its PRIMBUF, apart from those of every other draw of
its slot (R296, R297, R330) (DESIGN CHOICE, log entry 3). -/
def State.giveKept (s : State) (d : Draw) : Draw :=
  let rec_ := keptAt (s.keptRuns d.slot) (Config.renderRecord d.slot d.uid) 64
  let prim := keptAt ((rec_.toNat, 64) :: s.keptRuns d.slot) (Config.primbufBase d.slot d.uid) (64 * d.nprims)
  { d with recAt := rec_, primAt := prim, key := (d.slot, d.uid) }

/-- The bytes of a table of the device's own at an address, when an access lies in it. -/
def servedIn (base : DWord) (bs : List Byte) (va n : Nat) : Option (List Byte) :=
  if base.toNat ≤ va ∧ va + n ≤ base.toNat + bs.length then some ((bs.drop (va - base.toNat)).take n) else none

/-- The bytes of a draw's partial-render record, which stay as they are while it is in flight (R330). -/
def renderBytes (slot draw : Nat) : List Byte := bytesOf ((List.range 16).map fun i => Config.renderWord slot draw i)

/-- The bytes the device serves at an address: the PRIMBUF entries and the partial-render record of a draw in
flight (R330). -/
def State.served (s : State) (slot va n : Nat) : Option (List Byte) :=
  (s.draws.filter fun d => d.slot == slot).findSome? fun d =>
    let off := va - d.primAt.toNat
    servedIn d.recAt (renderBytes d.key.1 d.key.2) va n <|>
      if d.primAt.toNat ≤ va ∧ off + n ≤ 64 * d.nprims then
        some (((primEntry (d.prim (off / 64))).drop (off % 64)).take n)
      else none

/-! ### Physical bytes -/

/-- The decoded bytes of a coded block that carry a mark of their own. -/
def State.codedMarks (s : State) (blk : Nat) : List Nat := s.codedPoison.filter fun a => a / 64 = blk

/-- A byte carries a poison mark; the code of a block with marked bytes does (DESIGN CHOICE, log entry 20). -/
def State.marked (s : State) (pa : Nat) : Bool :=
  s.memPoison.contains pa || (decide (pa % 64 < 16) && decide (s.codedMarks (pa / 64) ≠ []))

/-- The sixteen words of the coded block that holds a physical address: its code lies in the first 16
bytes of its 64-byte run (log entry 20). -/
def State.blockAt (s : State) (pa : Nat) : Nat := leNat (Memory.reads s.mem (pa / 64 * 64) 16)

/-- The decoded byte of a compressed page at a physical address carries a mark: its own, or one of its block's
code (R225) (DESIGN CHOICE, log entry 20). -/
def State.decodedBad (s : State) (pa : Nat) : Bool :=
  s.codedPoison.contains pa || (List.range 16).any fun i => s.memPoison.contains (pa / 64 * 64 + i)

/-- `n` bytes of a page within one aligned 64-byte run (R57). Another device's bytes are free values
(DESIGN CHOICE, log entry 60). -/
def State.pageBytes (s : State) (l : Leaf) (va n : Nat) : MBytes :=
  let pa := l.base + va % 2 ^ l.log2
  if l.owner ≠ 255 then
    (List.range n).map fun i => ((s.free (16 + va + i)).setWidth 8, false)
  else if inDevice pa then mbClean ((natLe 4 (s.regRead (devOffset pa)).toNat).take n)
  else if l.kind = .compressed then
    let bs := bytesOf (blockDecode (s.blockAt pa))
    ((bs.drop (pa % 64)).take n).mapIdx fun i b => (b, s.decodedBad (pa + i))
  else (List.range n).map fun i => (Memory.read s.mem (pa + i), s.marked (pa + i))

/-- The marks of a block's decoded bytes become marks of its code, before a write that does not code it again
(DESIGN CHOICE, log entry 20). -/
def State.uncode (s : State) (blk : Nat) : State :=
  if s.codedMarks blk = [] then s
  else { s with
    memPoison := (List.range 16).foldl (fun l i => insertNat (64 * blk + i) l) s.memPoison
    codedPoison := s.codedPoison.filter fun a => a / 64 ≠ blk }

/-- Set or clear the mark of a byte. -/
def State.setMark (s : State) (pa : Nat) (m : Bool) : State :=
  let s := s.uncode (pa / 64)
  if m then { s with memPoison := insertNat pa s.memPoison }
  else { s with memPoison := s.memPoison.filter fun a => a ≠ pa }

/-- Write bytes and their marks to physical memory. -/
def State.physWrite (s : State) (pa : Nat) : MBytes → State
  | [] => s
  | (b, m) :: bs =>
    State.physWrite ({ s with mem := Memory.write s.mem pa b }.setMark pa m) (pa + 1) bs

/-- One store to a page: the leaf it used, the address, the bytes. -/
structure Put where
  leaf : Leaf
  va   : Nat
  data : MBytes
  deriving DecidableEq, Repr

/-- The physical address of a store. -/
def Put.pa (p : Put) : Nat := p.leaf.base + p.va % 2 ^ p.leaf.log2

/-- Overwrite a stretch of a list. -/
def splice {α : Type} (l : List α) (off : Nat) (new : List α) : List α :=
  l.take off ++ new ++ l.drop (off + new.length)

/-- Code a compressed block again with every store of one instance to it, and its side-table entry with
it (R96, R97); the bytes written lose their marks, the others keep them (R225). -/
def State.recode (s : State) (p : Put) (all : List Put) : State :=
  let blk := p.pa / 64
  let mine := all.filter fun q => q.leaf.kind == .compressed && q.pa / 64 == blk
  let merge (bs : MBytes) (q : Put) : MBytes := splice bs (q.pa % 64) q.data
  let old : MBytes := (bytesOf (blockDecode (s.blockAt p.pa))).mapIdx fun i b => (b, s.decodedBad (64 * blk + i))
  let new := mine.foldl merge old
  let ws := wordsOf 16 (mbPlain new)
  let c := blockEncode ws
  let rest := s.codedPoison.filter fun a => a / 64 ≠ blk
  let marks := (List.range 64).filter fun i => (new.getD i (0, false)).2
  let s := { s with codedPoison := rest }.physWrite (blk * 64) (mbClean (natLe 16 c))
  let s := { s with codedPoison := marks.foldl (fun l i => insertNat (64 * blk + i) l) rest }
  s.physWrite (p.leaf.side + 2 * ((p.pa - p.leaf.base) / 64)) (mbClean (natLe 2 (blockError ws c)))

/-- Perform the stores of one instance in order, a compressed block once (R77, R97). A store to another
device's page travels to its owner and changes nothing here (R418) (DESIGN CHOICE, log entry 60). -/
def State.putAll (s : State) (all : List Put) : List Put → List Nat → State
  | [], _ => s
  | p :: ps, done =>
    if p.leaf.owner ≠ 255 then State.putAll s all ps done
    else if inDevice p.pa then
      State.putAll (s.regWrite (devOffset p.pa) (BitVec.ofNat 32 (leNat (mbPlain p.data)))) all ps done
    else if p.leaf.kind = .compressed then
      if done.contains (p.pa / 64) then State.putAll s all ps done
      else State.putAll (s.recode p all) all ps (p.pa / 64 :: done)
    else State.putAll (s.physWrite p.pa p.data) all ps done

/-! ### The replay overlay (R326) -/

/-- The lines an overlay holds. -/
def overlayLines (o : List Host.Cell) : List Nat := (o.map fun c => c.1 / 128).dedup

/-- One byte of the overlay. -/
def overlayGet (o : List Host.Cell) (a : Nat) : Option Byte := (o.find? fun c => c.1 == a).map (·.2)

/-- Write to the overlay of a replay; a write that needs a line beyond the 2,048 is discarded and sets
condition 3. -/
def Replay.put (r : Replay) (va : Nat) (bs : List Byte) : Replay :=
  let lines := overlayLines r.overlay
  if lines.contains (va / 128) || decide (lines.length < 2048) then
    let new := bs.mapIdx fun i b => (va + i, b)
    { r with overlay := new ++ r.overlay.filter fun c => decide (c.1 < va ∨ va + bs.length ≤ c.1) }
  else { r with cond := r.cond ||| 8 }

/-- The bytes a replay's access reads: the overlay's where it holds them. -/
def overlayMerge (o : List Host.Cell) (va : Nat) (m : MBytes) : MBytes :=
  m.mapIdx fun i x => match overlayGet o (va + i) with
    | some b => (b, false)
    | none => x

/-! ### Loads and stores of one address -/

/-- The result of an access: a value, or a fault's code and level. -/
abbrev Acc (α : Type) := Except (Code × Nat) α

/-- Read `n` bytes with their marks within one aligned 64-byte run; marks raise nothing here. -/
def State.fetchBytes (s : State) (w : Who) (va n : Nat) (need : Need) : Acc MBytes :=
  match s.served w.slot va n with
  | some bs => .ok (mbClean bs)
  | none =>
    let base : Acc MBytes := match s.reach w va n need with
      | .ok l => .ok (s.pageBytes l va n)
      | .hole => .ok (mbClean (List.replicate n 0))
      | .bad c lv => .error (c, lv)
    match base, w.replay.bind s.replay? with
    | .ok m, some r => .ok (overlayMerge r.overlay va m)
    | b, _ => b

/-- The level of the leaf that a walk stops at, for the record of a mark found there (R369). -/
def State.leafLevel (s : State) (w : Who) (va : Nat) : Nat :=
  match s.lookup w va with
  | .leaf l => l.level
  | .invalid _ n | .bad n => n

/-- Read `n` bytes; a poisoned byte raises POISON (R225). -/
def State.loadBytes (s : State) (w : Who) (va n : Nat) (need : Need) : Acc (List Byte) :=
  match s.fetchBytes w va n need with
  | .ok m => if mbBad m then .error (.poison, s.leafLevel w va) else .ok (mbPlain m)
  | .error e => .error e

/-- Read a long run in pieces that do not cross a 64-byte run. The error carries the piece's address. -/
def State.loadRun (s : State) (w : Who) (need : Need) : Nat → Nat → Nat → Except (Code × Nat × Nat) MBytes
  | 0, _, _ => .ok []
  | fuel + 1, va, n =>
    if n = 0 then .ok []
    else
      let k := min n (64 - va % 64)
      match s.fetchBytes w va k need with
      | .error (c, lv) => .error (c, lv, va)
      | .ok m =>
        match State.loadRun s w need fuel (va + k) (n - k) with
        | .ok ms => .ok (m ++ ms)
        | .error e => .error e

/-- Read a record of `n` bytes as a group-level access: poison faults too. -/
def State.loadRecord (s : State) (w : Who) (va n : Nat) : Except (Code × Nat × Nat) (List Byte) :=
  match s.loadRun w .read (n + 1) va n with
  | .error e => .error e
  | .ok m =>
    let a := va + m.findIdx fun x => x.2
    if mbBad m then .error (.poison, s.leafLevel w a, a) else .ok (mbPlain m)

/-- Check a store and, when it reaches a page, what to put there. `none` is a discarded store (R364). -/
def State.checkStore (s : State) (w : Who) (va : Nat) (data : MBytes) (need : Need) :
    Acc (Option Put) :=
  match s.reach w va data.length need with
  | .ok l => .ok (some { leaf := l, va := va, data := data })
  | .hole => .ok none
  | .bad c lv => .error (c, lv)

/-- The physical runs that a virtual run lies in now, cut at 64 KiB units; nothing of a unit that no leaf of this
device maps. -/
def State.physRuns (s : State) (w : Who) (va n : Nat) : List (Nat × Nat) :=
  (unitStarts va n).filterMap fun a => match s.walk w.slot a with
    | .leaf l => if l.owner = 255 then some (l.base + a % 2 ^ l.log2, min (va + n) ((a / 65536 + 1) * 65536) - a) else none
    | _ => none

/-- A write to physical memory spoils the matrix results whose global operands lie there, by whatever address they
are reached, but for the service's for an instruction that stands on a record (R76, R374) (DEDUCED, log entry 38). -/
def State.globSpoil (s : State) (w : Who) (pa n : Nat) : State :=
  s.spoilWhere fun g u => (u.globs.any fun e => (s.physRuns (s.who g) e.1 e.2).any fun r => overlaps r.1 r.2 pa n) &&
    !((w.slot == 0 || w.service) && s.stoppedUse g u)

/-- Perform checked stores: in the overlay of a replay, else in memory, with the attributes of R379. -/
def State.perform (s : State) (w : Who) (ps : List Put) : State :=
  match w.replay with
  | some n => s.modReplay n fun r => ps.foldl (fun r p => r.put p.va (mbPlain p.data)) r
  | none =>
    let s := ps.foldl (fun s p => s.touch w p.va true) (s.putAll ps ps [])
    ps.foldl (fun s p => s.globSpoil w p.pa p.data.length) s

/-- Store a run of bytes in pieces; the address and code of the first piece that fails. -/
def State.storeRun (s : State) (w : Who) : Nat → Nat → MBytes → Except (Code × Nat × Nat) (List Put)
  | 0, _, _ => .ok []
  | fuel + 1, va, m =>
    if m = [] then .ok []
    else
      let k := min m.length (64 - va % 64)
      match s.checkStore w va (m.take k) .write with
      | .error (c, lv) => .error (c, lv, va)
      | .ok o =>
        match State.storeRun s w fuel (va + k) (m.drop k) with
        | .ok ps => .ok (o.toList ++ ps)
        | .error e => .error e

/-- A write by the device that raises nothing: performed only when every piece can be (R310, R321)
(DEDUCED, log entry 58). -/
def State.quietStore (s : State) (w : Who) (va : Nat) (bs : List Byte) : Option State :=
  match s.storeRun w (bs.length + 1) va (mbClean bs) with
  | .ok ps => some (s.perform w ps)
  | .error _ => none

/-- A read by the device that raises nothing (DEDUCED, log entry 58). -/
def State.quietLoad (s : State) (w : Who) (va n : Nat) : Option (List Byte) :=
  match s.loadRecord w va n with
  | .ok b => some b
  | .error _ => none

/-- A quiet read of one little-endian value. -/
def State.quietNat (s : State) (w : Who) (va n : Nat) : Option Nat := (s.quietLoad w va n).map leNat

end Sys2Proof.Machine
end

