-- ==== Sys2Proof/Machine/Scratch.lean ====
section
/-! DEFINITION. The scratchpad of a block: bytes, poison marks, full and empty lines, pending copies
(03 R51-R62), and the serai bytes an open generator owns (10 R275). -/

namespace Sys2Proof.Machine

/-- A six-bit field of PARTWORD (R51). -/
def partField (pw : Word) (lo : Nat) : Nat := bfield pw.toNat lo 6

/-- SPADU of a block. -/
def Block.spadu (b : Block) : Nat := partField b.task.partword 24

/-- Bytes of one core's scratchpad part. -/
def Block.partBytes (b : Block) : Nat := b.spadu * 32768

/-- Bytes of the block's scratchpad (R54). -/
def Block.spadSize (b : Block) : Nat := b.cores.length * b.partBytes

/-- SPBASE: the pool offset of the block's scratchpad part on a core (R55). The part takes the lowest
run of units free of other scratchpad parts (log entry 22). -/
def Block.spBase (b : Block) (core : Nat) : Nat :=
  ((b.cores.find? fun c => c.1 == core).map fun c => c.2 * 32768).getD 0

/-- A scratchpad access that fails (R54). -/
def Block.spadBad (b : Block) (off n : Nat) : Bool :=
  off % n != 0 || decide (b.spadSize < off + n)

/-- The block and offset a cluster address names, for a context on a cluster (R55). -/
def State.poolAddr (s : State) (slot cl a n : Nat) : Except Code (Nat × Nat) :=
  if a / 2 ^ 26 ≠ 0 ∨ a % n ≠ 0 then .error .spadrange
  else
    let core := bfield a 21 5
    let off := a % 2 ^ 21
    let inPart (b : Block) : Bool := b.cores.any fun c =>
      c.1 == core && decide (c.2 * 32768 ≤ off) && decide (off + n ≤ c.2 * 32768 + b.partBytes)
    match s.blocks.find? fun b => b.slot == slot && b.cluster == cl && inPart b with
    | none => .error .spadperm
    | some b =>
      let k := b.cores.findIdx fun c => c.1 == core
      .ok (b.uid, k * b.partBytes + (off - b.spBase core))

/-- A line's state. -/
def Block.line (b : Block) (i : Nat) : SpadLine := tget {} b.lines i

/-- Change a line's state. -/
def Block.modLine (b : Block) (i : Nat) (f : SpadLine → SpadLine) : Block :=
  { b with lines := tset {} b.lines i (f (b.line i)) }

/-- The lines that `n` bytes from an offset meet. -/
def linesMet (off n : Nat) : List Nat :=
  if n = 0 then [] else List.range' (off / 128) ((off + n - 1) / 128 - off / 128 + 1)

/-- Every line the bytes meet is full (R61). -/
def Block.linesFull (b : Block) (off n : Nat) : Bool := (linesMet off n).all fun i => (b.line i).full

/-- The bytes of a run that lie in a line. -/
def bytesInLine (off n i : Nat) : Nat := min (off + n) (128 * i + 128) - max off (128 * i)

/-- A copy to the bytes issues: the lines become empty and their pending counts grow (R60). -/
def Block.addPending (b : Block) (off n : Nat) : Block :=
  (linesMet off n).foldl (fun b i => b.modLine i fun l =>
    { l with full := false, pendingBytes := l.pendingBytes + bytesInLine off n i }) b

/-- The serai of an open generator: its first byte and its size (R38). -/
def Generator.bytes (g : Generator) : Nat := 4 * g.words * g.cap

/-- A byte of a block's scratchpad belongs to an open generator of one of its groups (R275). -/
def State.inSerai (s : State) (bu off : Nat) : Bool :=
  s.groups.any fun g => g.block == bu && match g.gen with
    | some x => decide (x.offset ≤ off) && decide (off < x.offset + x.bytes)
    | none => false

/-- Read scratchpad bytes with their marks; serai bytes read Undefined (R275). -/
def State.spadBytes (s : State) (b : Block) (off n : Nat) : MBytes :=
  let at_ := 2 ^ 26 * s.blockRank b + off
  (List.range n).map fun i =>
    if s.inSerai b.uid (off + i) then ((s.undef b.slot .spad (at_ + i)).setWidth 8, false)
    else (Memory.read b.spad (off + i), b.spadPoison.contains (off + i))

/-- Every mark among some bytes is one that a copy has brought (R63), none an error of the pool (R376). -/
def Block.carriedOnly (b : Block) (off n : Nat) : Bool :=
  (List.range n).all fun i => !b.spadPoison.contains (off + i) || b.carried.contains (off + i)

/-- Write bytes and the marks they bring. -/
def Block.spadWrite (b : Block) (off : Nat) : MBytes → Block
  | [] => b
  | (x, m) :: xs =>
    Block.spadWrite { b with
      spad := Memory.write b.spad off x
      spadPoison := if m then insertNat off b.spadPoison else b.spadPoison.filter fun o => o ≠ off
      carried := if m then insertNat off b.carried else b.carried.filter fun o => o ≠ off }
      (off + 1) xs

/-- A copy between global memory and scratchpad (R59). -/
def Instr.copies : Instr → Bool
  | .cpaB32 _ _ _ | .cpaB64 _ _ _ | .cpaB128 _ _ _ | .cpb _ _ _ => true
  | _ => false

/-- A copy to a byte of a block's scratchpad is pending (R61): a caravan carries it, or a faulted copy
waits for its replay (R63). -/
def State.copyPending (s : State) (bu off : Nat) : Bool :=
  (s.caravans.any fun c => c.block == bu && !c.out &&
    c.parts.any fun p => decide (p.off ≤ off) && decide (off < p.off + p.n)) ||
  (s.replayed.any fun r => r.src.block == bu && Instr.copies r.instr && r.spans.any fun (_, a, n, sp) =>
    sp && decide (a ≤ off) && decide (off < a + n))

/-- The serai entries that hold one of `n` stored bytes become Undefined (R275) (DEDUCED, log entry 87). -/
def Generator.stored (s : State) (b : Block) (off n : Nat) (g : Generator) : Generator :=
  { g with entries := g.entries.mapIdx fun i e =>
      let a := g.offset + 4 * g.words * ((g.head + i) % g.cap)
      if overlaps a (4 * g.words) off n then
        e.mapIdx fun j _ => s.undef b.slot .serai (2 ^ 26 * s.blockRank b + a + 4 * j)
      else e }

/-- An ordinary store to scratchpad: it clears marks, neither waits nor changes a full bit; a byte with a
copy pending reads Undefined once its line fills (R61). -/
def State.spadStore (s : State) (bu off : Nat) (m : MBytes) : State :=
  let hit := (List.range m.length).filter fun i => s.copyPending bu (off + i)
  let s := s.modBlock bu fun b =>
    hit.foldl (fun b i => b.modLine ((off + i) / 128) fun l =>
      { l with clob := insertNat (off + i) l.clob }) (b.spadWrite off m)
  let s := match s.block? bu with
    | none => s
    | some b => { s with groups := s.groups.map fun (g : Group) =>
        if g.block = bu then { g with gen := g.gen.map fun (x : Generator) => x.stored s b off m.length } else g }
  s.spadSpoil bu off m.length

/-- The bytes of a landing copy, without those a higher lane also copies. -/
def Block.landWrite (b : Block) (off : Nat) : List (Option (Byte × Bool)) → Block
  | [] => b
  | some x :: xs => Block.landWrite (b.spadWrite off [x]) (off + 1) xs
  | none :: xs => Block.landWrite b (off + 1) xs

/-- A line's pending count reaches 0: the line is full, and the bytes stored to meanwhile read Undefined
(R60, R61). -/
def Block.fillLine (s : State) (b : Block) (i : Nat) : Block :=
  let b := (b.line i).clob.foldl (fun b o =>
    b.spadWrite o [((s.undef b.slot .line (2 ^ 26 * s.blockRank b + o)).setWidth 8, false)]) b
  b.modLine i fun l => { l with full := true, clob := [] }

/-- A copy lands its bytes: the pending counts fall, and a line whose count reaches 0 becomes full
(R60). -/
def State.landPart (s : State) (bu : Nat) (p : Part) : State :=
  let s := s.landSpoil bu p.off p.n
  s.modBlock bu fun b =>
    (linesMet p.off p.n).foldl (fun b i =>
      let b := b.modLine i fun l => { l with pendingBytes := l.pendingBytes - bytesInLine p.off p.n i }
      if (b.line i).pendingBytes = 0 then b.fillLine s i else b) (b.landWrite p.off p.data)

/-- FEMARK on the lines of a range (R62, R243). -/
def Block.mark (b : Block) (off n : Nat) (full : Bool) : Block :=
  (linesMet off n).foldl (fun b i => b.modLine i fun l => { l with full := full }) b

end Sys2Proof.Machine
end

