-- ==== Sys2Proof/Machine/Operands.lean ====
section
/-! DEFINITION. The operands of instruction words: which registers each form reads and writes (05 R107;
07 R158, 08 R194 for poison marks; 19 R371 for Undefined destinations), and the address of each memory
form (05 R108, 06 R130). -/

namespace Sys2Proof.Machine

/-- A register an instruction reads. -/
inductive Rd where
  /-- `n` vector registers from field `r`, whole. -/
  | v (r n : Nat)
  /-- One 16-bit half of a vector register. -/
  | half (r h : Nat)
  /-- `n` vector registers of another lane (R194). -/
  | other (l r n : Nat)
  /-- `n` scalar registers from field `r`. -/
  | s (r n : Nat)
  /-- A hypervector. -/
  | h (r : Nat)
  deriving DecidableEq, Repr

/-- A register an instruction writes in its executing lanes. -/
inductive Wr where
  | v (r n : Nat)
  | p (r : Nat)
  | s (r n : Nat)
  | h (r : Nat)
  deriving DecidableEq, Repr

end Sys2Proof.Machine

namespace Sys2Proof

/-- Registers of a value of class 0x4. -/
def FTy.regs : FTy → Nat | .f64 => 2 | _ => 1
/-- Registers of a value of class 0x5. -/
def Prec.regs : Prec → Nat | .f64 => 2 | _ => 1
/-- Registers of a value of CVT (R206). -/
def NumTy.regs : NumTy → Nat | .s64 | .u64 | .f64 => 2 | _ => 1
/-- What CVT reads of its source (R206). -/
def NumTy.src (t : NumTy) (r : Nat) : Machine.Rd :=
  match t with | .s8 | .s16 | .f16 | .bf16 => .half r 0 | _ => .v r t.regs
/-- Registers of a value of REDUCE (R220). -/
def RedTy.regs : RedTy → Nat | .s64 | .u64 | .f64 => 2 | _ => 1
/-- Registers of an atomic's value (R238). -/
def AtomTy.regs : AtomTy → Nat | .s64 | .u64 => 2 | _ => 1
/-- Operands of an atomic: compare-and-swap also takes the new value (R238). -/
def AtomOp.operands : AtomOp → Nat | .cas => 2 | _ => 1
/-- What a store reads of its data (R236). -/
def LdSize.data (z : LdSize) (w : StNarrow) (r : Nat) : Machine.Rd :=
  match z, w with
  | .b8, _ | .b16, .none => .half r 0
  | _, _ => .v r z.words
/-- Elements of a brick of STBRK (R237). -/
def BrickTy.count : BrickTy → Nat | .bfp m => Machine.bfpCount (m.val + 2) | .int8 => 62 | _ => 31
end Sys2Proof

namespace Sys2Proof.Machine

/-- Words a special register takes (R163). -/
def specWords : SpecReg → Nat | .lin => 4 | .cycle | .energy | .routebase => 2 | _ => 1

/-- SSEL takes its first source (R161). -/
def readsSel (s : State) (g : Group) (c : Nat) : Bool := readS s g c != 0
/-- CPB copies from scratchpad to global memory (R242). -/
def cpbOut (s : State) (g : Group) (n : Nat) : Bool := (readS s g n).getLsbD 31
/-- Words of an entry of the open generator (R275). -/
def genWords (g : Group) : Nat := (g.gen.map (·.words)).getD 1

/-- The field of VBFE and VBFI: its first bit and its length, none when it is empty (R197). -/
def fieldSpan (o w : Word) : Option (Nat × Nat) :=
  if w = 0 ∨ 32 ≤ o.toNat then none else some (o.toNat, min w.toNat (32 - o.toNat))

/-- The halves of a register that `n` bits from bit `lo` meet. -/
def halvesMet (r lo n : Nat) : List Rd :=
  (if lo < 16 then [.half r 0] else []) ++ (if 16 < lo + n then [.half r 1] else [])

/-- What VBFE reads of its source. -/
def fieldRead (s : State) (g : Group) (l a b c : Nat) : List Rd :=
  match fieldSpan (readV s g l b) (readV s g l c) with
  | none => []
  | some (o, n) => halvesMet a o n

/-- Bits of half `h` that a field covers. -/
def halfCover (o n h : Nat) : Nat := min (o + n) (16 * h + 16) - max o (16 * h)

/-- What VBFI reads of its source and, where it keeps a part of a half, of its destination (R194)
(DEDUCED, log entry 63). -/
def insertRead (s : State) (g : Group) (l d a b c : Nat) : List Rd :=
  match fieldSpan (readV s g l b) (readV s g l c) with
  | none => []
  | some (o, n) => halvesMet a 0 n ++
      ([0, 1].filter fun h => 0 < halfCover o n h ∧ halfCover o n h < 16).map fun h => .half d h

/-- What an address reads (R130): 64-bit bases for global accesses. -/
def memReads (glob : Bool) : MemX → List Rd
  | .base b _ | .baseXi b _ => [.s b.val (if glob then 2 else 1)]
  | .idx b i _ _ => [.s b.val (if glob then 2 else 1), .v i.val 1]
  | .vbase a _ | .vbaseXi a _ => [.v a.val (if glob then 2 else 1)]

/-- A lane takes part in the instance in flight (R212). -/
def Group.takesPart (g : Group) (l : Nat) : Bool :=
  match g.clause with
  | some c => mHas c.exec l
  | none => false

/-- The lanes whose values a reduction, a scan or a match takes: executing lanes that are no helpers (R212). -/
def Group.takers (g : Group) : List Nat :=
  match g.clause with
  | some c => lanesOf (g.noHelpers c.exec)
  | none => []

/-- A quad member's lane, or the reading lane when the member does not take part (R214, R215). -/
def Group.pick (g : Group) (l k : Nat) : Nat := if g.takesPart k then k else l

/-- The two lanes of a derivative: what is subtracted from, what is subtracted (R215). -/
def Group.diffLanes (g : Group) (l : Nat) (dy coarse : Bool) : Nat × Nat :=
  let q := 4 * (l / 4)
  let lo := if coarse then q else if dy then q + l % 2 else q + 2 * (l / 2 % 2)
  (g.pick l (lo + if dy then 2 else 1), g.pick l lo)

/-- The modes of SHFL. -/
inductive ShflMode where
  | idx | up | down | xor
  deriving DecidableEq, Repr

/-- The lane a shuffle reads (R216): the source when it lies in the group and takes part, else the lane. -/
def Group.shflLane (g : Group) (m : ShflMode) (l : Nat) (b : Word) : Nat :=
  let n := b.toNat
  let src : Option Nat := match m with
    | .idx => some n
    | .up => if n ≤ l then some (l - n) else none
    | .down => some (l + n)
    | .xor => some (l ^^^ n)
  match src with
  | some k => if k < g.width ∧ g.takesPart k then k else l
  | none => l

/-- What a derivative reads. -/
def diffReads (g : Group) (l r : Nat) (dy coarse : Bool) : List Rd :=
  let x := g.diffLanes l dy coarse
  [.other x.1 r 1, .other x.2 r 1]

/-- What the derivatives of TEX read (R234). -/
def texReads (g : Group) (l c : Nat) : List Rd :=
  diffReads g l c false true ++ diffReads g l (c + 1) false true ++
    diffReads g l c true true ++ diffReads g l (c + 1) true true

/-- The registers an instruction reads in a lane; WATCH tests debug-enable before it reads any (R288)
(DEDUCED, log entry 63). -/
def Instr.reads (s : State) (g : Group) (l : Nat) (i : Instr) : List Rd :=
  match i with
  | .sadd _ a b
  | .ssub _ a b
  | .smul _ a b
  | .smulh _ a b
  | .smulhU _ a b
  | .sand _ a b
  | .sor _ a b
  | .sxor _ a b
  | .sshl _ a b
  | .sshr _ a b
  | .ssar _ a b
  | .smin _ a b
  | .smax _ a b
  | .sminu _ a b
  | .smaxu _ a b
  | .scmpEq _ a b
  | .scmpNe _ a b
  | .scmpLt _ a b
  | .scmpLe _ a b
  | .scmpGt _ a b
  | .scmpGe _ a b
  | .scmpLtu _ a b
  | .scmpLeu _ a b
  | .scmpGtu _ a b
  | .scmpGeu _ a b
  | .femarkFull a b
  | .femarkEmpty a b
  | .mma _ _ _ a b => [.s a.val 1, .s b.val 1]
  | .ssel _ a b c => [.s c.val 1, .s (if readsSel s g c.val then a.val else b.val) 1]
  | .sclz _ a
  | .spop _ a
  | .smov _ a
  | .saddiShort _ a _
  | .saddiXi _ a _
  | .tokw _ a => [.s a.val 1]
  | .swr s _
  | .brs s _
  | .brsZ s _
  | .perf s => [.s s.val 1]
  | .brx t
  | .callx _ t => [.v t.val 2]
  | .ret l => [.v l.val 2]
  | .launch v
  | .launchOrd v => [.v v.val 2]
  | .renq r e => [.s r.val 1, .v e.val 2]
  | .rdeq _ r => [.s r.val 1]
  | .vadd _ a b
  | .vsub _ a b
  | .vmul _ a b
  | .vmulhS32 _ a b
  | .vmulhU32 _ a b
  | .vaddc _ a b _
  | .vand _ a b
  | .vor _ a b
  | .vxor _ a b
  | .vshl _ a b
  | .vshr _ a b
  | .vsar _ a b
  | .vminS32 _ a b
  | .vminU32 _ a b
  | .vmaxS32 _ a b
  | .vmaxU32 _ a b
  | .vcmpEqS32 _ a b
  | .vcmpNeS32 _ a b
  | .vcmpLtS32 _ a b
  | .vcmpLeS32 _ a b
  | .vcmpGtS32 _ a b
  | .vcmpGeS32 _ a b
  | .vcmpEqU32 _ a b
  | .vcmpNeU32 _ a b
  | .vcmpLtU32 _ a b
  | .vcmpLeU32 _ a b
  | .vcmpGtU32 _ a b
  | .vcmpGeU32 _ a b => [.v a.val 1, .v b.val 1]
  | .vmad _ a b c => [.v a.val 1, .v b.val 1, .v c.val 1]
  | .vabs _ a
  | .vclz _ a
  | .vpop _ a
  | .vmov _ a
  | .depw a
  | .linset a => [.v a.val 1]
  | .vbfeS32 _ a b c
  | .vbfeU32 _ a b c => [.v b.val 1, .v c.val 1] ++ fieldRead s g l a.val b.val c.val
  | .vbfi d a b c => [.v b.val 1, .v c.val 1] ++ insertRead s g l d.val a.val b.val c.val
  | .vsel _ a b c => [.v (if (g.lane l).pred c.val then a.val else b.val) 1]
  | .fadd t _ _ a b
  | .fsub t _ _ a b
  | .fmul t _ _ a b
  | .fmin t _ a b
  | .fmax t _ a b
  | .fcmp t _ _ a b
  | .fdiv t _ _ a b => [.v a.val t.regs, .v b.val t.regs]
  | .ffma t _ _ a b c => [.v a.val t.regs, .v b.val t.regs, .v c.val t.regs]
  | .fdot2 _ _ d a b => [.v a.val 1, .v b.val 1, .v d.val 1]
  | .cvt _ sty _ _ a => [sty.src a.val]
  | .cvtn n _ _ a => [n.src.src a.val]
  | .frcp t _ _ a
  | .frsq t _ a
  | .fsqrt t _ _ a
  | .fexp2 t _ a
  | .flog2 t _ a
  | .fsin t _ a
  | .fcos t _ a
  | .fround t _ _ a
  | .ffract t _ a
  | .fclass t _ a => [.v a.val t.regs]
  | .reduce _ t _ _ a => if (g.lane l).helper then [] else g.takers.map fun k => .other k a.val t.regs
  | .scan _ t _ _ a =>
    if (g.lane l).helper then [] else (g.takers.filter fun k => decide (k ≤ l)).map fun k => .other k a.val t.regs
  | .matchAny _ a => if (g.lane l).helper then [] else g.takers.map fun k => .other k a.val 1
  | .qswapH _ a => [.other (g.pick l (l ^^^ 1)) a.val 1]
  | .qswapV _ a => [.other (g.pick l (l ^^^ 2)) a.val 1]
  | .qswapD _ a => [.other (g.pick l (l ^^^ 3)) a.val 1]
  | .ddxFine _ a => diffReads g l a.val false false
  | .ddxCoarse _ a => diffReads g l a.val false true
  | .ddyFine _ a => diffReads g l a.val true false
  | .ddyCoarse _ a => diffReads g l a.val true true
  | .shflIdx _ a b => [.v b.val 1, .other (g.shflLane .idx l (readV s g l b.val)) a.val 1]
  | .shflUp _ a b => [.v b.val 1, .other (g.shflLane .up l (readV s g l b.val)) a.val 1]
  | .shflDown _ a b => [.v b.val 1, .other (g.shflLane .down l (readV s g l b.val)) a.val 1]
  | .shflXor _ a b => [.v b.val 1, .other (g.shflLane .xor l (readV s g l b.val)) a.val 1]
  | .ld _ _ b _
  | .sld _ _ b _
  | .ldlod _ _ b _
  | .hld _ b _ => [.s b.val 2]
  | .ldX _ _ _ m
  | .sldX _ _ _ m
  | .ldlodX _ _ _ m => memReads true m
  | .lds _ _ b _
  | .ldc _ _ b _
  | .mbara b => [.s b.val 1]
  | .ldsX _ _ _ m
  | .ldcX _ _ _ m => memReads false m
  | .ldbrk _ m c => memReads true m ++ [.v c.val 1]
  | .tex u _ _ s c => [.s s.val 2, .v c.val (if u = .auto then 2 else 3)] ++
      if u = .level then [] else texReads g l c.val
  | .texg _ _ s c => [.s s.val 2, .v c.val 3]
  | .st z d b _ => [.s b.val 2, z.data .none d.val]
  | .stX z w _ d m => memReads true m ++ [z.data w d.val]
  | .sts z d b _
  | .stc z d b _ => [.s b.val 1, z.data .none d.val]
  | .stsX z w _ d m
  | .stcX z w _ d m => memReads false m ++ [z.data w d.val]
  | .sst z d b _ => [.s b.val 2, .s d.val z.words]
  | .sstX z _ _ d m => memReads true m ++ [.s d.val z.words]
  | .stbrk k a m => memReads true m ++ [.v a.val (ceilDiv k.count g.width)]
  | .atom o t _ _ _ m c
  | .red o t _ _ m c
  | .atomx o t _ _ _ m c => memReads true m ++ [.v c.val (o.operands * t.regs)]
  | .atoms o t _ _ _ m c => memReads false m ++ [.v c.val (o.operands * t.regs)]
  | .cpaB32 s g_ i
  | .cpaB64 s g_ i
  | .cpaB128 s g_ i => [.s s.val 1, .s g_.val 2, .v i.val 1]
  | .cpb d a n => [.s n.val 1, .s d.val (if cpbOut s g n.val then 2 else 1), .s a.val (if cpbOut s g n.val then 1 else 2)]
  | .prefr _ a b
  | .cflush a b => [.s a.val 2, .s b.val 1]
  | .waitcToken t _ => [.s t.val 1]
  | .mbarw b p => [.s b.val 1, .s p.val 1]
  | .xall _ a => [.s a.val 8]
  | .mloop _ _ _ p => [.s p.val 8]
  | .mldz _ _ a
  | .mstz _ _ a
  | .mqnt _ _ a
  | .raslog _ a => [.s a.val 2]
  | .hst a b _ => [.s b.val 2, .h a.val]
  | .hmov _ a
  | .hbund _ a
  | .htie a => [.h a.val]
  | .hbind _ a b
  | .hham _ a b => [.h a.val, .h b.val]
  | .hperm _ a n => [.h a.val, .s n.val 1]
  | .hnear _ a _ c => [.h a.val, .s c.val 1]
  | .hbit _ n v => [.s n.val 1, .s v.val 1]
  | .gopenW1 p _ _
  | .gopenW2 p _ _
  | .gopenW3 p _ _
  | .gopenW4 p _ _ => [.s p.val 2]
  | .gyield a => [.v a.val (genWords g)]
  | .repack k => [.v k.val 1]
  | .travb r d => [.v r.val 8, .s d.val 2]
  | .travc t => [.v t.val 1]
  | .draw _ a n => [.s a.val 2, .s n.val 1]
  | .vxemit i _ => [.v i.val 1]
  | .primemit i p => [.v i.val 1, .v p.val 1]
  | .pxout _ a => [.v a.val 4]
  | .wrec s t _ => [.s s.val 1, .v t.val 1]
  | .watch n a => if (s.ctxOf g).ccb.debug then [.s n.val 1, .s a.val 2] else []
  | .replay _ a => [.s a.val 4]
  | .ctxsave _ c a
  | .ctxload _ c a => [.s c.val 1, .s a.val 2]
  | .ovtbl c v => [.s c.val 1, .s v.val 1]
  | .tlbinv _ r
  | .pgattr _ r
  | .admitCluster r => [.s r.val 4]
  | .resfence _ c => [.s c.val 1]
  | _ => []

/-- The registers an instruction writes in each executing lane. -/
def Instr.writes (g : Group) (i : Instr) : List Wr :=
  match i with
  | .sadd d _ _
  | .ssub d _ _
  | .smul d _ _
  | .smulh d _ _
  | .smulhU d _ _
  | .sand d _ _
  | .sor d _ _
  | .sxor d _ _
  | .sshl d _ _
  | .sshr d _ _
  | .ssar d _ _
  | .smin d _ _
  | .smax d _ _
  | .sminu d _ _
  | .smaxu d _ _
  | .ssel d _ _ _
  | .sclz d _
  | .spop d _
  | .smov d _
  | .scmpEq d _ _
  | .scmpNe d _ _
  | .scmpLt d _ _
  | .scmpLe d _ _
  | .scmpGt d _ _
  | .scmpGe d _ _
  | .scmpLtu d _ _
  | .scmpLeu d _ _
  | .scmpGtu d _ _
  | .scmpGeu d _ _
  | .smovi d _
  | .saddiShort d _ _
  | .saddiXi d _ _
  | .slit d _
  | .prefr d _ _
  | .tokw d _
  | .xall d _
  | .mstat d _
  | .hham d _ _
  | .draw d _ _
  | .ctxsave d _ _
  | .ctxload d _ _
  | .tlbinv d _
  | .resfence d _
  | .pgattr d _
  | .raslog d _ => [.s d.val 1]
  | .srdS d n => [.s d.val (specWords n)]
  | .srdV d n => [.v d.val (specWords n)]
  | .call l _
  | .callx l _ => [.v l.val 2]
  | .rdeq d _
  | .hnear d _ _ _
  | .replay d _ => [.s d.val 2]
  | .vadd d _ _
  | .vsub d _ _
  | .vmul d _ _
  | .vmulhS32 d _ _
  | .vmulhU32 d _ _
  | .vmad d _ _ _
  | .vand d _ _
  | .vor d _ _
  | .vxor d _ _
  | .vshl d _ _
  | .vshr d _ _
  | .vsar d _ _
  | .vminS32 d _ _
  | .vminU32 d _ _
  | .vmaxS32 d _ _
  | .vmaxU32 d _ _
  | .vabs d _
  | .vclz d _
  | .vpop d _
  | .vbfeS32 d _ _ _
  | .vbfeU32 d _ _ _
  | .vbfi d _ _ _
  | .vsel d _ _ _
  | .vmov d _
  | .vmovi d _
  | .vlit d _
  | .fdot2 _ _ d _ _
  | .cvtn _ _ d _
  | .fclass _ d _
  | .qswapH d _
  | .qswapV d _
  | .qswapD d _
  | .ddxFine d _
  | .ddxCoarse d _
  | .ddyFine d _
  | .ddyCoarse d _
  | .shflIdx d _ _
  | .shflUp d _ _
  | .shflDown d _ _
  | .shflXor d _ _
  | .ldbrk d _ _ => [.v d.val 1]
  | .vaddc d _ _ c => [.v d.val 1, .p c.val]
  | .vcmpEqS32 d _ _
  | .vcmpNeS32 d _ _
  | .vcmpLtS32 d _ _
  | .vcmpLeS32 d _ _
  | .vcmpGtS32 d _ _
  | .vcmpGeS32 d _ _
  | .vcmpEqU32 d _ _
  | .vcmpNeU32 d _ _
  | .vcmpLtU32 d _ _
  | .vcmpLeU32 d _ _
  | .vcmpGtU32 d _ _
  | .vcmpGeU32 d _ _
  | .fcmp _ _ d _ _
  | .voteAny d _
  | .voteAll d _
  | .ishelp d
  | .pand d _ _
  | .por d _ _
  | .pxor d _ _
  | .pnot d _
  | .pmov d _ => [.p d.val]
  | .fadd t _ d _ _
  | .fsub t _ d _ _
  | .fmul t _ d _ _
  | .ffma t _ d _ _ _
  | .fmin t d _ _
  | .fmax t d _ _
  | .frcp t _ d _
  | .frsq t d _
  | .fsqrt t _ d _
  | .fdiv t _ d _ _
  | .fexp2 t d _
  | .flog2 t d _
  | .fsin t d _
  | .fcos t d _
  | .fround t _ d _
  | .ffract t d _
  | .reduce _ t _ d _
  | .scan _ t _ d _
  | .atom _ t _ _ d _ _
  | .atoms _ t _ _ d _ _
  | .atomx _ t _ _ d _ _ => [.v d.val t.regs]
  | .cvt dt _ _ d _ => [.v d.val dt.regs]
  | .voteBallot d _
  | .matchAny d _
  | .actmask d => [.v d.val 2]
  | .ld z d _ _
  | .ldX z _ d _
  | .lds z d _ _
  | .ldsX z _ d _
  | .ldc z d _ _
  | .ldcX z _ d _ => [.v d.val z.words]
  | .sld z d _ _
  | .sldX z _ d _ => [.s d.val z.words]
  | .ldlod z d _ _
  | .ldlodX _ z d _
  | .tex _ z d _ _ => [.v d.val (z.words + 1)]
  | .texg _ d _ _
  | .travs d => [.v d.val 5]
  | .hld d _ _
  | .hmov d _
  | .hbind d _ _
  | .hperm d _ _
  | .hthr d _
  | .hbit d _ _ => [.h d.val]
  | .gtake d => [.v d.val (genWords g)]
  | _ => []

/-- A register read meets a poison mark in a lane. -/
def Rd.bad (g : Group) (l : Nat) : Rd → Bool
  | .v r n => (List.range n).any fun k => g.vBad l (r + k)
  | .half r k => g.vHalf l r k
  | .other k r n => (List.range n).any fun j => g.vBad k (r + j)
  | .s r n => (List.range n).any fun k => g.sBad (r + k)
  | .h r => g.hBad r

/-- The lanes of a mask in which the instruction reads a poison mark (R158, R194). -/
def poisonMask (s : State) (g : Group) (m : Mask) (i : Instr) : Mask :=
  maskOf ((lanesOf m).filter fun l => (Instr.reads s g l i).any fun r => r.bad g l)

/-- Make the destinations of an instruction Undefined in the lanes of a mask (R371); those of a long-latency one tied
to a flag wait for it, as its results do (R112). -/
def undefWrites (s : State) (g : Group) (m : Mask) (i : Instr) (f : Option (Fin 12)) : Group :=
  (Instr.writes g i).foldl (fun g w => match w with
    | .v r n => (lanesOf m).foldl (fun g l =>
        g.queueV f l r ((List.range n).map fun k => s.undef (s.slotOf g) .write (256 * l + r + k))) g
    | .p r => (lanesOf m).foldl (fun g l => g.writeP l r ((s.undef (s.slotOf g) .write (16384 + l)).getLsbD 0)) g
    | .s r n => g.queueS f r ((List.range n).map fun k => s.undef (s.slotOf g) .write (17408 + r + k))
    | .h r => g.queueH f r (s.undefHyper (s.slotOf g) .write (1024 + r))) g

end Sys2Proof.Machine

namespace Sys2Proof

/-- The offset of an address: units of the access size or a byte count (R130). -/
def MemX.offset (m : MemX) (size : Nat) : Int :=
  match m with
  | .base _ o | .vbase _ o => Machine.sext o * size
  | .baseXi _ x | .vbaseXi _ x => Machine.sext x
  | .idx _ _ _ x => match x with | some x => Machine.sext x | none => 0

/-- The index part of an address: a signed index times 1 or the access size (R108). -/
def MemX.index (s : Machine.State) (g : Machine.Group) (l size : Nat) : MemX → Int
  | .idx _ i sc _ => Machine.sext (Machine.readV s g l i.val) * (if sc then size else 1)
  | _ => 0

/-- The global base of an address. -/
def MemX.base64 (s : Machine.State) (g : Machine.Group) (l : Nat) : MemX → DWord
  | .base b _ | .baseXi b _ | .idx b _ _ _ => Machine.readS64 s g b.val
  | .vbase a _ | .vbaseXi a _ => Machine.readV64 s g l a.val

/-- The scratchpad or cluster base of an address. -/
def MemX.base32 (s : Machine.State) (g : Machine.Group) (l : Nat) : MemX → Word
  | .base b _ | .baseXi b _ | .idx b _ _ _ => Machine.readS s g b.val
  | .vbase a _ | .vbaseXi a _ => Machine.readV s g l a.val

end Sys2Proof

namespace Sys2Proof.Machine

/-- The global address of a lane (R108, R130), modulo 2^64. -/
def globalAddr (s : State) (g : Group) (l size : Nat) (m : MemX) : DWord :=
  addr64 (m.base64 s g l) (m.index s g l size + m.offset size)

/-- The scratchpad or cluster address of a lane, modulo 2^32. -/
def localAddr (s : State) (g : Group) (l size : Nat) (m : MemX) : Word :=
  addr32 (m.base32 s g l) (m.index s g l size + m.offset size)

/-- An h, c or z field lies below the count declared at launch (R126). -/
def Instr.declared (t : TaskRec) : Instr → Bool
  | .mma _ _ z _ _ | .mloop _ _ z _ | .mzero z | .mldz _ z _ | .mstz _ z _ | .mqnt _ z _
  | .mstat _ z => decide (z.val < t.zcount)
  | .hld d _ _ | .hbit d _ _ => decide (d.val < t.hcount)
  | .hperm d a _ => decide (d.val < t.hcount) && decide (a.val < t.hcount)
  | .hst a _ _ | .htie a => decide (a.val < t.hcount)
  | .hmov d a => decide (d.val < t.hcount) && decide (a.val < t.hcount)
  | .hbind d a b => decide (d.val < t.hcount) && decide (a.val < t.hcount) && decide (b.val < t.hcount)
  | .hbund c a => decide (c.val < t.ccount) && decide (a.val < t.hcount)
  | .hthr d c => decide (d.val < t.hcount) && decide (c.val < t.ccount)
  | .hclrc c => decide (c.val < t.ccount)
  | .hham _ a b | .hnear _ a b _ => decide (a.val < t.hcount) && decide (b.val < t.hcount)
  | _ => true

/-- A long-latency instruction (R111, R115). -/
def Instr.long : Instr → Bool
  | .ld _ _ _ _ | .ldX _ _ _ _ | .lds _ _ _ _ | .ldsX _ _ _ _ | .ldc _ _ _ _ | .ldcX _ _ _ _
  | .sld _ _ _ _ | .sldX _ _ _ _ | .ldlod _ _ _ _ | .ldlodX _ _ _ _ | .ldbrk _ _ _ | .tex _ _ _ _ _
  | .texg _ _ _ _ | .atom _ _ _ _ _ _ _ | .atoms _ _ _ _ _ _ _ | .atomx _ _ _ _ _ _ _
  | .cpaB32 _ _ _ | .cpaB64 _ _ _ | .cpaB128 _ _ _ | .cpb _ _ _ | .xall _ _
  | .mma _ _ _ _ _ | .mloop _ _ _ _ | .mzero _ | .mldz _ _ _ | .mstz _ _ _ | .mqnt _ _ _
  | .hld _ _ _ | .hham _ _ _ | .hnear _ _ _ _ | .travs _ | .replay _ _ => true
  | _ => false

/-- A clause-ending instruction (R110). -/
def Instr.ends : Instr → Bool
  | .bra _ _ | .brs _ _ | .brsZ _ _ | .jmp _ | .brx _ | .call _ _ | .callx _ _ | .ret _ | .join _
  | .exitLanes | .trap _ | .brk _ | .svc _ | .rdeq _ _ | .renq _ _ | .discard | .bar | .mbarw _ _
  | .tokw _ _ | .waitcToken _ _ | .waitcBarrier _ | .repack _ | .gyield _ | .gdone | .gback | .eret
  | .halt => true
  | _ => false

/-- The flag that a fault of an instruction holds up: a long-latency instruction's (R123, R373). -/
def Instr.holds (i : Instr) (c : Clause) : Option (Fin 12) := if Instr.long i then c.tied else none

/-- The source field of a fault record for an instruction's own faults (R369): 0 a lane instruction, 1 a
group-level one (R156, R226, R260, R350), 4 the traversal or texture path (DEDUCED, log entry 54). -/
def Instr.source : Instr → Nat
  | .travs _
  | .tex _ _ _ _ _
  | .texg _ _ _ _ => 4
  | .sadd _ _ _
  | .ssub _ _ _
  | .smul _ _ _
  | .smulh _ _ _
  | .smulhU _ _ _
  | .sand _ _ _
  | .sor _ _ _
  | .sxor _ _ _
  | .sshl _ _ _
  | .sshr _ _ _
  | .ssar _ _ _
  | .smin _ _ _
  | .smax _ _ _
  | .sminu _ _ _
  | .smaxu _ _ _
  | .ssel _ _ _ _
  | .sclz _ _
  | .spop _ _
  | .smov _ _
  | .smovi _ _
  | .saddiShort _ _ _
  | .saddiXi _ _ _
  | .slit _ _
  | .srdS _ _
  | .swr _ _
  | .swin _
  | .perf _
  | .rdeq _ _
  | .sld _ _ _ _
  | .sldX _ _ _ _
  | .sst _ _ _ _
  | .sstX _ _ _ _ _
  | .stbrk _ _ _
  | .cpb _ _ _
  | .prefr _ _ _
  | .tokw _ _
  | .femarkFull _ _
  | .femarkEmpty _ _
  | .mbara _
  | .mbarw _ _
  | .cflush _ _
  | .xall _ _
  | .waitcToken _ _
  | .waitcBarrier _
  | .mma _ _ _ _ _
  | .mloop _ _ _ _
  | .mzero _
  | .mldz _ _ _
  | .mstz _ _ _
  | .mqnt _ _ _
  | .mstat _ _
  | .hld _ _ _
  | .hst _ _ _
  | .hmov _ _
  | .hbind _ _ _
  | .hperm _ _ _
  | .hbund _ _
  | .hthr _ _
  | .hclrc _
  | .hham _ _ _
  | .hnear _ _ _ _
  | .htie _
  | .hbit _ _ _
  | .gopenW1 _ _ _
  | .gopenW2 _ _ _
  | .gopenW3 _ _ _
  | .gopenW4 _ _ _
  | .gback
  | .gdone
  | .gclose
  | .repack _
  | .draw _ _ _
  | .watch _ _
  | .replay _ _
  | .ctxsave _ _ _
  | .ctxload _ _ _
  | .ovtbl _ _
  | .tlbinv _ _
  | .resfence _ _
  | .pgattr _ _
  | .admitCluster _
  | .raslog _ _
  | .halt
  | .eret
  | .scmpEq _ _ _
  | .scmpNe _ _ _
  | .scmpLt _ _ _
  | .scmpLe _ _ _
  | .scmpGt _ _ _
  | .scmpGe _ _ _
  | .scmpLtu _ _ _
  | .scmpLeu _ _ _
  | .scmpGtu _ _ _
  | .scmpGeu _ _ _ => 1
  | _ => 0

end Sys2Proof.Machine
end

