-- ==== Sys2Proof/Machine/Ops.lean ====
section
/-! DEFINITION. Taking an exception and going on from it (19 R367-R373, 18 R351, 06 R151), the service's
events (22 R410-R413), target checks (06 R148, R149), and the form of every meaning of an instruction
word. -/

namespace Sys2Proof.Machine

/-- The number of a code (R368). -/
def Code.num : Code → Nat
  | .clause => 0x01 | .priv => 0x02 | .illegal => 0x03 | .mtype => 0x04
  | .linekind => 0x08 | .badtarget => 0x09 | .landkind => 0x0A | .nulllink => 0x0B
  | .window => 0x10 | .joindead => 0x11 | .user => 0x12 | .launcharg => 0x13 | .route => 0x14
  | .memarg => 0x15 | .genarg => 0x16 | .gennest => 0x17 | .genmode => 0x18 | .repackgen => 0x19
  | .repackrole => 0x1A | .pipearg => 0x1B | .discardstate => 0x1C | .depwstate => 0x1D
  | .debug => 0x1E | .privarg => 0x1F
  | .addrform => 0x20 | .align => 0x21 | .spadrange => 0x22 | .spadperm => 0x23 | .kindop => 0x24
  | .notmapped => 0x30 | .writeprot => 0x31 | .execprot => 0x32 | .ptformat => 0x33
  | .poison => 0x34 | .brickpoison => 0x35 | .brickkind => 0x36
  | .brk => 0x40

/-- A code of a virtual address, whose faults on one 64 KiB unit share a record (R367). -/
def Code.unit : Code → Bool
  | .addrform | .align | .kindop | .notmapped | .writeprot | .execprot | .ptformat | .poison
  | .brickpoison | .brickkind => true
  | _ => false

/-- A decode trap or a control-flow fault: its lanes run the clause again (R371, R372). -/
def Code.rerun (c : Code) : Bool := decide (c.num < 0x10)

/-- The 64 bytes of a fault record (R369); its three bits of cluster read 0 for the Waystation's (DESIGN CHOICE, log
entry 123). -/
def Record.bytes (r : Record) : List Byte :=
  let id := r.code.num + r.source * 256 + r.slot * 65536 + r.core * 2 ^ 24 + r.cluster % 8 * 2 ^ 29
  let flags := (if r.write then 1 else 0) + (if r.atomic then 2 else 0) + (if r.helper then 4 else 0)
    + min 255 r.waiters * 65536
  natLe 4 id ++ natLe 4 r.bid ++ natLe 4 r.gid ++ natLe 4 flags ++ natLe 8 r.mask.toNat ++
    natLe 8 r.addr.toNat ++ natLe 8 r.header.toNat ++ natLe 8 r.word.toNat ++
    natLe 4 r.aux.toNat ++ natLe 4 r.arg.toNat ++ natLe 4 r.level ++ natLe 4 r.answer.toNat

/-- What a fault says beside the lanes and the place (R369). -/
structure FaultAt where
  code   : Code
  addr   : Nat := 0
  level  : Nat := 0
  write  : Bool := false
  atomic : Bool := false
  aux    : Word := 0
  source : Nat := 0
  /-- A poison mark of the pool, which has no virtual address (R376). -/
  pool   : Bool := false
  /-- The marks are ones that a copy has brought to scratchpad (R63). -/
  carried : Bool := false
  /-- What the LOD instance had read when the lane faulted (R341). -/
  seen   : Option LodSeen := none
  deriving DecidableEq, Repr

/-- The fault record of lanes of a group (R369). -/
def State.recordOf (s : State) (g : Group) (f : FaultAt) (m : Mask) (header word : DWord) : Record :=
  { num := 0, code := f.code, source := f.source, slot := s.slotOf g, core := g.core
    cluster := s.clusterOf g, bid := ((s.block? g.block).map (·.bid)).getD 0, gid := g.gid
    write := f.write, atomic := f.atomic, helper := g.replay && decide (g.helpers m ≠ 0)
    waiters := 1, mask := m, addr := BitVec.ofNat 64 f.addr, header := header, word := word
    aux := f.aux, arg := g.svcarg, level := f.level, answer := 0, who := [(g.uid, m)]
    block := g.block, unit := f.code.unit && !f.pool, draws := [], ring := none
    logic := decide (f.code = .poison) && f.pool && !f.carried }

/-! ### Events to the host -/

/-- The TAG of a new event: the service's choice, or the lowest number in its place while a pending event of
the slot has that TAG (R411) (DESIGN CHOICE, log entry 2). -/
def State.newTag (s : State) (slot n : Nat) : Word :=
  let used (t : Word) : Bool := s.awaited.any fun a => a.2.1 == slot && a.2.2.1 == t
  if used (Config.eventTag n) then
    (((List.range (s.awaited.length + 1)).map fun k => BitVec.ofNat 32 k).find? fun t => !used t).getD 0
  else Config.eventTag n

/-- The service sends an event to the slot's bound connection, or holds it: 4,096 of them, the oldest
dropped and counted (R410, R413); an SVC and a fault record call the service's halted groups (R356). Slot 0 has no connection (DESIGN CHOICE, log entry 56). -/
def State.sendEvent (s : State) (slot op : Nat) (payload : List Byte) (aw : Option Awaited) : State :=
  let s := if op = 0x41 ∨ op = 0x42 ∨ op = 0x43 then s.callHalted else s
  let n := s.fresh
  let c := s.ctx slot
  let t := s.newTag slot n
  let msg : Message := { op := op, conn := c.conn, tag := t, slot := slot, status := 0,
                         stamp := 0, payload := payload }
  let s := { s with fresh := n + 1 }
  let s := match aw with
    | some a => { s with awaited := s.awaited ++ [(n, slot, t, a)] }
    | none => s
  if slot = 0 then s
  else if c.conn.isSome then { s with outbox := msg :: s.outbox }
  else
    let held := c.held ++ [msg]
    if held.length ≤ 4096 then s.modCtx slot fun c => { c with held := held }
    else s.modCtx slot fun c => { c with held := held.drop 1, dropped := c.dropped + 1 }

/-- The statuses of a response (R407). -/
inductive Status where
  | ok | badreq | absent | full | denied | busy | exhausted | failed
  deriving DecidableEq, Repr

/-- The number of a status. -/
def Status.num : Status → Nat
  | .ok => 0 | .badreq => 1 | .absent => 2 | .full => 3 | .denied => 4 | .busy => 5 | .exhausted => 6 | .failed => 7

/-- The service answers a request of code `op` (R407). -/
def State.respond (s : State) (q : Req) (op : Nat) (st : Status) (payload : List Byte) : State :=
  { s with outbox := {
      op := op + 0x80, conn := some q.conn, tag := q.tag, slot := q.slot.val, status := st.num, stamp := q.stamp
      payload := payload } :: s.outbox }

/-- The code of the request a service task performs (R408). -/
def Job.op : Job → Nat
  | .watch _ _ => 0x09
  | .replay _ _ => 0x0A

/-- A service task's request is answered (R412). -/
def State.taskDone (s : State) (t : ServiceTask) (st : Status) (payload : List Byte) : State :=
  ({ s with tasks := s.tasks.filter fun x => x.grid ≠ t.grid }).respond t.req t.job.op st payload

/-- The grid of a service task ends without its result: the request is answered FAILED. -/
def State.failTask (s : State) (grid : Nat) : State :=
  match s.tasks.find? fun t => t.grid == grid with
  | none => s
  | some t => s.taskDone t .failed []

/-! ### The fault buffer and the fault ring -/

/-- GET of the fault ring, as the service wrote it (R416). -/
def State.ringGet (s : State) : Word := BitVec.ofNat 32 (leNat (Memory.reads s.mem (s.frbase.toNat + 8) 4))

/-- Physical address of the ring entry of an index (R416). -/
def State.ringEntry (s : State) (i : Nat) : Nat := s.frbase.toNat + 64 + 64 * (i % 2048)

/-- Mirror a record that waits for room in the fault ring: its entry, then PUT (R372, R416). A ring at
address 0 is none (log entry 24). -/
def State.mirror (s : State) : State :=
  match s.records.find? fun r => r.ring.isNone && r.answer == 0 with
  | none => s
  | some r =>
    if s.frbase = 0 ∨ s.ringPut - s.ringGet = 2048 then s
    else
      let i := s.ringPut.toNat
      let s := s.physWrite (s.ringEntry i) (mbClean r.bytes)
      let s := { s with ringPut := s.ringPut + 1, records := s.records.map fun (x : Record) =>
        if x.num = r.num then { x with ring := some i } else x }
      s.physWrite (s.frbase.toNat + 4) (mbClean (natLe 4 s.ringPut.toNat))

/-- Unanswered records of a cluster's fault buffer. -/
def State.buffered (s : State) (cl : Nat) : Nat :=
  (s.records.filter fun r => r.cluster == cl && r.answer == 0).length

/-- The lowest place of a cluster's fault buffer that no unanswered record has (R357, R367). -/
def State.freePlace (s : State) (cl : Nat) : Nat :=
  ((List.range 256).find? fun i =>
    !s.records.any fun r => r.cluster == cl && r.answer == 0 && r.index == i).getD 256

/-- Enter a record in its cluster's fault buffer of 256, or join the unanswered record of the same slot,
code and 64 KiB unit (R367): the record's number, whether it is a new one, the state; none when the buffer is
full (DEDUCED, log entry 51). -/
def State.enterRecord (s : State) (r : Record) : Option (Nat × Bool × State) :=
  let same (x : Record) : Bool := x.unit && x.answer == 0 && x.cluster == r.cluster && x.slot == r.slot && x.code == r.code &&
    x.addr.toNat / 65536 == r.addr.toNat / 65536
  match if r.unit then s.records.find? same else none with
  | some x =>
    let y := { x with waiters := x.waiters + 1, who := x.who ++ r.who, draws := x.draws ++ r.draws }
    let s := { s with records := s.records.map fun z => if z.num = x.num then y else z }
    some (x.num, false, match y.ring with
      | some i => s.physWrite (s.ringEntry i + 14) (mbClean (natLe 1 (min 255 y.waiters)))
      | none => s)
  | none =>
    if 256 ≤ s.buffered r.cluster then none
    else
      let n := s.fresh
      let s := { s with fresh := n + 1, records := s.records ++ [{ r with num := n, index := s.freePlace r.cluster }] }
      some (n, true, s.mirror)

/-- The first active read of an error of the pool is a logic error of its core (R376, R402): LOGIC_ERROR moves
next (DEDUCED, log entry 103). -/
def State.countLogic (s : State) (r : Record) : State :=
  if r.logic then { s with agenda := .logic r.cluster r.core r.block s.rasTime :: s.agenda } else s

/-- File a record that the service answers; a new one is forwarded as a FAULT event (R367, R410)
(DESIGN CHOICE, log entry 56). -/
def State.fileRecord (s : State) (r : Record) : Option (Nat × State) :=
  match s.enterRecord r with
  | none => none
  | some (n, fresh, s) =>
    some (n, (if fresh then s.sendEvent r.slot 0x42 r.bytes (some (.fault n)) else s).countLogic r)

/-- Park lanes on a record, at a PC, with the address where a SKIP sends them. -/
def Group.parkFault (g : Group) (m : Mask) (n : Nat) (pc skip : Nat → DWord) : Group :=
  g.modLanes m fun l x => { x with st := .parked (.fault n), pc := pc l, skipTo := skip l }

/-! ### Target checks -/

/-- The slot of a code line that an address lies in. -/
def lineSlot (a : Nat) : Nat := a % 128 / 4

/-- The next slot that fetch reaches: line headers are passed over (R116). -/
def nextSlot (a : DWord) : DWord :=
  let b := a + 4
  if b.toNat % 128 = 0 then b + 8 else b

/-- A line header's mark of a slot (R117): start marks from bit 0, target marks from bit 30. -/
def lineMark (h : Nat) (base slot : Nat) : Bool := h.testBit (base + slot - 2)

/-- A line kind that may be executed (R118). -/
def lineRuns (h : Nat) : Bool := h / 2 ^ 60 == 1 || h / 2 ^ 60 == 2

/-- Bytes of the running image's PAYLOAD, which the service's code is read from where slot 0's tables map
nothing: its first byte lies at `Config.payloadAt` (R420) (DESIGN CHOICE, log entry 123). -/
def State.payload (s : State) (slot a n : Nat) : Option (List Byte) :=
  let at_ := (BitVec.ofNat 64 a - Config.payloadAt).toNat
  match s.running with
  | some f => if slot = 0 ∧ at_ + n ≤ f.length then some (Memory.reads s.flash (f.offset + 128 + at_) n) else none
  | none => none

/-- Bytes of code. -/
def State.codeBytes (s : State) (w : Who) (a n : Nat) : Acc (List Byte) :=
  match s.loadBytes w a n .fetch with
  | .error (.notmapped, lv) => match s.payload w.slot a n with
    | some b => .ok b
    | none => .error (.notmapped, lv)
  | r => r

/-- One word of code. -/
def State.codeWord (s : State) (w : Who) (a : DWord) : Acc Word :=
  match s.codeBytes w a.toNat 4 with
  | .ok b => .ok (BitVec.ofNat 32 (leNat b))
  | .error e => .error e

/-- A line's header. -/
def State.lineHeader (s : State) (w : Who) (a : DWord) : Acc Nat :=
  match s.codeBytes w (a.toNat / 128 * 128) 8 with
  | .ok b => .ok (leNat b)
  | .error e => .error e

/-- A word is a clause header (R121). -/
def isHeader (w : Word) : Bool := w.toNat / 2 ^ 27 == 0x1E

/-- The landing pad a clause begins with. -/
def State.landing (s : State) (w : Who) (a : DWord) (h : Word) : Acc (Option (Fin 4)) :=
  let first := nextSlot a
  let first := if h.getLsbD 21 then nextSlot first else first
  match s.codeWord w first with
  | .error e => .error e
  | .ok x => .ok (match decode x.toNat 0 0 with | .ok (.lpad k) => some k | _ => none)

/-- Check a target of control (R148, R149, R175): what fails first, none when nothing does. `pad` is the
landing pad an indirect transfer needs. -/
def State.badTarget (s : State) (w : Who) (a : DWord) (pad : Option (Fin 4)) : Option (Code × Nat) :=
  if !canonical a || decide (a.toNat % 4 ≠ 0) || decide (lineSlot a.toNat < 2) then some (.badtarget, 0)
  else
    match s.lineHeader w a with
    | .error e => some e
    | .ok h =>
      if !lineRuns h then some (.linekind, 0)
      else
        match s.codeWord w a with
        | .error e => some e
        | .ok x =>
          if !isHeader x || !lineMark h 0 (lineSlot a.toNat) || !lineMark h 30 (lineSlot a.toNat) then
            some (.badtarget, 0)
          else match pad with
            | none => none
            | some k =>
              match s.landing w a x with
              | .error e => some e
              | .ok p => if p = some k then none else some (.landkind, 0)

/-! ### Handlers -/

/-- HTAB's entry for a code (R370) (DEDUCED, log entry 57). -/
def State.handlerOf (s : State) (g : Group) (c : Code) : DWord :=
  let b := (s.ctxOf g).ccb
  if c.num < 0x30 ∧ b.hmask.getLsbD c.num ∧ !g.handler ∧ !b.sys then
    BitVec.ofNat 64 ((s.quietNat { s.who g with replay := none } (b.htab.toNat + 8 * c.num) 8).getD 0)
  else 0

/-- The lowest free record slot of a context's handler table (R371). -/
def Ctx.freeHslot (c : Ctx) : Option Nat := (List.range 1024).find? fun i => !c.hslots.contains i

/-- Lanes enter the handler with a free record slot: the record, SVCARG, handler state, the address,
which is checked as kind handler; a failure goes to the service, and none is answered while the fault buffer
has no room for it (R371) (DEDUCED, log entry 57). -/
def State.enterHandler (s : State) (u : Nat) (k : Nat) (r : Record) (m : Mask) (resume : Nat → DWord) :
    Option State :=
  match s.group? u with
  | none => some s
  | some g =>
    let c := s.ctxOf g
    let w := { s.who g with replay := none }
    let at_ := s.handlerOf g r.code
    let s := (s.quietStore w (c.ccb.htab.toNat + 512 + 64 * k) r.bytes).getD s
    let s := s.modCtx c.slot fun c => { c with hslots := insertNat k c.hslots }
    let enter (g : Group) : Group := { g with svcarg := BitVec.ofNat 32 k, handler := true, hslot := some k }.modLanes m
      fun l x => { x with st := .runnable, pc := at_, resume := resume l }
    let s := s.modGroup u enter
    match s.badTarget w at_ (some 3) with
    | none => some s
    | some (code, lv) =>
      let r' := s.recordOf (enter g) { code := code, addr := at_.toNat, level := lv, source := 3 } m at_ at_
      match s.fileRecord r' with
      | some (n, s) => some (s.modGroup u fun g => g.parkFault m n (fun _ => at_) (fun _ => at_))
      | none => none

/-- Deliver a fault of lanes of a group (R370-R372): to the context's handler, whose ERET resumes each
lane at `pc`, or to the service, where the lanes park at `pc` and a SKIP sends them to `skip`; the record's
number when it is the service's. None when the fault buffer is full. -/
def State.deliver (s : State) (g : Group) (r : Record) (m : Mask) (pc skip : Nat → DWord) :
    Option (Option Nat × State) :=
  if s.handlerOf g r.code ≠ 0 then
    match (s.ctxOf g).freeHslot with
    | some k => (s.enterHandler g.uid k r m pc).map fun s => (none, s)
    | none =>
      let wait : HandlerWait := { record := r, group := g.uid, mask := m
                                  resume := (lanesOf m).map fun l => (l, pc l) }
      let s := { s with handlerQueue := s.handlerQueue ++ [wait] }
      some (none, s.modGroup g.uid fun g =>
        g.modLanes m fun l x => { x with st := .parked .handlerSlot, pc := pc l })
  else
    match s.fileRecord r with
    | none => none
    | some (n, s) => some (some n, s.modGroup g.uid fun g => g.parkFault m n pc skip)

/-- What lanes do when the service answers RETRY to the record that holds them (R372). -/
def State.onRetry (s : State) (n : Option Nat) (u : Nat) (m : Mask) (what : Again) : State :=
  match n with
  | none => s
  | some n => { s with lateOps := s.lateOps ++ [{ num := n, record := some n, group := u, mask := m, what := what }] }

/-- Deliver a fault of lanes of a group; none when the fault buffer is full. -/
def State.raise (s : State) (g : Group) (r : Record) (m : Mask) (pc skip : Nat → DWord) : Option State :=
  (s.deliver g r m pc skip).map (·.2)

/-- Lanes leave the clause in flight. -/
def Clause.drop (c : Clause) (m : Mask) : Clause :=
  { c with exec := c.exec &&& ~~~ m, moved := c.moved ||| m }

/-- The instruction at the head of a clause as the only one of a clause, for the lanes of a mask. -/
def Clause.only (c : Clause) (m : Mask) : Clause :=
  { c with count := c.idx + 1, path := m, exec := m, moved := 0, partialDone := 0, wait := none, again := false
           deferred := [] }

/-- The lanes of a mask execute the instruction at the head of the clause once more on a RETRY (R372). -/
def Clause.again_ (c : Clause) (g : Group) (m : Mask) : Again :=
  .instr (c.only m) ((lanesOf m).map fun l => (l, (g.lane l).t))

/-- The precise trap of an instruction in lanes of its clause (R371): its destinations there are
Undefined, the lanes resume at the next clause, and a RETRY of the service executes it again (R372) but for
TRAP; a full fault buffer holds the clause (R367). -/
def State.trapAt (s : State) (g : Group) (c : Clause) (i : Instr) (f : FaultAt) (m : Mask) : State :=
  let f := { f with source := Instr.source i }
  let s' := s.setGroup (undefWrites s g m i none)
  match s'.deliver g (s.recordOf g f m c.header c.word) m (fun _ => c.nextAt) (fun _ => c.nextAt) with
  | none => s.holdClause g.uid .faultBuffer
  | some (n, s) =>
    let s := if f.code = .user then s
      else s.onRetry n g.uid m (c.again_ g m)
    s.modGroup g.uid fun g => g.modClause fun c => c.drop m

/-- Append a per-lane fault that the clause delivers at its end (R371). -/
def Clause.defer (c : Clause) (i : Instr) (f : FaultAt) (m : Mask) (n : Nat) : Clause :=
  { c with deferred := c.deferred ++ [{ code := f.code, mask := m, addr := BitVec.ofNat 64 f.addr
                                        word := c.word, header := c.header
                                        write := f.write, atomic := f.atomic
                                        source := Instr.source i, level := f.level, num := n }] }

/-- A per-lane code: the instruction's destinations there are Undefined, the clause delivers it at its end
(R371), and a RETRY of the service makes the access again (R372). -/
def State.deferFault (s : State) (g : Group) (i : Instr) (f : FaultAt) (m : Mask) (what : Again) : State :=
  let (n, s) := s.newId
  let op : LateOp := { num := n, record := none, group := g.uid, mask := m, what := what }
  let s := { s with lateOps := s.lateOps ++ [op] }
  s.modGroup g.uid fun x => (undefWrites s x m i (g.clause.bind fun c => Instr.holds i c)).modClause fun c =>
    c.defer i f m n

/-- The precise trap of a whole instance. -/
def State.trap (s : State) (g : Group) (c : Clause) (i : Instr) (code : Code) : State :=
  s.trapAt g c i { code := code } c.exec

/-- A control-flow fault (R151, R371): the failing lanes run the clause again, the others stay at the
transfer, which executes again for them (DEDUCED, log entry 52). -/
def State.controlFault (s : State) (g : Group) (c : Clause) (code : Code) (m : Mask) (addr : Nat) :
    State :=
  let r := s.recordOf g { code := code, addr := addr } m c.header c.word
  let stays : Wait := .answers
  match s.raise g r m (fun _ => c.header) (fun _ => c.nextAt) with
  | none => s.holdClause g.uid .faultBuffer
  | some s' => s'.modGroup g.uid fun g' => g'.modClause fun c' =>
      let c' := c'.drop m
      if c'.exec = 0 then c'
      else if s.handlerOf g code ≠ 0 then { c' with again := true }
      else { c' with wait := some stays }

/-- A resolvable fault on which the instruction waits whole and executes again (R158, R170, R191,
R226) (DEDUCED, log entry 53). -/
def State.holdFault (s : State) (g : Group) (c : Clause) (f : FaultAt) (m : Mask) : State :=
  match s.fileRecord (s.recordOf g f m c.header c.word) with
  | none => s.holdClause g.uid .faultBuffer
  | some (_, s) => s.holdClause g.uid .answers

/-- The overflow table that a narrowing instruction uses: its context's as it issues, which an access made again keeps
(R354). -/
def State.ovtOf (s : State) (g : Group) : BitVec 16 := g.ovt.getD (s.ctxOf g).ccb.ovt

/-- A group with the registers that an instruction of the lanes of a mask reads, as they read now: a destination
that still waits for its flag and a temporary not yet written hold the Undefined value they read as
(R30, R112). An operation that goes on after its issue takes its operands from such a copy (R266, R373)
(DEDUCED, log entry 86). -/
def Group.latched (s : State) (g : Group) (m : Mask) (i : Instr) : Group :=
  let y := g.pend.foldl (fun y p => match p.dst with
    | .v l r => y.modLane l fun x => { x with v := tset 0 x.v r (s.undef (s.slotOf g) .vreg (vPlace l r)) }
    | .t _ _ => y
    | .s r => { y with s := tset 0 y.s r (s.undef (s.slotOf g) .sreg r) }
    | .h r => { y with h := tset 0 y.h r (s.undefHyper (s.slotOf g) .hreg r) })
    { g with pend := [], ovt := some (s.ovtOf g) }
  let temps (l : Nat) : List Nat := ((Instr.reads s g l i).flatMap fun r => match r with
    | .v r n => (List.range n).map (r + ·)
    | _ => []).filter fun r => decide (120 ≤ r)
  y.modLanes m fun l x => { x with
    t := (temps l).foldl (fun t r => (r, readV s g l r) :: t.filter fun e => e.1 ≠ r) x.t }

/-- The form of every meaning of an instruction word (R156, R158, R193, R194): it acts on the clause in
flight of the group whose turn it is; with no executing lane it does nothing; a poison mark on a register
it reads raises POISON and nothing else happens; it stops only where no clause is in flight. -/
def issue (i : Instr) (s : State) (f : Group → Clause → State) : Host.Outcome State Fault Refusal :=
  match s.issue? with
  | none => .fault .noIssue
  | some (g, c) =>
    if c.exec = 0 then .next s
    else
      let m := poisonMask s g c.exec i
      if m = 0 then .next (f g c)
      else .next (s.holdFault g c { code := .poison, source := Instr.source i, pool := true } m)

/-- A meaning that only changes the group. -/
def issueGroup (i : Instr) (s : State) (f : Group → Clause → Group) :
    Host.Outcome State Fault Refusal :=
  issue i s fun g c => s.setGroup (f g c)

/-- Per executing lane, sources read from the group as it stood (R193). -/
def eachLane (g : Group) (c : Clause) (f : Group → Nat → Group) : Group :=
  (lanesOf c.exec).foldl f g

end Sys2Proof.Machine
end

