-- ==== Sys2Proof/Machine/Lineage.lean ====
section
/-! DEFINITION. Lineage names, watch comparators, watch records and retention slots (12 R313-R322). -/

namespace Sys2Proof.Machine

/-- Word `k` of a name (R313). -/
def nameWord (n : Name) (k : Nat) : Word := BitVec.ofNat 32 (n.toNat / 2 ^ (32 * k))

/-- A name of four words, word 3 first. -/
def nameOf (w3 w2 w1 w0 : Nat) : Name :=
  BitVec.ofNat 128 (w3 % 2 ^ 32 * 2 ^ 96 + w2 % 2 ^ 32 * 2 ^ 64 + w1 % 2 ^ 32 * 2 ^ 32 + w0 % 2 ^ 32)

/-- FRAME (R313). -/
def nameFrame (n : Name) : Nat := bfield n.toNat 100 20
/-- KIND (R313). -/
def nameKind (n : Name) : Nat := bfield n.toNat 96 4
/-- DISP (R313). -/
def nameDisp (n : Name) : Nat := bfield n.toNat 72 24
/-- PXHI (R313). -/
def namePxhi (n : Name) : Nat := bfield n.toNat 64 8
/-- UNIT (R313). -/
def nameUnit (n : Name) : Nat := bfield n.toNat 32 32
/-- ITEM (R313). -/
def nameItem (n : Name) : Nat := bfield n.toNat 0 32
/-- SLOT (R313). -/
def nameSlot (n : Name) : Nat := bfield n.toNat 120 8

/-- Compose a name from its fields (R313). -/
def nameMake (slot frame kind disp pxhi unit item : Nat) : Name :=
  nameOf (slot * 2 ^ 24 + frame % 2 ^ 20 * 16 + kind) (disp % 2 ^ 24 * 256 + pxhi) unit item

/-- A name of a context's own slot: SLOT always is (R314). -/
def inSlot (slot : Nat) (n : Name) : Name :=
  nameMake slot (nameFrame n) (nameKind n) (nameDisp n) (namePxhi n) (nameUnit n) (nameItem n)

/-- The 16 bytes of a name, word 0 first. -/
def nameBytes (n : Name) : List Byte := natLe 16 n.toNat

/-- The name of a fragment (R313, R314). -/
def fragName (slot frame draw prim x y : Nat) : Name :=
  nameMake slot frame 2 draw (bfield x 12 2 * 64 + bfield y 12 2 * 16) prim
    (bfield x 0 12 * 2 ^ 20 + bfield y 0 12 * 2 ^ 8)

/-- The name of a ray made by a lane (R314). -/
def rayName (lin : Name) (linset : Word) : Name :=
  nameMake (nameSlot lin) (nameFrame lin) 3 (nameDisp lin) (namePxhi lin) (nameUnit lin)
    (nameItem lin / 256 * 256 + linset.toNat % 256)

/-- The name of a task that a lane launches with word 0 `item` (R314). -/
def taskName (lin : Name) (linset : Word) (item : Nat) : Name :=
  let k := bfield linset.toNat 8 4
  nameMake (nameSlot lin) (nameFrame lin) (if 1 ≤ k ∧ k ≤ 6 then k else 4) (nameDisp lin) 0
    (nameUnit lin) item

/-- The name of a thread of a task's grid (R314). -/
def threadName (slot frame disp bid gid lane : Nat) : Name :=
  nameMake slot frame 6 disp 0 bid (gid * 64 + lane)

/-! ### Traces (R327) -/

/-- One entry of a trace: offset, class and register, value, ordinal. -/
def traceEntry (off cls reg : Nat) (v : Word) (ord : Nat) : List Word :=
  [BitVec.ofNat 32 off, BitVec.ofNat 32 (cls + reg % 8192 * 65536), v, BitVec.ofNat 32 ord]

/-- The last entry of an instruction for a register takes another value: the one that the register is written
with in the end (R327). -/
def patchEntry (off cls reg : Nat) (v : Word) (t : List (List Word)) : List (List Word) :=
  let mine (e : List Word) : Bool := e.take 2 == (traceEntry off cls reg v 0).take 2
  match t.reverse.findIdx? mine with
  | some k => t.modify (t.length - 1 - k) fun e => e.set 2 v
  | none => t

/-- A result that comes late takes its place in the trace of the replay whose item executed the instruction at
`word` (R327). -/
def State.patchTrace (s : State) (g : Group) (word : DWord) (l cls reg : Nat) (v : Word) : State :=
  match s.replayOf g with
  | some r => if l = r.lane then s.modReplay r.num fun r =>
      { r with trace := patchEntry (word - r.kernel).toNat cls reg v r.trace } else s
  | none => s

/-! ### Comparators -/

/-- A comparator of a context. -/
def Ctx.comp (c : Ctx) (i : Nat) : Comparator := tget {} c.comps i

/-- A name matches an armed comparator by its mode (R317); the SLOT field always compares equal. -/
def Comparator.hits (k : Comparator) (n : Name) : Bool :=
  match k.mode with
  | 1 => (nameKind n == 2 || nameKind n == 3) && nameFrame n == nameFrame k.value &&
      nameItem n / 256 == nameItem k.value / 256 && namePxhi n / 16 == namePxhi k.value / 16
  | 2 =>
    let m : Name := k.mask &&& BitVec.ofNat 128 (2 ^ 120 - 1)
    n &&& m == k.value &&& m
  | _ => false

/-- The matches an item carries from its creation (R317, R318). -/
def State.matchesOf (s : State) (slot : Nat) (n : Name) (parent : List WatchHit) : List WatchHit :=
  (List.range 16).filterMap fun i =>
    let k := (s.ctx slot).comp i
    if k.mode ≠ 0 ∧ (k.hits n ∨ (k.inherit ∧ parent.contains (i, k.gen))) then some (i, k.gen)
    else none

/-! ### Records -/

/-- The fields of a watch record (R320). -/
structure WatchRec where
  lin    : Name
  stage  : Nat
  result : Nat := 0
  quadCov : Nat := 0
  quadHelp : Nat := 0
  lods   : List LodLoad := []
  depth  : Word := 0
  /-- SRC, DBEFORE and DAFTER by target of the record's comparator. -/
  src    : Nat → List Byte := fun _ => List.replicate 8 0
  before : Nat → List Byte := fun _ => List.replicate 8 0
  after  : Nat → List Byte := fun _ => List.replicate 8 0
  /-- Bytes 8 to 1,023 of the retention slot by target, when the item has one (R322). -/
  retain : Option (Nat → List Byte) := none

/-- Pack four-bit fields, the first lowest. -/
def nibbles : List Nat → Nat
  | [] => 0
  | v :: vs => v % 16 + 16 * nibbles vs

/-- The 64 bytes of a record (R320) (DEDUCED, log entry 81). -/
def WatchRec.bytes (r : WatchRec) (comp : Nat) (k : Comparator) (seq : Nat) : List Byte :=
  let n := min 8 r.lods.length
  let ls := r.lods.take 8
  nameBytes r.lin ++ natLe 1 r.stage ++ natLe 1 (r.result + 16 * comp) ++
    natLe 1 (r.quadCov + 16 * r.quadHelp) ++
    natLe 1 ((if r.stage = 1 ∨ r.stage = 2 then k.tgt else 0) + (if 8 < r.lods.length then 8 else 0) + 16 * n) ++ natLe 4 r.depth.toNat ++
    natLe 4 seq ++ natLe 4 k.gen.toNat ++ (r.src k.tgt).take 8 ++ (r.before k.tgt).take 8 ++
    (r.after k.tgt).take 8 ++ natLe 4 (nibbles (ls.map fun l => bfield l.status.toNat 4 4)) ++
    natLe 4 (nibbles (ls.map fun l => bfield l.status.toNat 0 4))

/-- Write one record to its comparator's ring, its retention slot first; any access that fails drops both
and changes nothing (R321, R322). -/
def State.ringRecord (s : State) (w : Who) (comp : Nat) (k : Comparator) (r : WatchRec) : State :=
  let ring := k.ring.toNat
  match s.quietLoad w ring 64 with
  | none => s
  | some h =>
    let put := fieldOf h 4 4
    let lost := fieldOf h 12 4
    let get := fieldOf h 16 4
    let cap := 2 ^ k.log2cap
    let full := (put + 2 ^ 32 - get) % 2 ^ 32 == cap
    let lost' := if full then min (lost + 1) (2 ^ 32 - 1) else lost
    let s1 := match r.retain with
      | none => some s
      | some f => s.quietStore w (k.retain.toNat + 1024 * (put % cap))
          (natLe 4 put ++ natLe 4 k.gen.toNat ++ f k.tgt)
    let s2 := s1.bind fun s => s.quietStore w (ring + 64 + 64 * (put % cap)) (r.bytes comp k put)
    let s3 := s2.bind fun s => s.quietStore w (ring + 4)
      (natLe 4 (put + 1) ++ natLe 4 (fieldOf h 8 4) ++ natLe 4 lost')
    s3.getD s

/-- Write an item's records: one for each match whose comparator still holds the generation and enables
the stage (R317-R319). -/
def State.watchRecord (s : State) (w : Who) (hits : List WatchHit) (r : WatchRec) : State :=
  let w := { w with replay := none }
  hits.foldl (fun s h =>
    let k := (s.ctx w.slot).comp h.1
    if k.gen = h.2 ∧ k.stages.getLsbD r.stage then s.ringRecord w h.1 k r else s) s

/-- The first 8 texture and LOD loads of an item as its retention slot holds them (R322). -/
def lodBytes (ls : List LodLoad) : List Byte :=
  ((List.range 8).map fun i => match ls[i]? with
    | some l => bytesOf [l.words.getD 0 0, l.words.getD 1 0, l.words.getD 2 0, l.status]
    | none => List.replicate 16 0).flatten

/-- A zero-filled or cut list of exactly `n` bytes. -/
def padTo (n : Nat) (b : List Byte) : List Byte := (b ++ List.replicate n 0).take n

/-- The retention slot of a thread, from byte 8 (R322). -/
def threadSlot (s : State) (g : Group) (x : Lane) : List Byte :=
  let b := s.block? g.block
  let task := ((b.bind fun b => s.grid? b.grid).map (·.bytes)).getD []
  let bid := (b.map (·.bid)).getD 0
  padTo 56 [] ++ padTo 64 task ++ natLe 4 bid ++ natLe 2 x.gid0 ++ natLe 2 x.lane0 ++ padTo 184 [] ++
    bytesOf ((List.range 96).map fun i => tget 0 g.s0 i) ++ lodBytes x.lods ++ padTo 192 []

/-- The record THREADEXIT of a lane (R319, R320) (DEDUCED, log entry 80). -/
def State.threadExit (s : State) (g : Group) (x : Lane) : State :=
  if x.watch = [] ∨ x.frag.isSome then s
  else s.watchRecord (s.who g) x.watch
    { lin := x.lin, stage := 5, lods := x.lods, retain := some fun _ => threadSlot s g x }

/-- The record RAYEND of a walk that closes, with its TRAVS status (R319, R320). -/
def State.rayEnd (s : State) (g : Group) (x : Walk) (status : Word) : State :=
  let (t, u, v, id) := x.hit.getD (0, 0, 0, 0)
  s.watchRecord (s.who g) x.watch
    { lin := x.name, stage := 4, depth := t, src := fun _ => bytesOf [id, u]
      before := fun _ => bytesOf [v, status] }

end Sys2Proof.Machine
end

