-- ==== Sys2Proof/Machine/Flags.lean ====
section
/-! DEFINITION. Flags f0-f11 and the results that wait for them (02 R28, 05 R112, 06 R123). -/

namespace Sys2Proof.Machine

/-- A long-latency operation tied to a flag of a group has not completed. -/
def State.outstanding (s : State) (u : Nat) (f : Fin 12) : Bool :=
  (s.caravans.any fun c => c.group == u && c.flag == some f) ||
  (s.engines.any fun e => e.group == u && e.flag == some f) ||
  (s.replayed.any fun r => r.group == u && r.flag == some f) ||
  (s.xalls.any fun x => x.group == u && x.flag == some f) ||
  (s.replays.any fun r => r.group == u && r.flag == some f)

/-- Something is tied to a flag: an operation, a result that waits for it, or a matrix instruction whose
tile and operands are in use until it clears (R76). -/
def State.tied (s : State) (g : Group) (f : Fin 12) : Bool :=
  s.outstanding g.uid f || (g.pend.any fun p => p.flag == f) || g.uses.any fun u => u.flag == f

/-- Write a result to its register; one whose register was written meanwhile is Undefined (R112), one for
a clause temporary is lost with its clause (R30). -/
def Group.deliver (s : State) (g : Group) (p : Pending) : Group :=
  let w (k : Spot) (a : Nat) : Word := if p.clob then s.undef (s.slotOf g) k a else p.word
  match p.dst with
  | .v l r => (g.modLane l fun x => { x with
      v := tset 0 x.v r (w .vreg (vPlace l r))
      vPoison := x.vPoison.filter fun h => h / 2 ≠ r }).clobber (.v l r)
  | .t _ _ => g
  | .s r => g.putS r (w .sreg r)
  | .h r => g.writeH r (if p.clob then s.undefHyper (s.slotOf g) .hreg r else p.hyper)

/-- Clear a flag: the results tied to it are written (R28, R112). -/
def State.settleFlag (s : State) (g : Group) (f : Fin 12) : Group :=
  let mine := g.pend.filter fun p => p.flag == f
  let g := { g with
    pend := g.pend.filter fun p => p.flag != f
    uses := g.uses.filter fun u => u.flag != f }
  (mine.foldl (fun g p => g.deliver s p) g).clearFlag f

/-- The clause in flight names the flag in a set field. -/
def Group.setting (g : Group) (f : Fin 12) : Bool :=
  match g.clause with
  | none => false
  | some c => c.setA == some f || c.setB == some f

/-- FLAG_CLEAR (R28): a set flag with no operation outstanding clears. -/
def execFlagClear (u : Nat) (f : Fin 12) (s : State) : Host.Outcome State Fault Refusal :=
  match s.group? u with
  | none => .next s
  | some g =>
    if g.flag f ∧ !s.outstanding u f ∧ !g.setting f then .next (s.setGroup (s.settleFlag g f)) else .next s

/-- Set a flag field of a clause that begins. -/
def Group.setOpt (g : Group) : Option (Fin 12) → Group
  | none => g
  | some f => g.setFlag f

/-- Every flag of a group is clear. -/
def Group.quiet (g : Group) : Bool := decide (g.flags = 0)

end Sys2Proof.Machine
end

