-- ==== Sys2Proof/Machine/Groups.lean ====
section
/-! DEFINITION. The ends of lanes, groups and blocks: exits and the quad rule (02 R18, 07 R179), retirement
(07 R180), the block barrier (09 R248), and killing a block (19 R375). -/

namespace Sys2Proof.Machine

/-! ### Exits -/

/-- Mark lanes exited: their k bits clear and their pending results are discarded (R179). -/
def Group.exit (g : Group) (m : Mask) : Group :=
  let g := g.modLanes m fun _ x => { x with st := .exited }
  { g with
    k := g.k.map fun k => k &&& ~~~ m
    pend := g.pend.filter fun p => match p.dst with
      | .v l _ | .t l _ => !mHas m l
      | _ => true }

/-- The lanes of a quad. -/
def quadMask (q : Nat) : Mask := BitVec.ofNat 64 (15 * 2 ^ (4 * q))

/-- Live helper lanes whose quad holds no live lane that is not a helper (R18). -/
def Group.orphans (g : Group) : Mask :=
  let live := g.live
  let helpers := g.helpers live
  maskOf ((lanesOf helpers).filter fun l => g.noHelpers (live &&& quadMask (l / 4)) = 0)

/-- Lanes exit: their THREADEXIT records are written, then the helpers the quad rule names exit too
(R18, R179, R319) (DEDUCED, log entry 80). -/
def State.exitLanes (s : State) (u : Nat) (m : Mask) : State :=
  match s.group? u with
  | none => s
  | some g =>
    let m := m &&& g.live
    let s := (lanesOf (g.noHelpers m)).foldl (fun s l => s.threadExit g (g.lane l)) s
    s.modGroup u fun g => (g.exit m).exit (g.exit m).orphans

/-- A lane holds a fragment that has not retired (R301, R302): it made one, and it is no helper from the
start. -/
def Lane.fragPending (x : Lane) : Bool :=
  decide (x.st = .exited) && match x.frag with
    | some f => !f.helper0
    | none => false

/-! ### Retirement -/

/-- The primitives of a finished vertex block, by number: one that names an index with no VXEMIT is
dropped (R285). -/
def Block.primList (b : Block) : List (Nat × Prim) :=
  b.prims.filterMap fun (n, is, cull) =>
    let vs := is.filterMap fun i => (b.verts.find? fun v => v.1 == i).map (·.2)
    if vs.length = 3 then some (n, { number := n, verts := vs, culled := cull }) else none

/-- Pinned lines of a cluster are released with the last grid of their kernel there (R349). -/
def State.unpin (s : State) : State :=
  let used (n : Nat) (p : Nat × Nat × DWord × Bool) : Bool :=
    s.grids.any fun g => g.slot == p.1 && g.task.kaddr == p.2.2.1 && g.homes.contains n
  { s with clusters := s.clusters.map fun (n, c) => (n, { c with pins := c.pins.filter (used n) }) }

/-- Compute grids whose every block has ended leave the machine, unless a service task's response waits for one; the
lines pinned for them are released (R349). -/
def State.retireGrids (s : State) : State :=
  { s with grids := s.grids.filter fun g => decide (g.kind ≠ BlockKind.compute) || decide (g.done < g.task.nblocks) ||
      s.tasks.any fun t => t.grid == g.uid }.unpin

/-- Grids leave the machine, whatever has become of their blocks, and the lines pinned for them with them (R349). -/
def State.loseGrids (s : State) (gone : Nat → Bool) : State :=
  { s with grids := s.grids.filter fun g => !gone g.uid }.unpin

/-- The gate of a cluster opens to a slot once none of its blocks there is being pre-empted (R388). -/
def State.openGate (s : State) (cl slot : Nat) : State :=
  if s.blocks.any fun b => b.cluster == cl && b.slot == slot && s.preempting.any fun p => p.1 == b.uid then s
  else s.modCluster cl fun c => { c with gates := c.gates.filter fun k => k ≠ slot }

/-- Remove a block that has neither a group nor a continuation: its pool units are free, its grid counts
it, and a vertex block's batch goes to the bin stage (R180, R294). -/
def State.finishBlock (s : State) (bu : Nat) : State :=
  match s.block? bu with
  | none => s
  | some b =>
    if (s.groups.any fun g => g.block == bu) || s.conts.any fun c => c.block == bu then s
    else
      let s := match b.kind with
        | .vertex d => s.modDraw d fun x => { x with
            prims := b.primList.foldl (fun (t : Table Prim) (p : Nat × Prim) =>
              t.filter (fun (e : Nat × Prim) => e.1 ≠ p.1) ++ [p]) x.prims }
        | _ => s
      let s := s.modGrid b.grid fun g => { g with done := g.done + 1 }
      { s with
        blocks := s.blocks.filter fun x => x.uid ≠ bu
        preempting := s.preempting.filter fun p => p.1 ≠ bu }.retireGrids.openGate b.cluster b.slot

/-- The number of the park on a route that a state is (R357). -/
def LaneState.routePark : LaneState → Option Nat
  | .parked (.route _ n _ _ _) | .parked (.routeSpace _ n _ _ _) => some n
  | _ => none

/-- The numbers of a group's parks on routes, those of lanes that a consumer pass has suspended among them. -/
def Group.routeParks (g : Group) : List Nat :=
  g.lanes.filterMap fun x => x.st.routePark <|> x.prodSt.routePark

/-- A group parked on a route issues nothing until the park ends (R35). -/
def Group.routed (g : Group) : Bool := g.routeParks != []

/-- Parks leave the routes they wait on. -/
def Ctx.unpark (c : Ctx) (ns : List Nat) : Ctx :=
  { c with routes := c.routes.map fun (r, x) => (r, { x with
      waitEntry := x.waitEntry.filter fun n => !ns.contains n
      waitSpace := x.waitSpace.filter fun n => !ns.contains n }) }

/-- Take a group out of the machine. -/
def State.dropGroup (s : State) (g : Group) : State :=
  let s := s.modCtx (s.slotOf g) fun c => { (c.unpark g.routeParks) with
    hslots := match g.hslot with
      | some k => c.hslots.filter fun i => i ≠ k
      | none => c.hslots }
  let s := { s with
    groups := s.groups.filter fun x => x.uid ≠ g.uid
    turn := if s.turn = some g.uid then none else s.turn
    handlerQueue := s.handlerQueue.filter fun h => h.group ≠ g.uid
    lateOps := s.lateOps.filter fun o => o.group ≠ g.uid }
  s

/-- Only helper lanes, or none, are live. -/
def Group.spent (g : Group) : Bool := decide (g.noHelpers g.live = 0)

/-- GROUP_RETIRE (R180): a group with no live lane but helpers retires once its flags are clear and its
fragments have retired; its serai and its allocation free, and it counts as arrived everywhere. -/
def execGroupRetire (u : Nat) (s : State) : Host.Outcome State Fault Refusal :=
  match s.group? u with
  | none => .next s
  | some g =>
    if g.spent ∧ g.quiet ∧ g.clause.isNone then
      let s := s.exitLanes u g.live
      match s.group? u with
      | none => .next s
      | some g =>
        if g.lanes.any Lane.fragPending then .next s
        else .next ((s.dropGroup g).finishBlock g.block)
    else .next s

/-! ### The block barrier -/

/-- A group has arrived: every live lane that is no helper waits at a BAR (R248). -/
def Group.arrived (g : Group) : Bool :=
  (lanesOf (g.noHelpers g.live)).all fun l => decide ((g.lane l).st = .bar)

/-- The barrier of a block can resolve: someone waits, every live group has arrived, and no partial
render is still to arrive (R32, R248, R297). -/
def State.barrierReady (s : State) (b : Block) : Bool :=
  let gs := s.groups.filter fun g => g.block == b.uid
  b.renders == 0 && gs.all Group.arrived &&
    ((gs.any fun g => g.lanes.any fun x => decide (x.st = .bar)) ||
      s.conts.any fun c => c.block == b.uid && c.barrier && !c.resolved)

/-- BARRIER_RESOLVE (R248): the waiting lanes go on, each at the clause after its BAR, and the
continuations of this round may spawn. -/
def execBarrierResolve (bu : Nat) (s : State) : Host.Outcome State Fault Refusal :=
  match s.block? bu with
  | none => .next s
  | some b =>
    if s.barrierReady b then
      .next { s.modBlock bu (fun x => { x with round := !x.round }) with
        groups := s.groups.map fun g =>
          if g.block = bu then { g with lanes := g.lanes.map fun x =>
            if x.st = .bar then { x with st := .runnable } else x } else g
        conts := s.conts.map fun c =>
          if c.block = bu ∧ c.barrier then { c with resolved := true } else c }
    else .next s

/-! ### Killing a block -/

/-- Everything of a block ends: outstanding work is dropped, continuations, parked dequeues and barrier
members are cancelled, registers and scratchpad are gone (R375, steps 1 to 3). -/
def State.scrapOne (s : State) (b : Block) : State :=
  let mine (u : Nat) : Bool := s.groups.any fun g => g.uid == u && g.block == b.uid
  let gs := s.groups.filter fun g => g.block == b.uid
  let s1 := { s with
    caravans := s.caravans.filter fun c => c.block ≠ b.uid
    engines := s.engines.filter fun e => !mine e.group
    replayed := s.replayed.filter fun r => !mine r.group
    xalls := s.xalls.filter fun x => !mine x.group
    conts := s.conts.filter fun c => c.block ≠ b.uid
    replays := s.replays.filter fun r => !mine r.group
    awaited := s.awaited.filter fun a => match a.2.2 with
      | (_, .svc u _) => !mine u
      | (_, .brk n) => !(s.records.any fun r => r.num == n && r.block == b.uid)
      | (_, .fault _) => true
    records := s.records.filter fun r => decide (r.code ≠ Code.brk) || decide (r.block ≠ b.uid)
    lateOps := s.lateOps.filter fun o => !mine o.group }
  let s2 := gs.foldl (fun s g => s.dropGroup g) s1
  { s2 with
    blocks := s2.blocks.filter fun x => x.uid ≠ b.uid
    preempting := s2.preempting.filter fun p => p.1 ≠ b.uid }.openGate b.cluster b.slot

/-- A block ends, and with it the replays its groups have started: their blocks, and their grids still
queued (R289, R323). -/
def State.scrap (s : State) (b : Block) : State :=
  let rs := s.replays.filter fun r => s.groups.any fun g => g.uid == r.group && g.block == b.uid
  let gone (u : Nat) : Bool := rs.any fun r => r.grid == some u
  let s := (s.blocks.filter fun x => match x.kind with
    | .replay n => rs.any fun r => r.num == n
    | _ => false).foldl State.scrapOne s
  (({ s with
    queue := s.queue.filter fun e => match e.what with
      | .grid u => !gone u
      | _ => true }.loseGrids gone).scrapOne b)

/-- How a killed block goes on (R375, R392, R403). -/
inductive Kill where
  /-- Not launched again. -/
  | final
  /-- Launched again; the kill counts toward the limit of two. -/
  | counted
  /-- Launched again; the kill does not count (a fence, a display hold). -/
  | free
  deriving DecidableEq, Repr

/-- Fragments of a block that is not launched again leave their draw (R375). -/
def State.dropFrags (s : State) (b : Block) : State :=
  match b.kind with
  | .pixel d =>
    let fs := ((((s.grid? b.grid).map (·.frags)).getD []).getD b.bid []).filterMap id
    s.modDraw d fun x => { x with pending := x.pending.filter fun p =>
      !(fs.any fun f => !f.helper0 && (f.x, f.y, f.prim.number) == p) }
  | _ => s

/-- Kill a block (R375): it may wait in its queue to be launched again with the same BID; a third counted
kill is final and is reported as BLOCKLOST with the last record (DESIGN CHOICE, log entry 95). -/
def State.kill (s : State) (bu : Nat) (how : Kill) (last : List Byte) : State :=
  match s.block? bu with
  | none => s
  | some b =>
    let s := s.scrap b
    let part := (s.cluster b.cluster).part
    let again (n : Nat) : State := { s with queue :=
      { part := part, prio := b.task.prio, slot := b.slot, what := .again b.grid b.bid n } :: s.queue }
    let lost : State := (((s.dropFrags b).modGrid b.grid fun g => { g with done := g.done + 1 }).failTask b.grid).retireGrids
    match how with
    | .free => again b.relaunches
    | .final => lost
    | .counted =>
      if b.relaunches < 2 then again (b.relaunches + 1)
      else lost.sendEvent b.slot 0x45 last none

end Sys2Proof.Machine
end

