-- ==== Sys2Proof/Machine/Paths.lean ====
section
/-! DEFINITION. The path table of an issue slot as the states of the lanes give it, and serial mode
(02 R15, R17, R19, R25, R26). -/

namespace Sys2Proof.Machine

/-- The state a path-table entry holds: runnable, waiting at a JOIN, or parked (R19). -/
def LaneState.coarse : LaneState → Nat
  | .runnable => 0
  | .join _ _ _ _ => 1
  | _ => 2

/-- The lanes of an issue slot's half of a 64-lane group; every lane otherwise. -/
def halfLanes (g : Group) (upper : Bool) : List Nat :=
  let n := g.lanes.length
  if g.width = 64 then (List.range n).filter fun l => decide (32 ≤ l) == upper else List.range n

/-- Distinct (PC, state) among the live lanes of a half; lanes inactive for a consumer pass hold no entry
(R19, R41) (DEDUCED, log entry 85). -/
def Group.entries (g : Group) (upper : Bool) : Nat :=
  (((halfLanes g upper).filter fun l => (g.lane l).live && (g.lane l).st != .passDone).map fun l =>
    ((g.lane l).pc, (g.lane l).st.coarse)).dedup.length

/-- Distinct (PC, state) among the live lanes of a group: the entries it occupies (R26) (DEDUCED, log entry 85). -/
def Group.paths (g : Group) : Nat :=
  ((g.lanes.filter fun x => x.live && x.st != .passDone).map fun x => (x.pc, x.st.coarse)).dedup.length

/-- Entries of a slot's path table that the live lanes of its groups need (R19, R25). -/
def State.slotEntries (s : State) (cl core hw : Nat) : Nat :=
  (s.groups.map fun g =>
    if s.clusterOf g ≠ cl ∨ g.core ≠ core then 0
    else if g.hwslot = hw then g.entries false
    else if g.width = 64 ∧ g.hwslot + 1 = hw then g.entries true
    else 0).sum

/-- A group lies in a slot. -/
def Group.inSlot (g : Group) (hw : Nat) : Bool :=
  g.hwslot == hw || (g.width == 64 && g.hwslot + 1 == hw)

/-- At a clause boundary the slots of a group enter serial mode when they need a ninth entry, and leave
it when 8 entries or fewer do (R25) (DEDUCED, log entry 45). -/
def State.settlePaths (s : State) (u : Nat) : State :=
  match s.group? u with
  | none => s
  | some g =>
    let cl := s.clusterOf g
    let n := max (s.slotEntries cl g.core g.hwslot)
      (if g.width = 64 then s.slotEntries cl g.core (g.hwslot + 1) else 0)
    { s with groups := s.groups.map fun x =>
        if s.clusterOf x = cl ∧ x.core = g.core ∧
            (x.inSlot g.hwslot ∨ (g.width = 64 ∧ x.inSlot (g.hwslot + 1))) then
          { x with serial := decide (8 < n) } else x }

/-- The state of the generator in GMODE (R26). -/
def Group.gmode (g : Group) : Nat :=
  match g.gen with
  | none => 0
  | some x => match x.mode with | .producer => 1 | .consumer => 2

/-- Every producer lane of the open generator has executed GDONE (R26). -/
def Group.allDone (g : Group) : Bool :=
  g.gen.isSome && (lanesOf g.live).all fun l => (g.lane l).gdone

/-- Two groups lie in one slot (R15). -/
def State.mates (s : State) (g x : Group) : Bool :=
  s.clusterOf x == s.clusterOf g && x.core == g.core && x.inSlot g.hwslot

/-- Another group lies in the slot of a group (R15). -/
def State.shared (s : State) (g : Group) : Bool := s.groups.any fun x => x.uid != g.uid && s.mates g x

/-- The turn of a slot passes to a lane of a group (R25). -/
def State.takeTurn (s : State) (g : Group) (l : Nat) : State :=
  { s with groups := s.groups.map fun x =>
      if x.uid = g.uid then { x with serialLane := some l }
      else if s.mates g x then { x with serialLane := none } else x }

/-- GSTATUS (R26) (DEDUCED, log entry 85). -/
def State.gstatus (s : State) (g : Group) : Word :=
  let b (x : Bool) : Nat := if x then 1 else 0
  let paths := if g.serial then 0 else min 8 g.paths
  BitVec.ofNat 32 (b g.serial + 4 * b g.restored + 8 * b g.replay +
    16 * b (decide (g.helpers g.live ≠ 0)) + 32 * b (s.shared g) + 64 * b (decide (g.width = 64)) + 128 * b g.allDone +
    256 * g.gmode + 1024 * (g.role % 4) + 4096 * paths)

/-- The runnable lanes of a group at a PC: its issue set, one lane in serial mode (R17, R25). -/
def Group.issueSet (g : Group) (l : Nat) : Mask :=
  if g.serial then maskOne l
  else g.maskWhere fun x => decide (x.st = .runnable) && x.pc == (g.lane l).pc

end Sys2Proof.Machine
end

