-- ==== Sys2Proof/Machine/Launch.lean ====
section
/-! DEFINITION. Task records, grids and what a block needs of a core (02 R31-R37, 03 R51-R53, 07 R187,
12 R314-R319, 18 R348, 20 R381). -/

namespace Sys2Proof.Machine

/-- The bytes of one role of ROLES: group count and budget (R33, R348). -/
def roleOf (n : Nat) : Nat × Nat := (bfield n 0 10, 8 * (bfield n 10 6 + 1))

/-- The fields of a task record (R348). -/
def parseTask (b : List Byte) : TaskRec :=
  let pool := fieldOf b 26 4
  { kaddr := BitVec.ofNat 64 (fieldOf b 0 8)
    partword := BitVec.ofNat 32 (fieldOf b 8 4)
    nblocks := fieldOf b 12 4
    threads := fieldOf b 16 2
    width := 8 * 2 ^ bfield (fieldOf b 18 1) 0 2
    prio := bfield (fieldOf b 19 1) 0 3
    persist := (fieldOf b 19 1).testBit 3
    roles := [roleOf (fieldOf b 20 2), roleOf (fieldOf b 22 2), roleOf (fieldOf b 24 2)]
    vregs := 8 * (bfield pool 0 6 + 1)
    sregs := 128 * (bfield pool 6 3 + 1)
    hcount := bfield pool 9 5
    ccount := bfield pool 14 3
    zcount := bfield pool 17 5
    ept := fieldOf b 32 4
    ipeak := fieldOf b 36 2
    parent := BitVec.ofNat 128 (fieldOf b 40 16)
    arg := BitVec.ofNat 64 (fieldOf b 56 8) }

/-- Groups of a block. -/
def TaskRec.groups (t : TaskRec) : Nat := ceilDiv t.threads t.width

/-- Threads of a group of a block (R14). -/
def TaskRec.threadsOf (t : TaskRec) (gid : Nat) : Nat := min t.width (t.threads - gid * t.width)

/-- Role and vector-register budget of a group: copy groups first, then matrix, then epilogue; the rest
have role 0 and the declared allocation (R33). -/
def TaskRec.roleOf (t : TaskRec) (gid : Nat) : Nat × Nat :=
  let (n1, b1) := t.roles.getD 0 (0, 8)
  let (n2, b2) := t.roles.getD 1 (0, 8)
  let (n3, b3) := t.roles.getD 2 (0, 8)
  if gid < n1 then (1, b1) else if gid < n1 + n2 then (2, b2)
  else if gid < n1 + n2 + n3 then (3, b3) else (0, t.vregs)

/-- Groups that stand on each core when a block spans `n` cores: contiguous runs (R31). -/
def TaskRec.perCore (t : TaskRec) (n : Nat) : Nat := ceilDiv t.groups n

/-- Issue slots that groups of a width take, in quarters of a slot (R15). -/
def slotQuarters (width : Nat) : Nat := width / 8

/-- Bytes of a group's vector registers. -/
def TaskRec.vecBytes (t : TaskRec) (gid : Nat) : Nat := t.threadsOf gid * (t.roleOf gid).2 * 4

/-- PARTWORD covers what the groups placed on one core need (R52). -/
def TaskRec.covers (t : TaskRec) (gids : List Nat) : Bool :=
  let n := gids.length
  let unit := 32768
  decide (n * t.zcount ≤ 2 * partField t.partword 18) &&
  decide (n * (t.hcount * 1024 + t.ccount * 8192) ≤ unit * partField t.partword 12) &&
  decide (n * 4096 ≤ unit * partField t.partword 6) &&
  decide ((gids.map t.vecBytes).sum ≤ unit * partField t.partword 0)

/-- Pool units of a block on the first core it occupies; its other cores hold `extra` fewer. -/
def TaskRec.units (t : TaskRec) : Nat :=
  partField t.partword 24 + partField t.partword 18 + partField t.partword 12 +
    partField t.partword 6 + partField t.partword 0 + t.extra

/-- The groups that stand on the `i`-th of `n` cores. -/
def TaskRec.gidsOn (t : TaskRec) (n i : Nat) : List Nat :=
  (List.range t.groups).filter fun gid => gid / t.perCore n = i

/-- A block can stand on `n` empty cores (R31, R52). -/
def TaskRec.holds (t : TaskRec) (n : Nat) : Bool :=
  t.partword != 0 && decide (t.units ≤ 64) && decide (t.threads ≤ 2304 * n) &&
  decide (t.perCore n * slotQuarters t.width ≤ 72 * 4) &&
  (List.range n).all fun i => t.covers (t.gidsOn n i)

/-- The core counts on which a block can stand, fewest first. -/
def TaskRec.spans (t : TaskRec) : List Nat := [1, 2, 3, 4].filter fun n => t.holds n

/-- A record's fields with the width in force: the kernel's `.width` when it has one (R14). -/
def taskOf (slot : Nat) (b : List Byte) : TaskRec :=
  let t := parseTask b
  match Config.kernelWidth slot t.kaddr with
  | some w => { t with width := 8 * 2 ^ w.val }
  | none => t

/-- Why the task scheduler refuses a record (R187, R348), as the REFUSED event codes it (R411). -/
def taskRefusal (ceil : Nat) (b : List Byte) (t : TaskRec) : Option Nat :=
  let pool := fieldOf b 26 4
  if fieldOf b 30 2 ≠ 0 ∨ fieldOf b 38 2 ≠ 0 ∨ fieldOf b 18 1 / 4 ≠ 0 ∨ fieldOf b 19 1 / 16 ≠ 0 ∨
      pool / 2 ^ 22 ≠ 0 ∨ t.partword.toNat / 2 ^ 30 ≠ 0 ∨ t.nblocks = 0 ∨ t.threads = 0 ∨
      4096 < t.threads ∨ 16 < t.hcount ∨ 4 < t.ccount ∨ 16 < t.zcount then some 1
  else if ceil < t.prio then some 2
  else if t.groups < (t.roles.map (·.1)).sum then some 3
  else if t.spans = [] then some 4
  else none

/-- The partition whose queues hold a slot's blocks: the service's own are placed on the Waystation's cores, which
stand as cluster 8 and its partition (R6, R343) (DESIGN CHOICE, log entry 123). -/
def State.partFor (s : State) (slot : Nat) : Nat := if slot = 0 then 8 else (s.ctx slot).ccb.part

/-- A grid joins the tail of its queue (R381). -/
def State.addGrid (s : State) (g : Grid) : State :=
  let e : QEntry := { part := s.partFor g.slot, prio := g.task.prio, slot := g.slot
                      what := .grid g.uid }
  { s with grids := s.grids ++ [g], queue := s.queue ++ [e] }

/-- A grid of a task record, not yet queued. -/
def mkGrid (uid slot : Nat) (bytes : List Byte) (t : TaskRec) (kind : BlockKind) (name : Name)
    (hits : List WatchHit) : Grid :=
  { uid := uid, slot := slot, task := t, bytes := bytes, kind := kind, name := name, watch := hits
    dispatch := none, placed := 0, done := 0
    scalars := tset 0 (tset 0 [] 0 (lo32 t.arg)) 1 (hi32 t.arg)
    only := none, frags := [] }

/-- The task scheduler receives a record: it makes the TASK record, and queues the grid or reports the
refusal (R187, R317, R319, R381). The new grid's number, when it was taken. -/
def State.takeTask (s : State) (w : Who) (bytes : List Byte) (name : Name) (parent : List WatchHit) :
    Option Nat × State :=
  let hits := s.matchesOf w.slot name parent
  let s := s.watchRecord w hits { lin := name, stage := 6 }
  let t := taskOf w.slot bytes
  match taskRefusal (s.ctx w.slot).ccb.prioCeil bytes t with
  | some r => (none, s.sendEvent w.slot 0x44 (nameBytes name ++ natLe 4 r) none)
  | none =>
    let (u, s) := s.newId
    (some u, s.addGrid (mkGrid u w.slot bytes t .compute name hits))

end Sys2Proof.Machine
end

