-- ==== Sys2Proof/Machine/LaneMem.lean ====
section
/-! DEFINITION. How a memory instance performs lane by lane: the checks of an address (09 R224), per-lane
faults, their records and replays (03 R78, 09 R225, 19 R371, R373), group-level accesses (09 R226), the
helper-lane exceptions (02 R18), waits on empty lines (03 R61). -/

namespace Sys2Proof.Machine

/-- What one lane's access does: the state after it, the words of its destination, the stores it makes. -/
structure LaneOut where
  state : State
  words : List Word := []
  puts  : List Put := []

/-- The helper-lane rule an instruction falls under (R18). -/
inductive LaneKind where
  /-- A load of `n` words: a failing translation or permission check gives 0. -/
  | load (n : Nat)
  /-- A store: nothing. -/
  | store
  /-- An atomic of `n` result words: no write, the result Undefined. -/
  | rmw (n : Nat)
  | other
  deriving DecidableEq, Repr

/-- The bytes a lane's access touches; `spad` names the block when they are scratchpad. -/
structure Span where
  addr : Nat
  n    : Nat
  spad : Option Nat
  deriving DecidableEq, Repr

/-- The lane-wise part of a vector memory instruction. -/
structure LaneOp where
  kind : LaneKind
  run  : State → Group → Nat → Except FaultAt LaneOut
  span : State → Group → Nat → List Span
  /-- It reads scratchpad lines, which must be full (R61). -/
  waits : Bool := false

/-! ### Checks of one address (R224) -/

/-- Steps 2 and 3 for a global address. -/
def checkForm (a : DWord) (n : Nat) (write : Bool) : Except FaultAt Unit :=
  if !canonical a then .error { code := .addrform, addr := a.toNat, write := write }
  else if a.toNat % n ≠ 0 then .error { code := .align, addr := a.toNat, write := write }
  else .ok ()

/-- A load of `n` bytes of global memory, with their marks not yet raised. -/
def State.loadMarked (s : State) (w : Who) (a : DWord) (n : Nat) (need : Need) : Except FaultAt MBytes :=
  match checkForm a n need.writes with
  | .error f => .error f
  | .ok _ =>
    match s.fetchBytes w a.toNat n need with
    | .error (c, lv) => .error { code := c, addr := a.toNat, level := lv, write := need.writes
                                 atomic := decide (need = .atomic) }
    | .ok m => .ok m

/-- A load of `n` bytes of global memory (R224, R225). -/
def State.loadGlobal (s : State) (w : Who) (a : DWord) (n : Nat) (need : Need) :
    Except FaultAt (List Byte) :=
  match s.loadMarked w a n need with
  | .error f => .error f
  | .ok m =>
    if mbBad m then .error { code := .poison, addr := a.toNat, level := s.leafLevel w a.toNat } else .ok (mbPlain m)

/-- A store to global memory: what to put where. -/
def State.storeGlobal (s : State) (w : Who) (a : DWord) (data : List Byte) (need : Need) :
    Except FaultAt (List Put) :=
  match checkForm a data.length true with
  | .error f => .error f
  | .ok _ =>
    match s.checkStore w a.toNat (mbClean data) need with
    | .error (c, lv) => .error { code := c, addr := a.toNat, level := lv, write := true }
    | .ok o => .ok o.toList

/-- The block of a group. -/
def State.blockOf (s : State) (g : Group) : Option Block := s.block? g.block

/-- Where a scratchpad or cluster access lies: the block and the offset (R54, R55). -/
def State.locate (s : State) (g : Group) (cluster : Bool) (a n : Nat) : Except FaultAt (Nat × Nat) :=
  if cluster then
    match s.poolAddr (s.slotOf g) (s.clusterOf g) a n with
    | .ok x => .ok x
    | .error c => .error { code := c, addr := a }
  else
    match s.blockOf g with
    | none => .error { code := .spadrange, addr := a }
    | some b => if b.spadBad a n then .error { code := .spadrange, addr := a } else .ok (b.uid, a)

/-- Scratchpad bytes of a block; a poisoned byte raises POISON. -/
def State.loadSpad (s : State) (bu off n : Nat) : Except FaultAt (List Byte) :=
  match s.block? bu with
  | none => .error { code := .spadperm, addr := off }
  | some b =>
    let m := s.spadBytes b off n
    if mbBad m then .error { code := .poison, addr := off, pool := true, carried := b.carriedOnly off n } else .ok (mbPlain m)

/-! ### Lanes -/

/-- A translation or permission fault (R18, R325). -/
def Code.translation : Code → Bool
  | .notmapped | .writeprot | .execprot | .ptformat => true
  | _ => false

/-- A helper lane of a replay that stands for a member that was a fragment (R325). -/
def Group.serviced (g : Group) (l : Nat) : Bool :=
  g.replay && match (g.lane l).frag with
    | some f => f.quadCov.testBit (f.x % 2 + 2 * (f.y % 2))
    | none => false

/-- One lane's access under the helper-lane rules (R18); an atomic checks its address first (R239), and a helper
lane's store neither checks its address nor files a fault (DESIGN CHOICE, log entry 137). -/
def LaneOp.at (o : LaneOp) (s : State) (g : Group) (l : Nat) : Except FaultAt LaneOut :=
  if (g.lane l).helper then
    match o.kind with
    | .store => .ok { state := s }
    | .rmw n =>
      match o.run s g l with
      | .error f => .error f
      | .ok _ => .ok { state := s, words := (List.range n).map fun k => s.undef (s.slotOf g) .result (8 * l + k) }
    | .load n =>
      match o.run s g l with
      | .error f =>
        if f.code.translation && !g.serviced l then .ok { state := s, words := List.replicate n 0 }
        else .error f
      | x => x
    | .other => o.run s g l
  else o.run s g l

/-- The destination field of a vector memory instruction. -/
def Instr.vdest (g : Group) (i : Instr) : Option (Nat × Nat) :=
  (Instr.writes g i).findSome? fun w => match w with | .v r n => some (r, n) | _ => none

/-- Queue one lane's result for its flag (R112). -/
def Group.result (g : Group) (i : Instr) (f : Option (Fin 12)) (l : Nat) (ws : List Word) : Group :=
  match Instr.vdest g i with
  | some (r, _) => g.queueV f l r ws
  | none => g

/-- Hold the place of a result that a faulted lane has yet to produce: it reads Undefined (R78, R112). -/
def Group.owe (s : State) (g : Group) (i : Instr) (f : Option (Fin 12)) (l : Nat) : Group :=
  match Instr.vdest g i with
  | some (r, n) => g.queueV f l r ((List.range n).map fun k => s.undef (s.slotOf g) .result (1024 + 8 * l + k))
  | none => g

/-- A replayed lane's result takes its place among the pending results; `src` is the group as it issued. -/
def Group.pay (g src : Group) (i : Instr) (f : Option (Fin 12)) (l : Nat) (ws : List Word) : Group :=
  match Instr.vdest src i, f with
  | some (r, _), some f =>
    ws.zipIdx.foldl (fun g e => { g with pend := g.pend.map fun p =>
      if p.flag = f ∧ p.dst = (src.lane l).dst l (r + e.2) then { p with word := e.1 } else p }) g
  | some (r, _), none => g.writeVs l r ws
  | none, _ => g

/-- An acquire access (R68, R73); REPLAY's reads of the ring are device-scope acquires (R335). -/
def Instr.acquires : Instr → Bool
  | .ldX _ q _ _ | .ldsX _ q _ _ | .ldcX _ q _ _ | .sldX _ q _ _ => q.isSome
  | .atom _ _ q _ _ _ _ | .atoms _ _ q _ _ _ _ | .atomx _ _ q _ _ _ _ => decide (q = .acq ∨ q = .ar)
  | .red _ _ q _ _ _ => decide (q = .acq ∨ q = .ar)
  | .replay _ _ => true
  | _ => false

/-- A release access (R68, R73); the service's operations release what came before them (R73, R355). -/
def Instr.releases : Instr → Bool
  | .stX _ _ q _ _ | .stsX _ _ q _ _ | .stcX _ _ q _ _ | .sstX _ _ q _ _ => q.isSome
  | .atom _ _ q _ _ _ _ | .atoms _ _ q _ _ _ _ | .atomx _ _ q _ _ _ _ => decide (q = .rel ∨ q = .ar)
  | .red _ _ q _ _ _ => decide (q = .rel ∨ q = .ar)
  | .launch _ | .launchOrd _ | .draw _ _ _ | .mbara _ | .tlbinv _ _ | .resfence _ _ | .pgattr _ _ => true
  | _ => false

/-- A write, for the order of one group's writes (R80, N1; R227). -/
def Instr.stores : Instr → Bool
  | .st _ _ _ _ | .stX _ _ _ _ _ | .sts _ _ _ _ | .stsX _ _ _ _ _ | .stc _ _ _ _ | .stcX _ _ _ _ _
  | .sst _ _ _ _ | .sstX _ _ _ _ _ | .stbrk _ _ _ | .atom _ _ _ _ _ _ _ | .atoms _ _ _ _ _ _ _
  | .red _ _ _ _ _ _ | .atomx _ _ _ _ _ _ _ | .cflush _ _ | .hst _ _ _ => true
  | _ => false

/-- The same for an instruction of a group: a CPB writes global memory with DIR 1, and a load of a texture writes the
context's feedback ring where it has one (R227). -/
def State.writesMem (s : State) (g : Group) (i : Instr) : Bool :=
  match i with
  | .cpb _ _ n => (readS s g n.val).getLsbD 31
  | .ldlod _ _ _ _ | .ldlodX _ _ _ _ | .tex _ _ _ _ _ | .texg _ _ _ _ => decide ((s.ctxOf g).ccb.fring ≠ 0)
  | _ => Instr.stores i

/-- A write to scratchpad by a lane (R75). -/
def Instr.fillsSpad : Instr → Bool
  | .sts _ _ _ _ | .stsX _ _ _ _ _ | .stc _ _ _ _ | .stcX _ _ _ _ _ | .atoms _ _ _ _ _ _ _ => true
  | _ => false

/-- A faulted access that R80 orders before a later one of a lane with these spans (R373): an acquire holds
back the whole group (R78), the others their own lanes. -/
def Replayed.before (r : Replayed) (s : State) (g : Group) (i : Instr) (l : Nat) (xs : List Span) : Bool :=
  Instr.acquires r.instr ||
  (mHas r.mask l && ((Instr.releases r.instr && Instr.acquires i) ||
    (s.writesMem r.src r.instr && s.writesMem g i) ||
    xs.any fun x => r.spans.any fun (k, a, n, sp) => k == l && sp == x.spad.isSome && overlaps a n x.addr x.n))

/-- A lane's access must wait for a faulted one. -/
def State.blocked (s : State) (g : Group) (i : Instr) (l : Nat) (xs : List Span) : Bool :=
  s.replayed.any fun r => r.group == g.uid && r.before s g i l xs

/-- An access of every executing lane must wait for a faulted one. -/
def State.blockedAll (s : State) (g : Group) (c : Clause) (i : Instr) (xs : List Span) : Bool :=
  (lanesOf c.exec).any fun l => s.blocked g i l xs

/-- The scratchpad lines of lanes' accesses that are not full (R61). -/
def State.emptyLines (s : State) (xs : List Span) : List (Nat × Nat) :=
  xs.flatMap fun x => match x.spad with
    | none => []
    | some bu => match s.block? bu with
      | none => []
      | some b => ((linesMet x.addr x.n).filter fun i => !(b.line i).full).map fun i => (bu, i)

/-- The state of an instance as its lanes perform: the state, the stores to make together, the results,
the faults. -/
structure Run where
  state  : State
  puts   : List Put := []
  words  : List (Nat × List Word) := []
  faults : List (Nat × FaultAt) := []

/-- What a LOD instance has read of residency and translations (R341). -/
def State.putSeen (s : State) (u : Nat) (x : LodSeen) : State := s.modGroup u fun g => { g with seen := x }

/-- One lane performs; what it has read of residency holds for the later ones though it faults (R341). -/
def Run.lane (o : LaneOp) (g : Group) (r : Run) (l : Nat) : Run :=
  match o.at r.state g l with
  | .ok x => { r with state := x.state, puts := r.puts ++ x.puts, words := r.words ++ [(l, x.words)] }
  | .error f => { r with state := f.seen.elim r.state (r.state.putSeen g.uid), faults := r.faults ++ [(l, f)] }

/-- The codes of a list of faults, ascending. -/
def faultCodes (fs : List (Nat × FaultAt)) : List Nat :=
  fs.foldl (fun ks f => insertNat f.2.code.num ks) []

/-- The faults of one code. -/
def ofCode (fs : List (Nat × FaultAt)) (k : Nat) : List (Nat × FaultAt) := fs.filter fun f => f.2.code.num = k

/-- The service resolves it (R368). -/
def Code.resolvable (c : Code) : Bool := decide (0x30 ≤ c.num) && decide (c.num < 0x40)

/-- File the record of a resolvable fault of some lanes, with what replays them (R78, R373). -/
def State.park (s : State) (g src : Group) (i : Instr) (flag : Option (Fin 12)) (f : FaultAt) (m : Mask)
    (header word : DWord) (spans : List (Nat × Nat × Nat × Bool)) : Option State :=
  let f := { f with source := if f.source = 0 then Instr.source i else f.source }
  match s.fileRecord (s.recordOf g f m header word) with
  | none => none
  | some (n, s) => some { s with replayed := s.replayed ++ [
      { record := some n, group := g.uid, flag := flag, instr := i, src := src, mask := m, word := word
        header := header, spans := spans }] }

/-- A span as a replay keeps it. -/
def Span.kept (l : Nat) (x : Span) : Nat × Nat × Nat × Bool := (l, x.addr, x.n, x.spad.isSome)

/-- The spans of faulted lanes as a replay keeps them. -/
def LaneOp.spansOf (o : LaneOp) (s : State) (g : Group) (ls : List Nat) : List (Nat × Nat × Nat × Bool) :=
  ls.flatMap fun l => (o.span s g l).map (Span.kept l)

/-- A faulted access as it is kept to be made again. -/
def replayOf_ (g src : Group) (i : Instr) (flag : Option (Fin 12)) (record : Option Nat) (m : Mask) (header word : DWord)
    (spans : List (Nat × Nat × Nat × Bool)) : Replayed :=
  { record := record, group := g.uid, flag := flag, instr := i, src := src, mask := m, word := word
    header := header, spans := spans }

/-- Settle the faults of one code: a record and a replay, or the clause's end (R371, R373). With `wait`
another code of the instance is delivered at the clause's end, and the record of this higher one goes
out after it: until then the lanes' accesses are held without a record (DEDUCED, log entry 50). -/
def State.settleFault (s : State) (o : LaneOp) (g : Group) (c : Clause) (i : Instr) (wait : Bool)
    (fs : List (Nat × FaultAt)) : Option State :=
  match fs with
  | [] => some s
  | (_, f) :: _ =>
    let ls := fs.map (·.1)
    let m := maskOf ls
    let src := { g.latched s m i with seen := ((s.group? g.uid).map (·.seen)).getD {} }
    if f.code.resolvable then
      let s := s.modGroup g.uid fun x => ls.foldl (fun x l => x.owe s i c.tied l) x
      if wait then some { s with replayed := s.replayed ++ [
        replayOf_ g src i (Instr.holds i c) none m c.header c.word (o.spansOf s g ls)] }
      else s.park g src i (Instr.holds i c) f m c.header c.word (o.spansOf s g ls)
    else some (s.deferFault g i f m (.access (replayOf_ g src i none none m c.header c.word (o.spansOf s g ls))))

/-- An access of one of some lanes must wait for a faulted one (R78, R80, R373). -/
def State.heldBack (s : State) (g : Group) (i : Instr) (o : LaneOp) (ls : List Nat) : Bool :=
  decide (s.replayed ≠ []) && ls.any fun l => s.blocked g i l (o.span s g l)

/-- A vector memory instance performs: first the waits of R373 and R61 for every lane, then each lane in
ascending order (R77), then the stores together, then the faults in ascending code order. -/
def runLanes (s : State) (g : Group) (c : Clause) (i : Instr) (o : LaneOp) : State :=
  let lanes := lanesOf c.exec
  let acts := lanes.filter fun l => !(g.lane l).helper || decide (o.kind ≠ .store)
  if s.heldBack g i o acts then s.holdClause g.uid .answers
  else
    let need := if o.waits then s.emptyLines (acts.flatMap fun l => o.span s g l) else []
    if need ≠ [] then s.holdClause g.uid (.line need)
    else
      let r := lanes.foldl (Run.lane o g) { state := s }
      let s1 := r.state.perform (s.who g) r.puts
      let s2 := s1.modGroup g.uid fun x =>
        r.words.foldl (fun x e => x.result i c.tied e.1 e.2) x
      let wait := r.faults.any fun f => !f.2.code.resolvable
      let done := (faultCodes r.faults).foldl
        (fun (t : Option State) k => t.bind fun s => s.settleFault o g c i wait (ofCode r.faults k)) (some s2)
      done.getD (s.holdClause g.uid .faultBuffer)

/-- The meaning of a vector memory instruction. -/
def issueLanes (i : Instr) (s : State) (o : LaneOp) : Host.Outcome State Fault Refusal :=
  issue i s fun g c => runLanes s g c i o

/-! ### Group-level accesses (R226) -/

/-- A group-level access: performed once for the executing lanes of a mask. -/
structure GroupOp where
  /-- The words go to consecutive scalar registers from `dst`. -/
  dst : Option Nat
  run : State → Group → Mask → Except FaultAt LaneOut
  span : State → Group → List Span

/-- Queue scalar results for their flag (R112). -/
def Group.resultS (g : Group) (dst : Option Nat) (f : Option (Fin 12)) (ws : List Word) : Group :=
  match dst with
  | some r => g.queueS f r ws
  | none => g

/-- A replayed group-level result takes its place. -/
def Group.payS (g src : Group) (dst : Option Nat) (f : Option (Fin 12)) (ws : List Word) : Group :=
  match dst, f with
  | some r, some f =>
    ws.zipIdx.foldl (fun g e =>
      let d : Dst := .s (src.sbase + r + e.2)
      { g with pend := g.pend.map fun p =>
          if p.flag = f ∧ p.dst = d then { p with word := e.1 } else p }) g
  | some r, none => ws.zipIdx.foldl (fun g e => g.putS (src.sbase + r + e.2) e.1) g
  | none, _ => g

/-- Undefined words for the scalar destinations of an instruction. -/
def owedS (s : State) (g : Group) (i : Instr) : List Word :=
  ((Instr.writes g i).findSome? fun w => match w with | .s _ n => some n | _ => none).elim []
    fun n => (List.range n).map fun k => s.undef (s.slotOf g) .result (2048 + k)

/-- A group-level access performs, its fault held for the whole instance (R226). -/
def runGroupOp (s : State) (g : Group) (c : Clause) (i : Instr) (o : GroupOp) : State :=
  if s.blockedAll g c i (o.span s g) then s.holdClause g.uid .answers
  else
    match o.run s g c.exec with
    | .ok x =>
      let s := x.state.perform (s.who g) x.puts
      s.modGroup g.uid fun y => y.resultS o.dst c.tied x.words
    | .error f =>
      let src := g.latched s c.exec i
      let spans := (lanesOf c.exec).flatMap fun l => (o.span s g).map (Span.kept l)
      if f.code.resolvable then
        let s1 := s.modGroup g.uid fun y => y.resultS o.dst c.tied (owedS s g i)
        (s1.park g src i (Instr.holds i c) f c.exec c.header c.word spans).getD (s.holdClause g.uid .faultBuffer)
      else s.deferFault g i f c.exec (.access (replayOf_ g src i none none c.exec c.header c.word spans))

/-- The meaning of a group-level memory instruction. -/
def issueGroupOp (i : Instr) (s : State) (o : GroupOp) : Host.Outcome State Fault Refusal :=
  issue i s fun g c => runGroupOp s g c i o

end Sys2Proof.Machine
end

