-- ==== Sys2Proof/Machine/Loads.lean ====
section
/-! DEFINITION. Meanings of the plain loads and of LDBRK (09 R228, R229, R232). -/

namespace Sys2Proof

/-- The destination words of loaded bytes: zero- or sign-extended when narrow (R229). -/
def LdSize.extend (z : LdSize) (bs : List Byte) : List Word :=
  match z with
  | .s8 => [(BitVec.ofNat 8 (Machine.leNat bs)).signExtend 32]
  | .s16 => [(BitVec.ofNat 16 (Machine.leNat bs)).signExtend 32]
  | _ => Machine.wordsOf z.words bs

end Sys2Proof

namespace Sys2Proof.Machine

/-- The span of a global access. -/
def globalSpan (n : Nat) (m : MemX) (s : State) (g : Group) (l : Nat) : List Span :=
  [{ addr := (globalAddr s g l n m).toNat, n := n, spad := none }]

/-- The span of a scratchpad or cluster access that reaches a block. -/
def localSpan (cluster : Bool) (n : Nat) (m : MemX) (s : State) (g : Group) (l : Nat) : List Span :=
  match s.locate g cluster (localAddr s g l n m).toNat n with
  | .ok (bu, off) => [{ addr := off, n := n, spad := some bu }]
  | .error _ => []

/-- A global load of one lane (R228, R229). -/
def loadOp (z : LdSize) (m : MemX) : LaneOp :=
  { kind := .load z.words
    run := fun s g l =>
      let a := globalAddr s g l z.bytes m
      match s.loadGlobal (s.who g) a z.bytes .read with
      | .ok bs => .ok { state := s.touch (s.who g) a.toNat false, words := z.extend bs }
      | .error f => .error f
    span := globalSpan z.bytes m }

/-- A scratchpad or cluster-pool load of one lane (R228, R229). -/
def localLoadOp (cluster : Bool) (z : LdSize) (m : MemX) : LaneOp :=
  { kind := .load z.words
    run := fun s g l =>
      match s.locate g cluster (localAddr s g l z.bytes m).toNat z.bytes with
      | .error f => .error f
      | .ok (bu, off) =>
        match s.loadSpad bu off z.bytes with
        | .error f => .error { f with addr := (localAddr s g l z.bytes m).toNat }
        | .ok bs => .ok { state := s, words := z.extend bs }
    span := localSpan cluster z.bytes m
    waits := true }

/-- The address of a group-level access. -/
def scalarAddr (s : State) (g : Group) (n : Nat) (m : MemX) : DWord := globalAddr s g 0 n m

/-- A scalar load (R228): once for the group; all helper lanes make it a helper's load (R18). -/
def scalarLoadOp (z : LdSize) (d : SReg) (m : MemX) : GroupOp :=
  { dst := some d.val
    run := fun s g e =>
      let a := scalarAddr s g z.bytes m
      match s.loadGlobal (s.who g) a z.bytes .read with
      | .ok bs => .ok { state := s.touch (s.who g) a.toNat false, words := z.extend bs }
      | .error f =>
        if g.allHelpers e && f.code.translation && !(lanesOf e).any g.serviced then
          .ok { state := s, words := List.replicate z.words 0 }
        else .error f
    span := fun s g => [{ addr := (scalarAddr s g z.bytes m).toNat, n := z.bytes, spad := none }] }

/-- LD, short form (R228). -/
def execLd (z : LdSize) (d : VReg) (b : SReg) (o : BitVec 7) (s : State) :
    Host.Outcome State Fault Refusal :=
  issueLanes (.ld z d b o) s (loadOp z (.base b o))

/-- LD with XM (R228); an acquire holds back what follows it (R373). -/
def execLdX (z : LdSize) (q : Option Scope) (d : VReg) (m : MemX) (s : State) :
    Host.Outcome State Fault Refusal :=
  issueLanes (.ldX z q d m) s (loadOp z m)

/-- LDS, short form (R228). -/
def execLds (z : LdSize) (d : VReg) (b : SReg) (o : BitVec 7) (s : State) :
    Host.Outcome State Fault Refusal :=
  issueLanes (.lds z d b o) s (localLoadOp false z (.base b o))

/-- LDS with XM (R228). -/
def execLdsX (z : LdSize) (q : Option Scope) (d : VReg) (m : MemX) (s : State) :
    Host.Outcome State Fault Refusal :=
  issueLanes (.ldsX z q d m) s (localLoadOp false z m)

/-- LDC, short form (R228). -/
def execLdc (z : LdSize) (d : VReg) (b : SReg) (o : BitVec 7) (s : State) :
    Host.Outcome State Fault Refusal :=
  issueLanes (.ldc z d b o) s (localLoadOp true z (.base b o))

/-- LDC with XM (R228). -/
def execLdcX (z : LdSize) (q : Option Scope) (d : VReg) (m : MemX) (s : State) :
    Host.Outcome State Fault Refusal :=
  issueLanes (.ldcX z q d m) s (localLoadOp true z m)

/-- SLD, short form (R228). -/
def execSld (z : LdSize) (d b : SReg) (o : BitVec 7) (s : State) : Host.Outcome State Fault Refusal :=
  issueGroupOp (.sld z d b o) s (scalarLoadOp z d (.base b o))

/-- SLD with XM (R228). -/
def execSldX (z : LdSize) (q : Option Scope) (d : SReg) (m : MemX) (s : State) :
    Host.Outcome State Fault Refusal :=
  issueGroupOp (.sldX z q d m) s (scalarLoadOp z d m)

/-- One lane of LDBRK (R232): an element of the brick its address names. -/
def brickOp (m : MemX) (c : VReg) : LaneOp :=
  { kind := .load 1
    run := fun s g l =>
      let a := globalAddr s g l 64 m
      match s.loadGlobal (s.who g) a 64 .brickRead with
      | .error f => .error f
      | .ok b =>
        if brickPoison b then .error { code := .brickpoison, addr := a.toNat, level := s.leafLevel (s.who g) a.toNat }
        else
          let i := (readV s g l c.val).toNat
          .ok { state := s.touch (s.who g) a.toNat false
                words := [if i < brickCount b then brickWord b i else 0] }
    span := globalSpan 64 m }

/-- LDBRK (R232). -/
def execLdbrk (d : VReg) (m : MemX) (c : VReg) (s : State) : Host.Outcome State Fault Refusal :=
  issueLanes (.ldbrk d m c) s (brickOp m c)

end Sys2Proof.Machine
end

