-- ==== Sys2Proof/Machine/Stores.lean ====
section
/-! DEFINITION. Meanings of the stores, STBRK and the atomics (09 R235-R240; replays 12 R325). -/

namespace Sys2Proof.Machine

/-- The bytes a store writes: the low bytes of its source, or a float narrowed by CVTN's rules (R236). -/
def storeBytes (ovt : BitVec 16) (z : LdSize) (w : StNarrow) (ws : List Word) : List Byte :=
  match w with
  | .none => (bytesOf ws).take z.bytes
  | .f16 => natLe 2 (narrowBits ovt .f32 .f16 .rn (ws.headD 0).toNat)
  | .bf16 => natLe 2 (narrowBits ovt .f32 .bf16 .rn (ws.headD 0).toNat)

/-- Consecutive vector registers of a lane. -/
def readVs (s : State) (g : Group) (l r n : Nat) : List Word := (List.range n).map fun k => readV s g l (r + k)

/-- Consecutive scalar registers. -/
def readSs (s : State) (g : Group) (r n : Nat) : List Word := (List.range n).map fun k => readS s g (r + k)

/-- A global store of one lane (R236). -/
def storeOp (z : LdSize) (w : StNarrow) (d : VReg) (m : MemX) : LaneOp :=
  { kind := .store
    run := fun s g l =>
      let bs := storeBytes (s.ovtOf g) z w (readVs s g l d.val z.words)
      match s.storeGlobal (s.who g) (globalAddr s g l z.bytes m) bs .write with
      | .ok ps => .ok { state := s, puts := ps }
      | .error f => .error f
    span := globalSpan z.bytes m }

/-- Set a condition of the replay a group runs in (R323, R325). -/
def State.condition (s : State) (g : Group) (n : Nat) : State :=
  match s.replayOf g with
  | none => s
  | some r => s.modReplay r.num fun r => { r with cond := r.cond ||| BitVec.ofNat 8 (2 ^ n) }

/-- A scratchpad or cluster-pool store of one lane (R236); in a replay one to another block's scratchpad is
discarded (R325). -/
def localStoreOp (cluster : Bool) (z : LdSize) (w : StNarrow) (d : VReg) (m : MemX) : LaneOp :=
  { kind := .store
    run := fun s g l =>
      let bs := storeBytes (s.ovtOf g) z w (readVs s g l d.val z.words)
      match s.locate g cluster (localAddr s g l z.bytes m).toNat z.bytes with
      | .error f => .error { f with write := true }
      | .ok (bu, off) =>
        if g.replay ∧ bu ≠ g.block then .ok { state := s.condition g 6 }
        else .ok { state := s.spadStore bu off (mbClean bs) }
    span := localSpan cluster z.bytes m }

/-- A scalar store (R235): nothing when every executing lane is a helper (R226). -/
def scalarStoreOp (z : LdSize) (w : StNarrow) (d : SReg) (m : MemX) : GroupOp :=
  { dst := none
    run := fun s g e =>
      if g.allHelpers e then .ok { state := s }
      else
        let bs := storeBytes (s.ovtOf g) z w (readSs s g d.val z.words)
        match s.storeGlobal (s.who g) (scalarAddr s g z.bytes m) bs .write with
        | .ok ps => .ok { state := s, puts := ps }
        | .error f => .error f
    span := fun s g => [{ addr := (scalarAddr s g z.bytes m).toNat, n := z.bytes, spad := none }] }

/-- ST, short form (R235, R236). -/
def execSt (z : LdSize) (d : VReg) (b : SReg) (o : BitVec 7) (s : State) :
    Host.Outcome State Fault Refusal :=
  issueLanes (.st z d b o) s (storeOp z .none d (.base b o))

/-- ST with XM (R235, R236). -/
def execStX (z : LdSize) (w : StNarrow) (q : Option Scope) (d : VReg) (m : MemX) (s : State) :
    Host.Outcome State Fault Refusal :=
  issueLanes (.stX z w q d m) s (storeOp z w d m)

/-- STS, short form (R235, R236). -/
def execSts (z : LdSize) (d : VReg) (b : SReg) (o : BitVec 7) (s : State) :
    Host.Outcome State Fault Refusal :=
  issueLanes (.sts z d b o) s (localStoreOp false z .none d (.base b o))

/-- STS with XM (R235, R236). -/
def execStsX (z : LdSize) (w : StNarrow) (q : Option Scope) (d : VReg) (m : MemX) (s : State) :
    Host.Outcome State Fault Refusal :=
  issueLanes (.stsX z w q d m) s (localStoreOp false z w d m)

/-- STC, short form (R235, R236). -/
def execStc (z : LdSize) (d : VReg) (b : SReg) (o : BitVec 7) (s : State) :
    Host.Outcome State Fault Refusal :=
  issueLanes (.stc z d b o) s (localStoreOp true z .none d (.base b o))

/-- STC with XM (R235, R236). -/
def execStcX (z : LdSize) (w : StNarrow) (q : Option Scope) (d : VReg) (m : MemX) (s : State) :
    Host.Outcome State Fault Refusal :=
  issueLanes (.stcX z w q d m) s (localStoreOp true z w d m)

/-- SST, short form (R235). -/
def execSst (z : LdSize) (d b : SReg) (o : BitVec 7) (s : State) : Host.Outcome State Fault Refusal :=
  issueGroupOp (.sst z d b o) s (scalarStoreOp z .none d (.base b o))

/-- SST with XM (R235). -/
def execSstX (z : LdSize) (w : StNarrow) (q : Option Scope) (d : SReg) (m : MemX) (s : State) :
    Host.Outcome State Fault Refusal :=
  issueGroupOp (.sstX z w q d m) s (scalarStoreOp z w d m)

/-! ### STBRK -/

/-- The inputs of a brick: element e from lane e mod WIDTH of register va + e div WIDTH (R237). -/
def brickInputs (s : State) (g : Group) (e : Mask) (n a : Nat) : List Word :=
  (List.range n).map fun k =>
    let l := k % g.width
    if mHas e l && !(g.lane l).helper then readV s g l (a + k / g.width) else 0

/-- The store of STBRK (R237). -/
def brickStoreOp (k : BrickTy) (a : VReg) (m : MemX) : GroupOp :=
  { dst := none
    run := fun s g e =>
      if g.allHelpers e then .ok { state := s }
      else
        let b := brickOf (s.ovtOf g) k (brickInputs s g e k.count a.val)
        match s.storeGlobal (s.who g) (scalarAddr s g 64 m) b .brickWrite with
        | .ok ps => .ok { state := s, puts := ps }
        | .error f => .error f
    span := fun s g => [{ addr := (scalarAddr s g 64 m).toNat, n := 64, spad := none }] }

/-- STBRK (R237): MEMARG when its registers pass v119. -/
def execStbrk (k : BrickTy) (a : VReg) (m : MemX) (s : State) : Host.Outcome State Fault Refusal :=
  issue (.stbrk k a m) s fun g c =>
    if 120 < a.val + ceilDiv k.count g.width then s.trap g c (.stbrk k a m) .memarg
    else runGroupOp s g c (.stbrk k a m) (brickStoreOp k a m)

/-! ### Atomics -/

/-- The new value of an atomic on values of `8 n` bits (R239). -/
def atomNew (o : AtomOp) (t : AtomTy) (old x new : Nat) : Nat :=
  let bits := 32 * t.regs
  let sgn (v : Nat) : Int := (BitVec.ofNat bits v).toInt
  match o, t with
  | .add, .f32 => Fmt.f32.add .rn old x
  | .add, _ => (old + x) % 2 ^ bits
  | .min, .f32 => Fmt.f32.minMax false old x
  | .max, .f32 => Fmt.f32.minMax true old x
  | .min, .s32 | .min, .s64 => if sgn old ≤ sgn x then old else x
  | .max, .s32 | .max, .s64 => if sgn old ≤ sgn x then x else old
  | .min, _ => min old x
  | .max, _ => max old x
  | .and, _ => old &&& x
  | .or, _ => old ||| x
  | .xor, _ => old ^^^ x
  | .exch, _ => x
  | .cas, _ => if old = x then new else old

/-- The operands of an atomic: the value, and for .cas the new value after it (R238). -/
def atomArgs (s : State) (g : Group) (l : Nat) (t : AtomTy) (c : VReg) : Nat × Nat :=
  let n := t.regs
  (leNat (bytesOf (readVs s g l c.val n)), leNat (bytesOf (readVs s g l (c.val + n) n)))

/-- Set the write and atomic flags of a fault. -/
def FaultAt.rmw (f : FaultAt) : FaultAt := { f with write := true, atomic := true }

/-- A global atomic of one lane: the old value, and the new one stored at once (R77, R239). -/
def atomOp (o : AtomOp) (t : AtomTy) (m : MemX) (c : VReg) (result : Bool) : LaneOp :=
  { kind := .rmw (if result then t.regs else 0)
    run := fun s g l =>
      let n := 4 * t.regs
      let a := globalAddr s g l n m
      match s.loadGlobal (s.who g) a n .atomic with
      | .error f => .error f.rmw
      | .ok bs =>
        let (x, y) := atomArgs s g l t c
        match s.storeGlobal (s.who g) a (natLe n (atomNew o t (leNat bs) x y)) .atomic with
        | .error f => .error f.rmw
        | .ok ps => .ok { state := s.perform (s.who g) ps
                          words := if result then wordsOf t.regs bs else [] }
    span := globalSpan (4 * t.regs) m }

/-- A scratchpad atomic of one lane. -/
def atomSpadOp (o : AtomOp) (t : AtomTy) (m : MemX) (c : VReg) : LaneOp :=
  { kind := .rmw t.regs
    run := fun s g l =>
      let n := 4 * t.regs
      match s.locate g false (localAddr s g l n m).toNat n with
      | .error f => .error f.rmw
      | .ok (bu, off) =>
        match s.loadSpad bu off n with
        | .error f => .error f.rmw
        | .ok bs =>
          let (x, y) := atomArgs s g l t c
          .ok { state := s.spadStore bu off (mbClean (natLe n (atomNew o t (leNat bs) x y)))
                words := wordsOf t.regs bs }
    span := localSpan false (4 * t.regs) m
    waits := true }

/-- ATOM (R239). -/
def execAtom (o : AtomOp) (t : AtomTy) (q : Sem) (w : Scope) (d : VReg) (m : MemX) (c : VReg)
    (s : State) : Host.Outcome State Fault Refusal :=
  issueLanes (.atom o t q w d m c) s (atomOp o t m c true)

/-- ATOMS (R239, R240). -/
def execAtoms (o : AtomOp) (t : AtomTy) (q : Sem) (w : Scope) (d : VReg) (m : MemX) (c : VReg)
    (s : State) : Host.Outcome State Fault Refusal :=
  issueLanes (.atoms o t q w d m c) s (atomSpadOp o t m c)

/-- RED (R239). -/
def execRed (o : AtomOp) (t : AtomTy) (q : Sem) (w : Scope) (m : MemX) (c : VReg) (s : State) :
    Host.Outcome State Fault Refusal :=
  issueLanes (.red o t q w m c) s (atomOp o t m c false)

/-- ATOMX (R239, R240). -/
def execAtomx (o : AtomOp) (t : AtomTy) (q : Sem) (w : Scope) (d : VReg) (m : MemX) (c : VReg)
    (s : State) : Host.Outcome State Fault Refusal :=
  issueLanes (.atomx o t q w d m c) s (atomOp o t m c true)

end Sys2Proof.Machine
end

