-- ==== Sys2Proof/Machine/Scalar.lean ====
section
/-! DEFINITION. Meanings of classes 0x0 and 0x1: scalar arithmetic, immediates, special registers and
the windows (07 R156-R169). -/

namespace Sys2Proof.Machine

/-- A scalar operation on two sources: performed once, by any executing lane (R156). -/
def scalarOp (i : Instr) (d a b : SReg) (f : Word → Word → Word) (s : State) :
    Host.Outcome State Fault Refusal :=
  issueGroup i s fun g _ => g.writeS d.val (f (readS s g a.val) (readS s g b.val))

/-- A scalar operation on one source. -/
def scalarOp1 (i : Instr) (d a : SReg) (f : Word → Word) (s : State) :
    Host.Outcome State Fault Refusal :=
  issueGroup i s fun g _ => g.writeS d.val (f (readS s g a.val))

/-- 1 for true, 0 for false (R160). -/
def boolWord (b : Bool) : Word := if b then 1 else 0

/-- Bits [63:32] of a product of signed values (R159, R196). -/
def mulhS (a b : Word) : Word := BitVec.ofInt 32 (a.toInt * b.toInt / 2 ^ 32)
/-- Bits [63:32] of a product of unsigned values (R159, R196). -/
def mulhU (a b : Word) : Word := BitVec.ofNat 32 (a.toNat * b.toNat / 2 ^ 32)
/-- Shift left; 0 for amounts of 32 or more (R159). -/
def shlW (a b : Word) : Word := if 32 ≤ b.toNat then 0 else a <<< b.toNat
/-- Logical shift right. -/
def shrW (a b : Word) : Word := if 32 ≤ b.toNat then 0 else a >>> b.toNat
/-- Arithmetic shift right; the sign fills amounts of 32 or more. -/
def sarW (a b : Word) : Word := a.sshiftRight (min b.toNat 31)
/-- The lesser of signed values. -/
def minS (a b : Word) : Word := if a.toInt ≤ b.toInt then a else b
/-- The greater of signed values. -/
def maxS (a b : Word) : Word := if a.toInt ≤ b.toInt then b else a
/-- The lesser of unsigned values. -/
def minU (a b : Word) : Word := if a.toNat ≤ b.toNat then a else b
/-- The greater of unsigned values. -/
def maxU (a b : Word) : Word := if a.toNat ≤ b.toNat then b else a
/-- The number of 1 bits of a word. -/
def popW (a : Word) : Word := BitVec.ofNat 32 (popNat 32 a.toNat)
/-- The number of leading 0 bits of a word. -/
def clzW (a : Word) : Word := BitVec.ofNat 32 (clz32 a)

/-- SADD (R159). -/
def execSadd (d a b : SReg) (s : State) : Host.Outcome State Fault Refusal :=
  scalarOp (.sadd d a b) d a b (fun x y => x + y) s

/-- SSUB (R159). -/
def execSsub (d a b : SReg) (s : State) : Host.Outcome State Fault Refusal :=
  scalarOp (.ssub d a b) d a b (fun x y => x - y) s

/-- SMUL (R159). -/
def execSmul (d a b : SReg) (s : State) : Host.Outcome State Fault Refusal :=
  scalarOp (.smul d a b) d a b (fun x y => x * y) s

/-- SMULH (R159). -/
def execSmulh (d a b : SReg) (s : State) : Host.Outcome State Fault Refusal :=
  scalarOp (.smulh d a b) d a b (mulhS) s

/-- SMULHU (R159). -/
def execSmulhU (d a b : SReg) (s : State) : Host.Outcome State Fault Refusal :=
  scalarOp (.smulhU d a b) d a b (mulhU) s

/-- SAND (R159). -/
def execSand (d a b : SReg) (s : State) : Host.Outcome State Fault Refusal :=
  scalarOp (.sand d a b) d a b (fun x y => x &&& y) s

/-- SOR (R159). -/
def execSor (d a b : SReg) (s : State) : Host.Outcome State Fault Refusal :=
  scalarOp (.sor d a b) d a b (fun x y => x ||| y) s

/-- SXOR (R159). -/
def execSxor (d a b : SReg) (s : State) : Host.Outcome State Fault Refusal :=
  scalarOp (.sxor d a b) d a b (fun x y => x ^^^ y) s

/-- SSHL (R159). -/
def execSshl (d a b : SReg) (s : State) : Host.Outcome State Fault Refusal :=
  scalarOp (.sshl d a b) d a b (shlW) s

/-- SSHR (R159). -/
def execSshr (d a b : SReg) (s : State) : Host.Outcome State Fault Refusal :=
  scalarOp (.sshr d a b) d a b (shrW) s

/-- SSAR (R159). -/
def execSsar (d a b : SReg) (s : State) : Host.Outcome State Fault Refusal :=
  scalarOp (.ssar d a b) d a b (sarW) s

/-- SMIN (R159). -/
def execSmin (d a b : SReg) (s : State) : Host.Outcome State Fault Refusal :=
  scalarOp (.smin d a b) d a b (minS) s

/-- SMAX (R159). -/
def execSmax (d a b : SReg) (s : State) : Host.Outcome State Fault Refusal :=
  scalarOp (.smax d a b) d a b (maxS) s

/-- SMINU (R159). -/
def execSminu (d a b : SReg) (s : State) : Host.Outcome State Fault Refusal :=
  scalarOp (.sminu d a b) d a b (minU) s

/-- SMAXU (R159). -/
def execSmaxu (d a b : SReg) (s : State) : Host.Outcome State Fault Refusal :=
  scalarOp (.smaxu d a b) d a b (maxU) s

/-- SCLZ (R159). -/
def execSclz (d a : SReg) (s : State) : Host.Outcome State Fault Refusal :=
  scalarOp1 (.sclz d a) d a (clzW) s

/-- SPOP (R159). -/
def execSpop (d a : SReg) (s : State) : Host.Outcome State Fault Refusal :=
  scalarOp1 (.spop d a) d a (popW) s

/-- SMOV (R159). -/
def execSmov (d a : SReg) (s : State) : Host.Outcome State Fault Refusal :=
  scalarOp1 (.smov d a) d a (fun x => x) s

/-- SCMP.eq (R160). -/
def execScmpEq (d a b : SReg) (s : State) : Host.Outcome State Fault Refusal :=
  scalarOp (.scmpEq d a b) d a b (fun x y => boolWord (x == y)) s

/-- SCMP.ne (R160). -/
def execScmpNe (d a b : SReg) (s : State) : Host.Outcome State Fault Refusal :=
  scalarOp (.scmpNe d a b) d a b (fun x y => boolWord (x != y)) s

/-- SCMP.lt (R160). -/
def execScmpLt (d a b : SReg) (s : State) : Host.Outcome State Fault Refusal :=
  scalarOp (.scmpLt d a b) d a b (fun x y => boolWord (decide (x.toInt < y.toInt))) s

/-- SCMP.le (R160). -/
def execScmpLe (d a b : SReg) (s : State) : Host.Outcome State Fault Refusal :=
  scalarOp (.scmpLe d a b) d a b (fun x y => boolWord (decide (x.toInt ≤ y.toInt))) s

/-- SCMP.gt (R160). -/
def execScmpGt (d a b : SReg) (s : State) : Host.Outcome State Fault Refusal :=
  scalarOp (.scmpGt d a b) d a b (fun x y => boolWord (decide (y.toInt < x.toInt))) s

/-- SCMP.ge (R160). -/
def execScmpGe (d a b : SReg) (s : State) : Host.Outcome State Fault Refusal :=
  scalarOp (.scmpGe d a b) d a b (fun x y => boolWord (decide (y.toInt ≤ x.toInt))) s

/-- SCMP.ltu (R160). -/
def execScmpLtu (d a b : SReg) (s : State) : Host.Outcome State Fault Refusal :=
  scalarOp (.scmpLtu d a b) d a b (fun x y => boolWord (decide (x.toNat < y.toNat))) s

/-- SCMP.leu (R160). -/
def execScmpLeu (d a b : SReg) (s : State) : Host.Outcome State Fault Refusal :=
  scalarOp (.scmpLeu d a b) d a b (fun x y => boolWord (decide (x.toNat ≤ y.toNat))) s

/-- SCMP.gtu (R160). -/
def execScmpGtu (d a b : SReg) (s : State) : Host.Outcome State Fault Refusal :=
  scalarOp (.scmpGtu d a b) d a b (fun x y => boolWord (decide (y.toNat < x.toNat))) s

/-- SCMP.geu (R160). -/
def execScmpGeu (d a b : SReg) (s : State) : Host.Outcome State Fault Refusal :=
  scalarOp (.scmpGeu d a b) d a b (fun x y => boolWord (decide (y.toNat ≤ x.toNat))) s

/-- SSEL (R161): only the selected source is read. -/
def execSsel (d a b c : SReg) (s : State) : Host.Outcome State Fault Refusal :=
  issueGroup (.ssel d a b c) s fun g _ =>
    g.writeS d.val (if readS s g c.val ≠ 0 then readS s g a.val else readS s g b.val)

/-- SMOVI (R162). -/
def execSmovi (d : SReg) (i : BitVec 14) (s : State) : Host.Outcome State Fault Refusal :=
  issueGroup (.smovi d i) s fun g _ => g.writeS d.val (i.signExtend 32)

/-- SADDI with a 7-bit immediate (R162). -/
def execSaddiShort (d a : SReg) (i : BitVec 7) (s : State) : Host.Outcome State Fault Refusal :=
  scalarOp1 (.saddiShort d a i) d a (fun x => x + i.signExtend 32) s

/-- SADDI with an XI word (R162). -/
def execSaddiXi (d a : SReg) (i : Word) (s : State) : Host.Outcome State Fault Refusal :=
  scalarOp1 (.saddiXi d a i) d a (fun x => x + i) s

/-- SLIT (R162). -/
def execSlit (d : SReg) (i : Word) (s : State) : Host.Outcome State Fault Refusal :=
  issueGroup (.slit d i) s fun g _ => g.writeS d.val i

/-! ### Special registers -/

/-- The serai's fill (R166). -/
def Group.seraiReg (g : Group) : Word :=
  match g.gen with
  | none => 0
  | some x => BitVec.ofNat 32 ((x.words - 1) * 2 ^ 14 + x.entries.length)

/-- CYCLE at a read (R49): the clock has run on by a free number of cycles since it was last read
(DESIGN CHOICE, log entry 12). -/
def State.cycleNow (s : State) (cl : Nat) : DWord :=
  (s.cluster cl).cycle + BitVec.ofNat 64 (s.free 2).toNat

/-- The words of a special register as a lane sees it (R163-R167), lowest first. -/
def State.special (s : State) (g : Group) (l : Nat) (n : SpecReg) : List Word :=
  let x := g.lane l
  let c := s.ctxOf g
  let cl := s.clusterOf g
  let b := s.block? g.block
  match n with
  | .lin => [nameWord x.lin 0, nameWord x.lin 1, nameWord x.lin 2, nameWord x.lin 3]
  | .lane => [BitVec.ofNat 32 l]
  | .gid => [BitVec.ofNat 32 g.gid]
  | .bid => [BitVec.ofNat 32 ((b.map (·.bid)).getD 0)]
  | .core => [BitVec.ofNat 32 g.core]
  | .cluster => [if cl < 8 then BitVec.ofNat 32 cl else Config.wayCluster]
  | .width => [BitVec.ofNat 32 g.width]
  | .partword => [(b.map (·.task.partword)).getD 0]
  | .gstatus => [s.gstatus g]
  | .cycle => [lo32 (s.cycleNow cl), hi32 (s.cycleNow cl)]
  | .energy => [lo32 c.ccb.energy, hi32 c.ccb.energy]
  | .serai => [g.seraiReg]
  | .routebase => [lo32 c.ccb.routeBase, hi32 c.ccb.routeBase]
  | .spbase => [BitVec.ofNat 32 ((b.map (·.spBase g.core)).getD 0)]
  | .vbase => [BitVec.ofNat 32 x.vbase]
  | .sbase => [BitVec.ofNat 32 g.sbase]
  | .svcarg => [g.svcarg]
  | .perf => [BitVec.ofNat 32 (c.ccb.perfReq + 8 * (s.cluster cl).level)]

/-- A read of CYCLE leaves the counter at the value read. -/
def State.afterSpecial (s : State) (g : Group) (n : SpecReg) : State :=
  if n = .cycle then
    s.modCluster (s.clusterOf g) fun c => { c with cycle := s.cycleNow (s.clusterOf g) }
  else s

/-- SRD into scalar registers: the value of the lowest executing lane (R164) (DESIGN CHOICE, log entry 12). -/
def execSrdS (d : SReg) (n : SpecReg) (s : State) : Host.Outcome State Fault Refusal :=
  issue (.srdS d n) s fun g c =>
    let ws := s.special g (maskLowest c.exec) n
    (s.afterSpecial g n).setGroup
      ((ws.mapIdx fun i w => (i, w)).foldl (fun g e => g.writeS (d.val + e.1) e.2) g)

/-- SRD into vector registers, per lane (R164). -/
def execSrdV (d : VReg) (n : SpecReg) (s : State) : Host.Outcome State Fault Refusal :=
  issue (.srdV d n) s fun g c =>
    (s.afterSpecial g n).setGroup
      (eachLane g c fun g' l => g'.writeVs l d.val (s.special g l n))

/-- Scalars a group may reach. -/
def State.scalarCount (s : State) (g : Group) : Nat := ((s.block? g.block).map (·.task.sregs)).getD 0

/-- SWR (R165, R169). -/
def execSwr (a : SReg) (n : SpecReg) (s : State) : Host.Outcome State Fault Refusal :=
  issue (.swr a n) s fun g c =>
    let v := (readS s g a.val).toNat
    match n with
    | .vbase =>
      if v % 8 ≠ 0 ∨ g.budget < v + 128 then s.trap g c (.swr a n) .window
      else s.setGroup (g.modLanes c.exec fun _ x => { x with vbase := v })
    | .sbase =>
      if v % 32 ≠ 0 ∨ s.scalarCount g < v + 128 then s.trap g c (.swr a n) .window
      else s.setGroup { g with sbase := v }
    | .svcarg => s.setGroup { g with svcarg := readS s g a.val }
    | _ => s

/-- SWIN (R168). -/
def execSwin (i : BitVec 14) (s : State) : Host.Outcome State Fault Refusal :=
  issue (.swin i) s fun g c =>
    let nb : Int := g.sbase + sext i
    if nb < 0 ∨ s.scalarCount g < nb + 128 then s.trap g c (.swin i) .window
    else s.setGroup { g with sbase := nb.toNat }

/-- VWIN (R168): no lane's window moves when one lane's would leave its budget. -/
def execVwin (i : BitVec 14) (s : State) : Host.Outcome State Fault Refusal :=
  issue (.vwin i) s fun g c =>
    let nb (l : Nat) : Int := (g.lane l).vbase + sext i
    if (lanesOf c.exec).any fun l => decide (nb l < 0 ∨ g.budget < nb l + 128) then
      s.trap g c (.vwin i) .window
    else s.setGroup (g.modLanes c.exec fun l x => { x with vbase := (nb l).toNat })

end Sys2Proof.Machine
end

