-- ==== Sys2Proof/Machine/Vector.lean ====
section
/-! DEFINITION. Meanings of class 0x3: vector integer arithmetic (08 R193-R199). -/

namespace Sys2Proof.Machine

/-- A vector operation on two sources, per executing lane; every lane reads before any writes (R193). -/
def vecOp (i : Instr) (d a b : VReg) (f : Word → Word → Word) (s : State) :
    Host.Outcome State Fault Refusal :=
  issueGroup i s fun g c =>
    eachLane g c fun g' l => g'.writeV l d.val (f (readV s g l a.val) (readV s g l b.val))

/-- A vector operation on one source. -/
def vecOp1 (i : Instr) (d a : VReg) (f : Word → Word) (s : State) : Host.Outcome State Fault Refusal :=
  issueGroup i s fun g c => eachLane g c fun g' l => g'.writeV l d.val (f (readV s g l a.val))

/-- A vector operation on three sources. -/
def vecOp3 (i : Instr) (d a b x : VReg) (f : Word → Word → Word → Word) (s : State) :
    Host.Outcome State Fault Refusal :=
  issueGroup i s fun g c =>
    eachLane g c fun g' l =>
      g'.writeV l d.val (f (readV s g l a.val) (readV s g l b.val) (readV s g l x.val))

/-- A comparison into a predicate (R199). -/
def vecCmp (i : Instr) (d : PReg) (a b : VReg) (f : Word → Word → Bool) (s : State) :
    Host.Outcome State Fault Refusal :=
  issueGroup i s fun g c =>
    eachLane g c fun g' l => g'.writeP l d.val (f (readV s g l a.val) (readV s g l b.val))

/-- |S(x)| modulo 2^32 (R196). -/
def absW (a : Word) : Word := if a.toInt < 0 then -a else a

/-- VBFE (R197): the field of a word, zero- or sign-extended. -/
def fieldExtract (sgn : Bool) (a o w : Word) : Word :=
  match fieldSpan o w with
  | none => 0
  | some (lo, n) =>
    let v := bfield a.toNat lo n
    if sgn && v.testBit (n - 1) then BitVec.ofInt 32 ((v : Int) - 2 ^ n) else BitVec.ofNat 32 v

/-- VBFI (R197): the low bits of a word put into a field of another. -/
def fieldInsert (d a o w : Word) : Word :=
  match fieldSpan o w with
  | none => d
  | some (lo, n) =>
    let m : Word := BitVec.ofNat 32 ((2 ^ n - 1) * 2 ^ lo)
    (d &&& ~~~ m) ||| ((a <<< lo) &&& m)

/-- vadd (R196). -/
def execVadd (d a b : VReg) (s : State) : Host.Outcome State Fault Refusal :=
  vecOp (.vadd d a b) d a b (fun x y => x + y) s

/-- vsub (R196). -/
def execVsub (d a b : VReg) (s : State) : Host.Outcome State Fault Refusal :=
  vecOp (.vsub d a b) d a b (fun x y => x - y) s

/-- vmul (R196). -/
def execVmul (d a b : VReg) (s : State) : Host.Outcome State Fault Refusal :=
  vecOp (.vmul d a b) d a b (fun x y => x * y) s

/-- vmulhS32 (R196). -/
def execVmulhS32 (d a b : VReg) (s : State) : Host.Outcome State Fault Refusal :=
  vecOp (.vmulhS32 d a b) d a b (mulhS) s

/-- vmulhU32 (R196). -/
def execVmulhU32 (d a b : VReg) (s : State) : Host.Outcome State Fault Refusal :=
  vecOp (.vmulhU32 d a b) d a b (mulhU) s

/-- vand (R196). -/
def execVand (d a b : VReg) (s : State) : Host.Outcome State Fault Refusal :=
  vecOp (.vand d a b) d a b (fun x y => x &&& y) s

/-- vor (R196). -/
def execVor (d a b : VReg) (s : State) : Host.Outcome State Fault Refusal :=
  vecOp (.vor d a b) d a b (fun x y => x ||| y) s

/-- vxor (R196). -/
def execVxor (d a b : VReg) (s : State) : Host.Outcome State Fault Refusal :=
  vecOp (.vxor d a b) d a b (fun x y => x ^^^ y) s

/-- vshl (R196). -/
def execVshl (d a b : VReg) (s : State) : Host.Outcome State Fault Refusal :=
  vecOp (.vshl d a b) d a b (shlW) s

/-- vshr (R196). -/
def execVshr (d a b : VReg) (s : State) : Host.Outcome State Fault Refusal :=
  vecOp (.vshr d a b) d a b (shrW) s

/-- vsar (R196). -/
def execVsar (d a b : VReg) (s : State) : Host.Outcome State Fault Refusal :=
  vecOp (.vsar d a b) d a b (sarW) s

/-- vminS32 (R196). -/
def execVminS32 (d a b : VReg) (s : State) : Host.Outcome State Fault Refusal :=
  vecOp (.vminS32 d a b) d a b (minS) s

/-- vminU32 (R196). -/
def execVminU32 (d a b : VReg) (s : State) : Host.Outcome State Fault Refusal :=
  vecOp (.vminU32 d a b) d a b (minU) s

/-- vmaxS32 (R196). -/
def execVmaxS32 (d a b : VReg) (s : State) : Host.Outcome State Fault Refusal :=
  vecOp (.vmaxS32 d a b) d a b (maxS) s

/-- vmaxU32 (R196). -/
def execVmaxU32 (d a b : VReg) (s : State) : Host.Outcome State Fault Refusal :=
  vecOp (.vmaxU32 d a b) d a b (maxU) s

/-- vabs (R196). -/
def execVabs (d a : VReg) (s : State) : Host.Outcome State Fault Refusal :=
  vecOp1 (.vabs d a) d a (absW) s

/-- vclz (R196). -/
def execVclz (d a : VReg) (s : State) : Host.Outcome State Fault Refusal :=
  vecOp1 (.vclz d a) d a (clzW) s

/-- vpop (R196). -/
def execVpop (d a : VReg) (s : State) : Host.Outcome State Fault Refusal :=
  vecOp1 (.vpop d a) d a (popW) s

/-- vmov (R196). -/
def execVmov (d a : VReg) (s : State) : Host.Outcome State Fault Refusal :=
  vecOp1 (.vmov d a) d a (fun x => x) s

/-- vmad (R197). -/
def execVmad (d a b c : VReg) (s : State) : Host.Outcome State Fault Refusal :=
  vecOp3 (.vmad d a b c) d a b c (fun x y z => x * y + z) s

/-- vbfeS32 (R197). -/
def execVbfeS32 (d a b c : VReg) (s : State) : Host.Outcome State Fault Refusal :=
  vecOp3 (.vbfeS32 d a b c) d a b c (fieldExtract true) s

/-- vbfeU32 (R197). -/
def execVbfeU32 (d a b c : VReg) (s : State) : Host.Outcome State Fault Refusal :=
  vecOp3 (.vbfeU32 d a b c) d a b c (fieldExtract false) s

/-- The 33-bit sum of VADDC (R197). -/
def addCarry (a b : Word) (c : Bool) : Nat := a.toNat + b.toNat + (if c then 1 else 0)

/-- VADDC (R197): the predicate is read before it is written. -/
def execVaddc (d a b : VReg) (p : PReg) (s : State) : Host.Outcome State Fault Refusal :=
  issueGroup (.vaddc d a b p) s fun g c =>
    eachLane g c fun g' l =>
      let t := addCarry (readV s g l a.val) (readV s g l b.val) ((g.lane l).pred p.val)
      (g'.writeV l d.val (BitVec.ofNat 32 t)).writeP l p.val (t.testBit 32)

/-- VSEL (R197): only the selected source is read. -/
def execVsel (d a b : VReg) (p : PReg) (s : State) : Host.Outcome State Fault Refusal :=
  issueGroup (.vsel d a b p) s fun g c =>
    eachLane g c fun g' l =>
      g'.writeV l d.val (if (g.lane l).pred p.val then readV s g l a.val else readV s g l b.val)

/-- The halves of the destination that VBFI keeps whole stay marked (R194). -/
def keptMarks (g : Group) (l d : Nat) (o w : Word) : List Nat :=
  ([0, 1].filter fun h => match fieldSpan o w with
    | none => true
    | some (lo, n) => decide (halfCover lo n h = 0)).filterMap fun h =>
      if g.vHalf l d h then some (2 * (g.lane l).vIdx d + h) else none

/-- VBFI (R197): it writes its destination also where the field is empty (DESIGN CHOICE, log entry 127). -/
def execVbfi (d a b c : VReg) (s : State) : Host.Outcome State Fault Refusal :=
  issueGroup (.vbfi d a b c) s fun g cl =>
    eachLane g cl fun g' l =>
      let o := readV s g l b.val
      let w := readV s g l c.val
      let g2 := g'.writeV l d.val (fieldInsert (readV s g l d.val) (readV s g l a.val) o w)
      g2.modLane l fun x => { x with vPoison := (keptMarks g l d.val o w).foldr insertNat x.vPoison }

/-- VMOVI (R198). -/
def execVmovi (d : VReg) (i : BitVec 14) (s : State) : Host.Outcome State Fault Refusal :=
  issueGroup (.vmovi d i) s fun g c => eachLane g c fun g' l => g'.writeV l d.val (i.signExtend 32)

/-- VLIT (R198). -/
def execVlit (d : VReg) (i : Word) (s : State) : Host.Outcome State Fault Refusal :=
  issueGroup (.vlit d i) s fun g c => eachLane g c fun g' l => g'.writeV l d.val i

/-- VCMP.eq.s32 (R199). -/
def execVcmpEqS32 (d : PReg) (a b : VReg) (s : State) : Host.Outcome State Fault Refusal :=
  vecCmp (.vcmpEqS32 d a b) d a b (fun x y => x == y) s

/-- VCMP.ne.s32 (R199). -/
def execVcmpNeS32 (d : PReg) (a b : VReg) (s : State) : Host.Outcome State Fault Refusal :=
  vecCmp (.vcmpNeS32 d a b) d a b (fun x y => x != y) s

/-- VCMP.lt.s32 (R199). -/
def execVcmpLtS32 (d : PReg) (a b : VReg) (s : State) : Host.Outcome State Fault Refusal :=
  vecCmp (.vcmpLtS32 d a b) d a b (fun x y => decide (x.toInt < y.toInt)) s

/-- VCMP.le.s32 (R199). -/
def execVcmpLeS32 (d : PReg) (a b : VReg) (s : State) : Host.Outcome State Fault Refusal :=
  vecCmp (.vcmpLeS32 d a b) d a b (fun x y => decide (x.toInt ≤ y.toInt)) s

/-- VCMP.gt.s32 (R199). -/
def execVcmpGtS32 (d : PReg) (a b : VReg) (s : State) : Host.Outcome State Fault Refusal :=
  vecCmp (.vcmpGtS32 d a b) d a b (fun x y => decide (y.toInt < x.toInt)) s

/-- VCMP.ge.s32 (R199). -/
def execVcmpGeS32 (d : PReg) (a b : VReg) (s : State) : Host.Outcome State Fault Refusal :=
  vecCmp (.vcmpGeS32 d a b) d a b (fun x y => decide (y.toInt ≤ x.toInt)) s

/-- VCMP.eq.u32 (R199). -/
def execVcmpEqU32 (d : PReg) (a b : VReg) (s : State) : Host.Outcome State Fault Refusal :=
  vecCmp (.vcmpEqU32 d a b) d a b (fun x y => x == y) s

/-- VCMP.ne.u32 (R199). -/
def execVcmpNeU32 (d : PReg) (a b : VReg) (s : State) : Host.Outcome State Fault Refusal :=
  vecCmp (.vcmpNeU32 d a b) d a b (fun x y => x != y) s

/-- VCMP.lt.u32 (R199). -/
def execVcmpLtU32 (d : PReg) (a b : VReg) (s : State) : Host.Outcome State Fault Refusal :=
  vecCmp (.vcmpLtU32 d a b) d a b (fun x y => decide (x.toNat < y.toNat)) s

/-- VCMP.le.u32 (R199). -/
def execVcmpLeU32 (d : PReg) (a b : VReg) (s : State) : Host.Outcome State Fault Refusal :=
  vecCmp (.vcmpLeU32 d a b) d a b (fun x y => decide (x.toNat ≤ y.toNat)) s

/-- VCMP.gt.u32 (R199). -/
def execVcmpGtU32 (d : PReg) (a b : VReg) (s : State) : Host.Outcome State Fault Refusal :=
  vecCmp (.vcmpGtU32 d a b) d a b (fun x y => decide (y.toNat < x.toNat)) s

/-- VCMP.ge.u32 (R199). -/
def execVcmpGeU32 (d : PReg) (a b : VReg) (s : State) : Host.Outcome State Fault Refusal :=
  vecCmp (.vcmpGeU32 d a b) d a b (fun x y => decide (y.toNat ≤ x.toNat)) s

end Sys2Proof.Machine
end

