-- ==== Sys2Proof/Machine/Cross.lean ====
section
/-! DEFINITION. Meanings of class 0x6: cross-lane operations and predicates (08 R212-R221; replays
12 R325). -/

namespace Sys2Proof.Machine

/-- The participants of a vote, reduction, scan, match or mask: executing lanes that are no helpers
(R212). -/
def Group.voters (g : Group) (c : Clause) : Mask := g.noHelpers c.exec

/-- In a replay whose item's lane takes part, a group-wide operation sets condition 6 (R325). -/
def State.groupWide (s : State) (g : Group) (m : Mask) : State :=
  match s.replayOf g with
  | some r => if mHas m r.lane then s.condition g 6 else s
  | none => s

/-- Each lane takes the register of another (R214, R216). -/
def exchange (s : State) (g : Group) (c : Clause) (d a : VReg) (src : Nat → Nat) : Group :=
  eachLane g c fun g' l => g'.writeV l d.val (readV s g (src l) a.val)

/-- QSWAP.h (R214). -/
def execQswapH (d a : VReg) (s : State) : Host.Outcome State Fault Refusal :=
  issueGroup (.qswapH d a) s fun g c => exchange s g c d a fun l => g.pick l (l ^^^ 1)

/-- QSWAP.v (R214). -/
def execQswapV (d a : VReg) (s : State) : Host.Outcome State Fault Refusal :=
  issueGroup (.qswapV d a) s fun g c => exchange s g c d a fun l => g.pick l (l ^^^ 2)

/-- QSWAP.d (R214). -/
def execQswapD (d a : VReg) (s : State) : Host.Outcome State Fault Refusal :=
  issueGroup (.qswapD d a) s fun g c => exchange s g c d a fun l => g.pick l (l ^^^ 3)

/-- A quad derivative (R215). -/
def derive_ (s : State) (g : Group) (c : Clause) (d a : VReg) (dy coarse : Bool) : Group :=
  eachLane g c fun g' l =>
    let x := g.diffLanes l dy coarse
    g'.writeV l d.val (f32sub (readV s g x.1 a.val) (readV s g x.2 a.val))

/-- DDX.fine (R215). -/
def execDdxFine (d a : VReg) (s : State) : Host.Outcome State Fault Refusal :=
  issueGroup (.ddxFine d a) s fun g c => derive_ s g c d a false false

/-- DDX.coarse (R215). -/
def execDdxCoarse (d a : VReg) (s : State) : Host.Outcome State Fault Refusal :=
  issueGroup (.ddxCoarse d a) s fun g c => derive_ s g c d a false true

/-- DDY.fine (R215). -/
def execDdyFine (d a : VReg) (s : State) : Host.Outcome State Fault Refusal :=
  issueGroup (.ddyFine d a) s fun g c => derive_ s g c d a true false

/-- DDY.coarse (R215). -/
def execDdyCoarse (d a : VReg) (s : State) : Host.Outcome State Fault Refusal :=
  issueGroup (.ddyCoarse d a) s fun g c => derive_ s g c d a true true

/-- In a replay, a shuffle whose source for the item's lane lies outside its quad, or is not the recorded
lane, sets condition 6 (R325). -/
def State.shflNote (s : State) (g : Group) (c : Clause) (b : VReg) (m : ShflMode) : State :=
  match s.replayOf g with
  | none => s
  | some r =>
    let n := (readV s g r.lane b.val).toNat
    let src : Int := match m with
      | .idx => n | .up => (r.lane : Int) - n | .down => r.lane + n | .xor => r.lane ^^^ n
    let near := if (g.lane r.lane).frag.isSome then decide (0 ≤ src ∧ src / 4 = (r.lane / 4 : Nat))
      else decide (src = r.lane)
    if mHas c.exec r.lane && !near then s.condition g 6 else s

/-- A shuffle (R216). -/
def shuffle (i : Instr) (m : ShflMode) (d a b : VReg) (s : State) : Host.Outcome State Fault Refusal :=
  issue i s fun g c =>
    (s.shflNote g c b m).setGroup
      (exchange s g c d a fun l => g.shflLane m l (readV s g l b.val))

/-- SHFL.idx (R216). -/
def execShflIdx (d a b : VReg) (s : State) : Host.Outcome State Fault Refusal :=
  shuffle (.shflIdx d a b) .idx d a b s

/-- SHFL.up (R216). -/
def execShflUp (d a b : VReg) (s : State) : Host.Outcome State Fault Refusal :=
  shuffle (.shflUp d a b) .up d a b s

/-- SHFL.down (R216). -/
def execShflDown (d a b : VReg) (s : State) : Host.Outcome State Fault Refusal :=
  shuffle (.shflDown d a b) .down d a b s

/-- SHFL.xor (R216). -/
def execShflXor (d a b : VReg) (s : State) : Host.Outcome State Fault Refusal :=
  shuffle (.shflXor d a b) .xor d a b s

/-- The participants whose predicate is 1. -/
def ballot (g : Group) (c : Clause) (a : PReg) : Mask :=
  maskOf ((lanesOf (g.voters c)).filter fun l => (g.lane l).pred a.val)

/-- An operation over the participants of a vote: each gets its result. -/
def voteOp (i : Instr) (s : State) (f : Group → Mask → Group → Nat → Group) :
    Host.Outcome State Fault Refusal :=
  issue i s fun g c =>
    (s.groupWide g (g.voters c)).setGroup ((lanesOf (g.voters c)).foldl (f g (g.voters c)) g)

/-- VOTE.any (R217). -/
def execVoteAny (d a : PReg) (s : State) : Host.Outcome State Fault Refusal :=
  voteOp (.voteAny d a) s fun g m g' l =>
    g'.writeP l d.val ((lanesOf m).any fun k => (g.lane k).pred a.val)

/-- VOTE.all (R217). -/
def execVoteAll (d a : PReg) (s : State) : Host.Outcome State Fault Refusal :=
  voteOp (.voteAll d a) s fun g m g' l =>
    g'.writeP l d.val ((lanesOf m).all fun k => (g.lane k).pred a.val)

/-- VOTE.ballot (R217). -/
def execVoteBallot (d : VReg) (a : PReg) (s : State) : Host.Outcome State Fault Refusal :=
  voteOp (.voteBallot d a) s fun g m g' l =>
    g'.writeV64 l d.val (maskOf ((lanesOf m).filter fun k => (g.lane k).pred a.val))

/-- MATCH (R218). -/
def execMatchAny (d a : VReg) (s : State) : Host.Outcome State Fault Refusal :=
  voteOp (.matchAny d a) s fun g m g' l =>
    g'.writeV64 l d.val
      (maskOf ((lanesOf m).filter fun k => readV s g k a.val == readV s g l a.val))

/-- ACTMASK (R219). -/
def execActmask (d : VReg) (s : State) : Host.Outcome State Fault Refusal :=
  voteOp (.actmask d) s fun _ m g' l => g'.writeV64 l d.val m

/-- ISHELP (R219). -/
def execIshelp (d : PReg) (s : State) : Host.Outcome State Fault Refusal :=
  issueGroup (.ishelp d) s fun g c => eachLane g c fun g' l => g'.writeP l d.val (g.lane l).helper

/-! ### Reduce and scan -/

/-- The format of a float type. -/
def redFmt : RedTy → Fmt | .f64 => .f64 | _ => .f32

/-- The combining rule (R220). -/
def redCombine (o : RedOp) (t : RedTy) (r : Rnd) (a b : Nat) : Nat :=
  let bits := 32 * t.regs
  let sgn (v : Nat) : Int := (BitVec.ofNat bits v).toInt
  if t.isFloat then
    match o with
    | .add => (redFmt t).add r a b
    | .min => (redFmt t).minMax false a b
    | _ => (redFmt t).minMax true a b
  else
    let signed := decide (t = .s32 ∨ t = .s64)
    match o with
    | .add => (a + b) % 2 ^ bits
    | .min => if signed then (if sgn a ≤ sgn b then a else b) else min a b
    | .max => if signed then (if sgn a ≤ sgn b then b else a) else max a b
    | .and => a &&& b
    | .or => a ||| b
    | .xor => a ^^^ b

/-- The identity a lane that is no participant supplies (R220). -/
def redIdentity (o : RedOp) (t : RedTy) : Nat :=
  let bits := 32 * t.regs
  let f := redFmt t
  if t.isFloat then
    match o with
    | .add => f.signBit
    | .min => f.infBits
    | _ => f.signBit + f.infBits
  else
    let signed := decide (t = .s32 ∨ t = .s64)
    match o with
    | .min => if signed then 2 ^ (bits - 1) - 1 else 2 ^ bits - 1
    | .max => if signed then 2 ^ (bits - 1) else 0
    | .and => 2 ^ bits - 1
    | _ => 0

/-- A node of the fixed tree: the combination of `2^k` lanes from `lo` (R102). -/
def redNode (f : Nat → Nat → Nat) (v : Nat → Nat) (lo : Nat) : Nat → Nat
  | 0 => v lo
  | k + 1 => f (redNode f v lo k) (redNode f v (lo + 2 ^ k) k)

/-- The scan value over `n` lanes from `lo`: aligned blocks, largest first, combined from the left (R103).
`acc` is what stands to the left. -/
def scanFrom (f : Nat → Nat → Nat) (v : Nat → Nat) : Nat → Nat → Nat → Option Nat → Nat
  | 0, lo, n, acc =>
    if n = 0 then acc.getD 0 else match acc with | none => v lo | some a => f a (v lo)
  | k + 1, lo, n, acc =>
    if 2 ^ (k + 1) ≤ n then
      let b := redNode f v lo (k + 1)
      scanFrom f v k (lo + 2 ^ (k + 1)) (n - 2 ^ (k + 1)) (some (match acc with
        | none => b
        | some a => f a b))
    else scanFrom f v k lo n acc

/-- The values of the lanes of a group for a reduction. -/
def redValues (s : State) (g : Group) (m : Mask) (o : RedOp) (t : RedTy) (a : VReg) (l : Nat) : Nat :=
  if mHas m l then
    if t.regs = 2 then (readV64 s g l a.val).toNat else (readV s g l a.val).toNat
  else redIdentity o t

/-- Write a result of a reduction type. -/
def Group.writeRed (g : Group) (t : RedTy) (l : Nat) (d : VReg) (v : Nat) : Group :=
  if t.regs = 2 then g.writeV64 l d.val (BitVec.ofNat 64 v) else g.writeV l d.val (BitVec.ofNat 32 v)

/-- REDUCE (R102, R220). -/
def execReduce (o : RedOp) (t : RedTy) (r : Rnd) (d a : VReg) (s : State) :
    Host.Outcome State Fault Refusal :=
  voteOp (.reduce o t r d a) s fun g m g' l =>
    g'.writeRed t l d (redNode (redCombine o t r) (redValues s g m o t a) 0 (Nat.log2 g.width))

/-- SCAN (R103, R220). -/
def execScan (o : RedOp) (t : RedTy) (r : Rnd) (d a : VReg) (s : State) :
    Host.Outcome State Fault Refusal :=
  voteOp (.scan o t r d a) s fun g m g' l =>
    g'.writeRed t l d (scanFrom (redCombine o t r) (redValues s g m o t a) 6 0 (l + 1) none)

/-! ### Predicates -/

/-- A predicate operation, per executing lane (R221). -/
def predOp (i : Instr) (d a b : PReg) (f : Bool → Bool → Bool) (s : State) :
    Host.Outcome State Fault Refusal :=
  issueGroup i s fun g c =>
    eachLane g c fun g' l => g'.writeP l d.val (f ((g.lane l).pred a.val) ((g.lane l).pred b.val))

/-- PAND (R221). -/
def execPand (d a b : PReg) (s : State) : Host.Outcome State Fault Refusal :=
  predOp (.pand d a b) d a b (fun x y => x && y) s

/-- POR (R221). -/
def execPor (d a b : PReg) (s : State) : Host.Outcome State Fault Refusal :=
  predOp (.por d a b) d a b (fun x y => x || y) s

/-- PXOR (R221). -/
def execPxor (d a b : PReg) (s : State) : Host.Outcome State Fault Refusal :=
  predOp (.pxor d a b) d a b (fun x y => x ^^ y) s

/-- PNOT (R221). -/
def execPnot (d a : PReg) (s : State) : Host.Outcome State Fault Refusal :=
  predOp (.pnot d a) d a a (fun x _ => !x) s

/-- PMOV (R221). -/
def execPmov (d a : PReg) (s : State) : Host.Outcome State Fault Refusal :=
  predOp (.pmov d a) d a a (fun x _ => x) s

end Sys2Proof.Machine
end

