-- ==== Sys2Proof/Machine/FloatOps.lean ====
section
/-! DEFINITION. Meanings of classes 0x4 and 0x5: vector float, conversions, special functions
(08 R200-R211). -/

namespace Sys2Proof

/-- The format of a class 0x4 type; of each element when packed (R200). -/
def FTy.fmt : FTy → Machine.Fmt | .f64 => .f64 | .f32 => .f32 | .f16x2 => .f16 | .bf16x2 => .bf16
/-- Two elements to a register. -/
def FTy.packed : FTy → Bool | .f16x2 | .bf16x2 => true | _ => false
/-- The format of a class 0x5 type. -/
def Prec.fmt : Prec → Machine.Fmt | .f32 => .f32 | .f64 => .f64
/-- The format of an element of FDOT2. -/
def Half.fmt : Half → Machine.Fmt | .f16 => .f16 | .bf16 => .bf16

end Sys2Proof

namespace Sys2Proof.Machine

/-- The bits of a value of `n` registers. -/
def readBits (s : State) (g : Group) (l r n : Nat) : Nat :=
  if n = 2 then (readV64 s g l r).toNat else (readV s g l r).toNat

/-- Write the bits of a value of `n` registers. -/
def Group.writeBits (g : Group) (l r n v : Nat) : Group :=
  if n = 2 then g.writeV64 l r (BitVec.ofNat 64 v) else g.writeV l r (BitVec.ofNat 32 v)

/-- A float operation of class 0x4 on the bits of each element (R200). -/
def perElem2 (t : FTy) (f : Nat → Nat → Nat) (a b : Nat) : Nat :=
  if t.packed then
    f (a % 65536) (b % 65536) % 65536 + 65536 * (f (a / 65536) (b / 65536) % 65536)
  else f a b

/-- The same of three sources. -/
def perElem3 (t : FTy) (f : Nat → Nat → Nat → Nat) (a b c : Nat) : Nat :=
  if t.packed then
    f (a % 65536) (b % 65536) (c % 65536) % 65536 +
      65536 * (f (a / 65536) (b / 65536) (c / 65536) % 65536)
  else f a b c

/-- A two-source float operation, per executing lane. -/
def floatOp2 (i : Instr) (t : FTy) (d a b : VReg) (f : Fmt → Nat → Nat → Nat) (s : State) :
    Host.Outcome State Fault Refusal :=
  issueGroup i s fun g c =>
    eachLane g c fun g' l =>
      g'.writeBits l d.val t.regs (perElem2 t (f t.fmt) (readBits s g l a.val t.regs)
        (readBits s g l b.val t.regs))

/-- FADD (R201). -/
def execFadd (t : FTy) (r : Rnd) (d a b : VReg) (s : State) : Host.Outcome State Fault Refusal :=
  floatOp2 (.fadd t r d a b) t d a b (fun f => f.add r) s

/-- FSUB (R201). -/
def execFsub (t : FTy) (r : Rnd) (d a b : VReg) (s : State) : Host.Outcome State Fault Refusal :=
  floatOp2 (.fsub t r d a b) t d a b (fun f => f.sub r) s

/-- FMUL (R201). -/
def execFmul (t : FTy) (r : Rnd) (d a b : VReg) (s : State) : Host.Outcome State Fault Refusal :=
  floatOp2 (.fmul t r d a b) t d a b (fun f => f.mul r) s

/-- FFMA (R201). -/
def execFfma (t : FTy) (r : Rnd) (d a b x : VReg) (s : State) : Host.Outcome State Fault Refusal :=
  issueGroup (.ffma t r d a b x) s fun g c =>
    eachLane g c fun g' l =>
      g'.writeBits l d.val t.regs (perElem3 t (t.fmt.fma r) (readBits s g l a.val t.regs)
        (readBits s g l b.val t.regs) (readBits s g l x.val t.regs))

/-- FMIN (R202). -/
def execFmin (t : FTy) (d a b : VReg) (s : State) : Host.Outcome State Fault Refusal :=
  floatOp2 (.fmin t d a b) t d a b (fun f => f.minMax false) s

/-- FMAX (R202). -/
def execFmax (t : FTy) (d a b : VReg) (s : State) : Host.Outcome State Fault Refusal :=
  floatOp2 (.fmax t d a b) t d a b (fun f => f.minMax true) s

/-- The condition of FCMP on the bits of a type: both elements of a packed one (R203). -/
def floatCond (t : FTy) (x : FCond) (a b : Nat) : Bool :=
  let one (a b : Nat) : Bool := (t.fmt.value a).cond x (t.fmt.value b)
  if t.packed then one (a % 65536) (b % 65536) && one (a / 65536) (b / 65536) else one a b

/-- FCMP (R203). -/
def execFcmp (t : FTy) (x : FCond) (d : PReg) (a b : VReg) (s : State) :
    Host.Outcome State Fault Refusal :=
  issueGroup (.fcmp t x d a b) s fun g c =>
    eachLane g c fun g' l =>
      g'.writeP l d.val (floatCond t x (readBits s g l a.val t.regs) (readBits s g l b.val t.regs))

/-- FDOT2 (R204): an exact sum rounded once to binary32. -/
def dot2 (t : Half) (r : Rnd) (d a b : Nat) : Nat :=
  let f := t.fmt
  Fmt.f32.round r (Num.sum r [Fmt.f32.value d,
    Num.mul (f.value (a % 65536)) (f.value (b % 65536)),
    Num.mul (f.value (a / 65536)) (f.value (b / 65536))])

/-- FDOT2 (R204). -/
def execFdot2 (t : Half) (r : Rnd) (d a b : VReg) (s : State) : Host.Outcome State Fault Refusal :=
  issueGroup (.fdot2 t r d a b) s fun g c =>
    eachLane g c fun g' l =>
      g'.writeBits l d.val 1 (dot2 t r (readBits s g l d.val 1) (readBits s g l a.val 1)
        (readBits s g l b.val 1))

/-- CVT (R206, R207). -/
def execCvt (dt sty : NumTy) (r : Rnd) (d a : VReg) (s : State) : Host.Outcome State Fault Refusal :=
  issueGroup (.cvt dt sty r d a) s fun g c =>
    eachLane g c fun g' l =>
      g'.writeBits l d.val dt.regs (cvtResult dt r (cvtSource sty (readBits s g l a.val sty.regs)))

/-- CVTN (R208): the overflow table of the context decides. -/
def execCvtn (n : Narrow) (r : Rnd) (d a : VReg) (s : State) : Host.Outcome State Fault Refusal :=
  issueGroup (.cvtn n r d a) s fun g c =>
    let ovt := (s.ctxOf g).ccb.ovt
    eachLane g c fun g' l =>
      g'.writeBits l d.val 1 (narrowBits ovt ((fmtOf n.src).getD .f32) ((fmtOf n.dst).getD .f32) r
        (readBits s g l a.val n.src.regs))

/-- A one-source operation of class 0x5. -/
def specialOp (i : Instr) (t : Prec) (d a : VReg) (f : Fmt → Nat → Nat) (s : State) :
    Host.Outcome State Fault Refusal :=
  issueGroup i s fun g c =>
    eachLane g c fun g' l =>
      g'.writeBits l d.val t.regs (f t.fmt (readBits s g l a.val t.regs))

/-- FRCP (R209). -/
def execFrcp (t : Prec) (r : Rnd) (d a : VReg) (s : State) : Host.Outcome State Fault Refusal :=
  specialOp (.frcp t r d a) t d a (fun f x => f.div r f.one x) s

/-- FRSQ (R209). -/
def execFrsq (t : Prec) (d a : VReg) (s : State) : Host.Outcome State Fault Refusal :=
  specialOp (.frsq t d a) t d a (fun f x => f.round .rn (f.value x).rsqrt) s

/-- FSQRT (R209). -/
def execFsqrt (t : Prec) (r : Rnd) (d a : VReg) (s : State) : Host.Outcome State Fault Refusal :=
  specialOp (.fsqrt t r d a) t d a (fun f x => f.round r (f.value x).sqrt) s

/-- FDIV (R209). -/
def execFdiv (t : Prec) (r : Rnd) (d a b : VReg) (s : State) : Host.Outcome State Fault Refusal :=
  issueGroup (.fdiv t r d a b) s fun g c =>
    eachLane g c fun g' l =>
      g'.writeBits l d.val t.regs (t.fmt.div r (readBits s g l a.val t.regs) (readBits s g l b.val t.regs))

/-- FEXP2 (R209). -/
def execFexp2 (t : Prec) (d a : VReg) (s : State) : Host.Outcome State Fault Refusal :=
  specialOp (.fexp2 t d a) t d a Fmt.exp2 s

/-- FLOG2 (R209). -/
def execFlog2 (t : Prec) (d a : VReg) (s : State) : Host.Outcome State Fault Refusal :=
  specialOp (.flog2 t d a) t d a Fmt.log2 s

/-- FSIN (R209). -/
def execFsin (t : Prec) (d a : VReg) (s : State) : Host.Outcome State Fault Refusal :=
  specialOp (.fsin t d a) t d a Fmt.sin s

/-- FCOS (R209). -/
def execFcos (t : Prec) (d a : VReg) (s : State) : Host.Outcome State Fault Refusal :=
  specialOp (.fcos t d a) t d a Fmt.cos s

/-- FROUND (R210). -/
def execFround (t : Prec) (r : Rnd) (d a : VReg) (s : State) : Host.Outcome State Fault Refusal :=
  specialOp (.fround t r d a) t d a (fun f => f.integral r) s

/-- FFRACT (R210). -/
def execFfract (t : Prec) (d a : VReg) (s : State) : Host.Outcome State Fault Refusal :=
  specialOp (.ffract t d a) t d a Fmt.fract s

/-- FCLASS (R211): one register, whatever the type. -/
def execFclass (t : Prec) (d a : VReg) (s : State) : Host.Outcome State Fault Refusal :=
  issueGroup (.fclass t d a) s fun g c =>
    eachLane g c fun g' l =>
      g'.writeBits l d.val 1 (t.fmt.classOf (readBits s g l a.val t.regs))

end Sys2Proof.Machine
end

