-- ==== Sys2Proof/Machine/Lod.lean ====
section
/-! DEFINITION. LOD resources and the meanings of LDLOD, TEX and TEXG (05 R105, 09 R230-R234, 11 R306-R311,
17 R341). -/

namespace Sys2Proof.Machine

/-- A resource descriptor as it was read (R306). -/
structure LodDesc where
  resid  : Nat
  levels : Nat
  glog   : Nat
  w0     : Nat
  h0     : Nat
  tfmt   : Nat
  amode  : Nat
  dshift : List Nat
  /-- BASE and MAP of each level. -/
  level  : List (Nat × Nat)
  deriving DecidableEq, Repr

/-- The fields of a descriptor: 64 header bytes, then 16 for each level (R306). -/
def parseLod (b : List Byte) : LodDesc :=
  let h := leNat (b.take 64)
  let glog := bfield h 32 6
  let levels := bfield h 4 4
  let tfmt := bfield h 96 8
  { resid := bfield h 8 24, levels := levels
    glog := if 4 ≤ glog ∧ glog ≤ 30 then glog else 30
    w0 := bfield h 64 16 + 1, h0 := bfield h 80 16 + 1
    tfmt := if tfmt < 6 then tfmt else 0
    amode := bfield h 104 2
    dshift := (List.range 16).map fun l => bfield h (128 + 4 * l) 4
    level := (List.range (levels + 1)).map fun l =>
      (fieldOf b (64 + 16 * l) 8, fieldOf b (72 + 16 * l) 8) }

/-- The context whose memory and ring a group's LOD loads use; a replay reads current memory (R325). -/
def State.lodWho (s : State) (g : Group) : Who := { s.who g with replay := none }

/-- Read a descriptor: the checks of R230, then a plain read (R225) of its header and of the entries of its
levels (DESIGN CHOICE, log entry 130). -/
def State.lodDesc (s : State) (g : Group) (a : DWord) : Except FaultAt LodDesc :=
  let w := s.lodWho g
  match s.loadGlobal w a 64 .read with
  | .error f => .error f
  | .ok h =>
    let n := 16 * (bfield (leNat h) 4 4 + 1)
    match s.loadRecord w ((a + 64).toNat) n with
    | .error (c, lv, va) => .error { code := c, addr := va, level := lv }
    | .ok e => .ok (parseLod (h ++ e))

/-- The offset at level `l` of an offset at wanted level `n` (R307). -/
def LodDesc.mapOffset (d : LodDesc) (n off l : Nat) : Nat :=
  let sh := d.dshift.getD l 0 - d.dshift.getD n 0
  off / 2 ^ d.glog / 2 ^ sh * 2 ^ d.glog + off % 2 ^ d.glog

/-- What a page of a level is to a load: resident and translated, or why not. -/
inductive PageState where
  | present
  | absent
  /-- The map byte cannot be read, or the page is marked resident and has no translation. -/
  | mismatch
  deriving DecidableEq, Repr

/-- The address of a page's bit in its level's residency map, in bits (R307). -/
def LodDesc.mapBit (d : LodDesc) (l p : Nat) : Nat := 8 * (((d.level.getD l (0, 0)).2 + p / 8) % 2 ^ 64) + p % 8

/-- The address of a page of a level (R306, R307); a BASE that is not aligned to 64 KiB is used as it stands (DESIGN
CHOICE, log entry 141). -/
def LodDesc.pageAt (d : LodDesc) (l p : Nat) : Nat := ((d.level.getD l (0, 0)).1 + 65536 * p) % 2 ^ 64

/-- What a group's LOD instance in flight has read (R341). -/
def State.lodSeen (s : State) (g : Group) : LodSeen := ((s.group? g.uid).map (·.seen)).getD {}

/-- A residency bit as the instance sees it: read once (R231, R341); none when it cannot be read. -/
def State.lodBit (s : State) (g : Group) (d : LodDesc) (l p : Nat) : Option Bool :=
  let b := d.mapBit l p
  match (s.lodSeen g).bits.find? fun e => e.1 == b with
  | some e => e.2
  | none =>
    if canonical (BitVec.ofNat 64 (b / 8)) then
      (s.quietLoad (s.lodWho g) (b / 8) 1).map fun x => (leNat x).testBit (b % 8)
    else none

/-- A level page's translation as the instance sees it: tested once (R341, R364). -/
def State.lodMapped (s : State) (g : Group) (d : LodDesc) (l p : Nat) : Bool :=
  let va := d.pageAt l p
  match (s.lodSeen g).pages.find? fun e => e.1 == va with
  | some e => e.2
  | none => canonical (BitVec.ofNat 64 va) && match s.reach (s.lodWho g) va 1 .read with
    | .ok _ => true
    | _ => false

/-- What a page is to a load: its residency bit, and its translation when the bit is set (R231). -/
def State.lodPage (s : State) (g : Group) (d : LodDesc) (l p : Nat) : PageState :=
  match s.lodBit g d l p with
  | none => .mismatch
  | some false => .absent
  | some true => if s.lodMapped g d l p then .present else .mismatch

/-- The instance keeps what it has read of a page (R341). -/
def State.keepPage (s : State) (g : Group) (d : LodDesc) (l p : Nat) : State :=
  let b := s.lodBit g d l p
  let m := s.lodMapped g d l p
  s.modGroup g.uid fun x => { x with seen := {
    bits := (d.mapBit l p, b) :: x.seen.bits.filter fun e => e.1 ≠ d.mapBit l p
    pages := if b = some true then (d.pageAt l p, m) :: x.seen.pages.filter fun e => e.1 ≠ d.pageAt l p
      else x.seen.pages } }

/-! ### The feedback ring -/

/-- The entry of a miss (R310). -/
def ringWords (d : LodDesc) (l p : Nat) (lin : Name) : List Word :=
  [BitVec.ofNat 32 (d.resid * 256 + l * 16 + nameKind lin), BitVec.ofNat 32 p, nameWord lin 1,
   (nameWord lin 2 &&& 0xFFFFFF00) ||| BitVec.ofNat 32 (nameFrame lin % 256)]

/-- Add 1 to OVERFLOW when the header can be read and written (R310). -/
def State.ringOverflow (s : State) (w : Who) (ring : Nat) : State :=
  match s.quietLoad w ring 16 with
  | none => s
  | some h => (s.quietStore w (ring + 12) (natLe 4 (min (fieldOf h 12 4 + 1) (2 ^ 32 - 1)))).getD s

/-- Log a miss at the wanted level (R231, R310, R311): whether RINGLOST is set, and the state after; a LOG2CAP outside
4 to 20 is used as it stands (DESIGN CHOICE, log entry 141). -/
def State.logMiss (s : State) (g : Group) (d : LodDesc) (l p : Nat) (lin : Name) : Bool × State :=
  let w := s.lodWho g
  let key := (w.slot, d.resid, l, p)
  let ring := (s.ctx w.slot).ccb.fring.toNat
  if g.replay ∨ ring = 0 ∨ (s.cluster w.cl).filter.contains key then (false, s)
  else
    match s.quietLoad w ring 16 with
    | none => (true, s.ringOverflow w ring)
    | some h =>
      let cap := 2 ^ bfield (leNat h) 0 5
      let put := fieldOf h 4 4
      if (put + 2 ^ 32 - fieldOf h 8 4) % 2 ^ 32 = cap then (true, s.ringOverflow w ring)
      else
        let s1 := (s.quietStore w (ring + 64 + 16 * (put % cap)) (bytesOf (ringWords d l p lin))).bind
          fun s => s.quietStore w (ring + 4) (natLe 4 (put + 1))
        match s1 with
        | none => (true, s.ringOverflow w ring)
        | some s => (false, s.modCluster w.cl fun c => { c with filter := (key :: c.filter).take 64 })

/-! ### The fallback chain -/

/-- The status word under construction (R105). -/
structure LodStatus where
  delivered : Nat := 0
  ringLost  : Bool := false
  mismatch  : Bool := false
  noLevel   : Bool := false

/-- The status word (R105). -/
def LodStatus.word (t : LodStatus) (wanted : Nat) : Word :=
  let b (x : Bool) : Nat := if x then 1 else 0
  BitVec.ofNat 32 (wanted + 16 * t.delivered + 256 * b t.ringLost + 512 * b t.mismatch + 1024 * b t.noLevel)

/-- Log the misses of one level, when it is the wanted one. -/
def State.logMisses (s : State) (g : Group) (d : LodDesc) (l : Nat) (lin : Name) (t : LodStatus)
    (ps : List Nat) : LodStatus × State :=
  ps.foldl (fun (x : LodStatus × State) p =>
    let (lost, s) := x.2.logMiss g d l p lin
    ({ x.1 with ringLost := x.1.ringLost || lost }, s)) (t, s)

/-- Walk down the chain from a level (R231, R308): the level that holds every page, if one does. Every missing
page of the wanted level is logged, in ascending order (DESIGN CHOICE, log entry 130). -/
def State.lodChain (s : State) (g : Group) (d : LodDesc) (lin : Name) (wanted : Nat)
    (pages : Nat → List Nat) : Nat → Nat → LodStatus → Option Nat × LodStatus × State
  | 0, _, t => (none, { t with noLevel := true, delivered := d.levels }, s)
  | fuel + 1, l, t =>
    if d.levels < l then (none, { t with noLevel := true, delivered := d.levels }, s)
    else
      let ps := (pages l).map fun p => (p, s.lodPage g d l p)
      let s := (pages l).foldl (fun s p => s.keepPage g d l p) s
      let t := { t with mismatch := t.mismatch || ps.any fun x => decide (x.2 = .mismatch) }
      if ps.all fun x => decide (x.2 = .present) then (some l, { t with delivered := l }, s)
      else
        let missing := (ps.filter fun x => x.2 ≠ .present).map (·.1)
        let (t, s) := if l = wanted then s.logMisses g d l lin t missing else (t, s)
        State.lodChain s g d lin wanted pages fuel (l + 1) t

/-- Record a load for the item's watch record, and for a replay compare it with the retained one
(R320, R322, R325). -/
def State.noteLod (s : State) (g : Group) (l : Nat) (ws : List Word) (st : Word) : State :=
  let n := (((s.group? g.uid).map fun x => (x.lane l).lods.length)).getD 0
  let s := s.modGroup g.uid fun x =>
    x.modLane l fun y => { y with lods := y.lods ++ [{ words := ws, status := st }] }
  match s.replayOf g with
  | none => s
  | some r =>
    let had := bytesOf [ws.getD 0 0, ws.getD 1 0, ws.getD 2 0, st]
    if r.lane = l ∧ n < fieldOf r.recBytes 19 1 / 16 ∧ (r.retain.drop (704 + 16 * n)).take 16 ≠ had then
      s.modReplay r.num fun r => { r with cond := r.cond ||| 16 }
    else s

/-- A load along the chain: `pages` and `read` by level. -/
def State.lodLoad (s : State) (g : Group) (l n wanted : Nat) (d : LodDesc) (pages : Nat → List Nat)
    (read : State → Nat → Except FaultAt (List Word)) : Except FaultAt LaneOut :=
  let (level, t, s1) := s.lodChain g d (g.lane l).lin wanted pages 17 wanted {}
  let st := t.word wanted
  match level with
  | none => .ok { state := s1.noteLod g l (List.replicate n 0) st, words := List.replicate n 0 ++ [st] }
  | some k =>
    match read s1 k with
    | .error f => .error { f with seen := some (s1.lodSeen g) }
    | .ok ws =>
      let s2 := (pages k).foldl (fun s p => s.touch (s.lodWho g) (d.pageAt k p) false) s1
      .ok { state := s2.noteLod g l ws st, words := ws ++ [st] }

/-- The bytes a load along the chain reads: the descriptor, then some bytes of the level it delivers (R71, R227). -/
def State.lodSpans (s : State) (g : Group) (l wanted : Nat) (a : DWord) (pages : LodDesc → Nat → List Nat)
    (bytes : LodDesc → Nat → List (Nat × Nat)) : List Span :=
  match s.lodDesc g a with
  | .error _ => [{ addr := a.toNat, n := 64, spad := none }]
  | .ok d =>
    { addr := a.toNat, n := 64 + 16 * (d.levels + 1), spad := none } ::
      match (s.lodChain g d (g.lane l).lin wanted (pages d) 17 wanted {}).1 with
      | none => []
      | some k => (bytes d k).map fun e =>
          { addr := ((d.level.getD k (0, 0)).1 + e.1) % 2 ^ 64, n := e.2, spad := none }

/-- A LOD instance performs: it has read nothing yet (R341). -/
def issueLod (i : Instr) (s : State) (o : LaneOp) : Host.Outcome State Fault Refusal :=
  issue i s fun g c =>
    runLanes (s.modGroup g.uid fun x => { x with seen := {} }) { g with seen := {} } c i o

/-- Bytes of a level's page. -/
def State.levelBytes (s : State) (g : Group) (d : LodDesc) (l off n : Nat) : Except FaultAt (List Byte) :=
  let va := ((d.level.getD l (0, 0)).1 + off) % 2 ^ 64
  match s.loadBytes (s.lodWho g) va n .read with
  | .ok b => .ok b
  | .error (c, lv) => .error { code := c, addr := va, level := lv }

/-! ### LDLOD -/

/-- The descriptor address and the byte offset of an LDLOD lane (R230). -/
def lodAddr (s : State) (g : Group) (l size : Nat) (m : MemX) : DWord × DWord :=
  (m.base64 s g l, BitVec.ofInt 64 (m.index s g l size + m.offset size))

/-- One lane of LDLOD (R231). -/
def lodOp (wanted : Nat) (z : LodSize) (m : MemX) : LaneOp :=
  { kind := .load (z.words + 1)
    run := fun s g l =>
      let n := 4 * z.words
      let (a, off) := lodAddr s g l n m
      match checkForm a 64 false with
      | .error f => .error f
      | .ok _ =>
        if off.toNat % n ≠ 0 then .error { code := .align, addr := (a + off).toNat }
        else
          match s.lodDesc g a with
          | .error f => .error f
          | .ok d =>
            let at_ (k : Nat) : Nat := d.mapOffset wanted off.toNat k
            s.lodLoad g l z.words wanted d (fun k => [at_ k / 65536]) fun s k =>
              match s.levelBytes g d k (at_ k) n with
              | .ok b => .ok (wordsOf z.words b)
              | .error f => .error f
    span := fun s g l =>
      let n := 4 * z.words
      let (a, off) := lodAddr s g l n m
      s.lodSpans g l wanted a (fun d k => [d.mapOffset wanted off.toNat k / 65536])
        fun d k => [(d.mapOffset wanted off.toNat k, n)] }

/-- LDLOD, short form: wanted level 0 (R230, R231) (DEDUCED, log entry 82). -/
def execLdlod (z : LodSize) (d : VReg) (b : SReg) (o : BitVec 7) (s : State) :
    Host.Outcome State Fault Refusal :=
  issueLod (.ldlod z d b o) s (lodOp 0 z (.base b o))

/-- LDLOD with XM (R230, R231). -/
def execLdlodX (l : Fin 16) (z : LodSize) (d : VReg) (m : MemX) (s : State) :
    Host.Outcome State Fault Refusal :=
  issueLod (.ldlodX l z d m) s (lodOp l.val z m)

/-! ### Textures -/

/-- Floor of a binary32; none for NaN and infinity. -/
def f32floor (x : Word) : Option Int :=
  match f32val x with
  | .fin neg m e => some (floorNum neg m e)
  | _ => none

/-- The binary32 nearest to an integer. -/
def f32int (i : Int) : Word := BitVec.ofNat 32 (Fmt.f32.round .rn (Num.ofInt i 0 false))

/-- Clamp(Floor(x), 0, LEVELS); NaN gives 0 (R234). -/
def levelOf (x : Word) (levels : Nat) : Nat :=
  match f32val x with
  | .nan => 0
  | .inf neg => if neg then 0 else levels
  | .fin neg m e => (clampInt (floorNum neg m e) 0 levels).toNat

/-- Bytes of a texel, its channels, their width in bytes (R306). -/
def texelShape (tfmt : Nat) : Nat × Nat :=
  match tfmt with
  | 0 => (1, 1) | 1 => (4, 1) | 2 => (1, 2) | 3 => (4, 2) | 4 => (1, 4) | _ => (4, 4)

/-- Bytes of a texel. -/
def texelBytes (tfmt : Nat) : Nat := (texelShape tfmt).1 * (texelShape tfmt).2

/-- One channel of a texel (R308). -/
def texelChannel (tfmt : Nat) (b : List Byte) (i : Nat) : Word :=
  let w := (texelShape tfmt).2
  let v := fieldOf b (w * i) w
  if w = 1 then f32div (f32int v) (f32int 255)
  else if w = 2 then BitVec.ofNat 32 (cvtResult .f32 .rn (cvtSource .f16 v))
  else BitVec.ofNat 32 v

/-- R, G, B, A of a texel: a channel the format lacks reads 0, except A, which reads 1.0 (R234); `none` is
a border texel (R306). -/
def texelColor (tfmt : Nat) (b : Option (List Byte)) : List Word :=
  let n := (texelShape tfmt).1
  (List.range 4).map fun i =>
    if i < n then (match b with | some b => texelChannel tfmt b i | none => 0)
    else if i = 3 then 0x3F800000 else 0

/-- The address mode of one coordinate; none outside a bordered level (R306). -/
def wrapCoord (mode : Nat) (k : Int) (n : Nat) : Option Nat :=
  match mode with
  | 0 => some (k % n).toNat
  | 1 => some (clampInt k 0 (n - 1)).toNat
  | 2 => let m := (k % (2 * n)).toNat; some (if m < n then m else 2 * n - 1 - m)
  | _ => if 0 ≤ k ∧ k < n then some k.toNat else none

/-- Width and height of a level (R307). -/
def LodDesc.size (d : LodDesc) (l : Nat) : Nat × Nat := (max 1 (d.w0 / 2 ^ l), max 1 (d.h0 / 2 ^ l))

/-- The byte offsets of t(0,0), t(1,0), t(0,1), t(1,1) in a level, with fx and fy (R234); every texel is a
border texel when x or y is not finite. -/
def LodDesc.taps (d : LodDesc) (l : Nat) (u v : Word) : List (Option Nat) × Word × Word :=
  let (w, h) := d.size l
  let x := f32sub (f32mul u (f32int w)) 0x3F000000
  let y := f32sub (f32mul v (f32int h)) 0x3F000000
  match f32floor x, f32floor y with
  | some i, some j =>
    let tap (a b : Int) : Option Nat :=
      match wrapCoord d.amode (i + a) w, wrapCoord d.amode (j + b) h with
      | some p, some q => some ((q * w + p) * texelBytes d.tfmt)
      | _, _ => none
    ([tap 0 0, tap 1 0, tap 0 1, tap 1 1], f32sub x (f32int i), f32sub y (f32int j))
  | _, _ => ([none, none, none, none], 0, 0)

/-- The residency pages of a sample (R307, R308). -/
def tapPages (ts : List (Option Nat)) : List Nat :=
  ts.foldl (fun ps t => match t with | some o => insertNat (o / 65536) ps | none => ps) []

/-- The four texels of a sample. -/
def State.texels (s : State) (g : Group) (d : LodDesc) (l : Nat) :
    List (Option Nat) → Except FaultAt (List (List Word))
  | [] => .ok []
  | none :: ts =>
    match State.texels s g d l ts with
    | .ok cs => .ok (texelColor d.tfmt none :: cs)
    | e => e
  | some o :: ts =>
    match s.levelBytes g d l o (texelBytes d.tfmt) with
    | .error f => .error f
    | .ok b =>
      match State.texels s g d l ts with
      | .ok cs => .ok (texelColor d.tfmt (some b) :: cs)
      | e => e

/-- Lerp (R234). -/
def lerp (p q f : Word) : Word := f32fma f (f32sub q p) p

/-- A channel of the filtered sample (R234); a sample that addresses no texel is a border texel. -/
def filterChannel (cs : List (List Word)) (fx fy : Word) (i : Nat) : Word :=
  let t (k : Nat) : Word := (cs.getD k []).getD i 0
  lerp (lerp (t 0) (t 1) fx) (lerp (t 2) (t 3) fx) fy

/-- DDX.coarse or DDY.coarse of a register for a lane (R215). -/
def coarseDiff (s : State) (g : Group) (l r : Nat) (dy : Bool) : Word :=
  let x := g.diffLanes l dy true
  f32sub (readV s g x.1 r) (readV s g x.2 r)

/-- The magnitude of a binary32. -/
def f32abs (x : Word) : Word := x &&& 0x7FFFFFFF

/-- FLOG2(ρ) of R234. -/
def texLog (s : State) (g : Group) (l : Nat) (d : LodDesc) (c : Nat) : Word :=
  let w := f32int d.w0
  let h := f32int d.h0
  let part (dy : Bool) : Word :=
    f32max (f32mul (f32abs (coarseDiff s g l c dy)) w) (f32mul (f32abs (coarseDiff s g l (c + 1) dy)) h)
  BitVec.ofNat 32 (Fmt.f32.log2 (f32max (part false) (part true)).toNat)

/-- The wanted level of TEX (R234). -/
def texLevel (s : State) (g : Group) (l : Nat) (u : TexMode) (d : LodDesc) (c : Nat) : Nat :=
  let lam := match u with
    | .level => readV s g l (c + 2)
    | .auto => texLog s g l d c
    | .bias => f32add (texLog s g l d c) (readV s g l (c + 2))
  levelOf (f32add lam 0x3F000000) d.levels

/-- One lane of TEX or TEXG: `pick` makes the words of the four texels and the two fractions. -/
def texOp (n : Nat) (t c : Nat) (level : State → Group → Nat → LodDesc → Nat)
    (pick : List (List Word) → Word → Word → List Word) : LaneOp :=
  { kind := .load (n + 1)
    run := fun s g l =>
      let a := readS64 s g t
      match checkForm a 64 false with
      | .error f => .error f
      | .ok _ =>
        match s.lodDesc g a with
        | .error f => .error f
        | .ok d =>
          let u := readV s g l c
          let v := readV s g l (c + 1)
          s.lodLoad g l n (level s g l d) d (fun k => tapPages (d.taps k u v).1) fun s k =>
            let (ts, fx, fy) := d.taps k u v
            match s.texels g d k ts with
            | .ok cs => .ok (pick cs fx fy)
            | .error f => .error f
    span := fun s g l =>
      let a := readS64 s g t
      match s.lodDesc g a with
      | .error _ => [{ addr := a.toNat, n := 64, spad := none }]
      | .ok d =>
        let taps (d : LodDesc) (k : Nat) : List (Option Nat) := (d.taps k (readV s g l c) (readV s g l (c + 1))).1
        s.lodSpans g l (level s g l d) a (fun d k => tapPages (taps d k))
          fun d k => (taps d k).filterMap fun o => o.map fun x => (x, texelBytes d.tfmt) }

/-- One lane of TEX. -/
def texLaneOp (u : TexMode) (z : LodSize) (t : SReg) (c : VReg) : LaneOp :=
  texOp z.words t.val c.val (fun s g l d => texLevel s g l u d c.val)
    fun cs fx fy => (List.range z.words).map (filterChannel cs fx fy)

/-- One lane of TEXG. -/
def texgLaneOp (n : Fin 4) (t : SReg) (c : VReg) : LaneOp :=
  texOp 4 t.val c.val (fun s g l d => levelOf (readV s g l (c.val + 2)) d.levels)
    fun cs _ _ => cs.map fun t => t.getD n.val 0

/-- TEX (R233, R234) (DEDUCED, log entry 82). -/
def execTex (u : TexMode) (z : LodSize) (d : VReg) (t : SReg) (c : VReg) (s : State) :
    Host.Outcome State Fault Refusal :=
  issueLod (.tex u z d t c) s (texLaneOp u z t c)

/-- TEXG (R233, R234). -/
def execTexg (n : Fin 4) (d : VReg) (t : SReg) (c : VReg) (s : State) :
    Host.Outcome State Fault Refusal :=
  issueLod (.texg n d t c) s (texgLaneOp n t c)

end Sys2Proof.Machine
end

