-- ==== Sys2Proof/Machine/Control.lean ====
section
/-! DEFINITION. Meanings of class 0x2 but for the routes: transfers of control (07 R170-R176), rejoin masks
and exit (R177-R179), TRAP, BRK, SVC, NOP, PERF (R181-R185), LAUNCH (R187), and the release of a JOIN
(02 R22, R23). -/

namespace Sys2Proof.Machine

/-! ### Transfers -/

/-- Lanes leave the clause in flight for an address. -/
def Group.transfer (g : Group) (m : Mask) (t : Nat → DWord) : Group :=
  (g.modLanes m fun l x => { x with pc := t l }).modClause fun c => { c with moved := c.moved ||| m }

/-- How a lane's target fails (R175), in the list's order. -/
def failRank (c : Code) : Nat :=
  match c with
  | .nulllink => 0 | .badtarget => 1 | .linekind => 2 | .landkind => 3 | _ => 4

/-- The failure of one lane's target; `link` says that a target of 0 is NULLLINK (DEDUCED, log entry 52). -/
def State.targetFail (s : State) (w : Who) (pad : Option (Fin 4)) (link : Bool) (a : DWord) :
    Option (Code × Nat) :=
  if link ∧ a = 0 then some (.nulllink, 0) else s.badTarget w a pad

/-- The first failure of R175 among lanes: its code, its level, the lanes that fail so, the target of the
lowest of them. -/
def State.firstFail (s : State) (w : Who) (pad : Option (Fin 4)) (link : Bool) (ls : List (Nat × DWord)) :
    Option (Code × Nat × Mask × DWord) :=
  let fs := ls.filterMap fun (l, a) => (s.targetFail w pad link a).map fun f => (l, a, f)
  match (fs.map fun f => failRank f.2.2.1).min? with
  | none => none
  | some k =>
    let mine := fs.filter fun f => failRank f.2.2.1 == k
    match mine with
    | [] => none
    | (_, a, (c, lv)) :: _ =>
      let same := mine.filter fun f => f.2.2.1 == c
      some (c, lv, maskOf (same.map (·.1)), a)

/-- Check the lanes' targets (R148, R151, R170, R175); when none fails, go on. -/
def State.checked (s : State) (g : Group) (c : Clause) (pad : Option (Fin 4)) (link : Bool)
    (ls : List (Nat × DWord)) (k : State) : State :=
  match s.firstFail { s.who g with replay := none } pad link ls with
  | none => k
  | some (code, lv, m, a) =>
    if code.resolvable then
      s.holdFault g c { code := code, addr := a.toNat, level := lv, source := 3 } m
    else s.controlFault g c code m a.toNat

/-- The target of a direct transfer (R170). -/
def Clause.target {n : Nat} (c : Clause) (o : BitVec n) : DWord := addr64 c.word (4 * sext o)

/-- A direct transfer taken by the lanes of a mask; the others go on at the next clause (R171). -/
def direct {n : Nat} (s : State) (g : Group) (c : Clause) (o : BitVec n) (m : Mask) : State :=
  let t := c.target o
  s.checked g c none false ((lanesOf m).map fun l => (l, t)) (s.setGroup (g.transfer m fun _ => t))

/-- BRA (R171). -/
def execBra (p : PReg) (o : BitVec 17) (s : State) : Host.Outcome State Fault Refusal :=
  issue (.bra p o) s fun g c =>
    direct s g c o (maskOf ((lanesOf c.exec).filter fun l => (g.lane l).pred p.val))

/-- BRS (R171). -/
def execBrs (a : SReg) (o : BitVec 14) (s : State) : Host.Outcome State Fault Refusal :=
  issue (.brs a o) s fun g c => direct s g c o (if readS s g a.val ≠ 0 then c.exec else 0)

/-- BRS.z (R171). -/
def execBrsZ (a : SReg) (o : BitVec 14) (s : State) : Host.Outcome State Fault Refusal :=
  issue (.brsZ a o) s fun g c => direct s g c o (if readS s g a.val = 0 then c.exec else 0)

/-- JMP (R171). -/
def execJmp (o : BitVec 21) (s : State) : Host.Outcome State Fault Refusal :=
  issue (.jmp o) s fun g c => direct s g c o c.exec

/-- The 64-bit values of a pair, by executing lane. -/
def pairOf (s : State) (g : Group) (c : Clause) (r : Nat) : List (Nat × DWord) :=
  (lanesOf c.exec).map fun l => (l, readV64 s g l r)

/-- Write the return site to the lanes' link pair (R150, R173). -/
def Group.link (g : Group) (c : Clause) (r : Nat) : Group :=
  (lanesOf c.exec).foldl (fun g l => (g.writeV l r (lo32 c.after)).writeV l (r + 1) (hi32 c.after)) g

/-- BRX (R172). -/
def execBrx (t : VReg) (s : State) : Host.Outcome State Fault Refusal :=
  issue (.brx t) s fun g c =>
    s.checked g c (some 1) true (pairOf s g c t.val)
      (s.setGroup (g.transfer c.exec fun l => readV64 s g l t.val))

/-- CALL (R173). -/
def execCall (r : VReg) (o : BitVec 14) (s : State) : Host.Outcome State Fault Refusal :=
  issue (.call r o) s fun g c =>
    let t := c.target o
    s.checked g c none false ((lanesOf c.exec).map fun l => (l, t))
      (s.setGroup ((g.link c r.val).transfer c.exec fun _ => t))

/-- CALLX (R173): the targets are read before the links are written. -/
def execCallx (r t : VReg) (s : State) : Host.Outcome State Fault Refusal :=
  issue (.callx r t) s fun g c =>
    s.checked g c (some 0) true (pairOf s g c t.val)
      (s.setGroup ((g.link c r.val).transfer c.exec fun l => readV64 s g l t.val))

/-- RET (R174). -/
def execRet (r : VReg) (s : State) : Host.Outcome State Fault Refusal :=
  issue (.ret r) s fun g c =>
    s.checked g c (some 2) true (pairOf s g c r.val)
      (s.setGroup (g.transfer c.exec fun l => readV64 s g l r.val))

/-- LPAD (R176): no effect. -/
def execLpad (k : Fin 4) (s : State) : Host.Outcome State Fault Refusal :=
  issue (.lpad k) s fun _ _ => s

/-! ### Rejoin masks -/

/-- KSET (R177). -/
def execKset (k : KReg) (s : State) : Host.Outcome State Fault Refusal :=
  issueGroup (.kset k) s fun g c => g.setK k.val c.exec

/-- A lane waits at a JOIN's word (R22). -/
def Lane.joinsAt (x : Lane) (site : DWord) : Bool :=
  match x.st with
  | .join _ a _ _ => a == site
  | _ => false

/-- The JOIN at an address can be released: every lane its mask names waits there or has exited (R22)
(DEDUCED, log entry 88). -/
def Group.joinReady (g : Group) (site : DWord) : Bool :=
  match g.lanes.find? fun x => x.joinsAt site with
  | none => false
  | some x => match x.st with
    | .join k _ _ _ => (lanesOf (g.kMask k.val)).all fun l => !(g.lane l).live || (g.lane l).joinsAt site
    | _ => false

/-- The lanes that wait at a JOIN go on as one path (R22). -/
def Group.releaseJoin (g : Group) (site : DWord) : Group :=
  { g with lanes := g.lanes.map fun x => if x.joinsAt site then { x with st := .runnable } else x }

/-- JOIN (R178): the lanes wait; with no live lane named they go on at once (DEDUCED, log entry 88). -/
def execJoin (k : KReg) (s : State) : Host.Outcome State Fault Refusal :=
  issueGroup (.join k) s fun g c =>
    if g.kMask k.val &&& g.live = 0 then g
    else
      let g := (g.transfer c.exec fun _ => c.nextAt).modLanes c.exec fun _ x =>
        { x with st := .join k c.word c.header g.joins }
      { g with joins := g.joins + 1 }

/-- JOIN_RELEASE (R22). -/
def execJoinRelease (u : Nat) (a : DWord) (s : State) : Host.Outcome State Fault Refusal :=
  match s.group? u with
  | none => .next s
  | some g => .next (if g.clause.isNone ∧ g.joinReady a then s.setGroup (g.releaseJoin a) else s)

/-- The addresses of the JOINs at which lanes wait. -/
def Group.joinSites (g : Group) : List DWord :=
  (g.lanes.filterMap fun x => match x.st with | .join _ a _ _ => some a | _ => none).dedup

/-- Every live lane waits at a JOIN and none of them can be released (R23). A lane at a REPACK waits at no
JOIN (DESIGN CHOICE, log entry 125). -/
def Group.joinStuck (g : Group) : Bool :=
  decide (g.live ≠ 0) &&
  ((lanesOf g.live).all fun l => match (g.lane l).st with | .join _ _ _ _ => true | _ => false) &&
  !(g.joinSites.any fun a => g.joinReady a)

/-- The number of a lane's arrival at the JOIN where it waits. -/
def Lane.arrival (x : Lane) : Option Nat :=
  match x.st with
  | .join _ _ _ n => some n
  | _ => none

/-- The lanes of the path that arrived last at a JOIN (R23). -/
def Group.lastJoined (g : Group) : Mask :=
  match (g.lanes.filterMap Lane.arrival).max? with
  | none => 0
  | some n => g.maskWhere fun x => x.arrival == some n

/-- The trap JOINDEAD on the path that arrived last, at its JOIN (R23); with a full fault buffer it is raised
later (DESIGN CHOICE, log entry 125). -/
def State.joinDead (s : State) (u : Nat) : State :=
  match s.group? u with
  | none => s
  | some g =>
    let m := g.lastJoined
    match (g.lane (maskLowest m)).st with
    | .join _ site header _ =>
      if g.clause.isNone ∧ g.joinStuck then
        let r := s.recordOf g { code := .joindead } m header site
        let pc (l : Nat) : DWord := (g.lane l).pc
        match s.deliver g r m pc pc with
        | none => s
        | some (n, s) => s.onRetry n u m (.wait ((lanesOf m).map fun l => (l, (g.lane l).st)))
      else s
    | _ => s

/-! ### Exit -/

/-- EXIT (R179). -/
def execExitLanes (s : State) : Host.Outcome State Fault Refusal :=
  issue .exitLanes s fun g c =>
    (s.setGroup (g.modClause fun x => { x with moved := x.moved ||| c.exec })).exitLanes g.uid c.exec

/-! ### Traps, breakpoints, service calls -/

/-- TRAP (R181): the lanes that are no helpers raise USER with the code. -/
def execTrap (x : BitVec 14) (s : State) : Host.Outcome State Fault Refusal :=
  issue (.trap x) s fun g c =>
    let m := g.noHelpers c.exec
    if m = 0 then s else s.trapAt g c (.trap x) { code := .user, aux := x.setWidth 32 } m

/-- Lanes park at the next clause. -/
def Group.parkNext (g : Group) (c : Clause) (m : Mask) (p : Park) : Group :=
  (g.transfer m fun _ => c.nextAt).modLanes m fun _ x => { x with st := .parked p }

/-- The payload of a BREAK event (R411). -/
def breakBytes (s : State) (g : Group) (c : Clause) (x : BitVec 14) (m : Mask) : List Byte :=
  natLe 4 x.toNat ++ natLe 4 (((s.block? g.block).map (·.bid)).getD 0) ++ natLe 4 g.gid ++ natLe 4 0 ++
    natLe 8 m.toNat ++ natLe 8 c.header.toNat ++ nameBytes (g.lane (maskLowest m)).lin

/-- BRK (R182): with debug enabled the group stops at the next clause; the BREAK record goes to the service,
which reports it (R368-R370); a full fault buffer holds the clause (R367). -/
def execBrk (x : BitVec 14) (s : State) : Host.Outcome State Fault Refusal :=
  issue (.brk x) s fun g c =>
    let m := g.noHelpers c.exec
    if m = 0 ∨ (s.ctxOf g).ccb.debug = false then s
    else
      match s.enterRecord (s.recordOf g { code := .brk, aux := x.setWidth 32 } m c.header c.word) with
      | none => s.holdClause g.uid .faultBuffer
      | some (n, _, s') =>
        let s' := s'.modGroup g.uid fun y => y.parkNext c c.exec (.brk n)
        s'.sendEvent (s.slotOf g) 0x43 (breakBytes s g c x m) (some (.brk n))

/-- A breakpoint has stopped the group (R182). -/
def Group.broken (g : Group) : Bool :=
  g.lanes.any fun x => match x.st with | .parked (.brk _) => true | _ => false

/-- The payload of an SVC event (R411). -/
def svcBytes (s : State) (g : Group) (x : BitVec 14) (m : Mask) : List Byte :=
  natLe 4 x.toNat ++ natLe 4 g.svcarg.toNat ++ natLe 4 (((s.block? g.block).map (·.bid)).getD 0) ++
    natLe 4 g.gid ++ natLe 8 m.toNat ++ nameBytes (g.lane (maskLowest m)).lin

/-- SVC (R183): the request goes to the service and the path parks; in a replay nothing happens (R325). -/
def execSvc (x : BitVec 14) (s : State) : Host.Outcome State Fault Refusal :=
  issue (.svc x) s fun g c =>
    if g.replay then s
    else
      let ev := s.fresh
      let s := s.setGroup (g.parkNext c c.exec (.svc ev))
      s.sendEvent (s.slotOf g) 0x41 (svcBytes s g x c.exec) (some (.svc g.uid c.exec))

/-- NOP (R184): no effect (R154). -/
def execNop (s : State) : Host.Outcome State Fault Refusal := issue .nop s fun _ _ => s

/-- PERF (R185); in a replay nothing happens (R325). -/
def execPerf (a : SReg) (s : State) : Host.Outcome State Fault Refusal :=
  issue (.perf a) s fun g _ =>
    if g.replay then s
    else s.modCtx (s.slotOf g) fun c =>
      { c with ccb := { c.ccb with perfReq := min 7 (readS s g a.val).toNat } }

/-! ### LAUNCH -/

/-- The number of a child: the block's sequence number, or LAUNCH.ord's (R37). -/
def childItem (s : State) (g : Group) (l : Nat) (ord : Bool) : Nat :=
  if ord then (g.lane l).launches % 65536 * 65536 + (g.gid * 64 + l) % 65536
  else ((s.block? g.block).map (·.launchSeq)).getD 0

/-- The draw whose partial-render record lies at an address (R296). -/
def State.renderAt (s : State) (slot : Nat) (a : DWord) : Option Draw :=
  s.draws.find? fun d => d.slot == slot && d.recAt == a

/-- A LAUNCH of a partial-render record (R297): a lane of a bin block of the draw requests a partial render
and its barrier counts one more member; from other code the record is refused. -/
def State.askRender (s : State) (g : Group) (x : Lane) (d : Draw) (name : Name) : State :=
  let mine : Bool := match s.block? g.block with
    | some b => decide (b.kind = .bin d.uid)
    | none => false
  if mine then
    (s.modDraw d.uid fun d => { d with requests := d.requests ++ [some g.block] }).modBlock g.block
      fun b => { b with renders := b.renders + 1 }
  else (s.takeTask (s.who g) (List.replicate 64 0) name x.watch).2

/-- One lane's child (R187): its record is read, the child named and handed to the task scheduler. A LAUNCH of a
partial-render record takes a sequence number like any other (DEDUCED, log entry 143). -/
def launchOp (ord : Bool) (v : VReg) : LaneOp :=
  { kind := .store
    run := fun s g l =>
      let w := s.who g
      let a := readV64 s g l v.val
      let x := g.lane l
      let name := taskName x.lin x.linset (childItem s g l ord)
      let s' := if ord then s else s.modBlock g.block fun b => { b with launchSeq := (b.launchSeq + 1) % 2 ^ 32 }
      match s.renderAt w.slot a with
      | some d => .ok { state := s'.askRender g x d name }
      | none =>
        match s.loadRecord w a.toNat 64 with
        | .error (c, lv, a) => .error { code := c, addr := a, level := lv }
        | .ok bytes => .ok { state := (s'.takeTask w bytes name x.watch).2 }
    span := fun _ _ _ => [] }

/-- Lanes of a group have executed one more LAUNCH.ord, which numbers the next one (R37); none while the clause
waits. -/
def State.countOrd (s : State) (u : Nat) (m : Mask) : State :=
  s.modGroup u fun g =>
    if (g.clause.bind fun c => c.wait).isSome then g
    else g.modLanes m fun _ x => { x with launches := x.launches + 1 }

/-- LAUNCH and LAUNCH.ord (R187): a bad address in any lane traps LAUNCHARG there and no child is made;
in a replay nothing happens (R325). -/
def launch (i : Instr) (ord : Bool) (v : VReg) (s : State) : Host.Outcome State Fault Refusal :=
  issue i s fun g c =>
    let m := g.noHelpers c.exec
    let bad := maskOf ((lanesOf m).filter fun l =>
      let a := readV64 s g l v.val
      !canonical a || decide (a.toNat % 64 ≠ 0))
    if g.replay ∨ m = 0 then s
    else if bad ≠ 0 then s.trapAt g c i { code := .launcharg } bad
    else if ord then (runLanes s g c i (launchOp ord v)).countOrd g.uid m
    else runLanes s g c i (launchOp ord v)

/-- LAUNCH (R187) (DEDUCED, log entry 75). -/
def execLaunch (v : VReg) (s : State) : Host.Outcome State Fault Refusal :=
  launch (.launch v) false v s

/-- LAUNCH.ord (R187). -/
def execLaunchOrd (v : VReg) (s : State) : Host.Outcome State Fault Refusal :=
  launch (.launchOrd v) true v s

end Sys2Proof.Machine
end

