-- ==== Sys2Proof/Machine/Routes.lean ====
section
/-! DEFINITION. Routes: descriptors and the route cache (07 R188), RENQ and RDEQ (R189-R191), their wakes
(02 R35), enabling and disabling (22 R415), and a frame's presentation (11 R312, 20 R395). -/

namespace Sys2Proof.Machine

/-- A route descriptor as memory holds it (R188). -/
structure RouteDesc where
  ring : DWord
  log2 : Nat
  pod  : Bool
  en   : Bool
  head : Word
  tail : Word
  /-- A field breaks R191. -/
  bad  : Bool
  deriving DecidableEq, Repr

/-- The fields of a descriptor's 32 bytes. -/
def parseRoute (b : List Byte) : RouteDesc :=
  let w2 := fieldOf b 8 4
  let log2 := bfield w2 0 5
  let ring := fieldOf b 0 8
  { ring := BitVec.ofNat 64 ring, log2 := log2, pod := w2.testBit 30, en := w2.testBit 31
    head := BitVec.ofNat 32 (fieldOf b 16 4), tail := BitVec.ofNat 32 (fieldOf b 20 4)
    bad := decide (log2 < 4) || decide (24 < log2) || decide (ring % 64 ≠ 0) ||
      decide (bfield w2 5 25 ≠ 0) || decide (fieldOf b 12 4 ≠ 0) || decide (fieldOf b 24 8 ≠ 0) }

/-- Virtual address of a route's descriptor. -/
def Ctx.routeAddr (c : Ctx) (r : Nat) : Nat := c.ccb.routeBase.toNat + 32 * r

/-- Read a route's descriptor. -/
def State.routeDesc (s : State) (w : Who) (r : Nat) : Except FaultAt RouteDesc :=
  match s.loadRecord { w with replay := none } ((s.ctx w.slot).routeAddr r) 32 with
  | .ok b => .ok (parseRoute b)
  | .error (c, lv, a) => .error { code := c, addr := a, level := lv }

/-- The route cache's entry for a route; one not loaded takes HEAD and TAIL from the descriptor. -/
def Ctx.route (c : Ctx) (r : Nat) (d : RouteDesc) : RouteCache :=
  ((c.routes.find? fun e => e.1 == r).map (·.2)).getD
    { head := d.head, tail := d.tail, waitEntry := [], waitSpace := [] }

/-- Put an entry in the route cache. -/
def putRoute (r : Nat) (x : RouteCache) : Table RouteCache → Table RouteCache
  | [] => [(r, x)]
  | (k, y) :: t => if r < k then (r, x) :: (k, y) :: t
    else if r = k then (r, x) :: t else (k, y) :: putRoute r x t

/-- Replace a route's entry. -/
def State.setRoute (s : State) (slot r : Nat) (x : RouteCache) : State :=
  s.modCtx slot fun c => { c with routes := putRoute r x c.routes }

/-- Entries a route holds. -/
def RouteCache.count (x : RouteCache) : Nat := (x.tail - x.head).toNat

/-- Address of ring entry i. -/
def RouteDesc.entryAt (d : RouteDesc) (i : Word) : DWord := addr64 d.ring (8 * (i.toNat % 2 ^ d.log2))

/-- The entry that the compositor presents on route 4,088 + h becomes the head's new frame, and the hold
of that head ends (R312, R395). -/
def State.present (s : State) (slot r : Nat) (e : DWord) : State :=
  if r < 4088 ∨ 4092 ≤ r then s
  else
    let h := r - 4088
    let x := s.head h
    if x.ctl.getLsbD 0 ∧ bfield x.ctl.toNat 8 6 = slot then
      { s.modHead h fun x => { x with fresh := true, next := e } with
        clusters := s.clusters.map fun (n, c) => (n, { c with holds := c.holds.filter fun k => k ≠ h }) }
    else s

/-- Append one entry (R189): none when the route is full. -/
def State.append (s : State) (w : Who) (r : Nat) (d : RouteDesc) (e : DWord) :
    Except FaultAt (Option State) :=
  let x := (s.ctx w.slot).route r d
  if 2 ^ d.log2 ≤ x.count then .ok none
  else
    match s.storeGlobal { w with replay := none } (d.entryAt x.tail) (natLe 8 e.toNat) .write with
    | .error f => .error f
    | .ok ps =>
      .ok (some ((s.perform { w with replay := none } ps).setRoute w.slot r { x with tail := x.tail + 1 }))

/-- Take the oldest entry (R190): none when the route is empty. -/
def State.take (s : State) (w : Who) (r : Nat) (d : RouteDesc) : Except FaultAt (Option (DWord × State)) :=
  let x := (s.ctx w.slot).route r d
  if x.count = 0 then .ok none
  else
    match s.loadGlobal { w with replay := none } (d.entryAt x.head) 8 .read with
    | .error f => .error f
    | .ok bs => .ok (some (BitVec.ofNat 64 (leNat bs), s.setRoute w.slot r { x with head := x.head + 1 }))

/-! ### RENQ and RDEQ -/

/-- A ring or descriptor access of the instruction fails: a group-level access of it (R191, R226). -/
def State.routeFault (s : State) (g : Group) (c : Clause) (i : Instr) (f : FaultAt) (m : Mask) : State :=
  if f.code.resolvable then s.holdFault g c { f with source := 1 } m
  else s.deferFault g i f m (c.again_ g m)

/-- Append the entries of lanes in order: the state, and the lanes left with a fault or for want of
space. -/
def appendLanes (w : Who) (r : Nat) (d : RouteDesc) :
    List (Nat × DWord) → State → State × List (Nat × DWord) × Option FaultAt
  | [], s => (s, [], none)
  | (l, e) :: es, s =>
    match s.append w r d e with
    | .ok (some s) => appendLanes w r d es (s.present w.slot r e)
    | .ok none => (s, (l, e) :: es, none)
    | .error f => (s, (l, e) :: es, some f)

/-- RENQ (R189): the lanes append in order, and those that find the route full park the path
(DEDUCED, log entry 75). -/
def execRenq (r : SReg) (e : VReg) (s : State) : Host.Outcome State Fault Refusal :=
  issue (.renq r e) s fun g c =>
    let i : Instr := .renq r e
    let n := (readS s g r.val).toNat
    let w := s.who g
    let m := g.noHelpers c.exec
    if g.replay ∨ m = 0 then s
    else if 4096 ≤ n then s.trapAt g c i { code := .route } m
    else
      match s.routeDesc w n with
      | .error f => s.routeFault g c i f c.exec
      | .ok d =>
        if !d.en || d.bad then s.trapAt g c i { code := .route } m
        else
          let todo := (lanesOf (m &&& ~~~ c.partialDone)).map fun l => (l, readV64 s g l e.val)
          match appendLanes w n d todo s with
          | (s, [], _) => s
          | (s, left, some f) =>
            let m := maskOf (left.map (·.1))
            let s := s.modGroup g.uid fun x => x.modClause fun c =>
              { c with partialDone := c.exec &&& ~~~ m }
            s.routeFault g c i f m
          | (s, left, none) =>
            let (k, s) := s.newId
            let x := (s.ctx w.slot).route n d
            let s := s.setRoute w.slot n { x with waitSpace := x.waitSpace ++ [k] }
            s.modGroup g.uid fun y => (y.transfer c.exec fun _ => c.nextAt).modLanes c.exec fun l z =>
              { z with st := .parked (.routeSpace n k ((left.find? fun p => p.1 == l).map (·.2)) c.header c.word) }

/-- RDEQ (R190): one entry for the path, which parks behind those that wait while there is none; in a
replay it takes nothing and delivers 0 (R325). -/
def execRdeq (d r : SReg) (s : State) : Host.Outcome State Fault Refusal :=
  issue (.rdeq d r) s fun g c =>
    let i : Instr := .rdeq d r
    let n := (readS s g r.val).toNat
    let w := s.who g
    if g.replay then s.setGroup (g.writeS64 d.val 0)
    else if 4096 ≤ n then s.trap g c i .route
    else
      match s.routeDesc w n with
      | .error f => s.routeFault g c i f c.exec
      | .ok q =>
        if !q.en || q.bad then s.trap g c i .route
        else
          let x := (s.ctx w.slot).route n q
          let park : State :=
            let (k, s) := s.newId
            let s := s.setRoute w.slot n { x with waitEntry := x.waitEntry ++ [k] }
            s.modGroup g.uid fun y => y.parkNext c c.exec (.route n k (y.sbase + d.val) c.header c.word)
          if x.waitEntry ≠ [] then park
          else
            match s.take w n q with
            | .error f => s.routeFault g c i f c.exec
            | .ok none => park
            | .ok (some (e, s)) => s.modGroup g.uid fun y => y.writeS64 d.val e

/-! ### Wakes -/

/-- A lane of a park for space has appended its entry. -/
def LaneState.appended : LaneState → LaneState
  | .parked (.routeSpace r k _ h w) => .parked (.routeSpace r k none h w)
  | x => x

/-- The lanes of a group that a park holds. -/
def Group.parkMask (g : Group) (k : Nat) : Mask :=
  g.maskWhere fun x => match x.st with
    | .parked (.route _ n _ _ _) | .parked (.routeSpace _ n _ _ _) => n == k
    | _ => false

/-- The group of a park. -/
def State.parkGroup (s : State) (k : Nat) : Option Group := s.groups.find? fun g => decide (g.parkMask k ≠ 0)

/-- An unanswered record holds a park's lanes (R191). -/
def State.parkFaulted (s : State) (g : Group) (m : Mask) : Bool :=
  s.records.any fun r => r.who.any fun (u, k) => u == g.uid && decide (k &&& m ≠ 0)

/-- Wake the lanes of a park. -/
def Group.wakePark (g : Group) (k : Nat) : Group :=
  g.modLanes (g.parkMask k) fun _ x => { x with st := .runnable }

/-- The destination pair of a park that ends without an entry is Undefined (R371). -/
def Group.spoilPark (s : State) (g : Group) (k : Nat) : Group :=
  match (g.lane (maskLowest (g.parkMask k))).st with
  | .parked (.route _ _ d _ _) => (g.putS d (s.undef (s.slotOf g) .sreg d)).putS (d + 1) (s.undef (s.slotOf g) .sreg (d + 1))
  | _ => g

/-- Of a park: whether its instruction is group-level, its clause header and its word (R369). -/
def Group.parkHome (g : Group) (k : Nat) : Nat × DWord × DWord :=
  match (g.lane (maskLowest (g.parkMask k))).st with
  | .parked (.route _ _ _ h w) => (1, h, w)
  | .parked (.routeSpace _ _ _ h w) => (0, h, w)
  | _ => (0, 0, 0)

/-- A parked path's access fails: a record holds it, and the access is made again once answered (R191).
A descriptor that breaks R191 raises ROUTE. -/
def State.parkFail (s : State) (g : Group) (k : Nat) (f : FaultAt) : State :=
  let m := g.parkMask k
  let (src, header, word) := g.parkHome k
  if f.code.resolvable then
    match s.fileRecord (s.recordOf g { f with source := 1 } m header word) with
    | some (_, s) => s
    | none => s
  else
    let pc (l : Nat) : DWord := (g.lane l).pc
    match (s.setGroup (g.spoilPark s k)).deliver g (s.recordOf g { f with source := src } m header word) m pc pc with
    | some (n, s) => (s.onRetry n g.uid m (.wait ((lanesOf m).map fun l => (l, (g.lane l).st)))).modCtx (s.slotOf g)
        fun c => c.unpark [k]
    | none => s

/-- The scalar pair where a park's entry goes. -/
def Group.parkDst (g : Group) (k : Nat) : Nat :=
  match (g.lane (maskLowest (g.parkMask k))).st with
  | .parked (.route _ _ d _ _) => d
  | _ => 0

/-- ROUTE_ENTRY_WAKE (R35, R190): the first path parked on RDEQ takes an entry of an enabled route. -/
def execRouteEntryWake (c : Slot) (r : BitVec 12) (s : State) : Host.Outcome State Fault Refusal :=
  let n := r.toNat
  match (s.ctx c.val).routes.find? fun e => e.1 == n with
  | some (_, x) =>
    match x.waitEntry with
    | [] => .next s
    | k :: ks =>
      match s.parkGroup k with
      | none => .next (s.setRoute c.val n { x with waitEntry := ks })
      | some g =>
        let w := { s.who g with replay := none }
        if s.parkFaulted g (g.parkMask k) then .next s
        else
          match s.routeDesc w n with
          | .error f => .next (s.parkFail g k f)
          | .ok q =>
            if !q.en then .next s
            else if q.bad then .next (s.parkFail g k { code := .route })
            else
              match s.take w n q with
              | .error f => .next (s.parkFail g k f)
              | .ok none => .next s
              | .ok (some (e, s)) =>
                let s := s.modCtx c.val fun c => c.unpark [k]
                let d := g.parkDst k
                .next (s.setGroup (((g.putS d (lo32 e)).putS (d + 1) (hi32 e)).wakePark k))
  | none => .next s

/-- The entries a park has still to append, by lane. -/
def Group.parkLeft (g : Group) (k : Nat) : List (Nat × DWord) :=
  (lanesOf (g.parkMask k)).filterMap fun l => match (g.lane l).st with
    | .parked (.routeSpace _ _ (some e) _ _) => some (l, e)
    | _ => none

/-- ROUTE_SPACE_WAKE (R189): the first path parked for space appends while there is space, and goes on
once every lane has appended. -/
def execRouteSpaceWake (c : Slot) (r : BitVec 12) (s : State) : Host.Outcome State Fault Refusal :=
  let n := r.toNat
  match (s.ctx c.val).routes.find? fun e => e.1 == n with
  | some (_, x) =>
    match x.waitSpace with
    | [] => .next s
    | k :: ks =>
      match s.parkGroup k with
      | none => .next (s.setRoute c.val n { x with waitSpace := ks })
      | some g =>
        let w := { s.who g with replay := none }
        if s.parkFaulted g (g.parkMask k) then .next s
        else
          match s.routeDesc w n with
          | .error f => .next (s.parkFail g k f)
          | .ok q =>
            if !q.en then .next s
            else if q.bad then .next (s.parkFail g k { code := .route })
            else
              let (s, left, f) := appendLanes w n q (g.parkLeft k) s
              let left := left.map (·.1)
              let s := s.modGroup g.uid fun y => y.modLanes (y.parkMask k) fun l z =>
                if left.contains l then z else { z with st := z.st.appended }
              if left = [] then
                let s := s.modCtx c.val fun c => c.unpark [k]
                .next (s.modGroup g.uid fun y => y.wakePark k)
              else
                match f with
                | none => .next s
                | some f => .next (s.parkFail g k f)
  | none => .next s

/-! ### Enabling and disabling -/

/-- Write the EN bit and the counts of a descriptor, when they can be written. -/
def State.writeDesc (s : State) (slot r : Nat) (en : Bool) (counts : Option (Word × Word)) : State :=
  let w : Who := { cl := 0, slot := slot }
  let at_ := (s.ctx slot).routeAddr r
  match s.quietLoad w (at_ + 8) 4 with
  | none => s
  | some b =>
    let v := leNat b % 2 ^ 31 + if en then 2 ^ 31 else 0
    let s := (s.quietStore w (at_ + 8) (natLe 4 v)).getD s
    match counts with
    | none => s
    | some (h, t) => (s.quietStore w (at_ + 16) (natLe 4 h.toNat ++ natLe 4 t.toNat)).getD s

/-- ROUTE_ENABLE (R415): the route cache loads HEAD and TAIL; the parks of the route stay in order (R191)
(DEDUCED, log entry 83). -/
def execRouteEnable (c : Slot) (r : BitVec 12) (s : State) : Host.Outcome State Fault Refusal :=
  let n := r.toNat
  let s := s.writeDesc c.val n true none
  match s.routeDesc { cl := 0, slot := c.val } n with
  | .error _ => .next s
  | .ok d =>
    let x := (s.ctx c.val).route n d
    .next (s.setRoute c.val n { x with head := d.head, tail := d.tail })

/-- ROUTE_DISABLE (R415): HEAD and TAIL are written back and EN becomes 0 (DEDUCED, log entry 83). -/
def execRouteDisable (c : Slot) (r : BitVec 12) (s : State) : Host.Outcome State Fault Refusal :=
  let n := r.toNat
  .next (s.writeDesc c.val n false
    (((s.ctx c.val).routes.find? fun e => e.1 == n).map fun e => (e.2.head, e.2.tail)))

/-- ROUTE_WRITEBACK_DONE (R415): ROUTESTAT.BUSY no longer counts the route. -/
def execRouteWritebackDone (c : Slot) (r : BitVec 12) (s : State) : Host.Outcome State Fault Refusal :=
  .next { s with busyRoutes := s.busyRoutes.filter fun b => b ≠ (c.val, r.toNat) }

/-! ### Enqueues from outside -/

/-- An enqueue that no instruction makes: of the service, a peer or a display head (R191, R312, R408). -/
inductive Enqueued where
  | ok (s : State)
  | full
  | refused
  | failed
  deriving Repr

/-- Append one entry for a party outside the groups. -/
def State.enqueue1 (s : State) (slot r : Nat) (e : DWord) : Enqueued :=
  let w : Who := { cl := 0, slot := slot }
  if 4096 ≤ r then .refused
  else
    match s.routeDesc w r with
    | .error _ => .failed
    | .ok d =>
      if !d.en || d.bad then .refused
      else
        match s.append w r d e with
        | .error _ => .failed
        | .ok none => .full
        | .ok (some s) => .ok s

/-- PEER_ENQUEUE (R418): a peer's entry is appended unless the slot is not LIVE, the route's POD is 0, or
the route cannot take it; the refusal is reported to the peer's own service. -/
def execPeerEnqueue (c : Slot) (r : BitVec 12) (e : DWord) (s : State) : Host.Outcome State Fault Refusal :=
  match s.routeDesc { cl := 0, slot := c.val } r.toNat with
  | .error _ => .next s
  | .ok d =>
    if (s.ctx c.val).state = .free ∨ d.pod = false then .next s
    else
      match s.enqueue1 c.val r.toNat e with
      | .ok s => .next s
      | _ => .next s

end Sys2Proof.Machine
end

