-- ==== Sys2Proof/Machine/Copies.lean ====
section
/-! DEFINITION. Copies between global memory and scratchpad: CPA, CPB and their caravans (03 R59-R63,
09 R241, R242), FEMARK (R243) and the wakes of full bits (R61). -/

namespace Sys2Proof.Machine

/-- A per-lane code of a group-level instance, delivered at the end of its clause (R224, R226, R371). -/
def State.late (s : State) (g : Group) (i : Instr) (f : FaultAt) : State :=
  match g.clause with
  | none => s
  | some c => s.deferFault g i f c.exec (c.again_ g c.exec)

/-! ### Caravans -/

/-- What the caravans of one instance share. -/
structure CopyOf where
  group : Nat
  block : Nat
  flag  : Option (Fin 12)
  mask  : Mask
  word  : DWord
  header : DWord
  cpb   : Option (DWord × Word × Word) := none
  deriving DecidableEq, Repr

/-- The instance in flight. -/
def Group.copyOf (g : Group) (c : Clause) : CopyOf :=
  { group := g.uid, block := g.block, flag := c.tied, mask := c.exec, word := c.word, header := c.header }

/-- Merge parts into caravans, one per 128-byte global line (R59). -/
def State.addCaravans (s : State) (k : CopyOf) (out : Bool) (ps : List Part) : State :=
  let lines := (ps.map fun p => p.ga / 128).dedup
  lines.foldl (fun s ln =>
    let (n, s) := s.newId
    { s with caravans := s.caravans ++ [
        { num := n, group := k.group, block := k.block, flag := k.flag, out := out
          parts := ps.filter fun p => p.ga / 128 == ln, mask := k.mask, word := k.word
          header := k.header, cpb := k.cpb, record := none }] }) s

/-- The copies of an instance are pending at their destination lines (R60). -/
def State.addPendingAll (s : State) (bu : Nat) (spans : List (Nat × Nat)) : State :=
  s.modBlock bu fun b => spans.foldl (fun b e => b.addPending e.1 e.2) b

/-! ### CPA -/

/-- The two addresses of a lane's copy. -/
def cpaAddrs (s : State) (g : Group) (sz : Nat) (a gl : SReg) (i : VReg) (l : Nat) : Nat × DWord :=
  let x : Int := sext (readV s g l i.val) * sz
  ((addr32 (readS s g a.val) x).toNat, addr64 (readS64 s g gl.val) x)

/-- The checks of a copy before translation (R224, R241): of two misaligned addresses the scratchpad's counts
(DESIGN CHOICE, log entry 129). -/
def cpaForm (s : State) (g : Group) (sz off : Nat) (ga : DWord) : Except FaultAt Unit :=
  let bad : Bool := match s.blockOf g with | some b => b.spadBad off sz | none => true
  if !canonical ga then .error { code := .addrform, addr := ga.toNat }
  else if off % sz ≠ 0 then .error { code := .spadrange, addr := off }
  else if ga.toNat % sz ≠ 0 then .error { code := .align, addr := ga.toNat }
  else if bad then .error { code := .spadrange, addr := off }
  else .ok ()

/-- The bytes of a copy, none for one that a higher lane of the instance also copies (R241)
(DEDUCED, log entry 64). -/
def cpaData (off : Nat) (m : MBytes) (higher : List (Nat × Nat)) : List (Option (Byte × Bool)) :=
  m.mapIdx fun i x => if higher.any fun (o, n) => decide (o ≤ off + i) && decide (off + i < o + n) then none
    else some x

/-- One lane's copy; `exec` are the executing lanes of the instance. -/
def cpaLane (s : State) (g : Group) (sz : Nat) (a gl : SReg) (i : VReg) (exec : Mask) (l : Nat) :
    Except FaultAt Part :=
  let (off, ga) := cpaAddrs s g sz a gl i l
  match cpaForm s g sz off ga with
  | .error f => .error f
  | .ok _ =>
    match s.loadMarked (s.who g) ga sz .read with
    | .error f => .error f
    | .ok m =>
      let higher := ((lanesOf exec).filter fun k => l < k).filterMap fun k =>
        let (o, h) := cpaAddrs s g sz a gl i k
        match cpaForm s g sz o h with | .ok _ => some (o, sz) | .error _ => none
      .ok { lane := l, ga := ga.toNat, off := off, n := sz, data := cpaData off m higher }

/-- The spans of a faulted lane's copy: the scratchpad bytes, which stay pending (R63), and the global bytes that it
has yet to read (R80, N7). -/
def cpaSpans (s : State) (g : Group) (sz : Nat) (a gl : SReg) (i : VReg) (l : Nat) : List (Nat × Nat × Nat × Bool) :=
  let (off, ga) := cpaAddrs s g sz a gl i l
  [(l, off, sz, true), (l, ga.toNat, sz, false)]

/-- The scratchpad part of kept spans. -/
def spadSpans (xs : List (Nat × Nat × Nat × Bool)) : List (Nat × Nat) :=
  (xs.filter fun e => e.2.2.2).map fun e => (e.2.1, e.2.2.1)

/-- The lanes whose copies fault with a resolvable code, and their spans. -/
def settleCpa (s : State) (g : Group) (c : Clause) (i : Instr) (sz : Nat) (a gl : SReg) (x : VReg)
    (fs : List (Nat × FaultAt)) : Option State :=
  match fs with
  | [] => some s
  | (_, f) :: _ =>
    let ls := fs.map (·.1)
    if f.code.resolvable then
      let spans := ls.flatMap (cpaSpans s g sz a gl x)
      let s := s.addPendingAll g.block (spadSpans spans)
      s.park g (g.latched s g.live i) i (Instr.holds i c) f (maskOf ls) c.header c.word spans
    else some (s.deferFault g i f (maskOf ls) (c.again_ g (maskOf ls)))

/-- CPA (R241). -/
def cpa (i : Instr) (sz : Nat) (a gl : SReg) (x : VReg) (s : State) : Host.Outcome State Fault Refusal :=
  issue i s fun g c =>
    let m := g.noHelpers c.exec
    let span (l : Nat) : List Span := [{ addr := (cpaAddrs s g sz a gl x l).2.toNat, n := sz, spad := none }]
    if (lanesOf m).any fun l => s.blocked g i l (span l) then s.holdClause g.uid .answers
    else
      let outs := (lanesOf m).map fun l => (l, cpaLane s g sz a gl x m l)
      let parts := outs.filterMap fun o => match o.2 with | .ok p => some p | .error _ => none
      let s := parts.foldl (fun s p => s.touch (s.who g) p.ga false) s
      let faults := outs.filterMap fun o => match o.2 with | .ok _ => none | .error f => some (o.1, f)
      let s1 := s.addPendingAll g.block (parts.map fun p => (p.off, p.n))
      let s2 := s1.addCaravans (g.copyOf c) false parts
      let done := (faultCodes faults).foldl (fun (t : Option State) k => t.bind fun s =>
        settleCpa s g c i sz a gl x (ofCode faults k)) (some s2)
      done.getD (s.holdClause g.uid .faultBuffer)

/-- CPA.b32 (R241). -/
def execCpaB32 (a gl : SReg) (x : VReg) (s : State) : Host.Outcome State Fault Refusal :=
  cpa (.cpaB32 a gl x) 4 a gl x s

/-- CPA.b64 (R241). -/
def execCpaB64 (a gl : SReg) (x : VReg) (s : State) : Host.Outcome State Fault Refusal :=
  cpa (.cpaB64 a gl x) 8 a gl x s

/-- CPA.b128 (R241). -/
def execCpaB128 (a gl : SReg) (x : VReg) (s : State) : Host.Outcome State Fault Refusal :=
  cpa (.cpaB128 a gl x) 16 a gl x s

/-! ### CPB -/

/-- Cut a range of both spaces into parts, one per 128-byte global line. -/
def cpbParts : Nat → Nat → Nat → Nat → List Part
  | 0, _, _, _ => []
  | fuel + 1, ga, off, n =>
    if n = 0 then []
    else
      let k := min n (128 - ga % 128)
      { lane := 64, ga := ga, off := off, n := k, data := [] } :: cpbParts fuel (ga + k) (off + k) (n - k)

/-- Read the global bytes of inbound parts. -/
def State.fillParts (s : State) (w : Who) : List Part → Except FaultAt (List Part)
  | [] => .ok []
  | p :: ps =>
    match s.loadRun w .read (p.n + 1) p.ga p.n with
    | .error (c, lv, a) => .error { code := c, addr := a, level := lv }
    | .ok m =>
      match s.fillParts w ps with
      | .error f => .error f
      | .ok rest => .ok ({ p with data := m.map some } :: rest)

/-- Check the global destination of outbound parts. -/
def State.checkParts (s : State) (w : Who) : List Part → Option FaultAt
  | [] => none
  | p :: ps =>
    match s.storeRun w (p.n + 1) p.ga (mbClean (List.replicate p.n 0)) with
    | .error (c, lv, a) => some { code := c, addr := a, level := lv, write := true }
    | .ok _ => s.checkParts w ps

/-- The operands of a CPB: its direction, global address, scratchpad offset and byte count. -/
def cpbArgs (s : State) (g : Group) (d a n : SReg) : Bool × DWord × Nat × Nat :=
  let w := readS s g n.val
  let out := w.getLsbD 31
  let gl := if out then d else a
  let sp := if out then a else d
  (out, readS64 s g gl.val, (readS s g sp.val).toNat, bfield w.toNat 0 21)

/-- A CPB in flight, with the operands that its caravans keep (R242, R357). -/
def CopyOf.withCpb (k : CopyOf) (out : Bool) (ga : DWord) (off n : Nat) : CopyOf :=
  { k with cpb := some (ga, BitVec.ofNat 32 off, BitVec.ofNat 32 ((if out then 2 ^ 31 else 0) + n)) }

/-- Start the caravans of a CPB, or answer its fault (R226, R242) (DEDUCED, log entry 64). -/
def cpbStart (s : State) (g : Group) (k : CopyOf) (out : Bool) (ga off n : Nat) : Except FaultAt State :=
  let ps := cpbParts (n / 16 + 2) ga off n
  if out then
    match s.checkParts (s.who g) ps with
    | some f => .error f
    | none => .ok (s.addCaravans k true ps)
  else
    match s.fillParts (s.who g) ps with
    | .error f => .error f
    | .ok ps => .ok ((s.touchRun (s.who g) ga n).addCaravans k false ps)

/-- CPB (R242): a copy out of scratchpad parks the group while a source line is empty. -/
def execCpb (d a n : SReg) (s : State) : Host.Outcome State Fault Refusal :=
  issue (.cpb d a n) s fun g c =>
    let i : Instr := .cpb d a n
    let w := readS s g n.val
    let (out, ga, off, k) := cpbArgs s g d a n
    let gl := if out then d else a
    let bad : Bool := match s.blockOf g with
      | some b => decide (b.spadSize < off + k)
      | none => true
    let need := s.emptyLines [{ addr := off, n := k, spad := some g.block }]
    if g.allHelpers c.exec then s
    else if bfield w.toNat 21 10 ≠ 0 ∨ k % 16 ≠ 0 ∨ k = 0 ∨ 1048576 < k ∨ gl.val % 2 = 1 ∨
        ga.toNat % 16 ≠ 0 ∨ off % 16 ≠ 0 then s.trap g c i .memarg
    else if !canonical ga then s.late g i { code := .addrform, addr := ga.toNat, write := out }
    else if bad then s.late g i { code := .spadrange, addr := off, write := (!out) }
    else if s.blockedAll g c i [{ addr := ga.toNat, n := k, spad := none }] then s.holdClause g.uid .answers
    else if out && need != [] then s.holdClause g.uid (.line need)
    else
      let s1 := if out then s else s.addPendingAll g.block [(off, k)]
      match cpbStart s1 g ((g.copyOf c).withCpb out ga off k) out ga.toNat off k with
      | .ok s => s
      | .error f =>
        let spans := (lanesOf c.exec).flatMap fun l =>
          (l, ga.toNat, k, false) :: if out then [] else [(l, off, k, true)]
        (s1.park g g i (Instr.holds i c) f c.exec c.header c.word spans).getD (s.holdClause g.uid .faultBuffer)

/-! ### Landing -/

/-- A caravan out of scratchpad reads its line once it is full and writes global memory; a fault stops it
until it is answered (R226, R242). -/
def State.landOut (s : State) (k : Caravan) : State :=
  match s.group? k.group, s.block? k.block with
  | some g, some b =>
    let w := s.who g
    let puts : Except FaultAt (List Put) := k.parts.foldl (fun r p => match r with
      | .error f => .error f
      | .ok ps =>
        match s.storeRun w (p.n + 1) p.ga (s.spadBytes b p.off p.n) with
        | .error (c, lv, a) => .error { code := c, addr := a, level := lv, write := true }
        | .ok qs => .ok (ps ++ qs)) (.ok [])
    match puts with
    | .ok ps => { s.perform w ps with caravans := s.caravans.filter fun x => x.num ≠ k.num }
    | .error f =>
      match s.fileRecord (s.recordOf g { f with source := 1 } k.mask k.header k.word) with
      | none => s
      | some (n, s) => { s with caravans := s.caravans.map fun x =>
          if x.num = k.num then { x with record := some n } else x }
  | _, _ => s

/-- CARAVAN_LAND (R60): the caravan's bytes are written and the pending counts fall. -/
def execCaravanLand (n : Nat) (s : State) : Host.Outcome State Fault Refusal :=
  match s.caravans.find? fun k => k.num == n with
  | none => .next s
  | some k =>
    if k.record.isSome then .next s
    else if k.out then
      let full : Bool := match s.block? k.block with
        | some b => k.parts.all fun p => b.linesFull p.off p.n
        | none => false
      if full then .next (s.landOut k) else .next s
    else
      let s1 := k.parts.foldl (fun s p => s.landPart k.block p) s
      .next { s1 with caravans := s1.caravans.filter fun x => x.num ≠ n }

/-! ### Full bits -/

/-- FEMARK (R243). -/
def femark (i : Instr) (a b : SReg) (full : Bool) (s : State) : Host.Outcome State Fault Refusal :=
  issue i s fun g _ =>
    let off := (readS s g a.val).toNat
    let n := (readS s g b.val).toNat
    let size := ((s.blockOf g).map (·.spadSize)).getD 0
    if off % 128 ≠ 0 ∨ n % 128 ≠ 0 ∨ size < off + n then s.late g i { code := .spadrange, addr := off, write := false }
    else s.modBlock g.block fun x => x.mark off n full

/-- FEMARK.full (R243). -/
def execFemarkFull (a b : SReg) (s : State) : Host.Outcome State Fault Refusal :=
  femark (.femarkFull a b) a b true s

/-- FEMARK.empty (R243). -/
def execFemarkEmpty (a b : SReg) (s : State) : Host.Outcome State Fault Refusal :=
  femark (.femarkEmpty a b) a b false s

/-- A line of a block is full; a block that is gone holds nothing up. -/
def State.lineFull (s : State) (e : Nat × Nat) : Bool :=
  match s.block? e.1 with
  | some b => (b.line e.2).full
  | none => true

/-- The clause in flight of a group goes on. -/
def State.wakeClause (s : State) (u : Nat) : State :=
  s.modGroup u fun g => g.modClause fun c => { c with wait := none }

end Sys2Proof.Machine
end

