-- ==== Sys2Proof/Machine/Sync.lean ====
section
/-! DEFINITION. Prefetch and tokens (09 R244-R246), WAITC (R247), BAR (R248), phase barriers (R249-R251),
fences (R252-R254), XALL (R255-R258). -/

namespace Sys2Proof.Machine

/-! ### Tokens -/

/-- A token slot. -/
def Ctx.token_ (c : Ctx) (i : Nat) : Token := tget {} c.tokens i

/-- Change a token slot. -/
def State.modToken (s : State) (slot i : Nat) (f : Token → Token) : State :=
  s.modCtx slot fun c => { c with tokens := tset {} c.tokens i (f (tget {} c.tokens i)) }

/-- The word of a token: its slot, and the slot's generation (R245). -/
def tokenWord (i : Nat) (gen : BitVec 24) : Word := BitVec.ofNat 32 (i + 256 * gen.toNat)

/-- What a token says of its operation (R246). -/
inductive TokenState where
  | pending
  /-- Resolved, with its status. -/
  | done (status : Word)
  /-- Newer than its slot. -/
  | newer
  deriving DecidableEq, Repr

/-- The state of a token of a context (R246). -/
def Ctx.tokenState (c : Ctx) (t : Word) : TokenState :=
  let x := c.token_ (t.toNat % 256)
  let d := x.gen - BitVec.ofNat 24 (t.toNat / 256)
  if d = 0 then (if x.resolved then .done (if x.skipped then 1 else 0) else .pending)
  else if d.toNat ≤ 2 ^ 23 then .done 2
  else .newer

/-- Take the next token slot for an operation; none while its token is unresolved (R245). -/
def State.takeToken (s : State) (slot : Nat) : Option (Nat × Word × State) :=
  let c := s.ctx slot
  let i := c.nextToken
  let x := c.token_ i
  if !x.resolved then none
  else
    let gen := x.gen + 1
    let s := s.modToken slot i fun _ => { gen := gen, resolved := false, skipped := false }
    some (i, tokenWord i gen, s.modCtx slot fun c => { c with nextToken := (i + 1) % 256 })

/-- The lanes of a group that a token holds go on with its status (R246). -/
def Group.wakeToken (g : Group) (c : Ctx) : Group :=
  let hit (x : Lane) : Option (Word × Nat) := match x.st with
    | .parked (.token t d) => match c.tokenState t with
      | .done st => some (st, d)
      | _ => none
    | _ => none
  let g' := (g.lanes.filterMap hit).foldl (fun g e => g.putS e.2 e.1) g
  { g' with lanes := g'.lanes.map fun x => if (hit x).isSome then { x with st := .runnable } else x }

/-- The status that a TOKW of a replayed item waited for joins its trace (R327). -/
def Replay.traceWake (r : Replay) (c : Ctx) (g : Group) : Replay :=
  match (g.lane r.lane).st with
  | .parked (.token t d) => match c.tokenState t with
    | .done st => { r with trace := r.trace ++ [traceEntry r.lastAt.1.toNat 2 d st r.lastAt.2.toNat] }
    | _ => r
  | _ => r

/-- Wake the paths of a context that wait for resolved tokens (R47). -/
def State.wakeTokens (s : State) (slot : Nat) : State :=
  let woken (r : Replay) : Replay := match s.groups.find? fun g => g.replay && r.block == some g.block && r.slot == slot with
    | some g => r.traceWake (s.ctx slot) g
    | none => r
  { s with
    replays := s.replays.map woken
    groups := s.groups.map fun g =>
      if s.slotOf g = slot then g.wakeToken (s.ctx slot) else g }

/-- A token resolves with its status. -/
def State.resolveToken (s : State) (slot i : Nat) (skipped : Bool) : State :=
  (s.modToken slot i fun x => { x with resolved := true, skipped := skipped }).wakeTokens slot

/-- An operation that finishes later begins: its token goes to `d` (R245, R350). -/
def State.startToken (s : State) (g : Group) (i : Instr) (d : SReg) : State :=
  match s.takeToken (s.slotOf g) with
  | none => s.holdClause g.uid .tokenSlot
  | some (k, t, s) =>
    { s.modGroup g.uid fun x => x.writeS d.val t with
      tokenOps := s.tokenOps ++ [(s.slotOf g, k, i, g)] }

/-- PREFR (R244): a count of 0 resolves at once. -/
def execPrefr (d a b : SReg) (s : State) : Host.Outcome State Fault Refusal :=
  issue (.prefr d a b) s fun g c =>
    let ga := readS64 s g a.val
    let n := (readS s g b.val).toNat
    if 2 ^ 26 < n then s.trap g c (.prefr d a b) .memarg
    else if !canonical ga then s.late g (.prefr d a b) { code := .addrform, addr := ga.toNat, write := false }
    else if n = 0 then
      match s.takeToken (s.slotOf g) with
      | none => s.holdClause g.uid .tokenSlot
      | some (k, t, s) => (s.modGroup g.uid fun x => x.writeS d.val t).resolveToken (s.slotOf g) k false
    else s.startToken g (.prefr d a b) d

/-- The 64 KiB units of a range of addresses. -/
def unitsOf (a n : Nat) : List Nat :=
  if n = 0 then [] else List.range' (a / 65536) ((a + n - 1) / 65536 - a / 65536 + 1)

/-- Some page of a range has no translation (R65, R364). -/
def State.skips (s : State) (w : Who) (a n : Nat) : Bool :=
  (unitsOf a n).any fun u => match s.lookup w (u * 65536) with
    | .leaf _ => false
    | _ => true

/-- TOKEN_RESOLVE (R245): a prefetch's lines have arrived or been skipped. -/
def execTokenResolve (c : Slot) (t : BitVec 8) (s : State) : Host.Outcome State Fault Refusal :=
  match s.tokenOps.find? fun o => o.1 == c.val && o.2.1 == t.toNat with
  | some (_, _, .prefr _ a b, g) =>
    let skip := s.skips { s.who g with slot := c.val } (readS64 s g a.val).toNat (readS s g b.val).toNat
    let s := { s with tokenOps := s.tokenOps.filter fun o => !(o.1 == c.val && o.2.1 == t.toNat) }
    let s := s.touchRun { s.who g with slot := c.val } (readS64 s g a.val).toNat (readS s g b.val).toNat
    .next (s.resolveToken c.val t.toNat skip)
  | _ => .next s

/-- TOKW (R246): the status goes to `d`, now or once the token resolves. -/
def execTokw (d a : SReg) (s : State) : Host.Outcome State Fault Refusal :=
  issue (.tokw d a) s fun g c =>
    let t := readS s g a.val
    match (s.ctxOf g).tokenState t with
    | .newer => s.trap g c (.tokw d a) .memarg
    | .done st => s.setGroup (g.writeS d.val st)
    | .pending => s.setGroup (g.parkNext c c.exec (.token t (g.sbase + d.val)))

/-! ### Continuations -/

/-- A continuation of the executing lanes (R64, R247): its scalars are the group's as they read, one that waits for its
flag Undefined (R112); what a thread's records and its replay show goes with it (R320, R322, R325). -/
def Group.cont (s : State) (g : Group) (m : Mask) (label : DWord) (token : Option Word) : Cont :=
  { block := g.block, gid := g.gid, width := g.width, core := g.core, role := g.role, budget := g.budget
    barrier := token.isNone, resolved := false, token := token.getD 0, mask := m, helpers := g.helpers m
    label := label
    lanes := g.lanes.map fun x => { ({} : Lane) with
      lin := x.lin, helper := x.helper, watch := x.watch, gid0 := x.gid0, lane0 := x.lane0, lods := x.lods
      frag := if g.replay then x.frag else none }
    s := g.pend.foldl (fun t p => match p.dst with
      | .s r => tset 0 t r (s.undef (s.slotOf g) .sreg r)
      | _ => t) g.s
    sPoison := g.sPoison, s0 := g.s0, pixel := g.pixel, replay := g.replay }

/-- WAITC (R247): the label is checked, the continuation registered, and the lanes exit. -/
def waitc (i : Instr) (o : BitVec 14) (t : Option SReg) (s : State) : Host.Outcome State Fault Refusal :=
  issue i s fun g c =>
    let label := c.target o
    match s.badTarget { s.who g with replay := none } label none with
    | some (code, lv) =>
      if code.resolvable then
        s.holdFault g c { code := code, addr := label.toNat, level := lv, source := 3 } c.exec
      else s.controlFault g c code c.exec label.toNat
    | none =>
      let k := g.cont s c.exec label (t.map fun r => readS s g r.val)
      let s := { s with conts := s.conts ++ [k] }
      (s.setGroup (g.modClause fun x => { x with moved := x.moved ||| c.exec })).exitLanes g.uid c.exec

/-- WAITC on a token (R247) (DESIGN CHOICE, log entry 128). -/
def execWaitcToken (t : SReg) (o : BitVec 14) (s : State) : Host.Outcome State Fault Refusal :=
  waitc (.waitcToken t o) o (some t) s

/-- WAITC on the block barrier (R247). -/
def execWaitcBarrier (o : BitVec 14) (s : State) : Host.Outcome State Fault Refusal :=
  waitc (.waitcBarrier o) o none s

/-! ### Barriers -/

/-- BAR (R248): the lanes wait, to go on at the next clause. -/
def execBar (s : State) : Host.Outcome State Fault Refusal :=
  issueGroup .bar s fun g c =>
    (g.transfer c.exec fun _ => c.nextAt).modLanes c.exec fun _ x => { x with st := .bar }

/-- The word of a phase barrier (R249): what fails, or its value. -/
def State.phaseWord (s : State) (g : Group) (off : Nat) : Except FaultAt Nat :=
  match s.locate g false off 8 with
  | .error f => .error f
  | .ok (bu, off) =>
    match s.loadSpad bu off 8 with
    | .error f => .error f
    | .ok bs => .ok (leNat bs)

/-- A group-level access of a phase barrier (R61, R224, R226): it waits for its line, and its fault is held
or comes at the clause's end. -/
def phaseAccess (i : Instr) (b : SReg) (s : State) (k : Group → Clause → Nat → Nat → State) :
    Host.Outcome State Fault Refusal :=
  issue i s fun g c =>
    let off := (readS s g b.val).toNat
    let need := s.emptyLines [{ addr := off, n := 8, spad := some g.block }]
    match s.locate g false off 8 with
    | .error f => s.late g i { f with addr := off, write := true }
    | .ok _ =>
      if need ≠ [] then s.holdClause g.uid (.line need)
      else
        match s.phaseWord g off with
        | .error f => s.holdFault g c { f with source := 1 } c.exec
        | .ok w => k g c off w

/-- The word after an arrival (R250). -/
def arrive (w : Nat) : Nat :=
  let phase := bfield w 63 1
  let expect := bfield w 32 16
  let pending := bfield w 0 16
  if pending = 1 then
    (1 - phase) * 2 ^ 63 + w % 2 ^ 63 / 2 ^ 16 * 2 ^ 16 + expect
  else w - 1

/-- MBARA (R250). -/
def execMbara (b : SReg) (s : State) : Host.Outcome State Fault Refusal :=
  phaseAccess (.mbara b) b s fun g c off w =>
    if bfield w 32 16 = 0 ∨ bfield w 0 16 = 0 then s.trap g c (.mbara b) .memarg
    else s.spadStore g.block off (mbClean (natLe 8 (arrive w)))

/-- MBARW (R251): the path parks while PHASE equals the bit. -/
def execMbarw (b p : SReg) (s : State) : Host.Outcome State Fault Refusal :=
  phaseAccess (.mbarw b p) b s fun g c off w =>
    let bit := (readS s g p.val).getLsbD 0
    if w.testBit 63 = bit then s.setGroup (g.parkNext c c.exec (.phase off bit)) else s

/-- A lane parked on a phase barrier may go on: PHASE differs from its bit. -/
def State.phaseDone (s : State) (g : Group) (x : Lane) : Bool :=
  match x.st with
  | .parked (.phase off bit) => match s.phaseWord g off with
    | .ok w => w.testBit 63 != bit
    | .error _ => false
  | _ => false

/-- PHASE_BARRIER_WAKE (R251). -/
def execPhaseBarrierWake (u : Nat) (s : State) : Host.Outcome State Fault Refusal :=
  .next (s.modGroup u fun g => { g with lanes := g.lanes.map fun x =>
    if (s.phaseDone g x) = true then { x with st := .runnable } else x })

/-! ### Fences -/

/-- A fence orders the accesses of its lanes, which this machine performs in order (R252; log entry 30). -/
def fence (i : Instr) (s : State) : Host.Outcome State Fault Refusal := issue i s fun _ _ => s

/-- FENCE.acq (R252) (DEDUCED, log entry 30). -/
def execFenceAcq (w : Scope) (s : State) : Host.Outcome State Fault Refusal := fence (.fenceAcq w) s
/-- FENCE.rel (R252) (DEDUCED, log entry 30). -/
def execFenceRel (w : Scope) (s : State) : Host.Outcome State Fault Refusal := fence (.fenceRel w) s
/-- FENCE.sc (R252). -/
def execFenceSc (w : Scope) (s : State) : Host.Outcome State Fault Refusal := fence (.fenceSc w) s
/-- OPFENCE (R75, R253): it waits for the group's faulted acquires, which hold back what follows them (R78), and its
faulted writes to scratchpad. -/
def execOpfence (s : State) : Host.Outcome State Fault Refusal :=
  issue .opfence s fun g _ =>
    if s.replayed.any fun r => r.group == g.uid && (Instr.acquires r.instr || Instr.fillsSpad r.instr) then
      s.holdClause g.uid .answers
    else s

/-- The physical lines a unit of a slot's space maps in this device's memory, as an interval; another device's
lines are held in no slice here (R240, R254). -/
def State.unitLines (s : State) (w : Who) (u : Nat) : Option (Nat × Nat) :=
  match s.lookup w (u * 65536) with
  | .leaf l => if l.owner = 255 then some ((l.base + u * 65536 % 2 ^ l.log2) / 128, 512) else none
  | _ => none

/-- CFLUSH of the lines of an interval (R254, R379): dirty copies in any slice are written back under their fill
attributes, pinned copies are released (R349). -/
def State.flushLines (s : State) (lo n : Nat) : State :=
  let s := s.writeBack fun f => decide (lo ≤ f.line) && decide (f.line < lo + n)
  { s with clusters := s.clusters.map fun (k, c) => (k, { c with
      pins := c.pins.filter fun p => !(decide (lo ≤ p.2.1) && decide (p.2.1 < lo + n)) }) }

/-- CFLUSH (R254): the lines that meet the range. -/
def execCflush (a b : SReg) (s : State) : Host.Outcome State Fault Refusal :=
  issue (.cflush a b) s fun g c =>
    let i : Instr := .cflush a b
    let ga := readS64 s g a.val
    let n := (readS s g b.val).toNat
    let w := s.who g
    if 2 ^ 30 < n then s.trap g c i .memarg
    else if !canonical ga then s.late g i { code := .addrform, addr := ga.toNat, write := false }
    else if s.blockedAll g c i [{ addr := ga.toNat, n := n, spad := none }] then s.holdClause g.uid .answers
    else
      let lo := ga.toNat / 128
      let hi := if n = 0 then lo else (ga.toNat + n - 1) / 128 + 1
      (unitsOf ga.toNat n).foldl (fun s u => match s.unitLines w u with
        | none => s
        | some (base, _) =>
          let first := max lo (u * 512)
          let last := min hi (u * 512 + 512)
          s.flushLines (base + (first - u * 512)) (last - first)) s

/-! ### XALL -/

/-- An entry of the collective table that XALL refuses (R255, R256): N, the rank, the ids, this device's
pod id, the reserved bytes. -/
def collBad (podId : Option Nat) (b : List Byte) : Bool :=
  let n := fieldOf b 0 1
  let rank := fieldOf b 1 1
  let ids := ((b.drop 16).take n).map fun x => x.toNat
  decide (n < 2) || decide (144 < n) || decide (n ≤ rank) || ids.any (fun i => decide (143 < i)) ||
    decide (ids.dedup.length ≠ n) || decide (ids[rank]? ≠ podId) || decide (podId = none) ||
    ((b.drop 2).take 14).any fun x => x != 0

/-- What the flits of other parties that have come already say of a collective (R257). -/
def State.flitsOf (s : State) (coll : Nat) (seq : Word) : List (Nat × List Nat × Nat) :=
  (s.flits.filter fun f => f.coll == coll && f.seq == seq).map fun f => (f.party, f.ids, f.bytes.toNat)

/-- A party registers: it meets the flits of the others that have come (R257). -/
def State.register (s : State) (x : Xall) : State :=
  { s with
    xalls := s.xalls ++ [{ x with seen := s.flitsOf x.coll x.seq }]
    flits := s.flits.filter fun f => !(f.coll == x.coll && f.seq == x.seq) }

/-- A registration is withdrawn (R258): the others stay registered. -/
def State.withdraw (s : State) (x : Xall) : State :=
  { s with
    xalls := s.xalls.filter fun y => y ≠ x
    flits := s.flits ++ x.seen.map fun (p, ids, n) =>
      { party := p, coll := x.coll, seq := x.seq, bytes := BitVec.ofNat 32 n, ids := ids } }

/-- The eight scalars of an XALL break R255. -/
def xallBad (src dst : DWord) (n coll : Nat) (last : Word) : Bool :=
  decide (src.toNat % 256 ≠ 0) || decide (dst.toNat % 256 ≠ 0) || decide (n % 256 ≠ 0) || n == 0 ||
    decide (2 ^ 26 < n) || decide (64 ≤ coll) || last != 0

/-- XALL (R255-R257): the party registers; in a replay it has status 0 and no effect (R325)
(DEDUCED, log entry 108). -/
def execXall (d a : SReg) (s : State) : Host.Outcome State Fault Refusal :=
  issue (.xall d a) s fun g c =>
    let i : Instr := .xall d a
    let src := readS64 s g a.val
    let dst := readS64 s g (a.val + 2)
    let n := (readS s g (a.val + 4)).toNat
    let coll := (readS s g (a.val + 5)).toNat
    let seq := readS s g (a.val + 6)
    let entry := (s.ctxOf g).ccb.collTab.toNat + 160 * coll
    if g.replay then s.setGroup (g.queueS c.tied d.val [0])
    else if xallBad src dst n coll (readS s g (a.val + 7)) then s.trap g c i .memarg
    else if !canonical src then s.late g i { code := .addrform, addr := src.toNat, write := false }
    else if !canonical dst then s.late g i { code := .addrform, addr := dst.toNat, write := true }
    else
      match s.loadRecord (s.who g) entry 160 with
      | .error (code, lv, at_) => s.holdFault g c { code := code, addr := at_, level := lv, source := 1 } c.exec
      | .ok b =>
        if collBad s.podId b then s.trap g c i .memarg
        else
          let ids := ((b.drop 16).take (fieldOf b 0 1)).map fun x => x.toNat
          let x : Xall := {
            group := g.uid, slot := s.slotOf g, flag := c.tied, dst := g.sbase + d.val, coll := coll
            seq := seq, src := src, dest := dst, bytes := n, ids := ids, rank := fieldOf b 1 1
            seen := [], begun := false, mismatch := false, record := none, cluster := s.clusterOf g
            core := g.core, bid := ((s.block? g.block).map (·.bid)).getD 0, gid := g.gid, block := g.block
            mask := c.exec, header := c.header, word := c.word }
          ((s.setGroup (g.queueS c.tied d.val (owedS s g i))).touchRun (s.who g) entry 160).register x

/-- XALL_REGISTRATION (R256, R257): a party's flit arrives (DEDUCED, log entry 108). -/
def execXallRegistration (m : XallFlit) (s : State) : Host.Outcome State Fault Refusal :=
  if s.xalls.any fun x => x.coll == m.coll && x.seq == m.seq && !x.begun then
    .next { s with xalls := s.xalls.map fun x =>
      if x.coll = m.coll ∧ x.seq = m.seq ∧ !x.begun then
        { x with seen := x.seen ++ [(m.party, m.ids, m.bytes.toNat)] } else x }
  else .next { s with flits := s.flits ++ [m] }

/-- The parties' lists or sizes differ (R256, R257). -/
def Xall.differs (x : Xall) : Bool :=
  x.seen.any fun (_, ids, n) => decide (ids ≠ x.ids) || decide (n ≠ x.bytes)

/-- Every other party has registered. -/
def Xall.complete (x : Xall) : Bool :=
  x.ids.zipIdx.all fun (id, j) => j == x.rank || x.seen.any fun y => y.1 == id

/-- XALL_START (R257): the transfer begins, or the mismatch is settled. The FENCE.sc.pod of R257 finds the
group's earlier accesses performed: an XALL waits for the faulted ones as it issues (R80, R373). -/
def execXallStart (n : Nat) (s : State) : Host.Outcome State Fault Refusal :=
  match s.xalls[n]? with
  | none => .next s
  | some x =>
    if x.begun || !(x.complete || x.seen.any fun y => decide (y.2.1 ≠ x.ids)) then .next s
    else .next { s with xalls := s.xalls.modify n fun x => { x with begun := true, mismatch := x.differs } }

/-- A word that waits in a scalar register for its flag takes its value; with no flag it is written. -/
def Group.paySlot (g : Group) (f : Option (Fin 12)) (r : Nat) (w : Word) : Group :=
  match f with
  | none => g.putS r w
  | some f =>
    let d : Dst := .s r
    { g with pend := g.pend.map fun p => if p.flag = f ∧ p.dst = d then { p with word := w } else p }

/-- Change a group of a saved block. -/
def Saved.modGroup (v : Saved) (u : Nat) (f : Group → Group) : Saved :=
  { v with groups := v.groups.map fun g => if g.uid = u then f g else g }

/-- Change a group wherever it is: in the machine, or in a block saved to its partition's area or its context's
image (R258). -/
def State.modAnywhere (s : State) (u : Nat) (f : Group → Group) : State :=
  { s.modGroup u f with
    queue := s.queue.map fun e => match e.what with
      | .saved v => { e with what := .saved (v.modGroup u f) }
      | _ => e
    images := s.images.map fun (a, m) => (a, { m with blocks := m.blocks.map fun v => v.modGroup u f }) }

/-- An XALL of this device ends with a status (R257, R258). -/
def State.endXall (s : State) (n : Nat) (x : Xall) (status : Word) : State :=
  { s with xalls := s.xalls.eraseIdx n }.modAnywhere x.group fun g => g.paySlot x.flag x.dst status

/-- The slice that comes from the party of a rank: the bytes that landed, or Undefined ones when it is lost
(R257). None when it is still to come. -/
def State.sliceOf (s : State) (x : Xall) (own : List Byte) (j : Nat) : Option (List Byte) :=
  if j = x.rank then some own
  else match x.slices.find? fun e => e.1 == j with
    | some (_, bs) => if bs.length = x.bytes then some bs else none
    | none =>
      if s.lost.contains (x.ids.getD j 255) then
        some ((List.range x.bytes).map fun k => (s.undef x.slot .slice (j * x.bytes + k)).setWidth 8)
      else none

/-- The fault record of an XALL (R226, R369). -/
def State.xallRecord (s : State) (x : Xall) (f : FaultAt) : Record :=
  { num := 0, code := f.code, source := 1, slot := x.slot, core := x.core, cluster := x.cluster, bid := x.bid
    gid := x.gid, write := f.write, atomic := false, helper := false, waiters := 1, mask := x.mask
    addr := BitVec.ofNat 64 f.addr, header := x.header, word := x.word, aux := 0
    arg := ((s.group? x.group).map (·.svcarg)).getD 0, level := f.level, answer := 0, who := [(x.group, x.mask)]
    block := x.block, unit := f.code.unit, draws := [], ring := none }

/-- The state as the link engines see it for a transfer: that of its context's tables, of a saved context too
(R258). -/
def State.forXall (s : State) (x : Xall) : State :=
  match x.root with
  | none => s
  | some r => { s with tlbs := [] }.modCtx x.slot fun c => { c with ccb := { c.ccb with ptroot := r } }

/-- The checked stores of a transfer are performed. -/
def State.landXall (s : State) (w : Who) (x : Xall) (ps : List Put) : State :=
  match x.root with
  | none => (s.touchRun w x.src.toNat (x.ids.length * x.bytes)).perform w ps
  | some _ => ps.foldl (fun s p => s.globSpoil w p.pa p.data.length) (s.putAll ps ps [])

/-- The transfer of an XALL: its sources are read, every slice addressed to it is written, or what stops it; none
while a slice is still to come (R257). -/
def State.runXall (s : State) (x : Xall) : Option (Except FaultAt State) :=
  let w : Who := { cl := x.cluster, slot := x.slot }
  let n := x.ids.length * x.bytes
  let t := s.forXall x
  match t.loadRecord w x.src.toNat n with
  | .error (c, lv, a) => some (.error { code := c, addr := a, level := lv })
  | .ok m =>
    match (List.range x.ids.length).mapM fun j => s.sliceOf x ((m.drop (x.rank * x.bytes)).take x.bytes) j with
    | none => none
    | some slices =>
      match t.storeRun w (n + 1) x.dest.toNat (mbClean slices.flatten) with
      | .error (c, lv, a) => some (.error { code := c, addr := a, level := lv, write := true })
      | .ok ps => some (.ok (s.landXall w x ps))

/-- XALL_COMPLETE (R257, R258): slices addressed to this party land, its group resident or saved; with the last
of them it ends; a fault keeps them and waits for the service. -/
def execXallComplete (n : Nat) (got : List (Nat × List Byte)) (s : State) :
    Host.Outcome State Fault Refusal :=
  match s.xalls[n]? with
  | none => .next s
  | some x =>
    if !x.begun then .next s
    else if x.mismatch then .next (s.endXall n x 1)
    else
      let x := { x with slices := got ++ x.slices }
      let s := { s with xalls := s.xalls.modify n fun _ => x }
      if x.record.isSome then .next s
      else match s.runXall x with
        | none => .next s
        | some (.ok s) =>
          let gone := x.ids.zipIdx.any fun (id, j) => j != x.rank && s.lost.contains id
          .next (s.endXall n x (if gone then 2 else 0))
        | some (.error f) => match s.fileRecord (s.xallRecord x f) with
          | none => .next s
          | some (r, s) => .next { s with xalls := s.xalls.modify n fun x => { x with record := some r } }

/-- PEER_LOST (R418, R257). -/
def execPeerLost (p : Fin 144) (s : State) : Host.Outcome State Fault Refusal :=
  .next { s with lost := insertNat p.val s.lost }

end Sys2Proof.Machine
end

