-- ==== Sys2Proof/Machine/Matrix.lean ====
section
/-! DEFINITION. Class 0xA: matrix steps, tile loads and stores, MQNT, MSTAT (10 R260-R271), the engine's
waits and faults (R61, R268), and the wake of full bits. -/

namespace Sys2Proof.Machine

/-! ### Operands -/

/-- Why an engine does not go on: lines that are not full, or a fault (R61, R268). -/
inductive Stop where
  | lines (ls : List (Nat × Nat))
  | fault (f : FaultAt)
  deriving DecidableEq, Repr

/-- An operand region: a scratchpad offset of a block, or a global address (R264, R266). -/
inductive Region where
  | spad (block off : Nat)
  | glob (a : DWord)
  deriving DecidableEq, Repr

/-- Read `n` bytes at an offset of a region. -/
def State.fetchRegion (s : State) (w : Who) (need : Need) (r : Region) (at_ n : Nat) : Except Stop (List Byte) :=
  match r with
  | .spad bu off =>
    match s.block? bu with
    | none => .error (.fault { code := .spadperm, addr := off + at_ })
    | some b =>
      let ls := (linesMet (off + at_) n).filter fun i => !(b.line i).full
      if ls ≠ [] then .error (.lines (ls.map fun i => (bu, i)))
      else
        let m := s.spadBytes b (off + at_) n
        if mbBad m then .error (.fault { code := .poison, addr := off + at_ + m.findIdx fun x => x.2, pool := true,
                                                  carried := b.carriedOnly (off + at_) n })
        else .ok (mbPlain m)
  | .glob a =>
    let va := addr64 a at_
    if !canonical va then .error (.fault { code := .addrform, addr := va.toNat })
    else
      match s.loadRun w need (n + 1) va.toNat n with
      | .error (c, lv, x) => .error (.fault { code := c, addr := x, level := lv })
      | .ok m =>
        let x := va.toNat + m.findIdx fun x => x.2
        if mbBad m then .error (.fault { code := .poison, addr := x, level := s.leafLevel w x }) else .ok (mbPlain m)

/-- Bytes per row of a region (R263). -/
def matPitch (t : MatTy) (h : MatShape) : Nat :=
  match t with
  | .f16 | .bf16 => if h = .deep then 128 else 32
  | .f32 => if h = .deep then 64 else 16
  | .bfp => 256

/-- Rows of a region (R263). -/
def matRows (h : MatShape) : Nat := match h with | .view _ => 16 | _ => 64

/-- First row and column of the tile region (R262). -/
def matOrigin (h : MatShape) : Nat × Nat :=
  match h with | .view n => (16 * (n.val / 4), 16 * (n.val % 4)) | _ => (0, 0)

/-- Steps of an instruction (R262). -/
def matSteps (h : MatShape) : Nat := if h = .deep then 4 else 1

/-- K of one step (R262). -/
def matK (t : MatTy) : Nat := match t with | .f16 | .bf16 => 16 | .f32 => 4 | .bfp => 248

/-- The elements a step writes, as (i, j) of the region. -/
def matElems (h : MatShape) : List Nat :=
  let (m, n) := matOrigin h
  (List.range (matRows h)).flatMap fun i => (List.range (matRows h)).map fun j => 64 * (m + i) + n + j

/-- The elements of bricks, in order, until 248 are taken; a slot that is not needed is not read (R263,
R90). -/
def bfpRow (fetch : Nat → Except Stop (List Byte)) : Nat → Nat → Nat → Except Stop (List Num)
  | 0, _, _ => .ok []
  | fuel + 1, at_, left =>
    if left = 0 then .ok []
    else
      match fetch at_ with
      | .error e => .error e
      | .ok b =>
        let k := brickKind b
        if k = 7 then .error (.fault { code := .brickpoison, addr := at_ })
        else if k ≠ 1 ∧ k ≠ 4 ∧ k ≠ 5 then .error (.fault { code := .brickkind, addr := at_ })
        else
          let n := min left (brickCount b)
          match bfpRow fetch fuel (at_ + 64) (left - n) with
          | .error e => .error e
          | .ok xs => .ok ((List.range n).map (brickElem b) ++ xs)

/-- A fault at an offset of a region with the address it names: a scratchpad offset, or a virtual address with
the level of its leaf (R369). -/
def State.faultIn (s : State) (w : Who) (f : FaultAt) : Region → FaultAt
  | .spad _ off => { f with addr := off + f.addr, pool := true }
  | .glob b =>
    let a := (addr64 b f.addr).toNat
    { f with addr := a, level := s.leafLevel w a }

/-- The K elements of one row over every step (R263). -/
def State.matRow (s : State) (w : Who) (t : MatTy) (h : MatShape) (r : Region) (row : Nat) :
    Except Stop (List Num) :=
  let p := matPitch t h
  match t with
  | .f16 => match s.fetchRegion w .read r (row * p) p with
    | .error e => .error e
    | .ok b => .ok ((List.range (p / 2)).map fun k => Fmt.f16.value (fieldOf b (2 * k) 2))
  | .bf16 => match s.fetchRegion w .read r (row * p) p with
    | .error e => .error e
    | .ok b => .ok ((List.range (p / 2)).map fun k => Fmt.bf16.value (fieldOf b (2 * k) 2))
  | .f32 => match s.fetchRegion w .read r (row * p) p with
    | .error e => .error e
    | .ok b => .ok ((List.range (p / 4)).map fun k => Fmt.f32.value (fieldOf b (4 * k) 4))
  | .bfp =>
    match bfpRow (fun a => s.fetchRegion w .brickRead r a 64) 4 (row * p) 248 with
    | .error (.fault f) =>
      .error (.fault (if f.code = .brickpoison ∨ f.code = .brickkind then s.faultIn w f r else f))
    | x => x

/-- Every row of an operand. -/
def State.matRegion (s : State) (w : Who) (t : MatTy) (h : MatShape) (r : Region) :
    Nat → Except Stop (List (List Num))
  | 0 => .ok []
  | n + 1 =>
    match s.matRegion w t h r n with
    | .error e => .error e
    | .ok rows => match s.matRow w t h r n with
      | .error e => .error e
      | .ok row => .ok (rows ++ [row])

/-- The products of one element in one step. -/
def products (k : Nat) (a b : List Num) : List Num := (List.range k).map fun i =>
  Num.mul (a.getD i .nan) (b.getD i .nan)

/-- One element after one step (R101). -/
def stepElem (k : Nat) (z : Word) (a b : List Num) : Word :=
  BitVec.ofNat 32 (Fmt.f32.round .rn (Num.sum .rn (f32val z :: products k a b)))

/-- One element after every step, in ascending K (R265). -/
def stepsElem (k : Nat) : Nat → Word → List Num → List Num → Word
  | 0, z, _, _ => z
  | n + 1, z, a, b => stepsElem k n (stepElem k z a b) (a.drop k) (b.drop k)

/-- The steps of a shape on a tile (R262-R265). -/
def matApply (t : MatTy) (h : MatShape) (a b : List (List Num)) (z : Regs) : Regs :=
  let (m, n) := matOrigin h
  (List.range (matRows h)).foldl (fun z i => (List.range (matRows h)).foldl (fun z j =>
    let e := 64 * (m + i) + n + j
    tset 0 z e (stepsElem (matK t) (matSteps h) (tget 0 z e) (a.getD i []) (b.getD j []))) z) z

/-! ### The engine -/

/-- The parameters of an MLOOP, read at issue (R266). -/
structure LoopArgs where
  niter : Nat
  asp   : Bool
  bsp   : Bool
  abase : DWord
  bbase : DWord
  astep : Int
  bstep : Int
  ctrl  : Word
  last  : Word

/-- Read the eight scalars of an MLOOP. -/
def loopArgs (s : State) (g : Group) (p : SReg) : LoopArgs :=
  let c := readS s g (p.val + 4)
  { niter := bfield c.toNat 0 16, asp := c.getLsbD 16, bsp := c.getLsbD 17
    abase := readS64 s g p.val, bbase := readS64 s g (p.val + 2)
    astep := sext (readS s g (p.val + 5)), bstep := sext (readS s g (p.val + 6))
    ctrl := c, last := readS s g (p.val + 7) }

/-- An operand of iteration t. -/
def loopRegion (bu : Nat) (sp : Bool) (base : DWord) (step : Int) (t : Nat) : Region :=
  let a := addr64 base (step * t)
  if sp then .spad bu a.toNat else .glob a

/-- What a run of the engine leaves. -/
inductive EngineOut where
  /-- The instruction is complete. -/
  | ok (s : State)
  | wait
  /-- It stops at a fault, with what it has written and how far it came. -/
  | fault (s : State) (f : FaultAt) (done : Nat)

/-- An element among some of a tile carries a mark (R376). -/
def Group.tileBad (g : Group) (z : Nat) (es : List Nat) : Bool :=
  g.zPoison.any fun e => e.1 == z && es.contains (e.2 / 2)

/-- The translations that a fetch of `n` bytes of a region used are cached (R365). -/
def State.touchRegion (s : State) (w : Who) (n : Nat) : Region → State
  | .spad _ _ => s
  | .glob a => s.touchRun w a.toNat n

/-- One step of a shape on two regions (R265, R267): the operands are fetched before anything is
written; the elements of the shape's region of the tile are read, and a mark on one raises POISON (R376). -/
def State.matStep (s : State) (g : Group) (t : MatTy) (h : MatShape) (z : Nat) (a b : Region)
    (done : Nat) : EngineOut :=
  let w := s.who g
  let n := matRows h * matPitch t h
  match s.matRegion w t h a (matRows h) with
  | .error (.lines _) => .wait
  | .error (.fault f) => .fault s f done
  | .ok ra =>
    match s.matRegion w t h b (matRows h) with
    | .error (.lines _) => .wait
    | .error (.fault f) => .fault s f done
    | .ok rb =>
      if g.tileBad z (matElems h) then .fault s { code := .poison, pool := true } done
      else .ok (((s.setGroup (g.putTile z (matApply t h ra rb (g.tileElems z)))).touchRegion w n a).touchRegion w n b)

/-- Bytes of an element of a tile image. -/
def tileSize : TileTy → Nat | .f32 => 4 | _ => 2

/-- An element of a tile image, widened exactly (R269). -/
def tileLoad (t : TileTy) (b : List Byte) (e : Nat) : Word :=
  match t with
  | .f16 => BitVec.ofNat 32 (cvtResult .f32 .rn (Fmt.f16.value (fieldOf b (2 * e) 2)))
  | .bf16 => BitVec.ofNat 32 (cvtResult .f32 .rn (Fmt.bf16.value (fieldOf b (2 * e) 2)))
  | .f32 => BitVec.ofNat 32 (fieldOf b (4 * e) 4)

/-- The bytes of a stored element (R99, R269). -/
def tileStore (ovt : BitVec 16) (t : TileTy) (w : Word) : List Byte :=
  match t with
  | .f16 => natLe 2 (narrowBits ovt .f32 .f16 .rn w.toNat)
  | .bf16 => natLe 2 (narrowBits ovt .f32 .bf16 .rn w.toNat)
  | .f32 => natLe 4 w.toNat

/-- The two bricks of row `i` of a tile (R270). -/
def rowBricks (ovt : BitVec 16) (k : QuantTy) (z : Regs) (i : Nat) : List (List Byte) :=
  let row := (List.range 64).map fun j => tget 0 z (64 * i + j)
  let (b, n) : BrickTy × Nat := match k with
    | .bfp m => (.bfp m, bfpCount (m.val + 2))
    | .int8 => (.int8, 62)
  [brickOf ovt b (row.take n), brickOf ovt b (row.drop n)]

/-- Write pieces of an image from the first not yet written (R268). -/
def State.writeImage (s : State) (w : Who) (need : Need) : List (Nat × List Byte) → Nat →
    State × Option (FaultAt × Nat)
  | [], _ => (s, none)
  | (a, bs) :: ps, n =>
    let r : Except FaultAt (List Put) := if need = .write then
        match s.storeRun w (bs.length + 1) a (mbClean bs) with
        | .error (c, lv, x) => .error { code := c, addr := x, level := lv, write := true }
        | .ok qs => .ok qs
      else s.storeGlobal w (BitVec.ofNat 64 a) bs need
    match r with
    | .error f => (s, some (f, n))
    | .ok qs => (s.perform w qs).writeImage w need ps (n + 1)

/-- The image of MSTZ in lines of 128 bytes. -/
def mstzImage (ovt : BitVec 16) (t : TileTy) (z : Regs) (a : Nat) : List (Nat × List Byte) :=
  let per := 128 / tileSize t
  (List.range (4096 / per)).map fun i =>
    (a + 128 * i, ((List.range per).map fun e => tileStore ovt t (tget 0 z (per * i + e))).flatten)

/-- The image of MQNT in bricks. -/
def mqntImage (ovt : BitVec 16) (k : QuantTy) (z : Regs) (a : Nat) : List (Nat × List Byte) :=
  (List.range 64).flatMap fun i => (rowBricks ovt k z i).zipIdx.map fun e => (a + 128 * i + 64 * e.2, e.1)

/-- The executing lanes of a group's clause as the instruction issued. -/
def Group.execMask (g : Group) : Mask := (g.clause.map (·.exec)).getD 0

/-- Write an image of a tile from piece `done` on; `src` is the group as it issued the store. -/
def State.runImage (s : State) (g src : Group) (z : Nat) (need : Need) (img : List (Nat × List Byte))
    (done : Nat) : EngineOut :=
  if src.tileBad z (List.range 4096) then .fault s { code := .poison, write := true, pool := true } done
  else
    match s.writeImage (s.who g) need (img.drop done) done with
    | (s, none) => .ok s
    | (s, some (f, n)) => .fault s f n

/-- Run a matrix instruction from where it stands; `src` is the group as it issued it: the registers it read, and
for MSTZ and MQNT the tile. -/
def State.runMatrix (s : State) (g src : Group) (i : Instr) (done : Nat) : EngineOut :=
  let ovt := s.ovtOf src
  match i with
  | .mma t h z a b =>
    s.matStep g t h z.val (.spad g.block (readS s src a.val).toNat) (.spad g.block (readS s src b.val).toNat) 0
  | .mloop t h z p =>
    let x := loopArgs s src p
    let a := loopRegion g.block x.asp x.abase x.astep done
    let b := loopRegion g.block x.bsp x.bbase x.bstep done
    s.matStep g t h z.val a b done
  | .mldz t z a =>
    let n := 4096 * tileSize t
    let at_ := (readS64 s src a.val).toNat
    match s.loadRecord (s.who g) at_ n with
    | .error (c, lv, x) =>
      if c.translation && g.allHelpers src.execMask && !(lanesOf src.execMask).any g.serviced then .ok (s.setGroup (g.putTile z.val []))
      else .fault s { code := c, addr := x, level := lv } 0
    | .ok bs =>
      let tile : Regs := (List.range 4096).foldl (fun t' e => tset 0 t' e (tileLoad t bs e)) []
      let s := s.setGroup { g.putTile z.val tile with zPoison := g.zPoison.filter fun e => e.1 ≠ z.val }
      .ok (s.touchRun (s.who g) at_ n)
  | .mzero z => .ok (s.setGroup { g.putTile z.val [] with zPoison := g.zPoison.filter fun e => e.1 ≠ z.val })
  | .mstz t z a => s.runImage g src z.val .write (mstzImage ovt t (src.tileElems z.val) (readS64 s src a.val).toNat) done
  | .mqnt k z a =>
    s.runImage g src z.val .brickWrite (mqntImage ovt k (src.tileElems z.val) (readS64 s src a.val).toNat) done
  | _ => .ok s

/-- The tile elements an instruction writes. -/
def Instr.tileElems : Instr → List Nat
  | .mma _ h _ _ _ | .mloop _ h _ _ => matElems h
  | .mzero _ | .mldz _ _ _ => List.range 4096
  | _ => []

/-- An instruction that reads the tile it names (R265, R269, R270). -/
def Instr.readsTile : Instr → Bool
  | .mma _ _ _ _ _ | .mloop _ _ _ _ | .mstz _ _ _ | .mqnt _ _ _ => true
  | _ => false

/-- Run an engine operation from where it stands; the result of one whose tile or operands were written in the
window of R76 is Undefined: the elements it writes, or the image it stores. -/
def State.runEngine (s : State) (g : Group) (e : Engine) : EngineOut :=
  let z := Instr.tile e.instr
  let src := if e.spoiled then e.src.spoilTile s z (List.range 4096) else e.src
  match s.runMatrix g src e.instr e.done with
  | .ok t => .ok (if e.spoiled then t.modGroup g.uid fun y => y.spoilTile s z (Instr.tileElems e.instr) else t)
  | x => x

/-- The record of an engine fault: AUX holds the tile and PROGRESS (R268, R369). -/
def State.engineRecord (s : State) (g : Group) (e : Engine) (f : FaultAt) : Record :=
  let z := Instr.tile e.instr
  s.recordOf g { f with source := 2, aux := BitVec.ofNat 32 (z + 65536 * tget 0 g.progress z) }
    e.src.execMask e.header e.word

/-- An engine operation stops at a fault (R268, R370): a code that the context's handler takes is delivered to
the instance's lanes at a clause boundary, its tile Undefined and its access not performed (R371); for every other
one a record stops it until the service answers. With a full fault buffer it stays to be run again. -/
def State.stopEngine (s : State) (g : Group) (e : Engine) (f : FaultAt) (n : Nat) : State :=
  let rest : List Engine := s.engines.filter fun x => x ≠ e
  let r := s.engineRecord g e f
  if s.handlerOf g f.code ≠ 0 then
    let d : Deferred := {
      code := f.code, mask := e.src.execMask &&& g.live, addr := BitVec.ofNat 64 f.addr, word := e.word
      header := e.header, write := f.write, atomic := f.atomic, source := 2, level := f.level, aux := r.aux }
    { s with engines := rest }.modGroup g.uid fun y =>
      let y := y.spoilTile s (Instr.tile e.instr) (Instr.tileElems e.instr)
      { y with late := y.late ++ [d] }
  else match s.fileRecord r with
    | none => { s with engines := rest ++ [{ e with done := n }] }
    | some (k, s) => { s with engines := rest ++ [{ e with done := n, record := some k }] }

/-- Run an engine operation as far as it goes: it completes, waits, or stops at a fault (R268). -/
def State.driveEngine (s : State) (e : Engine) : State :=
  match s.group? e.group with
  | none => s
  | some g =>
    match s.runEngine g e with
    | .ok s => { s with engines := s.engines.filter fun x => x ≠ e }
    | .wait => s
    | .fault s f n => s.stopEngine ((s.group? e.group).getD g) e f n

/-- What the instruction holds in use until its flag clears (R76): its tile, the operand regions it reads, the
image it stores. -/
def State.matUse (s : State) (g : Group) (i : Instr) (f : Fin 12) : MatUse :=
  let base : MatUse := { flag := f, tile := Instr.tile i, elems := Instr.tileElems i, spads := [], globs := [], dest := none }
  match i with
  | .mma t h _ a b =>
    let n := matRows h * matPitch t h
    { base with spads := [(0, (readS s g a.val).toNat, n), (0, (readS s g b.val).toNat, n)] }
  | .mloop t h _ p =>
    let x := loopArgs s g p
    let n := matRows h * matPitch t h
    let at_ (b : DWord) (st : Int) (k : Nat) : Nat := (addr64 b (st * (k : Int))).toNat
    let spans (sp : Bool) (b : DWord) (st : Int) : List (Nat × Nat × Nat) × List (Nat × Nat) :=
      if sp then ((List.range x.niter).map fun k => (k, at_ b st k, n), [])
      else ([], (List.range x.niter).map fun k => (at_ b st k, n))
    let ua := spans x.asp x.abase x.astep
    let ub := spans x.bsp x.bbase x.bstep
    { base with spads := ua.1 ++ ub.1, globs := ua.2 ++ ub.2 }
  | .mldz t _ a => { base with globs := [((readS64 s g a.val).toNat, 4096 * tileSize t)] }
  | .mstz t _ a => { base with dest := some ((readS64 s g a.val).toNat, 4096 * tileSize t) }
  | .mqnt _ _ a => { base with dest := some ((readS64 s g a.val).toNat, 8192) }
  | _ => base

/-- The uses of a tile by instructions whose flags are set. -/
def Group.usesOf (g : Group) (z : Nat) : List MatUse := g.uses.filter fun x => x.tile == z

/-- An instruction writes a tile that earlier ones hold in use (R76): what those have written of it, and the
images they have stored from it, become Undefined, and so does what those in progress are yet to write. -/
def State.spoilOld (s : State) (u z : Nat) (old : List MatUse) : State :=
  let s := s.modGroup u fun g => old.foldl (fun g x => g.spoilTile s z x.elems) g
  match s.group? u with
  | none => s
  | some g =>
    let busy (x : MatUse) : Bool := s.engines.any fun e => e.uses g x
    let s := old.foldl (fun s x => match x.dest with
      | none => s
      | some (a, n) => if busy x then s else
        (s.quietStore (s.who g) a ((List.range n).map fun k => (s.undef (s.slotOf g) .image k).setWidth 8)).getD s) s
    { s with engines := s.engines.map fun e => if old.any (e.uses g) then { e with spoiled := true } else e }

/-- An instruction's tile and operands come into use (R76). -/
def State.use (s : State) (g : Group) (c : Clause) (i : Instr) (reset : Bool) : State :=
  s.modGroup g.uid fun x => { x with
    progress := if reset then tset 0 x.progress (Instr.tile i) 0 else x.progress
    uses := match c.tied with
      | some f => x.uses ++ [s.matUse g i f]
      | none => x.uses }

/-- The result of an instruction on a tile that earlier ones hold in use is Undefined: it reads the tile, or one
of them writes it (R76). -/
def clashes (i : Instr) (old : List MatUse) : Bool :=
  decide (old ≠ []) && (Instr.readsTile i || old.any fun x => decide (x.elems ≠ []))

/-- The engine operation of an instruction that issues: its registers as they read (R266), and whether its tile
is in use already (R76). -/
def State.engineOf (s : State) (g : Group) (c : Clause) (i : Instr) : Engine :=
  { group := g.uid, flag := c.tied, instr := i, src := g.latched s c.exec i, done := 0, record := none
    word := c.word, header := c.header, spoiled := clashes i (g.usesOf (Instr.tile i)) }

/-- A matrix instruction issues: what it does to the tile's earlier uses (R76), its own use, PROGRESS, and its
operation. -/
def State.issueMatrix (s : State) (g : Group) (c : Clause) (i : Instr) (reset : Bool) : State :=
  let z := Instr.tile i
  let s1 := if Instr.tileElems i = [] then s else s.spoilOld g.uid z (g.usesOf z)
  let s2 := s1.use g c i reset
  { s2 with engines := s2.engines ++ [s.engineOf g c i] }

/-- Issue a matrix instruction that the engine performs at once as far as it can (R265-R270). -/
def State.startMatrix (s : State) (g : Group) (c : Clause) (i : Instr) (reset : Bool) : State :=
  (s.issueMatrix g c i reset).driveEngine (s.engineOf g c i)

/-- A region of the block's scratchpad that breaks R264. -/
def State.badRegion (s : State) (g : Group) (off n : Nat) : Bool :=
  off % 128 != 0 || match s.blockOf g with
    | some b => decide (b.spadSize < off + n)
    | none => true

/-- MMA (R265). -/
def execMma (t : MatTy) (h : MatShape) (z : ZReg) (a b : SReg) (s : State) : Host.Outcome State Fault Refusal :=
  issue (.mma t h z a b) s fun g c =>
    let i : Instr := .mma t h z a b
    let n := matRows h * matPitch t h
    if s.badRegion g (readS s g a.val).toNat n || s.badRegion g (readS s g b.val).toNat n then
      s.trap g c i .spadrange
    else s.startMatrix g c i true

/-- MLOOP's arguments break R266; a word that the rule says is 0, and is not, counts as a breach
(DESIGN CHOICE, log entry 131). -/
def LoopArgs.bad (x : LoopArgs) : Bool :=
  decide (x.niter = 0) || decide (bfield x.ctrl.toNat 18 14 ≠ 0) || decide (x.last ≠ 0) ||
  decide (x.abase.toNat % 128 ≠ 0) || decide (x.bbase.toNat % 128 ≠ 0) || decide (x.astep % 128 ≠ 0) ||
  decide (x.bstep % 128 ≠ 0) || (x.asp && decide (2 ^ 32 ≤ x.abase.toNat)) ||
  (x.bsp && decide (2 ^ 32 ≤ x.bbase.toNat))

/-- A scratchpad operand that leaves the scratchpad in its first or last iteration (R266). -/
def State.loopBreach (s : State) (g : Group) (sp : Bool) (base : DWord) (step : Int) (niter n : Nat) : Bool :=
  let size : Int := (((s.blockOf g).map (·.spadSize)).getD 0 : Nat)
  let last : Int := base.toNat + step * (niter - 1 : Nat)
  sp && (decide (size < base.toNat + n) || decide (last < 0) || decide (size < last + n))

/-- MLOOP (R266, R267): its iterations are the engine's steps. -/
def execMloop (t : MatTy) (h : MatShape) (z : ZReg) (p : SReg) (s : State) : Host.Outcome State Fault Refusal :=
  issue (.mloop t h z p) s fun g c =>
    let i : Instr := .mloop t h z p
    let x := loopArgs s g p
    let n := matRows h * matPitch t h
    if x.bad then s.trap g c i .memarg
    else if s.loopBreach g x.asp x.abase x.astep x.niter n || s.loopBreach g x.bsp x.bbase x.bstep x.niter n
    then s.trap g c i .spadrange
    else
      s.issueMatrix g c i true

/-- MLOOP_ITERATION (R267, R268): the engine performs the next iteration of a tile's MLOOP. -/
def execMloopIteration (u : Nat) (z : ZReg) (s : State) : Host.Outcome State Fault Refusal :=
  let mine (e : Engine) : Bool := e.group == u && e.record.isNone && match e.instr with
    | .mloop _ _ k _ => k == z
    | _ => false
  match s.engines.find? mine, s.group? u with
  | some e, some g =>
    match e.instr with
    | .mloop _ _ _ p =>
      match s.runEngine g e with
      | .wait => .next s
      | .ok t =>
        let rest : List Engine := t.engines.filter fun x => x ≠ e
        let n := e.done + 1
        let t := t.modGroup u fun y => { y with progress := tset 0 y.progress z.val n }
        let more : List Engine := if n < (loopArgs s e.src p).niter then [{ e with done := n }] else []
        .next ({ t with engines := rest ++ more }.drawn (s.slotOf g))
      | .fault t f n => .next (t.stopEngine ((t.group? u).getD g) e f n)
    | _ => .next s
  | _, _ => .next s

/-- MZERO (R269). -/
def execMzero (z : ZReg) (s : State) : Host.Outcome State Fault Refusal :=
  issue (.mzero z) s fun g c => s.startMatrix g c (.mzero z) true

/-- The address of a tile image (R269, R270): a bad form is delivered at the clause's end. MLDZ and MQNT wait for
the group's faulted accesses that R80 puts before them; MSTZ's engine is ordered after none (R75, R227). -/
def tileImage (i : Instr) (a : SReg) (write ordered : Bool) (n : Nat) (s : State) (k : Group → Clause → State) :
    Host.Outcome State Fault Refusal :=
  issue i s fun g c =>
    let ga := readS64 s g a.val
    let lost := s.modGroup g.uid fun x => x.spoilTile s (Instr.tile i) (Instr.tileElems i)
    if write && g.allHelpers c.exec then s
    else if ordered && s.blockedAll g c i [{ addr := ga.toNat, n := n, spad := none }] then
      s.holdClause g.uid .answers
    else if !canonical ga then lost.late g i { code := .addrform, addr := ga.toNat, write := write }
    else if ga.toNat % 128 ≠ 0 then lost.late g i { code := .align, addr := ga.toNat, write := write }
    else k g c

/-- MLDZ (R269). -/
def execMldz (t : TileTy) (z : ZReg) (a : SReg) (s : State) : Host.Outcome State Fault Refusal :=
  tileImage (.mldz t z a) a false true (4096 * tileSize t) s fun g c => s.startMatrix g c (.mldz t z a) true

/-- MSTZ (R269). -/
def execMstz (t : TileTy) (z : ZReg) (a : SReg) (s : State) : Host.Outcome State Fault Refusal :=
  tileImage (.mstz t z a) a true false 0 s fun g c => s.startMatrix g c (.mstz t z a) false

/-- MQNT (R270). -/
def execMqnt (k : QuantTy) (z : ZReg) (a : SReg) (s : State) : Host.Outcome State Fault Refusal :=
  tileImage (.mqnt k z a) a true true 8192 s fun g c => s.startMatrix g c (.mqnt k z a) false

/-- MSTAT (R271). -/
def execMstat (d : SReg) (z : ZReg) (s : State) : Host.Outcome State Fault Refusal :=
  issueGroup (.mstat d z) s fun g _ =>
    let busy := g.uses.any fun u => u.tile == z.val
    let stopped := s.engines.any fun e => e.group == g.uid && e.record.isSome && Instr.tile? e.instr == some z.val
    g.writeS d.val (BitVec.ofNat 32 (tget 0 g.progress z.val +
      (if stopped then 2 ^ 30 else 0) + (if busy then 2 ^ 31 else 0)))

/-- FULL_BIT_WAKE (R61): a clause that waits for lines goes on once they are full, and so does an engine
whose operands have come. -/
def execFullBitWake (u : Nat) (s : State) : Host.Outcome State Fault Refusal :=
  let s1 := match (s.group? u).bind (·.clause) with
    | some c => match c.wait with
      | some (.line ls) => if ls.all s.lineFull then s.wakeClause u else s
      | _ => s
    | none => s
  let waiting := s1.engines.filter fun e => e.group == u && e.record.isNone &&
    match e.instr with | .mloop _ _ _ _ => false | _ => true
  let slot := ((s.group? u).map s.slotOf).getD 0
  .next (if waiting.isEmpty then s1 else s.drawnIf slot (waiting.foldl (fun s e => s.driveEngine e) s1))

end Sys2Proof.Machine
end

