-- ==== Sys2Proof/Machine/Hyper.lean ====
section
/-! DEFINITION. Class 0xB: hypervectors, bundle counters and HTIE (10 R272, R273; 17 R339). -/

namespace Sys2Proof.Machine

/-- A hypervector from its 1 KiB (R272). -/
def hyperOf (bs : List Byte) : BitVec 8192 := BitVec.ofNat 8192 (leNat bs)

/-- The address of HLD and HST: the offset counts units of 64 bytes (R272). -/
def hyperAddr (s : State) (g : Group) (b : SReg) (o : BitVec 7) : DWord := addr64 (readS64 s g b.val) (64 * sext o)

/-- A load of a hypervector by the engine: its bytes, or what stops it (R261). -/
def State.loadHyper (s : State) (g : Group) (a : DWord) : Except FaultAt (BitVec 8192) :=
  match s.loadRecord (s.who g) a.toNat 1024 with
  | .error (c, lv, x) => .error { code := c, addr := x, level := lv }
  | .ok bs => .ok (hyperOf bs)

/-- A hypervector that was owed comes (R268, R374). -/
def Group.payH (g : Group) (f : Option (Fin 12)) (h : Nat) (v : BitVec 8192) : Group :=
  match f with
  | none => g.writeH h v
  | some f =>
    let d : Dst := .h h
    { g with pend := g.pend.map fun p => if p.flag = f ∧ p.dst = d then { p with hyper := v } else p }

/-- The bytes of a hypervector in memory. -/
def hyperSpan (a : DWord) : List Span := [{ addr := a.toNat, n := 1024, spad := none }]

/-- HLD and HST wait while an earlier one of the group stands still on a fault, and for the accesses that R80
puts before them (R339, R373). -/
def State.hyperHeld (s : State) (g : Group) (c : Clause) (i : Instr) (a : DWord) : Bool :=
  (s.replayed.any fun r => r.group == g.uid && match r.instr with
    | .hld _ _ _ | .hst _ _ _ => true
    | _ => false) || s.blockedAll g c i (hyperSpan a)

/-- A fault of the engine on memory: a record of source 2 and an access that waits for its answer, or the code at
the clause's end (R268, R369, R371); `owed` is the group with the result that is still to come. -/
def State.hyperFault (s : State) (g owed : Group) (c : Clause) (i : Instr) (a : DWord) (f : FaultAt) : State :=
  if f.code.resolvable then
    let spans := (lanesOf c.exec).flatMap fun l => (hyperSpan a).map (Span.kept l)
    ((s.setGroup owed).park g (g.latched s c.exec i) i (Instr.holds i c) { f with source := 2 } c.exec c.header c.word spans).getD
      (s.holdClause g.uid .faultBuffer)
  else s.late g i f

/-- A failing translation of a load whose executing lanes are all helpers loads 0 (R18), but where a replay's
members were fragments (R325). -/
def helperLoads (g : Group) (m : Mask) (f : FaultAt) : Bool :=
  g.allHelpers m && f.code.translation && !(lanesOf m).any g.serviced

/-- HLD (R272). -/
def execHld (d : HReg) (b : SReg) (o : BitVec 7) (s : State) : Host.Outcome State Fault Refusal :=
  issue (.hld d b o) s fun g c =>
    let i : Instr := .hld d b o
    let a := hyperAddr s g b o
    if !canonical a then s.late g i { code := .addrform, addr := a.toNat, write := false }
    else if a.toNat % 64 ≠ 0 then s.late g i { code := .align, addr := a.toNat, write := false }
    else if s.hyperHeld g c i a then s.holdClause g.uid .answers
    else
      match s.loadHyper g a with
      | .ok v => (s.setGroup (g.queueH c.tied d.val v)).touchRun (s.who g) a.toNat 1024
      | .error f =>
        if helperLoads g c.exec f then s.setGroup (g.queueH c.tied d.val 0)
        else s.hyperFault g (g.queueH c.tied d.val (s.undefHyper (s.slotOf g) .result 64)) c i a f

/-- The stores of HST, or what stops it. -/
def State.storeHyper (s : State) (g : Group) (a : DWord) (v : BitVec 8192) : Except FaultAt (List Put) :=
  match s.storeRun (s.who g) 1025 a.toNat (mbClean (natLe 1024 v.toNat)) with
  | .error (c, lv, x) => .error { code := c, addr := x, level := lv, write := true }
  | .ok ps => .ok ps

/-- HST (R272): nothing when every executing lane is a helper (R260). -/
def execHst (r : HReg) (b : SReg) (o : BitVec 7) (s : State) : Host.Outcome State Fault Refusal :=
  issue (.hst r b o) s fun g c =>
    let i : Instr := .hst r b o
    let a := hyperAddr s g b o
    if g.allHelpers c.exec then s
    else if !canonical a then s.late g i { code := .addrform, addr := a.toNat, write := true }
    else if a.toNat % 64 ≠ 0 then s.late g i { code := .align, addr := a.toNat, write := true }
    else if s.hyperHeld g c i a then s.holdClause g.uid .answers
    else
      match s.storeHyper g a (readH s g r.val) with
      | .ok ps => s.perform (s.who g) ps
      | .error f => s.hyperFault g g c i a f

/-- A faulted HLD or HST performs again (R374). -/
def State.redoHyper (s : State) (r : Replayed) : Except FaultAt State :=
  let g := r.src
  match r.instr with
  | .hld d b o =>
    let a := hyperAddr s g b o
    match s.loadHyper g a with
    | .ok v => .ok ((s.modGroup r.group fun x => x.payH r.flag d.val v).touchRun (s.who g) a.toNat 1024)
    | .error f => .error f
  | .hst h b o =>
    match s.storeHyper g (hyperAddr s g b o) (readH s g h.val) with
    | .ok ps => .ok (s.perform (s.who g) ps)
    | .error f => .error f
  | _ => .ok s

/-- HMOV (R272). -/
def execHmov (d a : HReg) (s : State) : Host.Outcome State Fault Refusal :=
  issueGroup (.hmov d a) s fun g _ => g.writeH d.val (readH s g a.val)

/-- HBIND (R272). -/
def execHbind (d a b : HReg) (s : State) : Host.Outcome State Fault Refusal :=
  issueGroup (.hbind d a b) s fun g _ => g.writeH d.val (readH s g a.val ^^^ readH s g b.val)

/-- HPERM (R272): a rotation to the left. -/
def execHperm (d a : HReg) (n : SReg) (s : State) : Host.Outcome State Fault Refusal :=
  issueGroup (.hperm d a n) s fun g _ =>
    g.writeH d.val ((readH s g a.val).rotateLeft ((readS s g n.val).toNat % 8192))

/-- The counters of a bundle register, each a signed byte. -/
def counters (c : BitVec 65536) : List Int :=
  (natLe 8192 c.toNat).map fun b => b.toInt

/-- A bundle register of counters. -/
def bundleOf (cs : List Int) : BitVec 65536 := BitVec.ofNat 65536 (leNat (cs.map fun c => BitVec.ofInt 8 c))

/-- HBUND (R272). -/
def execHbund (c : CReg) (a : HReg) (s : State) : Host.Outcome State Fault Refusal :=
  issueGroup (.hbund c a) s fun g _ =>
    let v := readH s g a.val
    let cs := (counters (tget 0 g.c c.val)).mapIdx fun i x =>
      clampInt (x + if v.getLsbD i then 1 else -1) (-127) 127
    { g with c := tset 0 g.c c.val (bundleOf cs) }

/-- Bits as a hypervector, the first at bit 0. -/
def hyperBits (bs : List Bool) : BitVec 8192 :=
  BitVec.ofNat 8192 (bs.foldr (fun b n => 2 * n + if b then 1 else 0) 0)

/-- HTHR (R272). -/
def execHthr (d : HReg) (c : CReg) (s : State) : Host.Outcome State Fault Refusal :=
  issueGroup (.hthr d c) s fun g _ =>
    g.writeH d.val (hyperBits ((counters (tget 0 g.c c.val)).mapIdx fun i x =>
      if 0 < x then true else if x < 0 then false else g.htie.getLsbD i))

/-- HCLRC (R272). -/
def execHclrc (c : CReg) (s : State) : Host.Outcome State Fault Refusal :=
  issueGroup (.hclrc c) s fun g _ => { g with c := tset 0 g.c c.val 0 }

/-- The number of bits in which two hypervectors differ. -/
def hamming (a b : BitVec 8192) : Nat := popNat 8192 (a ^^^ b).toNat

/-- HHAM (R272). -/
def execHham (d : SReg) (a b : HReg) (s : State) : Host.Outcome State Fault Refusal :=
  issueGroup (.hham d a b) s fun g c =>
    g.queueS c.tied d.val [BitVec.ofNat 32 (hamming (readH s g a.val) (readH s g b.val))]

/-- The nearest of `n` hypervectors from `b` up, ties to the lowest index (R273). -/
def nearest (s : State) (g : Group) (a b n : Nat) : Nat × Nat :=
  let h (j : Nat) : Nat := hamming (readH s g a) (readH s g (b + j))
  (List.range' 1 (n - 1)).foldl (fun (x : Nat × Nat) j => if h j < x.2 then (j, h j) else x) (0, h 0)

/-- HNEAR (R273). -/
def execHnear (d : SReg) (a b : HReg) (n : SReg) (s : State) : Host.Outcome State Fault Refusal :=
  issue (.hnear d a b n) s fun g c =>
    let i : Instr := .hnear d a b n
    let k := (readS s g n.val).toNat
    let count := ((s.blockOf g).map (·.task.hcount)).getD 0
    if k < 1 ∨ 8 < k ∨ count ≤ b.val + k - 1 then s.trap g c i .memarg
    else if (List.range k).any fun j => g.hBad (b.val + j) then
      s.holdFault g c { code := .poison, source := Instr.source i, pool := true } c.exec
    else
      let (best, ham) := nearest s g a.val b.val k
      s.setGroup (g.queueS c.tied d.val [BitVec.ofNat 32 best, BitVec.ofNat 32 ham])

/-- HTIE (R272). -/
def execHtie (a : HReg) (s : State) : Host.Outcome State Fault Refusal :=
  issueGroup (.htie a) s fun g _ => { g with htie := readH s g a.val }

/-- HBIT (R272): the other bits, and their marks, are kept. -/
def execHbit (d : HReg) (n v : SReg) (s : State) : Host.Outcome State Fault Refusal :=
  issueGroup (.hbit d n v) s fun g _ =>
    let k := (readS s g n.val).toNat % 8192
    let m : BitVec 8192 := BitVec.ofNat 8192 (2 ^ k)
    let old := readH s g d.val
    let new := if (readS s g v.val).getLsbD 0 then old ||| m else old &&& ~~~ m
    ({ g with h := tset 0 g.h d.val new }).clobber (.h d.val)

end Sys2Proof.Machine
end

