-- ==== Sys2Proof/Machine/Generator.lean ====
section
/-! DEFINITION. Generators (02 R38-R43, 10 R274-R276) and REPACK (R44-R46, R277; 16 R337, R338). -/

namespace Sys2Proof.Machine

/-! ### Passes -/

/-- The group switches to consumer mode (R39): as many entries are due, or every producer is done and some
entry is left. -/
def Group.passDue (g : Group) (x : Generator) : Bool :=
  decide (x.thr ≤ x.entries.length) || (g.allDone && decide (x.entries ≠ []))

/-- A consumer pass begins (R39, R41): every producer is suspended where it stands, and the first lanes
take the batch at the label, in the consumer frame. -/
def Group.beginPass (g : Group) (x : Generator) (first : Bool) : Group :=
  let live := lanesOf g.live
  let n := min x.entries.length live.length
  let g := g.modLanes g.live fun l y =>
    let y := if first then { y with prodPc := y.pc, prodSt := y.st, prodBase := y.vbase } else y
    let j := live.findIdx fun k => k == l
    if j < n then { y with st := .runnable, pc := x.label, vbase := y.consBase, entry := some j }
    else { y with st := .passDone, pc := x.label, vbase := y.consBase, entry := none }
  { g with gen := some { x with mode := .consumer, batchN := n, taken := false, batch := [] } }

/-- The lanes with a yield pending append in ascending order while there is space (R40). -/
def Group.appendPending (g : Group) : Group :=
  (lanesOf g.live).foldl (fun g l => match (g.lane l).st, g.gen with
    | .pendingYield ws, some x =>
      if x.entries.length < x.cap then
        { g with gen := some { x with entries := x.entries ++ [ws] } }.modLane l fun y =>
          { y with st := .runnable }
      else g
    | _, _ => g) g

/-- The suspended producers go on where they stood (R42, R169). -/
def Group.resumeProducers (g : Group) : Group :=
  g.modLanes g.live fun _ y => { y with st := y.prodSt, pc := y.prodPc, vbase := y.prodBase, entry := none }

/-- Every lane that has executed GDONE goes on after it. -/
def Group.releaseDone (g : Group) : Group :=
  { g with lanes := g.lanes.map fun y => if y.st = .gdone then { y with st := .runnable } else y }

/-- What the generator does at a clause boundary in producer mode (R39); both conditions are tested at every such
boundary, so that an EXIT which leaves every live lane done also starts a pass or ends the wait (DESIGN CHOICE, log
entry 136). -/
def Group.producerTurn (g : Group) (x : Generator) : Group :=
  if g.passDue x then g.beginPass x true
  else if g.allDone ∧ x.entries = [] then g.releaseDone
  else g

/-- A consumer pass has ended (R42, R276): its batch leaves the serai, then another pass begins, the
producers go on, or every lane continues after its GDONE. -/
def Group.endPass (g : Group) (x : Generator) : Group :=
  let x := if x.taken then x else
    { x with entries := x.entries.drop x.batchN, head := x.head + x.batchN, taken := true }
  if g.passDue x then g.beginPass x false
  else
    let g := ({ g with gen := some { x with mode := .producer } }.resumeProducers).appendPending
    match g.gen with
    | some x => g.producerTurn x
    | none => g

/-- At a clause boundary of the group: a pass begins or ends when it is due (R39-R42). -/
def Group.settleGen (g : Group) : Group :=
  match g.gen with
  | none => g
  | some x =>
    match x.mode with
    | .producer => g.producerTurn x
    | .consumer =>
      if g.live ≠ 0 ∧ (lanesOf g.live).all fun l => decide ((g.lane l).st = .passDone) then g.endPass x
      else g

/-- The paths a suspended producer waits on may have resolved meanwhile: it parks again on its route. -/
def State.repark (s : State) (u : Nat) : State :=
  match s.group? u with
  | none => s
  | some g =>
    let slot := s.slotOf g
    let add (ks : List Nat) (n : Nat) : List Nat := if ks.contains n then ks else ks ++ [n]
    (g.lanes.foldl (fun s x => match x.st with
      | .parked (.route r n _ _ _) => s.modCtx slot fun c => { c with routes := c.routes.map fun (k, y) =>
          (k, if k = r then { y with waitEntry := add y.waitEntry n } else y) }
      | .parked (.routeSpace r n _ _ _) => s.modCtx slot fun c => { c with routes := c.routes.map fun (k, y) =>
          (k, if k = r then { y with waitSpace := add y.waitSpace n } else y) }
      | _ => s) s).wakeTokens slot

/-- Settle the generator of a group at its clause boundary; a group parked on a route issues nothing, a pass
neither (R35). -/
def State.settleGen (s : State) (u : Nat) : State :=
  match s.group? u with
  | none => s
  | some g => if g.gen.isNone || g.routed then s else (s.setGroup g.settleGen).repark u

/-! ### The instructions -/

/-- GOPEN (R38, R144, R275) (DEDUCED, log entry 79). -/
def gopen (i : Instr) (p : SReg) (t : Fin 65) (o : Word) (n : Nat) (s : State) :
    Host.Outcome State Fault Refusal :=
  issue i s fun g c =>
    let off := (readS s g p.val).toNat
    let cap := (readS s g (p.val + 1)).toNat
    let thr := if t.val = 0 then g.width else t.val
    let label := c.target o
    let size := ((s.blockOf g).map (·.spadSize)).getD 0
    let lanes := lanesOf g.live
    if g.gen.isSome then s.trap g c i .gennest
    else if cap < 1 ∨ 4096 < cap ∨ cap < thr ∨ g.width < thr ∨ off % 16 ≠ 0 ∨ size < off + 4 * n * cap ∨
        (lanes.any fun l => decide (g.budget < (g.lane l).vbase + 256)) = true then s.trap g c i .genarg
    else
      match s.badTarget { s.who g with replay := none } label none with
      | some (code, lv) =>
        if code.resolvable then
          s.holdFault g c { code := code, addr := label.toNat, level := lv, source := 3 } c.exec
        else s.controlFault g c code c.exec label.toNat
      | none =>
        let g := g.modLanes g.live fun _ x =>
          { x with gdone := false, consBase := x.vbase + 128, prodBase := x.vbase }
        s.setGroup { g with gen := some { offset := off, cap := cap, words := n, thr := thr, label := label
                                          mode := .producer, entries := [], head := 0, batchN := 0
                                          taken := false, batch := [] } }

/-- GOPEN.w1 (R38). -/
def execGopenW1 (p : SReg) (t : Fin 65) (o : Word) (s : State) : Host.Outcome State Fault Refusal :=
  gopen (.gopenW1 p t o) p t o 1 s
/-- GOPEN.w2 (R38). -/
def execGopenW2 (p : SReg) (t : Fin 65) (o : Word) (s : State) : Host.Outcome State Fault Refusal :=
  gopen (.gopenW2 p t o) p t o 2 s
/-- GOPEN.w3 (R38). -/
def execGopenW3 (p : SReg) (t : Fin 65) (o : Word) (s : State) : Host.Outcome State Fault Refusal :=
  gopen (.gopenW3 p t o) p t o 3 s
/-- GOPEN.w4 (R38). -/
def execGopenW4 (p : SReg) (t : Fin 65) (o : Word) (s : State) : Host.Outcome State Fault Refusal :=
  gopen (.gopenW4 p t o) p t o 4 s

/-- One lane's yield: appended, or pending for want of space (R40). -/
def Group.yieldLane (g : Group) (l : Nat) (ws : List Word) : Group :=
  match g.gen with
  | none => g
  | some x =>
    if x.entries.length < x.cap then { g with gen := some { x with entries := x.entries ++ [ws] } }
    else g.modLane l fun y => { y with st := .pendingYield ws }

/-- GYIELD (R39, R40, R275): helper lanes append nothing, and have no effect at all on a path of their own (R18). -/
def execGyield (a : VReg) (s : State) : Host.Outcome State Fault Refusal :=
  issue (.gyield a) s fun g c =>
    let i : Instr := .gyield a
    if g.allHelpers c.exec then s.setGroup (g.transfer c.exec fun _ => c.nextAt)
    else match g.gen with
    | none => s.trap g c i .genmode
    | some x =>
      if x.mode ≠ .producer then s.trap g c i .genmode
      else if 120 < a.val + x.words then s.trap g c i .genarg
      else
        let g' := g.transfer c.exec fun _ => c.nextAt
        s.setGroup ((lanesOf (g.noHelpers c.exec)).foldl (fun g' l =>
          g'.yieldLane l ((List.range x.words).map fun k => readV s g l (a.val + k))) g')

/-- The batch leaves the serai at the first GTAKE of a pass (R276). -/
def Generator.takeBatch (x : Generator) : Generator :=
  if x.taken then x
  else { x with batch := x.entries.take x.batchN, entries := x.entries.drop x.batchN
                head := x.head + x.batchN, taken := true }

/-- GTAKE (R41, R276); in a replay it sets condition 6 (R325). -/
def execGtake (d : VReg) (s : State) : Host.Outcome State Fault Refusal :=
  issue (.gtake d) s fun g c =>
    let i : Instr := .gtake d
    match g.gen with
    | none => s.trap g c i .genmode
    | some x =>
      if x.mode ≠ .consumer then s.trap g c i .genmode
      else if 120 < d.val + x.words then s.trap g c i .genarg
      else
        let s := if g.replay then s.condition g 6 else s
        let x := x.takeBatch
        let g' := (lanesOf c.exec).foldl (fun g' l => match (g.lane l).entry with
          | some j => g'.writeVs l d.val (x.batch.getD j [])
          | none => g') g
        s.setGroup { g' with gen := some x }

/-- GBACK (R42, R276): the lanes wait for the pass to end. -/
def execGback (s : State) : Host.Outcome State Fault Refusal :=
  issue .gback s fun g c =>
    match g.gen with
    | some x =>
      if x.mode = .consumer then
        s.setGroup ((g.transfer c.exec fun _ => c.nextAt).modLanes c.exec fun _ y => { y with st := .passDone })
      else s.trap g c .gback .genmode
    | none => s.trap g c .gback .genmode

/-- GDONE (R39): the lanes wait there until the generator ends. -/
def execGdone (s : State) : Host.Outcome State Fault Refusal :=
  issue .gdone s fun g c =>
    match g.gen with
    | some x =>
      if x.mode = .producer then
        s.setGroup ((g.transfer c.exec fun _ => c.nextAt).modLanes c.exec fun _ y =>
          { y with st := .gdone, gdone := true })
      else s.trap g c .gdone .genmode
    | none => s.trap g c .gdone .genmode

/-- GCLOSE (R42): the serai frees. -/
def execGclose (s : State) : Host.Outcome State Fault Refusal :=
  issue .gclose s fun g c =>
    match g.gen with
    | some x =>
      if x.mode = .producer ∧ x.entries = [] then
        let g := g.releaseDone
        s.setGroup { g with gen := none, lanes := g.lanes.map fun y => { y with gdone := false } }
      else s.trap g c .gclose .genmode
    | none => s.trap g c .gclose .genmode

/-! ### REPACK -/

/-- REPACK (R44, R277): the lanes wait with their keys; in a replay it sets condition 6 (R325). -/
def execRepack (k : VReg) (s : State) : Host.Outcome State Fault Refusal :=
  issue (.repack k) s fun g c =>
    if g.gen.isSome then s.trap g c (.repack k) .repackgen
    else
      let s := if g.replay then s.condition g 6 else s
      s.setGroup ((g.transfer c.exec fun _ => c.nextAt).modLanes c.exec fun l x =>
        { x with st := .repack ((readV s g l k.val).toNat % 65536) c.word c.header })

/-- The key with which a lane waits at a REPACK. -/
def Lane.repackKey (x : Lane) : Option Nat := match x.st with | .repack k _ _ => some k | _ => none

/-- The word of the REPACK at which a lane waits, and its clause. -/
def Lane.repackAt (x : Lane) : Option (DWord × DWord) := match x.st with | .repack _ a h => some (a, h) | _ => none

/-- A participant has joined the REPACK whose word lies at an address: its live lanes wait there and its flags are
clear (R44, R46). -/
def Group.joinedRepack (g : Group) (site : DWord) : Bool :=
  decide (g.live ≠ 0) && g.quiet && (lanesOf g.live).all fun l => (g.lane l).repackAt.map (·.1) == some site

/-- A thread that a REPACK moves: the group and the lane it comes from. -/
structure Survivor where
  uid  : Nat
  from_ : Nat
  key  : Nat
  lane : Lane
  deriving DecidableEq, Repr

/-- Insert a survivor behind those of its key or less (R45). -/
def insertSurvivor (x : Survivor) : List Survivor → List Survivor
  | [] => [x]
  | y :: ys => if x.key < y.key then x :: y :: ys else y :: insertSurvivor x ys

/-- Groups in ascending GID. -/
def byGid : List Group → List Group
  | [] => []
  | g :: gs =>
    let rec ins (x : Group) : List Group → List Group
      | [] => [x]
      | y :: ys => if x.gid < y.gid then x :: y :: ys else y :: ins x ys
    ins g (byGid gs)

/-- The survivors of the participants, sorted stably by key (R45). -/
def survivors (gs : List Group) : List Survivor :=
  let all := gs.flatMap fun g => g.lanes.zipIdx.filterMap fun (x, l) => x.repackKey.map fun k =>
    { uid := g.uid, from_ := l, key := k, lane := { x with st := .runnable } }
  all.foldl (fun acc x => insertSurvivor x acc) []

/-- The faults that wait for the threads now in a group's lanes, those of one fault together (R45, R371). -/
def movedLate (gs : List Group) (xs : List Survivor) : List Deferred :=
  let one (l : Nat) (x : Survivor) : List Deferred :=
    ((gs.find? fun g => g.uid == x.uid).map (·.late)).getD [] |>.filter (fun d => mHas d.mask x.from_) |>.map
      fun d => { d with mask := maskOne l }
  let add (ds : List Deferred) (d : Deferred) : List Deferred :=
    if ds.any fun e => e.num == d.num then ds.map fun e => if e.num = d.num then { e with mask := e.mask ||| d.mask } else e
    else ds ++ [d]
  (xs.zipIdx.flatMap fun (x, l) => one l x).foldl add []

/-- Place survivors in participants, lowest GID first, lanes 0 upward; a participant with none is given
none (R45). `all` are the participants as they were. -/
def placeSurvivors (all : List Group) : List Survivor → List Group → List (Group × List Survivor)
  | _, [] => []
  | xs, g :: gs =>
    let mine := xs.take g.width
    let g' := { g with
      lanes := mine.map (fun (x : Survivor) => x.lane) ++ List.replicate (g.width - mine.length) ({ st := .exited } : Lane)
      late := movedLate all mine }
    ({ g' with k := List.replicate 8 g'.live }, mine) :: placeSurvivors all (xs.drop g.width) gs

/-- A replay follows its item to the lane that a REPACK moves it to (R325, R327). -/
def State.followItem (s : State) (b : Nat) (e : Group × List Survivor) : State :=
  { s with replays := s.replays.map fun r =>
      if r.block = some b then
        match e.2.findIdx? fun x => x.from_ == r.lane with
        | some l => { r with lane := l }
        | none => r
      else r }

/-- The thread of a lane moves with its deferred fault to another group: the lanes of a kept access become those of a
mapping from old to new ones (R45, R371). -/
def Replayed.moved (r : Replayed) (u : Nat) (ps : List (Nat × Nat)) : Replayed :=
  let at_ (l : Nat) : Lane := ((ps.find? fun p => p.2 == l).map fun p => r.src.lane p.1).getD {}
  { r with
    group := u, mask := maskOf (ps.map (·.2)), src := { r.src with lanes := (List.range r.src.lanes.length).map at_ }
    spans := ps.flatMap fun p => (r.spans.filter fun e => e.1 == p.1).map fun e => (p.2, e.2) }

/-- What a RETRY of a deferred fault makes lanes do again, for the lanes of a group that they have moved to. -/
def LateOp.moved (o : LateOp) (u : Nat) (ps : List (Nat × Nat)) : LateOp :=
  let m := maskOf (ps.map (·.2))
  let keyed {α : Type} (xs : List (Nat × α)) : List (Nat × α) :=
    ps.flatMap fun p => (xs.filter fun e => e.1 == p.1).map fun e => (p.2, e.2)
  { o with
    group := u, mask := m
    what := match o.what with
      | .access r => .access (r.moved u ps)
      | .instr c ts => .instr { c with path := m, exec := m } (keyed ts)
      | .wait ls => .wait (keyed ls) }

/-- The deferred work of threads that a REPACK moves goes with them (R45, R372). -/
def State.moveLateOps (s : State) (placed : List (Group × List Survivor)) : State :=
  let to_ (o : LateOp) (e : Group × List Survivor) : List LateOp :=
    let ps := (e.2.zipIdx.filter fun x => x.1.uid == o.group && mHas o.mask x.1.from_).map fun x => (x.1.from_, x.2)
    if ps = [] then [] else [o.moved e.1.uid ps]
  let all := placed.map fun e => e.1.uid
  { s with lateOps := s.lateOps.flatMap fun o => if all.contains o.group then placed.flatMap (to_ o) else [o] }

/-- The trap REPACKROLE in one participant: its lanes, which wait again when the service answers RETRY (R338, R372). -/
def State.repackRole (s : State) (g : Group) : Option State :=
  match (g.lane (maskLowest g.live)).repackAt with
  | none => some s
  | some (site, header) =>
    let r := s.recordOf g { code := .repackrole, source := 1 } g.live header site
    let pc (l : Nat) : DWord := (g.lane l).pc
    (s.deliver g r g.live pc pc).map fun (n, s) =>
      s.onRetry n g.uid g.live (.wait ((lanesOf g.live).map fun l => (l, (g.lane l).st)))

/-- REPACKROLE in each of some participants: one for which the fault buffer has no room waits until a record frees
(R338, R367). -/
def State.trapRoles (s : State) (ps : List Group) : State :=
  ps.foldl (fun s g => match s.repackRole g with
    | some t => if g.roleTrap then t.modGroup g.uid fun x => { x with roleTrap := false } else t
    | none => s.modGroup g.uid fun x => { x with roleTrap := true }) s

/-- REPACK_COMPLETE (R45, R337, R338): every participant has joined one REPACK; roles that differ trap in every
participant, in those that the fault buffer had no room for once it has (R367). -/
def execRepackComplete (b : Nat) (c : Fin 32) (s : State) : Host.Outcome State Fault Refusal :=
  let ps := byGid (s.groups.filter fun g => g.block == b && g.core == c.val)
  if (ps.any fun g => g.roleTrap) = true then .next (s.trapRoles (ps.filter fun g => g.roleTrap))
  else match (ps.flatMap fun g => g.lanes.filterMap fun x => x.repackAt.map (·.1)).head? with
  | none => .next s
  | some site =>
    if (ps.all fun g => g.joinedRepack site) = false then .next s
    else if (ps.map (·.role)).dedup.length ≠ 1 then
      .next (s.trapRoles ps)
    else
      let placed := placeSurvivors ps (survivors ps) ps
      .next (placed.foldl (fun s e => if e.2 ≠ [] then (s.setGroup e.1).followItem b e
        else (s.dropGroup e.1).finishBlock e.1.block) (s.moveLateOps placed))

end Sys2Proof.Machine
end

