-- ==== Sys2Proof/Machine/Traversal.lean ====
section
/-! DEFINITION. Traversal walks (10 R278-R284): node tests, the loop of TRAVS, and the meanings of TRAVB,
TRAVS, TRAVC and TRAVE. -/

namespace Sys2Proof.Machine

/-! ### Node tests (R280) -/

/-- Three binary32 words at a byte offset of a node. -/
def vec3 (b : List Byte) (off : Nat) : List Word := wordsOf 3 (b.drop off)

/-- A component of a vector. -/
def comp (v : List Word) (i : Nat) : Word := v.getD i 0

/-- Component-wise difference. -/
def vsub3 (a b : List Word) : List Word := List.zipWith f32sub a b

/-- Dot (R280). -/
def dot3 (a b : List Word) : Word :=
  f32fma (comp a 2) (comp b 2) (f32fma (comp a 1) (comp b 1) (f32mul (comp a 0) (comp b 0)))

/-- Cross (R280). -/
def cross3 (a b : List Word) : List Word :=
  [(1, 2), (2, 0), (0, 1)].map fun (i, j) =>
    f32fma (comp a i) (comp b j) (f32neg (f32mul (comp a j) (comp b i)))

/-- The ray's origin, tmin and direction. -/
def Walk.origin (w : Walk) : List Word := w.ray.take 3
/-- tmin. -/
def Walk.tmin (w : Walk) : Word := w.ray.getD 3 0
/-- The direction. -/
def Walk.dir (w : Walk) : List Word := (w.ray.drop 4).take 3

/-- Box (R280): the key when it is hit. -/
def Walk.box (w : Walk) (lo hi : List Word) : Option Word :=
  let inv := w.dir.map fun x => f32div 0x3F800000 x
  let t0 := List.zipWith f32mul (vsub3 lo w.origin) inv
  let t1 := List.zipWith f32mul (vsub3 hi w.origin) inv
  let near := List.zipWith f32min t0 t1
  let far := List.zipWith f32max t0 t1
  let tn := f32max (f32max (comp near 0) (comp near 1)) (comp near 2)
  let tf := f32min (f32min (comp far 0) (comp far 1)) (comp far 2)
  if f32cond .le tn tf && f32cond .ge tf w.tmin && f32cond .le tn w.tmax then some tn else none

/-- Tri (R280): t, u and v when it is hit. -/
def Walk.tri (w : Walk) (p0 p1 p2 : List Word) : Option (Word × Word × Word) :=
  let e1 := vsub3 p1 p0
  let e2 := vsub3 p2 p0
  let pv := cross3 w.dir e2
  let det := dot3 e1 pv
  if f32cond .eq det 0 then none
  else
    let tv := vsub3 w.origin p0
    let u := f32div (dot3 tv pv) det
    let qv := cross3 tv e1
    let v := f32div (dot3 w.dir qv) det
    let t := f32div (dot3 e2 qv) det
    if f32cond .ge u 0 && f32cond .ge v 0 && f32cond .le (f32add u v) 0x3F800000 &&
        f32cond .le w.tmin t && f32cond .le t w.tmax then some (t, u, v) else none

/-! ### Nodes (R279) -/

/-- A bound of a BOX8-Q8 child: origin + q × 2^e, formed exactly and rounded once. -/
def q8Bound (r : Rnd) (orig : Word) (e : Int) (q : Nat) : Word :=
  BitVec.ofNat 32 (Fmt.f32.round r (Num.add r (f32val orig) (.fin false q e)))

/-- The children of a box node, by slot: bounds and reference. -/
def boxChildren (q8 : Bool) (b : List Byte) : List (Nat × List Word × List Word × Word) :=
  let ref (off : Nat) : Word := BitVec.ofNat 32 (fieldOf b off 4)
  if q8 then
    let bound (r : Rnd) (off : Nat) : List Word := (List.range 3).map fun i =>
      q8Bound r (comp (vec3 b 0) i) (BitVec.ofNat 8 (fieldOf b (12 + i) 1)).toInt (fieldOf b (off + i) 1)
    (List.range 8).map fun c => (c, bound .rd (16 + 6 * c), bound .ru (19 + 6 * c), ref (64 + 4 * c))
  else
    (List.range 4).map fun c => (c, vec3 b (24 * c), vec3 b (24 * c + 12), ref (96 + 4 * c))

/-- A binary32 number in the order of its values; both zeros are equal. -/
def f32Key (w : Word) : Int := if w.getLsbD 31 then - ((w.toNat % 2 ^ 31 : Nat) : Int) else (w.toNat : Int)

/-- Insert a hit child into the order of pushes: key descending, and on equal keys the higher slot first
(R281). -/
def insertHit (x : Word × Nat × Word) : List (Word × Nat × Word) → List (Word × Nat × Word)
  | [] => [x]
  | y :: ys =>
    if f32Key y.1 < f32Key x.1 ∨ (f32Key y.1 = f32Key x.1 ∧ y.2.1 < x.2.1) then x :: y :: ys
    else y :: insertHit x ys

/-- The pushes of a box node, in order (R281). -/
def Walk.boxPushes (w : Walk) (q8 : Bool) (b : List Byte) : List (Word × Option Word) :=
  let hits := (boxChildren q8 b).filterMap fun (c, lo, hi, ref) =>
    if ref = 0xFFFFFFFF then none else (w.box lo hi).map fun k => (k, c, ref)
  (hits.foldl (fun acc x => insertHit x acc) []).map fun (k, _, ref) => (ref, some k)

/-- The pushes of a DIST node: slot 7 first, without keys (R281). -/
def distPushes (b : List Byte) : List (Word × Option Word) :=
  ([7, 6, 5, 4, 3, 2, 1, 0].map fun c => BitVec.ofNat 32 (fieldOf b (16 + 4 * c) 4)).filterMap fun ref =>
    if ref = 0xFFFFFFFF then none else some (ref, none)

/-- Push in order; false when a push passes 64 entries (R281). -/
def Walk.pushAll (w : Walk) : List (Word × Option Word) → Bool × Walk
  | [] => (true, w)
  | e :: es => if 64 ≤ w.stack.length then (false, w)
    else Walk.pushAll { w with stack := e :: w.stack } es

/-- The fields of a traversal descriptor (R278). -/
def parseTrav (b : List Byte) : TravDesc :=
  { nodeBase := BitVec.ofNat 64 (fieldOf b 0 8), root := BitVec.ofNat 32 (fieldOf b 8 4)
    flags := BitVec.ofNat 32 (fieldOf b 12 4), theta2 := BitVec.ofNat 32 (fieldOf b 16 4)
    fmt := BitVec.ofNat 64 (fieldOf b 20 8) }

/-- The kind of a node reference's format (R278). -/
def TravDesc.kind (d : TravDesc) (ref : Word) : Nat := bfield d.fmt.toNat (8 * (ref.toNat / 2 ^ 29)) 8

/-- The address of a node. -/
def TravDesc.node (d : TravDesc) (ref : Word) : DWord :=
  d.nodeBase + BitVec.ofNat 64 (64 * (ref.toNat % 2 ^ 29))

/-! ### The walk -/

/-- What a TRAVS delivers for a lane: the walk left open, the state, the five words of R283
(DEDUCED, log entry 76). -/
structure TravOut where
  state : State
  walk  : Option Walk
  words : List Word

/-- A walk closes with a status: its watch record is written (R283, R319). A status other than DONE
reports no hit. -/
def State.closeWalk (s : State) (g : Group) (w : Walk) (kind : Nat) : TravOut :=
  let hit := if kind = 0 then w.hit else none
  let status : Word := BitVec.ofNat 32 (kind + if hit.isSome then 16 else 0)
  let words := match hit with
    | some (t, u, v, id) => [status, id, t, u, v]
    | none => [status, 0, 0, 0, 0]
  { state := s.rayEnd g { w with hit := hit } status, walk := none, words := words }

/-- A candidate is returned (R283). -/
def candOut (s : State) (w : Walk) (c : Cand) (kind : Nat) (ref : Word) (ws : List Word) : TravOut :=
  { state := s, walk := some { w with cand := some c }
    words := BitVec.ofNat 32 (kind + 64 * (ref.toNat / 2 ^ 29)) :: ws }

/-- The physical address that an address translates to; 0 when it does not. -/
def State.physOf (s : State) (w : Who) (va : Nat) : Nat :=
  match s.lookup w va with
  | .leaf l => l.base + va % 2 ^ l.log2
  | _ => 0

/-- Log a poisoned node, with the place of its memory and of the core that met it (R284, R405). -/
def State.nodePoison (s : State) (g : Group) (a : DWord) : State :=
  let pa := s.physOf (s.who g) a.toNat
  let (unit, loc) := s.memPlace pa
  s.logRas { type := 8, unit := unit, slot := s.slotOf g, count := 1, time := s.rasTime, paddr := pa / 64 * 64
             loc := s.clusterOf g % 8 + 8 * (g.core % 32) + loc, detail := 0 }

/-- A load of a walk of `n` bytes, in aligned runs of 64; a helper lane's load that fails translation
reads 0 (R18, R224, R225, R282). -/
def State.travLoad (s : State) (g : Group) (l : Nat) (a : DWord) : Nat → Except FaultAt MBytes
  | 0 => .ok []
  | n + 1 =>
    let zero : MBytes := mbClean (List.replicate 64 0)
    let one : Except FaultAt MBytes := match s.loadMarked (s.who g) a 64 .read with
      | .ok m => .ok m
      | .error f =>
        if f.code.translation && (g.lane l).helper && !g.serviced l then .ok zero else .error f
    match one with
    | .error f => .error f
    | .ok m =>
      match s.travLoad g l (a + 64) n with
      | .error f => .error f
      | .ok ms => .ok (m ++ ms)

/-- One node: the walk goes on, or the lane's TRAVS ends (R281). -/
def State.visit (s : State) (g : Group) (w : Walk) (d : TravDesc) (ref : Word) (kind : Nat)
    (b : List Byte) : TravOut ⊕ Walk :=
  let push (ps : List (Word × Option Word)) : TravOut ⊕ Walk :=
    match w.pushAll ps with
    | (true, w) => .inr w
    | (false, w) => .inl (s.closeWalk g w 5)
  match kind with
  | 1 => push (w.boxPushes false b)
  | 2 => push (w.boxPushes true b)
  | 3 =>
    match w.tri (vec3 b 0) (vec3 b 12) (vec3 b 24) with
    | none => .inr w
    | some (t, u, v) =>
      let id : Word := BitVec.ofNat 32 (fieldOf b 36 4)
      if (fieldOf b 40 4).testBit 0 && !d.flags.getLsbD 1 then
        let w := { w with tmax := t, hit := some (t, u, v, id) }
        if d.flags.getLsbD 0 then .inl (s.closeWalk g w 0) else .inr w
      else .inl (candOut s w (.tri t u v id) 1 ref [id, t, u, v])
  | 4 =>
    let id : Word := BitVec.ofNat 32 (fieldOf b 0 4)
    let a := d.node ref
    .inl (candOut s w (.custom id a) 2 ref [id, 0, lo32 a, hi32 a])
  | _ =>
    let size : Word := BitVec.ofNat 32 (fieldOf b 12 4)
    let dist := vsub3 (vec3 b 0) w.origin
    let d2 := dot3 dist dist
    if f32cond .lt (f32mul size size) (f32mul d.theta2 d2) then
      .inl (candOut s w (.dist ref d2 size) 3 ref [ref, d2, size, 0])
    else push (distPushes b)

/-- One round of the loop of TRAVS (R281): it takes a reference off the stack and fetches its node, before it asks
for the node's kind; the run of bytes fetched, and how the walk goes on. -/
def State.travNext (s : State) (g : Group) (l : Nat) (d : TravDesc) (w : Walk) :
    Option (Nat × Nat) × Except FaultAt (TravOut ⊕ Walk) :=
  match w.stack with
  | [] => (none, .ok (.inl (s.closeWalk g w 0)))
  | (ref, key) :: rest =>
    let w := { w with stack := rest }
    let pruned : Bool := match key with
      | some k => f32cond .gt k w.tmax
      | none => false
    if pruned then (none, .ok (.inr w))
    else
      let kind := d.kind ref
      let a := d.node ref
      let n := if kind = 1 ∨ kind = 2 then 2 else 1
      (some (a.toNat, 64 * n), match s.travLoad g l a n with
        | .error f => .error f
        | .ok m =>
          if mbBad m then .ok (.inl ((s.nodePoison g (a + BitVec.ofNat 64 (m.findIdx fun x => x.2))).closeWalk g w 4))
          else if kind = 0 ∨ 5 < kind then .ok (.inl (s.closeWalk g w 6))
          else .ok (s.visit g w d ref kind (mbPlain m)))

/-- The translations of a node's bytes are cached (R365). -/
def State.touchNode (s : State) (g : Group) : Option (Nat × Nat) → State
  | none => s
  | some (a, n) => s.touchRun (s.who g) a n

/-- The loop of TRAVS (R281). A round that would be one too many for the fuel leaves the walk where it stands
(DEDUCED, log entry 76). -/
def State.travLoop (s : State) (g : Group) (l : Nat) (d : TravDesc) :
    Nat → Walk → Except FaultAt (TravOut ⊕ Walk)
  | 0, w => .ok (.inr w)
  | fuel + 1, w =>
    match s.travNext g l d w with
    | (_, .error f) => .error f
    | (a, .ok (.inl o)) => .ok (.inl { o with state := o.state.touchNode g a })
    | (_, .ok (.inr w)) => s.travLoop g l d fuel w

/-- The bytes that the rounds of a walk fetch, for the order of a lane's accesses (R80). -/
def State.travSpans (s : State) (g : Group) (l : Nat) (d : TravDesc) : Nat → Walk → List Span
  | 0, _ => []
  | fuel + 1, w =>
    let (a, r) := s.travNext g l d w
    let here : List Span := match a with
      | some (x, n) => [{ addr := x, n := n, spad := none }]
      | none => []
    match r with
    | .ok (.inr w) => here ++ s.travSpans g l d fuel w
    | _ => here

/-- The walk of a lane's first TRAVS reads its descriptor (R282). -/
def State.openDesc (s : State) (g : Group) (l : Nat) (w : Walk) : Except FaultAt (TravDesc × Walk) :=
  match w.desc with
  | some d => .ok (d, w)
  | none =>
    match s.travLoad g l w.descAt 1 with
    | .error f => .error f
    | .ok m =>
      if mbBad m then .error { code := .poison, addr := w.descAt.toNat, level := s.leafLevel (s.who g) w.descAt.toNat }
      else
        let d := parseTrav (mbPlain m)
        .ok (d, { w with desc := some d, stack := if w.stack = [] then [(d.root, none)] else w.stack })

/-- Rounds of the loop that one TRAVS makes before it issues again (log entry 31). -/
def travRounds : Nat := 65536

/-- One lane of TRAVS (R281): the outcome, none when its loop has rounds left (DESIGN CHOICE, log entry 31). -/
def State.travStep (s : State) (g : Group) (l : Nat) : Except FaultAt (TravOut ⊕ Walk) :=
  match (g.lane l).walk with
  | none => .ok (.inl { state := s, walk := none, words := [32, 0, 0, 0, 0] })
  | some w =>
    match s.openDesc g l { w with cand := none } with
    | .error f => .error f
    | .ok (d, w) => s.travLoop g l d travRounds w

/-- One lane of TRAVS as a memory access. -/
def travOp : LaneOp :=
  { kind := .other
    run := fun s g l =>
      match s.travStep g l with
      | .error f => .error f
      | .ok (.inl o) =>
        .ok { state := o.state.modGroup g.uid fun y => y.modLane l fun x => { x with walk := o.walk }
              words := o.words }
      | .ok (.inr _) => .ok { state := s, words := [0, 0, 0, 0, 0] }
    span := fun s g l => match (g.lane l).walk with
      | none => []
      | some w =>
        { addr := w.descAt.toNat, n := 64, spad := none } :: match s.openDesc g l { w with cand := none } with
          | .error _ => []
          | .ok (d, w) => s.travSpans g l d travRounds w }

/-- The walks that have rounds left after this one's, by lane. -/
def State.travLong (s : State) (g : Group) (m : Mask) : List (Nat × Walk) :=
  (lanesOf m).filterMap fun l => match s.travStep g l with
    | .ok (.inr w) => some (l, w)
    | _ => none

/-- TRAVS (R281-R284): a walk whose loop is not yet at an end keeps its progress and the instruction
executes again; no lane delivers before. -/
def execTravs (d : VReg) (s : State) : Host.Outcome State Fault Refusal :=
  issue (.travs d) s fun g c =>
    let long := s.travLong g c.exec
    if long = [] || s.heldBack g (.travs d) travOp (lanesOf c.exec) then runLanes s g c (.travs d) travOp
    else
      let g' := long.foldl (fun g' e => g'.modLane e.1 fun x => { x with walk := some e.2 }) g
      s.setGroup (g'.modClause fun c => { c with again := true })

/-- A walk of a lane as TRAVB opens it: the ray is named from the lane (R314) and matched (R317); a replay writes no
record (R325), and a lane that is a helper now none either (R319). -/
def State.newWalk (s : State) (g : Group) (l : Nat) (r : VReg) (d : SReg) : Walk :=
  let x := g.lane l
  let ray := (List.range 8).map fun k => readV s g l (r.val + k)
  let name := rayName x.lin x.linset
  { ray := ray, descAt := readS64 s g d.val, desc := none, stack := [], tmax := ray.getD 7 0
    hit := none, cand := none, name := name
    watch := if g.replay || x.helper then [] else s.matchesOf (s.slotOf g) name x.watch }

/-- TRAVB (R282). -/
def execTravb (r : VReg) (d : SReg) (s : State) : Host.Outcome State Fault Refusal :=
  issueGroup (.travb r d) s fun g c => eachLane g c fun g' l =>
    let w := s.newWalk g l r d
    g'.modLane l fun y => { y with walk := some w }

/-- The hit a pending candidate commits with t (R282, R283). -/
def Cand.commit (t : Word) : Cand → Option (Word × Word × Word × Word)
  | .tri _ u v id => some (t, u, v, id)
  | .custom id _ => some (t, 0, 0, id)
  | .dist _ _ _ => none

/-- One lane of TRAVC (R282). -/
def State.travCommit (s : State) (g : Group) (l : Nat) (t : Word) : State :=
  let put (s : State) (w : Option Walk) : State :=
    s.modGroup g.uid fun y => y.modLane l fun x => { x with walk := w }
  match (g.lane l).walk with
  | none => s
  | some w =>
    match w.cand.bind (Cand.commit t) with
    | none => s
    | some hit =>
      if f32cond .le w.tmin t && f32cond .le t w.tmax then
        let w := { w with tmax := t, hit := some hit, cand := none }
        let any : Bool := match w.desc with | some d => d.flags.getLsbD 0 | none => false
        if any then put (s.closeWalk g w 0).state none else put s (some w)
      else s

/-- TRAVC (R282). -/
def execTravc (t : VReg) (s : State) : Host.Outcome State Fault Refusal :=
  issue (.travc t) s fun g c =>
    (lanesOf c.exec).foldl (fun s' l => s'.travCommit g l (readV s g l t.val)) s

/-- TRAVE (R282). -/
def execTrave (s : State) : Host.Outcome State Fault Refusal :=
  issue .trave s fun g c => (lanesOf c.exec).foldl (fun s' l => match (g.lane l).walk with
    | none => s'
    | some w => (s'.closeWalk g w 0).state.modGroup g.uid fun y =>
        y.modLane l fun x => { x with walk := none }) s

end Sys2Proof.Machine
end

