-- ==== Sys2Proof/Machine/Raster.lean ====
section
/-! DEFINITION. The fixed units of the pipeline as arithmetic: the state block (11 R291), culling, coverage
and interpolation (R293, R333), the area test (R298), tiles (R295), depth test, blend and target formats
(R301, R302, R332). -/

namespace Sys2Proof.Machine

/-! ### The state block (R291) -/

/-- A field of a state block. -/
def sbNat (b : List Byte) (off n : Nat) : Nat := fieldOf b off n

/-- A bit of FLAGS. -/
def sbFlag (b : List Byte) (i : Nat) : Bool := (sbNat b 42 2).testBit i

/-- DEPTHFUNC. -/
def sbFunc (b : List Byte) : Nat := bfield (sbNat b 42 2) 5 3

/-- A kernel a state block names: a multiple of 128 names the kernel by its first line, whose first header
lies at slot 2 (14, 15; R116; log entry 32). -/
def sbKernel (b : List Byte) (off : Nat) : DWord :=
  let a := sbNat b off 8
  BitVec.ofNat 64 (if a % 128 = 0 ∧ a ≠ 0 then a + 8 else a)

/-- TGTW. -/
def sbW (b : List Byte) : Nat := sbNat b 36 2
/-- TGTH. -/
def sbH (b : List Byte) : Nat := sbNat b 38 2
/-- NTGT. -/
def sbNtgt (b : List Byte) : Nat := sbNat b 40 1

/-- A target: base, format code, blend code. -/
def sbTarget (b : List Byte) (n : Nat) : Nat × Nat × Nat :=
  (sbNat b (64 + 16 * n) 8, sbNat b (72 + 16 * n) 1, sbNat b (73 + 16 * n) 1)

/-- Bytes of a pixel by target format. -/
def pixBytes (fmt : Nat) : Nat := if fmt = 0 then 4 else if fmt = 1 then 8 else 16

/-- The state block makes its DRAW raise PIPEARG (R291). -/
def sbBad (b : List Byte) : Bool :=
  let pmcap := sbNat b 32 4
  let badTarget (n : Nat) : Bool :=
    let (base, fmt, blend) := sbTarget b n
    decide (2 < fmt) || decide (2 < blend) || decide (base % pixBytes fmt ≠ 0) ||
      decide (sbNat b (74 + 16 * n) 6 ≠ 0)
  decide (pmcap < 16) || decide (2 ^ 24 < pmcap) || decide (sbW b < 1) || decide (16384 < sbW b) ||
    decide (sbH b < 1) || decide (16384 < sbH b) || decide (sbNtgt b < 1) || decide (8 < sbNtgt b) ||
    decide (sbNat b 41 1 < 4) || decide (32 < sbNat b 41 1) || decide (sbNat b 42 2 / 512 ≠ 0) ||
    decide (sbNat b 24 8 % 64 ≠ 0) || decide (sbNat b 48 8 % 4 ≠ 0) || decide (sbNat b 56 8 % 4 ≠ 0) ||
    decide (sbNat b 192 8 % 8 ≠ 0) || (b.drop 216).any (fun x => x != 0) ||
    (decide (sbNat b 48 8 = 0) && (sbFlag b 3 || sbFlag b 4)) ||
    (List.range (min 8 (sbNtgt b))).any badTarget

/-- Tile columns and tiles of a target (R295). -/
def sbTx (b : List Byte) : Nat := ceilDiv (sbW b) 32
/-- Tiles. -/
def sbTiles (b : List Byte) : Nat := sbTx b * ceilDiv (sbH b) 32
/-- The head of a tile. -/
def sbHead (b : List Byte) (t : Nat) : Nat := sbNat b 24 8 + 64 + 4 * t
/-- An entry of parameter memory (R295). -/
def sbEntry (b : List Byte) (e : Nat) : Nat := ceilDiv (sbNat b 24 8 + 64 + 4 * sbTiles b) 8 * 8 + 8 * e
/-- The depth of a pixel. -/
def sbDepthAt (b : List Byte) (x y : Nat) : Nat := sbNat b 48 8 + 4 * (y * sbW b + x)
/-- The hierarchical-depth word of a pixel. -/
def sbHizAt (b : List Byte) (x y : Nat) : Nat := sbNat b 56 8 + 4 * (y / 8 * ceilDiv (sbW b) 8 + x / 8)
/-- The visibility word of a pixel (R299). -/
def sbVisAt (b : List Byte) (x y : Nat) : Nat := sbNat b 192 8 + 8 * (y * sbW b + x)
/-- The pixel of a target. -/
def sbPixAt (b : List Byte) (n x y : Nat) : Nat :=
  let (base, fmt, _) := sbTarget b n
  base + pixBytes fmt * (y * sbW b + x)

/-! ### Coverage (R293) -/

/-- A finite binary32 value as a multiple of 2^-149. -/
def fixed32 (w : Word) : Int :=
  match f32val w with
  | .fin neg m e => scaled neg m e (-149)
  | _ => 0

/-- A point of the screen in that unit. -/
abbrev Pt := Int × Int

/-- Edge, formed exactly. -/
def edge (a b p : Pt) : Int := (b.1 - a.1) * (p.2 - a.2) - (b.2 - a.2) * (p.1 - a.1)

/-- The screen position of a vertex. -/
def ptOf (v : List Word) : Pt := (fixed32 (screenOf v 0), fixed32 (screenOf v 1))

/-- The centre of a pixel. -/
def centre (x y : Nat) : Pt := ((2 * x + 1 : Nat) * 2 ^ 148, (2 * y + 1 : Nat) * 2 ^ 148)

/-- Infinite or NaN. -/
def f32wild (w : Word) : Bool := match f32val w with | .fin _ _ _ => false | _ => true

/-- A vertex culls its primitive: w ≤ 0, a NaN, or a screen value that is not finite. -/
def badVertex (v : List Word) : Bool :=
  f32cond .le (v.getD 3 0) 0 || ((v.take 4).any fun w => (f32val w).isNan) ||
    ((List.range 3).any fun i => f32wild (screenOf v i))

/-- The three screen positions of a primitive. -/
def Prim.pts (p : Prim) : Pt × Pt × Pt :=
  (ptOf (p.verts.getD 0 []), ptOf (p.verts.getD 1 []), ptOf (p.verts.getD 2 []))

/-- E. -/
def Prim.area (p : Prim) : Int := let (a, b, c) := p.pts; edge a b c

/-- A primitive is culled; `back` is CULLBACK. -/
def Prim.isCulled (p : Prim) (back : Bool) : Bool :=
  p.culled || p.verts.any badVertex || decide (p.area = 0) || (back && decide (p.area < 0))

/-- An edge covers a centre. -/
def edgeCovers (a b p : Pt) : Bool :=
  let e := edge a b p
  decide (0 < e) || (decide (e = 0) && (decide (b.2 < a.2) || (decide (a.2 = b.2) && decide (a.1 < b.1))))

/-- A primitive covers a pixel. -/
def Prim.covers (p : Prim) (x y : Nat) : Bool :=
  let (a, b, c) := p.pts
  let (b, c) := if p.area < 0 then (c, b) else (b, c)
  let q := centre x y
  edgeCovers a b q && edgeCovers b c q && edgeCovers c a q

/-- A quotient of exact values, rounded once; an exact zero is +0. -/
def ratio32 (n d : Int) : Word :=
  if n = 0 then 0
  else BitVec.ofNat 32 (Fmt.f32.round .rn (Num.div (Num.ofInt n 0 false) (Num.ofInt d 0 false)))

/-- Interpolation of an attribute. -/
def lerp32 (b1 b2 a0 a1 a2 : Word) : Word := f32fma b2 (f32sub a2 a0) (f32fma b1 (f32sub a1 a0) a0)

/-- The registers with which a pixel kernel's lane starts, from v0 (R293, R333). -/
def Prim.regs (p : Prim) (x y : Nat) : List Word :=
  let (a, b, c) := p.pts
  let q := centre x y
  let b1 := ratio32 (edge c a q) p.area
  let b2 := ratio32 (edge a b q) p.area
  let v (k i : Nat) : Word := (p.verts.getD k []).getD i 0
  let attr (i : Nat) : Word := lerp32 b1 b2 (v 0 i) (v 1 i) (v 2 i)
  let z (k : Nat) : Word := screenOf (p.verts.getD k []) 2
  let n := (p.verts.getD 0 []).length - 4
  [BitVec.ofNat 32 x, BitVec.ofNat 32 y, lerp32 b1 b2 (z 0) (z 1) (z 2), b1, b2] ++
    (List.range n).map fun i => attr (4 + i)

/-- The area is below RASTTHR (R298); never below a NaN. -/
def Prim.small (p : Prim) (thr : Word) : Bool := (Num.fin false p.area.natAbs (-299)).lt (f32val thr)

/-- The tiles that meet the bounding box of a primitive's positions, ascending (R426). -/
def Prim.tiles (p : Prim) (b : List Byte) : List Nat :=
  let (u, v, w) := p.pts
  let unit : Int := 32 * 2 ^ 149
  let lo (f : Pt → Int) (n : Nat) : Nat := (clampInt ((min (f u) (min (f v) (f w))) / unit) 0 (n - 1 : Nat)).toNat
  let hi (f : Pt → Int) (n : Nat) : Nat := (clampInt ((max (f u) (max (f v) (f w))) / unit) 0 (n - 1 : Nat)).toNat
  let tx := sbTx b
  let ty := ceilDiv (sbH b) 32
  (List.range' (lo (·.2) ty) (hi (·.2) ty + 1 - lo (·.2) ty)).flatMap fun r =>
    (List.range' (lo (·.1) tx) (hi (·.1) tx + 1 - lo (·.1) tx)).map fun c => r * tx + c

/-! ### Retire (R301) -/

/-- The depth test of a fragment; a NaN fails all but always. -/
def depthPass (func : Nat) (d s : Word) : Bool :=
  let c (k : FCond) : Bool := f32cond k d s && !f32cond .un d s
  match func with
  | 0 => false | 1 => c .lt | 2 => c .eq | 3 => c .le | 4 => c .gt | 5 => c .ne | 6 => c .ge
  | _ => true

/-- The channels of a target's pixel as binary32. -/
def decodePixel (fmt : Nat) (b : List Byte) : List Word :=
  match fmt with
  | 0 => (b.take 4).map fun x => ratio32 x.toNat 255
  | 1 => (List.range 4).map fun k =>
      BitVec.ofNat 32 (Fmt.f32.round .rn (Fmt.f16.value (fieldOf b (2 * k) 2)))
  | _ => wordsOf 4 b

/-- RoundNE of a clamped channel times 255. -/
def unorm8 (c : Word) : Nat :=
  let x := f32min (f32max c 0) 0x3F800000
  match Num.mul (f32val x) (.fin false 255 0) with
  | .fin neg m e => (roundInt .rn neg m e).toNat
  | _ => 0

/-- A channel as binary16 under the overflow table's action (R99). -/
def half16 (ovt : BitVec 16) (c : Word) : Nat := narrowBits ovt .f32 .f16 .rn c.toNat

/-- The bytes of a target's pixel. -/
def encodePixel (fmt : Nat) (ovt : BitVec 16) (cs : List Word) : List Byte :=
  match fmt with
  | 0 => (cs.take 4).flatMap fun c => natLe 1 (unorm8 c)
  | 1 => (cs.take 4).flatMap fun c => natLe 2 (half16 ovt c)
  | _ => bytesOf (cs.take 4)

/-- The blend of a source with a destination. -/
def blend4 (mode : Nat) (s d : List Word) : List Word :=
  match mode with
  | 0 => s
  | 1 =>
    let inv := f32sub 0x3F800000 (s.getD 3 0)
    List.zipWith (fun a b => f32fma a (s.getD 3 0) (f32mul b inv)) s d
  | _ => List.zipWith f32add s d

/-- The outcome of a retiring fragment: RESULT, and whether it blends. -/
def retireResult (sb : List Byte) (f : Frag) (stored : Word) : Nat × Bool :=
  if f.discarded then (4, false)
  else if sbFlag sb 3 then (if depthPass (sbFunc sb) f.depth stored then (0, true) else (1, false))
  else (3, true)

/-- The pixel of a target after the fragment. -/
def retirePixel (sb : List Byte) (ovt : BitVec 16) (f : Frag) (pass : Bool) (n : Nat) (before : List Byte) :
    List Byte :=
  match f.colors.find? fun e => e.1 == n with
  | none => before
  | some (_, src) =>
    let (_, fmt, mode) := sbTarget sb n
    if pass then encodePixel fmt ovt (blend4 mode src (decodePixel fmt before)) else before

/-- SRC of a record: the source colour in binary16 by CVT.rn (R320). -/
def srcBytes (f : Frag) (n : Nat) : List Byte :=
  match f.colors.find? fun e => e.1 == n with
  | none => List.replicate 8 0
  | some (_, src) => src.flatMap fun c => natLe 2 (Fmt.f16.round .rn (f32val c))

/-- The early test applies to a draw (R302). -/
def sbEarly (b : List Byte) : Bool :=
  sbFlag b 3 && (sbFunc b == 1 || sbFunc b == 3) && !sbFlag b 2 && decide (sbNat b 56 8 ≠ 0)

/-- A primitive goes to the software raster kernel (R298). -/
def Prim.software (p : Prim) (b : List Byte) : Bool :=
  decide (sbNat b 192 8 ≠ 0) && !sbFlag b 0 && !sbFlag b 1 && !sbFlag b 2 &&
    ((List.range (sbNtgt b)).all fun n => (sbTarget b n).2.2 == 0) &&
    p.small (BitVec.ofNat 32 (sbNat b 44 4))

/-- The visibility word of a fragment (R299). -/
def visWord (draw prim : Nat) (z : Word) : Nat :=
  let d := f32min (f32max z 0) 0x3F800000
  (2 ^ 32 - 1 - d.toNat) * 2 ^ 32 + draw % 2 ^ 12 * 2 ^ 20 + prim % 2 ^ 20

end Sys2Proof.Machine
end

