-- ==== Sys2Proof/Machine/Graphics.lean ====
section
/-! DEFINITION. Meanings of the graphics and work-graph instructions (10 R285-R287): DRAW (11 R291-R294),
VXEMIT, PRIMEMIT, PXOUT, DISCARD, DEPW, WREC (R303-R305) and LINSET. -/

namespace Sys2Proof.Machine

/-! ### Kernels that the pipeline launches (R294) -/

/-- The needs of a pipeline kernel as a task record would state them: width and pool from its declarations,
PARTWORD for one of the cores a block spans (R52, R294); 0 when they pass 64 units. -/
def pipeTask (slot : Nat) (k : DWord) (dflt threads nblocks prio cores : Nat) : TaskRec :=
  let (pool, spad) := Config.kernelPool slot k
  let width := match Config.kernelWidth slot k with
    | some w => 8 * 2 ^ w.val
    | none => dflt
  let per := ceilDiv (ceilDiv threads width) cores
  let vregs := 8 * (bfield pool 0 6 + 1)
  let h := bfield pool 9 5
  let c := bfield pool 14 3
  let z := bfield pool 17 5
  let units := [ceilDiv (min threads (per * width) * vregs * 4) 32768, ceilDiv (per * 4096) 32768,
    ceilDiv (per * (h * 1024 + c * 8192)) 32768, ceilDiv (per * z) 2, ceilDiv spad 32768]
  let word := if units.sum ≤ 64 ∧ units.all (fun u => decide (u < 64)) then
      units.foldr (fun u w => u + 64 * w) 0 else 0
  { kaddr := k, partword := BitVec.ofNat 32 word, nblocks := nblocks, threads := threads, width := width
    prio := prio, persist := false, roles := [(0, 8), (0, 8), (0, 8)], vregs := vregs
    sregs := 128 * (bfield pool 6 3 + 1), hcount := h, ccount := c, zcount := z, ept := 0, ipeak := 0
    parent := 0, arg := 0 }

/-- Cores that a block of a pipeline kernel of a width spans. -/
def pipeCores (threads : Nat) : Nat := if threads ≤ 2304 then 1 else 2

/-- The kernel of a stage of a draw. -/
def vertexTask (slot : Nat) (sb : List Byte) (n prio : Nat) : TaskRec :=
  pipeTask slot (sbKernel sb 0) 64 64 (ceilDiv n 64) prio 1

/-- A bin block of some primitives (R296). -/
def binTask (slot : Nat) (sb : List Byte) (n prio : Nat) : TaskRec :=
  pipeTask slot (sbKernel sb 16) 32 n 1 prio (pipeCores n)

/-- The width of a pixel kernel's groups (R294). -/
def pixelWidth (slot : Nat) (sb : List Byte) : Nat :=
  match Config.kernelWidth slot (sbKernel sb 8) with
  | some w => 8 * 2 ^ w.val
  | none => 32

/-- Pixel-kernel blocks of one group each. -/
def pixelTask (slot : Nat) (sb : List Byte) (blocks prio : Nat) : TaskRec :=
  pipeTask slot (sbKernel sb 8) 32 (pixelWidth slot sb) blocks prio 1

/-- A software raster kernel of the draw's own, for one primitive (R298; log entry 37). -/
def rasterTask (slot : Nat) (sb : List Byte) (prio : Nat) : TaskRec := pipeTask slot (sbKernel sb 208) 32 1 1 prio 1

/-- A grid of the pipeline. -/
def pipeGrid (uid slot : Nat) (t : TaskRec) (kind : BlockKind) (name : Name) (hits : List WatchHit) : Grid :=
  mkGrid uid slot [] t kind name hits

/-- Scalars s0 to s4 of a stage's groups (R292, R293, R296): two counts, the state block's address, the draw
number (DEDUCED, log entry 37). -/
def stageScalars (a b : Nat) (sa : DWord) (num : Nat) : Regs :=
  [BitVec.ofNat 32 a, BitVec.ofNat 32 b, lo32 sa, hi32 sa, BitVec.ofNat 32 num].zipIdx.foldl
    (fun t e => tset 0 t e.2 e.1) []

/-- A kernel of a draw cannot be placed on one core (R294); a bin block is tested with min(n, 2,304) threads, a
software raster kernel with VISBASE 0 too (DESIGN CHOICE, log entry 139). -/
def drawUnplaceable (slot : Nat) (sb : List Byte) (n prio : Nat) : Bool :=
  !(vertexTask slot sb n prio).holds 1 ||
  (decide (sbNat sb 16 8 ≠ 0) && !(binTask slot sb (max 1 (min n 2304)) prio).holds 1) ||
  !(pixelTask slot sb 1 prio).holds 1 ||
  (decide (sbNat sb 208 8 ≠ 0) && !(rasterTask slot sb prio).holds 1)

/-! ### DRAW -/

/-- The task priority of a group. -/
def State.prioOf (s : State) (g : Group) : Nat := ((s.block? g.block).map (·.task.prio)).getD 0

/-- The draw performs (R285, R292, R314, R315, R319): it takes its number, its vertex grid is launched, its
record written. -/
def State.startDraw (s : State) (g : Group) (c : Clause) (sa : DWord) (sb : List Byte) (n : Nat) :
    Nat × State :=
  let slot := s.slotOf g
  let x := g.lane (maskLowest (g.noHelpers c.exec))
  let ccb := (s.ctx slot).ccb
  let frame := nameFrame x.lin
  let num := if ccb.lastFrame.toNat = frame then ccb.drawCtr.toNat else 0
  let name := nameMake slot frame 0 num 0 0 0
  let hits := s.matchesOf slot name x.watch
  let s := s.modCtx slot fun k => { k with ccb := { k.ccb with
    drawCtr := BitVec.ofNat 24 (num + 1), lastFrame := BitVec.ofNat 20 frame } }
  let s := s.watchRecord (s.who g) hits { lin := name, stage := 7 }
  if n = 0 then (num, s)
  else
    let (u, s) := s.newId
    let (v, s) := s.newId
    let prio := s.prioOf g
    let d : Draw := {
      uid := u, slot := slot, number := num, name := name, watch := hits, sbAt := sa, sb := sb
      nprims := n, frame := frame, prio := prio, stage := .vertex, prims := [], primHits := []
      grid := some v, nextBin := 0, requests := [], render := none, defer := [], pending := []
      culled := [], skips := [] }
    (num, { s with draws := s.draws ++ [s.giveKept d] }.addGrid
      { pipeGrid v slot (vertexTask slot sb n prio) (.vertex u) name hits with
        scalars := stageScalars 0 n sa num })

/-- DRAW (R285, R291); in a replay, or in helper lanes alone, nothing happens (R18, R325). -/
def execDraw (d a n : SReg) (s : State) : Host.Outcome State Fault Refusal :=
  issue (.draw d a n) s fun g c =>
    let i : Instr := .draw d a n
    let sa := readS64 s g a.val
    let k := (readS s g n.val).toNat
    if g.replay || g.allHelpers c.exec then s
    else if sa.toNat % 256 ≠ 0 then s.trap g c i .pipearg
    else if !canonical sa then s.late g i { code := .addrform, addr := sa.toNat, write := false }
    else
      match s.loadRecord (s.who g) sa.toNat 256 with
      | .error (code, lv, at_) =>
        s.holdFault g c { code := code, addr := at_, level := lv, source := 1 } c.exec
      | .ok sb =>
        if sbBad sb || drawUnplaceable (s.slotOf g) sb k (s.prioOf g) then
          s.trap g c i .pipearg
        else
          let (num, s) := s.startDraw g c sa sb k
          s.modGroup g.uid fun y => y.writeS d.val (BitVec.ofNat 32 num)

/-! ### Stages -/

/-- The draw whose vertex kernel a group runs. -/
def State.vertexDraw (s : State) (g : Group) : Option (Block × Draw) :=
  match s.block? g.block with
  | none => none
  | some b => match b.kind with
    | .vertex d => (s.draw? d).map fun x => (b, x)
    | _ => none

/-- The state block of the draw whose fragments a group shades: the draw's, or the retained one in the
replay of a fragment (R324). -/
def State.pixelSb (s : State) (g : Group) : Option (List Byte) :=
  match s.block? g.block with
  | none => none
  | some b => match b.kind with
    | .pixel d => some (((s.draw? d).map (·.sb)).getD [])
    | .replay n => match s.replay? n with
      | some r => if fieldOf r.recBytes 16 1 = 5 then none else some ((r.retain.drop 64).take 256)
      | none => none
    | _ => none

/-- An instruction of the pixel stage: PIPEARG in another kernel's lanes; no effect when no lane of the
mask executes. -/
def pixelStage (i : Instr) (s : State) (lanes : Group → Clause → Mask)
    (k : Group → Clause → List Byte → State) : Host.Outcome State Fault Refusal :=
  issue i s fun g c =>
    let m := lanes g c
    if m = 0 then s
    else match s.pixelSb g with
      | none => s.trapAt g c i { code := .pipearg } m
      | some sb => k g c sb

/-- The executing lanes that are no helpers. -/
def realLanes (g : Group) (c : Clause) : Mask := g.noHelpers c.exec

/-- Change the fragment of a lane. -/
def Group.modFrag (g : Group) (l : Nat) (f : Frag → Frag) : Group :=
  g.modLane l fun x => { x with frag := x.frag.map f }

/-- Lanes whose registers of a span carry a poison mark: the span's length is known only at issue. -/
def spanPoison (g : Group) (m : Mask) (r n : Nat) : Mask :=
  maskOf ((lanesOf m).filter fun l => (List.range n).any fun k => g.vBad l (r + k))

/-! ### VXEMIT and PRIMEMIT -/

/-- VXEMIT (R285): the higher lane's value stays. -/
def execVxemit (v a : VReg) (s : State) : Host.Outcome State Fault Refusal :=
  issue (.vxemit v a) s fun g c =>
    let i : Instr := .vxemit v a
    let m := realLanes g c
    if m = 0 then s
    else match s.vertexDraw g with
      | none => s.trapAt g c i { code := .pipearg } m
      | some (b, d) =>
        let w := sbNat d.sb 41 1
        let idx (l : Nat) : Nat := (readV s g l v.val).toNat
        if 120 < a.val + w ∨ (lanesOf m).any fun l => decide (255 < idx l) then
          s.trapAt g c i { code := .pipearg } m
        else if spanPoison g m a.val w ≠ 0 then
          s.holdFault g c { code := .poison, source := Instr.source i, pool := true } (spanPoison g m a.val w)
        else s.modBlock b.uid fun b => (lanesOf m).foldl (fun (b : Block) l => { b with
          verts := tput b.verts (idx l) ((List.range w).map fun k => readV s g l (a.val + k)) }) b

/-- PRIMEMIT (R285, R292): a later one of the same number replaces it. -/
def execPrimemit (v p : VReg) (s : State) : Host.Outcome State Fault Refusal :=
  issue (.primemit v p) s fun g c =>
    let i : Instr := .primemit v p
    let m := realLanes g c
    if m = 0 then s
    else match s.vertexDraw g with
      | none => s.trapAt g c i { code := .pipearg } m
      | some (b, d) =>
        let first := 64 * b.bid
        let last := min (first + 64) d.nprims
        let vi (l : Nat) : Nat := (readV s g l v.val).toNat
        let num (l : Nat) : Nat := (readV s g l p.val).toNat
        if (lanesOf m).any fun l => decide (bfield (vi l) 24 7 ≠ 0) || decide (num l < first) ||
            decide (last ≤ num l) then s.trapAt g c i { code := .pipearg } m
        else s.modBlock b.uid fun b => (lanesOf m).foldl (fun (b : Block) l => { b with
          prims := tput b.prims (num l)
            ([bfield (vi l) 0 8, bfield (vi l) 8 8, bfield (vi l) 16 8], (vi l).testBit 31) }) b

/-! ### PXOUT, DEPW, DISCARD -/

/-- PXOUT (R285). -/
def execPxout (n : Fin 8) (a : VReg) (s : State) : Host.Outcome State Fault Refusal :=
  pixelStage (.pxout n a) s realLanes fun g c sb =>
    if sbNtgt sb ≤ n.val then s
    else s.setGroup ((lanesOf (realLanes g c)).foldl (fun g' l => g'.modFrag l fun f => { f with
      colors := tput f.colors n.val ((List.range 4).map fun k => readV s g l (a.val + k)) }) g)

/-- DEPW (R285, R286). -/
def execDepw (a : VReg) (s : State) : Host.Outcome State Fault Refusal :=
  pixelStage (.depw a) s realLanes fun g c sb =>
    if !sbFlag sb 2 then s.trapAt g c (.depw a) { code := .depwstate } (realLanes g c)
    else s.setGroup ((lanesOf (realLanes g c)).foldl (fun g' l => g'.modFrag l fun f =>
      let z := f32min (f32max (readV s g l a.val) 0) 0x3F800000
      { f with depth := z, depw := some z }) g)

/-- DISCARD (R286): the lanes become helper lanes, and the quad rule of R18 applies; records that WREC has already
sent stay in the token store (DESIGN CHOICE, log entry 138). -/
def execDiscard (s : State) : Host.Outcome State Fault Refusal :=
  pixelStage .discard s (fun _ c => c.exec) fun g c sb =>
    if !sbFlag sb 1 then s.trap g c .discard .discardstate
    else
      let g' := (lanesOf (realLanes g c)).foldl (fun g' l =>
        (g'.modLane l fun x => { x with helper := true }).modFrag l fun f => { f with discarded := true }) g
      (s.setGroup g').exitLanes g.uid 0

/-! ### LINSET -/

/-- LINSET (R287). -/
def execLinset (a : VReg) (s : State) : Host.Outcome State Fault Refusal :=
  issue (.linset a) s fun g c =>
    if (lanesOf c.exec).any fun l => decide ((readV s g l a.val).toNat / 2 ^ 12 ≠ 0) then
      s.trap g c (.linset a) .pipearg
    else s.setGroup (eachLane g c fun g' l => g'.modLane l fun x => { x with linset := readV s g l a.val })

/-! ### WREC -/

/-- A node's descriptor (R303): the task record's address, its ports, its words per record. -/
structure NodeDesc where
  task  : DWord
  ports : Nat
  words : Nat
  deriving DecidableEq, Repr

/-- Read a node's descriptor. -/
def State.nodeDesc (s : State) (w : Who) (n : Nat) : Except FaultAt NodeDesc :=
  match s.loadRecord w ((s.ctx w.slot).ccb.nodeTab.toNat + 32 * n) 32 with
  | .error (c, lv, a) => .error { code := c, addr := a, level := lv }
  | .ok b => .ok { task := BitVec.ofNat 64 (fieldOf b 0 8), ports := fieldOf b 8 1, words := fieldOf b 9 1 }

/-- Clusters of a partition, ascending (R347); the Waystation's cores stand as cluster 8 and its partition (R6)
(DESIGN CHOICE, log entry 123). -/
def State.clustersOf (s : State) (p : Nat) : List Nat :=
  if p = 8 then [8] else (List.range 8).filter fun n => (s.cluster n).part == p

/-- The cluster whose store holds a key (R304). -/
def State.storeOf (s : State) (slot node : Nat) (tag : Word) : Nat :=
  let cs := s.clustersOf (s.ctx slot).ccb.part
  cs.getD ((node + tag.toNat) % cs.length) 0

/-- Records a spill area holds: 64 bytes each (log entry 33). -/
def State.spillRoom (s : State) (slot : Nat) : Bool :=
  let used := ((List.range 8).map fun n =>
    ((s.cluster n).store.filter fun r => r.slot == slot && r.spilled).length).sum
  decide (64 * (used + 1) ≤ (s.ctx slot).ccb.spillBytes)

/-- Make room in a store of 4,096 records (R305): its least recently inserted record spills; none when that
record's spill area is full. -/
def State.storeRoom (s : State) (cl : Nat) : Option State :=
  let k := (s.cluster cl).store
  if (k.filter fun r => !r.spilled).length < 4096 then some s
  else
    match k.find? fun r => !r.spilled with
    | none => some s
    | some r =>
      if s.spillRoom r.slot then
        let i := k.findIdx fun r => !r.spilled
        some (s.modCluster cl fun c => { c with store := c.store.modify i fun r => { r with spilled := true } })
      else none

/-- A record joins its store. -/
def State.storeRecord (s : State) (r : NodeRec) : Option State :=
  let cl := s.storeOf r.slot r.node r.tag
  (s.storeRoom cl).map fun s => s.modCluster cl fun c => { c with store := c.store ++ [r] }

/-- Send the records of lanes in order; the lanes left when a store has no room (R305). -/
def sendRecords (mk : Nat → NodeRec) : List Nat → State → State × List Nat
  | [], s => (s, [])
  | l :: ls, s => match s.storeRecord (mk l) with
    | some s => sendRecords mk ls s
    | none => (s, l :: ls)

/-- WREC (R285, R303-R305): in a replay nothing happens (R325). Bits [31:16] of U(sn), which the rule does not
name, are ignored (DESIGN CHOICE, log entry 131). -/
def execWrec (n : SReg) (t a : VReg) (s : State) : Host.Outcome State Fault Refusal :=
  issue (.wrec n t a) s fun g c =>
    let i : Instr := .wrec n t a
    let m := realLanes g c
    let w := s.who g
    let k := (readS s g n.val).toNat
    if g.replay || decide (m = 0) then s
    else
      match s.nodeDesc w (bfield k 2 14) with
      | .error f =>
        if f.code.resolvable then s.holdFault g c { f with source := 1 } m
        else s.late g i f
      | .ok d =>
        let port := bfield k 0 2
        if d.ports ≤ port ∨ 4 < d.ports ∨ d.words = 0 ∨ 8 < d.words ∨
            (if a.val < 120 then 120 else 128) < a.val + d.words then
          s.trapAt g c i { code := .pipearg } m
        else if spanPoison g m a.val d.words ≠ 0 then
          s.holdFault g c { code := .poison, source := Instr.source i, pool := true } (spanPoison g m a.val d.words)
        else
          let mk (l : Nat) : NodeRec := {
            slot := w.slot, node := bfield k 2 14, tag := readV s g l t.val, port := port
            words := (List.range d.words).map fun j => readV s g l (a.val + j)
            name := (g.lane l).lin, watch := (g.lane l).watch, spilled := false }
          match sendRecords mk (lanesOf (m &&& ~~~ c.partialDone)) s with
          | (s, []) => s
          | (s, left) =>
            let s := s.modGroup g.uid fun x => x.modClause fun c =>
              { c with partialDone := m &&& ~~~ maskOf left }
            s.holdClause g.uid (.storeSpace (s.storeOf w.slot (bfield k 2 14) (readV s g (left.headD 0) t.val)))

end Sys2Proof.Machine
end

