-- ==== Sys2Proof/Machine/Watch.lean ====
section
/-! DEFINITION. WATCH (10 R288, 12 R316-R318) and REPLAY (10 R289, 12 R323, R324, R327): the checks, the
record and its retained state, and the replay grid. -/

namespace Sys2Proof.Machine

/-! ### WATCH -/

/-- The fields of a specification as a comparator holds them; the generation is the one given (R316). -/
def parseSpec (b : List Byte) (gen : Word) : Comparator :=
  { value := BitVec.ofNat 128 (fieldOf b 0 16), mask := BitVec.ofNat 128 (fieldOf b 16 16)
    ring := BitVec.ofNat 64 (fieldOf b 32 8), retain := BitVec.ofNat 64 (fieldOf b 40 8)
    log2cap := fieldOf b 48 1, mode := fieldOf b 49 1, tgt := fieldOf b 50 1
    inherit := (fieldOf b 51 1).testBit 0, stages := BitVec.ofNat 16 (fieldOf b 52 2), gen := gen }

/-- The specification makes WATCH raise PIPEARG (R316); MODE 0 ignores the other fields. -/
def specBad (b : List Byte) : Bool :=
  let mode := fieldOf b 49 1
  let stages := fieldOf b 52 2
  decide (2 < mode) || (decide (mode ≠ 0) &&
    (decide (fieldOf b 48 1 < 4) || decide (16 < fieldOf b 48 1) || decide (fieldOf b 32 8 % 64 ≠ 0) ||
      decide (fieldOf b 40 8 % 1024 ≠ 0) || decide (7 < fieldOf b 50 1) || decide (fieldOf b 51 1 / 2 ≠ 0) ||
      stages.testBit 0 || decide (stages / 256 ≠ 0) || decide (fieldOf b 54 8 ≠ 0) ||
      decide (fieldOf b 62 2 ≠ 0)))

/-- The header of a ring newly armed (R318, R321). -/
def ringHeader (log2cap : Nat) (gen : Word) : List Byte :=
  natLe 4 log2cap ++ natLe 4 0 ++ natLe 4 gen.toNat ++ List.replicate 52 0

/-- A comparator is armed or disarmed (R318): its generation grows; a disarm keeps the fields of the last
arming. -/
def State.arm (s : State) (w : Who) (n : Nat) (b : List Byte) : State :=
  let old := (s.ctx w.slot).comp n
  let gen := old.gen + 1
  let new := if fieldOf b 49 1 = 0 then { old with mode := 0, gen := gen } else parseSpec b gen
  let s := s.modCtx w.slot fun c => { c with comps := tset {} c.comps n new }
  if new.mode = 0 then s
  else (s.quietStore w new.ring.toNat (ringHeader new.log2cap gen)).getD s

/-- WATCH (R288); in a replay, or in helper lanes alone, nothing happens (R18, R325). -/
def execWatch (n a : SReg) (s : State) : Host.Outcome State Fault Refusal :=
  issue (.watch n a) s fun g c =>
    let i : Instr := .watch n a
    let k := (readS s g n.val).toNat
    let sa := readS64 s g a.val
    if g.replay || g.allHelpers c.exec then s
    else if (s.ctxOf g).ccb.debug = false then s.trap g c i .debug
    else if 15 < k ∨ sa.toNat % 64 ≠ 0 then s.trap g c i .pipearg
    else if !canonical sa then s.late g i { code := .addrform, addr := sa.toNat, write := false }
    else
      match s.loadRecord (s.who g) sa.toNat 64 with
      | .error (code, lv, at_) =>
        s.holdFault g c { code := code, addr := at_, level := lv, source := 1 } c.exec
      | .ok b => if specBad b then s.trap g c i .pipearg else s.arm (s.who g) k b

/-! ### REPLAY -/

/-- What the lookup of a record gives (R323). -/
inductive Lookup where
  /-- The retention slot. -/
  | found (retain : List Byte)
  /-- The record is of another slot or another stage. -/
  | notFound
  | stateLost
  /-- A read of the ring header or of the retention slot fails. -/
  | fault (f : FaultAt)
  deriving DecidableEq, Repr

/-- A group-level read of REPLAY whose poison gives STATE_LOST (R323). -/
def State.replayRead (s : State) (w : Who) (a n : Nat) : Except FaultAt (Option (List Byte)) :=
  match s.loadRecord w a n with
  | .ok b => .ok (some b)
  | .error (.poison, _, _) => .ok none
  | .error (c, lv, at_) => .error { code := c, addr := at_, level := lv, source := 1 }

/-- Look a record up: the ring of its comparator's last arming, and its retention slot (R323). -/
def State.lookupRecord (s : State) (w : Who) (rec : List Byte) : Lookup :=
  let stage := fieldOf rec 16 1
  let seq := fieldOf rec 24 4
  let gen := fieldOf rec 28 4
  if fieldOf rec 15 1 ≠ w.slot ∨ (stage ≠ 1 ∧ stage ≠ 2 ∧ stage ≠ 5) then .notFound
  else
    let k := (s.ctx w.slot).comp (bfield (fieldOf rec 17 1) 4 4)
    if k.log2cap = 0 then .stateLost
    else
      match s.replayRead w k.ring.toNat 64 with
      | .error f => .fault f
      | .ok none => .stateLost
      | .ok (some h) =>
        let cap := 2 ^ bfield (fieldOf h 0 4) 0 5
        if fieldOf h 8 4 ≠ gen ∨ cap < (fieldOf h 4 4 + 2 ^ 32 - seq) % 2 ^ 32 then .stateLost
        else
          match s.replayRead w (k.retain.toNat + 1024 * (seq % cap)) 1024 with
          | .error f => .fault f
          | .ok none => .stateLost
          | .ok (some t) => if fieldOf t 0 4 = seq ∧ fieldOf t 4 4 = gen then .found t else .stateLost

/-- The bytes that looking a record up reads: the ring's header, then the record's retention slot (R323, R335). -/
def State.lookupSpans (s : State) (w : Who) (rec : List Byte) : List Span :=
  let stage := fieldOf rec 16 1
  let k := (s.ctx w.slot).comp (bfield (fieldOf rec 17 1) 4 4)
  if fieldOf rec 15 1 ≠ w.slot ∨ (stage ≠ 1 ∧ stage ≠ 2 ∧ stage ≠ 5) ∨ k.log2cap = 0 then []
  else
    { addr := k.ring.toNat, n := 64, spad := none } :: match s.replayRead w k.ring.toNat 64 with
      | .ok (some h) =>
        let cap := 2 ^ bfield (fieldOf h 0 4) 0 5
        [{ addr := k.retain.toNat + 1024 * (fieldOf rec 24 4 % cap), n := 1024, spad := none }]
      | _ => []

/-- Pool units of a replay context's overlay, 256 KiB (R326). -/
def overlayUnits : Nat := 8

/-- The task of a replay group, none when it cannot be built or placed (R323, R324) (DEDUCED, log entry 74). -/
def replayTask (slot ceil prio : Nat) (rec retain : List Byte) : Option TaskRec :=
  if fieldOf rec 16 1 = 5 then
    let b := (retain.drop 64).take 64
    let t := taskOf slot b
    let t := { t with nblocks := 1, extra := overlayUnits }
    if (taskRefusal ceil b t).isSome || decide (t.width ≤ fieldOf retain 134 2) ||
        decide (t.groups ≤ fieldOf retain 132 2) then none
    else some t
  else
    let sb := (retain.drop 64).take 256
    let t := pipeTask slot (sbKernel sb 8) 8 8 1 prio 1
    let t := { t with width := 8, extra := overlayUnits }
    if sbBad sb || !t.holds 1 then none else some t

/-- The quad member that a fragment record's item is (R214, R313, R324). -/
def itemMember (n : Name) : Nat := bfield (nameItem n) 20 1 + 2 * bfield (nameItem n) 8 1

/-- The lane a replay runs its item in (R324). -/
def replayLane (rec retain : List Byte) : Nat :=
  if fieldOf rec 16 1 = 5 then fieldOf retain 134 2 else itemMember (BitVec.ofNat 128 (fieldOf rec 0 16))

/-- Conditions known before the replay runs (R324, R325): a fragment of the quad runs as a helper; the depth
test or the blend reads the retained destination. -/
def replayCond (rec retain : List Byte) : BitVec 8 :=
  if fieldOf rec 16 1 = 5 then 0
  else
    let sb := (retain.drop 64).take 256
    let cov := bfield (fieldOf rec 18 1) 0 4
    let m := itemMember (BitVec.ofNat 128 (fieldOf rec 0 16))
    let one : BitVec 8 := if (List.range 4).any fun k => cov.testBit k && k != m then 2 else 0
    let two : BitVec 8 :=
      if sbFlag sb 3 || decide ((sbTarget sb (bfield (fieldOf rec 19 1) 0 3)).2.2 ≠ 0) then 4 else 0
    one ||| two

/-- The overlay a replay starts with (R324): for a fragment, the retained state block at its address. -/
def replayOverlay (rec retain : List Byte) : List Host.Cell :=
  if fieldOf rec 16 1 = 5 then []
  else ((retain.drop 64).take 256).mapIdx fun i b => (fieldOf retain 32 8 + i, b)

/-- The replay starts, or its status is already known (R289, R323): its results wait for its flag. -/
def State.startReplay (s : State) (g : Group) (c : Clause) (i : Instr) (d : SReg) (ta : DWord) (cap : Nat)
    (rec : List Byte) (found : Option (List Byte)) (status : Option Nat) : State :=
  let slot := s.slotOf g
  let (n, s) := s.newId
  let (u, s) := s.newId
  let task := found.bind fun t => replayTask slot (s.ctx slot).ccb.prioCeil (s.prioOf g) rec t
  let status := if found.isSome ∧ task.isNone then some 3 else status
  let retain := found.getD []
  let r : Replay := {
    num := n, group := g.uid, slot := slot, flag := c.tied, dst := g.sbase + d.val, recBytes := rec
    retain := retain, traceAt := ta, cap := cap
    cond := if status = some 3 then 8 else if status.isSome then 0 else replayCond rec retain
    trace := [], written := 0, ordinal := 0, lastAt := (0, 0), overlay := replayOverlay rec retain
    kernel := (task.map (·.kaddr)).getD 0, lane := replayLane rec retain, block := none
    grid := if task.isSome then some u else none, status := status, record := none, dropped := false
    mask := c.exec, word := c.word, header := c.header }
  let s := { s with replays := s.replays ++ [r] }
  let s := s.modGroup g.uid fun y => y.queueS c.tied d.val (owedS s g i)
  match task with
  | none => s
  | some t =>
    let name : Name := BitVec.ofNat 128 (fieldOf rec 0 16)
    let only := if fieldOf rec 16 1 = 5 then some (fieldOf retain 132 2, fieldOf retain 134 2) else none
    let scalars : Regs := if fieldOf rec 16 1 = 5 then
        ((List.range 96).map fun k => BitVec.ofNat 32 (fieldOf retain (320 + 4 * k) 4)).zipIdx.foldl
          (fun t e => tset 0 t e.2 e.1) []
      else [(2, fieldOf retain 32 4), (3, fieldOf retain 36 4), (4, nameDisp name)].foldl
        (fun t e => tset 0 t e.1 (BitVec.ofNat 32 e.2)) []
    let grid := { mkGrid u slot ((retain.drop 64).take 64) { t with prio := s.prioOf g } (.replay n) name [] with
      scalars := scalars, only := only }
    s.addGrid grid

/-- REPLAY (R289); in a replay, or in helper lanes alone, nothing happens (R18, R325). -/
def execReplay (d a : SReg) (s : State) : Host.Outcome State Fault Refusal :=
  issue (.replay d a) s fun g c =>
    let i : Instr := .replay d a
    let ra := readS64 s g a.val
    let ta := readS64 s g (a.val + 2)
    let w := s.who g
    let stop (f : FaultAt) : State := s.holdFault g c f c.exec
    if g.replay || g.allHelpers c.exec then s
    else if (s.ctxOf g).ccb.debug = false then s.trap g c i .debug
    else if ra.toNat % 64 ≠ 0 ∨ ta.toNat % 64 ≠ 0 then s.trap g c i .pipearg
    else if s.blockedAll g c i [{ addr := ra.toNat, n := 64, spad := none }, { addr := ta.toNat, n := 4, spad := none }] then
      s.holdClause g.uid .answers
    else if !canonical ra then s.late g i { code := .addrform, addr := ra.toNat, write := false }
    else if !canonical ta then s.late g i { code := .addrform, addr := ta.toNat, write := false }
    else
      match s.loadRecord w ta.toNat 4, s.loadRecord w ra.toNat 64 with
      | .error (code, lv, at_), _ => stop { code := code, addr := at_, level := lv, source := 1 }
      | _, .error (code, lv, at_) => stop { code := code, addr := at_, level := lv, source := 1 }
      | .ok h, .ok rec =>
        let cap := leNat h
        if s.blockedAll g c i (s.lookupSpans w rec) then s.holdClause g.uid .answers
        else if cap < 64 ∨ cap % 16 ≠ 0 then s.trap g c i .memarg
        else
          match s.lookupRecord w rec with
          | .fault f => stop f
          | .notFound => s.startReplay g c i d ta cap rec none (some 5)
          | .stateLost => s.startReplay g c i d ta cap rec none (some 3)
          | .found t => s.startReplay g c i d ta cap rec (some t) none

end Sys2Proof.Machine
end

