-- ==== Sys2Proof/Machine/Privileged.lean ====
section
/-! DEFINITION. Meanings of class 0xE (18 R350-R356), the resolution of their tokens, and HINT (06 R147,
R154). -/

namespace Sys2Proof.Machine

/-! ### ERET -/

/-- The first lanes that wait for a record slot of a context's handler table enter the handler, once their
group is not in handler state (R371). -/
def State.popHandler (s : State) (slot : Nat) : State :=
  let ready (h : HandlerWait) : Bool := match s.group? h.group with
    | some g => s.slotOf g == slot && !g.handler &&
        (lanesOf (h.mask &&& g.live)).all fun l => decide ((g.lane l).st = .parked .handlerSlot)
    | none => false
  match (s.ctx slot).freeHslot, s.handlerQueue.find? ready with
  | some k, some h =>
    let at_ (l : Nat) : DWord := ((h.resume.find? fun e => e.1 == l).map (·.2)).getD 0
    ({ s with handlerQueue := s.handlerQueue.eraseP ready }.enterHandler h.group k h.record h.mask at_).getD s
  | _, _ => s

/-- ERET (R351): PRIVARG out of handler state; each lane goes to its resume address, the record's slot is
free and the group leaves handler state. -/
def execEret (s : State) : Host.Outcome State Fault Refusal :=
  issue .eret s fun g c =>
    if !g.handler then s.trap g c .eret .privarg
    else
      let ls := (lanesOf c.exec).map fun l => (l, (g.lane l).resume)
      let g' := { (g.transfer c.exec fun l => (g.lane l).resume) with handler := false, hslot := none }
      let s' := (s.setGroup g').modCtx (s.slotOf g) fun x => { x with
        hslots := match g.hslot with
          | some k => x.hslots.filter fun i => i ≠ k
          | none => x.hslots }
      s.checked g c none false ls (s'.popHandler (s.slotOf g))

/-! ### Contexts -/

/-- A physical address an instruction may name (R350). -/
def physOk (a : DWord) : Bool := a.toNat / 2 ^ 52 == 0

/-- Begin an operation that finishes later: its token goes to `d`, and `k` is what happens at once; with no
token slot free the instruction waits (R245, R350). -/
def State.withToken (s : State) (g : Group) (i : Instr) (d : SReg) (k : Nat → State → State) : State :=
  match s.takeToken (s.slotOf g) with
  | none => s.holdClause g.uid .tokenSlot
  | some (n, t, s) =>
    let s := { s with tokenOps := s.tokenOps ++ [(s.slotOf g, n, i, g)] }
    k n (s.modGroup g.uid fun x => x.writeS d.val t)

/-- Blocks of a slot are asked to stop (R352, R388). -/
def State.askStop (s : State) (slot : Nat) (why : Preempt) (p : Block → Bool) : State :=
  let bs := s.blocks.filter fun b => b.slot == slot && p b
  { s with preempting := (s.preempting.filter fun e => !bs.any fun b => b.uid == e.1) ++
      bs.map fun b => (b.uid, why) }

/-- A block that a CTXSAVE stops; a replay is work of its caller's flag, and is finished first (R79). -/
def Block.saves (b : Block) : Bool := match b.kind with | .replay _ => false | _ => true

/-- CTXSAVE (R352): the slot becomes SAVING and its blocks are pre-empted. -/
def execCtxsave (d c a : SReg) (s : State) : Host.Outcome State Fault Refusal :=
  issue (.ctxsave d c a) s fun g cl =>
    let i : Instr := .ctxsave d c a
    let slot := (readS s g c.val).toNat
    let sa := readS64 s g a.val
    if slot < 1 ∨ 63 < slot ∨ (s.ctx slot).state ≠ .live ∨ !physOk sa ∨ sa.toNat % 4096 ≠ 0 then
      s.trap g cl i .privarg
    else s.withToken g i d fun n s =>
      (s.modCtx slot fun x => { x with
        state := .saving, saveAt := sa, saveTok := some (s.slotOf g, n) }).askStop slot .ctxsave Block.saves

/-- The fields of a context control block (R345, R346, R352). -/
def parseCcb (b : List Byte) : Ccb :=
  let w := fieldOf b 0 4
  { prioCeil := bfield w 11 3, debug := w.testBit 10, sys := w.testBit 9, part := bfield w 6 3
    pinQuota := fieldOf b 4 2, ovt := BitVec.ofNat 16 (fieldOf b 6 2)
    ptroot := BitVec.ofNat 64 (fieldOf b 8 8), routeBase := BitVec.ofNat 64 (fieldOf b 16 8)
    nodeTab := BitVec.ofNat 64 (fieldOf b 24 8), spillBase := BitVec.ofNat 64 (fieldOf b 32 8)
    spillBytes := fieldOf b 40 4, fring := BitVec.ofNat 64 (fieldOf b 48 8)
    htab := BitVec.ofNat 64 (fieldOf b 56 8), hmask := BitVec.ofNat 64 (fieldOf b 64 8)
    collTab := BitVec.ofNat 64 (fieldOf b 72 8), energy := BitVec.ofNat 64 (fieldOf b 80 8)
    perfReq := bfield (fieldOf b 88 1) 0 3, drawCtr := BitVec.ofNat 24 (fieldOf b 92 4)
    lastFrame := BitVec.ofNat 20 (fieldOf b 96 4), dispCtr := BitVec.ofNat 24 (fieldOf b 100 4) }

/-- An overflow table that OVTBL and CTXLOAD refuse (R98, R354). -/
def ovtBad (v : Nat) : Bool :=
  decide (v / 256 ≠ 0) || ([0, 2, 4, 6].any fun k => bfield v k 2 == 3) || bfield v 6 2 == 1

/-- The first 256 bytes of an image break R345, R346 or R98. -/
def ccbBad (b : List Byte) : Bool :=
  let w := fieldOf b 0 4
  decide (w / 2 ^ 14 ≠ 0) || decide (384 < fieldOf b 4 2) || ovtBad (fieldOf b 6 2) ||
    decide (fieldOf b 8 8 % 4096 ≠ 0) || decide (fieldOf b 8 8 / 2 ^ 52 ≠ 0) ||
    decide (fieldOf b 44 4 ≠ 0) || decide (fieldOf b 88 1 / 8 ≠ 0) || decide (fieldOf b 89 3 ≠ 0) ||
    decide (fieldOf b 95 1 ≠ 0) || decide (fieldOf b 96 4 / 2 ^ 20 ≠ 0) || decide (fieldOf b 103 1 ≠ 0) ||
    ((b.drop 112).take 144).any fun x => x != 0

/-- An image that CTXLOAD refuses for a slot (R353): its first 256 bytes. -/
def State.imageBad (s : State) (slot : Nat) (b : List Byte) : Bool :=
  let c := parseCcb b
  bfield (fieldOf b 0 4) 0 6 != slot || c.sys || ccbBad b ||
    (decide (s.clustersOf c.part = []) && decide (fieldOf b 104 4 ≠ 0))

/-- CTXLOAD (R353): the slot becomes LOADING with the state of the image's control block. -/
def execCtxload (d c a : SReg) (s : State) : Host.Outcome State Fault Refusal :=
  issue (.ctxload d c a) s fun g cl =>
    let i : Instr := .ctxload d c a
    let slot := (readS s g c.val).toNat
    let sa := readS64 s g a.val
    let b := Memory.reads s.mem sa.toNat 256
    if slot < 1 ∨ 63 < slot ∨ (s.ctx slot).state ≠ .free ∨ !physOk sa ∨ sa.toNat % 4096 ≠ 0 ∨
        s.imageBad slot b then s.trap g cl i .privarg
    else s.withToken g i d fun n s =>
      s.modCtx slot fun x => { x with
        state := .loading, ccb := parseCcb b, saveAt := sa, saveTok := some (s.slotOf g, n) }

/-- OVTBL (R354). -/
def execOvtbl (c v : SReg) (s : State) : Host.Outcome State Fault Refusal :=
  issue (.ovtbl c v) s fun g cl =>
    let slot := (readS s g c.val).toNat
    let ovt := (readS s g v.val).toNat % 65536
    if 63 < slot ∨ (s.ctx slot).state ≠ .live ∨ ovtBad ovt then s.trap g cl (.ovtbl c v) .privarg
    else s.modCtx slot fun x => { x with ccb := { x.ccb with ovt := BitVec.ofNat 16 ovt } }

/-! ### Translations, residency, page attributes -/

/-- TLBINV (R355). -/
def execTlbinv (d r : SReg) (s : State) : Host.Outcome State Fault Refusal :=
  issue (.tlbinv d r) s fun g c =>
    let i : Instr := .tlbinv d r
    let va := readS64 s g r.val
    if va.toNat % 65536 ≠ 0 ∨ !canonical va ∨ 63 < (readS s g (r.val + 3)).toNat then s.trap g c i .privarg
    else s.withToken g i d fun _ s => s

/-- RESFENCE (R355). -/
def execResfence (d c : SReg) (s : State) : Host.Outcome State Fault Refusal :=
  issue (.resfence d c) s fun g cl =>
    if 63 < (readS s g c.val).toNat then s.trap g cl (.resfence d c) .privarg
    else s.withToken g (.resfence d c) d fun _ s => s

/-- PGATTR (R355). -/
def execPgattr (d r : SReg) (s : State) : Host.Outcome State Fault Refusal :=
  issue (.pgattr d r) s fun g c =>
    let i : Instr := .pgattr d r
    if !canonical (readS64 s g r.val) ∨ 3 < (readS s g (r.val + 2)).toNat ∨
        63 < (readS s g (r.val + 3)).toNat then s.trap g c i .privarg
    else s.withToken g i d fun _ s => s

/-- Take a token's operation off the list. -/
def State.endOp (s : State) (slot t : Nat) : State :=
  { s with tokenOps := s.tokenOps.filter fun o => !(o.1 == slot && o.2.1 == t) }

/-- The operation of a token. -/
def State.opOf (s : State) (slot t : Nat) : Option (Instr × Group) :=
  (s.tokenOps.find? fun o => o.1 == slot && o.2.1 == t).map fun o => (o.2.2.1, o.2.2.2)

/-- TLBINV_COMPLETE (R355): the slot's cached translations of the range are dropped. -/
def execTlbinvComplete (c : Slot) (t : BitVec 8) (s : State) : Host.Outcome State Fault Refusal :=
  match s.opOf c.val t.toNat with
  | some (.tlbinv _ r, g) =>
    let first := vaUnit (readS64 s g r.val).toNat
    let n := (readS s g (r.val + 2)).toNat
    let slot := (readS s g (r.val + 3)).toNat
    let hit (x : Tlb) : Bool := x.slot == slot &&
      (n == 0 || (decide (first ≤ x.unit) && decide (x.unit < first + n)))
    .next (({ s with tlbs := s.tlbs.filter fun x => !hit x }.endOp c.val t.toNat).resolveToken c.val t.toNat false)
  | _ => .next s

/-- RESFENCE_COMPLETE (R311, R355): the miss filters of the partition are empty. -/
def execResfenceComplete (c : Slot) (t : BitVec 8) (s : State) : Host.Outcome State Fault Refusal :=
  match s.opOf c.val t.toNat with
  | some (.resfence _ r, g) =>
    let part := (s.ctx (readS s g r.val).toNat).ccb.part
    let s := (s.clustersOf part).foldl (fun s n => s.modCluster n fun k => { k with filter := [] }) s
    .next ((s.endOp c.val t.toNat).resolveToken c.val t.toNat false)
  | _ => .next s

/-- One RMW of an entry gives it another KIND; an entry of a kind other than 2 holds no SIDE (R361, R378), so that the
page reads under the new kind (R379) (DEDUCED, log entry 62). -/
def State.rekind (s : State) (at_ kind : Nat) : State :=
  let v := (Memory.read s.mem (at_ + 1)).toNat
  let s := s.physWrite (at_ + 1) (mbClean (natLe 1 (v / 4 * 4 + kind)))
  if kind = 2 then s else s.physWrite (at_ + 8) (mbClean (natLe 8 0))

/-- PGATTR_COMPLETE (R355, R378): the KIND field of the page's last-level entry is rewritten, valid or not; a page
whose walk ends on no such entry (LEAF 0) sets SKIPPED. -/
def execPgattrComplete (c : Slot) (t : BitVec 8) (s : State) : Host.Outcome State Fault Refusal :=
  match s.opOf c.val t.toNat with
  | some (.pgattr _ r, g) =>
    let va := (readS64 s g r.val).toNat
    let kind := (readS s g (r.val + 2)).toNat
    let slot := (readS s g (r.val + 3)).toNat
    let done (s : State) (skip : Bool) : State := (s.endOp c.val t.toNat).resolveToken c.val t.toNat skip
    let at_ := leafSlot s.mem slot (va % 2 ^ 57) 4 (s.ctx slot).ccb.ptroot.toNat
    if (s.walk slot va).level ≤ 2 ∧ (Memory.read s.mem at_).getLsbD 1 then
      .next (done (s.rekind at_ kind) false)
    else .next (done s true)
  | _ => .next s

/-! ### Clusters, the RAS log, HALT -/

/-- A group that is not of the service's context runs on a cluster. -/
def State.tenantOn (s : State) (cl : Nat) : Bool := s.groups.any fun g => s.slotOf g != 0 && s.clusterOf g == cl

/-- A cluster moves to another partition: its slice is written back, its instruction cache, residency caches and
translations are emptied (R347, R349, R365, R379). -/
def State.moveCluster (s : State) (cl p : Nat) : State :=
  let s := s.writeBack fun f => f.cluster == cl
  let s := { s with tlbs := s.tlbs.filter fun t => t.cluster ≠ cl }
  s.modCluster cl fun c => { c with part := p, pins := [] }

/-- ADMIT (R356): the budgets take effect at the next boundary. -/
def execAdmitCluster (r : SReg) (s : State) : Host.Outcome State Fault Refusal :=
  issue (.admitCluster r) s fun g c =>
    let v (k : Nat) : Nat := (readS s g (r.val + k)).toNat
    let moves : Bool := (s.cluster (v 0)).part != v 1
    if 7 < v 0 ∨ 7 < v 1 ∨ v 2 < 1 ∨ 65535 < v 2 ∨ v 3 < 1 ∨ 1000 < v 3 ∨
        (moves && s.tenantOn (v 0)) then s.trap g c (.admitCluster r) .privarg
    else
      let s := if moves = true then s.moveCluster (v 0) (v 1) else s
      s.modCluster (v 0) fun k => { k with newBudgets := some (v 2, v 3), cap := 7, debtRun := 0 }

/-- The 32 bytes of a RAS record (R405). -/
def Ras.bytes (r : Ras) : List Byte :=
  natLe 1 r.type ++ natLe 1 r.unit ++ natLe 1 r.slot ++ natLe 1 (min 255 r.count) ++ natLe 8 r.time ++
    natLe 8 r.paddr ++ natLe 2 r.loc ++ natLe 2 0 ++ natLe 8 r.detail.toNat

/-- Take the oldest unread record; an entry that frees reports the records dropped (R405). -/
def State.popRas (s : State) : Option (Ras × State) :=
  match s.ras with
  | [] => none
  | r :: rs =>
    some (r, { s with ras := rs }.reportDrops r.unit s.rasTime)

/-- RASLOG (R356). -/
def execRaslog (d a : SReg) (s : State) : Host.Outcome State Fault Refusal :=
  issue (.raslog d a) s fun g c =>
    let sa := readS64 s g a.val
    if !physOk sa then s.trap g c (.raslog d a) .privarg
    else
      match s.popRas with
      | none => s.setGroup (g.writeS d.val 0xFFFFFFFF)
      | some (r, s) =>
        (s.physWrite sa.toNat (mbClean r.bytes)).modGroup g.uid fun y =>
          y.writeS d.val (BitVec.ofNat 32 s.ras.length)

/-- HALT (R356): the path parks at its next clause. -/
def execHalt (s : State) : Host.Outcome State Fault Refusal :=
  issueGroup .halt s fun g c => g.parkNext c c.exec (.halt false)

/-- HALT_WAKE (R356): halted lanes go on once the service has received a request, an SVC, a fault record or a RAS
record. -/
def execHaltWake (u : Nat) (s : State) : Host.Outcome State Fault Refusal :=
  let woken : LaneState := .parked (.halt true)
  .next (s.modGroup u fun g => { g with lanes := g.lanes.map fun x =>
    if x.st = woken then { x with st := .runnable } else x })

/-- HINT (R147, R154): no effect. -/
def execHint (h : BitVec 24) (s : State) : Host.Outcome State Fault Refusal := issue (.hint h) s fun _ _ => s

end Sys2Proof.Machine
end

