-- ==== Sys2Proof/Machine/Issue.lean ====
section
/-! DEFINITION. The issue of clauses: fetch and decoding of a whole clause (06 R116-R128, R152), its begin
(02 R27-R30), its end and the faults delivered there (19 R371), fairness and serial mode (02 R24, R25), and
the trace of a replay (12 R327). -/

namespace Sys2Proof.Machine

/-! ### Fetch -/

/-- What stops the decoding of a clause: a code, the offending address, the level of a walk, the address of
the instruction word or of the trailer. -/
structure ClauseStop where
  code : Code
  addr : DWord
  level : Nat := 0
  word : DWord
  deriving DecidableEq, Repr

/-- A decode trap's code. -/
def trapCode : Trap → Code
  | .clause => .clause | .priv => .priv | .illegal => .illegal | .mtype => .mtype

/-- A word of code and its start mark; its line must be executable (R116-R118) (DEDUCED, log entry 43). -/
def State.fetch (s : State) (w : Who) (at_ : DWord) : Except ClauseStop (Word × Bool) :=
  let stop (c : Code) (lv : Nat) : ClauseStop := { code := c, addr := at_, level := lv, word := at_ }
  match s.lineHeader w at_ with
  | .error (c, lv) => .error (stop c lv)
  | .ok h =>
    if !lineRuns h then .error (stop .linekind 0)
    else match s.codeWord w at_ with
      | .error (c, lv) => .error (stop c lv)
      | .ok x => .ok (x, lineMark h 0 (lineSlot at_.toNat))

/-- Slots that one search for a marked slot passes; a longer search goes on from where it stood. -/
def skipSlots : Nat := 4096

/-- The next slot whose start mark is 1 (R119) (DEDUCED, log entry 41). -/
def State.nextMarked (s : State) (w : Who) : Nat → DWord → Except ClauseStop DWord
  | 0, a => .ok a
  | n + 1, a =>
    match s.fetch w a with
    | .error e => .error e
    | .ok (_, mark) => if mark then .ok a else State.nextMarked s w n (nextSlot a)

/-- The first slot of an address that fetch reaches: line headers are passed over (R116). -/
def codeSlot (a : DWord) : DWord := if a.toNat % 128 < 8 then BitVec.ofNat 64 (a.toNat / 128 * 128 + 8) else a

/-! ### Decoding a clause -/

/-- A clause header breaks R121. -/
def headerBad (h : Nat) : Bool :=
  let seta := fld h 5 4
  let setb := fld h 1 4
  fld h 27 5 != 0x1E || decide (24 ≤ fld h 22 5) || h % 2 == 1 || (decide (12 ≤ seta) && decide (seta ≤ 14)) ||
    (decide (12 ≤ setb) && decide (setb ≤ 14)) || (setb != 15 && (seta == 15 || setb == seta))

/-- A guard word breaks R122. -/
def guardBad (w : Nat) : Bool := decide (32 ≤ w) || w == 31

/-- A flag field. -/
def flagOf (n : Nat) : Option (Fin 12) := if h : n < 12 then some ⟨n, h⟩ else none

/-- A class 0xE word outside its grade of privileged mode (R146, R342). -/
def privBad (sys handler : Bool) (w : Nat) : Bool :=
  fld w 28 4 == 14 && !sys && !(handler && fld w 21 7 == 0)

/-- A word of a class that the Waystation cores lack (R343). -/
def sysBad (sys : Bool) (w : Nat) : Bool := sys && decide (10 ≤ fld w 28 4) && decide (fld w 28 4 ≤ 13)

/-- A z field at or above the declared count, in a word that decodes to MTYPE (R126, R153). -/
def tileBad (t : TaskRec) (w : Nat) : Bool := decide (t.zcount ≤ fld w 14 7)

/-- Decode one instruction of a clause (R126, R152, R153): PRIV before ILLEGAL before MTYPE. -/
def decodeIn (sys handler : Bool) (t : TaskRec) (w x y : Nat) : Except Trap Instr :=
  if fld w 28 4 = 15 ∧ fld w 21 7 < 0x48 then .error .clause
  else if privBad sys handler w then .error .priv
  else if sysBad sys w then .error .illegal
  else match decode w x y with
    | .ok i => if Instr.declared t i then .ok i else .error .illegal
    | .error .mtype => if tileBad t w then .error .illegal else .error .mtype
    | .error e => .error e

/-- XM words that a word may be followed by, one of each pair of types, of each address mode and scope, and of
some sub-operations (R128). -/
def xmTries (x : Nat) : List Nat :=
  [fld x 14 4, 0].flatMap fun opc => [0, 3].flatMap fun scope => [0, 1].flatMap fun xi =>
    [0, 1, 2].flatMap fun am => (List.range 16).flatMap fun ta => (List.range 16).map fun tb =>
      scope * 2 ^ 22 + opc * 2 ^ 14 + ta * 2 ^ 10 + tb * 2 ^ 6 + am * 2 ^ 4 + xi * 2 ^ 2

/-- A word with some of its three lowest fields of seven bits at 0. -/
def fieldTries (w : Nat) : List Nat :=
  (List.range 8).map fun k => (List.range 3).foldl (fun w i =>
    if k.testBit i then w - fld w (7 * i) 7 * 2 ^ (7 * i) else w) w

/-- What a word breaks lies in its XM word: with another one it decodes, and no other value of its own register and
offset fields agrees with this one (R126, R130, R153) (DEDUCED, log entry 40). -/
def blamesXm (sys handler : Bool) (t : TaskRec) (w x y : Nat) : Bool :=
  let fits (w x : Nat) : Bool := match decodeIn sys handler t w x y with
    | .ok _ => true
    | .error _ => false
  ((xmTries x).any fun m => fits w m) && !(fieldTries w).any fun v => fits v x

/-- What decoding the instructions of a clause gives: their words, which are long-latency, the last word's
address. -/
structure Walked where
  words : List Word := []
  longs : List Bool := []
  last  : DWord
  deriving DecidableEq, Repr

/-- The extension words after a word: values, each with start mark 0 (R124, R128). -/
def State.extWords (s : State) (w : Who) (word : DWord) : Nat → DWord → Except ClauseStop (List Word × DWord)
  | 0, a => .ok ([], a)
  | n + 1, a =>
    let b := nextSlot a
    match s.fetch w b with
    | .error e => .error { e with word := word }
    | .ok (x, mark) =>
      if mark then .error { code := .clause, addr := b, word := word }
      else match State.extWords s w word n b with
        | .error e => .error e
        | .ok (xs, z) => .ok (x :: xs, z)

/-- Decode the instructions of a clause in word order, from the word after `a` (R152, R153)
(DEDUCED, log entry 40). -/
def State.walkInstrs (s : State) (w : Who) (g : Group) (sys : Bool) (t : TaskRec) (seta : Bool) :
    Nat → DWord → Except ClauseStop Walked
  | 0, a => .ok { last := a }
  | n + 1, a =>
    let at_ := nextSlot a
    let stop (c : Code) : ClauseStop := { code := c, addr := at_, word := at_ }
    match s.fetch w at_ with
    | .error e => .error e
    | .ok (x, mark) =>
      if !mark then .error (stop .clause)
      else
        let xm : Except ClauseStop (List Word × DWord) :=
          if hasXm x.toNat then s.extWords w at_ 1 at_ else .ok ([], at_)
        match xm with
        | .error e => .error e
        | .ok (ms, b) =>
          let more := wordCount x.toNat ((ms.headD 0).toNat) - 1 - ms.length
          match s.extWords w at_ more b with
          | .error e => .error e
          | .ok (xs, z) =>
            let es := ms ++ xs
            match decodeIn sys g.handler t x.toNat ((es.getD 0 0).toNat) ((es.getD 1 0).toNat) with
            | .error e =>
              let bad : DWord :=
                if ms ≠ [] ∧ blamesXm sys g.handler t x.toNat ((es.getD 0 0).toNat) ((es.getD 1 0).toNat) then b else at_
              .error { stop (trapCode e) with addr := bad }
            | .ok i =>
              if (Instr.ends i && n != 0) || (Instr.long i && !seta) then .error (stop .clause)
              else match State.walkInstrs s w g sys t seta n z with
                | .error e => .error e
                | .ok r => .ok { r with words := x :: es ++ r.words, longs := Instr.long i :: r.longs }

/-- A tie bit that R123 forbids. -/
def tieBad (tie : Nat) (longs : List Bool) : Bool :=
  (List.range 24).any fun i => tie.testBit i && !(longs.getD i false)

/-- The clause of a header before it begins: its words, its flags, its wait mask and guard. -/
structure Decoded where
  clause : Clause
  wait   : BitVec 12
  pred   : Nat
  neg    : Bool
  deriving DecidableEq, Repr

/-- The clause after decoding, not yet with its lanes. -/
def mkClause (at_ word : DWord) (h : Nat) (ws : List Word) (tie : Nat) (after next : DWord) : Clause :=
  { header := at_, word := word, buf := ws, idx := 0, count := fld h 22 5 + 1, setA := flagOf (fld h 5 4)
    setB := flagOf (fld h 1 4), tie := BitVec.ofNat 24 tie, path := 0, exec := 0, moved := 0
    partialDone := 0, after := after, nextAt := next, wait := none, deferred := [] }

/-- Decode the clause whose header lies at an address (R120-R124, R152) (DEDUCED, log entry 40). -/
def State.decodeClause (s : State) (w : Who) (g : Group) (sys : Bool) (t : TaskRec) (at_ : DWord) :
    Except ClauseStop Decoded :=
  let stop (c : Code) (a : DWord) : ClauseStop := { code := c, addr := a, word := a }
  match s.fetch w at_ with
  | .error e => .error e
  | .ok (hw, mark) =>
    let h := hw.toNat
    if !mark || headerBad h then .error (stop .clause at_)
    else
      let gx := h.testBit 21
      let ga := if gx then nextSlot at_ else at_
      let gw : Except ClauseStop Nat := if gx then
          (match s.fetch w ga with
          | .error e => .error e
          | .ok (x, m) => if m || guardBad x.toNat then .error (stop .clause ga) else .ok x.toNat)
        else .ok 15
      match gw with
      | .error e => .error e
      | .ok gd =>
        match s.walkInstrs w g sys t (fld h 5 4 != 15) (fld h 22 5 + 1) ga with
        | .error e => .error e
        | .ok r =>
          let ta := nextSlot r.last
          let trail : Except ClauseStop (Nat × DWord) := if fld h 1 4 = 15 then .ok (0, ta) else
            match s.fetch w ta with
            | .error e => .error e
            | .ok (x, m) =>
              if m || x.toNat / 2 ^ 24 != 0xF8 || tieBad (x.toNat % 2 ^ 24) r.longs then .error (stop .clause ta)
              else .ok (x.toNat % 2 ^ 24, nextSlot ta)
          match trail with
          | .error e => .error e
          | .ok (tie, after) =>
            let next := match s.nextMarked w skipSlots after with
              | .ok a => a
              | .error _ => after
            .ok { clause := mkClause at_ (nextSlot ga) h r.words tie after next
                  wait := BitVec.ofNat 12 (fld h 9 12), pred := fld gd 0 4, neg := gd.testBit 4 }

/-! ### Which path issues -/

/-- An instruction whose lanes' participation a lane's own turn would change (R212): joined by every lane at
the clause in serial mode. -/
def Instr.crossLane : Instr → Bool
  | .shflIdx _ _ _ | .shflUp _ _ _ | .shflDown _ _ _ | .shflXor _ _ _ | .voteAny _ _ | .voteAll _ _
  | .voteBallot _ _ | .matchAny _ _ | .reduce _ _ _ _ _ | .scan _ _ _ _ _ | .actmask _ | .qswapH _ _
  | .qswapV _ _ | .qswapD _ _ | .ddxFine _ _ | .ddxCoarse _ _ | .ddyFine _ _ | .ddyCoarse _ _
  | .stbrk _ _ _ => true
  | .tex u _ _ _ _ => decide (u ≠ .level)
  | _ => false

/-- The instructions of a buffer of words. -/
def instrsIn : Nat → List Word → List Instr
  | 0, _ => []
  | n + 1, ws =>
    let w (k : Nat) : Nat := (ws.getD k 0).toNat
    let k := wordCount (w 0) (w 1)
    match decode (w 0) (w 1) (w 2) with
    | .ok i => i :: instrsIn n (ws.drop k)
    | .error _ => instrsIn n (ws.drop k)

/-- The runnable lanes at a lane's PC. -/
def Group.atPc (g : Group) (l : Nat) : Mask :=
  g.maskWhere fun x => decide (x.st = .runnable) && x.pc == (g.lane l).pc

/-- The PCs of the runnable paths. -/
def Group.runPcs (g : Group) : List DWord :=
  ((g.lanes.filter fun x => decide (x.st = .runnable)).map fun x => x.pc).dedup

/-- The runnable path that has waited longest (R24): one that has not had a turn, then in turn order. -/
def Group.longestWait (g : Group) : Option DWord :=
  let ps := g.runPcs.filter fun p => some p ≠ g.yieldPc
  match ps.find? fun p => !g.issued.contains p with
  | some p => some p
  | none => g.issued.find? fun p => ps.contains p

/-- A copy out of scratchpad that waits for an empty source line parks its group (R61, R242). -/
def State.copyParked (s : State) (g : Group) : Bool :=
  s.caravans.any fun c => c.group == g.uid && c.out && c.record.isNone && match s.block? c.block with
    | some b => c.parts.any fun p => !b.linesFull p.off p.n
    | none => false

/-- The group stops at clause boundaries (R182, R388): a breakpoint, or a pre-emption of its block. -/
def State.stopped (s : State) (g : Group) : Bool :=
  g.broken || ((s.preempting.any fun p => p.1 == g.block) && (!g.pixel || g.expired))

/-- The whole group is parked or stopped: on a route (R35), an empty line (R61), a clause that waits, or at a clause
boundary. -/
def State.groupParked (s : State) (g : Group) : Bool :=
  g.routed || s.copyParked g || (g.clause.any fun c => c.wait.isSome) || s.stopped g

/-- The runnable lanes of a group's slot in slot lane order, but those of a group that is parked or stopped: position,
group, lane (R15, R25). -/
def State.slotLanes (s : State) (g : Group) : List (Nat × Nat × Nat) :=
  let lanes (x : Group) : List (Nat × Nat × Nat) :=
    ((List.range x.lanes.length).filter fun l => decide ((x.lane l).st = .runnable)).map fun l => (x.slotLane + l, x.uid, l)
  ((s.groups.filter fun x => s.mates g x && !s.groupParked x).mergeSort fun x y => decide (x.slotLane ≤ y.slotLane)).flatMap lanes

/-- The lane that may issue in serial mode, with its group: the one whose turn it is, else the next runnable
one of the slot above it, else the lowest (R25) (DEDUCED, log entry 45). -/
def State.serialNext (s : State) (g : Group) : Option (Nat × Nat) :=
  let run := s.slotLanes g
  match (s.groups.filter (s.mates g)).find? fun x => x.serialLane.isSome with
  | none => run.head?.map (·.2)
  | some x =>
    let k := x.serialLane.getD 0
    if decide ((x.lane k).st = .runnable) && x.yieldPc.isNone && !s.groupParked x then some (x.uid, k)
    else match run.find? fun e => decide (x.slotLane + k < e.1) with
      | some e => some e.2
      | none => run.head?.map (·.2)

/-- The path of a lane may begin a clause (R17, R24, R25, R35, R61) (DEDUCED, log entry 46). -/
def State.mayIssue (s : State) (g : Group) (l : Nat) : Bool :=
  decide ((g.lane l).st = .runnable) && !g.routed && !s.copyParked g &&
  if g.serial then s.serialNext g == some (g.uid, l)
  else match g.yieldPc with
    | none => true
    | some p => decide (g.runPcs = [p]) || g.longestWait == some (g.lane l).pc

/-! ### A fault before a clause begins -/

/-- Raise what stops the lanes of a path from beginning a clause: they keep its address (R152); a full fault
buffer leaves the group as it is (R367) (DEDUCED, log entry 43) (DEDUCED, log entry 54). -/
def State.stopPath (s : State) (g : Group) (m : Mask) (at_ : DWord) (e : ClauseStop) : State :=
  let src : Nat := if decide (e.code.num < 8) then 0 else 3
  let r := s.recordOf g { code := e.code, addr := e.addr.toNat, level := e.level, source := src } m at_ e.word
  (s.raise g r m (fun _ => at_) (fun _ => at_)).getD s

/-- A deferred fault of some lanes has been delivered: what a RETRY makes them do again goes with the record of
the service, and is dropped where the context's handler has taken them (R371, R372). -/
def State.bindLate (s : State) (u : Nat) (d : Deferred) (m : Mask) (n : Option Nat) : State :=
  let split (o : LateOp) : List LateOp :=
    if o.num ≠ d.num ∨ o.group ≠ u ∨ o.record.isSome then [o]
    else
      let bound : List LateOp := match n with
        | some k => [{ o with num := k, record := some k, mask := o.mask &&& m }]
        | none => []
      let rest := o.mask &&& ~~~ m
      bound ++ if rest = 0 then [] else [{ o with mask := rest }]
  { s with lateOps := s.lateOps.flatMap split }

/-- The deferred faults of a group that its lanes can take now: those of the pass that runs (R41, R371)
(DEDUCED, log entry 42). -/
def Group.dueLate (g : Group) : List Deferred :=
  let free := g.maskWhere fun x => decide (x.st = .runnable)
  g.late.filter fun d => (d.pass || decide (g.gmode ≠ 2)) && decide (d.mask &&& free ≠ 0)

/-- Deliver per-lane faults that wait for their lanes, those of the lowest code first (R371)
(DEDUCED, log entry 42). -/
def State.deliverLate (s : State) (u : Nat) : Nat → State
  | 0 => s
  | n + 1 =>
    match s.group? u with
    | none => s
    | some g =>
      match (g.dueLate.map fun d => d.code.num).min? with
      | none => s
      | some k =>
        match g.dueLate.find? fun d => d.code.num == k with
        | none => s
        | some d =>
          let m := d.mask &&& g.maskWhere fun x => decide (x.st = .runnable)
          let f : FaultAt := { code := d.code, addr := d.addr.toNat, write := d.write, atomic := d.atomic
                               source := d.source, level := d.level, aux := d.aux }
          let pc (l : Nat) : DWord := (g.lane l).pc
          match s.deliver g (s.recordOf g f m d.header d.word) m pc pc with
          | none => s
          | some (n', s) =>
            let rest (x : Deferred) : Deferred := if x = d then { x with mask := x.mask &&& ~~~ m } else x
            let s := s.modGroup u fun g => { g with late := (g.late.map rest).filter fun x => x.mask != 0 }
            (s.bindLate u d m n').deliverLate u n

/-! ### Begin -/

/-- The context of a group is the service's own, on the Waystation cores (R343). -/
def State.sysGroup (s : State) (g : Group) : Bool := (s.ctxOf g).ccb.sys

/-- The task record of a group's block. -/
def State.taskOfGroup (s : State) (g : Group) : TaskRec :=
  ((s.block? g.block).map (·.task)).getD (parseTask [])

/-- The physical line of an address. -/
def State.physLine (s : State) (w : Who) (a : DWord) : Option Nat :=
  match s.lookup w a.toNat with
  | .leaf l => some ((l.base + a.toNat % 2 ^ l.log2) / 128)
  | _ => none

/-- A cluster fetches a line of kind 0x2 for the first time: it is pinned when the quotas allow (R349). -/
def State.pinLine (s : State) (w : Who) (kaddr a : DWord) : State :=
  let quota := (s.ctx w.slot).ccb.pinQuota
  match s.lineHeader w a, s.physLine w a with
  | .ok h, some line =>
    let known := (s.cluster w.cl).pins
    let pins := known.filter fun p => p.2.2.2
    if h / 2 ^ 60 = 2 ∧ !(known.any fun p => p.1 == w.slot && p.2.1 == line) then
      let fits : Bool := decide ((pins.filter fun p => p.1 == w.slot).length < quota) && decide (pins.length < 384)
      s.modCluster w.cl fun c => { c with pins := c.pins ++ [(w.slot, line, kaddr, fits)] }
    else s
  | _, _ => s

/-- The lines a clause lies in. -/
def clauseLines (c : Clause) : List DWord :=
  (List.range' (c.header.toNat / 128) ((c.after.toNat - 1) / 128 - c.header.toNat / 128 + 1)).map fun n =>
    BitVec.ofNat 64 (128 * n)

/-- The flags a clause waits for, those it sets among them (R28). -/
def Decoded.needs (d : Decoded) : BitVec 12 :=
  let bit (f : Option (Fin 12)) : BitVec 12 := match f with | some f => BitVec.ofNat 12 (2 ^ f.val) | none => 0
  d.wait ||| bit d.clause.setA ||| bit d.clause.setB

/-- The lanes whose guard reads 1 (R29, R122). -/
def Group.guarded (g : Group) (m : Mask) (d : Decoded) : Mask :=
  maskOf ((lanesOf m).filter fun l => (g.lane l).pred d.pred != d.neg)

/-- The clause begins on port A, the vector ALU's: its first instruction is of class 0x3 or 0x4 (01, What a core holds; R195). -/
def onPortA (w : Nat) : Bool := fld w 28 4 == 3 || fld w 28 4 == 4

/-- A group has issued a clause on a port (R387). -/
def Group.issuedOn (g : Group) (a : Bool) (n : Nat) : Group :=
  if a then { g with lastIssue := some n, lastA := some n } else { g with lastIssue := some n, lastB := some n }

/-- A clause begins for the lanes of a path (R28-R30): its flags are set and its temporaries are empty. -/
def State.startClause (s : State) (g : Group) (m : Mask) (d : Decoded) : State :=
  let (n, s) := s.newId
  let w := { s.who g with replay := none }
  let s := (clauseLines d.clause).foldl (fun s a => s.pinLine w (s.taskOfGroup g).kaddr a) s
  let s := s.touch w d.clause.header.toNat false
  let same : Bool := g.lastPc == d.clause.header && (!g.serial || g.serialLane == some (maskLowest m))
  let a : Bool := onPortA ((d.clause.buf.headD 0).toNat)
  let begin_ (g : Group) : Group :=
    let y := (((g.setOpt d.clause.setA).setOpt d.clause.setB).modLanes m fun _ x => { x with t := [] }).issuedOn a n
    { y with
      clause := some { d.clause with path := m, exec := y.guarded m d }
      yieldPc := none, fair := if same then y.fair else 0, serialLane := none }
  let s := { s.modGroup g.uid begin_ with turn := some g.uid }
  if g.serial then s.takeTurn g (maskLowest m) else s

/-- Lanes execute the instruction that a RETRY sends them back to, as a clause of its own (R372): it begins once
its flag is clear. -/
def State.startAgain (s : State) (g : Group) (o : LateOp) (c : Clause) (temps : List (Nat × Regs)) (m : Mask) :
    State :=
  let f : Option (Fin 12) := match c.buf.map (·.toNat) with
    | ws => match decode (ws.getD 0 0) (ws.getD 1 0) (ws.getD 2 0) with
      | .ok i => if Instr.long i then c.tied else none
      | .error _ => none
  match f.map g.flag with
  | some true => s
  | _ =>
    let left (x : LateOp) : List LateOp :=
      if x ≠ o then [x] else if o.mask &&& ~~~ m = 0 then [] else [{ o with mask := o.mask &&& ~~~ m }]
    let temp (l : Nat) (x : Lane) : Lane := { x with t := ((temps.find? fun e => e.1 == l).map (·.2)).getD [] }
    { s.setGroup { (g.setOpt f).modLanes m temp with
        clause := some { c with setA := f, setB := none, tie := 0, path := m, exec := m } } with
      turn := some g.uid, lateOps := s.lateOps.flatMap left }

/-! ### Service kernels (R412) -/

/-- The service task whose block a group belongs to (R412). -/
def State.taskOf (s : State) (u : Nat) : Option ServiceTask :=
  match (s.group? u).bind fun g => s.block? g.block with
  | none => none
  | some b => s.tasks.find? fun t => t.grid == b.grid

/-- The clause of a service kernel that executes its REPLAY, tied to f0. -/
def serviceClause (pc : DWord) (m : Mask) : Clause :=
  { header := pc, word := pc, buf := [], idx := 0, count := 1, setA := some 0, setB := none, tie := 0, path := m
    exec := m, moved := 0, partialDone := 0, after := pc, nextAt := pc, wait := none, deferred := [] }

/-- A fault of a service kernel's own reads: its lane waits at the instruction for the answer. -/
def State.serviceFault (s : State) (g : Group) (m : Mask) (pc : DWord) (f : FaultAt) : State :=
  match s.fileRecord (s.recordOf g { f with source := 1 } m pc pc) with
  | none => s
  | some (n, s) => s.modGroup g.uid fun g => g.parkFault m n (fun _ => pc) (fun _ => pc)

/-- The REPLAY of a service kernel (R289, R412): it starts under f0, and the lane exits. A trace buffer that
R289 forbids answers the request BADREQ. -/
def State.serviceReplay (s : State) (t : ServiceTask) (g : Group) (m : Mask) (pc ra ta : DWord) : State :=
  let w := { s.who g with replay := none }
  let i : Instr := .replay 0 2
  let start (cap : Nat) (rec : List Byte) (found : Option (List Byte)) (status : Option Nat) : State :=
    ((s.setGroup (g.setFlag 0)).startReplay (g.setFlag 0) (serviceClause pc m) i 0 ta cap rec found status).exitLanes
      g.uid m
  match s.loadRecord w ta.toNat 4, s.loadRecord w ra.toNat 64 with
  | .error (code, lv, a), _ => s.serviceFault g m pc { code := code, addr := a, level := lv }
  | _, .error (code, lv, a) => s.serviceFault g m pc { code := code, addr := a, level := lv }
  | .ok h, .ok rec =>
    let cap := leNat h
    if cap < 64 ∨ cap % 16 ≠ 0 then (s.taskDone t .badreq []).exitLanes g.uid m
    else match s.lookupRecord w rec with
      | .fault f => s.serviceFault g m pc f
      | .notFound => start cap rec none (some 5)
      | .stateLost => start cap rec none (some 3)
      | .found x => start cap rec (some x) none

/-- A service kernel's one lane executes the instruction of its request and exits (R412). -/
def State.runService (s : State) (t : ServiceTask) (g : Group) (m : Mask) (pc : DWord) : State :=
  match t.job with
  | .watch n spec => ((s.arm (s.who g) n spec).taskDone t .ok []).exitLanes g.uid m
  | .replay ra ta => s.serviceReplay t g m pc ra ta

/-- The instruction that lanes of a group must execute before their next clause (R372). -/
def State.againOf (s : State) (u : Nat) (m : Mask) : Option (LateOp × Clause × List (Nat × Regs)) :=
  s.lateOps.findSome? fun o =>
    if o.ready && o.group == u && decide (o.mask &&& m ≠ 0) then
      match o.what with
      | .instr c temps => some (o, c, temps)
      | _ => none
    else none

/-- CLAUSE_BEGIN (R28, R148, R152): the path of a lane decodes its clause whole, and begins it once the
flags of its wait mask and of its set fields are clear; the group of a service task executes its request
(R412) (DEDUCED, log entry 41). Faults that wait for the path's lanes, and what a RETRY makes them do again, come
first (R371, R372). -/
def execClauseBegin (u l : Nat) (s : State) : Host.Outcome State Fault Refusal :=
  match s.group? u with
  | none => .next s
  | some g =>
    if g.clause.isSome || s.stopped g || !s.mayIssue g l then .next s
    else
      let m := g.issueSet l
      let pc := (g.lane l).pc
      let w := { s.who g with replay := none }
      match s.taskOf u with
      | some t => .next (s.runService t g m pc)
      | none =>
      if g.dueLate.any fun d => decide (d.mask &&& m ≠ 0) then .next (s.deliverLate u (g.late.length + 64))
      else match s.againOf u m with
      | some (o, c, temps) => .next (s.startAgain g o c temps (o.mask &&& m))
      | none =>
        let entry := if g.lastIssue.isNone then s.badTarget w pc none else none
        match entry with
        | some (c, lv) => .next (s.stopPath g m pc { code := c, addr := pc, level := lv, word := pc })
        | none =>
          match s.nextMarked w skipSlots (codeSlot pc) with
          | .error e => .next (s.stopPath g m pc e)
          | .ok at_ =>
            if at_ ≠ pc then .next (s.setGroup (g.modLanes m fun _ x => { x with pc := at_ }))
            else
              match s.decodeClause w g (s.sysGroup g) (s.taskOfGroup g) pc with
              | .error e => .next (s.stopPath g m pc e)
              | .ok d =>
                if g.flags &&& d.needs ≠ 0 then .next s
                else
                  let joint := g.serial && (instrsIn d.clause.count d.clause.buf).any Instr.crossLane
                  .next (s.startClause g (if joint then g.atPc l else m) d)

/-! ### The trace of a replay (R327) -/

/-- A result that waits for its flag, or the register. -/
def Group.newV (g : Group) (l r idx : Nat) : Word :=
  let d : Dst := if r < 120 then .v l idx else .t l r
  match g.pend.find? fun p => decide (p.dst = d) with
  | some p => p.word
  | none => if r < 120 then tget 0 (g.lane l).v idx else tget 0 (g.lane l).t r

/-- The same for a scalar register of the allocation. -/
def Group.newS (g : Group) (idx : Nat) : Word :=
  match g.pend.find? fun p => decide (p.dst = .s idx) with
  | some p => p.word
  | none => tget 0 g.s idx

/-- The entries of one destination: `g0` is the group before the instruction, `g` after it. -/
def Wr.entries (g0 g : Group) (l off ord : Nat) : Wr → List (List Word)
  | .v r n => (List.range n).map fun k =>
      let idx := (g0.lane l).vIdx (r + k)
      if r + k < 120 then traceEntry off 0 idx (g.newV l (r + k) idx) ord
      else traceEntry off 1 (r + k - 120) (g.newV l (r + k) 0) ord
  | .p r => if r = 15 then [] else [traceEntry off 3 r (if (g.lane l).pred r then 1 else 0) ord]
  | .s r n => (List.range n).map fun k =>
      traceEntry off 2 (g0.sbase + r + k) (g.newS (g0.sbase + r + k)) ord
  | .h _ => []

/-- The instruction has written its registers: DRAW and REPLAY write none in a replay, a TOKW that waits writes
when it is woken (R325, R327). -/
def Instr.tracesNow (g : Group) (l : Nat) : Instr → Bool
  | .draw _ _ _ | .replay _ _ => false
  | .tokw _ _ => match (g.lane l).st with
    | .parked (.token _ _) => false
    | _ => true
  | _ => true

/-- The entries of an instruction of the item's lane. -/
def Instr.traced (g0 g : Group) (l off ord : Nat) (i : Instr) : List (List Word) :=
  let ks := match i with
    | .kset k => [traceEntry off 4 k.val (lo32 (g.kMask k.val)) ord]
    | _ => []
  if Instr.tracesNow g l i then (Instr.writes g0 i).flatMap (fun w => w.entries g0 g l off ord) ++ ks else []

/-- An instruction of a replay group has executed: the item's lane writes its trace entries (R327, R336). -/
def State.traceInstr (s : State) (g0 : Group) (c : Clause) (i : Instr) : State :=
  match s.replayOf g0, s.group? g0.uid with
  | some r, some g =>
    if !mHas c.exec r.lane then s
    else
      let off := (c.word - r.kernel).toNat
      s.modReplay r.num fun r => { r with
        trace := r.trace ++ Instr.traced g0 g r.lane off r.ordinal i
        ordinal := r.ordinal + 1, lastAt := (BitVec.ofNat 32 off, BitVec.ofNat 32 r.ordinal) }
  | _, _ => s

/-! ### End -/

/-- A set flag with nothing tied to it clears as the clause ends (R123). -/
def State.clearUntied (s : State) (g : Group) : Option (Fin 12) → Group
  | none => g
  | some f => if s.tied g f then g else g.clearFlag f

/-- The lanes that the clause has not moved go on at the next clause; the clause's temporaries and the
results for them are gone (R29, R30). -/
def Group.leaveClause (g : Group) (c : Clause) : Group :=
  let stay := c.path &&& ~~~ c.moved
  let g := g.modLanes c.path fun l x =>
    { x with pc := if mHas stay l && x.live then c.nextAt else x.pc, t := [] }
  { g with
    clause := none
    pend := g.pend.filter fun p => match p.dst with | .t l _ => !mHas c.path l | _ => true
    late := g.late ++ c.deferred.map fun d => { d with pass := decide (g.gmode = 2) }
    lastPc := (g.lane (maskLowest c.path)).pc }

/-- The PCs of the paths that the clause's lanes leave it in join the turn order's end (R24). -/
def Group.endTurn (g : Group) (m : Mask) : Group :=
  let pcs := ((lanesOf (m &&& g.live)).map fun l => (g.lane l).pc).dedup
  let old := (g.issued.filter fun p => !pcs.contains p && g.lanes.any fun x => x.live && x.pc == p)
  { g with issued := old ++ pcs, yieldPc := g.yieldPc.map fun _ => g.lastPc }

/-- A clause ends (R28-R30, R123, R371): its deferred faults are delivered, the generator and the path
table are settled, and a deadlock of JOINs is found. -/
def State.endClause (s : State) (u : Nat) : State :=
  match s.group? u with
  | none => s
  | some g =>
    match g.clause with
    | none => s
    | some c =>
      let g := (g.leaveClause c).endTurn c.path
      let g := s.clearUntied (s.clearUntied g c.setA) c.setB
      let cut : List Deferred := g.late.map fun d => { d with mask := d.mask &&& g.live }
      let g := { g with late := cut.filter fun d => d.mask != 0 }
      let s := { s.setGroup g with turn := if s.turn = some u then none else s.turn }
      let s := s.deliverLate u (g.late.length + 64)
      ((s.settleGen u).settlePaths u).joinDead u

/-! ### One instruction of the clause in flight -/

/-- The instruction waits until the group's faulted accesses are answered: a release, a fence, a barrier, a
clause-ending instruction (R373). -/
def Instr.parks : Instr → Bool
  | .fenceAcq _ | .fenceRel _ | .fenceSc _ | .xall _ _ => true
  | i => Instr.ends i || Instr.releases i

/-- A release of device or pod scope: the dirty lines of the cluster's slice are written back (R73, R254). -/
def Instr.drains : Instr → Bool
  | .stX _ _ q _ _ | .sstX _ _ q _ _ => decide (q = some .dev ∨ q = some .pod)
  | .atom _ _ q w _ _ _ | .red _ _ q w _ _ | .atomx _ _ q w _ _ _ =>
    decide (q = .rel ∨ q = .ar) && decide (w = .dev ∨ w = .pod)
  | .fenceRel w | .fenceSc w => decide (w = .dev ∨ w = .pod)
  | .launch _ | .launchOrd _ | .draw _ _ _ | .renq _ _ | .svc _ | .xall _ _ | .tlbinv _ _ | .resfence _ _ | .pgattr _ _ => true
  | _ => false

/-- The group has a faulted access that no answer has replayed yet. -/
def State.owes (s : State) (u : Nat) : Bool := s.replayed.any fun r => r.group == u

/-- The instruction at the head of a clause, and its word count; none when the words do not decode, which no
clause that has begun shows. -/
def Clause.instr (c : Clause) : Option (Instr × Nat) :=
  let w (k : Nat) : Nat := (c.buf.getD k 0).toNat
  match decode (w 0) (w 1) (w 2) with
  | .ok i => some (i, wordCount (w 0) (w 1))
  | .error _ => none

/-- An address past some words of code. -/
def skipWords : Nat → DWord → DWord
  | 0, a => a
  | n + 1, a => skipWords n (nextSlot a)

/-- The clause moves past an instruction of `n` words. -/
def Clause.advance (c : Clause) (n : Nat) : Clause :=
  { c with idx := c.idx + 1, word := skipWords n c.word, buf := c.buf.drop n, partialDone := 0 }

/-- An issue cycle of the running path counts while another path of the group is runnable, in serial mode another lane
of the slot (R24, R25). -/
def State.fairTick (s : State) (g : Group) (c : Clause) : Group :=
  let other : Bool :=
    if g.serial then (s.slotLanes g).any fun e => e.2.1 != g.uid || !mHas c.path e.2.2
    else g.lanes.zipIdx.any fun e => decide (e.1.st = .runnable) && !mHas c.path e.2
  if other then { g with fair := g.fair + 1 } else g

/-- What follows an instruction: it waits, executes again, or the clause moves on and ends after its last
one (R27); `g0` and `c0` are the group and the clause as it issued. -/
def State.finishInstr (s : State) (g0 : Group) (c0 : Clause) (i : Instr) (n : Nat) : State :=
  let u := g0.uid
  let s := s.modGroup u fun g => s.fairTick g c0
  match (s.group? u).bind fun g => g.clause with
  | none => s
  | some c =>
    if c.wait.isSome then s
    else if c.again then s.modGroup u fun g => g.modClause fun c => { c with again := false }
    else
      let s := s.traceInstr g0 c0 i
      let s := if Instr.drains i && decide (c0.exec ≠ 0) then s.writeBack fun f => f.cluster == s.clusterOf g0 else s
      let s := s.modGroup u fun g => g.modClause fun c => c.advance n
      if c.idx + 1 < c.count then s else s.endClause u

/-- FAIRNESS_TIMER (R24): after 1,024 issue cycles the path's turn ends at its next clause boundary
(DEDUCED, log entry 46). -/
def execFairnessTimer (u : Nat) (s : State) : Host.Outcome State Fault Refusal :=
  match s.group? u with
  | none => .next s
  | some g =>
    if g.fair < 1024 then .next s
    else
      .next (s.setGroup { g with fair := 0, yieldPc := some g.lastPc })

end Sys2Proof.Machine
end

