-- ==== Sys2Proof/Machine/Images.lean ====
section
/-! DEFINITION. The records of saved blocks, groups and continuations as an image or a pre-emption area holds
them: their sizes and their bytes (18 R357, R358), and what the bytes of one say of a block (R353). -/

namespace Sys2Proof.Machine

/-! ### Sizes -/

/-- Bytes of an image, `n` units of 16 bits each with a poison bit. -/
def withPoison (n : Nat) : Nat := 2 * n + ceilDiv n 8

/-- Bytes of the register images at the end of a group record (R357). -/
def bankSize (t : TaskRec) (g : Group) : Nat :=
  withPoison (2 * g.width * g.budget) + withPoison (2 * t.sregs) + withPoison (512 * t.hcount) +
    withPoison (4096 * t.ccount) + withPoison 512 + withPoison (8192 * t.zcount)

/-- Bytes of a group record (R357). -/
def groupSize (t : TaskRec) (g : Group) : Nat :=
  256 + 64 * g.width + 64 * t.zcount + 384 * (g.lanes.filter fun x => x.walk.isSome).length + bankSize t g

/-- Bytes of a continuation record (R358). -/
def contSize (t : TaskRec) (c : Cont) : Nat := 64 + 16 * maskCount c.mask + withPoison (2 * t.sregs)

/-- Bytes of the scratchpad image with its full bits and its poison bits (R357). -/
def spadImage (n : Nat) : Nat := n + ceilDiv (n / 128) 8 + ceilDiv (n / 2) 8

/-- Bytes of a block record, a multiple of 64 (R357). -/
def recordSize (b : Block) (gs : List Group) (cs : List Cont) : Nat :=
  ceilDiv (64 + spadImage b.spadSize + (cs.map (contSize b.task)).sum + (gs.map (groupSize b.task)).sum) 64 * 64

/-! ### Bytes -/

/-- Bits as bytes, the first lowest. -/
def bitBytes : Nat → List Bool → List Byte
  | 0, _ => []
  | n + 1, bs => BitVec.ofNat 8 ((bs.take 8).foldr (fun b v => v * 2 + if b then 1 else 0) 0) :: bitBytes n (bs.drop 8)

/-- An image of 16-bit halves with its poison bits. -/
def poisoned (data : List Byte) (marks : List Nat) : List Byte :=
  let n := data.length / 2
  data ++ bitBytes (ceilDiv n 8) ((List.range n).map fun i => marks.contains i)

/-- The code of a lane's state (R357): a lane that awaits the end of its pass counts as a suspended producer. -/
def LaneState.savedCode : LaneState → Nat
  | .runnable => 0 | .join _ _ _ _ => 1 | .parked _ => 2 | .producer => 3 | .pendingYield _ => 4 | .bar => 5
  | .exited => 6 | .gdone => 7 | .repack _ _ _ => 2 | .passDone => 3

/-- The node that the WREC a clause stands at names (R285). -/
def State.wrecNode (s : State) (g : Group) : Nat :=
  match g.clause.bind Clause.instr with
  | some (.wrec n _ _, _) => bfield (readS s g n.val).toNat 2 14
  | _ => 0

/-- The index of a fault record: its place in its cluster's buffer (R357, R367); 256, the size of the buffer, for
none (DESIGN CHOICE, log entry 65). -/
def State.recordIndex (s : State) (n : Nat) : Nat := ((s.records.find? fun r => r.num == n).map fun r => r.index).getD 256

/-- The index of the record that holds up a group at an instruction. -/
def State.holderIndex (s : State) (u : Nat) : Nat :=
  ((s.records.find? fun r => r.who.any fun e => e.1 == u).map fun r => r.index).getD 256

/-- The kind and operand of a lane's wait (R357): a breakpoint and a wait for a handler's record slot count as
fault records (DESIGN CHOICE, log entry 65). -/
def State.parkOf (s : State) : LaneState → Option (Nat × Nat)
  | .parked (.route r _ _ _ _) => some (1, r)
  | .parked (.token t _) => some (2, t.toNat)
  | .bar => some (4, 0)
  | .parked (.phase off _) => some (5, off)
  | .parked (.svc e) => some (6, ((s.awaited.find? fun a => a.1 == e).map fun a => a.2.2.1.toNat).getD 0)
  | .parked (.routeSpace r _ _ _ _) => some (7, r)
  | .repack _ site _ => some (8, site.toNat)
  | .parked (.fault n) | .parked (.brk n) => some (11, s.recordIndex n)
  | .parked .handlerSlot => some (11, 256)
  | .parked (.halt _) => some (12, 0)
  | _ => none

/-- The park of a group: that of its clause in flight, else that of its lowest lane that waits (R357). -/
def State.savedPark (s : State) (g : Group) : Nat × Nat :=
  let held : Option (Nat × Nat) := (g.clause.bind fun c => c.wait).map fun w => match w with
    | .line ls => (3, 128 * (ls.headD (0, 0)).2)
    | .storeSpace _ => (9, s.wrecNode g)
    | .tokenSlot => (10, (s.ctxOf g).nextToken)
    | .answers => (11, s.holderIndex g.uid)
    | .faultBuffer => (11, 256)
  (held.orElse fun _ => g.lanes.findSome? fun x => s.parkOf x.st).getD (0, 0)

/-- A lane entry of 64 bytes. -/
def laneEntry (x : Lane) (walk : Nat) : List Byte :=
  natLe 8 (x.pc.toNat % 2 ^ 57 + x.st.savedCode * 2 ^ 57) ++ natLe 8 x.resume.toNat ++ nameBytes x.lin ++
    natLe 4 x.vbase ++ natLe 4 x.preds.toNat ++ natLe 4 x.linset.toNat ++ natLe 4 walk ++ padTo 16 []

/-- A walk image of 384 bytes. -/
def walkImage (w : Walk) : List Byte :=
  let (t, u, v, i) := w.hit.getD (0, 0, 0, 0)
  let cand : List Word := match w.cand with
    | none => [0, 0, 0, 0, 0]
    | some (.tri t u v i) => [1, t, u, v, i]
    | some (.custom i n) => [2, i, lo32 n, hi32 n, 0]
    | some (.dist r d z) => [3, r, d, z, 0]
  padTo 384 (bytesOf w.ray ++ natLe 8 w.descAt.toNat ++ natLe 4 w.tmax.toNat ++ natLe 4 w.stack.length ++
    bytesOf [t, u, v, i] ++ bytesOf cand ++ w.stack.flatMap fun e => bytesOf [e.1, e.2.getD 0])

/-- Words of a table of registers. -/
def regBytes (n : Nat) (t : Regs) : List Byte := bytesOf ((List.range n).map fun i => tget 0 t i)

/-- A flag, one more than its number; 0 is none. -/
def flagByte (f : Option (Fin 12)) : Nat := match f with | some f => f.val + 1 | none => 0

/-- The scalars from which an operation in progress has its parameters: MLOOP's eight, the operand offsets of an
MMA (R266, R357). -/
def Engine.params (e : Engine) : List Word :=
  let r (k : Nat) : Word := tget 0 e.src.s (e.src.sbase + k)
  match e.instr with
  | .mloop _ _ _ p => (List.range 8).map fun k => r (p.val + k)
  | .mma _ _ _ a b => List.replicate 8 0 ++ [r a.val, r b.val]
  | _ => []

/-- A tile entry: the parameters of the MLOOP in progress; PROGRESS and the MSTAT bits; the words of the MLOOP or
of the abandoned MMA, the MMA's operand offsets, the tied flag (R357) (DESIGN CHOICE, log entry 65). -/
def tileEntry (g : Group) (es : List Engine) (z : Nat) : List Byte :=
  let e := es.find? fun e => e.group == g.uid && Instr.tile? e.instr == some z
  let ps : List Word := (e.map Engine.params).getD []
  let ws : List Nat := match e with
    | some e => encode e.instr
    | none => []
  let stat := tget 0 g.progress z + (if e.any fun e => e.record.isSome then 2 ^ 30 else 0) +
    if e.isSome then 2 ^ 31 else 0
  padTo 64 (padTo 32 (bytesOf (ps.take 8)) ++ natLe 4 (tget 0 g.progress z) ++ natLe 4 stat ++
    natLe 4 (ws.getD 0 0) ++ natLe 4 (ws.getD 1 0) ++ padTo 8 (bytesOf (ps.drop 8)) ++
    natLe 1 (flagByte (e.bind fun e => e.flag)))

/-- The generator of a group (R357). -/
def genBytes (g : Group) : List Byte :=
  let gen : List Nat := match g.gen with
    | some x => [x.offset, x.cap, x.entries.length, x.words, x.thr, g.gmode, x.label.toNat % 2 ^ 32, x.label.toNat / 2 ^ 32]
    | none => []
  padTo 32 (gen.flatMap (natLe 4))

/-- The CPB in progress: its three operands as read at issue, the bytes carried, its tied flag (R242, R357). -/
def cpbBytes (g : Group) (cs : List Caravan) : List Byte :=
  let mine := cs.filter fun c => c.group == g.uid && c.cpb.isSome
  padTo 32 (match mine.head? with
    | none => []
    | some c => match c.cpb with
      | none => []
      | some (ga, off, n) =>
        let left := ((mine.filter fun x => x.cpb == c.cpb).map fun x => (x.parts.map fun p => p.n).sum).sum
        natLe 8 ga.toNat ++ natLe 4 off.toNat ++ natLe 4 n.toNat ++ natLe 4 (bfield n.toNat 0 21 - left) ++
          natLe 1 (flagByte c.flag))

/-- The XALL that has begun: sd, collective and sequence numbers, S, its tied flag (R258, R357). -/
def State.xallBytes (s : State) (g : Group) : List Byte :=
  padTo 32 (match s.xalls.find? fun x => x.group == g.uid && x.begun with
    | none => []
    | some x => natLe 4 x.dst ++ natLe 4 x.coll ++ natLe 4 x.seq.toNat ++ natLe 4 x.bytes ++ natLe 1 (flagByte x.flag))

/-- The register images of a group (R357). -/
def bankBytes (t : TaskRec) (g : Group) : List Byte :=
  let vec := (List.range g.width).flatMap fun l => regBytes g.budget (g.lane l).v
  let vecBad := (List.range g.width).flatMap fun l => (g.lane l).vPoison.map fun h => 2 * g.budget * l + h
  let hs := (List.range t.hcount).flatMap fun i => natLe 1024 (tget 0 g.h i).toNat
  let cs := (List.range t.ccount).flatMap fun i => natLe 8192 (tget 0 g.c i).toNat
  let zs := (List.range t.zcount).flatMap fun i => regBytes 4096 (g.tileElems i)
  poisoned vec vecBad ++ poisoned (regBytes t.sregs g.s) g.sPoison ++ poisoned hs g.hPoison ++ poisoned cs [] ++
    poisoned (natLe 1024 g.htie.toNat) [] ++ poisoned zs (g.zPoison.map fun e => 8192 * e.1 + e.2)

/-- A set of flags. -/
def flagsOf (p : Fin 12 → Bool) : BitVec 12 := BitVec.ofNat 12 (((List.finRange 12).filter p).map fun f => 2 ^ f.val).sum

/-- The clause in flight of a group has set a flag. -/
def Group.clauseSets (g : Group) (f : Fin 12) : Bool := g.clause.any fun c => c.setA == some f || c.setB == some f

/-- The flags a record shows: those tied to an operation saved in progress (R79, R357). -/
def State.savedFlags (s : State) (g : Group) (es : List Engine) (cs : List Caravan) : BitVec 12 :=
  flagsOf fun f => g.flag f && ((es.any fun e => e.group == g.uid && e.flag == some f) ||
    (cs.any fun c => c.group == g.uid && c.flag == some f) ||
    s.xalls.any fun x => x.group == g.uid && x.begun && x.flag == some f)

/-- The lanes of a group with an open walk. -/
def Group.walkers (g : Group) : List Nat := (List.range g.width).filter fun l => (g.lane l).walk.isSome

/-- A group record (R357) (DESIGN CHOICE, log entry 65). -/
def State.groupRecord (s : State) (t : TaskRec) (es : List Engine) (cs : List Caravan) (g : Group) : List Byte :=
  let (kind, op) := s.savedPark g
  let base := 256 + 64 * g.width + 64 * t.zcount
  let head := natLe 4 (groupSize t g) ++ natLe 4 g.gid ++ natLe 1 (Nat.log2 (g.width / 8)) ++
    natLe 1 ((if g.handler then 1 else 0) + if g.serial then 2 else 0) ++ natLe 2 (s.savedFlags g es cs).toNat ++
    natLe 4 (s.gstatus g).toNat ++ natLe 8 g.live.toNat ++ natLe 8 (g.helpers g.live).toNat ++
    (g.k.flatMap fun m => natLe 8 m.toNat) ++ natLe 4 g.sbase ++ natLe 4 kind ++ natLe 8 op ++ genBytes g ++
    cpbBytes g cs ++ s.xallBytes g
  let lanes := (List.range g.width).flatMap fun l =>
    laneEntry (g.lane l) (match g.walkers.findIdx? fun k => k == l with | some j => base + 384 * j | none => 0)
  padTo 256 head ++ lanes ++ (List.range t.zcount).flatMap (tileEntry g es) ++
    (g.walkers.flatMap fun l => ((g.lane l).walk.map walkImage).getD []) ++ bankBytes t g

/-- A continuation record (R358). -/
def contRecord (t : TaskRec) (c : Cont) : List Byte :=
  padTo 64 (natLe 4 (contSize t c) ++ natLe 4 c.gid ++ natLe 1 (Nat.log2 (c.width / 8)) ++
    natLe 1 (if c.barrier then 1 else 0) ++ natLe 6 0 ++ natLe 8 c.mask.toNat ++ natLe 8 c.label.toNat ++
    natLe 4 c.token.toNat) ++
    ((lanesOf c.mask).flatMap fun l => nameBytes (c.lanes.getD l {}).lin) ++ poisoned (regBytes t.sregs c.s) c.sPoison

/-- The barrier word: groups arrived, round parity, members of partial renders pending (R297, R357). -/
def Saved.barrierWord (b : Saved) : Nat :=
  let arrived := (b.groups.filter Group.arrived).length + (b.block.ngroups - b.groups.length)
  arrived % 65536 + (if b.block.round then 65536 else 0) + b.block.renders * 2 ^ 17

/-- A block record (R357) (DESIGN CHOICE, log entry 65). -/
def State.blockRecord (s : State) (b : Saved) : List Byte :=
  let n := b.block.spadSize
  let size := recordSize b.block b.groups b.conts
  padTo size (padTo 64 (natLe 4 size ++ natLe 4 b.block.bid ++ natLe 4 b.groups.length ++
    natLe 4 b.block.cores.length ++ natLe 4 n ++ natLe 4 b.barrierWord) ++
    Memory.reads b.block.spad 0 n ++
    bitBytes (ceilDiv (n / 128) 8) ((List.range (n / 128)).map fun i => (b.block.line i).full) ++
    bitBytes (ceilDiv (n / 2) 8) ((List.range (n / 2)).map fun i =>
      b.block.spadPoison.contains (2 * i) || b.block.spadPoison.contains (2 * i + 1)) ++
    b.conts.flatMap (contRecord b.block.task) ++
    b.groups.flatMap (s.groupRecord b.block.task b.engines b.caravans))

/-! ### What the bytes of a record say (R353) -/

/-- The set bits among the first `n` of some bytes. -/
def bitsIn (n : Nat) (b : List Byte) : List Nat :=
  b.zipIdx.flatMap fun (x, i) => if x = 0 then [] else
    ((List.range 8).map fun j => (j, x.getLsbD j)).filterMap fun (j, on) =>
      if on && decide (8 * i + j < n) then some (8 * i + j) else none

/-- Registers of a byte image. -/
def regsIn (n : Nat) (b : List Byte) : Regs := (wordsOf n b).zipIdx.filterMap fun (w, i) =>
  if w = 0 then none else some (i, w)

/-- Cut `n` halves with their poison bits off some bytes: the data, the marks, the rest. -/
def cutPoisoned (n : Nat) (b : List Byte) : List Byte × List Nat × List Byte :=
  (b.take (2 * n), bitsIn n ((b.drop (2 * n)).take (ceilDiv n 8)), b.drop (withPoison n))

/-- The state that a lane entry gives a lane, beside the one it was saved with: a wait that the entry changes
becomes runnable (DESIGN CHOICE, log entry 66). -/
def stateIn (code : Nat) (old : LaneState) : LaneState :=
  if old.savedCode = code then old
  else match code with
    | 3 => .producer | 5 => .bar | 6 => .exited | 7 => .gdone | _ => .runnable

/-- A walk as its image gives it, over the one that was saved (R357): what the image does not show of it stays. -/
def walkIn (x : Lane) (b : List Byte) : Walk :=
  let name := rayName (BitVec.ofNat 128 (fieldOf b 384 16)) x.linset
  let old : Walk := x.walk.getD { ray := [], descAt := 0, desc := none, stack := [], tmax := 0, hit := none
                                  cand := none, name := name, watch := [] }
  let img := b.take 384
  if x.walk.isSome && walkImage old == img then old
  else
    let w (k : Nat) : Word := BitVec.ofNat 32 (fieldOf img (4 * k) 4)
    let d (k : Nat) : DWord := BitVec.ofNat 64 (fieldOf img (4 * k) 8)
    let hit := (w 12, w 13, w 14, w 15)
    let refs := (List.range (min 37 (w 11).toNat)).map fun i => (w (21 + 2 * i), w (22 + 2 * i))
    { old with
      ray := (List.range 8).map w, descAt := d 8, tmax := w 10
      desc := if d 8 = old.descAt then old.desc else none
      hit := if old.hit.getD (0, 0, 0, 0) = hit then old.hit else some hit
      cand := match (w 16).toNat with
        | 1 => some (.tri (w 17) (w 18) (w 19) (w 20))
        | 2 => some (.custom (w 17) (d 18))
        | 3 => some (.dist (w 17) (w 18) (w 19))
        | _ => none
      stack := refs.zipIdx.map fun (e, i) => match old.stack[i]? with
        | some o => if (o.1, o.2.getD 0) = e then o else (e.1, if e.2 = 0 then none else some e.2)
        | none => (e.1, if e.2 = 0 then none else some e.2) }

/-- A lane as its entry and its vector image give it; `rec` is the group's record. -/
def laneIn (rec : List Byte) (x : Lane) (e : List Byte) (budget : Nat) (vec : List Byte) (marks : List Nat)
    (helper : Bool) : Lane :=
  let w := fieldOf e 0 8
  let walk := fieldOf e 44 4
  { x with
    pc := BitVec.ofNat 64 (w % 2 ^ 57), st := stateIn (bfield w 57 3) x.st, helper := helper
    resume := BitVec.ofNat 64 (fieldOf e 8 8), lin := BitVec.ofNat 128 (fieldOf e 16 16), vbase := fieldOf e 32 4
    preds := BitVec.ofNat 15 (fieldOf e 36 4), linset := BitVec.ofNat 32 (fieldOf e 40 4), v := regsIn budget vec
    vPoison := marks
    walk := if walk = 0 then none else
      some (walkIn { x with linset := BitVec.ofNat 32 (fieldOf e 40 4) } ((rec.drop walk).take 384 ++ (e.drop 16).take 16)) }

/-- A wait of a lane for what the record's kind and operand name, where it was for what the saved ones named
(DESIGN CHOICE, log entry 66). -/
def State.laneParkIn (s : State) (old new : Nat × Nat) (st : LaneState) : LaneState :=
  if s.parkOf st ≠ some old then st
  else match st, new.1 with
    | .parked (.route _ n d h w), 1 => .parked (.route new.2 n d h w)
    | .parked (.routeSpace _ n e h w), 7 => .parked (.routeSpace new.2 n e h w)
    | .parked (.token _ d), 2 => .parked (.token (BitVec.ofNat 32 new.2) d)
    | .parked (.phase _ b), 5 => .parked (.phase new.2 b)
    | .parked (.fault n), 11 =>
      match (s.records.find? fun r => r.num == n).bind fun r =>
          s.records.find? fun x => x.cluster == r.cluster && x.index == new.2 with
      | some x => .parked (.fault x.num)
      | none => st
    | _, 4 => .bar
    | _, 12 => .parked (.halt false)
    | st, k => if k = old.1 then st else .runnable

/-- The wait of a clause that a record's kind and operand name (DESIGN CHOICE, log entry 66). -/
def waitIn (bu : Nat) (new : Nat × Nat) (w : Wait) : Option Wait :=
  match new.1, w with
  | 3, _ => some (.line [(bu, new.2 / 128)])
  | 9, .storeSpace cl => some (.storeSpace cl)
  | 10, _ => some .tokenSlot
  | 11, _ => some .answers
  | _, _ => none

/-- The park of a group as its record gives it (R357). -/
def State.groupParkIn (s : State) (g : Group) (b : List Byte) : Group :=
  let old := s.savedPark g
  let new := (bfield (fieldOf b 100 4) 0 4, fieldOf b 104 8)
  if new = old then g
  else match g.clause.bind fun c => c.wait with
    | some w => { g with clause := g.clause.map fun c => { c with wait := waitIn g.block new w } }
    | none => { g with lanes := g.lanes.map fun x => { x with st := s.laneParkIn old new x.st } }

/-- The generator of a group as its record gives it (R357); entries that it counts beyond those saved are Undefined
(DESIGN CHOICE, log entry 66). -/
def State.genIn (s : State) (slot : Nat) (g : Group) (b : List Byte) : Option Generator :=
  let w (k : Nat) : Nat := fieldOf b (112 + 4 * k) 4
  if genBytes g == (b.drop 112).take 32 then g.gen
  else if w 3 = 0 then none
  else
    let x : Generator := g.gen.getD { offset := 0, cap := 0, words := 0, thr := 0, label := 0, mode := .producer
                                      entries := [], head := 0, batchN := 0, taken := false, batch := [] }
    some { x with
      offset := w 0, cap := w 1, words := w 3, thr := w 4, label := BitVec.ofNat 64 (w 6 + 2 ^ 32 * w 7)
      mode := if w 5 = 2 then .consumer else .producer
      entries := (List.range (w 2)).map fun i => (List.range (w 3)).map fun j =>
        ((x.entries[i]?).bind fun e => e[j]?).getD (s.undef slot .serai (64 * i + j)) }

/-- A table of wide registers of a byte image. -/
def wideIn {w : Nat} (n size : Nat) (b : List Byte) : Table (BitVec w) :=
  ((List.range n).map fun i => (i, BitVec.ofNat w (fieldOf b (size * i) size))).filter fun e => e.2 != 0

/-- The register images of a group as the bytes give them. -/
def Group.banksIn (g : Group) (t : TaskRec) (b : List Byte) : Group × List Byte × List Nat :=
  let (vec, vm, b) := cutPoisoned (2 * g.width * g.budget) b
  let (sc, sm, b) := cutPoisoned (2 * t.sregs) b
  let (hs, hm, b) := cutPoisoned (512 * t.hcount) b
  let (cs, _, b) := cutPoisoned (4096 * t.ccount) b
  let (tie, _, b) := cutPoisoned 512 b
  let (zs, zm, _) := cutPoisoned (8192 * t.zcount) b
  ({ g with
    s := regsIn t.sregs sc, sPoison := sm, h := wideIn t.hcount 1024 hs, hPoison := hm, c := wideIn t.ccount 8192 cs
    htie := BitVec.ofNat 8192 (leNat tie)
    z := (List.range t.zcount).foldl (fun y i => tset [] y i (regsIn 4096 ((zs.drop (16384 * i)).take 16384))) []
    zPoison := zm.map fun h => (h / 8192, h % 8192) }, vec, vm)

/-- A group as its record gives it; `g` is the group as it was saved (R353, R357). -/
def State.groupIn (s : State) (slot : Nat) (g : Group) (t : TaskRec) (b : List Byte) : Group :=
  let walks := ((List.range g.width).filter fun l => fieldOf b (256 + 64 * l + 44) 4 ≠ 0).length
  let at_ := 256 + 64 * g.width + 64 * t.zcount + 384 * walks
  let (g1, vec, vm) := g.banksIn t (b.drop at_)
  let n := 4 * g.budget
  let help : Mask := BitVec.ofNat 64 (fieldOf b 24 8)
  { s.groupParkIn g1 b with
    gid := fieldOf b 4 4, handler := (fieldOf b 9 1).testBit 0, serial := (fieldOf b 9 1).testBit 1
    gen := s.genIn slot g b
    flags := BitVec.ofNat 12 (fieldOf b 10 2) ||| flagsOf fun f => g.flag f && g.clauseSets f
    k := (List.range 8).map fun i => BitVec.ofNat 64 (fieldOf b (32 + 8 * i) 8), sbase := fieldOf b 96 4
    lanes := (List.range g.width).map fun l => laneIn b ((s.groupParkIn g b).lane l) (b.drop (256 + 64 * l)) g.budget
      ((vec.drop (n * l)).take n) ((vm.filter fun h => h / (2 * g.budget) = l).map (· % (2 * g.budget))) (mHas help l)
    progress := (List.range t.zcount).foldl (fun y z =>
      tset 0 y z (fieldOf b (256 + 64 * g.width + 64 * z + 32) 4)) [] }

/-- A continuation as its record gives it. -/
def Cont.recordIn (c : Cont) (t : TaskRec) (b : List Byte) : Cont :=
  let m : Mask := BitVec.ofNat 64 (fieldOf b 16 8)
  let ls := lanesOf m
  let (sc, sm, _) := cutPoisoned (2 * t.sregs) (b.drop (64 + 16 * ls.length))
  { c with
    gid := fieldOf b 4 4, barrier := (fieldOf b 9 1).testBit 0, mask := m, label := BitVec.ofNat 64 (fieldOf b 24 8)
    token := BitVec.ofNat 32 (fieldOf b 32 4), helpers := c.helpers &&& m, s := regsIn t.sregs sc, sPoison := sm
    lanes := (List.range c.width).map fun l => match ls.findIdx? fun k => k == l with
      | some j => { c.lanes.getD l {} with lin := BitVec.ofNat 128 (fieldOf b (64 + 16 * j) 16) }
      | none => c.lanes.getD l {} }

/-- Read a run of records, each as long as its first word says. -/
def recordsIn {α : Type} (f : α → List Byte → α) : List α → List Byte → List α × List Byte
  | [], b => ([], b)
  | x :: xs, b =>
    let n := fieldOf b 0 4
    let (ys, rest) := recordsIn f xs (b.drop n)
    (f x (b.take n) :: ys, rest)

/-- Records one after another, each as long as its first word says, up to one of fewer than 64 bytes. -/
def splitRecords : Nat → List Byte → List (List Byte)
  | 0, _ => []
  | fuel + 1, b =>
    let n := fieldOf b 0 4
    if n < 64 ∨ b.length < n then [] else b.take n :: splitRecords fuel (b.drop n)

/-- The engine operation that a tile's entry shows (R357, R389): the one that was saved where the entry is as it was,
else the MLOOP or the abandoned MMA of its words, with the scalars and the iteration that it gives. -/
def Saved.engineIn (v : Saved) (g : Group) (b : List Byte) (z : Nat) : Option Engine :=
  let e := (b.drop (256 + 64 * g.width + 64 * z)).take 64
  let old := v.engines.find? fun e => e.group == g.uid && Instr.tile? e.instr == some z
  if tileEntry g v.engines z == e then old
  else
    let w (k : Nat) : Word := BitVec.ofNat 32 (fieldOf e k 4)
    let src := (old.map fun x => x.src).getD g
    let put (t : Regs) (r k : Nat) : Regs := tset 0 t (src.sbase + r) (w k)
    let make (i : Instr) (t : Regs) : Engine :=
      { group := g.uid, flag := if fieldOf e 56 1 = 0 then none else flagOf (fieldOf e 56 1 - 1), instr := i
        src := { src with s := t }, done := fieldOf e 32 4, record := none
        word := (old.map fun x => x.word).getD 0, header := (old.map fun x => x.header).getD 0 }
    match decodeWords [fieldOf e 40 4, fieldOf e 44 4] with
    | .ok (.mloop t h z' p) =>
      if z'.val = z then
        some (make (.mloop t h z' p) ((List.range 8).foldl (fun y k => put y (p.val + k) (4 * k)) src.s))
      else none
    | .ok (.mma t h z' x y) => if z'.val = z then some (make (.mma t h z' x y) (put (put src.s x.val 48) y.val 52)) else none
    | _ => none

/-- The engine operations that a group's record shows, and those saved behind the first of a tile. -/
def Saved.enginesIn (v : Saved) (g : Group) (b : List Byte) : List Engine :=
  let shown := (List.range v.block.task.zcount).filterMap fun z =>
    v.engines.find? fun e => e.group == g.uid && Instr.tile? e.instr == some z
  ((List.range v.block.task.zcount).filterMap (v.engineIn g b)) ++
    v.engines.filter fun e => e.group == g.uid && !shown.contains e

/-- The copies of a CPB of `n` bytes that are left when some bytes have been carried. -/
def partsLeft (carried : Nat) : List Part → List Part
  | [] => []
  | p :: ps => if p.n ≤ carried then partsLeft (carried - p.n) ps else p :: ps

/-- The caravans of a group's CPB as its record gives them (R242, R357): those that were saved where the bytes are as
they were, else the rest of the copy that its operands name, read anew when it is inbound; bytes that cannot be read
are Undefined (DESIGN CHOICE, log entry 66). -/
def State.cpbIn (s : State) (v : Saved) (g : Group) (b : List Byte) : List Caravan :=
  let mine := v.caravans.filter fun c => c.group == g.uid && c.cpb.isSome
  if cpbBytes g v.caravans == (b.drop 144).take 32 then mine
  else
    let ga : DWord := BitVec.ofNat 64 (fieldOf b 144 8)
    let off := fieldOf b 152 4
    let nw := fieldOf b 156 4
    let out := nw.testBit 31
    let n := bfield nw 0 21
    let ps := partsLeft (fieldOf b 160 4) (cpbParts (n / 16 + 2) ga.toNat off n)
    let flag := if fieldOf b 164 1 = 0 then none else flagOf (fieldOf b 164 1 - 1)
    let w : Who := { cl := v.block.cluster, slot := v.block.slot }
    let fill (p : Part) : Part := if out then p else match s.fillParts w [p] with
      | .ok [q] => q
      | _ => { p with data := (List.range p.n).map fun i => some ((s.undef v.block.slot .late (p.off + i)).setWidth 8, false) }
    let k : CopyOf := { group := g.uid, block := v.block.uid, flag := flag, mask := g.live
                        word := (mine.head?.map fun c => c.word).getD 0, header := (mine.head?.map fun c => c.header).getD 0 }
    ({ s with caravans := [] }.addCaravans (k.withCpb out ga off n) out (ps.map fill)).caravans

/-- Bytes that copies have yet to bring into a line of scratchpad. -/
def pendingIn (cs : List Caravan) (i : Nat) : Nat :=
  ((cs.filter fun c => !c.out).map fun c => (c.parts.map fun p =>
    min (p.off + p.n) (128 * i + 128) - max p.off (128 * i)).sum).sum

/-- A block as its record gives it; `v` is the block as it was saved (R353, R357). -/
def State.blockIn (s : State) (v : Saved) (b : List Byte) : Saved :=
  let n := v.block.spadSize
  let body := b.drop 64
  let full := bitsIn (n / 128) ((body.drop n).take (ceilDiv (n / 128) 8))
  let marks := bitsIn (n / 2) ((body.drop (n + ceilDiv (n / 128) 8)).take (ceilDiv (n / 2) 8))
  let (cs, rest) := recordsIn (fun (c : Cont) b => c.recordIn v.block.task b) v.conts (body.drop (spadImage n))
  let (gs, _) := recordsIn (fun (g : Group) b => s.groupIn v.block.slot g v.block.task b) v.groups rest
  let recs := v.groups.zip (splitRecords v.groups.length rest)
  let caravans := (v.caravans.filter fun c => c.cpb.isNone) ++ recs.flatMap fun e => s.cpbIn v e.1 e.2
  let w := fieldOf b 20 4
  { v with
    conts := cs, groups := gs, engines := recs.flatMap (fun e => v.enginesIn e.1 e.2), caravans := caravans
    block := { v.block with
      bid := fieldOf b 4 4, round := w.testBit 16, renders := w / 2 ^ 17
      spad := ((body.take n).zipIdx.filter fun e => e.1 != 0).map fun e => (e.2, e.1)
      lines := (List.range (n / 128)).foldl (fun t i =>
        tset {} t i { v.block.line i with full := full.contains i, pendingBytes := pendingIn caravans i }) []
      spadPoison := marks.flatMap fun i => [2 * i, 2 * i + 1] } }

/-- A block as a record of its shape gives it: as it was saved where the bytes are those it was saved with. -/
def State.recordOver (s : State) (v : Saved) (b : List Byte) : Saved :=
  if s.blockRecord v = b then v else s.blockIn v b

/-- The XALLs that have begun for the groups of a block, as the groups' records give them (R258, R357). -/
def State.xallsIn (s : State) (v : Saved) (b : List Byte) : State :=
  let body := b.drop (64 + spadImage v.block.spadSize)
  let (_, rest) := recordsIn (fun (c : Cont) _ => c) v.conts body
  (v.groups.zip (splitRecords v.groups.length rest)).foldl (fun s e =>
    let f (k n : Nat) : Nat := fieldOf e.2 (176 + k) n
    let mine (x : Xall) : Bool := x.group == e.1.uid && x.begun
    if s.xallBytes e.1 == (e.2.drop 176).take 32 then s
    else if f 12 4 = 0 then { s with xalls := s.xalls.filter fun x => !mine x }
    else { s with xalls := s.xalls.map fun x => if mine x then { x with
      dst := f 0 4, coll := f 4 4, seq := BitVec.ofNat 32 (f 8 4), bytes := f 12 4
      flag := if f 16 1 = 0 then none else flagOf (f 16 1 - 1) } else x }) s

/-! ### A record of no known block (DESIGN CHOICE, log entry 66) -/

/-- The allocation of a group that its record's length shows: scalars, tiles, counters and hypervectors, and the
vector registers that fill the rest; the fewest of the first four that leave at most 512 of the last. -/
def shapeCounts (width left : Nat) : Nat × Nat × Nat × Nat × Nat :=
  let tries := (List.range 8).flatMap fun k => (List.range 17).flatMap fun z => (List.range 5).flatMap fun c =>
    (List.range 17).map fun h => (128 * (k + 1), z, c, h)
  let used (e : Nat × Nat × Nat × Nat) : Nat := withPoison (2 * e.1) + e.2.1 * 64 + withPoison (8192 * e.2.1) +
    withPoison (4096 * e.2.2.1) + withPoison (512 * e.2.2.2)
  let budget (e : Nat × Nat × Nat × Nat) : Nat := (left - used e) * 4 / (17 * width)
  let fits (e : Nat × Nat × Nat × Nat) : Bool := decide (used e ≤ left) && decide (8 ≤ budget e) &&
    decide (budget e ≤ 512) && budget e % 8 == 0 && withPoison (2 * width * budget e) == left - used e
  match tries.find? fits with
  | some e => (e.1, e.2.1, e.2.2.1, e.2.2.2, budget e)
  | none => (128, 0, 0, 0, max 8 (min 512 (budget (128, 0, 0, 0))))

/-- The shape of a group that its record shows, and the counts of its allocation. -/
def groupShape (b : List Byte) : Group × (Nat × Nat × Nat × Nat × Nat) :=
  let width := 8 * 2 ^ bfield (fieldOf b 8 1) 0 2
  let walks := ((List.range width).filter fun l => fieldOf b (256 + 64 * l + 44) 4 ≠ 0).length
  let n := shapeCounts width (fieldOf b 0 4 - (256 + 64 * width + 384 * walks + withPoison 512))
  ({ uid := 0, block := 0, gid := 0, width := width, budget := n.2.2.2.2
     lanes := List.replicate width { pc := BitVec.ofNat 64 (fieldOf b 256 8 % 2 ^ 57) } }, n)

/-- A continuation that its record shows, over a group's width; its other fields come with the record (R358). -/
def contShape (bu : Nat) (gs : List Group) (b : List Byte) : Cont :=
  let gid := fieldOf b 4 4
  let g := gs.find? fun g => g.gid == gid
  { block := bu, gid := gid, width := 8 * 2 ^ bfield (fieldOf b 8 1) 0 2, core := (g.map fun g => g.core).getD 0, role := 0
    budget := (g.map fun g => g.budget).getD 8, barrier := false, resolved := false, token := 0, mask := 0, helpers := 0
    label := 0, lanes := [], s := [], sPoison := [], pixel := false, replay := false }

/-- A task that covers such a block; `spad` are the scratchpad bytes of one core. -/
def shapeTask (gs : List Group) (n : Nat × Nat × Nat × Nat × Nat) (spad : Nat) (pc : DWord) : TaskRec :=
  let g := gs.headD { uid := 0, block := 0, gid := 0, width := 32, lanes := [] }
  let (sregs, z, c, h, _) := n
  let unit (n : Nat) : Nat := min 63 (ceilDiv n 32768)
  let part := unit ((gs.map fun g => 4 * g.width * g.budget).sum) + 2 ^ 6 * unit (4096 * gs.length) +
    2 ^ 12 * unit (gs.length * (1024 * h + 8192 * c)) + 2 ^ 18 * min 63 (ceilDiv (gs.length * z) 2) + 2 ^ 24 * unit spad
  { kaddr := pc, partword := BitVec.ofNat 32 part, nblocks := 1, threads := g.width * gs.length, width := g.width
    prio := 0, persist := false, roles := [(0, 8), (0, 8), (0, 8)], vregs := g.budget, sregs := sregs, hcount := h
    ccount := c, zcount := z, ept := 0, ipeak := 0, parent := 0, arg := 0 }

end Sys2Proof.Machine
end

