-- ==== Sys2Proof/Machine/Scheduler.lean ====
section
/-! DEFINITION. Placement of blocks (20 R381-R384, 02 R15, R31), the groups they begin with (03 R53, 11 R292,
R296, 12 R324, 18 R348), continuations (03 R64, 09 R247), pre-emption and saved blocks (20 R388-R392), control
intervals (20 R385, R386), and display heads (11 R312, 20 R395). -/

namespace Sys2Proof.Machine

/-! ### Room on a core -/

/-- Groups on a core: issue slot, width, context slot. -/
def State.occupants (s : State) (cl k : Nat) : List (Nat × Nat × Nat) :=
  (s.groups.filter fun g => s.clusterOf g == cl && g.core == k).map fun g => (g.hwslot, g.width, s.slotOf g)

/-- The occupants of one issue slot. -/
def inHw (occ : List (Nat × Nat × Nat)) (h : Nat) : List (Nat × Nat × Nat) :=
  occ.filter fun e => e.1 == h || (e.2.1 == 64 && e.1 + 1 == h)

/-- The lowest issue slot that takes a group of a width and context (R15). -/
def findHw (occ : List (Nat × Nat × Nat)) (ctx width : Nat) : Option Nat :=
  if width = 64 then
    ((List.range 36).map fun k => 2 * k).find? fun h => inHw occ h = [] ∧ inHw occ (h + 1) = []
  else (List.range 72).find? fun h =>
    let xs := inHw occ h
    decide (xs = []) || (decide (width < 32) && decide (xs.length < 32 / width) &&
      xs.all fun e => e.2.1 == width && e.2.2 == ctx)

/-- Issue slots for `n` groups, none when a core lacks one. -/
def findHws (ctx width : Nat) : Nat → List (Nat × Nat × Nat) → Option (List Nat)
  | 0, _ => some []
  | n + 1, occ =>
    match findHw occ ctx width with
    | none => none
    | some h => (findHws ctx width n ((h, width, ctx) :: occ)).map fun hs => h :: hs

/-- Blocks that stand on a core, with the pool unit their scratchpad part starts at. -/
def State.standing (s : State) (cl k : Nat) : List (Block × Nat) :=
  s.blocks.filterMap fun b =>
    if b.cluster = cl then (b.cores.find? fun c => c.1 == k).map fun c => (b, c.2) else none

/-- The lowest run of pool units free of scratchpad parts (log entry 22). -/
def findRun (taken : List (Nat × Nat)) (n : Nat) : Option Nat :=
  if n = 0 then some 0
  else (List.range (65 - n)).find? fun a => taken.all fun t => decide (a + n ≤ t.1) || decide (t.1 + t.2 ≤ a)

/-- Pool units that a block holds on one of its cores: `extra` only on the first (R326). -/
def Block.unitsOn (b : Block) (k : Nat) : Nat :=
  if (b.cores.headD (0, 0)).1 = k then b.task.units else b.task.units - b.task.extra

/-- Room on a core for `n` groups of a block: its scratchpad's first unit, and the issue slots
(DESIGN CHOICE, log entry 22). -/
def State.roomOn (s : State) (cl k ctx : Nat) (t : TaskRec) (n : Nat) : Option (Nat × List Nat) :=
  let bs := s.standing cl k
  if (s.coreOf cl k).fenced ∨ 64 < (bs.map fun b => b.1.unitsOn k).sum + t.units then none
  else
    match findRun (bs.map fun b => (b.2, b.1.spadu)) (partField t.partword 24),
        findHws ctx t.width n (s.occupants cl k) with
    | some a, some hs => some (a, hs)
    | _, _ => none

/-- Where a block's parts stand: core, first scratchpad unit, issue slots of its groups. -/
abbrev Spots := List (Nat × Nat × List Nat)

/-- Cores of a cluster, and the Waystation's (R6). -/
def coresOf (cl : Nat) : Nat := if cl = 8 then 8 else 32

/-- Cores for parts of some group counts, in ascending core number from `k` on: the units of `extra` lie on the
first (DESIGN CHOICE, log entry 71). -/
def State.spotsFrom (s : State) (cl ctx : Nat) (t : TaskRec) : Nat → Nat → List Nat → Option Spots
  | _, _, [] => some []
  | 0, _, _ => none
  | fuel + 1, k, n :: ns =>
    match s.roomOn cl k ctx t n with
    | some (a, hs) => (State.spotsFrom s cl ctx { t with extra := 0 } fuel (k + 1) ns).map fun r => (k, a, hs) :: r
    | none => State.spotsFrom s cl ctx t fuel (k + 1) (n :: ns)

/-- Group counts on each core of a block that spans `n`. -/
def TaskRec.counts (t : TaskRec) (n : Nat) : List Nat := (List.range n).map fun i => (t.gidsOn n i).length

/-- Places for a new block on a cluster: the fewest cores that hold it now (R31) (DESIGN CHOICE, log entry 71). -/
def State.spots (s : State) (cl ctx : Nat) (t : TaskRec) : Option Spots :=
  t.spans.findSome? fun n => s.spotsFrom cl ctx t (coresOf cl) 0 (t.counts n)

/-! ### The block and its groups -/

/-- The frame of a grid's threads. -/
def Grid.frame (g : Grid) : Nat := nameFrame g.name

/-- The state with which a live lane of a group begins. -/
def freshLane (pc : DWord) (lin : Name) (hits : List WatchHit) (gid l : Nat) : Lane :=
  { pc := pc, st := .runnable, lin := lin, watch := hits, gid0 := gid, lane0 := l }

/-- A lane of a fragment, with the registers of R293. -/
def fragLane (pc : DWord) (gid l : Nat) (f : Frag) : Lane :=
  { freshLane pc f.name f.watch gid l with
    helper := f.helper0, frag := some f
    v := (f.prim.regs f.x f.y).zipIdx.foldl (fun t e => tset 0 t e.2 e.1) [] }

/-- The vertices that a retention slot holds (R322). -/
def retainedPrim (retain : List Byte) (number : Nat) : Prim :=
  let w := sbNat ((retain.drop 64).take 256) 41 1
  { number := number, verts := (List.range 3).map fun k => wordsOf w (retain.drop (320 + 128 * k)), culled := false }

/-- A quad member of a fragment's replay (R324). -/
def replayFrag (rec retain : List Byte) (m : Nat) : Frag :=
  let lin : Name := BitVec.ofNat 128 (fieldOf rec 0 16)
  let x := bfield (nameItem lin) 20 12 + 4096 * bfield (namePxhi lin) 6 2
  let y := bfield (nameItem lin) 8 12 + 4096 * bfield (namePxhi lin) 4 2
  let mx := x / 2 * 2 + m % 2
  let my := y / 2 * 2 + m / 2
  let p := retainedPrim retain (nameUnit lin)
  { draw := 0, prim := p, x := mx, y := my, depth := (p.regs mx my).getD 2 0, colors := [], depw := none
    helper0 := m != itemMember lin, discarded := false, quadCov := bfield (fieldOf rec 18 1) 0 4
    quadHelp := bfield (fieldOf rec 18 1) 4 4
    name := fragName (nameSlot lin) (nameFrame lin) (nameDisp lin) (nameUnit lin) mx my, watch := []
    resolve := false }

/-- One lane of a new group (R14, R292, R296, R314, R324). -/
def State.newLane (s : State) (gr : Grid) (t : TaskRec) (bid gid l : Nat) : Lane :=
  let rank := gid * t.width + l
  let pc := t.kaddr
  let live : Bool := decide (rank < t.threads)
  let named (n : Name) : Lane :=
    if live then freshLane pc n (s.matchesOf gr.slot n gr.watch) gid l else {}
  let drawName (d : Nat) : Name := ((s.draw? d).map (·.name)).getD 0
  let inDraw (d kind unit item : Nat) : Name :=
    nameMake gr.slot (nameFrame (drawName d)) kind (nameDisp (drawName d)) 0 unit item
  match gr.kind with
  | .compute => named (threadName gr.slot gr.frame (gr.dispatch.getD 0) bid gid l)
  | .vertex d => named (inDraw d 6 (64 * bid) l)
  | .bin d => named (inDraw d 1 ((tget 0 gr.scalars 0).toNat + rank) 0)
  | .raster d => named (inDraw d 1 (tget 0 gr.scalars 0).toNat 0)
  | .pixel _ => match (gr.frags.getD bid []).getD rank none with
    | some f => fragLane pc gid l f
    | none => {}
  | .replay n =>
    match s.replay? n with
    | none => {}
    | some r => match gr.only with
      | some (g0, l0) => if gid = g0 ∧ l = l0 then freshLane pc gr.name [] gid l else {}
      | none => if l < 4 then fragLane pc gid l (replayFrag r.recBytes r.retain l) else {}

/-- Scalars that a group starts with: ARG or the stage's values (R292, R348). -/
def Grid.scalarsOf (g : Grid) (bid : Nat) : Regs :=
  match g.kind with
  | .vertex _ =>
    let n := (tget 0 g.scalars 1).toNat
    tset 0 (tset 0 g.scalars 0 (BitVec.ofNat 32 (64 * bid))) 1 (BitVec.ofNat 32 (min 64 (n - 64 * bid)))
  | _ => g.scalars

/-- A new group of a block (R26, R33, R53); k0-k7 start at 0 (log entry 36) (DEDUCED, log entry 74). -/
def State.newGroup (s : State) (b : Block) (gr : Grid) (uid gid core hw : Nat) : Group :=
  let t := b.task
  let (role, budget) := match gr.kind with
    | .compute => t.roleOf gid
    | .replay _ => if gr.only.isSome then t.roleOf gid else (0, t.vregs)
    | _ => (0, t.vregs)
  let sc := gr.scalarsOf b.bid
  let rep : Bool := match gr.kind with | .replay _ => true | _ => false
  let pix : Bool := match gr.kind with | .pixel _ => true | .replay _ => gr.only.isNone | _ => false
  { uid := uid, block := b.uid, gid := gid, width := t.width
    lanes := (List.range t.width).map fun l => s.newLane gr t b.bid gid l
    s := sc, s0 := sc, role := role, budget := budget, replay := rep, pixel := pix, core := core, hwslot := hw }

/-- A group takes the lowest free lanes of its issue slot, whose path table is settled with it (R15, R25). -/
def State.seat (s : State) (g : Group) : State :=
  let cl := s.clusterOf g
  let taken := (s.groups.filter fun x => s.clusterOf x == cl && x.core == g.core && x.inSlot g.hwslot).map fun x => x.slotLane
  let at_ := ((List.range 4).find? fun i => !taken.contains (i * g.width)).getD 0
  { s with groups := s.groups ++ [{ g with slotLane := at_ * g.width }] }.settlePaths g.uid

/-- The groups of a new block on its cores; a thread's replay has only the recorded group (R324). -/
def State.newGroups (s : State) (b : Block) (gr : Grid) (gids : List (Nat × Nat × Nat)) : State :=
  let keep (gid : Nat) : Bool := match gr.only with
    | some (g0, _) => gid == g0
    | none => true
  (gids.filter fun e => keep e.1).foldl (fun s e =>
    let (u, s) := s.newId
    s.seat (s.newGroup b gr u e.1 e.2.1 e.2.2)) s

/-- (GID, core, issue slot) of each group of a block (R31). -/
def placesOf (t : TaskRec) (sp : Spots) : List (Nat × Nat × Nat) :=
  sp.zipIdx.flatMap fun e => List.zipWith (fun gid h => (gid, e.1.1, h)) (t.gidsOn sp.length e.2) e.1.2.2

/-- Energy and current that a block of a slot on some cores is charged; one of the service's own is never charged
(R384). -/
def TaskRec.charges (t : TaskRec) (slot cores : Nat) : Nat × Nat :=
  if slot = 0 then (0, 0)
  else (if t.ept = 0 then 400 else t.ept, if t.ipeak = 0 then 40 * cores else t.ipeak)

/-- Current of the blocks resident on a cluster. -/
def State.currentOn (s : State) (cl : Nat) : Nat :=
  ((s.blocks.filter fun b => b.cluster == cl).map fun b => b.current).sum

/-- Both charges fit a cluster (R384): one beyond its whole budget does at the boundary of its interval, while no
block has been charged in that interval; `edge` is the cluster whose boundary this is (DEDUCED, log entry 72). -/
def State.affords (s : State) (edge : Option Nat) (cl : Nat) (e i : Nat) : Bool :=
  let c := s.cluster cl
  (decide (e ≤ c.left) || (decide (edge = some cl) && decide (c.energyBudget < e) && !c.charged)) &&
    decide (s.currentOn cl + i ≤ c.currentBudget)

/-- Charge a cluster for a block (R384); only metered energy makes debt (R385) (DEDUCED, log entry 72). -/
def State.charge (s : State) (cl e : Nat) : State :=
  s.modCluster cl fun c => { c with left := c.left - e, charged := c.charged || decide (e ≠ 0), placed := c.placed + 1 }

/-- A slot's blocks may be admitted on a cluster: no hold of another context's head, no closed gate (R388,
R395). -/
def State.admits (s : State) (cl slot : Nat) : Bool :=
  let c := s.cluster cl
  !c.gates.contains slot && c.holds.all fun h => bfield (s.head h).ctl.toNat 8 6 == slot

/-! ### The queue -/

/-- The slot of a context that takes no tasks now: being saved, or being loaded (R352, R353). -/
def State.shut (s : State) (slot : Nat) : Bool := decide ((s.ctx slot).state ≠ .live)

/-- A queue entry may be placed now; a replay that a save waits for may in a context being saved (R79). -/
def State.opens (s : State) (e : QEntry) : Bool :=
  !s.shut e.slot || match e.what with
    | .grid g | .again g _ _ => match s.grid? g with
      | some { kind := .replay _, .. } => decide ((s.ctx e.slot).state = .saving)
      | _ => false
    | .saved v => !v.block.saves && decide ((s.ctx e.slot).state = .saving)

/-- The head of the highest non-empty queue of a partition (R382). -/
def State.queueHead (s : State) (p : Nat) : Option QEntry :=
  let es := s.queue.filter fun e => e.part == p && s.opens e
  match (es.map fun e => e.prio).max? with
  | none => none
  | some k => es.find? fun e => e.prio == k

/-- Take an entry off the queue. -/
def State.unqueue (s : State) (e : QEntry) : State := { s with queue := s.queue.erase e }

/-- What a queue entry places: its needs, the group count on each core of a saved block. -/
def State.needOf (s : State) (w : Waiting) : Option (TaskRec × Option (List Nat)) :=
  match w with
  | .grid g | .again g _ _ => (s.grid? g).map fun x => (x.task, none)
  | .saved b => some (b.block.task,
      some (b.block.cores.map fun c => (b.groups.filter fun g => g.core == c.1).length))

/-- Places for an entry on a cluster. -/
def State.spotsOf (s : State) (cl slot : Nat) (n : TaskRec × Option (List Nat)) : Option Spots :=
  match n.2 with
  | none => s.spots cl slot n.1
  | some cs => s.spotsFrom cl slot n.1 (coresOf cl) 0 cs

/-- The tile of a fragment of a draw. -/
def tileOf (sb : List Byte) (f : Frag) : Nat := f.y / 32 * sbTx sb + f.x / 32

/-- The tiles that fragments of saved pixel blocks of a slot own: target, tile (R388). -/
def State.savedTiles (s : State) (slot : Nat) : List (Nat × Nat) :=
  s.queue.flatMap fun e => match e.what with
    | .saved b => if e.slot ≠ slot then [] else b.groups.flatMap fun g => g.lanes.filterMap fun x =>
        x.frag.bind fun f => (s.draw? f.draw).map fun d => ((sbTarget d.sb 0).1, tileOf d.sb f)
    | _ => []

/-- A block of a pixel grid would enter a tile that a saved pixel block owns (R388). -/
def State.tileHeld (s : State) (e : QEntry) : Bool :=
  let held (g bid : Nat) : Bool := match s.grid? g with
    | some gr => match gr.kind with
      | .pixel d => match s.draw? d, (gr.frags.getD bid []).findSome? fun x => x with
        | some d, some f => (s.savedTiles e.slot).contains ((sbTarget d.sb 0).1, tileOf d.sb f)
        | _, _ => false
      | _ => false
    | none => false
  match e.what with
  | .grid g => held g (((s.grid? g).map (·.placed)).getD 0)
  | .again g bid _ => held g bid
  | .saved _ => false

/-- A replay that a block being pre-empted waits for is outstanding work of that block (R79, R388): neither a closed
gate nor a hold keeps it from being placed. -/
def State.owedReplay (s : State) (e : QEntry) : Bool :=
  let called (n : Nat) : Bool := match (s.replay? n).bind fun r => s.group? r.group with
    | some g => s.preempting.any fun p => p.1 == g.block
    | none => false
  let kind : Option BlockKind := match e.what with
    | .grid g | .again g _ _ => (s.grid? g).map fun x => x.kind
    | .saved v => some v.block.kind
  match kind with
  | some (.replay n) => called n
  | _ => false

/-- The cluster that takes an entry (R382, R384): of those that can hold it and afford it, the one with most
energy left, the lower number first. -/
def State.clusterFor (s : State) (edge : Option Nat) (e : QEntry) (n : TaskRec × Option (List Nat)) : Option (Nat × Spots) :=
  let cs := (s.clustersOf e.part).filterMap fun cl =>
    if !s.admits cl e.slot && !s.owedReplay e then none
    else match s.spotsOf cl e.slot n with
      | none => none
      | some sp =>
        let (en, i) := n.1.charges e.slot sp.length
        if s.affords edge cl en i then some (cl, sp) else none
  match (cs.map fun c => (s.cluster c.1).left).max? with
  | none => none
  | some k => cs.find? fun c => (s.cluster c.1).left == k

/-- The dispatch number of a task's grid, given as it is admitted (R315) (DEDUCED, log entry 70). -/
def State.dispatch (s : State) (gr : Grid) : State :=
  if gr.kind ≠ .compute ∨ gr.dispatch.isSome then s
  else
    let n := (s.ctx gr.slot).ccb.dispCtr
    (s.modCtx gr.slot fun c => { c with ccb := { c.ccb with dispCtr := c.ccb.dispCtr + 1 } }).modGrid gr.uid
      fun g => { g with dispatch := some n.toNat }

/-- Place a block of a grid (R31, R53) (DEDUCED, log entry 70). -/
def State.placeBlock (s : State) (g bid relaunches cl : Nat) (sp : Spots) : State :=
  match s.grid? g with
  | none => s
  | some gr0 =>
    let s := s.dispatch gr0
    let gr := (s.grid? g).getD gr0
    let (u, s) := s.newId
    let (o, s) := s.newId
    let t := gr.task
    let (e, i) := t.charges gr.slot sp.length
    let realBid := match gr.kind with
      | .replay n => match gr.only, s.replay? n with
        | some _, some r => fieldOf r.retain 128 4
        | _, _ => 0
      | _ => bid
    let b : Block := {
      uid := u, slot := gr.slot, grid := g, bid := realBid, kind := gr.kind, task := t, cluster := cl
      cores := sp.map fun c => (c.1, c.2.1), spad := [], lines := [], spadPoison := [], launchSeq := 0
      relaunches := relaunches, renders := 0, verts := [], prims := [], ngroups := t.groups, energy := e
      current := i, order := o }
    let s := { s.charge cl e with blocks := s.blocks ++ [b] }
    let s := s.modGrid g fun x => { x with homes := insertNat cl x.homes }
    let s := match gr.kind with
      | .replay n => s.modReplay n fun r => { r with
          block := some u, trace := [], ordinal := 0, lastAt := (0, 0), cond := replayCond r.recBytes r.retain
          overlay := replayOverlay r.recBytes r.retain }
      | _ => s
    s.newGroups b gr (placesOf t sp)

/-- The block of a saved one as it stands again on some cores of a cluster. -/
def Saved.blockAt (b : Saved) (cl order : Nat) (sp : Spots) : Block :=
  let (e, i) := b.block.task.charges b.block.slot sp.length
  { b.block with
    cluster := cl, cores := sp.map fun c => (c.1, c.2.1), energy := e, current := i, order := order, misfit := false }

/-- Its groups on those cores; they read RESTORED, and a pixel watchdog that fired is set again. -/
def Saved.groupsAt (b : Saved) (sp : Spots) : List Group :=
  (b.block.cores.map (·.1)).zipIdx.flatMap fun (k, j) =>
    let (core, _, hs) := sp.getD j (0, 0, [])
    List.zipWith (fun (g : Group) h => { g with core := core, hwslot := h, restored := true, expired := false })
      (b.groups.filter fun g => g.core == k) hs

/-- Where a core of a saved block has come to lie. -/
def Saved.coreAt (b : Saved) (sp : Spots) (core : Nat) : Nat :=
  (sp.getD ((b.block.cores.map (·.1)).findIdx fun k => k == core) (0, 0, [])).1

/-- Restore a saved block (R353, R391): its groups read RESTORED and park again, its operations in progress go on
(R79), its XALLs that had not begun register again (R258), and its area bytes are released. -/
def State.restore (s : State) (b : Saved) (cl : Nat) (sp : Spots) : State :=
  let (o, s) := s.newId
  let blk := b.blockAt cl o sp
  let part := (s.cluster cl).part
  let s1 := s.charge cl blk.energy
  let conts : List Cont := b.conts.map fun c => { c with core := b.coreAt sp c.core }
  let s := { s1 with
    blocks := s.blocks ++ [blk], conts := s.conts ++ conts
    engines := s.engines ++ b.engines, caravans := s.caravans ++ b.caravans, lateOps := s.lateOps ++ b.lateOps }
  let s := (s.modPart part fun p => { p with used := p.used - b.bytes }).modGrid blk.grid fun x =>
    { x with homes := insertNat cl x.homes }
  let s := (b.groupsAt sp).foldl State.seat s
  let s := b.xalls.foldl (fun s x => s.register { x with cluster := cl, core := b.coreAt sp x.core }) s
  (b.groupsAt sp).foldl (fun s g => s.repark g.uid) s

/-- Place an entry on a cluster. -/
def State.placeEntry (s : State) (e : QEntry) (cl : Nat) (sp : Spots) : State :=
  match e.what with
  | .grid g =>
    let k : Nat := ((s.grid? g).map (·.placed)).getD 0
    let n : Nat := ((s.grid? g).map (·.task.nblocks)).getD 0
    let s := s.modGrid g fun x => { x with placed := x.placed + 1 }
    (if k + 1 < n then s else s.unqueue e).placeBlock g k 0 cl sp
  | .again g bid r => (s.unqueue e).placeBlock g bid r cl sp
  | .saved b => (s.unqueue e).restore b cl sp

/-! ### Pre-emption -/

/-- The shortest prefix of blocks whose leaving makes room for an entry on a cluster. -/
def State.roomWithout (s : State) (cl slot : Nat) (n : TaskRec × Option (List Nat)) :
    List Block → List Block → Option (List Block)
  | gone, [] =>
    let s' := gone.foldl (fun s b => s.scrapOne b) s
    if (s'.spotsOf cl slot n).isSome then some gone else none
  | gone, b :: bs =>
    let s' := gone.foldl (fun s b => s.scrapOne b) s
    if (s'.spotsOf cl slot n).isSome then some gone else State.roomWithout s cl slot n (gone ++ [b]) bs

/-- Insert a block by priority, then the most recently placed first (R383). -/
def insertVictim (b : Block) : List Block → List Block
  | [] => [b]
  | x :: xs =>
    if b.task.prio < x.task.prio ∨ (b.task.prio = x.task.prio ∧ x.order < b.order) then b :: x :: xs
    else x :: insertVictim b xs

/-- Bytes of a block's record as it stands. -/
def State.sizeOf (s : State) (b : Block) : Nat :=
  recordSize b (s.groups.filter fun g => g.block == b.uid) (s.conts.filter fun c => c.block == b.uid)

/-- The bytes that remain of a partition's pre-emption area hold a block (R391). -/
def State.fits (s : State) (p : Nat) (b : Block) : Bool :=
  decide ((s.partOf p).used + s.sizeOf b ≤ (s.partOf p).saveSize.toNat)

/-- Blocks of a cluster that a head of queue 7 may displace, those first that go first (R383); one whose save has
not fitted is left out until it fits (R392). -/
def State.victims (s : State) (cl : Nat) : List Block :=
  (s.blocks.filter fun b => b.cluster == cl && decide (b.task.prio < 7) &&
    (!b.misfit || s.fits (s.cluster cl).part b)).foldl (fun l b => insertVictim b l) []

/-- A reason to pre-empt beside one there is already: a display hold comes before the head of queue 7 (R392,
R395). -/
def Preempt.join (old new : Preempt) : Preempt := if old = .queue7 then new else old

/-- Ask blocks to stop, and close their cluster's gate to their contexts (R388). -/
def State.preempt (s : State) (bs : List Block) (why : Preempt) : State :=
  let new := bs.filter fun b => !s.preempting.any fun p => p.1 == b.uid
  let old := s.preempting.map fun p => if bs.any fun b => b.uid == p.1 then (p.1, p.2.join why) else p
  let s := { s with preempting := old ++ new.map fun b => (b.uid, why) }
  new.foldl (fun s b => s.modCluster b.cluster fun c => { c with gates := insertNat b.slot c.gates }) s

/-- The head of queue 7 finds no pool units: blocks of one cluster are pre-empted (R383). -/
def State.displace (s : State) (e : QEntry) (n : TaskRec × Option (List Nat)) : State :=
  let here (u : Nat) : Bool := s.blocks.any fun b => b.uid == u && (s.cluster b.cluster).part == e.part
  if s.preempting.any fun p => p.2 == .queue7 && here p.1 then s
  else
    let opts := (s.clustersOf e.part).filterMap fun cl => s.roomWithout cl e.slot n [] (s.victims cl)
    match (opts.map List.length).min? with
    | none => s
    | some k => match opts.find? fun o => o.length == k with
      | some o => s.preempt o .queue7
      | none => s

/-- The head of the highest queue of a partition is placed, or waits (R382-R384); `edge` is the cluster whose
interval has just begun. -/
def State.placeHead (s : State) (edge : Option Nat) (p : Nat) : State :=
  match s.queueHead p with
  | none => s
  | some e =>
    match s.needOf e.what with
    | none => s.unqueue e
    | some n =>
      if s.tileHeld e then s
      else
        match s.clusterFor edge e n with
        | some (cl, sp) => s.placeEntry e cl sp
        | none =>
          let room := (s.clustersOf p).any fun cl => (s.spotsOf cl e.slot n).isSome
          if e.prio = 7 ∧ room = false then s.displace e n else s

/-- BLOCK_PLACEMENT (R381-R384) of a partition. -/
def execBlockPlacement (p : Fin 8) (s : State) : Host.Outcome State Fault Refusal := .next (s.placeHead none p.val)

/-! ### Saving a block -/

/-- A group has stopped: at a clause boundary, or parked within a clause; a pixel group must have its watchdog
fired (R388). -/
def Group.halted (g : Group) : Bool :=
  (!g.pixel || g.expired) && match g.clause with
    | none => true
    | some c => c.wait.isSome

/-- An engine operation that is saved in progress (R79, R389): an MLOOP, or an MMA that waits on an empty line. -/
def State.savable (s : State) (e : Engine) : Bool :=
  match e.instr, s.group? e.group with
  | .mloop _ _ _ _, _ => true
  | .mma _ _ _ _ _, some g => e.record.isNone && match s.runEngine g e with
    | .wait => true
    | _ => false
  | _, _ => false

/-- An operation that is saved in progress keeps its flag set (R79, R357), and so does a clause whose instruction
is parked. -/
def State.keepsFlag (s : State) (g : Group) (f : Fin 12) : Bool :=
  g.clauseSets f ||
  (s.engines.any fun e => e.group == g.uid && e.flag == some f) ||
  (s.caravans.any fun c => c.group == g.uid && c.flag == some f) ||
  s.xalls.any fun x => x.group == g.uid && x.flag == some f

/-- Every participant of a REPACK on a core of a block has joined: it completes before a save (R389). -/
def State.repackDue (s : State) (bu core : Nat) : Bool :=
  let ps := s.groups.filter fun g => g.block == bu && g.core == core
  match (ps.flatMap fun g => g.lanes.filterMap fun x => x.repackAt.map (·.1)).head? with
  | none => false
  | some site => ps.all fun g => g.joinedRepack site

/-- Everything a save waits for has completed (R79, R389): accesses, copies but a CPB's, engine work but what is
saved in progress, replays, a REPACK that all have joined, and with them every other flag. -/
def State.drained (s : State) (b : Block) : Bool :=
  let gs := s.groups.filter fun g => g.block == b.uid
  let mine (u : Nat) : Bool := gs.any fun g => g.uid == u
  (s.engines.all fun e => !mine e.group || s.savable e) &&
  (s.caravans.all fun c => c.block != b.uid || c.parts.all fun p => p.lane == 64) &&
  (s.replayed.all fun r => !mine r.group) && (s.replays.all fun r => !mine r.group) &&
  (gs.all fun g => (List.finRange 12).all fun f => !g.flag f || s.keepsFlag g f) &&
  b.cores.all fun c => !s.repackDue b.uid c.1

/-- The block as a save takes it, with the bytes of the area it takes (DESIGN CHOICE, log entry 73). -/
def State.takeSaved (s : State) (b : Block) (bytes : Nat) : Saved :=
  let gs := s.groups.filter fun g => g.block == b.uid
  let mine (u : Nat) : Bool := gs.any fun g => g.uid == u
  { block := b, groups := gs, engines := s.engines.filter fun e => mine e.group
    xalls := s.xalls.filter fun x => mine x.group && !x.begun
    conts := s.conts.filter fun c => c.block == b.uid
    caravans := s.caravans.filter fun c => c.block == b.uid
    lateOps := s.lateOps.filter fun o => mine o.group, bytes := bytes, order := s.fresh }

/-- Take a saved block out of the machine: its parks leave their routes, its XALLs that have not begun are
withdrawn (R258); what refers to its groups by number stays (DESIGN CHOICE, log entry 73). -/
def State.removeSaved (s : State) (v : Saved) : State :=
  let mine (u : Nat) : Bool := v.groups.any fun g => g.uid == u
  let s := v.groups.foldl (fun s g => s.modCtx v.block.slot fun c => c.unpark g.routeParks) s
  let s := v.xalls.foldl State.withdraw s
  { s with
    fresh := s.fresh + 1
    groups := s.groups.filter fun g => g.block ≠ v.block.uid
    blocks := s.blocks.filter fun x => x.uid ≠ v.block.uid
    engines := s.engines.filter fun e => !mine e.group
    caravans := s.caravans.filter fun c => c.block ≠ v.block.uid
    conts := s.conts.filter fun c => c.block ≠ v.block.uid
    lateOps := s.lateOps.filter fun o => !mine o.group
    preempting := s.preempting.filter fun p => p.1 ≠ v.block.uid
    turn := match s.turn with
      | some u => if mine u then none else some u
      | none => none }

/-- A queue entry that a kill or a save has put at the head of its queue (R381): whether it is a saved block. -/
def Waiting.ahead : Waiting → Option Bool
  | .again _ _ _ => some false
  | .saved v => if v.loaded then none else some true
  | .grid _ => none

/-- Entries from the head of a queue on: where a saved block joins, behind those saved before it (R381). -/
def saveSpot : List QEntry → Nat
  | [] => 0
  | e :: es => match e.what.ahead with
    | none => 0
    | some true => saveSpot es + 1
    | some false => let n := saveSpot es; if n = 0 then 0 else n + 1

/-- A saved block joins the head of its queue, in the order of saving (R381). -/
def State.requeue (s : State) (e : QEntry) : State :=
  let mine (x : QEntry) : Bool := x.part == e.part && x.prio == e.prio
  let n := saveSpot (s.queue.filter mine)
  let rec put : Nat → List QEntry → List QEntry
    | 0, q => e :: q
    | _ + 1, [] => [e]
    | k + 1, x :: q => x :: put (if mine x then k else k + 1) q
  { s with queue := put n s.queue }

/-- The blocks saved in a partition's area, in the order of saving. -/
def State.savedInArea (s : State) (p : Nat) : List Saved :=
  (s.queue.filterMap fun e => match e.what with
    | .saved v => if e.part = p ∧ v.bytes ≠ 0 then some v else none
    | _ => none).mergeSort fun x y => decide (x.order ≤ y.order)

/-- The bytes of a partition's area that its saved blocks take. -/
def State.countArea (s : State) (p : Nat) : State :=
  let n := ((s.savedInArea p).map fun v => v.bytes).sum
  if (s.partOf p).used = n then s else s.modPart p fun x => { x with used := n }

/-- The area of a partition holds the records of its saved blocks from PSAVEBASE on, in the order of saving (R391)
(DESIGN CHOICE, log entry 73). -/
def State.writeArea (s : State) (p : Nat) : State :=
  (s.physWrite (s.partOf p).saveBase.toNat (mbClean ((s.savedInArea p).flatMap s.blockRecord))).countArea p

/-- A save that did not fit: the block runs on, and counts for later attempts; its pixel groups run until they
retire (R392). -/
def State.keepRunning (s : State) (bu : Nat) : State :=
  { s.modBlock bu (fun b => { b with misfit := true }) with
    groups := s.groups.map fun g => if g.block = bu then { g with expired := false } else g }

/-- BLOCK_SAVE (R388, R391, R392): a stopped block is written to its partition's area, or to its context's
image later; one that does not fit keeps running, or under a hold is killed and launched again. -/
def execBlockSave (bu : Nat) (s : State) : Host.Outcome State Fault Refusal :=
  match s.block? bu, s.preempting.find? fun p => p.1 == bu with
  | some b, some (_, why) =>
    let gs := s.groups.filter fun g => g.block == bu
    if gs.all Group.halted = false ∨ s.drained b = false then .next s
    else
      let p := (s.cluster b.cluster).part
      let entry (v : Saved) : QEntry := { part := p, prio := b.task.prio, slot := b.slot, what := .saved v }
      if why = .ctxsave then
        let v := s.takeSaved b 0
        .next (((s.removeSaved v).requeue (entry v)).openGate b.cluster b.slot)
      else if s.fits p b then
        let v := s.takeSaved b (s.sizeOf b)
        .next ((((s.removeSaved v).requeue (entry v)).writeArea p).openGate b.cluster b.slot)
      else
        let s := s.modPart p fun x => { x with saveFull := x.saveFull + 1 }
        let s := { s with preempting := s.preempting.filter fun x => x.1 ≠ bu }
        .next ((if why = .hold then s.kill bu .free [] else s.keepRunning bu).openGate b.cluster b.slot)
  | _, _ => .next s

/-- PIXEL_WATCHDOG (R388): a pixel group has not retired in time, and stops like a compute group. -/
def execPixelWatchdog (u : Nat) (s : State) : Host.Outcome State Fault Refusal :=
  match s.group? u with
  | none => .next s
  | some g =>
    if g.pixel && !g.expired && s.preempting.any fun p => p.1 == g.block then
      .next ((s.setGroup { g with expired := true }).modPart (s.cluster (s.clusterOf g)).part fun p =>
        { p with watchdog := p.watchdog + 1 })
    else .next s

/-! ### Continuations -/

/-- Bytes of vector registers that a block's live lanes use on a core. -/
def State.vecUsed (s : State) (bu core : Nat) : Nat :=
  ((s.groups.filter fun g => g.block == bu && g.core == core).map fun g => maskCount g.live * g.budget * 4).sum

/-- A continuation may spawn: its barrier or token has resolved (R64, R247); one on a token newer than its slot
waits for it (DESIGN CHOICE, log entry 128). -/
def State.contDue (s : State) (c : Cont) (b : Block) : Bool :=
  if c.barrier then c.resolved
  else match (s.ctx b.slot).tokenState c.token with
    | .done _ => true
    | _ => false

/-- The group that a continuation spawns (R64); what R64 does not list (SBASE, the LINSET word, HTIE, SVCARG, the
accumulators c, the registers h and the tiles z) starts at 0 or empty (DESIGN CHOICE, log entry 135). -/
def Cont.group (c : Cont) (uid hw : Nat) : Group :=
  { uid := uid, block := c.block, gid := c.gid, width := c.width
    lanes := (List.range c.width).map fun l =>
      if mHas c.mask l then { c.lanes.getD l {} with st := .runnable, pc := c.label } else {}
    s := c.s, sPoison := c.sPoison, k := List.replicate 8 c.mask, role := c.role, budget := c.budget
    replay := c.replay, pixel := c.pixel, core := c.core, hwslot := hw, s0 := c.s0 }

/-- CONTINUATION_SPAWN (R64, R247): the `n`-th continuation spawns its group once its event has come, a window
of its block's vector units and an issue slot are free, and its core is not fenced (R403). -/
def execContinuationSpawn (n : Nat) (s : State) : Host.Outcome State Fault Refusal :=
  match s.conts[n]? with
  | none => .next s
  | some c =>
    match s.block? c.block with
    | none => .next s
    | some b =>
      let need := maskCount c.mask * c.budget * 4
      let room : Bool := decide (s.vecUsed c.block c.core + need ≤ 32768 * partField b.task.partword 0)
      if !s.contDue c b || !room || (s.coreOf b.cluster c.core).fenced ||
          s.preempting.any fun p => p.1 == b.uid then .next s
      else
        match findHw (s.occupants b.cluster c.core) b.slot c.width with
        | none => .next s
        | some h =>
          let (u, s) := s.newId
          .next ({ s with conts := s.conts.eraseIdx n }.seat (c.group u h))

/-! ### Control intervals -/

/-- The logic rail of a level in mV (R396). -/
def railOf (level : Nat) : Nat := [550, 600, 650, 700, 750, 800, 875, 950].getD level 550

/-- The highest PERF request among the contexts with a group on a cluster (R386). -/
def State.perfMax (s : State) (cl : Nat) : Nat :=
  ((s.groups.filter fun g => s.clusterOf g == cl).map fun g => (s.ctxOf g).ccb.perfReq).foldl max 0

/-- Charge a context's ENERGY with nanojoules metered on a cluster (R400). -/
def State.meter (s : State) (cl slot nj : Nat) : State :=
  let t := tget 0 (s.cluster cl).frac slot + nj
  let s := s.modCluster cl fun c => { c with frac := tset 0 c.frac slot (t % 1000) }
  s.modCtx slot fun c => { c with ccb := { c.ccb with
    energy := BitVec.ofNat 64 (min (2 ^ 64 - 1) (c.ccb.energy.toNat + t / 1000)) } }

/-- The level cap after an interval (R385, R399): heat lowers it in place of its rise. -/
def ClusterState.nextCap (c : ClusterState) (debt metered : Nat) : Nat × Nat :=
  let run := if debt = 0 then 0 else c.debtRun + 1
  let warm : Bool := c.sensors.any fun x => decide (420 < x.2)
  let fall := if run = 4 then c.cap - 1 else c.cap
  let cap := if warm then fall - 1
    else if debt = 0 ∧ 4 * metered ≤ 3 * c.energyBudget then min 7 (fall + 1) else fall
  (cap, if run = 4 then 0 else run)

/-- The RAS record of a cluster that is too hot: the sensor that shows it, with its core (R398, R405). -/
def thermalRecord (n : Nat) (c : ClusterState) (time : Nat) : Ras :=
  let (i, v) := (c.sensors.find? fun x => decide (460 < x.2)).getD (0, 0)
  let place := if i < 64 then 8 * (i / 2) + 2 ^ 8 * (i % 2) else 2 ^ 8 * (i % 8)
  { type := 0x0A, unit := 6, slot := 255, count := 1, time := time, paddr := 0, loc := n + place
    detail := BitVec.ofNat 64 v }

/-- A block whose charge exceeds a cluster's whole budget is placed there as its interval begins (R384). -/
def State.boundary (s : State) (n : Nat) : State :=
  let p := (s.cluster n).part
  match (s.queueHead p).bind fun e => s.needOf e.what with
  | none => s
  | some need =>
    if (s.cluster n).energyBudget < (need.1.charges 1 1).1 then s.placeHead (some n) p else s

/-- CONTROL_INTERVAL (R384-R386, R396-R400): the boundary of a cluster's interval, with the nanojoules it has
metered for each slot. -/
def execControlInterval (cl : Fin 8) (m : List (Nat × Nat)) (s : State) : Host.Outcome State Fault Refusal :=
  let n := cl.val
  let s := m.foldl (fun s e => s.meter n e.1 e.2) s
  let c := s.cluster n
  let metered := (m.map fun e => e.2).sum / 1000
  let debt := c.debt + (metered - c.energyBudget)
  let (cap, run) := c.nextCap debt metered
  let (eb, ib) := c.newBudgets.getD (c.energyBudget, c.currentBudget)
  let hotter : Bool := c.sensors.any fun x => decide (460 < x.2)
  let hot : Bool := if c.hot then !(c.sensors.all fun x => decide (x.2 < 380)) else hotter
  let level := if hot then 0 else min (s.perfMax n) cap
  let paid := min debt eb
  let s := s.modCluster n fun c => { c with
    energyBudget := eb, currentBudget := ib, newBudgets := none, left := eb - paid, debt := debt - paid
    charged := false, cap := cap, debtRun := run, level := level, metered := metered, hot := hot
    rail := if s.sramRail = 0 then 0 else railOf level }
  let s := if hot && !c.hot then s.logRas (thermalRecord n c s.rasTime) else s
  .next (s.boundary n)

/-! ### Display heads -/

/-- The clusters that a head's lead time pre-empts (R394, R395). -/
def State.headClusters (s : State) (h : Nat) : List Nat :=
  let ctl := (s.head h).ctl.toNat
  let cs := s.clustersOf (s.ctx (bfield ctl 8 6)).ccb.part
  let mask := bfield ctl 16 8
  if mask = 0 then cs else cs.filter fun c => mask.testBit c

/-- A head counts deadlines. -/
def Head.runs (h : Head) : Bool := h.ctl.getLsbD 0 && h.period != 0

/-- LEAD_TIME (R312, R395): the frame's entry is enqueued or counted as lost, the hold begins, and the other
contexts' blocks on the head's clusters are pre-empted. An entry whose route descriptor or ring meets a translation
fault or poison counts as lost and files no record (DESIGN CHOICE, log entry 142). -/
def execLeadTime (h : Fin 4) (s : State) : Host.Outcome State Fault Refusal :=
  let n := h.val
  let x := s.head n
  if !x.runs then .next s
  else
    let slot := bfield x.ctl.toNat 8 6
    let frame := x.frames + 1
    let s := s.modHead n fun x => { x with frames := frame }
    let s := match s.enqueue1 slot (4092 + n) (BitVec.ofNat 64 (frame.toNat + n * 2 ^ 32)) with
      | .ok s => s
      | _ => s.modHead n fun x => { x with leadLost := x.leadLost + 1 }
    let cs := s.headClusters n
    let s := cs.foldl (fun s cl => s.modCluster cl fun c => { c with holds := insertNat n c.holds }) s
    .next (s.preempt (s.blocks.filter fun b => cs.contains b.cluster && b.slot != slot) .hold)

/-- Entries of a presentation route are consumed at the head's deadline (DEDUCED, log entry 84). -/
def State.drainPresent (s : State) (slot r : Nat) : State :=
  s.modCtx slot fun c => { c with routes := c.routes.map fun (k, x) =>
    (k, if k = r then { x with head := x.tail } else x) }

/-- DEADLINE (R312, R394, R395): the new frame scans out, or the previous one again and MISSCOUNT rises; new
periods and leads take effect, and the hold ends. -/
def execDeadline (h : Fin 4) (s : State) : Host.Outcome State Fault Refusal :=
  let n := h.val
  let x := s.head n
  if !x.runs then .next s
  else
    let s := s.drainPresent (bfield x.ctl.toNat 8 6) (4088 + n)
    let s := s.modHead n fun x => { x with
      period := x.newPeriod.getD x.period, newPeriod := none, lead := x.newLead.getD x.lead, newLead := none
      shown := if x.fresh then x.next else x.shown, fresh := false
      misses := if x.fresh then x.misses else x.misses + 1 }
    .next { s with clusters := s.clusters.map fun (k, c) =>
      (k, { c with holds := c.holds.filter fun i => i ≠ n }) }

end Sys2Proof.Machine
end

