-- ==== Sys2Proof/Machine/Contexts.lean ====
section
/-! DEFINITION. Saving and loading a context: the image's header, its tasks and its blocks (18 R352, R353, R357). -/

namespace Sys2Proof.Machine

/-! ### Saving and loading a context -/

/-- The control block's bytes (R345, R346). -/
def ccbBytes (slot : Nat) (b : Ccb) (nblocks ntasks : Nat) : List Byte :=
  let w := slot + b.part * 2 ^ 6 + (if b.sys then 2 ^ 9 else 0) + (if b.debug then 2 ^ 10 else 0) + b.prioCeil * 2 ^ 11
  padTo 256 (natLe 4 w ++ natLe 2 b.pinQuota ++ natLe 2 b.ovt.toNat ++ natLe 8 b.ptroot.toNat ++
    natLe 8 b.routeBase.toNat ++ natLe 8 b.nodeTab.toNat ++ natLe 8 b.spillBase.toNat ++ natLe 4 b.spillBytes ++
    natLe 4 0 ++ natLe 8 b.fring.toNat ++ natLe 8 b.htab.toNat ++ natLe 8 b.hmask.toNat ++
    natLe 8 b.collTab.toNat ++ natLe 8 b.energy.toNat ++ natLe 4 b.perfReq ++ natLe 4 b.drawCtr.toNat ++
    natLe 4 b.lastFrame.toNat ++ natLe 4 b.dispCtr.toNat ++ natLe 4 nblocks ++ natLe 4 ntasks)

/-- A watch specification's bytes (R316, R357). -/
def specBytes (k : Comparator) : List Byte :=
  nameBytes k.value ++ nameBytes k.mask ++ natLe 8 k.ring.toNat ++ natLe 8 k.retain.toNat ++ natLe 1 k.log2cap ++
    natLe 1 k.mode ++ natLe 1 k.tgt ++ natLe 1 (if k.inherit then 1 else 0) ++ natLe 2 k.stages.toNat ++ padTo 10 []

/-- The 4,096-byte header of an image (R357). -/
def imageHeader (c : Ctx) (nblocks ntasks : Nat) : List Byte :=
  let tok (i : Nat) : Nat := let x := c.token_ i
    x.gen.toNat * 256 + (if x.resolved then 128 else 0) + if x.skipped then 1 else 0
  padTo 4096 (ccbBytes c.slot c.ccb nblocks ntasks ++ ((List.range 256).flatMap fun i => natLe 4 (tok i)) ++
    ((List.range 16).flatMap fun i => specBytes (c.comp i)) ++
    (List.range 16).flatMap fun i => natLe 4 (c.comp i).gen.toNat)

/-- A queued record's bytes: PARENT holds the task's name (R348, R352). -/
def queuedBytes (g : Grid) : List Byte := splice (padTo 64 g.bytes) 40 (nameBytes g.name)

/-- What a slot's queue holds. -/
def State.queueOf (s : State) (slot : Nat) : List QEntry := s.queue.filter fun e => e.slot == slot

/-- Saved blocks in a queue. -/
def savedIn (q : List QEntry) : List Saved := q.filterMap fun e => match e.what with | .saved b => some b | _ => none

/-- Grids in a queue none of whose blocks has been placed, in queue order. -/
def unadmitted (gs : List Grid) (q : List QEntry) : List Grid := q.filterMap fun e => match e.what with
  | .grid g => gs.find? fun x => x.uid == g && decide (x.placed = 0 ∧ x.kind = .compute)
  | _ => none

/-- HEAD and TAIL of every cached route go back to its descriptor (R188, R352). -/
def State.flushRoutes (s : State) (slot : Nat) : State :=
  (s.ctx slot).routes.foldl (fun s e => match s.routeDesc { cl := 0, slot := slot } e.1 with
    | .ok d => s.writeDesc slot e.1 d.en (some (e.2.head, e.2.tail))
    | .error _ => s) s

/-- Everything of a context leaves the machine; the slot becomes FREE (R352). Transfers that have begun go on in its
tables (R258), and its Undefined values begin anew with the next context (R4). -/
def State.dropContext (s : State) (slot : Nat) : State :=
  let s := (s.blocks.filter fun b => b.slot == slot).foldl State.scrap s
  let s := (List.range 8).foldl (fun s n => s.modCluster n fun c => { c with
    store := c.store.filter (fun r => r.slot != slot), pins := c.pins.filter (fun p => p.1 != slot)
    gates := c.gates.filter (fun k => k ≠ slot)
    frac := tset 0 c.frac slot 0 }) s
  let s := { s with queue := s.queue.filter fun e => e.slot ≠ slot }
  let s := (List.range 8).foldl State.countArea s
  { s with
    grids := s.grids.filter fun g => g.slot ≠ slot
    draws := s.draws.filter fun d => d.slot ≠ slot, tlbs := s.tlbs.filter fun t => t.slot ≠ slot
    replays := s.replays.filter fun r => r.slot ≠ slot
    tokenOps := s.tokenOps.filter fun o => o.1 ≠ slot, undefCtrs := s.undefCtrs.filter fun e => e.1 ≠ slot
    tasks := s.tasks.filter fun t => t.req.slot.val ≠ slot
    xalls := s.xalls.map fun x => if x.slot = slot then { x with root := some (x.root.getD (s.ctx slot).ccb.ptroot) } else x
    ctxs := s.ctxs.filter fun c => c.slot ≠ slot }

/-- Pipeline work of a slot that has been handed to fixed units is under way, or waits for an answer (R352, R427):
a render whose pixel kernels have finished and which no resolve keeps waiting, or a fault of a fixed unit. -/
def State.pipeBusy (s : State) (slot : Nat) : Bool :=
  let done (u : Nat) : Bool := match s.grid? u with
    | none => true
    | some g => decide (g.task.nblocks ≤ g.done)
  (s.draws.any fun d => d.slot == slot && match d.render with
    | some r => r.grids.all done && (r.resolving || decide (sbNat d.sb 192 8 = 0))
    | none => false) || s.records.any fun r => r.slot == slot && r.source == 5

/-- What of a context the image keeps beside its bytes. -/
def State.imageOf (s : State) (slot : Nat) : SavedImage :=
  let q := s.queueOf slot
  { body := [], blocks := savedIn q, grids := s.grids.filter fun g => g.slot == slot, queue := q
    draws := s.draws.filter fun d => d.slot == slot
    nodes := (List.range 8).flatMap fun n => ((s.cluster n).store.filter fun r => r.slot == slot).map fun r => (n, r)
    drawn := tget 0 s.undefCtrs slot }

/-- CONTEXT_SAVE_COMPLETE (R352, R357): with every block saved and the pipeline idle, the image is written,
the slot becomes FREE and the token resolves; a save address of 0 goes through the same steps and writes no image. -/
def execContextSaveComplete (c : Slot) (s : State) : Host.Outcome State Fault Refusal :=
  let n := c.val
  let x := s.ctx n
  let done (s : State) : State :=
    let s := s.dropContext n
    let s := match x.saveTok with
      | some (sl, t) => s.resolveToken sl t false
      | none => s
    match x.asked with
    | some q => s.respond q 0x02 .ok []
    | none => s
  if x.state ≠ .saving then .next s
  else if (s.blocks.any fun b => b.slot == n) || s.pipeBusy n then .next s
  else if x.saveAt = 0 then
    let s := s.flushRoutes n
    .next (done { s with xalls := s.xalls.filter fun y => decide (y.slot ≠ n) || y.root.isSome })
  else
    let s := s.flushRoutes n
    let im := s.imageOf n
    let ts := unadmitted im.grids im.queue
    let body := ts.flatMap queuedBytes ++ im.blocks.flatMap s.blockRecord
    let s := s.physWrite x.saveAt.toNat (mbClean (imageHeader (s.ctx n) im.blocks.length ts.length ++ body))
    .next (done { s with images := tput s.images x.saveAt.toNat { im with body := body } })

/-- The token slots and comparators of an image's header (R357); in a fresh context no operation is under way, and a
token word of 0 is that of a slot never used (DESIGN CHOICE, log entry 66). -/
def parseHeader (fresh : Bool) (b : List Byte) (c : Ctx) : Ctx :=
  let tok (i : Nat) : Token := let w := fieldOf b (256 + 4 * i) 4
    { gen := BitVec.ofNat 24 (w / 256), resolved := w.testBit 7 || (fresh && decide (w = 0)), skipped := w.testBit 0 }
  let comp (i : Nat) : Comparator :=
    parseSpec ((b.drop (1280 + 64 * i)).take 64) (BitVec.ofNat 32 (fieldOf b (2304 + 4 * i) 4))
  { c with
    tokens := (List.range 256).foldl (fun t i => tset {} t i (tok i)) []
    comps := (List.range 16).foldl (fun t i => tset {} t i (comp i)) [] }

/-! ### Loading -/

/-- The saved image that lies at an address: one whose bytes after the header are found there, wherever it was
written, else the one that was written there, its bytes changed since (DESIGN CHOICE, log entry 66). -/
def State.imageAt (s : State) (at_ : Nat) : Option SavedImage :=
  match s.images.find? fun e => e.2.body != [] && Memory.reads s.mem (at_ + 4096) e.2.body.length == e.2.body with
  | some e => some e.2
  | none => (s.images.find? fun e => e.1 == at_).map fun e => e.2

/-- The records of blocks in an image, `n` of them from an address on, each as long as its first word says. -/
def State.blockRecords (s : State) : Nat → Nat → List (List Byte)
  | 0, _ => []
  | n + 1, at_ =>
    let len := leNat (Memory.reads s.mem at_ 4)
    if len < 64 then [] else Memory.reads s.mem at_ len :: s.blockRecords n (at_ + ceilDiv len 64 * 64)

/-- A record has the shape of a saved block: its length, its group count, its cores and scratchpad bytes. -/
def Saved.shapes (v : Saved) (b : List Byte) : Bool :=
  fieldOf b 0 4 == recordSize v.block v.groups v.conts && fieldOf b 8 4 == v.groups.length &&
    fieldOf b 12 4 == v.block.cores.length && fieldOf b 16 4 == v.block.spadSize

/-- What a load moves the numbers of an image by, so that no two of the machine are one. -/
structure Shift where
  by_  : Nat
  slot : Nat

/-- A fragment of a draw, with the draw's number moved. -/
def Shift.frag (k : Shift) (f : Frag) : Frag := { f with draw := f.draw + k.by_ }

/-- A group, with its numbers moved. -/
def Shift.group (k : Shift) (g : Group) : Group :=
  { g with
    uid := g.uid + k.by_, block := g.block + k.by_, lanes := g.lanes.map fun x => { x with frag := x.frag.map k.frag }
    clause := g.clause.map fun c => { c with wait := c.wait.map fun w => match w with
      | .line ls => .line (ls.map fun e => (e.1 + k.by_, e.2))
      | w => w } }

/-- The kind of a block, with its draw's number moved. -/
def Shift.kind (k : Shift) : BlockKind → BlockKind
  | .vertex d => .vertex (d + k.by_)
  | .bin d => .bin (d + k.by_)
  | .pixel d => .pixel (d + k.by_)
  | .raster d => .raster (d + k.by_)
  | .compute => .compute
  | .replay n => .replay n

/-- What a RETRY makes lanes do, with its numbers moved. -/
def Shift.again (k : Shift) : Again → Again
  | .access r => .access { r with group := r.group + k.by_, src := k.group r.src }
  | w => w

/-- A saved block, with its numbers moved. -/
def Shift.saved (k : Shift) (v : Saved) : Saved :=
  { v with
    block := { v.block with
      uid := v.block.uid + k.by_, grid := v.block.grid + k.by_, slot := k.slot, kind := k.kind v.block.kind }
    groups := v.groups.map k.group
    engines := v.engines.map fun e => { e with group := e.group + k.by_, src := k.group e.src }
    xalls := v.xalls.map fun x => { x with group := x.group + k.by_, block := x.block + k.by_, slot := k.slot }
    conts := v.conts.map fun c => { c with block := c.block + k.by_ }
    caravans := v.caravans.map fun c => { c with num := c.num + k.by_, group := c.group + k.by_, block := c.block + k.by_ }
    lateOps := v.lateOps.map fun o => { o with group := o.group + k.by_, what := k.again o.what }
    bytes := 0, loaded := true }

/-- A grid, with its numbers moved. -/
def Shift.grid (k : Shift) (g : Grid) : Grid :=
  { g with
    uid := g.uid + k.by_, slot := k.slot, name := inSlot k.slot g.name, kind := k.kind g.kind, homes := []
    frags := g.frags.map fun b => b.map fun l => l.map k.frag }

/-- A draw, with its numbers moved. -/
def Shift.draw (k : Shift) (d : Draw) : Draw :=
  { d with
    uid := d.uid + k.by_, slot := k.slot, name := inSlot k.slot d.name, grid := d.grid.map (· + k.by_), requests := d.requests.map fun r => r.map (· + k.by_)
    render := d.render.map fun r => { r with block := r.block.map (· + k.by_), grids := r.grids.map (· + k.by_) }
    culled := d.culled.map fun c => { c with frag := k.frag c.frag } }

/-- What waits in a queue, with its numbers moved. -/
def Shift.waiting (k : Shift) : Waiting → Waiting
  | .grid g => .grid (g + k.by_)
  | .again g bid r => .again (g + k.by_) bid r
  | .saved v => .saved (k.saved v)

/-- A block of which only the record is known (DESIGN CHOICE, log entry 66). -/
def State.foreignBlock (s : State) (slot u : Nat) (b : List Byte) : Saved × Grid :=
  let cores := max 1 (min 4 (fieldOf b 12 4))
  let spad := fieldOf b 16 4
  let rs := splitRecords (b.length / 64) (b.drop (64 + spadImage spad))
  let heads := rs.length - fieldOf b 8 4
  let shapes := (rs.drop heads).map groupShape
  let gs0 := shapes.map fun e => e.1
  let pc := ((gs0.flatMap fun g => g.lanes.map fun x => x.pc).map (·.toNat)).min?.getD 0
  let t := shapeTask gs0 ((shapes.map fun e => e.2).headD (128, 0, 0, 0, 8)) (spad / cores) (BitVec.ofNat 64 pc)
  let gs := gs0.zipIdx.map fun (g, i) => { g with
    uid := u + 2 + i, block := u, core := i / ceilDiv gs0.length cores, gid := fieldOf (rs.getD (heads + i) []) 4 4 }
  let blk : Block := {
    uid := u, slot := slot, grid := u + 1, bid := fieldOf b 4 4, kind := .compute, task := t, cluster := 0
    cores := (List.range cores).map fun k => (k, 0), spad := [], lines := [], spadPoison := [], launchSeq := 0
    relaunches := 0, renders := 0, verts := [], prims := [], ngroups := gs.length, energy := 0, current := 0
    order := 0 }
  let v : Saved := {
    block := blk, groups := gs, engines := [], xalls := [], conts := (rs.take heads).map (contShape u gs), caravans := []
    lateOps := [], bytes := 0, order := 0, loaded := true }
  (s.blockIn v b, { mkGrid (u + 1) slot [] t .compute (inSlot slot 0) [] with placed := 1 })

/-- The names of a saved block's items, in the slot in which they run (R314). -/
def Saved.inSlot (v : Saved) (slot : Nat) : Saved :=
  let frag (f : Frag) : Frag := { f with name := Machine.inSlot slot f.name }
  let lane (x : Lane) : Lane := { x with
    lin := if x.st = .exited ∧ x.lin = 0 then 0 else Machine.inSlot slot x.lin, frag := x.frag.map frag
    walk := x.walk.map fun w => { w with name := Machine.inSlot slot w.name } }
  { v with
    groups := v.groups.map fun g => { g with lanes := g.lanes.map lane }
    conts := v.conts.map fun c => { c with lanes := c.lanes.map lane } }

/-- The blocks of an image join the tail of their queues in image order (R353, R381): each as its record gives it,
over the block that was saved there. -/
def State.loadBlocks (s : State) (slot part : Nat) : List (List Byte) → List Saved → State
  | [], _ => s
  | b :: bs, vs =>
    let known : Option Saved := (vs.head?).filter fun v => v.shapes b
    let (v, s) : Saved × State := match known with
      | some v => ((s.recordOver v b).inSlot slot, s.xallsIn v b)
      | none =>
        let (v, g) := s.foreignBlock slot s.fresh b
        (v, { s with fresh := s.fresh + v.groups.length + 2, grids := s.grids ++ [g] })
    let cs := v.caravans.mapIdx fun i (c : Caravan) => { c with num := s.fresh + i }
    let v : Saved := { v with loaded := true, caravans := cs }
    let e : QEntry := { part := part, prio := v.block.task.prio, slot := slot, what := .saved v }
    { s with fresh := s.fresh + cs.length, queue := s.queue ++ [e] }.loadBlocks slot part bs (vs.drop 1)

/-- The tasks of an image join their queues in order (R353): a grid as it was saved where its record is unchanged,
else the grid of the record. -/
def State.loadTasks (s : State) (slot part : Nat) : List (List Byte) → List Grid → State
  | [], _ => s
  | b :: bs, gs =>
    let s := match (gs.head?).filter fun g => queuedBytes g == b with
      | some g =>
        let e : QEntry := { part := part, prio := g.task.prio, slot := slot, what := .grid g.uid }
        { s with grids := s.grids ++ [g], queue := s.queue ++ [e] }
      | none => (s.takeTask { cl := 0, slot := slot } b (inSlot slot (BitVec.ofNat 128 (fieldOf b 40 16))) []).2
    s.loadTasks slot part bs (gs.drop 1)

/-- The machine holds something of an image already: it has been loaded before (DESIGN CHOICE, log entry 66). -/
def State.holdsSome (s : State) (im : SavedImage) : Bool :=
  (im.grids.any fun g => (s.grid? g.uid).isSome) || (im.draws.any fun d => (s.draw? d.uid).isSome) ||
    im.blocks.any fun v => (s.block? v.block.uid).isSome || (savedIn s.queue).any fun x => x.block.uid == v.block.uid

/-- What a saved image holds beside its bytes comes back, its numbers moved to new ones (R353): grids with blocks
already placed and their queue entries, draws, work-graph records; then its tasks and its blocks
(DESIGN CHOICE, log entry 66). -/
def State.loadImage (s : State) (slot : Nat) (im : SavedImage) (tasks blocks : List (List Byte)) : State :=
  let part := s.partFor slot
  let k : Shift := { by_ := if s.holdsSome im then s.fresh else 0, slot := slot }
  let mine (x : Xall) : Bool := decide (k.by_ = 0) && x.root.isSome && im.blocks.any fun v => v.groups.any fun g => g.uid == x.group
  let s := { s with fresh := s.fresh + k.by_ }
  let ts := unadmitted im.grids im.queue
  let rest := im.queue.filter fun e => match e.what with
    | .saved _ => false
    | .grid g => !ts.any fun x => x.uid == g
    | _ => true
  let es : List QEntry := rest.map fun e => { e with part := part, slot := slot, what := k.waiting e.what }
  let s := { s with
    grids := s.grids ++ (im.grids.filter fun g => !ts.contains g).map k.grid, draws := s.draws ++ im.draws.map k.draw
    queue := s.queue ++ es, undefCtrs := tset 0 s.undefCtrs slot (max (tget 0 s.undefCtrs slot) im.drawn)
    xalls := s.xalls.map fun x => if mine x then { x with slot := slot, root := none } else x }
  let s := im.nodes.foldl (fun s e => (s.storeRecord { e.2 with slot := slot }).getD s) s
  (s.loadTasks slot part tasks (ts.map k.grid)).loadBlocks slot part blocks (im.blocks.map k.saved)

/-- CONTEXT_LOAD_COMPLETE (R353): the image has been read, its blocks and tasks are queued, routes are
enabled, the slot is LIVE and the token resolves. -/
def execContextLoadComplete (c : Slot) (s : State) : Host.Outcome State Fault Refusal :=
  let n := c.val
  let x := s.ctx n
  if x.state ≠ .loading then .next s
  else
    let at_ := x.saveAt.toNat
    let b := Memory.reads s.mem at_ 4096
    let nb := fieldOf b 104 4
    let nt := fieldOf b 108 4
    let fresh : Bool := decide (nb = 0) && decide (nt = 0)
    let s := s.setCtx { parseHeader fresh b x with state := .live, saveAt := 0, saveTok := none, asked := none }
    let none_ : SavedImage := { body := [], blocks := [], grids := [], queue := [], draws := [], nodes := [] }
    let im := if fresh then none_ else (s.imageAt at_).getD none_
    let s := s.loadImage n im ((List.range nt).map fun i => Memory.reads s.mem (at_ + 4096 + 64 * i) 64)
      (s.blockRecords nb (at_ + 4096 + 64 * nt))
    let s := match x.saveTok with
      | some (sl, t) => s.resolveToken sl t false
      | none => s
    match x.asked with
    | some q => .next (s.respond q 0x01 .ok (natLe 8 (x.token.getD 0).toNat))
    | none => .next s

end Sys2Proof.Machine
end

