-- ==== Sys2Proof/Machine/Pipeline.lean ====
section
/-! DEFINITION. The stages of a draw behind its vertex kernel: binning (11 R295-R297, R426; 14 R330, R331),
renders (R297-R302, R425), retirement of fragments (R300, R301, R332-R334) and faults of fixed units (R427);
the firing of work-graph nodes (R304); the end of a replay (12 R323, R327; 15 R336; 10 R289). -/

namespace Sys2Proof.Machine

/-! ### Accesses of fixed units (R427) -/

/-- The work of a fixed unit: how many accesses of its step it has made, and the fault that stops it with the number
of the access. -/
abbrev Fixed (α : Type) := StateT Nat (Except (FaultAt × Nat)) α

/-- Who a draw's fixed units access memory as. -/
def State.fixWho (s : State) (d : Draw) : Who :=
  { cl := (s.clustersOf (s.ctx d.slot).ccb.part).headD 0, slot := d.slot }

/-- The jobs of a draw's fixed units: its bin stage, its renders, the retirement of a fragment (R427)
(DEDUCED, log entry 59). -/
inductive FixedJob where
  | bin | render
  | retire (x y prim : Nat)

/-- The number of a job. -/
def FixedJob.num : FixedJob → Nat
  | .bin => 0
  | .render => 1
  | .retire x y p => 2 + (x + 2 ^ 15 * (y + 2 ^ 15 * p))

/-- The stage that a job, by its number, is of: the retirement of every fragment is one stage. -/
def stageOf (job : Nat) : Nat := min job 2

/-- A draw with the skips of one job only. -/
def Draw.forJob (d : Draw) (j : FixedJob) : Draw := { d with skips := d.skips.filter fun e => e.job = j.num }

/-- The access of a number, of `n` bytes from an address on, is answered SKIP. -/
def Draw.skipped (d : Draw) (nth va n : Nat) (write : Bool) : Bool :=
  d.skips.any fun e => e.nth == nth && e.write == write && decide (va ≤ e.addr) && decide (e.addr < va + n)

/-- A read by a fixed unit; one answered SKIP returns 0. -/
def State.fixRead (s : State) (d : Draw) (va n : Nat) : Fixed (List Byte) := fun k =>
  if d.skipped k va n false then .ok (List.replicate n 0, k + 1)
  else match s.loadRecord (s.fixWho d) va n with
    | .ok b => .ok (b, k + 1)
    | .error (c, lv, a) => .error ({ code := c, addr := a, level := lv, source := 5 }, k)

/-- A little-endian value read by a fixed unit. -/
def State.fixNat (s : State) (d : Draw) (va n : Nat) : Fixed Nat := leNat <$> s.fixRead d va n

/-- A write by a fixed unit; one answered SKIP is dropped. -/
def State.fixWrite (s : State) (d : Draw) (va : Nat) (bs : List Byte) : Fixed State := fun k =>
  if d.skipped k va bs.length true then .ok (s, k + 1)
  else match s.storeRun (s.fixWho d) (bs.length + 1) va (mbClean bs) with
    | .ok ps => .ok (s.perform (s.fixWho d) ps, k + 1)
    | .error (c, lv, a) => .error ({ code := c, addr := a, level := lv, write := true, source := 5 }, k)

/-- The record of a fixed unit's fault at its `nth` access of a step: source 5, no lanes (DEDUCED, log entry 59). -/
def State.fixedFault (s : State) (d : Draw) (j : FixedJob) (f : FaultAt) (nth : Nat) : State :=
  let r : Record := {
    num := 0, code := f.code, source := 5, slot := d.slot, core := 0, cluster := (s.fixWho d).cl, bid := 0
    gid := 0, write := f.write, atomic := false, helper := false, waiters := 1, mask := 0
    addr := BitVec.ofNat 64 f.addr, header := 0, word := 0, aux := 0, arg := 0, level := f.level, answer := 0
    who := [], block := 0, unit := f.code.unit
    draws := [(d.uid, { job := j.num, nth := nth, addr := f.addr, write := f.write })], ring := none }
  match s.fileRecord r with
  | some (_, s) => s
  | none => s

/-- The stage of a job of a draw waits for an answer (R427). -/
def State.drawWaits (s : State) (d : Draw) (j : FixedJob) : Bool :=
  s.records.any fun r => r.draws.any fun e => e.1 == d.uid && stageOf e.2.job == stageOf j.num

/-- A step of a job of a draw, which waits while an access of it does: whole, or stopped by a fault before it did
anything (DEDUCED, log entry 59). -/
def State.fixedStep (s : State) (d : Draw) (j : FixedJob) (f : Draw → Fixed State) : State :=
  if s.drawWaits d j then s
  else match (f (d.forJob j)).run 0 with
    | .error e => s.fixedFault d j e.1 e.2
    | .ok t => if t.1 = s then s else t.1.modDraw d.uid fun x => { x with skips := x.skips.filter fun e => e.job ≠ j.num }

/-- The context of a draw is being saved: no stage starts (R352). -/
def State.drawHeld (s : State) (d : Draw) : Bool := decide ((s.ctx d.slot).state = .saving)

/-! ### The bin stage -/

/-- Every block of a grid has finished. -/
def State.gridDone (s : State) (u : Nat) : Bool :=
  match s.grid? u with
  | none => true
  | some g => decide (g.task.nblocks ≤ g.done)

/-- A finished grid leaves the machine. -/
def State.dropGrid (s : State) (u : Nat) : State := s.loseGrids fun g => g == u

/-- A draw ends. -/
def State.dropDraw (s : State) (u : Nat) : State := { s with draws := s.draws.filter fun d => d.uid ≠ u }

/-- Every list head of parameter memory becomes all ones, a word at a time (R295, R297). -/
def State.clearHeads (s : State) (d : Draw) : Fixed State :=
  (List.range (sbTiles d.sb)).foldlM (fun s t => s.fixWrite d (sbHead d.sb t) (List.replicate 4 0xFF)) s

/-- The reset values of parameter memory (R295). -/
def State.initParams (s : State) (d : Draw) : Fixed State := do
  let s ← s.fixWrite d (sbNat d.sb 24 8) (natLe 4 0 ++ natLe 4 (sbNat d.sb 32 4) ++ List.replicate 56 0)
  s.clearHeads d

/-- A primitive is set up: its culling and, when it is culled under R293, its record (R293, R317, R319). -/
def State.setupPrim (s : State) (d : Draw) (n : Nat) : State :=
  let p := d.prim n
  if p.verts = [] then s
  else
    let p := { p with culled := p.isCulled (sbFlag d.sb 8) }
    let name := nameMake d.slot d.frame 1 d.number 0 n 0
    let hits := s.matchesOf d.slot name d.watch
    let s := if p.culled then s.watchRecord (s.fixWho d) hits { lin := name, stage := 3 } else s
    s.modDraw d.uid fun x => { x with
      prims := tput x.prims n p, primHits := if hits = [] then x.primHits else tput x.primHits n hits }

/-- Every primitive of a draw is set up, in ascending number. -/
def State.setupPrims (s : State) (d : Draw) : State :=
  (List.range d.nprims).foldl (fun s n => s.setupPrim d n) (s.modDraw d.uid fun x => { x with prims := [] })

/-- The next bin block (R296): up to 4,096 primitives. -/
def State.launchBin (s : State) (d : Draw) : State :=
  let n := min 4096 (d.nprims - d.nextBin)
  let (u, s) := s.newId
  let pb := d.primAt + BitVec.ofNat 64 (64 * d.nextBin)
  let sc := [(6, lo32 d.recAt), (7, hi32 d.recAt), (8, lo32 pb), (9, hi32 pb)].foldl (fun t e => tset 0 t e.1 e.2)
    (stageScalars d.nextBin n d.sbAt d.number)
  (s.modDraw d.uid fun x => { x with grid := some u, nextBin := d.nextBin + n }).addGrid
    { pipeGrid u d.slot (binTask d.slot d.sb n d.prio) (.bin d.uid) d.name d.watch with scalars := sc }

/-- The vendor default kernel lists a primitive on a tile; none when its entry does not fit (R426)
(DEDUCED, log entry 78). -/
def State.binTile (s : State) (d : Draw) (p t : Nat) : Fixed (Option State) := do
  let pm := sbNat d.sb 24 8
  let next ← s.fixNat d pm 4
  let cap ← s.fixNat d (pm + 4) 4
  if cap ≤ next then return none
  let head ← s.fixNat d (sbHead d.sb t) 4
  let s ← s.fixWrite d (sbEntry d.sb next) (natLe 4 p ++ natLe 4 head)
  let s ← s.fixWrite d (sbHead d.sb t) (natLe 4 next)
  let s ← s.fixWrite d pm (natLe 4 (next + 1))
  return some s

/-- The tiles of a primitive in order, and those left when parameter memory is full (DEDUCED, log entry 78). -/
def State.binTiles (d : Draw) (p : Nat) : List Nat → State → Fixed (State × List Nat)
  | [], s => return (s, [])
  | t :: ts, s => do
    match ← s.binTile d p t with
    | none => return (s, t :: ts)
    | some s => State.binTiles d p ts s

/-- The primitives in order, and what is left. -/
def State.binPrims (d : Draw) : List (Nat × List Nat) → State → Fixed (State × List (Nat × List Nat))
  | [], s => return (s, [])
  | (p, ts) :: rest, s => do
    match ← State.binTiles d p ts s with
    | (s, []) => State.binPrims d rest s
    | (s, left) => return (s, (p, left) :: rest)

/-- What the vendor default kernel bins: the tiles of every primitive that is not culled (R426). -/
def Draw.toBin (d : Draw) : List (Nat × List Nat) :=
  ((List.range d.nprims).filter fun n => !(d.prim n).culled).map fun n => (n, (d.prim n).tiles d.sb)

/-- BIN_STAGE's work for a draw: parameter memory and the primitives are set up once the vertex blocks have
retired; then bin blocks run one after another, or the vendor default bins until a partial render is due. -/
def State.binStep (s : State) (d : Draw) : Fixed State :=
  let ready : Bool := match d.grid with
    | some g => s.gridDone g
    | none => true
  let default_ : Bool := decide (sbNat d.sb 16 8 = 0)
  let stage (s : State) (k : DrawStage) : State := s.modDraw d.uid fun x => { x with stage := k, grid := none }
  if !ready || s.drawHeld d then return s
  else
    let s := match d.grid with
      | some g => s.dropGrid g
      | none => s
    match d.stage with
      | .rendering => return s
      | .vertex => do
        let s ← s.initParams d
        let s := s.setupPrims d
        let todo := if default_ then ((s.draw? d.uid).map Draw.toBin).getD [] else []
        return (stage s .bin).modDraw d.uid fun x => { x with defer := todo }
      | .bin =>
        if d.requests ≠ [] ∨ d.render.isSome then return stage s .bin
        else if default_ && d.cut == some 1 then
          return (stage s .rendering).modDraw d.uid fun x => { x with defer := [] }
        else if default_ then do
          match ← State.binPrims d d.defer s with
          | (s, []) => return (stage s .rendering).modDraw d.uid fun x => { x with defer := [] }
          | (s, left) => return s.modDraw d.uid fun x => { x with defer := left, requests := [none] }
        else if d.nextBin < d.nprims then return s.launchBin d
        else return stage s .rendering

/-- BIN_STAGE (R295-R297, R426, R427). -/
def execBinStage (w : Nat) (s : State) : Host.Outcome State Fault Refusal :=
  match s.draw? w with
  | none => .next s
  | some d => .next (s.fixedStep d .bin s.binStep)

/-! ### Rasterisation -/

/-- The primitives of a tile's list: at most CAP entries, ended by a value not below CAP (R297). -/
def State.walkList (s : State) (d : Draw) (cap : Nat) : Nat → Nat → Fixed (List Nat)
  | 0, _ => return []
  | n + 1, e =>
    if cap ≤ e then return []
    else do
      let b ← s.fixRead d (sbEntry d.sb e) 8
      let r ← State.walkList s d cap n (fieldOf b 4 4)
      return fieldOf b 0 4 :: r

/-- The primitives a render processes on a tile: in ascending number, each once, those of the draw that are
not culled. -/
def State.tilePrims (s : State) (d : Draw) (cap t : Nat) : Fixed (List Nat) := do
  let head ← s.fixNat d (sbHead d.sb t) 4
  let ps ← s.walkList d cap cap head
  return (ps.foldr insertNat []).filter fun n => decide (n < d.nprims) && !(d.prim n).culled

/-- A pixel lies inside the target. -/
def Draw.inside (d : Draw) (x y : Nat) : Bool := decide (x < sbW d.sb) && decide (y < sbH d.sb)

/-- The origin of a tile. -/
def Draw.tileOrigin (d : Draw) (t : Nat) : Nat × Nat := (t % sbTx d.sb * 32, t / sbTx d.sb * 32)

/-- A member of a quad of a primitive, as a helper until it is found to be a fragment (R293, R333). -/
def Draw.member (d : Draw) (p : Prim) (x y : Nat) (resolve : Bool) : Frag :=
  { draw := d.uid, prim := p, x := x, y := y, depth := (p.regs x y).getD 2 0, colors := [], depw := none
    helper0 := true, discarded := false, quadCov := 0, quadHelp := 15
    name := fragName d.slot d.frame d.number p.number x y, watch := [], resolve := resolve }

/-- The matches a fragment carries; its parent is the primitive (R317). -/
def State.fragHits (s : State) (d : Draw) (f : Frag) : List WatchHit :=
  s.matchesOf d.slot f.name (tget [] d.primHits f.prim.number)

/-- The stored depth of a pixel, 0 without a depth image. -/
def State.storedDepth (s : State) (d : Draw) (x y : Nat) : Fixed Word :=
  if sbNat d.sb 48 8 = 0 then return 0 else return BitVec.ofNat 32 (← s.fixNat d (sbDepthAt d.sb x y) 4)

/-- The pixels of some targets. -/
def State.readTargets (s : State) (d : Draw) (x y : Nat) (ns : List Nat) : Fixed (Table (List Byte)) :=
  ns.mapM fun n => do return (n, ← s.fixRead d (sbPixAt d.sb n x y) (pixBytes (sbTarget d.sb n).2.1))

/-- A fragment as it is culled early, with what its record is to show of memory (R302, R332). -/
def State.culledNow (s : State) (d : Draw) (f : Frag) : Fixed Culled := do
  let z ← s.storedDepth d f.x f.y
  let ts ← s.readTargets d f.x f.y (List.range (sbNtgt d.sb))
  return { frag := f, stored := z, targets := ts }

/-- The early test culls a fragment (R302). -/
def State.earlyFails (s : State) (d : Draw) (f : Frag) : Fixed Bool :=
  if !sbEarly d.sb then return false
  else return !depthPass (sbFunc d.sb) f.depth (BitVec.ofNat 32 (← s.fixNat d (sbHizAt d.sb f.x f.y) 4))

/-- The bits of some quad members. -/
def memberBits (ms : List Nat) : Nat := (ms.map fun m => 2 ^ m).sum

/-- A quad of a primitive: its four members, empty when no fragment is left, and the fragments culled
early (R302, R425). -/
def State.rasterQuad (s : State) (d : Draw) (p : Prim) (qx qy : Nat) : Fixed (List Frag × List Culled) := do
  let mem (m : Nat) : Frag := d.member p (qx + m % 2) (qy + m / 2) false
  let cov := (List.range 4).filter fun m => d.inside (mem m).x (mem m).y && p.covers (mem m).x (mem m).y
  let early ← cov.filterM fun m => s.earlyFails d (mem m)
  let real := cov.filter fun m => !early.contains m
  let bits := memberBits real
  let quad (f : Frag) : Frag := { f with quadCov := bits, quadHelp := 15 - bits }
  let members := (List.range 4).map fun m =>
    if real.contains m then { quad (mem m) with helper0 := false, watch := s.fragHits d (mem m) } else quad (mem m)
  let gone ← ((early.map fun m => { quad (mem m) with watch := s.fragHits d (mem m) }).filter fun f =>
    f.watch ≠ []).mapM fun f => s.culledNow d f
  return (if real = [] then [] else members, gone)

/-- What a render makes of its lists. -/
structure Rastered where
  state  : State
  /-- Pixel-kernel blocks, lane by lane. -/
  blocks : List (List (Option Frag)) := []
  culled : List Culled := []
  /-- Primitives for a software raster kernel of the draw's own. -/
  soft   : List Nat := []

/-- Cut a list into runs. -/
def chunks {α : Type} (n : Nat) : Nat → List α → List (List α)
  | 0, _ => []
  | fuel + 1, l => if l = [] then [] else l.take n :: chunks n fuel (l.drop n)

/-- A primitive on a tile by the fixed rasteriser: its quads and its early-culled fragments. -/
def State.rasterPrim (s : State) (d : Draw) (t : Nat) (p : Prim) : Fixed (List Frag × List Culled) :=
  let (ox, oy) := d.tileOrigin t
  (List.range 256).foldlM (fun (acc : List Frag × List Culled) k => do
    let (q, c) ← s.rasterQuad d p (ox + 2 * (k % 16)) (oy + 2 * (k / 16))
    return (acc.1 ++ q, acc.2 ++ c)) ([], [])

/-- The vendor default software raster kernel on a tile: ATOM.max on the visibility words (R299). -/
def State.visPrim (s : State) (d : Draw) (t : Nat) (p : Prim) : Fixed State :=
  let (ox, oy) := d.tileOrigin t
  (List.range 1024).foldlM (fun (s : State) k => do
    let x := ox + k % 32
    let y := oy + k / 32
    if !(d.inside x y && p.covers x y) then return s
    let old ← s.fixNat d (sbVisAt d.sb x y) 8
    let new := visWord d.number p.number ((p.regs x y).getD 2 0)
    if old < new then s.fixWrite d (sbVisAt d.sb x y) (natLe 8 new) else return s) s

/-- A primitive of a tile's list goes its way (R298); the quads gathered for the tile. -/
def Rastered.prim (d : Draw) (t : Nat) (acc : Rastered × List Frag) (n : Nat) : Fixed (Rastered × List Frag) :=
  let (r, quads) := acc
  let p := d.prim n
  if p.software d.sb then
    if sbNat d.sb 208 8 = 0 then return ({ r with state := ← r.state.visPrim d t p }, quads)
    else return ({ r with soft := insertNat n r.soft }, quads)
  else do
    let q ← r.state.rasterPrim d t p
    return ({ r with culled := r.culled ++ q.2 }, quads ++ q.1)

/-- A tile of a render: its groups hold its quads only (R425). -/
def Rastered.tile (d : Draw) (cap : Nat) (r : Rastered) (t : Nat) : Fixed Rastered := do
  let ps ← r.state.tilePrims d cap t
  let (r, quads) ← ps.foldlM (Rastered.prim d t) (r, [])
  return { r with blocks := r.blocks ++ (chunks (pixelWidth d.slot d.sb) quads.length quads).map fun b => b.map some }

/-- The fragments of some blocks that are to retire. -/
def toRetire (bs : List (List (Option Frag))) : List (Nat × Nat × Nat) :=
  bs.flatten.filterMap fun o => o.bind fun f => if f.helper0 then none else some (f.x, f.y, f.prim.number)

/-- Launch pixel-kernel blocks of a draw. -/
def State.launchPixels (s : State) (d : Draw) (bs : List (List (Option Frag))) : List Nat × State :=
  if bs = [] then ([], s)
  else
    let (u, s) := s.newId
    ([u], s.addGrid { pipeGrid u d.slot (pixelTask d.slot d.sb bs.length d.prio) (.pixel d.uid) d.name d.watch with
      scalars := stageScalars 0 0 d.sbAt d.number, frags := bs })

/-- Launch the draw's own software raster kernel for a primitive (R298; log entry 37). -/
def State.launchSoft (s : State) (d : Draw) (n : Nat) : List Nat × State :=
  let (u, s) := s.newId
  ([u], s.addGrid { pipeGrid u d.slot (rasterTask d.slot d.sb d.prio) (.raster d.uid) d.name d.watch with scalars := stageScalars n 1 d.sbAt d.number })

/-! ### Records of fragments -/

/-- The retention slot of a fragment, from byte 8 (R322) (DEDUCED, log entry 81). -/
def fragSlot (d : Draw) (f : Frag) (lods : List LodLoad) (stored : Word) (before : Nat → List Byte) (n : Nat) :
    List Byte :=
  padTo 16 (before n) ++ natLe 4 stored.toNat ++ padTo 4 [] ++ natLe 8 d.sbAt.toNat ++ padTo 24 [] ++
    padTo 256 d.sb ++ ((List.range 3).flatMap fun k => padTo 128 (bytesOf (f.prim.verts.getD k []))) ++
    lodBytes lods ++ padTo 192 []

/-- The watch record of a fragment (R319, R320, R332). -/
def State.fragRecord (s : State) (d : Draw) (f : Frag) (lods : List LodLoad) (result : Nat) (pass : Bool)
    (stored : Word) (before after : Nat → List Byte) : State :=
  s.watchRecord (s.fixWho d) f.watch
    { lin := f.name, stage := if pass then 1 else 2, result := result, quadCov := f.quadCov
      quadHelp := f.quadHelp, lods := lods, depth := f.depth, src := srcBytes f
      before := fun n => padTo 8 (before n), after := fun n => padTo 8 (after n)
      retain := some (fragSlot d f lods stored before) }

/-- The record of a fragment culled early (R302, R332). -/
def State.culledRecord (s : State) (d : Draw) (c : Culled) : State :=
  s.fragRecord d c.frag [] 2 false c.stored (tget [] c.targets) (tget [] c.targets)

/-- An earlier fragment of the pixel has not retired (R300, R334). -/
def Draw.earlier (d : Draw) (f : Frag) : Bool :=
  d.pending.any fun p => p.1 == f.x && p.2.1 == f.y && decide (p.2.2 < f.prim.number)

/-- Records of early-culled fragments go out in ascending primitive number, once every earlier fragment of
their pixel has retired (R334). -/
def State.flushCulled (s : State) (u : Nat) : State :=
  match s.draw? u with
  | none => s
  | some d =>
    (d.culled.filter fun c => !d.earlier c.frag).foldl (fun s c => s.culledRecord d c)
      (s.modDraw u fun x => { x with culled := d.culled.filter fun c => d.earlier c.frag })

/-! ### Renders -/

/-- A render begins (R297, R298): every list is walked, its primitives are rasterised, and the pixel kernel's
blocks are launched. -/
def State.startRender (s : State) (d : Draw) (final : Bool) : Fixed State := do
  let cap ← s.fixNat d (sbNat d.sb 24 8 + 4) 4
  let r ← (List.range (sbTiles d.sb)).foldlM (Rastered.tile d cap) { state := s }
  let (gs, s) := r.state.launchPixels d r.blocks
  let (hs, s) := r.soft.foldl (fun (acc : List Nat × State) n =>
    let (h, s) := acc.2.launchSoft d n
    (acc.1 ++ h, s)) ([], s)
  let (block, rest) := if final then (none, d.requests) else (d.requests.headD none, d.requests.drop 1)
  let s := s.modDraw d.uid fun x => { x with
    render := some { final := final, block := block, resolving := false, grids := gs ++ hs }
    requests := rest, pending := toRetire r.blocks, culled := r.culled }
  return s.flushCulled d.uid

/-- The draw that the DRAW field of a visibility word names: the draw that renders, another one in flight, or
the draw that renders where no draw in flight has that number (R299) (DESIGN CHOICE, log entry 77). -/
def State.visOwner (s : State) (d : Draw) (word : Nat) : Draw :=
  let named (x : Draw) : Bool := x.slot == d.slot && x.number % 4096 == bfield word 20 12
  if named d then d else (s.draws.find? named).getD d

/-- The quad of the fragment that a visibility word names, if its primitive can be shaded (R299); in a draw of more
than 2^20 primitives PRIM names the one numbered below 2^20 (DESIGN CHOICE, log entry 77). -/
def State.resolveFrag (s : State) (d : Draw) (x y word : Nat) : List (Option Frag) :=
  let o := s.visOwner d word
  let p := o.prim (bfield word 0 20)
  if p.culled then []
  else (List.range 4).map fun m =>
    let mx := x / 2 * 2 + m % 2
    let my := y / 2 * 2 + m / 2
    let bit := 2 ^ (x % 2 + 2 * (y % 2))
    let f := { o.member p mx my true with draw := d.uid, quadCov := bit, quadHelp := 15 - bit }
    some (if mx = x ∧ my = y then { f with helper0 := false, watch := s.fragHits o f } else f)

/-- The visibility words of a tile: the quads of their fragments; words that name no primitive to shade are
cleared (DESIGN CHOICE, log entry 77). -/
def State.resolveTile (d : Draw) (acc : State × List (List (Option Frag))) (t : Nat) :
    Fixed (State × List (List (Option Frag))) := do
  let (ox, oy) := d.tileOrigin t
  let (s, quads) ← (List.range 1024).foldlM (fun (acc : State × List (Option Frag)) k => do
    let (s, qs) := acc
    let x := ox + k % 32
    let y := oy + k / 32
    if !d.inside x y then return (s, qs)
    let w ← s.fixNat d (sbVisAt d.sb x y) 8
    if w = 0 then return (s, qs)
    let q := s.resolveFrag d x y w
    if q = [] then
      let s ← s.fixWrite d (sbVisAt d.sb x y) (natLe 8 0)
      return (s, qs)
    return (s, qs ++ q)) (acc.1, [])
  return (s, acc.2 ++ chunks (pixelWidth d.slot d.sb) quads.length quads)

/-- The tiles are resolved once the fixed rasteriser's fragments have retired (R299). -/
def State.startResolve (s : State) (d : Draw) (r : Render) : Fixed State := do
  if sbNat d.sb 192 8 = 0 then return s
  let (s, bs) ← (List.range (sbTiles d.sb)).foldlM (State.resolveTile d) (s, [])
  let (gs, s) := s.launchPixels d bs
  return s.modDraw d.uid fun x => { x with
    render := some { r with resolving := true, grids := gs }, pending := toRetire bs }

/-- A block of a number, resident or saved, changes. -/
def State.modBlockAnywhere (s : State) (u : Nat) (f : Block → Block) : State :=
  let one (v : Saved) : Saved := if v.block.uid = u then { v with block := f v.block } else v
  { s.modBlock u f with
    queue := s.queue.map fun e => match e.what with
      | .saved v => { e with what := .saved (one v) }
      | _ => e
    images := s.images.map fun (a, m) => (a, { m with blocks := m.blocks.map one }) }

/-- A render arrives at the barrier of the block that asked for it (R297). -/
def State.arrive (s : State) (block : Option Nat) : State :=
  match block with
  | some b => s.modBlockAnywhere b fun x => { x with renders := x.renders - 1 }
  | none => s

/-- A render resets parameter memory and ends (R297, R331): a partial one counts itself, releases and arrives at
the barrier of the block that asked, the final one ends the draw. -/
def State.endRender (s : State) (d : Draw) (r : Render) : Fixed State := do
  let pm := sbNat d.sb 24 8
  let s ← s.fixWrite d pm (natLe 4 0)
  let s ← s.clearHeads d
  if r.final then return s.dropDraw d.uid
  let n ← s.fixNat d (pm + 8) 4
  let s ← s.fixWrite d (pm + 8) (natLe 4 (n + 1))
  let s := s.writeBack fun x => x.cluster == (s.fixWho d).cl
  return (s.arrive r.block).modDraw d.uid fun x => { x with render := none }

/-- A render whose lists have been rasterised waits for a resolve, which is a stage of its own (R299, R352). -/
def Draw.resolveDue (d : Draw) (r : Render) : Bool := !r.resolving && decide (sbNat d.sb 192 8 ≠ 0)

/-- A render goes on when its grids have finished: from rasterisation to the resolve, and to its end. -/
def State.goRender (s : State) (d : Draw) (r : Render) : Fixed State :=
  if !(r.grids.all fun u => s.gridDone u) || (s.drawHeld d && d.resolveDue r) then return s
  else
    let s := (r.grids.foldl State.dropGrid s).flushCulled d.uid
    if r.resolving then s.endRender d r
    else do
      let s ← s.startResolve d r
      match (s.draw? d.uid).bind fun x => x.render with
      | some r' => if r'.resolving && decide (r'.grids ≠ []) then return s else s.endRender d r'
      | none => return s

/-- An ORDERED draw renders only after every earlier draw of its frame has ended (R300). -/
def State.mayRender (s : State) (d : Draw) : Bool :=
  !sbFlag d.sb 0 || !(s.draws.any fun x => x.slot == d.slot && x.frame == d.frame && decide (x.number < d.number))

/-- A render of a draw whose renders are dropped arrives at once, and its final one ends the draw (R427). -/
def State.passRender (s : State) (d : Draw) (final : Bool) : State :=
  if final then s.dropDraw d.uid
  else (s.arrive (d.requests.headD none)).modDraw d.uid fun x => { x with requests := d.requests.drop 1 }

/-- A render of a draw: begun when it is due, gone on with when it is under way. -/
def State.renderStep (s : State) (final : Bool) (due : Draw → Bool) (d : Draw) : Fixed State :=
  match d.render with
  | some r => if r.final = final then s.goRender d r else return s
  | none =>
    if !due d || s.drawHeld d || !s.mayRender d then return s
    else if d.cut = some 1 then return s.passRender d final
    else s.startRender d final

/-- PARTIAL_RENDER (R297, R330): partial renders run in launch order. -/
def execPartialRender (w : Nat) (s : State) : Host.Outcome State Fault Refusal :=
  match s.draw? w with
  | none => .next s
  | some d => .next (s.fixedStep d .render (s.renderStep false fun d => decide (d.requests ≠ [])))

/-- FINAL_RENDER (R331): after the last bin block and every partial render. -/
def execFinalRender (w : Nat) (s : State) : Host.Outcome State Fault Refusal :=
  match s.draw? w with
  | none => .next s
  | some d => .next (s.fixedStep d .render
      (s.renderStep true fun d => decide (d.stage = .rendering) && decide (d.requests = [])))

/-! ### Retirement of fragments -/

/-- The largest stored depth of a pixel's 8 × 8 block, over the pixels inside the target (R302). -/
def State.blockDepth (s : State) (d : Draw) (x y : Nat) : Fixed Word := do
  let at_ (k : Nat) : Nat × Nat := (x / 8 * 8 + k % 8, y / 8 * 8 + k / 8)
  let zs ← ((List.range 64).filter fun k => d.inside (at_ k).1 (at_ k).2).mapM fun k =>
    s.storedDepth d (at_ k).1 (at_ k).2
  return zs.foldl f32max (zs.headD 0)

/-- A fragment's depth is stored, and its hierarchical-depth word kept (R301, R302). -/
def State.storeDepth (s : State) (d : Draw) (f : Frag) : Fixed State := do
  let s ← s.fixWrite d (sbDepthAt d.sb f.x f.y) (natLe 4 f.depth.toNat)
  if sbNat d.sb 56 8 = 0 then return s
  let z ← s.blockDepth d f.x f.y
  s.fixWrite d (sbHizAt d.sb f.x f.y) (natLe 4 z.toNat)

/-- A fragment retires (R301, R332): depth test, depth store, blend, record; a resolved one clears its
visibility word (R299). -/
def State.retireFrag (s : State) (d : Draw) (f : Frag) (lods : List LodLoad) : Fixed State := do
  let watched : Bool := decide (f.watch ≠ [])
  let z ← if sbFlag d.sb 3 || watched then s.storedDepth d f.x f.y else pure 0
  let (result, pass) := retireResult d.sb f z
  let out (n : Nat) : Bool := pass && f.colors.any fun e => e.1 == n
  let ts ← s.readTargets d f.x f.y ((List.range (sbNtgt d.sb)).filter fun n =>
    watched || (out n && (sbTarget d.sb n).2.2 != 0))
  let ovt := (s.ctx d.slot).ccb.ovt
  let after (n : Nat) : List Byte := retirePixel d.sb ovt f pass n (tget [] ts n)
  let s ← if pass && sbFlag d.sb 4 then s.storeDepth d f else pure s
  let s ← ((List.range (sbNtgt d.sb)).filter out).foldlM (fun s n => s.fixWrite d (sbPixAt d.sb n f.x f.y) (after n)) s
  let s := s.fragRecord d f lods result pass z (tget [] ts) after
  if f.resolve then s.fixWrite d (sbVisAt d.sb f.x f.y) (natLe 8 0) else return s

/-- The lane's fragment has retired. -/
def State.clearFrag (s : State) (u l : Nat) : State := s.modGroup u fun g => g.modLane l fun x => { x with frag := none }

/-- A pixel's channels in target format, one a word (R327). -/
def pixelWords (fmt : Nat) (b : List Byte) : List Word :=
  match fmt with
  | 0 => (List.range 4).map fun k => BitVec.ofNat 32 (fieldOf b k 1)
  | 1 => (List.range 4).map fun k => BitVec.ofNat 32 (fieldOf b (2 * k) 2)
  | _ => wordsOf 4 b

/-- The values of the unit entries of a fragment's replay (R325, R327): against the retained S and DBEFORE. -/
def replayUnits (r : Replay) (ovt : BitVec 16) (f : Frag) : List Word :=
  let sb := (r.retain.drop 64).take 256
  let n := bfield (fieldOf r.recBytes 19 1) 0 3
  let z : Word := BitVec.ofNat 32 (fieldOf r.retain 24 4)
  let (result, pass) := retireResult sb f z
  let fmt := (sbTarget sb n).2.1
  let before := (r.retain.drop 8).take (pixBytes fmt)
  let src := ((f.colors.find? fun e => e.1 == n).map (·.2)).getD [0, 0, 0, 0]
  [z, f.depth, BitVec.ofNat 32 result] ++ src ++
    if n < sbNtgt sb then pixelWords fmt before ++ pixelWords fmt (retirePixel sb ovt f pass n before)
    else List.replicate 8 0

/-- The item of a fragment's replay retires: its unit entries join the trace (R336). -/
def State.retireReplay (s : State) (n : Nat) (f : Frag) : State :=
  let units (r : Replay) : List (List Word) := (replayUnits r (s.ctx r.slot).ccb.ovt f).zipIdx.map fun e =>
    traceEntry r.lastAt.1.toNat 6 e.2 e.1 r.lastAt.2.toNat
  s.modReplay n fun r => { r with trace := r.trace ++ units r }

/-- A fragment is no longer to retire. -/
def State.passFrag (s : State) (d : Draw) (u l : Nat) (f : Frag) : State :=
  ((s.clearFrag u l).modDraw d.uid fun x => { x with
    pending := x.pending.erase (f.x, f.y, f.prim.number) }).flushCulled d.uid

/-- FRAGMENT_RETIRE (R300, R301, R325, R334): the fragment of an exited lane retires, after the earlier ones of its
pixel and after the records that no longer wait for one of them. -/
def execFragmentRetire (u l : Nat) (s : State) : Host.Outcome State Fault Refusal :=
  match s.group? u with
  | none => .next s
  | some g =>
    let x := g.lane l
    match x.frag with
    | none => .next s
    | some f =>
      if !x.fragPending then .next s
      else match s.replayOf g with
        | some r => .next ((s.retireReplay r.num f).clearFrag u l)
        | none => match s.draw? f.draw with
          | none => .next (s.clearFrag u l)
          | some d =>
            if d.earlier f then .next s
            else if d.cut = some 2 then .next (s.passFrag d u l f)
            else .next (s.fixedStep d (.retire f.x f.y f.prim.number) fun d => do
              let s ← (s.flushCulled d.uid).retireFrag d f x.lods
              return s.passFrag d u l f)

/-! ### Answers to fixed-unit faults (R427) -/

/-- SKIP: the access is passed over when the step is made again. -/
def State.skipFixed (s : State) (r : Record) : State :=
  r.draws.foldl (fun s e => s.modDraw e.1 fun d => { d with skips := e.2 :: d.skips }) s

/-- The grids of a draw's pixel and software raster kernels end with their blocks, saved ones too. -/
def State.dropGrids (s : State) (gone : List Nat) : State :=
  let s := (s.blocks.filter fun b => gone.contains b.grid).foldl State.scrap s
  { s with
    queue := s.queue.filter fun e => match e.what with
      | .grid g => !gone.contains g
      | .again g _ _ => !gone.contains g
      | .saved b => !gone.contains b.block.grid }.loseGrids fun g => gone.contains g

/-- KILL or RELAUNCH of a fault of a job: the draw's remaining work of that stage and of those behind it is
dropped; earlier stages go on (R427). -/
def State.killDraw (s : State) (u job : Nat) : State :=
  match s.draw? u with
  | none => s
  | some d =>
    if job = 0 then (s.dropGrids (d.grid.toList ++ (d.render.map (·.grids)).getD [])).dropDraw u
    else
      let k := min (min job 2) (d.cut.getD 2)
      let s := s.modDraw u fun x => { x with cut := some k, skips := [] }
      if k = 2 then s
      else match d.render with
        | none => s
        | some r =>
          let s := ((s.dropGrids r.grids).modDraw u fun x => { x with render := none, pending := [] }).flushCulled u
          if r.final then s.dropDraw u else s.arrive r.block

/-! ### Work graphs -/

/-- The oldest record of each port of a key, none when a port has none. -/
def firstRecords (store : List NodeRec) (slot node : Nat) (tag : Word) : List Nat → Option (List NodeRec)
  | [] => some []
  | p :: ps =>
    match store.find? fun r => r.slot == slot && r.node == node && r.tag == tag && r.port == p with
    | none => none
    | some r => (firstRecords store slot node tag ps).map fun rs => r :: rs

/-- The scalars of a fired node's groups: the tag, the node, the words of each port. -/
def nodeScalars (node : Nat) (tag : Word) (rs : List NodeRec) : Regs :=
  rs.foldl (fun t r => r.words.zipIdx.foldl (fun t e => tset 0 t (8 + 8 * r.port + e.2) e.1) t)
    (tset 0 (tset 0 [] 0 tag) 1 (BitVec.ofNat 32 node))

/-- NODE_FIRE (R304, R314): the oldest record of each port is taken, and one child is launched from TASK; a node whose
descriptor or TASK record cannot be read does not fire, keeps its records and files no fault (DESIGN CHOICE, log entry
140). -/
def execNodeFire (c : Slot) (n : Nat) (t : Word) (s : State) : Host.Outcome State Fault Refusal :=
  let cl := s.storeOf c.val n t
  let w : Who := { cl := cl, slot := c.val }
  match s.nodeDesc w n with
  | .error _ => .next s
  | .ok d =>
    match firstRecords (s.cluster cl).store c.val n t (List.range (min 4 d.ports)), s.quietLoad w d.task.toNat 64 with
    | some (r :: rs), some bytes =>
      let name := nameMake c.val (nameFrame r.name) 4 (nameDisp r.name) 0 (nameUnit r.name) t.toNat
      let s := s.modCluster cl fun k => { k with store := (r :: rs).foldl (fun l x => l.erase x) k.store }
      let (u, s) := s.takeTask w bytes name r.watch
      match u with
      | none => .next s
      | some u => .next (s.modGrid u fun g => { g with scalars := nodeScalars n t (r :: rs) })
    | _, _ => .next s

/-! ### The end of a replay -/

/-- The status code of a replay (R323). -/
def Replay.code (r : Replay) : Nat :=
  let on (n : Nat) : Bool := r.cond.getLsbD n
  match r.status with
  | some k => k
  | none => ([3, 4, 6, 2, 1].find? on).getD 0

/-- A replay has run to its item's exit, or never ran. -/
def State.replayRan (s : State) (r : Replay) : Bool :=
  r.status.isSome || match r.grid with
    | some u => s.gridDone u
    | none => true

/-- Entries that fit a trace buffer. -/
def Replay.fits (r : Replay) : Nat := (r.cap - 64) / 16

/-- Bytes 4 to 63 of the trace header (R327). -/
def Replay.header_ (r : Replay) (written : Nat) : List Byte :=
  padTo 60 (natLe 4 r.code ++ natLe 4 r.cond.toNat ++ natLe 4 (64 + 16 * written) ++
    natLe 4 (if r.dropped || decide (r.fits < r.trace.length) then 1 else 0))

/-- Write entries of a trace from one on: how far it came, and the fault that stopped it (R289). -/
def State.writeTrace (w : Who) (at_ : Nat) : List (List Word) → Nat → State → State × Nat × Option FaultAt
  | [], k, s => (s, k, none)
  | e :: es, k, s =>
    match s.storeRun w 17 (at_ + 64 + 16 * k) (mbClean (bytesOf e)) with
    | .error (c, lv, a) => (s, k, some { code := c, addr := a, level := lv, write := true, source := 1 })
    | .ok ps => State.writeTrace w at_ es (k + 1) (s.perform w ps)

/-- The replay ends: its status and byte count go to sd and sd + 1, and it leaves the machine (R289). -/
def State.endReplay (s : State) (r : Replay) (written : Nat) : State :=
  let s := s.modGroup r.group fun g => (g.paySlot r.flag r.dst (BitVec.ofNat 32 r.code)).paySlot r.flag (r.dst + 1)
    (BitVec.ofNat 32 (64 + 16 * written))
  let s := match s.taskOf r.group with
    | some t => s.taskDone t .ok (natLe 4 r.code ++ natLe 4 (64 + 16 * written))
    | none => s
  let s := match r.grid with
    | some u => s.dropGrid u
    | none => s
  { s with replays := s.replays.filter fun x => x.num ≠ r.num }

/-- A trace write faults: a record of the REPLAY, source 1 (R289). -/
def State.traceFault (s : State) (g : Group) (r : Replay) (f : FaultAt) : State :=
  match s.fileRecord (s.recordOf g f r.mask r.header r.word) with
  | some (n, s) => s.modReplay r.num fun x => { x with record := some n }
  | none => s

/-- REPLAY_COMPLETE (R289, R323, R327): the trace and its header are written, and the flag may clear. -/
def execReplayComplete (n : Nat) (s : State) : Host.Outcome State Fault Refusal :=
  match s.replay? n with
  | none => .next s
  | some r =>
    match s.group? r.group with
    | none => .next s
    | some g =>
      if r.record.isSome || !s.replayRan r then .next s
      else
        let w := { s.who g with replay := none }
        let es := if r.dropped then [] else (r.trace.take r.fits).drop r.written
        let (s, k, stop) := State.writeTrace w r.traceAt.toNat es r.written s
        let s := s.modReplay n fun x => { x with written := k }
        match stop with
        | some f => .next (s.traceFault g r f)
        | none =>
          match s.storeRun w 61 (r.traceAt.toNat + 4) (mbClean (r.header_ k)) with
          | .ok ps => .next ((s.perform w ps).endReplay r k)
          | .error (c, lv, a) =>
            if r.dropped then .next (s.endReplay r k)
            else .next (s.traceFault g r { code := c, addr := a, level := lv, write := true, source := 1 })

end Sys2Proof.Machine
end

