-- ==== Sys2Proof/Machine/Answers.lean ====
section
/-! DEFINITION. The service's answers to fault records (19 R367, R372-R375; 11 R427): what each answer does to
everything a record stops, and the replay of accesses that faulted (03 R78, 19 R373). -/

namespace Sys2Proof.Machine

/-! ### Replaying a faulted access -/

/-- The lane-wise part of an instruction whose faulted lanes replay. -/
def Instr.laneOp : Instr → Option LaneOp
  | .ld z _ b o => some (loadOp z (.base b o))
  | .ldX z _ _ m => some (loadOp z m)
  | .lds z _ b o => some (localLoadOp false z (.base b o))
  | .ldsX z _ _ m => some (localLoadOp false z m)
  | .ldc z _ b o => some (localLoadOp true z (.base b o))
  | .ldcX z _ _ m => some (localLoadOp true z m)
  | .ldbrk _ m c => some (brickOp m c)
  | .ldlod z _ b o => some (lodOp 0 z (.base b o))
  | .ldlodX l z _ m => some (lodOp l.val z m)
  | .tex u z _ t c => some (texLaneOp u z t c)
  | .texg n _ t c => some (texgLaneOp n t c)
  | .st z d b o => some (storeOp z .none d (.base b o))
  | .stX z w _ d m => some (storeOp z w d m)
  | .sts z d b o => some (localStoreOp false z .none d (.base b o))
  | .stsX z w _ d m => some (localStoreOp false z w d m)
  | .stc z d b o => some (localStoreOp true z .none d (.base b o))
  | .stcX z w _ d m => some (localStoreOp true z w d m)
  | .atom o t _ _ _ m c => some (atomOp o t m c true)
  | .atomx o t _ _ _ m c => some (atomOp o t m c true)
  | .red o t _ _ m c => some (atomOp o t m c false)
  | .atoms o t _ _ _ m c => some (atomSpadOp o t m c)
  | .launch v => some (launchOp false v)
  | .launchOrd v => some (launchOp true v)
  | .travs _ => some travOp
  | _ => none

/-- The group-level access of an instruction that replays whole. -/
def Instr.groupOp : Instr → Option GroupOp
  | .sld z d b o => some (scalarLoadOp z d (.base b o))
  | .sldX z _ d m => some (scalarLoadOp z d m)
  | .sst z d b o => some (scalarStoreOp z .none d (.base b o))
  | .sstX z w _ d m => some (scalarStoreOp z w d m)
  | .stbrk k a m => some (brickStoreOp k a m)
  | _ => none

/-- The trace of a replay shows the values that a replayed access of its item has brought (R327). -/
def State.retrace (s : State) (r : Replayed) : State :=
  match s.replayOf r.src, s.group? r.group with
  | some x, some g =>
    if !mHas r.mask x.lane then s
    else
      let es := Instr.traced r.src g x.lane (r.word - x.kernel).toNat 0 r.instr
      let put (s : State) (e : List Word) : State :=
        let k := (e.getD 1 0).toNat
        s.patchTrace r.src r.word x.lane (k % 65536) (k / 65536) (e.getD 2 0)
      es.foldl put s
  | _, _ => s

/-- A copy whose access is not performed lands Undefined bytes, so that its lines may become full (R371). -/
def State.landLost (s : State) (r : Replayed) : State :=
  let spans := r.spans.filter fun e => e.2.2.2
  let es := match r.instr with
    | .cpaB32 _ _ _ | .cpaB64 _ _ _ | .cpaB128 _ _ _ => spans
    | .cpb _ _ _ => spans.take 1
    | _ => []
  es.foldl (fun s e =>
    let bytes := (List.range e.2.2.1).map fun k => some ((s.undef (s.slotOf r.src) .late (e.2.1 + k)).setWidth 8, false)
    s.landPart r.src.block { lane := e.1, ga := 0, off := e.2.1, n := e.2.2.1, data := bytes }) s

/-- The source field of a fault of an instruction's access to memory: a hypervector's is its engine's (R369). -/
def Instr.accessSource (i : Instr) : Nat :=
  match i with
  | .hld _ _ _ | .hst _ _ _ => 2
  | i => Instr.source i

/-- A replayed access of some lanes faults again: a new record (R373), or a fault of their next clause
boundary (R371). -/
def State.refault (s : State) (r : Replayed) (f : FaultAt) (ls : List Nat) : State :=
  let m := maskOf ls
  let f := { f with source := Instr.accessSource r.instr }
  let r := { r with mask := m, record := none, spans := r.spans.filter fun e => ls.contains e.1 }
  match s.group? r.group with
  | none => s
  | some g =>
    if f.code.resolvable then
      match s.fileRecord (s.recordOf g f m r.header r.word) with
      | none => { s with replayed := s.replayed ++ [r] }
      | some (n, s) => { s with replayed := s.replayed ++ [{ r with record := some n }] }
    else
      let (n, s) := s.newId
      let d : Deferred := {
        code := f.code, mask := m, addr := BitVec.ofNat 64 f.addr, word := r.word, header := r.header
        write := f.write, atomic := f.atomic, source := f.source, level := f.level, num := n
        pass := decide (g.gmode = 2) }
      let o : LateOp := { num := n, record := none, group := r.group, mask := m, what := .access { r with flag := none } }
      { s.landLost r with lateOps := s.lateOps ++ [o] }.modGroup r.group fun g => { g with late := g.late ++ [d] }

/-- Faults of several lanes, one code after another. -/
def State.refaults (s : State) (r : Replayed) (fs : List (Nat × FaultAt)) : State :=
  (faultCodes fs).foldl (fun s k => match ofCode fs k with
    | [] => s
    | (l, f) :: rest => s.refault r f (l :: rest.map (·.1))) s

/-- Two accesses are of one instance of an instruction. -/
def Replayed.sameInstance (r x : Replayed) : Bool :=
  x.group == r.group && x.word == r.word && x.src.lastIssue == r.src.lastIssue

/-- What an instance has read of residency, for its lanes that have still to perform (R341). -/
def State.shareSeen (s : State) (r : Replayed) (v : LodSeen) : State :=
  let put (x : Replayed) : Replayed := if r.sameInstance x then { x with src := { x.src with seen := v } } else x
  { s with
    replayed := s.replayed.map put
    lateOps := s.lateOps.map fun o => match o.what with
      | .access x => { o with what := .access (put x) }
      | _ => o }

/-- The faulted lanes of a vector access perform again, in ascending order (R373), with what their instance has read
of residency (R341). -/
def State.redoLanes (s : State) (r : Replayed) (o : LaneOp) : State :=
  let x := (lanesOf r.mask).foldl (Run.lane o r.src) { state := s.putSeen r.group r.src.seen }
  let seen := ((x.state.group? r.group).map (·.seen)).getD {}
  let s := (x.state.perform (s.who r.src) x.puts).shareSeen r seen
  let s := s.modGroup r.group fun g => x.words.foldl (fun g e => g.pay r.src r.instr r.flag e.1 e.2) g
  (s.retrace r).refaults { r with src := { r.src with seen := seen } } x.faults

/-- A walk that has rounds left keeps its progress and is gone on with later (log entry 31). -/
def State.redoTravs (s : State) (r : Replayed) : State :=
  match s.travLong r.src r.mask with
  | [] => s.redoLanes r travOp
  | long =>
    let src := long.foldl (fun g e => g.modLane e.1 fun x => { x with walk := some e.2 }) r.src
    { s with replayed := s.replayed ++ [{ r with src := src, record := none }] }

/-- A group-level access performs again. -/
def State.redoGroup (s : State) (r : Replayed) (o : GroupOp) : State :=
  match o.run s r.src r.mask with
  | .ok x =>
    let s := x.state.perform (s.who r.src) x.puts
    (s.modGroup r.group fun g => g.payS r.src o.dst r.flag x.words).retrace r
  | .error f => s.refault r f (lanesOf r.mask)

/-- The instance a faulted copy belongs to. -/
def Replayed.copyOf (r : Replayed) : CopyOf :=
  { group := r.group, block := r.src.block, flag := r.flag, mask := r.src.execMask, word := r.word
    header := r.header }

/-- The faulted lanes of a CPA copy again; their bytes have been pending since they faulted (R63). -/
def State.redoCpa (s : State) (r : Replayed) (sz : Nat) (a gl : SReg) (x : VReg) : State :=
  let all := r.src.noHelpers r.src.execMask
  let outs := (lanesOf r.mask).map fun l => (l, cpaLane s r.src sz a gl x all l)
  let parts := outs.filterMap fun o => match o.2 with | .ok p => some p | .error _ => none
  let faults := outs.filterMap fun o => match o.2 with | .ok _ => none | .error f => some (o.1, f)
  (s.addCaravans r.copyOf false parts).refaults r faults

/-- A faulted CPB copies again. -/
def State.redoCpb (s : State) (r : Replayed) (d a n : SReg) : State :=
  let (out, ga, off, k) := cpbArgs s r.src d a n
  match cpbStart s r.src r.copyOf out ga.toNat off k with
  | .ok s => s
  | .error f => s.refault r f (lanesOf r.mask)

/-- A faulted HLD or HST is made again (R374). -/
def State.redoHld (s : State) (r : Replayed) : State :=
  match s.redoHyper r with
  | .ok s => s
  | .error f => s.refault r f (lanesOf r.mask)

/-- A faulted access is made again. -/
def State.redo (s : State) (r : Replayed) : State :=
  match r.instr with
  | .hld _ _ _ | .hst _ _ _ => s.redoHld r
  | .travs _ => s.redoTravs r
  | .cpaB32 a gl x => s.redoCpa r 4 a gl x
  | .cpaB64 a gl x => s.redoCpa r 8 a gl x
  | .cpaB128 a gl x => s.redoCpa r 16 a gl x
  | .cpb d a n => s.redoCpb r d a n
  | i => match Instr.laneOp i, Instr.groupOp i with
    | some o, _ => s.redoLanes r o
    | none, some o => s.redoGroup r o
    | none, none => s

/-- A stopped engine operation goes on where it stopped (R374); MLOOP's next iteration is its own step
(DEDUCED, log entry 86). -/
def State.redoEngine (s : State) (e : Engine) : State :=
  match e.instr with
  | .mloop _ _ _ _ => s
  | _ => s.driveEngine e

/-! ### What a record holds up -/

/-- Lanes parked on a record take another state; a SKIP sends them to their resume address. -/
def Group.unfault (g : Group) (n : Nat) (next : LaneState) (skip : Bool) : Group :=
  let p : LaneState := .parked (.fault n)
  { g with lanes := g.lanes.map fun x =>
      if x.st = p then { x with st := next, pc := if skip then x.skipTo else x.pc }
      else if x.prodSt = p then { x with prodSt := next, prodPc := if skip then x.skipTo else x.prodPc }
      else x }

/-- A lane of the group is parked on a record. -/
def Group.faulted (g : Group) (n : Nat) : Bool :=
  let p : LaneState := .parked (.fault n)
  g.lanes.any fun x => decide (x.st = p) || decide (x.prodSt = p)

/-- Work of a group that goes on beside its clauses stands still on a record. -/
def State.stalled (s : State) (n u : Nat) : Bool :=
  (s.replayed.any fun r => r.group == u && r.record == some n) ||
  (s.engines.any fun e => e.group == u && e.record == some n) ||
  (s.caravans.any fun c => c.group == u && c.record == some n) ||
  (s.xalls.any fun x => x.group == u && x.record == some n) ||
  s.replays.any fun r => r.group == u && r.record == some n

/-- A record leaves the fault buffer, and its event awaits nothing any more. -/
def State.dropRecord (s : State) (n : Nat) : State :=
  { s with
    records := s.records.filter fun r => r.num ≠ n
    awaited := s.awaited.filter fun a => decide (a.2.2.2 ≠ .fault n) }

/-- The clauses of a record's groups that wait for answers try their instruction again. -/
def State.wakeAnswered (s : State) (us : List Nat) : State :=
  us.foldl (fun s u => s.modGroup u fun g => g.modClause fun c =>
    if c.wait = some .answers then { c with wait := none } else c) s

/-- The groups of a record. -/
def Record.groups (r : Record) : List Nat := (r.who.map (·.1)).dedup

/-! ### RETRY -/

/-- Everything that a record stops goes on. -/
def State.resumeWork (s : State) (n : Nat) : State :=
  let rs := s.replayed.filter fun r => r.record == some n
  let es := (s.engines.filter fun e => e.record == some n).map fun e => { e with record := none }
  let free (x : Option Nat) : Option Nat := if x = some n then none else x
  let s := { s with
    replayed := s.replayed.filter fun r => r.record != some n
    engines := s.engines.map fun e => { e with record := free e.record }
    caravans := s.caravans.map fun c => { c with record := free c.record }
    xalls := s.xalls.map fun x => { x with record := free x.record }
    replays := s.replays.map fun r => { r with record := free r.record } }
  es.foldl State.redoEngine (rs.foldl State.redo s)

/-- What the lanes of a record do beside going on where they stood (R372): their access is made once more, the
instruction is executed once more before their next clause, or they wait again. -/
def State.lateAgain (s : State) (o : LateOp) : State :=
  match o.what with
  | .access r =>
    let r := { r with mask := o.mask }
    let s := match r.instr with
      | .cpaB32 _ _ _ | .cpaB64 _ _ _ | .cpaB128 _ _ _ => s.addPendingAll r.src.block (spadSpans r.spans)
      | _ => s
    s.redo r
  | .instr _ _ => { s with lateOps := s.lateOps ++ [{ o with ready := true }] }
  | .wait ls =>
    (s.modGroup o.group fun g => ls.foldl (fun g e => g.modLane e.1 fun x => { x with st := e.2 }) g).repark o.group

/-- The lanes that a record holds are answered RETRY (R372); those of TRAP go on at the next clause. -/
def State.retryLanes (s : State) (r : Record) : State :=
  let s := r.groups.foldl (fun s u => s.modGroup u fun g => g.unfault r.num .runnable false) s
  let mine (o : LateOp) : Bool := o.record == some r.num
  (s.lateOps.filter mine).foldl State.lateAgain { s with lateOps := s.lateOps.filter fun o => !mine o }

/-- RETRY (R372-R374). -/
def State.retry (s : State) (r : Record) : State :=
  ((s.dropRecord r.num).retryLanes r).resumeWork r.num |>.wakeAnswered r.groups

/-! ### KILL and RELAUNCH -/

/-- The blocks of some groups are killed (R375). -/
def State.killGroups (s : State) (r : Record) (us : List Nat) (how : Kill) : State :=
  us.foldl (fun s u => match s.group? u with
    | none => s
    | some g => s.kill g.block how r.bytes) s

/-! ### SKIP -/

/-- The instruction a group holds for a record is passed over in the record's lanes (R371, R372): Undefined
destinations, no access, and the lanes go on at the next clause. -/
def State.passOver (s : State) (g : Group) (c : Clause) (m : Mask) : State :=
  let m := m &&& c.exec
  let g := match c.instr with
    | some (i, _) => undefWrites s g m i none
    | none => g
  s.setGroup ((g.modLanes m fun _ x => { x with pc := c.nextAt }).modClause fun c => { c.drop m with wait := none })

/-- A parked dequeue or enqueue ends without its access. -/
def State.passPark (s : State) (g : Group) (k : Nat) : State :=
  (s.setGroup ((g.spoilPark s k).wakePark k)).modCtx (s.slotOf g) fun c => c.unpark [k]

/-- The parks on routes of some lanes. -/
def Group.parksIn (g : Group) (m : Mask) : List Nat := (g.routeParks.filter fun k => decide (g.parkMask k &&& m ≠ 0)).dedup

/-- SKIP for the lanes of one group. -/
def State.skipGroup (s : State) (n u : Nat) (m : Mask) : State :=
  match s.group? u with
  | none => s
  | some g =>
    if g.faulted n then s.setGroup (g.unfault n .runnable true)
    else if s.stalled n u then s
    else match g.clause with
      | some c =>
        if c.wait = some .answers ∧ c.exec &&& m ≠ 0 then s.passOver g c m
        else (g.parksIn m).foldl (fun s k => s.passPark ((s.group? u).getD g) k) s
      | none => (g.parksIn m).foldl (fun s k => s.passPark ((s.group? u).getD g) k) s

/-- XALLs that a record stops end with an Undefined status. -/
def State.endXalls (n : Nat) : Nat → State → State
  | 0, s => s
  | fuel + 1, s =>
    match s.xalls.findIdx? fun x => x.record == some n with
    | none => s
    | some i => match s.xalls[i]? with
      | none => s
      | some x => State.endXalls n fuel (s.endXall i x (s.undef x.slot .slice 0))

/-- Accesses, copies and traces that a record stops are not performed. -/
def State.dropWork (s : State) (n : Nat) : State :=
  let rs := s.replayed.filter fun r => r.record == some n
  let s := rs.foldl State.landLost { s with
    replayed := s.replayed.filter fun r => r.record != some n
    caravans := s.caravans.filter fun c => c.record != some n
    lateOps := s.lateOps.filter fun o => o.record != some n
    replays := s.replays.map fun r => if r.record = some n then { r with record := none, dropped := true } else r }
  State.endXalls n s.xalls.length s

/-- The groups that a SKIP kills: those of a decode trap, and those that a fault of a fetch keeps from their
next clause (R372) (DEDUCED, log entry 55). -/
def State.skipKills (s : State) (r : Record) : List Nat :=
  if r.code.num < 8 then r.groups
  else r.groups.filter fun u => match s.group? u with
    | some g => g.faulted r.num && (decide (0x30 ≤ r.code.num) || r.source == 3)
    | none => false

/-- The groups of a record whose engine has faulted: an operation of theirs stands still on it, or it is an engine
fault's own (R268, R369). -/
def State.engineGroups (s : State) (r : Record) : List Nat :=
  if r.source = 2 then r.groups
  else r.groups.filter fun u => (s.engines.any fun e => e.group == u && e.record == some r.num) ||
    s.replayed.any fun x => x.group == u && x.record == some r.num && Instr.accessSource x.instr == 2

/-- SKIP (R372): an engine fault is treated as RELAUNCH (DEDUCED, log entry 55). -/
def State.skip (s : State) (r : Record) : State :=
  let kills := s.skipKills r
  let again := s.engineGroups r
  let s := (s.killGroups r kills .final).killGroups r again .counted
  let s := r.who.foldl (fun s e => s.skipGroup r.num e.1 e.2) s
  ((s.dropWork r.num).dropRecord r.num).wakeAnswered r.groups

/-! ### The answer -/

/-- A group of a block that is saved (R391). -/
def State.savedGroup (s : State) (u : Nat) : Bool :=
  let mine (b : Saved) : Bool := b.groups.any fun g => g.uid == u
  (savedIn s.queue).any mine || s.images.any fun e => e.2.blocks.any mine

/-- A breakpoint is released, and its record with it (R182); an answer of KILL or RELAUNCH kills the block as for
any record (DEDUCED, log entry 55). -/
def State.releaseBreak (s : State) (n : Nat) : State :=
  let st : LaneState := .parked (.brk n)
  let go (x : LaneState) : LaneState := if x = st then .runnable else x
  let free (g : Group) : Group := { g with lanes := g.lanes.map fun x => { x with st := go x.st, prodSt := go x.prodSt } }
  let us := ((s.records.filter fun r => r.num == n).flatMap Record.groups)
  let s := us.foldl (fun s u => s.modAnywhere u free) s
  { s with
    records := s.records.filter fun r => r.num ≠ n
    awaited := s.awaited.filter fun a => decide (a.2.2.2 ≠ .brk n) }

/-- The answer to what a record stops of fixed units (R427): the steps are made again, pass the access over, or
end. -/
def State.answerFixed (s : State) (r : Record) (a : Nat) : State :=
  if a = 1 then s else if a = 2 then s.skipFixed r else r.draws.foldl (fun s e => s.killDraw e.1 e.2.job) s

/-- The answer of a record acts on the groups it holds (R372, R427). -/
def State.act (s : State) (r : Record) (a : Nat) : State :=
  let s := s.answerFixed r a
  if 2 < a then (s.killGroups r r.groups (if a = 3 then .final else .counted)).dropRecord r.num
  else if r.code = .brk then s.releaseBreak r.num
  else if a = 1 then s.retry r
  else s.skip r

/-- The groups of a record that its answer cannot reach yet: their blocks are saved (R388). A breakpoint is released
in a saved group too. -/
def State.answerWaits (s : State) (r : Record) (a : Nat) : List (Nat × Mask) :=
  if r.code = .brk ∧ a < 3 then [] else r.who.filter fun e => s.savedGroup e.1

/-- Act on the answer of a record: at once for the groups that stand in the machine, and for the others once their
blocks do, with the answered record kept for them (R372, R388). -/
def State.answer (s : State) (r : Record) (a : Nat) : State :=
  let waits := s.answerWaits r a
  let r' := { r with answer := BitVec.ofNat 32 a }
  if waits = [] then s.act r' a
  else if r.answer ≠ 0 ∧ waits = r.who then s
  else
    let s := s.act { r' with who := r.who.filter fun e => !waits.contains e } a
    { s with records := s.records ++ [{ r' with who := waits, draws := [] }] }

/-- FAULT_ANSWER (R372, R416): a pending record is answered; a value that names no answer leaves it pending. -/
def execFaultAnswer (n : Nat) (a : Word) (s : State) : Host.Outcome State Fault Refusal :=
  match s.records.find? fun r => r.num == n with
  | none => .next s
  | some r => if a.toNat = 0 ∨ 4 < a.toNat then .next s else .next (s.answer r a.toNat).mirror

/-- FAULT_BUFFER_RETRY (R367): with room in the cluster's fault buffer, a group that faulted without a record
walks again (DEDUCED, log entry 50). -/
def execFaultBufferRetry (u : Nat) (s : State) : Host.Outcome State Fault Refusal :=
  match s.group? u with
  | none => .next s
  | some g =>
    if 256 ≤ s.buffered (s.clusterOf g) then .next s
    else
      let s := s.modGroup u fun g => g.modClause fun c => if c.wait = some .faultBuffer then { c with wait := none } else c
      let mine (r : Replayed) : Bool := r.group == u && r.record.isNone
      let rs := s.replayed.filter mine
      let es := s.engines.filter fun e => e.group == u && e.record.isNone
      .next (es.foldl State.redoEngine (rs.foldl State.redo { s with replayed := s.replayed.filter fun r => !mine r }))

end Sys2Proof.Machine
end

