-- ==== Sys2Proof/Machine/Signature.lean ====
section
/-! DEFINITION. SHA-256 and the verification of an HSS signature (22 R419-R421): FIPS 180-4 and RFC 8554, which the
boot rules name, with the parameters that R419 states (PRESUMED, log entry 134). -/

namespace Sys2Proof.Machine

/-! ### SHA-256 -/

/-- The round constants: the first 32 bits of the fractional parts of the cube roots of the first 64 primes. -/
def shaRounds : List Word :=
  [0x428a2f98, 0x71374491, 0xb5c0fbcf, 0xe9b5dba5, 0x3956c25b, 0x59f111f1, 0x923f82a4, 0xab1c5ed5,
   0xd807aa98, 0x12835b01, 0x243185be, 0x550c7dc3, 0x72be5d74, 0x80deb1fe, 0x9bdc06a7, 0xc19bf174,
   0xe49b69c1, 0xefbe4786, 0x0fc19dc6, 0x240ca1cc, 0x2de92c6f, 0x4a7484aa, 0x5cb0a9dc, 0x76f988da,
   0x983e5152, 0xa831c66d, 0xb00327c8, 0xbf597fc7, 0xc6e00bf3, 0xd5a79147, 0x06ca6351, 0x14292967] ++
  [0x27b70a85, 0x2e1b2138, 0x4d2c6dfc, 0x53380d13, 0x650a7354, 0x766a0abb, 0x81c2c92e, 0x92722c85,
   0xa2bfe8a1, 0xa81a664b, 0xc24b8b70, 0xc76c51a3, 0xd192e819, 0xd6990624, 0xf40e3585, 0x106aa070,
   0x19a4c116, 0x1e376c08, 0x2748774c, 0x34b0bcb5, 0x391c0cb3, 0x4ed8aa4a, 0x5b9cca4f, 0x682e6ff3,
   0x748f82ee, 0x78a5636f, 0x84c87814, 0x8cc70208, 0x90befffa, 0xa4506ceb, 0xbef9a3f7, 0xc67178f2]

/-- The initial hash value: the same of the square roots of the first eight primes. -/
def shaInit : List Word :=
  [0x6A09E667, 0xBB67AE85, 0x3C6EF372, 0xA54FF53A, 0x510E527F, 0x9B05688C, 0x1F83D9AB, 0x5BE0CD19]

/-- A number in `n` bytes, most significant first. -/
def natBe (n v : Nat) : List Byte := (natLe n v).reverse

/-- `n` words of a list of bytes, most significant byte first. -/
def beWords : Nat → List Byte → List Word
  | 0, _ => []
  | n + 1, bs => BitVec.ofNat 32 (leNat (bs.take 4).reverse) :: beWords n (bs.drop 4)

/-- The message schedule, newest word first, from the sixteen words of a block. -/
def shaSchedule : Nat → List Word → List Word
  | 0, ws => ws
  | n + 1, ws =>
    let x := ws.getD 14 0
    let y := ws.getD 1 0
    let s0 := x.rotateRight 7 ^^^ x.rotateRight 18 ^^^ (x >>> 3)
    let s1 := y.rotateRight 17 ^^^ y.rotateRight 19 ^^^ (y >>> 10)
    shaSchedule n ((s1 + ws.getD 6 0 + s0 + ws.getD 15 0) :: ws)

/-- One round: the working variables a to h, a round constant and a word of the schedule. -/
def shaRound (v : List Word) (kw : Word × Word) : List Word :=
  match v with
  | [a, b, c, d, e, f, g, h] =>
    let s1 := e.rotateRight 6 ^^^ e.rotateRight 11 ^^^ e.rotateRight 25
    let t1 := h + s1 + ((e &&& f) ^^^ (~~~e &&& g)) + kw.1 + kw.2
    let s0 := a.rotateRight 2 ^^^ a.rotateRight 13 ^^^ a.rotateRight 22
    let t2 := s0 + ((a &&& b) ^^^ (a &&& c) ^^^ (b &&& c))
    [t1 + t2, a, b, c, d + t1, e, f, g]
  | _ => v

/-- The hash value after one 64-byte block. -/
def shaBlock (h : List Word) (block : List Byte) : List Word :=
  let w := (shaSchedule 48 (beWords 16 block).reverse).reverse
  List.zipWith (· + ·) h ((shaRounds.zip w).foldl shaRound h)

/-- The hash value after `n` blocks. -/
def shaBlocks : Nat → List Word → List Byte → List Word
  | 0, h, _ => h
  | n + 1, h, bs => shaBlocks n (shaBlock h (bs.take 64)) (bs.drop 64)

/-- SHA-256 of a list of bytes, as its 32 bytes in order (PRESUMED, log entry 134). -/
def sha256 (m : List Byte) : List Byte :=
  let zeros := (119 - m.length % 64) % 64
  let padded := m ++ 0x80 :: List.replicate zeros 0 ++ natBe 8 (8 * m.length)
  (shaBlocks (padded.length / 64) shaInit padded).flatMap fun w => natBe 4 w.toNat

/-! ### LM-OTS and LMS -/

/-- The number in `n` bytes at an offset, most significant first. -/
def beField (bs : List Byte) (off n : Nat) : Nat := leNat ((bs.drop off).take n).reverse

/-- `n` steps of a Winternitz chain from its step `j` on: chain `i` of leaf `q`. -/
def otsChain (id : List Byte) (q i : Nat) : Nat → Nat → List Byte → List Byte
  | 0, _, x => x
  | n + 1, j, x => otsChain id q i n (j + 1) (sha256 (id ++ natBe 4 q ++ natBe 2 i ++ natBe 1 j ++ x))

/-- The public key that a LMOTS_SHA256_N32_W8 signature gives for a message: 4 bytes of type, C, then the ends of
34 chains of 255 steps, one for each byte of the digest and of its checksum. -/
def otsKey (id : List Byte) (q : Nat) (sig msg : List Byte) : List Byte :=
  let d := sha256 (id ++ natBe 4 q ++ natBe 2 0x8181 ++ (sig.drop 4).take 32 ++ msg)
  let coefs := d ++ natBe 2 (d.map fun b => 255 - b.toNat).sum
  let ends := (List.range 34).flatMap fun i =>
    let a := (coefs.getD i 0).toNat
    otsChain id q i (255 - a) a ((sig.drop (36 + 32 * i)).take 32)
  sha256 (id ++ natBe 4 q ++ natBe 2 0x8080 ++ ends)

/-- The root over a node of the tree: a node and the siblings on its way up. -/
def lmsClimb (id : List Byte) : Nat → List (List Byte) → List Byte → List Byte
  | _, [], x => x
  | node, sib :: path, x =>
    let up := node / 2
    let both := if node % 2 = 1 then sib ++ x else x ++ sib
    lmsClimb id up path (sha256 (id ++ natBe 4 up ++ natBe 2 0x8383 ++ both))

/-- A 56-byte LMS_SHA256_M32_H20 key (types 8 and 4, identifier, root) verifies the 1,772-byte signature of a
message: leaf number, one-time signature, type, twenty siblings. -/
def lmsVerify (key msg sig : List Byte) : Bool :=
  let id := (key.drop 8).take 16
  let q := beField sig 0 4
  let ots := (sig.drop 4).take 1124
  let leaf := sha256 (id ++ natBe 4 (2 ^ 20 + q) ++ natBe 2 0x8282 ++ otsKey id q ots msg)
  let path := (List.range 20).map fun i => (sig.drop (1132 + 32 * i)).take 32
  key.length == 56 && sig.length == 1772 && beField key 0 4 == 8 && beField key 4 4 == 4 && beField ots 0 4 == 4 &&
    beField sig 1128 4 == 8 && decide (q < 2 ^ 20) && lmsClimb id (2 ^ 20 + q) path leaf == key.drop 24

/-- A 60-byte HSS key with L = 2 verifies the 3,604-byte signature of a message (R419): one signed key, its
signature by the top level, and the message's signature by that key. -/
def hssVerify (key msg sig : List Byte) : Bool :=
  let pub := (sig.drop 1776).take 56
  beField key 0 4 == 2 && sig.length == 3604 && beField sig 0 4 == 1 &&
    lmsVerify (key.drop 4) pub ((sig.drop 4).take 1772) && lmsVerify pub msg (sig.drop 1832)

end Sys2Proof.Machine
end

