-- ==== Sys2Proof/Machine/Service.lean ====
section
/-! DEFINITION. Service messages (22 R406-R414): the requests, their checks, their responses. -/

namespace Sys2Proof.Machine

/-! ### Who may ask -/

/-- What a response carries when the request is turned away: ENQUEUE's count of 0 (R411). -/
def turnedAway (op : Nat) : List Byte := if op = 0x06 then natLe 4 0 else []

/-- A request of a slot that is not FREE, from the connection the slot is bound to; `any` is for the requests
that every connection may make. A request the service cannot read, or of slot 0, is answered BADREQ; of a FREE
slot, ABSENT; of another connection, DENIED (R408, R409). It calls the service's halted groups (R356). Before the
service runs nothing answers (R422) (DEDUCED, log entry 90). -/
def State.serve (s : State) (q : Req) (op : Nat) (any : Bool) (k : Ctx → State → State) : State :=
  let c := s.ctx q.slot.val
  if s.running.isNone then s
  else
    let s := s.callHalted
    if q.bad ∨ q.slot.val = 0 then s.respond q op .badreq (turnedAway op)
    else if c.state = .free then s.respond q op .absent (turnedAway op)
    else if !any ∧ c.conn ≠ some q.conn then s.respond q op .denied (turnedAway op)
    else k c s

/-- Whom a request's accesses are made as. -/
def State.reqWho (s : State) (slot : Nat) : Who :=
  { cl := (s.clustersOf (s.ctx slot).ccb.part).headD 0, slot := slot, service := true }

/-! ### Contexts -/

/-- CREATE (R353, R408, R409): CTXLOAD of the image; the slot is bound to the connection, and the response
carries its bind token once the context is LIVE (DESIGN CHOICE, log entry 91). -/
def execCreate (q : Req) (a : DWord) (s : State) : Host.Outcome State Fault Refusal :=
  let n := q.slot.val
  let b := Memory.reads s.mem a.toNat 256
  if s.running.isNone then .next s
  else if q.bad ∨ n = 0 then .next (s.callHalted.respond q 0x01 .badreq [])
  else if (s.ctx n).state ≠ .free then .next (s.callHalted.respond q 0x01 .busy [])
  else if !physOk a ∨ a.toNat % 4096 ≠ 0 ∨ s.imageBad n b then .next (s.callHalted.respond q 0x01 .badreq [])
  else
    let (k, s) := s.callHalted.newId
    .next (s.modCtx n fun x => { x with
      state := .loading, ccb := parseCcb b, saveAt := a, saveTok := none, asked := some q, conn := some q.conn
      token := some (Config.bindToken k), held := [], dropped := 0 })

/-- DESTROY (R352, R408): CTXSAVE to the address, or a discard; answered when the slot is FREE
(DESIGN CHOICE, log entry 91). -/
def execDestroy (q : Req) (a : DWord) (s : State) : Host.Outcome State Fault Refusal :=
  .next (s.serve q 0x02 false fun c s =>
    if !physOk a ∨ a.toNat % 4096 ≠ 0 then s.respond q 0x02 .badreq []
    else if c.state ≠ .live then s.respond q 0x02 .busy []
    else (s.modCtx c.slot fun x => { x with
      state := .saving, saveAt := a, saveTok := none, asked := some q }).askStop c.slot .ctxsave Block.saves)

/-! ### Page tables -/

/-- Bytes of a table of a level (R360). -/
def tableBytes (level : Nat) : Nat := if level = 0 then 512 else 8192

/-- An entry's address lies in a table, or in a table below it (DEDUCED, log entry 92). -/
def inTables (m : List Host.Cell) (slot pa : Nat) : Nat → Nat → Bool
  | 0, base => decide (base ≤ pa) && decide (pa + 16 ≤ base + tableBytes 0)
  | level + 1, base =>
    (decide (base ≤ pa) && decide (pa + 16 ≤ base + tableBytes (level + 1))) ||
    (List.range 512).any fun i => match readEntry m slot (level + 1) (base + 16 * i) with
      | .inl next => inTables m slot pa level next
      | .inr _ => false

/-- The level of the table that an entry's address lies in. -/
def tableLevelOf (m : List Host.Cell) (slot pa : Nat) : Nat → Nat → Option Nat
  | 0, base => if base ≤ pa ∧ pa + 16 ≤ base + tableBytes 0 then some 0 else none
  | level + 1, base =>
    if base ≤ pa ∧ pa + 16 ≤ base + tableBytes (level + 1) then some (level + 1)
    else (List.range 512).findSome? fun i => match readEntry m slot (level + 1) (base + 16 * i) with
      | .inl next => tableLevelOf m slot pa level next
      | .inr _ => none

/-- An entry of a MAP that has a reserved bit set (R361), or that maps memory left out of every map (R422) or a page
that has been retired, which is never handed out again (R404): it is not stored; `level` is its table's
(DEDUCED, log entry 92). -/
def State.barred (s : State) (level : Nat) (v : Name) : Bool :=
  let w0 := v.toNat % 2 ^ 64
  let at_ := bfield w0 12 40 * 4096
  let out : Bool := s.leftOut at_ || s.retired.any fun p =>
    decide (at_ < 65536 * p + 65536) && decide (65536 * p < at_ + 2 ^ leafLog2 level)
  bfield w0 60 4 != 0 || bfield w0 11 1 != 0 || bfield w0 5 3 != 0 || (bfield w0 0 2 == 3 && bfield w0 52 8 == 255 && out)

/-- An entry of a MAP takes the place of a valid one with another valid one (R365). -/
def revalid (m : List Host.Cell) (e : DWord × Name) : Bool :=
  let old := leNat (Memory.reads m e.1.toNat 16)
  old.testBit 0 && e.2.toNat.testBit 0 && decide (old ≠ e.2.toNat)

/-- MAP (R365, R408): the entries are stored in order, as many as a payload of 16,384 bytes holds; a
valid-to-valid change drops the slot's cached translations (DEDUCED, log entry 92). -/
def execMapPages (q : Req) (x : List (DWord × Name)) (s : State) : Host.Outcome State Fault Refusal :=
  .next (s.serve q 0x03 false fun c s =>
    let root := c.ccb.ptroot.toNat
    let t := x.foldl (fun s e => s.physWrite e.1.toNat (mbClean (natLe 16 e.2.toNat))) s
    let ok (e : DWord × Name) : Bool := physOk e.1 && e.1.toNat % 16 == 0 &&
      (inTables s.mem c.slot e.1.toNat 4 root || inTables t.mem c.slot e.1.toNat 4 root)
    let level (e : DWord × Name) : Nat := (tableLevelOf t.mem c.slot e.1.toNat 4 root).getD 0
    if 682 < x.length ∨ (x.any fun e => s.barred (level e) e.2) ∨ x.all ok = false then s.respond q 0x03 .badreq []
    else
      let stale : Bool := x.any (revalid s.mem)
      { t with tlbs := if stale then t.tlbs.filter fun l => l.slot ≠ c.slot else t.tlbs }.respond q 0x03 .ok [])

/-- Clear V in the leaf of a unit. -/
def State.unmapUnit (s : State) (slot u : Nat) : State :=
  match s.walk slot (u * 65536) with
  | .leaf _ =>
    let at_ := leafSlot s.mem slot (u * 65536) 4 (s.ctx slot).ccb.ptroot.toNat
    let b := (Memory.read s.mem at_).toNat
    s.physWrite at_ (mbClean (natLe 1 (b / 2 * 2)))
  | _ => s

/-- UNMAP (R408): V := 0 in the leaves of the units, then TLBINV of them. -/
def execUnmapPages (q : Req) (a : DWord) (n : Word) (s : State) : Host.Outcome State Fault Refusal :=
  .next (s.serve q 0x04 false fun c s =>
    if !canonical a ∨ a.toNat % 65536 ≠ 0 then s.respond q 0x04 .badreq []
    else
      let first := vaUnit a.toNat
      let s := (List.range' first n.toNat).foldl (fun s u => s.unmapUnit c.slot u) s
      let gone (t : Tlb) : Bool := t.slot == c.slot && decide (first ≤ t.unit) && decide (t.unit < first + n.toNat)
      { s with tlbs := s.tlbs.filter fun t => !gone t }.respond q 0x04 .ok [])

/-! ### Residency -/

/-- A descriptor as the service reads it for a slot. -/
def State.reqDesc (s : State) (slot : Nat) (a : DWord) : Option LodDesc :=
  if !canonical a ∨ a.toNat % 64 ≠ 0 then none
  else match s.quietLoad (s.reqWho slot) a.toNat 64 with
    | none => none
    | some h => (s.quietLoad (s.reqWho slot) (a.toNat + 64) (16 * (bfield (leNat h) 4 4 + 1))).map fun e => parseLod (h ++ e)

/-- The unit of a level page is mapped with a valid leaf of KIND 3. -/
def State.unitMapped (s : State) (slot : Nat) (d : LodDesc) (l p : Nat) : Bool :=
  match s.walk slot ((((d.level.getD l (0, 0)).1 + 65536 * p) % 2 ^ 64)) with
  | .leaf x => decide (x.kind = .lod)
  | _ => false

/-- The residency bit of a page is written; none when its byte cannot be. -/
def State.setResident (s : State) (slot : Nat) (d : LodDesc) (l p : Nat) (on : Bool) : Option State :=
  let at_ := ((d.level.getD l (0, 0)).2 + p / 8) % 2 ^ 64
  if !canonical (BitVec.ofNat 64 at_) then none
  else match s.quietNat (s.reqWho slot) at_ 1 with
    | none => none
    | some b =>
      let bit := 2 ^ (p % 8)
      let v := if b.testBit (p % 8) then (if on then b else b - bit) else if on then b + bit else b
      s.quietStore (s.reqWho slot) at_ (natLe 1 v)

/-- RESIDENCY (R309, R408): the bit is set, for a page that is mapped as R309 asks, or cleared; then RESFENCE. -/
def execResidency (q : Req) (a : DWord) (l : Byte) (v : Byte) (p : Word) (s : State) :
    Host.Outcome State Fault Refusal :=
  .next (s.serve q 0x05 false fun c s =>
    let bad := s.respond q 0x05 .badreq []
    match s.reqDesc c.slot a with
    | none => bad
    | some d =>
      if d.levels < l.toNat ∨ 1 < v.toNat ∨ (v = 1 ∧ s.unitMapped c.slot d l.toNat p.toNat = false) then bad
      else match s.setResident c.slot d l.toNat p.toNat (v == 1) with
        | none => bad
        | some s =>
          let s := (s.clustersOf c.ccb.part).foldl (fun s n => s.modCluster n fun k => { k with filter := [] }) s
          s.respond q 0x05 .ok [])

/-! ### Routes and memory -/

/-- Entries are appended in order until one is not: the count, and why it stopped. -/
def State.enqueueAll (slot r : Nat) : List DWord → Nat → State → State × Nat × Status
  | [], n, s => (s, n, .ok)
  | e :: es, n, s => match s.enqueue1 slot r e with
    | .ok s => State.enqueueAll slot r es (n + 1) s
    | .full => (s, n, .full)
    | .refused => (s, n, .badreq)
    | .failed => (s, n, .failed)

/-- ENQUEUE (R191, R408, R411). -/
def execEnqueue (q : Req) (r : Word) (x : List DWord) (s : State) : Host.Outcome State Fault Refusal :=
  .next (s.serve q 0x06 false fun c s =>
    if x = [] ∨ 2047 < x.length then s.respond q 0x06 .badreq (natLe 4 0)
    else
      let (s, n, st) := State.enqueueAll c.slot r.toNat x 0 s
      s.respond q 0x06 st (natLe 4 n))

/-- The bytes of a range, or the lowest address that fails. -/
def State.readRange (s : State) (w : Who) : Nat → Nat → Nat → Except Nat (List Byte)
  | 0, _, _ => .ok []
  | fuel + 1, va, n =>
    if n = 0 then .ok []
    else
      let k := min n (64 - va % 64)
      match s.fetchBytes w va k .read with
      | .error _ => .error va
      | .ok m =>
        if mbBad m then .error (va + m.findIdx fun x => x.2)
        else (State.readRange s w fuel (va + k) (n - k)).map fun r => mbPlain m ++ r

/-- READ (R408, R411). -/
def execReadMem (q : Req) (a : DWord) (n : Word) (s : State) : Host.Outcome State Fault Refusal :=
  .next (s.serve q 0x07 false fun c s =>
    if !canonical a ∨ n = 0 ∨ 16384 < n.toNat then s.respond q 0x07 .badreq []
    else match s.readRange (s.reqWho c.slot) (n.toNat + 1) a.toNat n.toNat with
      | .ok b => s.respond q 0x07 .ok b
      | .error e => s.respond q 0x07 .failed (natLe 8 e))

/-- WRITE (R408, R411): every page is checked before anything is written. -/
def execWriteMem (q : Req) (a : DWord) (x : List Byte) (s : State) : Host.Outcome State Fault Refusal :=
  .next (s.serve q 0x08 false fun c s =>
    if !canonical a ∨ 16376 < x.length then s.respond q 0x08 .badreq []
    else match s.storeRun (s.reqWho c.slot) (x.length + 1) a.toNat (mbClean x) with
      | .ok ps => (s.perform (s.reqWho c.slot) ps).respond q 0x08 .ok []
      | .error (_, _, e) => s.respond q 0x08 .failed (natLe 8 e))

/-! ### WATCH and REPLAY -/

/-- The task record of a service kernel: one thread at the slot's PRIOCEIL, the smallest allocation (R412)
(DESIGN CHOICE, log entry 93). -/
def serviceRecord (kaddr : DWord) (prio : Nat) : List Byte :=
  padTo 64 (natLe 8 kaddr.toNat ++ natLe 4 0x41 ++ natLe 4 1 ++ natLe 2 1 ++ natLe 1 0 ++ natLe 1 prio)

/-- Launch a service kernel into a slot (R412): admitted and charged like any task, and named from the record's
parent field (R314) (DESIGN CHOICE, log entry 93). -/
def State.launchService (s : State) (q : Req) (job : Job) : State :=
  let slot := q.slot.val
  let replay : Bool := match job with | .replay _ _ => true | .watch _ _ => false
  let bytes := serviceRecord (Config.serviceKernel replay) (s.ctx slot).ccb.prioCeil
  let name := inSlot slot (parseTask bytes).parent
  let hits := s.matchesOf slot name []
  let s := s.watchRecord (s.reqWho slot) hits { lin := name, stage := 6 }
  let (u, s) := s.newId
  let task : ServiceTask := { grid := u, req := q, job := job }
  { s with tasks := s.tasks ++ [task] }.addGrid
    (mkGrid u slot bytes (parseTask bytes) .compute name hits)

/-- A request that a service kernel performs: DENIED without DEBUG, FAILED in a partition with no clusters. -/
def State.askService (s : State) (q : Req) (job : Job) (bad : Bool) : State :=
  s.serve q job.op false fun c s =>
    if bad then s.respond q job.op .badreq []
    else if !c.ccb.debug then s.respond q job.op .denied []
    else if s.clustersOf c.ccb.part = [] then s.respond q job.op .failed []
    else s.launchService q job

/-- WATCH_REQUEST (R288, R412). -/
def execWatchRequest (q : Req) (n : Byte) (x : List Byte) (s : State) : Host.Outcome State Fault Refusal :=
  .next (s.askService q (.watch n.toNat x) (decide (15 < n.toNat) || decide (x.length ≠ 64) || specBad x))

/-- REPLAY_REQUEST (R289, R412). -/
def execReplayRequest (q : Req) (a : DWord) (t : DWord) (s : State) : Host.Outcome State Fault Refusal :=
  .next (s.askService q (.replay a t)
    (decide (a.toNat % 64 ≠ 0) || decide (t.toNat % 64 ≠ 0) || !canonical a || !canonical t))

/-! ### What the module reports -/

/-- The counters of a cluster (R411). -/
def ClusterState.telemetry (c : ClusterState) : List Byte :=
  padTo 32 (natLe 2 ((c.sensors.map (·.2)).foldl max 0) ++ natLe 1 c.level ++ natLe 1 c.cap ++ natLe 4 c.metered ++
    natLe 4 c.debt ++ natLe 4 c.placed)

/-- The TELEMETRY payload (R411). -/
def State.telemetryBytes (s : State) : List Byte :=
  padTo 512 (((List.range 8).flatMap fun n => (s.cluster n).telemetry) ++
    ((List.range 4).flatMap fun h => natLe 4 (s.head h).misses.toNat ++ natLe 4 (s.head h).frames.toNat ++
      natLe 4 (s.head h).leadLost.toNat ++ natLe 4 0) ++
    ((List.range 8).flatMap fun p => natLe 4 (s.partOf p).watchdog.toNat ++ natLe 4 (s.partOf p).saveFull.toNat) ++
    ((List.range 4).flatMap fun u => natLe 8 (tget 0 s.drops u)) ++
    ((List.range 11).flatMap fun t => natLe 4 (tget 0 s.rasCount (t + 1))))

/-- TELEMETRY (R411). -/
def execTelemetry (q : Req) (s : State) : Host.Outcome State Fault Refusal :=
  .next (s.serve q 0x0B true fun _ s => s.respond q 0x0B .ok s.telemetryBytes)

/-- Take up to some records of the RAS log. -/
def State.popRasN : Nat → State → List Ras × State
  | 0, s => ([], s)
  | n + 1, s => match s.popRas with
    | none => ([], s)
    | some (r, s) => let (rs, s) := State.popRasN n s; (r :: rs, s)

/-- RASLOG_REQUEST (R405, R411). -/
def execRaslogRequest (q : Req) (s : State) : Host.Outcome State Fault Refusal :=
  .next (s.serve q 0x0C false fun _ s =>
    let (rs, s) := State.popRasN 32 s
    s.respond q 0x0C .ok (natLe 4 rs.length ++ rs.flatMap Ras.bytes))

/-- The signed bytes of an ATTEST response (R411, R421): `leaf` is the leaf the signature uses. -/
def State.attested (s : State) (nonce : List Byte) (leaf : Nat) : List Byte :=
  let f := s.running.getD { offset := 0, length := 0, entry := 0 }
  padTo 32 nonce ++ sha256 (Memory.reads s.flash f.offset (128 + f.length)) ++ natLe 4 s.fuses ++
    natLe 8 Config.serial.toNat ++ natLe 1 (s.podId.getD 0xFF) ++ natLe 3 0 ++ natLe 4 leaf ++ natLe 4 (32767 - leaf)

/-- ATTEST (R421): the leaf counter is committed before the signature is made. -/
def execAttest (q : Req) (x : List Byte) (s : State) : Host.Outcome State Fault Refusal :=
  .next (s.serve q 0x0D true fun _ s =>
    if x.length ≠ 32 then s.respond q 0x0D .badreq []
    else if 32768 ≤ s.leaf then s.respond q 0x0D .exhausted []
    else
      let msg := s.attested x s.leaf
      { s with leaf := s.leaf + 1 }.respond q 0x0D .ok
        (msg ++ (List.range 1616).map fun i => Config.hssSign s.leaf msg i))

/-- BOOTSTATUS (R408, R422, R423): the three words. The boot ROM answers it where no service runs, whatever the
slot (DEDUCED, log entry 90). -/
def execBootstatus (q : Req) (s : State) : Host.Outcome State Fault Refusal :=
  let words := natLe 4 s.bringup0.toNat ++ natLe 4 s.lpok.toNat ++ natLe 4 s.tomup.toNat
  if s.running.isSome then .next (s.serve q 0x0E true fun _ s => s.respond q 0x0E .ok words)
  else if q.bad then .next (s.respond q 0x0E .badreq [])
  else .next (s.respond q 0x0E .ok words)

/-! ### Answers to events -/

/-- The pending event of a slot that a TAG names (R411). -/
def State.eventOf (s : State) (slot : Nat) (t : Word) : Option (Nat × Awaited) :=
  (s.awaited.find? fun e => e.2.1 == slot && e.2.2.1 == t).map fun e => (e.1, e.2.2.2)

/-- Lanes in a state become runnable, those too that a consumer pass has suspended (R39, R183). -/
def Group.release (g : Group) (st : LaneState) : Group :=
  let go (x : LaneState) : LaneState := if x = st then .runnable else x
  { g with lanes := g.lanes.map fun x => { x with st := go x.st, prodSt := go x.prodSt } }

/-- An event awaits its answer no more. -/
def State.settled (s : State) (n : Nat) : State := { s with awaited := s.awaited.filter fun e => e.1 ≠ n }

/-- SVCANSWER (R183, R408): SVCARG := answer, and the group's lanes go on. -/
def execSvcanswer (q : Req) (t : Word) (a : Word) (s : State) : Host.Outcome State Fault Refusal :=
  .next (s.serve q 0x10 false fun c s => match s.eventOf c.slot t with
    | some (n, .svc u _) =>
      ((s.modAnywhere u fun g => { g.release (.parked (.svc n)) with svcarg := a }).settled n).respond q 0x10 .ok []
    | _ => s.respond q 0x10 .badreq [])

/-- FAULTANSWER (R372, R408). -/
def execFaultanswer (q : Req) (t : Word) (a : Word) (s : State) : Host.Outcome State Fault Refusal :=
  .next (s.serve q 0x11 false fun c s => match s.eventOf c.slot t with
    | some (_, .fault n) => match s.records.find? fun r => r.num == n with
      | some r =>
        if a.toNat = 0 ∨ 4 < a.toNat then s.respond q 0x11 .badreq []
        else (s.answer r a.toNat).mirror.respond q 0x11 .ok []
      | none => s.respond q 0x11 .badreq []
    | _ => s.respond q 0x11 .badreq [])

/-- RESUME (R182, R408): the group that a BREAK stopped goes on. -/
def execResume (q : Req) (t : Word) (s : State) : Host.Outcome State Fault Refusal :=
  .next (s.serve q 0x12 false fun c s => match s.eventOf c.slot t with
    | some (_, .brk n) => (s.releaseBreak n).respond q 0x12 .ok []
    | _ => s.respond q 0x12 .badreq [])

/-! ### Connections -/

/-- BIND (R413): a wrong token is answered DENIED, a slot whose connection is open BUSY; else the response
gives the count of events dropped, and the held events follow in order (DEDUCED, log entry 94). -/
def execBindSlot (q : Req) (t : DWord) (s : State) : Host.Outcome State Fault Refusal :=
  .next (s.serve q 0x13 true fun c s =>
    if c.token ≠ some t then s.respond q 0x13 .denied []
    else if c.conn.isSome then s.respond q 0x13 .busy []
    else
      let s1 := s.respond q 0x13 .ok (natLe 4 c.dropped)
      let late := c.held.map fun (m : Message) => { m with conn := some q.conn }
      let s2 := { s1 with outbox := late.reverse ++ s1.outbox }
      s2.modCtx c.slot fun x => { x with conn := some q.conn, held := [], dropped := 0 })

/-- CONNECTION_CLOSE (R413): the slots bound to the connection stay LIVE and are unbound. -/
def execConnectionClose (n : Nat) (s : State) : Host.Outcome State Fault Refusal :=
  .next { s with ctxs := s.ctxs.map fun c => if c.conn = some n then { c with conn := none } else c }

/-- UE_PACKET_REFUSED (R406): the packet is dropped and counted. -/
def execUePacketRefused (p : Fin 4) (s : State) : Host.Outcome State Fault Refusal :=
  .next { s with drops := tset 0 s.drops p.val (tget 0 s.drops p.val + 1) }

end Sys2Proof.Machine
end

