-- ==== Sys2Proof/Machine/Power.lean ====
section
/-! DEFINITION. Heat, background activities, errors and rails (21 R397-R405, 19 R376, R377, 01 R7, R10). -/

namespace Sys2Proof.Machine

/-! ### Heat -/

/-- THERMAL_SAMPLE (R398): readings of a cluster's sensors. -/
def execThermalSample (c : Fin 8) (r : List (Nat × Nat)) (s : State) : Host.Outcome State Fault Refusal :=
  .next (s.modCluster c.val fun k => { k with sensors := r.foldl (fun t e => tput t e.1 e.2) k.sensors })

/-- A sensor's reading. -/
def ClusterState.reading (c : ClusterState) (i : Nat) : Nat := ((c.sensors.find? fun e => e.1 == i).map (·.2)).getD 0

/-- The active engine's site of a core is more than 3.0 °C above the idle one (R398) (DEDUCED, log entry 100). -/
def ClusterState.engineHot (c : ClusterState) (k : Nat) : Bool :=
  let a := c.reading (2 * k)
  let b := c.reading (2 * k + 1)
  if (tget {} c.cores k).engine then decide (a + 12 < b) else decide (b + 12 < a)

/-- ENGINE_SWITCH (R7, R398, R401): the other engine of the pair becomes active, once per period; no result
changes (DEDUCED, log entry 100). -/
def execEngineSwitch (c : Fin 8) (k : Fin 32) (s : State) : Host.Outcome State Fault Refusal :=
  if (s.cluster c.val).engineHot k.val && !(s.coreOf c.val k.val).switched then
    .next (s.modCore c.val k.val fun x => { x with engine := !x.engine, switched := true })
  else .next s

/-! ### Background activities -/

/-- A unit's key, and how many operations it may make in a period (R401): 64-byte blocks in 10 µs of a channel's
bandwidth, 2,048 words, calibration steps of 50 ns in 20 µs, RAS summaries of 32 bytes in 64 KiB
(DEDUCED, log entry 101). -/
def scrubBudget : ScrubUnit → Nat × Nat
  | .hbm c => (8 * c, 12500)
  | .lpddr c => (8 * c + 1, 5000)
  | .pool k => (8 * k + 2, 2048)
  | .l2 c => (8 * c.val + 3, 2048)
  | .serdes l => (8 * l + 4, 400)
  | .telemetry => (5, 2048)

/-- A unit's budget starts again with its own period (R398, R401); a core's is that of its pool's scrub and of its
engines' alternation, the core numbered 32 × cluster + core (DEDUCED, log entry 101). -/
def State.startPeriod (s : State) (u : ScrubUnit) : State :=
  let s := { s with scrubbed := tset 0 s.scrubbed (scrubBudget u).1 0 }
  match u with
  | .pool k => s.modCore (k / 32) (k % 32) fun x => { x with switched := false }
  | _ => s

/-- GOVERNOR_PERIOD (R401): the period of the unit whose clock comes first ends; no other unit's does
(DESIGN CHOICE, log entry 133). -/
def execGovernorPeriod (s : State) : Host.Outcome State Fault Refusal :=
  match s.periods with
  | [] => .next s
  | u :: us => .next ({ s with periods := us }.startPeriod u)

/-- PATROL_SCRUB (R401): one operation of a background unit, while its budget lasts; no value changes
(DEDUCED, log entry 101). -/
def execPatrolScrub (u : ScrubUnit) (s : State) : Host.Outcome State Fault Refusal :=
  let (k, n) := scrubBudget u
  if tget 0 s.scrubbed k < n then .next { s with scrubbed := tset 0 s.scrubbed k (tget 0 s.scrubbed k + 1) }
  else .next s

/-! ### Errors -/

/-- A record about a memory block (DESIGN CHOICE, log entry 61). -/
def State.memRas (s : State) (type count time pa : Nat) : Ras :=
  let (unit, loc) := s.memPlace pa
  { type := type, unit := unit, slot := 255, count := count, time := time, paddr := pa / 64 * 64, loc := loc, detail := 0 }

/-- A PAGERETIRE request for the page of a block: its record, and the service that carries it out (R402, R404). -/
def State.askRetire (s : State) (count time pa : Nat) : State :=
  let s := s.logRas (s.memRas 4 count time pa)
  { s with agenda := .retire pa time :: s.agenda }

/-- CORRECTED_ERROR (R402): the 4th of one block in a sliding 10 minutes asks for the page's retirement
(DEDUCED, log entry 102). -/
def execCorrectedError (a : Nat) (t : Nat) (s : State) : Host.Outcome State Fault Refusal :=
  let b := a / 64 * 64
  let kept := s.corrected.filter fun e => decide (t ≤ e.2 + 600000000)
  let n := (kept.filter fun e => e.1 == b).length + 1
  let s := { s with corrected := kept ++ [(b, t)] }.logRas (s.memRas 1 n t b)
  .next (if n = 4 then s.askRetire n t b else s)

/-- A record of an error in the pool of a core (R376, R405). -/
def poolRas (type slot time cl core : Nat) : Ras :=
  { type := type, unit := 3, slot := slot, count := 1, time := time, paddr := 0, loc := cl + 8 * core, detail := 0 }

/-- Mark state of a group, with a LATENT record; nothing is raised (R376). -/
def State.latent (s : State) (u t : Nat) (f : Group → Group) : State :=
  match s.group? u with
  | none => s
  | some g => (s.modGroup u f).logRas (poolRas 3 (s.slotOf g) t (s.clusterOf g) g.core)

/-- UNCORRECTABLE_ERROR (R376, R377, R402): the half, or the bytes of the block, carry a poison mark. An error
in HBM4E or LPDDR-6 asks for the page's retirement at once (DEDUCED, log entry 102). -/
def execUncorrectableError (e : ErrorSite) (t : Nat) (s : State) : Host.Outcome State Fault Refusal :=
  match e with
  | .vreg g l r h => .next (s.latent g t fun x => x.modLane l fun y => { y with vPoison := insertNat (2 * r + h % 2) y.vPoison })
  | .sreg g r h => .next (s.latent g t fun x => { x with sPoison := insertNat (2 * r + h % 2) x.sPoison })
  | .tile g z el h => .next (s.latent g t fun x => { x with zPoison := x.zPoison ++ [(z, 2 * el + h % 2)] })
  | .hyper g r h => .next (s.latent g t fun x => { x with hPoison := insertNat (512 * r + h % 512) x.hPoison })
  | .spad b off => match s.block? b with
    | none => .next s
    | some x =>
      let s := s.modBlock b fun y => { y with
        spadPoison := insertNat (off / 2 * 2 + 1) (insertNat (off / 2 * 2) y.spadPoison) }
      .next (s.logRas (poolRas 3 x.slot t x.cluster ((x.cores.getD (off / x.partBytes) (0, 0)).1)))
  | .memory pa slice =>
    let b := pa / 64 * 64
    let s := (List.range 64).foldl (fun s i => s.setMark (b + i) true) s
    let r := s.memRas 2 1 t b
    match slice with
    | some c => .next (s.logRas { r with unit := 2, loc := r.loc + c.val })
    | none => .next ((s.logRas r).askRetire 1 t b)

/-- Blocks with a group on a core (R403). -/
def State.blocksOn (s : State) (cl k : Nat) : List Block :=
  s.blocks.filter fun b => s.groups.any fun g => g.block == b.uid && g.core == k && b.cluster == cl

/-- LOGIC_ERROR (R402, R403): the 1st in a sliding second is recorded, and its block is killed and launched
again; the 2nd fences the core, and every block with a group there is launched again, uncounted
(DESIGN CHOICE, log entry 95) (DEDUCED, log entry 103). -/
def execLogicError (c : Fin 8) (k : Fin 32) (b : Option Nat) (t : Nat) (s : State) : Host.Outcome State Fault Refusal :=
  let kept := (s.coreOf c.val k.val).errors.filter fun e => decide (t ≤ e + 1000000)
  let n := kept.length + 1
  let slot := ((b.bind s.block?).map (·.slot)).getD 255
  let r : Ras := { type := 6, unit := 4, slot := slot, count := n, time := t, paddr := 0, loc := c.val + 8 * k.val
                   detail := 0 }
  let s := s.modCore c.val k.val fun x => { x with errors := kept ++ [t] }
  if n < 2 then
    let s := s.logRas r
    .next (match b with
      | some u => s.kill u .counted (List.replicate 64 0)
      | none => s)
  else
    let s := (s.modCore c.val k.val fun x => { x with fenced := true }).logRas { r with type := 7 }
    .next ((s.blocksOn c.val k.val).foldl (fun s b => s.kill b.uid .free []) s)

/-! ### Page retirement -/

/-- What a slot's tables hold: the physical range of each table, the entries that name a next table, and each leaf
with the address of its entry. -/
structure Mapped where
  tables : List (Nat × Nat) := []
  links  : List (Nat × Nat) := []
  leaves : List (Nat × Leaf) := []

/-- The tables and leaves below a table. -/
def mappedFrom (m : List Host.Cell) (slot : Nat) : Nat → Nat → Mapped → Mapped
  | 0, base, x =>
    (List.range 32).foldl (fun x i => match readEntry m slot 0 (base + 16 * i) with
      | .inr (.leaf l) => { x with leaves := (base + 16 * i, l) :: x.leaves }
      | _ => x) { x with tables := (base, tableBytes 0) :: x.tables }
  | level + 1, base, x =>
    (List.range 512).foldl (fun x i => match readEntry m slot (level + 1) (base + 16 * i) with
      | .inr (.leaf l) => { x with leaves := (base + 16 * i, l) :: x.leaves }
      | .inr _ => x
      | .inl next => mappedFrom m slot level next { x with links := (base + 16 * i, next) :: x.links }) { x with tables := (base, tableBytes (level + 1)) :: x.tables }

/-- The same of every slot that is not FREE. -/
def State.mapped (s : State) : Mapped :=
  (s.ctxs.filter fun c => c.state ≠ .free).foldl (fun x c => mappedFrom s.mem c.slot 4 c.ccb.ptroot.toNat x) {}

/-- Two ranges, each an address and a length, meet. -/
def rangesMeet (a b : Nat × Nat) : Bool := decide (a.1 < b.1 + b.2) && decide (b.1 < a.1 + a.2)

/-- Physical ranges that move whole beside those of leaves: page tables, side tables, the fault ring, the areas of
saved blocks, and the images of contexts whose bytes are in memory still (DESIGN CHOICE, log entry 124). -/
def State.heldRanges (s : State) (x : Mapped) : List (Nat × Nat) :=
  x.tables ++ (x.leaves.filterMap fun e => if e.2.kind = .compressed then some (e.2.side, 2 ^ e.2.log2 / 32) else none) ++
    (if s.frbase = 0 then [] else [(s.frbase.toNat, 64 + 64 * 2048)]) ++
    (s.parts.filterMap fun p => if p.2.saveSize = 0 then none else some (p.2.saveBase.toNat, p.2.saveSize.toNat)) ++
    s.images.filterMap fun m =>
      if m.2.body ≠ [] ∧ Memory.reads s.mem (m.1 + 4096) m.2.body.length = m.2.body then some (m.1, 4096 + m.2.body.length)
      else none

/-- The ranges of physical memory that leaves map on this device. -/
def Mapped.pages (x : Mapped) : List (Nat × Nat) :=
  x.leaves.filterMap fun e => if e.2.owner = 255 ∧ !inDevice e.2.base then some (e.2.base, 2 ^ e.2.log2) else none

/-- The smallest aligned run of a power of two bytes, 64 KiB at least, that holds a range. -/
def alignedRun (r : Nat × Nat) : Nat × Nat :=
  let n := (((List.range 30).map fun k => 2 ^ (16 + k)).find? fun n => r.1 / n == (r.1 + r.2 - 1) / n).getD (2 ^ 46)
  (r.1 / n * n, n)

/-- The run that moves when a page retires: with every range that it meets. -/
def growRun (rs : List (Nat × Nat)) : Nat → Nat × Nat → Nat × Nat
  | 0, r => r
  | fuel + 1, r =>
    let ms := rs.filter (rangesMeet r)
    let lo := ms.foldl (fun a m => min a m.1) r.1
    let hi := ms.foldl (fun a m => max a (m.1 + m.2)) (r.1 + r.2)
    let r' := alignedRun (lo, hi - lo)
    if r' = r then r else growRun rs fuel r'

/-- The first of some candidate pages, counted up from one, that is free. -/
def firstFree (free : Nat → Bool) (size : Nat) : Nat → Nat → Option Nat
  | 0, _ => none
  | fuel + 1, at_ => if free at_ then some at_ else firstFree free size fuel (at_ + size)

/-- The tier of a physical address: its first byte and its length (R362). -/
def tierOf (pa : Nat) : Nat × Nat := if inTier 0 pa then (0, 2 ^ 39) else (2 ^ 41, 2 ^ 41)

/-- A new page of a tier for a page of a size: the lowest that holds nothing, is mapped by no leaf, and is neither
retired nor left out of every map (R404) (DESIGN CHOICE, log entry 124). -/
def State.newPage (s : State) (x : Mapped) (tier : Nat × Nat) (size : Nat) : Option Nat :=
  let used := s.heldRanges x ++ x.pages ++ s.retired.map fun p => (p * 65536, 65536)
  let holds (at_ : Nat) : Bool := (s.mem.any fun e => decide (at_ ≤ e.1) && decide (e.1 < at_ + size)) ||
    s.memPoison.any fun a => decide (at_ ≤ a) && decide (a < at_ + size)
  firstFree (fun at_ => !s.leftOut at_ && !(used.any fun r => rangesMeet r (at_, size)) && !holds at_) size
    (tier.2 / size) tier.1

/-- The ADDR of an entry is written anew, with V = 1 (R361, R404). -/
def State.moveLeaf (s : State) (at_ pa : Nat) : State :=
  let w := leNat (Memory.reads s.mem at_ 8)
  s.physWrite at_ (mbClean (natLe 8 (w / 2 ^ 52 * 2 ^ 52 + pa + w % 4096)))

/-- A page's bytes and marks go to another page (R404); decoded marks of compressed blocks too. -/
def State.copyPage (s : State) (old new size : Nat) : State :=
  let inside (a : Nat) : Bool := decide (old ≤ a) && decide (a < old + size)
  let s := (s.mem.filter fun e => inside e.1).foldl (fun s e =>
    { s with mem := Memory.write s.mem (new + (e.1 - old)) e.2 }) s
  let s := (s.memPoison.filter inside).foldl (fun s a => s.setMark (new + (a - old)) true) s
  { s with codedPoison := (s.codedPoison.filter inside).foldl (fun l a => insertNat (new + (a - old)) l) s.codedPoison }

/-- Cached translations of a physical range, and its instruction lines, are dropped. -/
def State.forgetLines (s : State) (inside : Nat → Nat → Bool) : State :=
  let pins (c : ClusterState) : ClusterState := { c with pins := c.pins.filter fun p => !inside (p.2.1 * 128) 128 }
  { s with
    tlbs := s.tlbs.filter fun t => !(t.owner == 255 && inside t.base (2 ^ t.log2))
    clusters := s.clusters.map fun e => (e.1, pins e.2) }

/-- The pending records of accesses to a physical range. -/
def State.recordsAt (s : State) (p : Nat → Nat → Bool) : List Record :=
  s.records.filter fun r => r.unit && match s.walk r.slot r.addr.toNat with
    | .leaf l => decide (l.owner = 255) && p (l.base + r.addr.toNat % 2 ^ l.log2) 1
    | _ => false

/-- Everything that names a physical address of a run that has moved names the new one (R404): the entries of the
tables, side tables, the table roots, the fault ring, the areas of saved blocks and the images. -/
def State.repoint (s : State) (x : Mapped) (moved : Nat → Nat) : State :=
  let go (a : DWord) : DWord := BitVec.ofNat 64 (moved a.toNat)
  let s := (x.links ++ x.leaves.filterMap fun e => if e.2.owner = 255 then some (e.1, e.2.base) else none).foldl
    (fun s e => if moved e.2 = e.2 then s else s.moveLeaf (moved e.1) (moved e.2)) s
  let s := x.leaves.foldl (fun s e => if e.2.kind = .compressed ∧ moved e.2.side ≠ e.2.side then
    s.physWrite (moved e.1 + 8) (mbClean (natLe 8 (moved e.2.side))) else s) s
  { s with
    ctxs := s.ctxs.map fun c => { c with ccb := { c.ccb with ptroot := go c.ccb.ptroot }, saveAt := go c.saveAt }
    xalls := s.xalls.map fun x => { x with root := x.root.map go }
    frbase := if s.frbase = 0 then 0 else go s.frbase
    parts := s.parts.map fun p => (p.1, if p.2.saveSize = 0 then p.2 else { p.2 with saveBase := go p.2.saveBase })
    images := s.images.map fun m => (moved m.1, m.2) }

/-- The service carries out a PAGERETIRE request (R404): the page moves to a new one of its tier, with the whole of
every page, table or area that lies in it; cached translations and lines of it go, its records are answered RETRY, and
the old 64 KiB page enters the retirement table of 4,096 pages for each tier (DESIGN CHOICE, log entry 124). -/
def State.retirePage (s : State) (pa time : Nat) : State :=
  let x := s.mapped
  let page := pa / 65536
  let tier := tierOf pa
  let full : Bool := decide (4096 ≤ (s.retired.filter fun p => tierOf (p * 65536) == tier).length)
  let rs := s.heldRanges x ++ x.pages
  let (old, size) := growRun rs (rs.length + 1) (page * 65536, 65536)
  if s.running.isNone ∨ s.retired.contains page ∨ full then s
  else match s.newPage x tier size with
    | none => s
    | some new =>
      let inside (a n : Nat) : Bool := rangesMeet (a, n) (old, size)
      let parked := s.recordsAt inside
      let s := s.writeBack fun f => inside (f.line * 128) 128
      let s := s.forgetLines inside
      let s := s.copyPage old new size
      let s := s.repoint x fun a => if old ≤ a ∧ a < old + size then new + (a - old) else a
      let s := parked.foldl (fun s r => s.answer r 1) s
      let r := s.memRas 5 1 time (pa / 64 * 64)
      { s with retired := insertNat page s.retired }.logRas
        { r with detail := BitVec.ofNat 64 ((new + (page * 65536 - old)) / 65536) }

/-! ### Rails -/

/-- The level at which no rail gap remains sets the SRAM rail, in mV (R10, R396). -/
def sramLevel : Nat := railOf 5

/-- POWER_UP (R397): the SRAM rail settles, and only then the logic rails rise (DEDUCED, log entry 104). -/
def execPowerUp (s : State) : Host.Outcome State Fault Refusal :=
  if s.sramRail ≠ sramLevel then .next { s with sramRail := sramLevel }
  else .next ((List.range 8).foldl (fun s n => s.modCluster n fun c => { c with rail := railOf c.level }) s)

/-- POWER_DOWN (R397): every logic rail reaches 0 V, and only then the SRAM rail falls (DEDUCED, log entry 104). -/
def execPowerDown (s : State) : Host.Outcome State Fault Refusal :=
  if (List.range 8).any fun n => (s.cluster n).rail != 0 then
    .next ((List.range 8).foldl (fun s n => s.modCluster n fun c => { c with rail := 0 }) s)
  else .next { s with sramRail := 0 }

end Sys2Proof.Machine
end

