-- ==== Sys2Proof/Machine/Links.lean ====
section
/-! DEFINITION. Links to the pod, device-register writes, boot (22 R415, R417-R423; 20 R393, R394). -/

namespace Sys2Proof.Machine

/-! ### Device registers -/

/-- HEADCTL_WRITE (R394). -/
def execHeadctlWrite (h : Fin 4) (v : Word) (s : State) : Host.Outcome State Fault Refusal := .next (s.writeHeadCtl h.val v)

/-- REGISTER_WRITE (R393, R415): a word written to an offset of the device-register pages. -/
def execRegisterWrite (a : BitVec 17) (v : Word) (s : State) : Host.Outcome State Fault Refusal := .next (s.regWrite a.toNat v)

/-! ### The pod -/

/-- The pod id that the switches assign, and the ports that are up: a port whose switch disagrees is disabled
(R417). -/
def trained (x : List (Option (Fin 144))) : Option Nat × List Nat :=
  let ids : List (Option Nat) := (List.range 18).map fun p => (x.getD p none).map fun i => i.val
  match ids.findSome? fun i => i with
  | none => (none, [])
  | some id => (some id, (List.range 18).filter fun p => ids.getD p none == some id)

/-- The ports that are up, and the peers that are lost when none is (R418, R423). -/
def State.setPorts (s : State) (up : List Nat) : State :=
  { s with
    tomup := BitVec.ofNat 32 (up.map fun p => 2 ^ p).sum
    lost := if up = [] then List.range 144 else s.lost }

/-- The pod id, with PODID of BRINGUP0 (R423). -/
def State.setPod (s : State) (id : Option Nat) : State :=
  { s with podId := id, bringup0 := (s.bringup0 &&& 0x00FFFFFF) ||| BitVec.ofNat 32 (2 ^ 24 * id.getD 0xFF) }

/-- LINK_TRAINING (R417): by port, the id its switch assigned (DEDUCED, log entry 106). -/
def execLinkTraining (x : List (Option (Fin 144))) (s : State) : Host.Outcome State Fault Refusal :=
  let (id, up) := trained x
  .next (({ s with lost := [] }.setPod id).setPorts up)

/-- PORT_DOWN (R418): its lines travel on the next port that is up (DEDUCED, log entry 106). -/
def execPortDown (p : Fin 18) (s : State) : Host.Outcome State Fault Refusal :=
  .next (s.setPorts ((List.range 18).filter fun i => s.tomup.getLsbD i && i != p.val))

/-- A peer's bytes lie in HBM4E or LPDDR-6, in no memory that is left out of every map (R362, R422)
(DEDUCED, log entry 107). -/
def State.peerRange (s : State) (pa n : Nat) : Bool :=
  !s.leftOut pa && !s.leftOut (pa + n - 1) &&
    (inTier 0 pa && inTier 0 (pa + n - 1) || inTier 1 pa && inTier 1 (pa + n - 1))

/-- PEER_REQUEST (R72, R418): a peer's store is performed, or its atomic by the memory-side unit; the value that
a load or an atomic returns travels to the peer (DEDUCED, log entry 107). -/
def execPeerRequest (p : PeerFlit) (s : State) : Host.Outcome State Fault Refusal :=
  match p with
  | .load _ _ => .next s
  | .store pa data =>
    if s.peerRange pa.toNat data.length then .next (s.physWrite pa.toNat (mbClean data)) else .next s
  | .rmw o t pa x y =>
    let n := 4 * t.regs
    let bad : Bool := (List.range n).any fun i => s.marked (pa.toNat + i)
    if !s.peerRange pa.toNat n ∨ pa.toNat % n ≠ 0 ∨ bad then .next s
    else
      let old := leNat (Memory.reads s.mem pa.toNat n)
      let arg (v : DWord) : Nat := v.toNat % 2 ^ (8 * n)
      .next (s.physWrite pa.toNat (mbClean (natLe n (atomNew o t old (arg x) (arg y)))))

/-! ### Boot -/

/-- The boot ROM accepts the image at an offset of the flash (R419, R420): what runs of it, and its SECVER. -/
def State.image (s : State) (at_ : Nat) : Option (Firmware × Nat) :=
  let h := Memory.reads s.flash at_ 128
  let n := fieldOf h 8 4
  let sec := fieldOf h 4 4
  if fieldOf h 0 4 ≠ 0x49575648 ∨ 62 * 2 ^ 20 < n ∨ n % 64 ≠ 0 ∨ (h.drop 76).any (fun x => x != 0) then none
  else
    let key := (h.drop 16).take 60
    let msg := Memory.reads s.flash at_ (128 + n)
    let sig := Memory.reads s.flash (at_ + 128 + n) 3604
    if sha256 key = (List.range 32).map Config.rootHash ∧ hssVerify key msg sig = true ∧ s.fuses ≤ sec then
      some ({ offset := at_, length := n, entry := fieldOf h 12 4 }, sec)
    else none

/-- What a reset leaves: flash, fuses, the leaf counter, the retirement table, the SRAM rail with the logic rails at
level 0, memory as it stands, and the model's own counters and inputs (DESIGN CHOICE, log entries 9 and 133)
(DEDUCED, log entry 105). -/
def State.afterReset (s : State) : State :=
  let s1 : State := { State.reset with
    agenda := s.agenda, periods := s.periods, undefCtr := s.undefCtr, undefCtrs := s.undefCtrs, fresh := s.fresh, mem := s.mem
    memPoison := s.memPoison, codedPoison := s.codedPoison, retired := s.retired, flash := s.flash, fuses := s.fuses
    leaf := s.leaf, sramRail := s.sramRail }
  if s.sramRail = 0 then s1
  else (List.range 8).foldl (fun t n => t.modCluster n fun c => { c with rail := railOf c.level }) s1

/-- BRINGUP0 at the end of bring-up (R423), but for PODID. -/
def bringupWord (b : BringUp) (image : Bool) : Word :=
  BitVec.ofNat 32 (2 ^ 20 * b.ue.toNat + 2 ^ 12 * b.hbm.toNat + (if image then 2 ^ 11 else 0) + 2 ^ 8 * 5)

/-- The service as a task of slot 0: eight blocks of one thread that begin at an address
(DESIGN CHOICE, log entry 123). -/
def firmwareTask (entry : DWord) : TaskRec :=
  { kaddr := entry, partword := 0x01041041, nblocks := 8, threads := 1, width := 8, prio := 0, persist := false
    roles := [(0, 8), (0, 8), (0, 8)], vregs := 512, sregs := 1024, hcount := 16, ccount := 4, zcount := 16
    ept := 0, ipeak := 0, parent := 0, arg := 0 }

/-- The resident service begins at the image's ENTRY, one of its blocks on each Waystation core (R11, R343, R420,
R422) (DESIGN CHOICE, log entry 123). -/
def State.startService (s : State) (f : Firmware) : State :=
  let s := s.setCtx { slot := 0, state := .live, ccb := { sys := true, ptroot := Config.bootPtroot } }
  let (u, s) := s.newId
  let t := firmwareTask (Config.payloadAt + BitVec.ofNat 64 f.entry)
  let s := { s with running := some f, grids := s.grids ++ [{ mkGrid u 0 [] t .compute 0 [] with placed := 8 }] }
  (List.range 8).foldl (fun s k => s.placeBlock u k 0 8 [(k, 0, [0])]) s

/-- BOOT (R419, R422, R423): reset, image A or else B, the stacks, packages and ports that train, slot 0 with
SYS, and the service listens; then the fuses. With no image the ROM alone answers (DEDUCED, log entry 105). -/
def execBoot (b : BringUp) (s : State) : Host.Outcome State Fault Refusal :=
  let s := s.afterReset
  match s.image 0 <|> s.image 0x4000000 with
  | none => .next s
  | some (f, sec) =>
    let (id, up) := trained b.ids
    let s := { s with
      bringup0 := bringupWord b (decide (f.offset ≠ 0)), lpok := b.lpddr, failed := ~~~ b.lpddr ++ ~~~ b.hbm
      fuses := max s.fuses (min 64 sec) }
    .next (((s.setPod id).setPorts up).startService f)

end Sys2Proof.Machine
end

