-- ==== Sys2Proof/Machine/Turn.lean ====
section
/-! DEFINITION. What moves next: the agenda, the clause in flight of the group whose turn it is, else a step
of the device that is due (02 R17, R27; log entry 34). -/

namespace Sys2Proof.Machine

/-- What a step does. -/
inductive Move where
  /-- A step of the device that the agenda names. -/
  | event (i : Instr) (s : State)
  /-- The next instruction of a clause in flight, of `n` words; the group and the clause as it issues. -/
  | instr (i : Instr) (n : Nat) (g : Group) (c : Clause) (s : State)
  /-- The words at the clause in flight do not decode. -/
  | stuck
  /-- No clause issues: the device moves on. -/
  | device (s : State)

/-- A clause that waits may try its instruction again: the token slot it needs is free, or a token store has
room (R245, R305). -/
def State.retriable (s : State) (g : Group) (w : Wait) : Bool :=
  match w with
  | .tokenSlot => (s.takeToken (s.slotOf g)).isSome
  | .storeSpace n => (s.storeRoom n).isSome
  | _ => false

/-- The group whose turn it is loses it. -/
def State.noTurn (s : State) : State := { s with turn := none }

/-- The next instruction of a group's clause in flight. -/
def State.issueMove (s : State) (u : Nat) : Move :=
  match s.group? u with
  | none => .device s.noTurn
  | some g =>
    match g.clause with
    | none => .device s.noTurn
    | some c =>
      let held : Bool := match c.wait with
        | none => false
        | some w => !s.retriable g w
      if held then .device s.noTurn
      else
        let c := { c with wait := none }
        let g := { g with clause := some c }
        let s := { s.setGroup g with turn := some u }
        match c.instr with
        | none => .stuck
        | some (i, n) =>
          if Instr.parks i && s.owes u && decide (c.exec ≠ 0) then .device (s.holdClause u .answers).noTurn
          else .instr i n g c s

/-- A route's word of ROUTECTL takes effect (R415). -/
def State.routeMove (s : State) (slot r : Nat) (en : Bool) : State :=
  if h : slot < 64 then
    match if en then execRouteEnable ⟨slot, h⟩ (BitVec.ofNat 12 r) s
        else execRouteDisable ⟨slot, h⟩ (BitVec.ofNat 12 r) s with
    | .next t => t
    | _ => s
  else s

/-- An active read of a pool error counts as a logic error of its core (R402). -/
def State.logicMove (s : State) (cl core block time : Nat) : State :=
  if h : cl < 8 ∧ core < 32 then
    match execLogicError ⟨cl, h.1⟩ ⟨core, h.2⟩ (some block) time s with
    | .next t => t
    | _ => s
  else s

/-! ### Requests in order (R414) -/

/-- The service request that a step of the device is. -/
def Instr.req? : Instr → Option Req
  | .create q _ | .destroy q _ | .mapPages q _ | .unmapPages q _ _ | .residency q _ _ _ _ | .enqueue q _ _
  | .readMem q _ _ | .writeMem q _ _ | .watchRequest q _ _ | .replayRequest q _ _ | .telemetry q
  | .raslogRequest q | .attest q _ | .bootstatus q | .svcanswer q _ _ | .faultanswer q _ _ | .resume q _
  | .bindSlot q _ => some q
  | _ => none

/-- A step is a request of a ROD connection. -/
def Instr.rodOn (conn : Nat) (i : Instr) : Bool :=
  match Instr.req? i with
  | some q => q.rod && q.conn == conn
  | none => false

/-- A request of a ROD connection has begun and has no response yet. -/
def State.unanswered (s : State) (conn : Nat) : Bool :=
  let mine (q : Req) : Bool := q.rod && q.conn == conn
  (s.ctxs.any fun c => c.asked.any mine) || s.tasks.any fun t => mine t.req

/-- A request waits for an earlier one of its ROD connection (R414). -/
def State.mustWait (s : State) (i : Instr) : Bool :=
  match Instr.req? i with
  | some q => q.rod && (s.unanswered q.conn || s.waiting.any (Instr.rodOn q.conn))
  | none => false

/-- The first of the waiting requests whose connection has no unanswered one. -/
def State.nextWaiting (s : State) : Option Instr :=
  s.waiting.find? fun i => match Instr.req? i with
    | some q => !s.unanswered q.conn
    | none => true

/-- A step of the device that the agenda names: a request that must wait joins those that wait (R414). -/
def State.eventMove (s : State) (i : Instr) : Move :=
  if s.mustWait i then .device { s with waiting := s.waiting ++ [i] } else .event i s

/-- What moves next (DESIGN CHOICE, log entry 34). -/
def State.nextMove (s : State) : Move :=
  match s.nextWaiting with
  | some i => .event i { s with waiting := s.waiting.erase i }
  | none =>
    match s.agenda with
    | .event i :: rest => { s with agenda := rest }.eventMove i
    | .issue u :: rest => { s with agenda := rest }.issueMove u
    | .route slot r en :: rest => .device ({ s with agenda := rest }.routeMove slot r en)
    | .logic cl core b t :: rest => .device ({ s with agenda := rest }.logicMove cl core b t)
    | .retire pa t :: rest => .device ({ s with agenda := rest }.retirePage pa t)
    | [] => match s.turn with
      | some u => s.issueMove u
      | none => .device s

/-- The counter of free values advances. -/
def State.tick (s : State) : State := { s with undefCtr := s.undefCtr + 1 }

/-! ### Placing an instruction for the host -/

/-- A task record of one thread, 8 lanes wide, with every allocation at its largest. -/
def hostTask : TaskRec :=
  { kaddr := 8, partword := 0x01041041, nblocks := 1, threads := 1, width := 8, prio := 0, persist := false
    roles := [(0, 8), (0, 8), (0, 8)], vregs := 512, sregs := 1024, hcount := 16, ccount := 4, zcount := 16
    ept := 0, ipeak := 0, parent := 0, arg := 0 }

/-- A block of that task in a slot: slot 0's stands on the Waystation's cores (log entry 123). -/
def hostBlock (slot : Nat) : Block :=
  { uid := 0, slot := slot, grid := 0, bid := 0, kind := .compute, task := hostTask
    cluster := if slot = 0 then 8 else 0
    cores := [(0, 0)], spad := [], lines := [], spadPoison := [], launchSeq := 0, relaunches := 0
    renders := 0, verts := [], prims := [], ngroups := 1, energy := 0, current := 0, order := 0 }

/-- Its group, with one live lane and a clause of one instruction in flight. -/
def hostGroup (ws : List Word) : Group :=
  { uid := 0, block := 0, gid := 0, width := 8
    lanes := { pc := 8, st := .runnable } :: List.replicate 7 {}
    k := List.replicate 8 1, flags := 1, lastIssue := some 0
    clause := some {
      header := 8, word := 12, buf := ws, idx := 0, count := 1, setA := some 0, setB := none, tie := 0
      path := 1, exec := 1, moved := 0, partialDone := 0, after := 24, nextAt := 24, wait := none
      deferred := [] } }

/-- The machine with the words of a number as the next instruction of the clause in flight: a load of the
program from outside the machine (DESIGN CHOICE, log entry 35). -/
def State.placeWords (s : State) (w : Nat) : State :=
  let ws : List Word := [BitVec.ofNat 32 w, BitVec.ofNat 32 (w / 2 ^ 32), BitVec.ofNat 32 (w / 2 ^ 64)]
  let slot := if w / 2 ^ 28 % 16 = 14 then 0 else 1
  { s with
    agenda := [], turn := some 0, groups := [hostGroup ws], blocks := [hostBlock slot]
    ctxs := putCtx { slot := slot, state := .live, ccb := { sys := decide (slot = 0) } } s.ctxs }

/-! ### Undefined values of a context -/

/-- The slot of a group. -/
def State.slotOfGroup (s : State) (u : Nat) : Option Nat := (s.group? u).map s.slotOf

/-- The context whose Undefined values a step of the device may draw (R4). -/
def State.drawsFor (s : State) : Instr → Option Nat
  | .flagClear u _ | .faultBufferRetry u | .mloopIteration u _ | .fragmentRetire u _ | .clauseBegin u _ => s.slotOfGroup u
  | .tokenResolve c _ | .routeEntryWake c _ | .routeSpaceWake c _ | .nodeFire c _ _ => some c.val
  | .caravanLand n => (s.caravans.find? fun c => c.num == n).bind fun c => s.slotOfGroup c.group
  | .xallComplete n _ => (s.xalls[n]?).map fun x => x.slot
  | .faultAnswer n _ => (s.records.find? fun r => r.num == n).map fun r => r.slot
  | .faultanswer q _ _ => some q.slot.val
  | .binStage w | .partialRender w | .finalRender w => (s.draw? w).map fun d => d.slot
  | .replayComplete n => (s.replay? n).map fun r => r.slot
  | _ => none

/-- The values of a step are drawn: the next step of the context draws others (log entry 1). -/
def State.drawnBy (s : State) (k : Option Nat) (t : State) : State :=
  match k with
  | some n => s.drawnIf n t
  | none => t

/-! ### The device's own steps -/

/-- A step of the device. -/
abbrev DeviceStep := State → Host.Outcome State Fault Refusal

/-- Steps of the device with the context whose Undefined values they may draw. -/
abbrev DeviceSteps := List (Option Nat × DeviceStep)

/-- Steps that draw values of a context. -/
def stepsFor (k : Nat) (fs : List DeviceStep) : DeviceSteps := fs.map fun f => (some k, f)

/-- Steps that draw none. -/
def plainSteps (fs : List DeviceStep) : DeviceSteps := fs.map fun f => (none, f)

/-- The first of some steps that changes the state. -/
def State.firstOf (s : State) : DeviceSteps → Option State
  | [] => none
  | (k, f) :: fs => match f s with
    | .next t => if t = s then s.firstOf fs else some (match k with | some n => t.drawn n | none => t)
    | _ => s.firstOf fs

/-- The answer that the service has stored to a record's entry of the fault ring (R416) (DEDUCED, log entry 24). -/
def State.ringAnswer (s : State) (r : Record) : Word :=
  match r.ring with
  | some i => BitVec.ofNat 32 (leNat (Memory.reads s.mem (s.ringEntry i + 60) 4))
  | none => 0

/-- A clause in flight that nothing holds takes its turn. -/
def resumeClause (u : Nat) : DeviceStep := fun s =>
  match (s.group? u).bind fun g => g.clause.map fun c => (g, c) with
  | none => .next s
  | some (g, c) =>
    let ready : Bool := match c.wait with
      | none => true
      | some w => s.retriable g w
    if ready then .next { s with turn := some u } else .next s

/-- Answers to faults, and records that wait for the ring. -/
def State.answerSteps (s : State) : DeviceSteps :=
  (s.records.flatMap fun r =>
    stepsFor r.slot [execFaultAnswer r.num (s.ringAnswer r), execFaultAnswer r.num r.answer]) ++
    plainSteps [fun s => .next s.mirror]

/-- Steps of one group: its flags, its wakes, its turn order, a JOIN that none can release. -/
def State.groupSteps (s : State) (g : Group) : DeviceSteps :=
  stepsFor (s.slotOf g) (((List.finRange 12).map fun f => execFlagClear g.uid f) ++
    [execFullBitWake g.uid, execFaultBufferRetry g.uid, execPhaseBarrierWake g.uid, execHaltWake g.uid] ++
    (g.joinSites.map fun a => execJoinRelease g.uid a) ++
    [fun s => .next (s.joinDead g.uid), execFairnessTimer g.uid])

/-- Copies, matrix work and collectives. -/
def State.engineSteps (s : State) : DeviceSteps :=
  (s.caravans.map fun c => (s.slotOfGroup c.group, execCaravanLand c.num)) ++
  (s.engines.filterMap fun e => match e.instr with
    | .mloop _ _ z _ => some (s.slotOfGroup e.group, execMloopIteration e.group z)
    | _ => none) ++
  s.xalls.zipIdx.flatMap fun e => stepsFor e.1.slot [execXallStart e.2, execXallComplete e.2 []]

/-- Routes, waiting faults and the service's operations of one context. -/
def ctxSteps (c : Ctx) : DeviceSteps :=
  if h : c.slot < 64 then
    stepsFor c.slot ((c.routes.flatMap fun r => [execRouteEntryWake ⟨c.slot, h⟩ (BitVec.ofNat 12 r.1),
      execRouteSpaceWake ⟨c.slot, h⟩ (BitVec.ofNat 12 r.1)]) ++
    [fun s => .next (s.popHandler c.slot),
      execContextSaveComplete ⟨c.slot, h⟩, execContextLoadComplete ⟨c.slot, h⟩])
  else []

/-- The completions of a token's operation. -/
def tokenSteps (slot tok : Nat) : DeviceSteps :=
  if h : slot < 64 then
    let c : Slot := ⟨slot, h⟩
    let t := BitVec.ofNat 8 tok
    stepsFor slot [execTokenResolve c t, execTlbinvComplete c t, execResfenceComplete c t, execPgattrComplete c t]
  else []

/-- Write-backs of routes that are busy. -/
def busySteps (slot r : Nat) : DeviceSteps :=
  if h : slot < 64 then plainSteps [execRouteWritebackDone ⟨slot, h⟩ (BitVec.ofNat 12 r)] else []

/-- Barriers, re-packs and continuations. -/
def State.blockSteps (s : State) : DeviceSteps :=
  (s.blocks.flatMap fun b =>
    stepsFor b.slot (execBarrierResolve b.uid :: (List.finRange 32).map fun k => execRepackComplete b.uid k)) ++
  plainSteps ((List.range s.conts.length).map fun n => execContinuationSpawn n)

/-- No earlier draw of the context that names the same parameter memory is in the machine: of such draws one
at a time is binned and rendered (log entry 34). -/
def State.ownsParams (s : State) (d : Draw) : Bool :=
  !s.draws.any fun x => decide (x.uid < d.uid) && x.slot == d.slot && sbNat x.sb 24 8 == sbNat d.sb 24 8

/-- Draws, fragments, work-graph nodes and replays. -/
def State.pipeSteps (s : State) : DeviceSteps :=
  ((s.draws.filter s.ownsParams).flatMap fun d =>
    stepsFor d.slot [execBinStage d.uid, execPartialRender d.uid, execFinalRender d.uid]) ++
  (s.groups.flatMap fun g => stepsFor (s.slotOf g) ((List.range g.lanes.length).map fun l => execFragmentRetire g.uid l)) ++
  (s.clusters.flatMap fun e => e.2.store.flatMap fun r =>
    if h : r.slot < 64 then stepsFor r.slot [execNodeFire ⟨r.slot, h⟩ r.node r.tag] else []) ++
  s.replays.flatMap fun r => stepsFor r.slot [execReplayComplete r.num]

/-- Saves, placements and retirements. -/
def State.scheduleSteps (s : State) : DeviceSteps :=
  plainSteps ((s.preempting.map fun p => execBlockSave p.1) ++ ((List.finRange 8).map fun p => execBlockPlacement p) ++
    (fun s => .next (s.placeHead none 8)) :: s.groups.map fun g => execGroupRetire g.uid)

/-! ### Which clause begins (R24, R387) -/

/-- Lanes of the paths of a group that may begin a clause, one of each path, in the order in which they are tried:
the running one, the one that has waited longest, the rest (R24). -/
def State.readyLanes (s : State) (g : Group) : List Nat :=
  if g.clause.isSome || s.stopped g then []
  else
    let ls := (List.range g.lanes.length).filter fun l => s.mayIssue g l
    let first (p : DWord) : List Nat := (ls.filter fun l => decide ((g.lane l).pc = p)).take 1
    let heads := ls.filter fun l => !ls.any fun k => decide (k < l) && decide ((g.lane k).pc = (g.lane l).pc)
    let front := first g.lastPc ++ (g.longestWait.map first).getD []
    front ++ heads.filter fun l => !front.contains l

/-- A path's next clause issues on port A: its first instruction says so (R387); a clause that cannot be read
counts for port A. -/
def State.portA (s : State) (g : Group) (l : Nat) : Bool :=
  let w : Who := { s.who g with replay := none }
  let at_ := (s.nextMarked w skipSlots (codeSlot (g.lane l).pc)).toOption.getD (g.lane l).pc
  match s.codeWord w at_ with
  | .error _ => true
  | .ok h =>
    let a := nextSlot at_
    match s.codeWord w (if h.getLsbD 21 then nextSlot a else a) with
    | .error _ => true
    | .ok x => onPortA x.toNat

/-- The partition of a group's issue slot: cluster, core, partition of the core (R7, R387). -/
def State.corePart (s : State) (g : Group) : Nat := (s.clusterOf g * 32 + g.core) * 6 + g.hwslot / 12

/-- The number of a group's last issue on a port, 0 when it never issued there. -/
def Group.lastOn (g : Group) (a : Bool) : Nat :=
  match (if a then g.lastA else g.lastB) with
  | none => 0
  | some n => n + 1

/-- Insert behind those with a key that is not higher. -/
def insertBy {α : Type} (lt : α → α → Bool) (x : α) : List α → List α
  | [] => [x]
  | y :: ys => if lt x y then x :: y :: ys else y :: insertBy lt x ys

/-- The order of lists of numbers by their first difference. -/
def keyLt : List Nat → List Nat → Bool
  | [], _ | _, [] => false
  | a :: as, b :: bs => if a = b then keyLt as bs else decide (a < b)

/-- The clauses that are ready: group and lane, those of one group in the order of R24. -/
def State.ready (s : State) : List (Group × Nat) := s.groups.flatMap fun g => (s.readyLanes g).map fun l => (g, l)

/-- The partitions with a ready clause, the one least recently served first (DESIGN CHOICE, log entry 44). -/
def State.readyParts (s : State) (xs : List (Group × Nat)) : List Nat :=
  let served (p : Nat) : Nat :=
    ((s.groups.filter fun g => s.corePart g == p).map fun g => max (g.lastOn true) (g.lastOn false)).foldl max 0
  let ps := (xs.map fun x => s.corePart x.1).dedup.map fun p => [served p, p]
  (ps.foldl (fun l p => insertBy keyLt p l) []).map fun k => k.getD 1 0

/-- The ready clauses of a partition: of its two ports the one least recently served comes first, and on a port the
highest priority, then the group that issued on that port least recently (R387) (DESIGN CHOICE, log entry 44). -/
def State.portSteps (s : State) (xs : List (Group × Nat)) (p : Nat) : DeviceSteps :=
  let served (a : Bool) : Nat := ((s.groups.filter fun g => s.corePart g == p).map fun g => g.lastOn a).foldl max 0
  let key (x : Group × Nat) : List Nat × Group × Nat :=
    let a := s.portA x.1 x.2
    ([served a, if a then 0 else 1, 7 - (s.taskOfGroup x.1).prio, x.1.lastOn a], x)
  let ks := (xs.filter fun x => s.corePart x.1 == p).map key
  (ks.foldl (fun l k => insertBy (fun a b => keyLt a.1 b.1) k l) []).map fun k =>
    (some (s.slotOf k.2.1), execClauseBegin k.2.1.uid k.2.2)

/-- The first ready clause of some partitions that begins. -/
def State.firstBegin (s : State) (xs : List (Group × Nat)) : List Nat → Option State
  | [] => none
  | p :: ps => match s.firstOf (s.portSteps xs p) with
    | some t => some t
    | none => s.firstBegin xs ps

/-- Steps of the device that are due, in the order they are tried (log entry 34). What only the world outside
or the passing of time brings about is not among them. -/
def State.dueSteps (s : State) : DeviceSteps :=
  s.answerSteps ++ plainSteps (s.groups.map fun g => resumeClause g.uid) ++ s.groups.flatMap s.groupSteps ++ s.engineSteps ++
  (s.busyRoutes.flatMap fun b => busySteps b.1 b.2) ++ s.ctxs.flatMap ctxSteps ++
  (s.tokenOps.flatMap fun o => tokenSteps o.1 o.2.1) ++ s.blockSteps ++ s.pipeSteps ++ s.scheduleSteps

/-- What the device does of itself: the first due step that does something, and with none of them a ready clause
begins; none when it is idle. -/
def State.moved (s : State) : Option State :=
  match s.firstOf s.dueSteps with
  | some t => some t
  | none => s.firstBegin s.ready (s.readyParts s.ready)

/-- The device moves on. -/
def State.deviceTurn (s : State) : State := s.moved.getD s

end Sys2Proof.Machine
end

