-- ==== Sys2Proof/Machine/Dispatch.lean ====
section
/-! DEFINITION. Every constructor of `Instr` and its meaning. -/

namespace Sys2Proof.Machine

/-- What an instruction, or a step of the device, does to the machine. -/
def exec (i : Instr) (s : State) : Host.Outcome State Fault Refusal :=
  match i with
  | .sadd x0 x1 x2 => Sys2Proof.Machine.execSadd x0 x1 x2 s
  | .ssub x0 x1 x2 => Sys2Proof.Machine.execSsub x0 x1 x2 s
  | .smul x0 x1 x2 => Sys2Proof.Machine.execSmul x0 x1 x2 s
  | .smulh x0 x1 x2 => Sys2Proof.Machine.execSmulh x0 x1 x2 s
  | .smulhU x0 x1 x2 => Sys2Proof.Machine.execSmulhU x0 x1 x2 s
  | .sand x0 x1 x2 => Sys2Proof.Machine.execSand x0 x1 x2 s
  | .sor x0 x1 x2 => Sys2Proof.Machine.execSor x0 x1 x2 s
  | .sxor x0 x1 x2 => Sys2Proof.Machine.execSxor x0 x1 x2 s
  | .sshl x0 x1 x2 => Sys2Proof.Machine.execSshl x0 x1 x2 s
  | .sshr x0 x1 x2 => Sys2Proof.Machine.execSshr x0 x1 x2 s
  | .ssar x0 x1 x2 => Sys2Proof.Machine.execSsar x0 x1 x2 s
  | .smin x0 x1 x2 => Sys2Proof.Machine.execSmin x0 x1 x2 s
  | .smax x0 x1 x2 => Sys2Proof.Machine.execSmax x0 x1 x2 s
  | .sminu x0 x1 x2 => Sys2Proof.Machine.execSminu x0 x1 x2 s
  | .smaxu x0 x1 x2 => Sys2Proof.Machine.execSmaxu x0 x1 x2 s
  | .ssel x0 x1 x2 x3 => Sys2Proof.Machine.execSsel x0 x1 x2 x3 s
  | .sclz x0 x1 => Sys2Proof.Machine.execSclz x0 x1 s
  | .spop x0 x1 => Sys2Proof.Machine.execSpop x0 x1 s
  | .smov x0 x1 => Sys2Proof.Machine.execSmov x0 x1 s
  | .scmpEq x0 x1 x2 => Sys2Proof.Machine.execScmpEq x0 x1 x2 s
  | .scmpNe x0 x1 x2 => Sys2Proof.Machine.execScmpNe x0 x1 x2 s
  | .scmpLt x0 x1 x2 => Sys2Proof.Machine.execScmpLt x0 x1 x2 s
  | .scmpLe x0 x1 x2 => Sys2Proof.Machine.execScmpLe x0 x1 x2 s
  | .scmpGt x0 x1 x2 => Sys2Proof.Machine.execScmpGt x0 x1 x2 s
  | .scmpGe x0 x1 x2 => Sys2Proof.Machine.execScmpGe x0 x1 x2 s
  | .scmpLtu x0 x1 x2 => Sys2Proof.Machine.execScmpLtu x0 x1 x2 s
  | .scmpLeu x0 x1 x2 => Sys2Proof.Machine.execScmpLeu x0 x1 x2 s
  | .scmpGtu x0 x1 x2 => Sys2Proof.Machine.execScmpGtu x0 x1 x2 s
  | .scmpGeu x0 x1 x2 => Sys2Proof.Machine.execScmpGeu x0 x1 x2 s
  | .smovi x0 x1 => Sys2Proof.Machine.execSmovi x0 x1 s
  | .saddiShort x0 x1 x2 => Sys2Proof.Machine.execSaddiShort x0 x1 x2 s
  | .saddiXi x0 x1 x2 => Sys2Proof.Machine.execSaddiXi x0 x1 x2 s
  | .slit x0 x1 => Sys2Proof.Machine.execSlit x0 x1 s
  | .srdS x0 x1 => Sys2Proof.Machine.execSrdS x0 x1 s
  | .srdV x0 x1 => Sys2Proof.Machine.execSrdV x0 x1 s
  | .swr x0 x1 => Sys2Proof.Machine.execSwr x0 x1 s
  | .swin x0 => Sys2Proof.Machine.execSwin x0 s
  | .vwin x0 => Sys2Proof.Machine.execVwin x0 s
  | .bra x0 x1 => Sys2Proof.Machine.execBra x0 x1 s
  | .brs x0 x1 => Sys2Proof.Machine.execBrs x0 x1 s
  | .brsZ x0 x1 => Sys2Proof.Machine.execBrsZ x0 x1 s
  | .jmp x0 => Sys2Proof.Machine.execJmp x0 s
  | .brx x0 => Sys2Proof.Machine.execBrx x0 s
  | .call x0 x1 => Sys2Proof.Machine.execCall x0 x1 s
  | .callx x0 x1 => Sys2Proof.Machine.execCallx x0 x1 s
  | .ret x0 => Sys2Proof.Machine.execRet x0 s
  | .lpad x0 => Sys2Proof.Machine.execLpad x0 s
  | .kset x0 => Sys2Proof.Machine.execKset x0 s
  | .join x0 => Sys2Proof.Machine.execJoin x0 s
  | .exitLanes => Sys2Proof.Machine.execExitLanes s
  | .trap x0 => Sys2Proof.Machine.execTrap x0 s
  | .brk x0 => Sys2Proof.Machine.execBrk x0 s
  | .nop => Sys2Proof.Machine.execNop s
  | .perf x0 => Sys2Proof.Machine.execPerf x0 s
  | .launch x0 => Sys2Proof.Machine.execLaunch x0 s
  | .launchOrd x0 => Sys2Proof.Machine.execLaunchOrd x0 s
  | .renq x0 x1 => Sys2Proof.Machine.execRenq x0 x1 s
  | .rdeq x0 x1 => Sys2Proof.Machine.execRdeq x0 x1 s
  | .svc x0 => Sys2Proof.Machine.execSvc x0 s
  | .vadd x0 x1 x2 => Sys2Proof.Machine.execVadd x0 x1 x2 s
  | .vsub x0 x1 x2 => Sys2Proof.Machine.execVsub x0 x1 x2 s
  | .vmul x0 x1 x2 => Sys2Proof.Machine.execVmul x0 x1 x2 s
  | .vmulhS32 x0 x1 x2 => Sys2Proof.Machine.execVmulhS32 x0 x1 x2 s
  | .vmulhU32 x0 x1 x2 => Sys2Proof.Machine.execVmulhU32 x0 x1 x2 s
  | .vmad x0 x1 x2 x3 => Sys2Proof.Machine.execVmad x0 x1 x2 x3 s
  | .vaddc x0 x1 x2 x3 => Sys2Proof.Machine.execVaddc x0 x1 x2 x3 s
  | .vand x0 x1 x2 => Sys2Proof.Machine.execVand x0 x1 x2 s
  | .vor x0 x1 x2 => Sys2Proof.Machine.execVor x0 x1 x2 s
  | .vxor x0 x1 x2 => Sys2Proof.Machine.execVxor x0 x1 x2 s
  | .vshl x0 x1 x2 => Sys2Proof.Machine.execVshl x0 x1 x2 s
  | .vshr x0 x1 x2 => Sys2Proof.Machine.execVshr x0 x1 x2 s
  | .vsar x0 x1 x2 => Sys2Proof.Machine.execVsar x0 x1 x2 s
  | .vminS32 x0 x1 x2 => Sys2Proof.Machine.execVminS32 x0 x1 x2 s
  | .vminU32 x0 x1 x2 => Sys2Proof.Machine.execVminU32 x0 x1 x2 s
  | .vmaxS32 x0 x1 x2 => Sys2Proof.Machine.execVmaxS32 x0 x1 x2 s
  | .vmaxU32 x0 x1 x2 => Sys2Proof.Machine.execVmaxU32 x0 x1 x2 s
  | .vabs x0 x1 => Sys2Proof.Machine.execVabs x0 x1 s
  | .vclz x0 x1 => Sys2Proof.Machine.execVclz x0 x1 s
  | .vpop x0 x1 => Sys2Proof.Machine.execVpop x0 x1 s
  | .vbfeS32 x0 x1 x2 x3 => Sys2Proof.Machine.execVbfeS32 x0 x1 x2 x3 s
  | .vbfeU32 x0 x1 x2 x3 => Sys2Proof.Machine.execVbfeU32 x0 x1 x2 x3 s
  | .vbfi x0 x1 x2 x3 => Sys2Proof.Machine.execVbfi x0 x1 x2 x3 s
  | .vsel x0 x1 x2 x3 => Sys2Proof.Machine.execVsel x0 x1 x2 x3 s
  | .vmov x0 x1 => Sys2Proof.Machine.execVmov x0 x1 s
  | .vmovi x0 x1 => Sys2Proof.Machine.execVmovi x0 x1 s
  | .vlit x0 x1 => Sys2Proof.Machine.execVlit x0 x1 s
  | .vcmpEqS32 x0 x1 x2 => Sys2Proof.Machine.execVcmpEqS32 x0 x1 x2 s
  | .vcmpNeS32 x0 x1 x2 => Sys2Proof.Machine.execVcmpNeS32 x0 x1 x2 s
  | .vcmpLtS32 x0 x1 x2 => Sys2Proof.Machine.execVcmpLtS32 x0 x1 x2 s
  | .vcmpLeS32 x0 x1 x2 => Sys2Proof.Machine.execVcmpLeS32 x0 x1 x2 s
  | .vcmpGtS32 x0 x1 x2 => Sys2Proof.Machine.execVcmpGtS32 x0 x1 x2 s
  | .vcmpGeS32 x0 x1 x2 => Sys2Proof.Machine.execVcmpGeS32 x0 x1 x2 s
  | .vcmpEqU32 x0 x1 x2 => Sys2Proof.Machine.execVcmpEqU32 x0 x1 x2 s
  | .vcmpNeU32 x0 x1 x2 => Sys2Proof.Machine.execVcmpNeU32 x0 x1 x2 s
  | .vcmpLtU32 x0 x1 x2 => Sys2Proof.Machine.execVcmpLtU32 x0 x1 x2 s
  | .vcmpLeU32 x0 x1 x2 => Sys2Proof.Machine.execVcmpLeU32 x0 x1 x2 s
  | .vcmpGtU32 x0 x1 x2 => Sys2Proof.Machine.execVcmpGtU32 x0 x1 x2 s
  | .vcmpGeU32 x0 x1 x2 => Sys2Proof.Machine.execVcmpGeU32 x0 x1 x2 s
  | .fadd x0 x1 x2 x3 x4 => Sys2Proof.Machine.execFadd x0 x1 x2 x3 x4 s
  | .fsub x0 x1 x2 x3 x4 => Sys2Proof.Machine.execFsub x0 x1 x2 x3 x4 s
  | .fmul x0 x1 x2 x3 x4 => Sys2Proof.Machine.execFmul x0 x1 x2 x3 x4 s
  | .ffma x0 x1 x2 x3 x4 x5 => Sys2Proof.Machine.execFfma x0 x1 x2 x3 x4 x5 s
  | .fmin x0 x1 x2 x3 => Sys2Proof.Machine.execFmin x0 x1 x2 x3 s
  | .fmax x0 x1 x2 x3 => Sys2Proof.Machine.execFmax x0 x1 x2 x3 s
  | .fcmp x0 x1 x2 x3 x4 => Sys2Proof.Machine.execFcmp x0 x1 x2 x3 x4 s
  | .fdot2 x0 x1 x2 x3 x4 => Sys2Proof.Machine.execFdot2 x0 x1 x2 x3 x4 s
  | .cvt x0 x1 x2 x3 x4 => Sys2Proof.Machine.execCvt x0 x1 x2 x3 x4 s
  | .cvtn x0 x1 x2 x3 => Sys2Proof.Machine.execCvtn x0 x1 x2 x3 s
  | .frcp x0 x1 x2 x3 => Sys2Proof.Machine.execFrcp x0 x1 x2 x3 s
  | .frsq x0 x1 x2 => Sys2Proof.Machine.execFrsq x0 x1 x2 s
  | .fsqrt x0 x1 x2 x3 => Sys2Proof.Machine.execFsqrt x0 x1 x2 x3 s
  | .fdiv x0 x1 x2 x3 x4 => Sys2Proof.Machine.execFdiv x0 x1 x2 x3 x4 s
  | .fexp2 x0 x1 x2 => Sys2Proof.Machine.execFexp2 x0 x1 x2 s
  | .flog2 x0 x1 x2 => Sys2Proof.Machine.execFlog2 x0 x1 x2 s
  | .fsin x0 x1 x2 => Sys2Proof.Machine.execFsin x0 x1 x2 s
  | .fcos x0 x1 x2 => Sys2Proof.Machine.execFcos x0 x1 x2 s
  | .fround x0 x1 x2 x3 => Sys2Proof.Machine.execFround x0 x1 x2 x3 s
  | .ffract x0 x1 x2 => Sys2Proof.Machine.execFfract x0 x1 x2 s
  | .fclass x0 x1 x2 => Sys2Proof.Machine.execFclass x0 x1 x2 s
  | .qswapH x0 x1 => Sys2Proof.Machine.execQswapH x0 x1 s
  | .qswapV x0 x1 => Sys2Proof.Machine.execQswapV x0 x1 s
  | .qswapD x0 x1 => Sys2Proof.Machine.execQswapD x0 x1 s
  | .ddxFine x0 x1 => Sys2Proof.Machine.execDdxFine x0 x1 s
  | .ddxCoarse x0 x1 => Sys2Proof.Machine.execDdxCoarse x0 x1 s
  | .ddyFine x0 x1 => Sys2Proof.Machine.execDdyFine x0 x1 s
  | .ddyCoarse x0 x1 => Sys2Proof.Machine.execDdyCoarse x0 x1 s
  | .shflIdx x0 x1 x2 => Sys2Proof.Machine.execShflIdx x0 x1 x2 s
  | .shflUp x0 x1 x2 => Sys2Proof.Machine.execShflUp x0 x1 x2 s
  | .shflDown x0 x1 x2 => Sys2Proof.Machine.execShflDown x0 x1 x2 s
  | .shflXor x0 x1 x2 => Sys2Proof.Machine.execShflXor x0 x1 x2 s
  | .voteAny x0 x1 => Sys2Proof.Machine.execVoteAny x0 x1 s
  | .voteAll x0 x1 => Sys2Proof.Machine.execVoteAll x0 x1 s
  | .voteBallot x0 x1 => Sys2Proof.Machine.execVoteBallot x0 x1 s
  | .matchAny x0 x1 => Sys2Proof.Machine.execMatchAny x0 x1 s
  | .reduce x0 x1 x2 x3 x4 => Sys2Proof.Machine.execReduce x0 x1 x2 x3 x4 s
  | .scan x0 x1 x2 x3 x4 => Sys2Proof.Machine.execScan x0 x1 x2 x3 x4 s
  | .actmask x0 => Sys2Proof.Machine.execActmask x0 s
  | .ishelp x0 => Sys2Proof.Machine.execIshelp x0 s
  | .pand x0 x1 x2 => Sys2Proof.Machine.execPand x0 x1 x2 s
  | .por x0 x1 x2 => Sys2Proof.Machine.execPor x0 x1 x2 s
  | .pxor x0 x1 x2 => Sys2Proof.Machine.execPxor x0 x1 x2 s
  | .pnot x0 x1 => Sys2Proof.Machine.execPnot x0 x1 s
  | .pmov x0 x1 => Sys2Proof.Machine.execPmov x0 x1 s
  | .ld x0 x1 x2 x3 => Sys2Proof.Machine.execLd x0 x1 x2 x3 s
  | .ldX x0 x1 x2 x3 => Sys2Proof.Machine.execLdX x0 x1 x2 x3 s
  | .lds x0 x1 x2 x3 => Sys2Proof.Machine.execLds x0 x1 x2 x3 s
  | .ldsX x0 x1 x2 x3 => Sys2Proof.Machine.execLdsX x0 x1 x2 x3 s
  | .ldc x0 x1 x2 x3 => Sys2Proof.Machine.execLdc x0 x1 x2 x3 s
  | .ldcX x0 x1 x2 x3 => Sys2Proof.Machine.execLdcX x0 x1 x2 x3 s
  | .sld x0 x1 x2 x3 => Sys2Proof.Machine.execSld x0 x1 x2 x3 s
  | .sldX x0 x1 x2 x3 => Sys2Proof.Machine.execSldX x0 x1 x2 x3 s
  | .ldlod x0 x1 x2 x3 => Sys2Proof.Machine.execLdlod x0 x1 x2 x3 s
  | .ldlodX x0 x1 x2 x3 => Sys2Proof.Machine.execLdlodX x0 x1 x2 x3 s
  | .ldbrk x0 x1 x2 => Sys2Proof.Machine.execLdbrk x0 x1 x2 s
  | .tex x0 x1 x2 x3 x4 => Sys2Proof.Machine.execTex x0 x1 x2 x3 x4 s
  | .texg x0 x1 x2 x3 => Sys2Proof.Machine.execTexg x0 x1 x2 x3 s
  | .st x0 x1 x2 x3 => Sys2Proof.Machine.execSt x0 x1 x2 x3 s
  | .stX x0 x1 x2 x3 x4 => Sys2Proof.Machine.execStX x0 x1 x2 x3 x4 s
  | .sts x0 x1 x2 x3 => Sys2Proof.Machine.execSts x0 x1 x2 x3 s
  | .stsX x0 x1 x2 x3 x4 => Sys2Proof.Machine.execStsX x0 x1 x2 x3 x4 s
  | .stc x0 x1 x2 x3 => Sys2Proof.Machine.execStc x0 x1 x2 x3 s
  | .stcX x0 x1 x2 x3 x4 => Sys2Proof.Machine.execStcX x0 x1 x2 x3 x4 s
  | .sst x0 x1 x2 x3 => Sys2Proof.Machine.execSst x0 x1 x2 x3 s
  | .sstX x0 x1 x2 x3 x4 => Sys2Proof.Machine.execSstX x0 x1 x2 x3 x4 s
  | .stbrk x0 x1 x2 => Sys2Proof.Machine.execStbrk x0 x1 x2 s
  | .atom x0 x1 x2 x3 x4 x5 x6 => Sys2Proof.Machine.execAtom x0 x1 x2 x3 x4 x5 x6 s
  | .atoms x0 x1 x2 x3 x4 x5 x6 => Sys2Proof.Machine.execAtoms x0 x1 x2 x3 x4 x5 x6 s
  | .red x0 x1 x2 x3 x4 x5 => Sys2Proof.Machine.execRed x0 x1 x2 x3 x4 x5 s
  | .atomx x0 x1 x2 x3 x4 x5 x6 => Sys2Proof.Machine.execAtomx x0 x1 x2 x3 x4 x5 x6 s
  | .cpaB32 x0 x1 x2 => Sys2Proof.Machine.execCpaB32 x0 x1 x2 s
  | .cpaB64 x0 x1 x2 => Sys2Proof.Machine.execCpaB64 x0 x1 x2 s
  | .cpaB128 x0 x1 x2 => Sys2Proof.Machine.execCpaB128 x0 x1 x2 s
  | .cpb x0 x1 x2 => Sys2Proof.Machine.execCpb x0 x1 x2 s
  | .prefr x0 x1 x2 => Sys2Proof.Machine.execPrefr x0 x1 x2 s
  | .tokw x0 x1 => Sys2Proof.Machine.execTokw x0 x1 s
  | .femarkFull x0 x1 => Sys2Proof.Machine.execFemarkFull x0 x1 s
  | .femarkEmpty x0 x1 => Sys2Proof.Machine.execFemarkEmpty x0 x1 s
  | .waitcToken x0 x1 => Sys2Proof.Machine.execWaitcToken x0 x1 s
  | .waitcBarrier x0 => Sys2Proof.Machine.execWaitcBarrier x0 s
  | .bar => Sys2Proof.Machine.execBar s
  | .mbara x0 => Sys2Proof.Machine.execMbara x0 s
  | .mbarw x0 x1 => Sys2Proof.Machine.execMbarw x0 x1 s
  | .fenceAcq x0 => Sys2Proof.Machine.execFenceAcq x0 s
  | .fenceRel x0 => Sys2Proof.Machine.execFenceRel x0 s
  | .fenceSc x0 => Sys2Proof.Machine.execFenceSc x0 s
  | .opfence => Sys2Proof.Machine.execOpfence s
  | .xall x0 x1 => Sys2Proof.Machine.execXall x0 x1 s
  | .cflush x0 x1 => Sys2Proof.Machine.execCflush x0 x1 s
  | .mma x0 x1 x2 x3 x4 => Sys2Proof.Machine.execMma x0 x1 x2 x3 x4 s
  | .mloop x0 x1 x2 x3 => Sys2Proof.Machine.execMloop x0 x1 x2 x3 s
  | .mzero x0 => Sys2Proof.Machine.execMzero x0 s
  | .mldz x0 x1 x2 => Sys2Proof.Machine.execMldz x0 x1 x2 s
  | .mstz x0 x1 x2 => Sys2Proof.Machine.execMstz x0 x1 x2 s
  | .mqnt x0 x1 x2 => Sys2Proof.Machine.execMqnt x0 x1 x2 s
  | .mstat x0 x1 => Sys2Proof.Machine.execMstat x0 x1 s
  | .hld x0 x1 x2 => Sys2Proof.Machine.execHld x0 x1 x2 s
  | .hst x0 x1 x2 => Sys2Proof.Machine.execHst x0 x1 x2 s
  | .hmov x0 x1 => Sys2Proof.Machine.execHmov x0 x1 s
  | .hbind x0 x1 x2 => Sys2Proof.Machine.execHbind x0 x1 x2 s
  | .hperm x0 x1 x2 => Sys2Proof.Machine.execHperm x0 x1 x2 s
  | .hbund x0 x1 => Sys2Proof.Machine.execHbund x0 x1 s
  | .hthr x0 x1 => Sys2Proof.Machine.execHthr x0 x1 s
  | .hclrc x0 => Sys2Proof.Machine.execHclrc x0 s
  | .hham x0 x1 x2 => Sys2Proof.Machine.execHham x0 x1 x2 s
  | .hnear x0 x1 x2 x3 => Sys2Proof.Machine.execHnear x0 x1 x2 x3 s
  | .htie x0 => Sys2Proof.Machine.execHtie x0 s
  | .hbit x0 x1 x2 => Sys2Proof.Machine.execHbit x0 x1 x2 s
  | .gopenW1 x0 x1 x2 => Sys2Proof.Machine.execGopenW1 x0 x1 x2 s
  | .gopenW2 x0 x1 x2 => Sys2Proof.Machine.execGopenW2 x0 x1 x2 s
  | .gopenW3 x0 x1 x2 => Sys2Proof.Machine.execGopenW3 x0 x1 x2 s
  | .gopenW4 x0 x1 x2 => Sys2Proof.Machine.execGopenW4 x0 x1 x2 s
  | .gyield x0 => Sys2Proof.Machine.execGyield x0 s
  | .gtake x0 => Sys2Proof.Machine.execGtake x0 s
  | .gback => Sys2Proof.Machine.execGback s
  | .gdone => Sys2Proof.Machine.execGdone s
  | .gclose => Sys2Proof.Machine.execGclose s
  | .repack x0 => Sys2Proof.Machine.execRepack x0 s
  | .travb x0 x1 => Sys2Proof.Machine.execTravb x0 x1 s
  | .travs x0 => Sys2Proof.Machine.execTravs x0 s
  | .travc x0 => Sys2Proof.Machine.execTravc x0 s
  | .trave => Sys2Proof.Machine.execTrave s
  | .draw x0 x1 x2 => Sys2Proof.Machine.execDraw x0 x1 x2 s
  | .vxemit x0 x1 => Sys2Proof.Machine.execVxemit x0 x1 s
  | .primemit x0 x1 => Sys2Proof.Machine.execPrimemit x0 x1 s
  | .pxout x0 x1 => Sys2Proof.Machine.execPxout x0 x1 s
  | .discard => Sys2Proof.Machine.execDiscard s
  | .depw x0 => Sys2Proof.Machine.execDepw x0 s
  | .wrec x0 x1 x2 => Sys2Proof.Machine.execWrec x0 x1 x2 s
  | .linset x0 => Sys2Proof.Machine.execLinset x0 s
  | .watch x0 x1 => Sys2Proof.Machine.execWatch x0 x1 s
  | .replay x0 x1 => Sys2Proof.Machine.execReplay x0 x1 s
  | .eret => Sys2Proof.Machine.execEret s
  | .ctxsave x0 x1 x2 => Sys2Proof.Machine.execCtxsave x0 x1 x2 s
  | .ctxload x0 x1 x2 => Sys2Proof.Machine.execCtxload x0 x1 x2 s
  | .ovtbl x0 x1 => Sys2Proof.Machine.execOvtbl x0 x1 s
  | .tlbinv x0 x1 => Sys2Proof.Machine.execTlbinv x0 x1 s
  | .resfence x0 x1 => Sys2Proof.Machine.execResfence x0 x1 s
  | .pgattr x0 x1 => Sys2Proof.Machine.execPgattr x0 x1 s
  | .admitCluster x0 => Sys2Proof.Machine.execAdmitCluster x0 s
  | .raslog x0 x1 => Sys2Proof.Machine.execRaslog x0 x1 s
  | .halt => Sys2Proof.Machine.execHalt s
  | .hint x0 => Sys2Proof.Machine.execHint x0 s
  | .clauseBegin x0 x1 => Sys2Proof.Machine.execClauseBegin x0 x1 s
  | .flagClear x0 x1 => Sys2Proof.Machine.execFlagClear x0 x1 s
  | .fairnessTimer x0 => Sys2Proof.Machine.execFairnessTimer x0 s
  | .joinRelease x0 x1 => Sys2Proof.Machine.execJoinRelease x0 x1 s
  | .groupRetire x0 => Sys2Proof.Machine.execGroupRetire x0 s
  | .repackComplete x0 x1 => Sys2Proof.Machine.execRepackComplete x0 x1 s
  | .routeEntryWake x0 x1 => Sys2Proof.Machine.execRouteEntryWake x0 x1 s
  | .routeSpaceWake x0 x1 => Sys2Proof.Machine.execRouteSpaceWake x0 x1 s
  | .caravanLand x0 => Sys2Proof.Machine.execCaravanLand x0 s
  | .fullBitWake x0 => Sys2Proof.Machine.execFullBitWake x0 s
  | .continuationSpawn x0 => Sys2Proof.Machine.execContinuationSpawn x0 s
  | .tokenResolve x0 x1 => Sys2Proof.Machine.execTokenResolve x0 x1 s
  | .barrierResolve x0 => Sys2Proof.Machine.execBarrierResolve x0 s
  | .phaseBarrierWake x0 => Sys2Proof.Machine.execPhaseBarrierWake x0 s
  | .mloopIteration x0 x1 => Sys2Proof.Machine.execMloopIteration x0 x1 s
  | .thermalSample x0 x1 => Sys2Proof.Machine.execThermalSample x0 x1 s
  | .engineSwitch x0 x1 => Sys2Proof.Machine.execEngineSwitch x0 x1 s
  | .xallRegistration x0 => Sys2Proof.Machine.execXallRegistration x0 s
  | .xallStart x0 => Sys2Proof.Machine.execXallStart x0 s
  | .xallComplete x0 x1 => Sys2Proof.Machine.execXallComplete x0 x1 s
  | .blockPlacement x0 => Sys2Proof.Machine.execBlockPlacement x0 s
  | .blockSave x0 => Sys2Proof.Machine.execBlockSave x0 s
  | .pixelWatchdog x0 => Sys2Proof.Machine.execPixelWatchdog x0 s
  | .binStage x0 => Sys2Proof.Machine.execBinStage x0 s
  | .partialRender x0 => Sys2Proof.Machine.execPartialRender x0 s
  | .finalRender x0 => Sys2Proof.Machine.execFinalRender x0 s
  | .fragmentRetire x0 x1 => Sys2Proof.Machine.execFragmentRetire x0 x1 s
  | .nodeFire x0 x1 x2 => Sys2Proof.Machine.execNodeFire x0 x1 x2 s
  | .replayComplete x0 => Sys2Proof.Machine.execReplayComplete x0 s
  | .leadTime x0 => Sys2Proof.Machine.execLeadTime x0 s
  | .deadline x0 => Sys2Proof.Machine.execDeadline x0 s
  | .controlInterval x0 x1 => Sys2Proof.Machine.execControlInterval x0 x1 s
  | .governorPeriod => Sys2Proof.Machine.execGovernorPeriod s
  | .patrolScrub x0 => Sys2Proof.Machine.execPatrolScrub x0 s
  | .correctedError x0 x1 => Sys2Proof.Machine.execCorrectedError x0 x1 s
  | .uncorrectableError x0 x1 => Sys2Proof.Machine.execUncorrectableError x0 x1 s
  | .logicError x0 x1 x2 x3 => Sys2Proof.Machine.execLogicError x0 x1 x2 x3 s
  | .faultBufferRetry x0 => Sys2Proof.Machine.execFaultBufferRetry x0 s
  | .faultAnswer x0 x1 => Sys2Proof.Machine.execFaultAnswer x0 x1 s
  | .contextSaveComplete x0 => Sys2Proof.Machine.execContextSaveComplete x0 s
  | .contextLoadComplete x0 => Sys2Proof.Machine.execContextLoadComplete x0 s
  | .tlbinvComplete x0 x1 => Sys2Proof.Machine.execTlbinvComplete x0 x1 s
  | .resfenceComplete x0 x1 => Sys2Proof.Machine.execResfenceComplete x0 x1 s
  | .pgattrComplete x0 x1 => Sys2Proof.Machine.execPgattrComplete x0 x1 s
  | .haltWake x0 => Sys2Proof.Machine.execHaltWake x0 s
  | .create x0 x1 => Sys2Proof.Machine.execCreate x0 x1 s
  | .destroy x0 x1 => Sys2Proof.Machine.execDestroy x0 x1 s
  | .mapPages x0 x1 => Sys2Proof.Machine.execMapPages x0 x1 s
  | .unmapPages x0 x1 x2 => Sys2Proof.Machine.execUnmapPages x0 x1 x2 s
  | .residency x0 x1 x2 x3 x4 => Sys2Proof.Machine.execResidency x0 x1 x2 x3 x4 s
  | .enqueue x0 x1 x2 => Sys2Proof.Machine.execEnqueue x0 x1 x2 s
  | .readMem x0 x1 x2 => Sys2Proof.Machine.execReadMem x0 x1 x2 s
  | .writeMem x0 x1 x2 => Sys2Proof.Machine.execWriteMem x0 x1 x2 s
  | .watchRequest x0 x1 x2 => Sys2Proof.Machine.execWatchRequest x0 x1 x2 s
  | .replayRequest x0 x1 x2 => Sys2Proof.Machine.execReplayRequest x0 x1 x2 s
  | .telemetry x0 => Sys2Proof.Machine.execTelemetry x0 s
  | .raslogRequest x0 => Sys2Proof.Machine.execRaslogRequest x0 s
  | .attest x0 x1 => Sys2Proof.Machine.execAttest x0 x1 s
  | .bootstatus x0 => Sys2Proof.Machine.execBootstatus x0 s
  | .svcanswer x0 x1 x2 => Sys2Proof.Machine.execSvcanswer x0 x1 x2 s
  | .faultanswer x0 x1 x2 => Sys2Proof.Machine.execFaultanswer x0 x1 x2 s
  | .resume x0 x1 => Sys2Proof.Machine.execResume x0 x1 s
  | .bindSlot x0 x1 => Sys2Proof.Machine.execBindSlot x0 x1 s
  | .uePacketRefused x0 => Sys2Proof.Machine.execUePacketRefused x0 s
  | .connectionClose x0 => Sys2Proof.Machine.execConnectionClose x0 s
  | .routeEnable x0 x1 => Sys2Proof.Machine.execRouteEnable x0 x1 s
  | .routeDisable x0 x1 => Sys2Proof.Machine.execRouteDisable x0 x1 s
  | .routeWritebackDone x0 x1 => Sys2Proof.Machine.execRouteWritebackDone x0 x1 s
  | .headctlWrite x0 x1 => Sys2Proof.Machine.execHeadctlWrite x0 x1 s
  | .registerWrite x0 x1 => Sys2Proof.Machine.execRegisterWrite x0 x1 s
  | .linkTraining x0 => Sys2Proof.Machine.execLinkTraining x0 s
  | .peerRequest x0 => Sys2Proof.Machine.execPeerRequest x0 s
  | .peerEnqueue x0 x1 x2 => Sys2Proof.Machine.execPeerEnqueue x0 x1 x2 s
  | .peerLost x0 => Sys2Proof.Machine.execPeerLost x0 s
  | .boot x0 => Sys2Proof.Machine.execBoot x0 s
  | .powerDown => Sys2Proof.Machine.execPowerDown s
  | .powerUp => Sys2Proof.Machine.execPowerUp s
  | .portDown x0 => Sys2Proof.Machine.execPortDown x0 s

end Sys2Proof.Machine
end

