-- ==== Sys2Proof/Machine/Step.lean ====
section
/-! DEFINITION. One step of the machine, and how the host places an instruction where the next step issues
it. -/

namespace Sys2Proof.Machine

/-- One step: what moves next moves (log entry 34), and the counters of free values advance: the device's own,
and that of the context whose instruction or step it was (R4, log entry 1). -/
def step (s : State) : Host.Outcome State Fault Refusal :=
  match s.tick.nextMove with
  | .event i t =>
    match exec i t with
    | .next t' => .next (t.drawnBy (t.drawsFor i) t')
    | o => o
  | .instr i n g c t =>
    match exec i t with
    | .next t' => .next ((t'.finishInstr g c i n).drawn (t.slotOf g))
    | o => o
  | .stuck => .fault .noIssue
  | .device t => .next t.deviceTurn

/-- The machine with an instruction of `nbits` bits as the next one of the clause in flight of a group of
one live lane, of the service's slot for class 0xE and of slot 1 otherwise (log entry 35). -/
def State.withFetchWord (s : State) (nbits w : Nat) : State := s.placeWords (w % 2 ^ nbits)

end Sys2Proof.Machine
end

