-- ==== Sys2Proof/Certificates/Slice0/Obligations.lean ====
section
/-! DEFINITION. The statements for the provers. Each is a proposition about `exec`, `step`, the decoder or
a shared operation; the helper definitions in `Sys2Proof.Claims` say once what several of them speak of. -/

namespace Sys2Proof.Claims

open Sys2Proof.Machine

/-- The instruction is the next one of the clause `c` of group `g`, it has executing lanes (R29, R156, R193)
and no register it reads carries a poison mark (R158, R194). -/
structure Issues (i : Instr) (s : State) (g : Group) (c : Clause) : Prop where
  inFlight : s.issue? = some (g, c)
  lanes : c.exec ≠ 0
  clean : poisonMask s g c.exec i = 0

/-- The instruction, wherever it issues, answers the next state `f s g c`. -/
def Gives (i : Instr) (f : State → Group → Clause → State) : Prop :=
  ∀ s g c, Issues i s g c → exec i s = .next (f s g c)

/-- The group becomes `f s g c`, and nothing else changes but that (see `OnlyGroup`). -/
def GivesGroup (i : Instr) (f : State → Group → Clause → Group) : Prop :=
  Gives i fun s g c => s.setGroup (f s g c)

/-- The scalar register `d` becomes `v s g` (R156). -/
def GivesS (i : Instr) (d : SReg) (v : State → Group → Word) : Prop :=
  GivesGroup i fun s g _ => g.writeS d.val (v s g)

/-- The vector register `d` becomes `v s g l` in each executing lane `l`; `v` reads the registers as they
stood before (R193). -/
def GivesV (i : Instr) (d : VReg) (v : State → Group → Nat → Word) : Prop :=
  GivesGroup i fun s g c => eachLane g c fun g' l => g'.writeV l d.val (v s g l)

/-- The predicate `d` becomes `v s g l` in each executing lane `l`. -/
def GivesP (i : Instr) (d : PReg) (v : State → Group → Nat → Bool) : Prop :=
  GivesGroup i fun s g c => eachLane g c fun g' l => g'.writeP l d.val (v s g l)

/-- Nothing differs but the group of number `u`: every other field of the machine, every other group and
every byte of memory is as before. -/
def OnlyGroup (s t : State) (u : Nat) : Prop :=
  { t with groups := [] } = { s with groups := [] } ∧ (∀ v, v ≠ u → t.group? v = s.group? v) ∧
    ∀ a, Memory.read t.mem a = Memory.read s.mem a

/-- A lane but for what a call of the service does to it: one that stands at a HALT is noted as called (R356). -/
def called (x : Lane) : Lane := { x with st := x.st.called, prodSt := x.prodSt.called }

/-- The group of number `u` after a step. -/
def After (t : State) (u : Nat) (P : Group → Prop) : Prop := ∃ g, t.group? u = some g ∧ P g

/-- `P` holds of the next state that the instruction answers. -/
def Answers (o : Host.Outcome State Fault Refusal) (P : State → Prop) : Prop := ∃ t, o = .next t ∧ P t

/-- An instruction word, as opposed to a step of the device: the latter has no encoding. -/
def IsWord (i : Instr) : Prop := encode i ≠ []

end Sys2Proof.Claims

open Sys2Proof Sys2Proof.Machine Sys2Proof.Claims

/-! ### Encoding -/

/-- Words that the spec writes out (06, the worked line after R124 and the clause after R123; 07 R161,
R179, R184 and the loop at its end; 08, the worked encodings) decode to what it says they are. -/
def Obligations.DecodeSanity : Prop :=
  decodeWords [0x70A20A02, 0x00000018] = .ok (.ldX .b32 none 8 (.idx 20 2 true none)) ∧
  decodeWords [0x70A24A02, 0x0000001C, 0x100] = .ok (.ldX .b32 none 9 (.idx 20 2 true (some 256))) ∧
  decodeWords [0x30028103] = .ok (.vadd 10 2 3) ∧
  decodeWords [0x4082C409] = .ok (.fadd .f32 .rn 11 8 9) ∧
  decodeWords [0x21600000] = .ok .exitLanes ∧
  decodeWords [0x21C00000] = .ok .nop ∧
  decodeWords [0x04430409] = .ok (.scmpLt 12 8 9) ∧
  decodeWords [0x10022000] = .ok (.smovi 8 (-8192)) ∧
  decodeWords [0x10220401] = .ok (.saddiShort 8 8 1) ∧
  decodeWords [0x20233FFC] = .ok (.brs 12 (-4)) ∧
  decodeWords [0x3322C003] = .ok (.vmovi 11 3) ∧
  decodeWords [0x46850A96, 0x28000000] = .ok (.ffma .f32 .rn 20 21 22 20) ∧
  decodeWords [0x4C804205, 0x00008000] = .ok (.fcmp .f32 .lt 1 4 5) ∧
  decodeWords [0x50014200, 0x00001A00] = .ok (.cvt .f16 .f32 .rn 5 4) ∧
  decodeWords [0x6202C200, 0x00000800] = .ok (.reduce .add .s32 .rn 11 4) ∧
  decodeWords [0x62440000] = .ok (.actmask 16)

/-- Decoding what the encoder writes gives the instruction back, for every well-formed instruction word
and every operand. -/
def Obligations.DecodeEncode : Prop :=
  ∀ i : Instr, i.wellFormed = true → IsWord i → decodeWords (encode i) = .ok i

/-- What decodes is well formed and its encoding is the words it was read from: no bit is ignored, and no
two words mean the same instruction. -/
def Obligations.EncodeDecode : Prop :=
  ∀ (w x y : Nat) (i : Instr), w < 2 ^ 32 → x < 2 ^ 32 → y < 2 ^ 32 → decode w x y = .ok i →
    i.wellFormed = true ∧ encode i = [w, x, y].take (wordCount w x)

/-! ### The step -/

/-- When the words of the clause in flight of the group whose turn it is decode to an instruction, the
step is that instruction at that state, followed by what the end of an instruction does: `finishInstr`
moves past its words, and `drawn` says that the next step of its context draws other Undefined values (R4). A
clause-ending, releasing or ordering instruction waits instead while a faulted access of its group is unanswered
(R373). -/
def Sys2Proof.Claims.StepRunsDecoded : Prop :=
  ∀ (s : State) (u : Nat) (g : Group) (c : Clause) (i : Instr) (w x y : Nat),
    s.agenda = [] → s.nextWaiting = none → s.turn = some u → s.group? u = some g → g.clause = some c →
    c.wait = none →
    w = (c.buf.getD 0 0).toNat → x = (c.buf.getD 1 0).toNat → y = (c.buf.getD 2 0).toNat →
    decode w x y = .ok i →
    (Instr.parks i && (s.tick.setGroup g).owes u && decide (c.exec ≠ 0)) = false →
    step s = match exec i (s.tick.setGroup g) with
      | .next t => .next ((t.finishInstr g c i (wordCount w x)).drawn (s.slotOf g))
      | o => o

/-- When an instruction of more than one remains and nothing holds the clause, the clause stands at the
next word: its buffer and its place have moved past the instruction's words (R27, R116). Lanes stay as they are, but
that halted ones may be called by a record of the write-back that a release makes. -/
def Sys2Proof.Claims.ClauseAdvances : Prop :=
  ∀ (t : State) (g0 g : Group) (c0 c : Clause) (i : Instr) (n : Nat),
    t.group? g0.uid = some g → g.clause = some c → c.wait = none → c.again = false →
    t.replayOf g0 = none → c.idx + 1 < c.count →
    After (t.finishInstr g0 c0 i n) g0.uid fun g' =>
      g'.clause = some { c with idx := c.idx + 1, word := skipWords n c.word, buf := c.buf.drop n
                                partialDone := 0 } ∧
      g'.lanes.map called = g.lanes.map called ∧ g'.s = g.s ∧ g'.flags = g.flags ∧ g'.pend = g.pend

/-- When the last instruction of a clause is done, the lanes that it has not sent elsewhere stand at the next
clause, the clause temporaries are gone and the turn is free (R27, R30, R119). -/
def Sys2Proof.Claims.ClauseEnds : Prop :=
  ∀ (t : State) (g : Group) (c : Clause), t.group? g.uid = some g → g.clause = some c →
    g.late = [] → c.deferred = [] → g.gen = none → g.joinStuck = false → t.turn = some g.uid →
    (t.endClause g.uid).turn = none ∧ (t.endClause g.uid).mem = t.mem ∧
    After (t.endClause g.uid) g.uid fun g' => g'.clause = none ∧ g'.s = g.s ∧ g'.k = g.k ∧
      ∀ l, l < g.lanes.length →
        ((g'.lane l).pc = if mHas c.path l && !mHas c.moved l && (g.lane l).live then c.nextAt
          else (g.lane l).pc) ∧
        (mHas c.path l → (g'.lane l).t = []) ∧ (g'.lane l).v = (g.lane l).v ∧
        (g'.lane l).preds = (g.lane l).preds ∧ (g'.lane l).st = (g.lane l).st

/-- When an instruction of more than one remains and nothing holds the clause, the clause stands at the next
word: its buffer and its place have moved past the instruction's words (R27, R116). Lanes stay as they are, but
that halted ones may be called by a record of the write-back that a release makes. When the last instruction of
a clause is done, the lanes that it has not sent elsewhere stand at the next clause, the clause temporaries are
gone and the turn is free (R27, R30, R119). -/
def Obligations.ClauseProgress : Prop :=
  Sys2Proof.Claims.ClauseAdvances ∧
    Sys2Proof.Claims.ClauseEnds

/-- What the agenda names happens: the step is that step of the device at that state. A request of a ROD connection
that has an unanswered one waits, and happens before all else once that one is answered (R414). -/
def Sys2Proof.Claims.StepPerformsEvents : Prop :=
  (∀ (s : State) (i : Instr) (rest : List Act), s.nextWaiting = none → s.agenda = .event i :: rest →
    let t : State := { s.tick with agenda := rest }
    (s.mustWait i = false → step s = match exec i t with
      | .next t' => .next (t.drawnBy (t.drawsFor i) t')
      | o => o) ∧
    (s.mustWait i = true → step s = .next ({ t with waiting := s.waiting ++ [i] } : State).deviceTurn)) ∧
  (∀ (s : State) (i : Instr), s.nextWaiting = some i →
    let t : State := { s.tick with waiting := s.waiting.erase i }
    step s = match exec i t with
      | .next t' => .next (t.drawnBy (t.drawsFor i) t')
      | o => o) ∧
  ∀ (s : State) (q : Req) (a : DWord), s.mustWait (.destroy q a) = (q.rod &&
    ((s.ctxs.any fun c => c.asked.any fun p => p.rod && p.conn == q.conn) ||
      (s.tasks.any fun t => t.req.rod && t.req.conn == q.conn) || s.waiting.any (Instr.rodOn q.conn)))

/-- When the words of the clause in flight of the group whose turn it is decode to an instruction, the step is
that instruction at that state, followed by what the end of an instruction does: `finishInstr` moves past its
words, and `drawn` says that the next step of its context draws other Undefined values (R4). A clause-ending,
releasing or ordering instruction waits instead while a faulted access of its group is unanswered (R373). What
the agenda names happens: the step is that step of the device at that state. A request of a ROD connection that
has an unanswered one waits, and happens before all else once that one is answered (R414). Where the spec leaves
a choice the model takes that of log entries 34 and 35. -/
def Obligations.StepRuns : Prop :=
  Sys2Proof.Claims.StepRunsDecoded ∧
    Sys2Proof.Claims.StepPerformsEvents

/-- The machine never refuses an instruction, and stops only where an instruction word has no clause to issue
from: `exec` answers a next state otherwise, and a step answers a next state or that fault. Where the spec
leaves a choice the model takes that of log entries 34 and 35. -/
def Obligations.NothingRefused : Prop :=
  (∀ (i : Instr) (s : State), (∃ t, exec i s = .next t) ∨
    (exec i s = .fault .noIssue ∧ IsWord i ∧ s.issue? = none)) ∧
  ∀ s : State, (∃ t, step s = .next t) ∨ step s = .fault .noIssue

/-- Memory keeps its canonical form over every step, from every state. Where the spec leaves a choice the model
takes that of log entry 10. -/
def Obligations.MemoryStaysCanonical : Prop :=
  ∀ s t : State, Memory.wf s.mem = true → step s = .next t → Memory.wf t.mem = true

/-- A lane whose guard reads 0 skips the clause: with no executing lane an instruction changes nothing,
whatever it is. -/
def Sys2Proof.Claims.SkippedClauseIdle : Prop :=
  ∀ (i : Instr) (s : State) (g : Group) (c : Clause), IsWord i → s.issue? = some (g, c) → c.exec = 0 →
    exec i s = .next s

/-- A register read that meets a poison mark raises POISON for the lanes whose reads met it and the
instruction's own effect does not happen (R158, R194, R367); that it stands until the answer (R372) is read from
the spec (log entry 53), as is its wait for room in a full fault buffer (log entry 51): no group changes but
that its clause waits, and that halted lanes are called (R356). -/
def Sys2Proof.Claims.PoisonedOperandHolds : Prop :=
  ∀ (i : Instr) (s : State) (g : Group) (c : Clause), IsWord i → s.issue? = some (g, c) → c.exec ≠ 0 →
    poisonMask s g c.exec i ≠ 0 →
    exec i s = .next (s.holdFault g c { code := .poison, source := Instr.source i, pool := true }
      (poisonMask s g c.exec i)) ∧
    Answers (exec i s) fun t => ∀ v, (t.group? v).map (fun x => { x with clause := none, lanes := x.lanes.map called }) =
      (s.group? v).map fun x => { x with clause := none, lanes := x.lanes.map called }

/-- Such a read is recorded: while the fault buffer has room, POISON of the lanes whose reads met a mark is
filed with the clause's and the instruction's address, and the read counts as a logic error of its core (R376,
R402, as log entry 103 reads them). -/
def Sys2Proof.Claims.PoisonRecorded : Prop :=
  ∀ (s : State) (g : Group) (c : Clause) (m : Mask) (src : Nat),
    s.buffered (s.clusterOf g) < 256 →
    let t := s.holdFault g c { code := .poison, source := src, pool := true } m
    (∃ r, r ∈ t.records ∧ r.code = .poison ∧ r.mask = m ∧ r.header = c.header ∧ r.word = c.word ∧ r.gid = g.gid ∧
      r.source = src ∧ r.answer = 0) ∧
    ∃ time, t.agenda.head? = some (.logic (s.clusterOf g) g.core g.block time)

/-- A lane whose guard reads 0 skips the clause: with no executing lane an instruction changes nothing, whatever
it is. A register read that meets a poison mark raises POISON for the lanes whose reads met it and the
instruction's own effect does not happen (R158, R194, R367); that it stands until the answer (R372) is read from
the spec (log entry 53), as is its wait for room in a full fault buffer (log entry 51): no group changes but
that its clause waits, and that halted lanes are called (R356). Such a read is recorded: while the fault buffer
has room, POISON of the lanes whose reads met a mark is filed with the clause's and the instruction's address,
and the read counts as a logic error of its core (R376, R402, as log entry 103 reads them). Where the spec
leaves a choice the model takes that of log entries 51, 53 and 103. -/
def Obligations.PoisonAndSkips : Prop :=
  Sys2Proof.Claims.SkippedClauseIdle ∧
    Sys2Proof.Claims.PoisonedOperandHolds ∧
    Sys2Proof.Claims.PoisonRecorded

/-! ### Scalars -/

namespace Sys2Proof.Claims

/-- The number of leading 0 bits of a word, counted from bit 31 down. -/
def leadingZeros (a : Word) : Nat := ((List.range 32).find? fun k => a.getLsbD (31 - k)).getD 32

/-- The number of 1 bits of a word. -/
def oneBits (a : Word) : Nat := ((List.range 32).filter fun k => a.getLsbD k).length

/-- 1 where the condition holds, else 0. -/
def truth (p : Prop) [Decidable p] : Word := if p then 1 else 0

/-- The scalar register an instruction of classes 0x0 and 0x1 writes, when it writes one and no more. -/
def scalarDest : Instr → Option SReg
  | .sadd d _ _ | .ssub d _ _ | .smul d _ _ | .smulh d _ _ | .smulhU d _ _ | .sand d _ _ | .sor d _ _
  | .sxor d _ _ | .sshl d _ _ | .sshr d _ _ | .ssar d _ _ | .smin d _ _ | .smax d _ _ | .sminu d _ _
  | .smaxu d _ _ | .ssel d _ _ _ | .sclz d _ | .spop d _ | .smov d _ | .scmpEq d _ _ | .scmpNe d _ _
  | .scmpLt d _ _ | .scmpLe d _ _ | .scmpGt d _ _ | .scmpGe d _ _ | .scmpLtu d _ _ | .scmpLeu d _ _
  | .scmpGtu d _ _ | .scmpGeu d _ _ | .smovi d _ | .saddiShort d _ _ | .saddiXi d _ _ | .slit d _ => some d
  | _ => none

end Sys2Proof.Claims

/-- The scalar arithmetic writes what R159 gives: sums, differences and products modulo 2^32, the high
words of the exact signed and unsigned products, the logic operations, the shifts with every amount, the
extremes, the counts, and the move. -/
def Obligations.ScalarArithmetic : Prop :=
  ∀ d a b : SReg,
    let A (s : State) (g : Group) : Word := readS s g a.val
    let B (s : State) (g : Group) : Word := readS s g b.val
    GivesS (.sadd d a b) d (fun s g => BitVec.ofNat 32 ((A s g).toNat + (B s g).toNat)) ∧
    GivesS (.ssub d a b) d (fun s g => BitVec.ofInt 32 ((A s g).toInt - (B s g).toInt)) ∧
    GivesS (.smul d a b) d (fun s g => BitVec.ofNat 32 ((A s g).toNat * (B s g).toNat)) ∧
    GivesS (.smulh d a b) d
      (fun s g => ((A s g).signExtend 64 * (B s g).signExtend 64).extractLsb' 32 32) ∧
    GivesS (.smulhU d a b) d
      (fun s g => ((A s g).setWidth 64 * (B s g).setWidth 64).extractLsb' 32 32) ∧
    GivesS (.sand d a b) d (fun s g => A s g &&& B s g) ∧
    GivesS (.sor d a b) d (fun s g => A s g ||| B s g) ∧
    GivesS (.sxor d a b) d (fun s g => A s g ^^^ B s g) ∧
    GivesS (.sshl d a b) d (fun s g => BitVec.ofNat 32 ((A s g).toNat * 2 ^ (B s g).toNat)) ∧
    GivesS (.sshr d a b) d (fun s g => BitVec.ofNat 32 ((A s g).toNat / 2 ^ (B s g).toNat)) ∧
    GivesS (.ssar d a b) d (fun s g => BitVec.ofInt 32 ((A s g).toInt / 2 ^ (B s g).toNat)) ∧
    GivesS (.smin d a b) d (fun s g => BitVec.ofInt 32 (min (A s g).toInt (B s g).toInt)) ∧
    GivesS (.smax d a b) d (fun s g => BitVec.ofInt 32 (max (A s g).toInt (B s g).toInt)) ∧
    GivesS (.sminu d a b) d (fun s g => BitVec.ofNat 32 (min (A s g).toNat (B s g).toNat)) ∧
    GivesS (.smaxu d a b) d (fun s g => BitVec.ofNat 32 (max (A s g).toNat (B s g).toNat)) ∧
    GivesS (.sclz d a) d (fun s g => BitVec.ofNat 32 (leadingZeros (A s g))) ∧
    GivesS (.spop d a) d (fun s g => BitVec.ofNat 32 (oneBits (A s g))) ∧
    GivesS (.smov d a) d A

/-- SCMP writes 1 when its condition holds and 0 when it does not (R160); SSEL takes its first source
where the third is not 0 (R161); the immediates are sign-extended (R162). -/
def Obligations.ScalarComparesAndImmediates : Prop :=
  ∀ (d a b c : SReg) (i14 : BitVec 14) (i7 : BitVec 7) (xi : Word),
    let A (s : State) (g : Group) : Word := readS s g a.val
    let B (s : State) (g : Group) : Word := readS s g b.val
    GivesS (.scmpEq d a b) d (fun s g => truth (A s g = B s g)) ∧
    GivesS (.scmpNe d a b) d (fun s g => truth (A s g ≠ B s g)) ∧
    GivesS (.scmpLt d a b) d (fun s g => truth ((A s g).toInt < (B s g).toInt)) ∧
    GivesS (.scmpLe d a b) d (fun s g => truth ((A s g).toInt ≤ (B s g).toInt)) ∧
    GivesS (.scmpGt d a b) d (fun s g => truth ((A s g).toInt > (B s g).toInt)) ∧
    GivesS (.scmpGe d a b) d (fun s g => truth ((A s g).toInt ≥ (B s g).toInt)) ∧
    GivesS (.scmpLtu d a b) d (fun s g => truth ((A s g).toNat < (B s g).toNat)) ∧
    GivesS (.scmpLeu d a b) d (fun s g => truth ((A s g).toNat ≤ (B s g).toNat)) ∧
    GivesS (.scmpGtu d a b) d (fun s g => truth ((A s g).toNat > (B s g).toNat)) ∧
    GivesS (.scmpGeu d a b) d (fun s g => truth ((A s g).toNat ≥ (B s g).toNat)) ∧
    GivesS (.ssel d a b c) d (fun s g => if readS s g c.val = 0 then B s g else A s g) ∧
    GivesS (.smovi d i14) d (fun _ _ => BitVec.ofInt 32 i14.toInt) ∧
    GivesS (.saddiShort d a i7) d (fun s g => BitVec.ofInt 32 ((A s g).toInt + i7.toInt)) ∧
    GivesS (.saddiXi d a xi) d (fun s g => BitVec.ofNat 32 ((A s g).toNat + xi.toNat)) ∧
    GivesS (.slit d xi) d (fun _ _ => xi)

/-- The frame of the scalar instructions: but for the destination register, its poison marks and the
mark that a pending result for it was overwritten (R112), the group is as before; so is everything else, and
every byte of memory. -/
def Obligations.ScalarFrame : Prop :=
  ∀ (i : Instr) (d : SReg) (s : State) (g : Group) (c : Clause), scalarDest i = some d → Issues i s g c →
    Answers (exec i s) fun t => OnlyGroup s t g.uid ∧ After t g.uid fun g' =>
      (∀ r, r ≠ g.sbase + d.val → tget 0 g'.s r = tget 0 g.s r) ∧
      (∀ h, h ∈ g'.sPoison ↔ h ∈ g.sPoison ∧ h / 2 ≠ g.sbase + d.val) ∧
      g'.pend = (g.pend.map fun p => if p.dst = .s (g.sbase + d.val) then { p with clob := true } else p) ∧
      { g' with s := [], sPoison := [], pend := [] } = { g with s := [], sPoison := [], pend := [] }

/-- The scalar file: what a write leaves is what a read of that register gives, every other register
reads as before, and a register whose result is pending reads the free value until its flag clears (R107,
R112). -/
def Sys2Proof.Claims.ScalarFile : Prop :=
  ∀ (s : State) (g : Group) (d r : Nat) (w : Word),
    readS s (g.writeS d w) r =
      if g.pendS (g.sbase + r) then s.undef (s.slotOf g) .sreg (g.sbase + r) else if r = d then w else readS s g r

/-- SRD gives each special register its value: per lane into a vector register, and the lowest executing lane's
into a scalar register. Reading changes nothing else, but that CYCLE stands at the value read: the value it last
showed and a number of cycles that nothing fixes (log entry 12). A group of the service reads a CLUSTER that
nothing fixes (log entry 123). Where the spec leaves a choice the model takes that of log entries 12 and 123. -/
def Obligations.SpecialReads : Prop :=
  (∀ (d : SReg) (n : SpecReg), Gives (.srdS d n) fun s g c =>
    (s.afterSpecial g n).setGroup ((s.special g (maskLowest c.exec) n).zipIdx.foldl
      (fun g' e => g'.writeS (d.val + e.2) e.1) g)) ∧
  (∀ (d : VReg) (n : SpecReg), Gives (.srdV d n) fun s g c =>
    (s.afterSpecial g n).setGroup (eachLane g c fun g' l => g'.writeVs l d.val (s.special g l n))) ∧
  (∀ (s : State) (g : Group) (n : SpecReg), n ≠ .cycle → s.afterSpecial g n = s) ∧
  (∀ (s : State) (g : Group) (l : Nat), ∃ (v : DWord) (n : Word),
    v = (s.cluster (s.clusterOf g)).cycle + n.setWidth 64 ∧
    s.special g l .cycle = [v.setWidth 32, v.extractLsb' 32 32] ∧
    (s.afterSpecial g .cycle).cluster (s.clusterOf g) = { s.cluster (s.clusterOf g) with cycle := v } ∧
    (∀ k, k ≠ s.clusterOf g → (s.afterSpecial g .cycle).cluster k = s.cluster k) ∧
    { s.afterSpecial g .cycle with clusters := [] } = { s with clusters := [] }) ∧
  (∀ (s : State) (g : Group) (l : Nat), ∃ w : Word, s.special g l .gstatus = [w] ∧
    w.getLsbD 0 = g.serial ∧ w.getLsbD 1 = false ∧ w.getLsbD 2 = g.restored ∧ w.getLsbD 3 = g.replay ∧
    w.getLsbD 4 = decide (g.helpers g.live ≠ 0) ∧ w.getLsbD 5 = s.shared g ∧
    w.getLsbD 6 = decide (g.width = 64) ∧
    w.getLsbD 7 = (g.gen.isSome && (lanesOf g.live).all fun l => (g.lane l).gdone) ∧
    (w.extractLsb' 8 2).toNat = (match g.gen with | none => 0 | some x => if x.mode = .producer then 1 else 2) ∧
    (w.extractLsb' 10 2).toNat = g.role % 4 ∧ (w.extractLsb' 12 4).toNat = (if g.serial then 0 else min 8 g.paths) ∧
    w.extractLsb' 16 16 = 0) ∧
  (∀ (s : State) (g : Group) (l : Nat), (g.gen = none → s.special g l .serai = [0]) ∧
    ∀ x, g.gen = some x → 1 ≤ x.words → x.words ≤ 4 → x.entries.length ≤ 4096 → ∃ w : Word,
      s.special g l .serai = [w] ∧ (w.extractLsb' 0 13).toNat = x.entries.length ∧ w.getLsbD 13 = false ∧
      (w.extractLsb' 14 2).toNat + 1 = x.words ∧ w.extractLsb' 16 16 = 0) ∧
  ∀ (s : State) (g : Group) (l : Nat) (b : Block), s.block? g.block = some b →
    s.special g l .lane = [BitVec.ofNat 32 l] ∧ s.special g l .gid = [BitVec.ofNat 32 g.gid] ∧
    s.special g l .bid = [BitVec.ofNat 32 b.bid] ∧ s.special g l .core = [BitVec.ofNat 32 g.core] ∧
    (b.cluster < 8 → s.special g l .cluster = [BitVec.ofNat 32 b.cluster]) ∧
    s.special g l .width = [BitVec.ofNat 32 g.width] ∧
    s.special g l .partword = [b.task.partword] ∧ s.special g l .vbase = [BitVec.ofNat 32 (g.lane l).vbase] ∧
    s.special g l .sbase = [BitVec.ofNat 32 g.sbase] ∧ s.special g l .svcarg = [g.svcarg] ∧
    s.special g l .lin = (List.range 4).map (fun k => (g.lane l).lin.extractLsb' (32 * k) 32) ∧
    s.special g l .routebase = [(s.ctx b.slot).ccb.routeBase.setWidth 32,
      (s.ctx b.slot).ccb.routeBase.extractLsb' 32 32] ∧
    s.special g l .energy = [(s.ctx b.slot).ccb.energy.setWidth 32,
      (s.ctx b.slot).ccb.energy.extractLsb' 32 32] ∧
    (∀ u, b.cores.find? (fun e => e.1 == g.core) = some (g.core, u) →
      s.special g l .spbase = [BitVec.ofNat 32 (32768 * u)]) ∧
    ((s.ctx b.slot).ccb.perfReq < 8 → (s.cluster b.cluster).level < 8 → ∃ w : Word, s.special g l .perf = [w] ∧
      (w.extractLsb' 0 3).toNat = (s.ctx b.slot).ccb.perfReq ∧
      (w.extractLsb' 3 3).toNat = (s.cluster b.cluster).level ∧ w.extractLsb' 6 26 = 0)

/-- SWR, SWIN and VWIN move the windows: the new base is in force where it leaves the window inside the
allocation, and otherwise the trap WINDOW is raised by the executing lanes and no base changes (R165, R168). -/
def Obligations.WindowMoves : Prop :=
  (∀ a : SReg, Gives (.swr a .vbase) fun s g c =>
    let v := (readS s g a.val).toNat
    if v % 8 = 0 ∧ v + 128 ≤ g.budget then s.setGroup (g.modLanes c.exec fun _ x => { x with vbase := v })
    else s.trapAt g c (.swr a .vbase) { code := .window } c.exec) ∧
  (∀ a : SReg, Gives (.swr a .sbase) fun s g c =>
    let v := (readS s g a.val).toNat
    if v % 32 = 0 ∧ v + 128 ≤ s.scalarCount g then s.setGroup { g with sbase := v }
    else s.trapAt g c (.swr a .sbase) { code := .window } c.exec) ∧
  (∀ a : SReg, GivesGroup (.swr a .svcarg) fun s g _ => { g with svcarg := readS s g a.val }) ∧
  (∀ i : BitVec 14, Gives (.swin i) fun s g c =>
    let n : Int := g.sbase + i.toInt
    if 0 ≤ n ∧ n + 128 ≤ s.scalarCount g then s.setGroup { g with sbase := n.toNat }
    else s.trapAt g c (.swin i) { code := .window } c.exec) ∧
  ∀ i : BitVec 14, Gives (.vwin i) fun s g c =>
    let n (l : Nat) : Int := (g.lane l).vbase + i.toInt
    if ∀ l ∈ lanesOf c.exec, 0 ≤ n l ∧ n l + 128 ≤ g.budget then
      s.setGroup (g.modLanes c.exec fun l x => { x with vbase := (n l).toNat })
    else s.trapAt g c (.vwin i) { code := .window } c.exec

/-! ### Vectors -/

namespace Sys2Proof.Claims

/-- The field that VBFE and VBFI name: `w` bits from bit `o`, cut at bit 31; no bit when `o` is 32 or more
(R197). -/
def fieldMask (o w : Word) : Word :=
  BitVec.ofNat 32 ((2 ^ min w.toNat (32 - o.toNat) - 1) * 2 ^ o.toNat)

/-- The vector register that an instruction of class 0x3 or 0x4, or a conversion or special function, writes
in its executing lanes and that is all it writes, with the registers it takes. -/
def vectorDest : Instr → Option (VReg × Nat)
  | .vadd d _ _ | .vsub d _ _ | .vmul d _ _ | .vmulhS32 d _ _ | .vmulhU32 d _ _ | .vmad d _ _ _
  | .vand d _ _ | .vor d _ _ | .vxor d _ _ | .vshl d _ _ | .vshr d _ _ | .vsar d _ _ | .vminS32 d _ _
  | .vminU32 d _ _ | .vmaxS32 d _ _ | .vmaxU32 d _ _ | .vabs d _ | .vclz d _ | .vpop d _ | .vbfi d _ _ _ | .vbfeS32 d _ _ _
  | .vbfeU32 d _ _ _ | .vsel d _ _ _ | .vmov d _ | .vmovi d _ | .vlit d _ | .fdot2 _ _ d _ _
  | .cvtn _ _ d _ | .fclass _ d _ | .qswapH d _ | .qswapV d _ | .qswapD d _ | .ddxFine d _ | .ddxCoarse d _
  | .ddyFine d _ | .ddyCoarse d _ => some (d, 1)
  | .fadd t _ d _ _ | .fsub t _ d _ _ | .fmul t _ d _ _ | .ffma t _ d _ _ _ | .fmin t d _ _
  | .fmax t d _ _ => some (d, t.regs)
  | .cvt t _ _ d _ => some (d, t.regs)
  | .frcp t _ d _ | .frsq t d _ | .fsqrt t _ d _ | .fdiv t _ d _ _ | .fexp2 t d _ | .flog2 t d _
  | .fsin t d _ | .fcos t d _ | .fround t _ d _ | .ffract t d _ => some (d, t.regs)
  | _ => none

/-- The predicate that an instruction writes in its executing lanes and that is all it writes. -/
def predDest : Instr → Option PReg
  | .vcmpEqS32 d _ _ | .vcmpNeS32 d _ _ | .vcmpLtS32 d _ _ | .vcmpLeS32 d _ _ | .vcmpGtS32 d _ _
  | .vcmpGeS32 d _ _ | .vcmpEqU32 d _ _ | .vcmpNeU32 d _ _ | .vcmpLtU32 d _ _ | .vcmpLeU32 d _ _
  | .vcmpGtU32 d _ _ | .vcmpGeU32 d _ _ | .fcmp _ _ d _ _ | .ishelp d | .pand d _ _ | .por d _ _
  | .pxor d _ _ | .pnot d _ | .pmov d _ => some d
  | _ => none

/-- In a replay, a use of other lanes that the retained data cannot give sets condition 6 (R325). -/
def noting (s : State) (g : Group) (p : Replay → Bool) : State :=
  match s.replayOf g with
  | some r => if p r then s.condition g 6 else s
  | none => s

/-- In a replay, the source `k` for the item's lane is in reach: a member of its quad for a fragment, itself
otherwise. -/
def inReach (g : Group) (r : Replay) (k : Int) : Bool :=
  if (g.lane r.lane).frag.isSome then decide (0 ≤ k ∧ k / 4 = (r.lane / 4 : Nat)) else decide (k = r.lane)

/-- The allocation registers of a lane that a destination of `n` registers from field `d` names; fields 120 and
up name temporaries. -/
def destIdx (x : Lane) (d n : Nat) : List Nat := ((List.range n).filter fun k => d + k < 120).map fun k => x.vIdx (d + k)

/-- The lanes that an operation across the lanes writes, its destination registers and its destination predicate:
the executing ones, of a vote, a match, a mask, a reduction or a scan those that are no helpers. -/
def acrossDest (g : Group) (c : Clause) : Instr → Option (List Nat × Nat × Nat × Option PReg)
  | .shflIdx d _ _ | .shflUp d _ _ | .shflDown d _ _ | .shflXor d _ _ => some (lanesOf c.exec, d.val, 1, none)
  | .voteAny d _ | .voteAll d _ => some (lanesOf (g.noHelpers c.exec), 0, 0, some d)
  | .voteBallot d _ | .matchAny d _ | .actmask d => some (lanesOf (g.noHelpers c.exec), d.val, 2, none)
  | .reduce _ t _ d _ | .scan _ t _ d _ => some (lanesOf (g.noHelpers c.exec), d.val, t.regs, none)
  | _ => none

/-- What a group keeps when the `n` registers from field `d` on, and a predicate, of some lanes are written: all
but those registers, their poison marks and that predicate, the results pending for them being marked as overwritten
(R112, R193, R194). -/
structure VectorKept (g g' : Group) (ls : List Nat) (d n : Nat) (p : Option PReg) : Prop where
  rest : { g' with lanes := [], pend := [] } = { g with lanes := [], pend := [] }
  count : g'.lanes.length = g.lanes.length
  pend : g'.pend = g.pend.map fun x =>
    if (ls.any fun l => (List.range n).any fun k => decide (x.dst = (g.lane l).dst l (d + k))) = true then
      { x with clob := true } else x
  idle : ∀ l, l ∉ ls → g'.lane l = g.lane l
  lane : ∀ l, { g'.lane l with v := [], t := [], vPoison := [], preds := 0 } =
    { g.lane l with v := [], t := [], vPoison := [], preds := 0 }
  regs : ∀ l r, r ∉ destIdx (g.lane l) d n → tget 0 (g'.lane l).v r = tget 0 (g.lane l).v r
  marks : ∀ l h, h / 2 ∉ destIdx (g.lane l) d n → (h ∈ (g'.lane l).vPoison ↔ h ∈ (g.lane l).vPoison)
  temps : ∀ l r, r < d ∨ d + n ≤ r →
    ((g'.lane l).t.find? fun e => e.1 == r) = ((g.lane l).t.find? fun e => e.1 == r)
  preds : ∀ l k, (∀ q, p = some q → k ≠ q.val) → (g'.lane l).pred k = (g.lane l).pred k

end Sys2Proof.Claims

/-- The vector integer arithmetic writes in every executing lane what R196 gives, from the sources as they stood
before; a written register's poison marks are gone (R194). -/
def Sys2Proof.Claims.VectorArithmetic : Prop :=
  ∀ d a b : VReg,
    let A (s : State) (g : Group) (l : Nat) : Word := readV s g l a.val
    let B (s : State) (g : Group) (l : Nat) : Word := readV s g l b.val
    GivesV (.vadd d a b) d (fun s g l => BitVec.ofNat 32 ((A s g l).toNat + (B s g l).toNat)) ∧
    GivesV (.vsub d a b) d (fun s g l => BitVec.ofInt 32 ((A s g l).toInt - (B s g l).toInt)) ∧
    GivesV (.vmul d a b) d (fun s g l => BitVec.ofNat 32 ((A s g l).toNat * (B s g l).toNat)) ∧
    GivesV (.vmulhS32 d a b) d
      (fun s g l => ((A s g l).signExtend 64 * (B s g l).signExtend 64).extractLsb' 32 32) ∧
    GivesV (.vmulhU32 d a b) d
      (fun s g l => ((A s g l).setWidth 64 * (B s g l).setWidth 64).extractLsb' 32 32) ∧
    GivesV (.vand d a b) d (fun s g l => A s g l &&& B s g l) ∧
    GivesV (.vor d a b) d (fun s g l => A s g l ||| B s g l) ∧
    GivesV (.vxor d a b) d (fun s g l => A s g l ^^^ B s g l) ∧
    GivesV (.vshl d a b) d (fun s g l => BitVec.ofNat 32 ((A s g l).toNat * 2 ^ (B s g l).toNat)) ∧
    GivesV (.vshr d a b) d (fun s g l => BitVec.ofNat 32 ((A s g l).toNat / 2 ^ (B s g l).toNat)) ∧
    GivesV (.vsar d a b) d (fun s g l => BitVec.ofInt 32 ((A s g l).toInt / 2 ^ (B s g l).toNat)) ∧
    GivesV (.vminS32 d a b) d (fun s g l => BitVec.ofInt 32 (min (A s g l).toInt (B s g l).toInt)) ∧
    GivesV (.vminU32 d a b) d (fun s g l => BitVec.ofNat 32 (min (A s g l).toNat (B s g l).toNat)) ∧
    GivesV (.vmaxS32 d a b) d (fun s g l => BitVec.ofInt 32 (max (A s g l).toInt (B s g l).toInt)) ∧
    GivesV (.vmaxU32 d a b) d (fun s g l => BitVec.ofNat 32 (max (A s g l).toNat (B s g l).toNat)) ∧
    GivesV (.vabs d a) d (fun s g l => BitVec.ofNat 32 (A s g l).toInt.natAbs) ∧
    GivesV (.vclz d a) d (fun s g l => BitVec.ofNat 32 (leadingZeros (A s g l))) ∧
    GivesV (.vpop d a) d (fun s g l => BitVec.ofNat 32 (oneBits (A s g l))) ∧
    GivesV (.vmov d a) d A

/-- The three-source forms (R197) and the immediates (R198): multiply-add, add with carry through a predicate
that is read before it is written, field extraction and insertion, selection; which marks a half keeps that no
write covers is log entry 63's reading of R194, and that VBFI of an empty field counts as a write of vd is the
model's choice (log entry 127). -/
def Sys2Proof.Claims.VectorThreeSource : Prop :=
  ∀ (d a b c : VReg) (p : PReg) (i14 : BitVec 14) (xi : Word),
    let A (s : State) (g : Group) (l : Nat) : Word := readV s g l a.val
    let B (s : State) (g : Group) (l : Nat) : Word := readV s g l b.val
    let C (s : State) (g : Group) (l : Nat) : Word := readV s g l c.val
    let sum (s : State) (g : Group) (l : Nat) : Nat :=
      (A s g l).toNat + (B s g l).toNat + (if (g.lane l).pred p.val then 1 else 0)
    GivesV (.vmad d a b c) d
      (fun s g l => BitVec.ofNat 32 ((A s g l).toNat * (B s g l).toNat + (C s g l).toNat)) ∧
    GivesGroup (.vaddc d a b p) (fun s g cl => eachLane g cl fun g' l =>
      (g'.writeV l d.val (BitVec.ofNat 32 (sum s g l))).writeP l p.val (decide (2 ^ 32 ≤ sum s g l))) ∧
    GivesV (.vbfeU32 d a b c) d (fun s g l =>
      (A s g l &&& fieldMask (B s g l) (C s g l)) >>> (B s g l).toNat) ∧
    GivesV (.vbfeS32 d a b c) d (fun s g l =>
      let n := min (C s g l).toNat (32 - (B s g l).toNat)
      if n = 0 then 0
      else (A s g l <<< (32 - (B s g l).toNat - n)).sshiftRight (32 - n)) ∧
    GivesGroup (.vbfi d a b c) (fun s g cl => eachLane g cl fun g' l =>
      let m := fieldMask (B s g l) (C s g l)
      (g'.writeV l d.val ((readV s g l d.val &&& ~~~ m) ||| (A s g l <<< (B s g l).toNat &&& m))).modLane l
        fun x => { x with vPoison :=
          (keptMarks g l d.val (B s g l) (C s g l)).foldr insertNat x.vPoison }) ∧
    GivesV (.vsel d a b p) d (fun s g l => if (g.lane l).pred p.val then A s g l else B s g l) ∧
    GivesV (.vmovi d i14) d (fun _ _ _ => BitVec.ofInt 32 i14.toInt) ∧
    GivesV (.vlit d xi) d (fun _ _ _ => xi)

/-- The vector integer arithmetic writes in every executing lane what R196 gives, from the sources as they stood
before; a written register's poison marks are gone (R194). The three-source forms (R197) and the immediates
(R198): multiply-add, add with carry through a predicate that is read before it is written, field extraction and
insertion, selection; which marks a half keeps that no write covers is log entry 63's reading of R194, and that
VBFI of an empty field counts as a write of vd is the model's choice (log entry 127). Where the spec leaves a
choice the model takes that of log entries 63 and 127. -/
def Obligations.VectorIntegers : Prop :=
  Sys2Proof.Claims.VectorArithmetic ∧
    Sys2Proof.Claims.VectorThreeSource

/-- Comparisons and predicate operations write 1 where their condition holds and 0 where it does not
(R199, R219, R221). -/
def Obligations.PredicateResults : Prop :=
  ∀ (d p q : PReg) (a b : VReg),
    let A (s : State) (g : Group) (l : Nat) : Word := readV s g l a.val
    let B (s : State) (g : Group) (l : Nat) : Word := readV s g l b.val
    GivesP (.vcmpEqS32 d a b) d (fun s g l => decide (A s g l = B s g l)) ∧
    GivesP (.vcmpNeS32 d a b) d (fun s g l => decide (A s g l ≠ B s g l)) ∧
    GivesP (.vcmpLtS32 d a b) d (fun s g l => decide ((A s g l).toInt < (B s g l).toInt)) ∧
    GivesP (.vcmpLeS32 d a b) d (fun s g l => decide ((A s g l).toInt ≤ (B s g l).toInt)) ∧
    GivesP (.vcmpGtS32 d a b) d (fun s g l => decide ((A s g l).toInt > (B s g l).toInt)) ∧
    GivesP (.vcmpGeS32 d a b) d (fun s g l => decide ((A s g l).toInt ≥ (B s g l).toInt)) ∧
    GivesP (.vcmpEqU32 d a b) d (fun s g l => decide ((A s g l).toNat = (B s g l).toNat)) ∧
    GivesP (.vcmpNeU32 d a b) d (fun s g l => decide ((A s g l).toNat ≠ (B s g l).toNat)) ∧
    GivesP (.vcmpLtU32 d a b) d (fun s g l => decide ((A s g l).toNat < (B s g l).toNat)) ∧
    GivesP (.vcmpLeU32 d a b) d (fun s g l => decide ((A s g l).toNat ≤ (B s g l).toNat)) ∧
    GivesP (.vcmpGtU32 d a b) d (fun s g l => decide ((A s g l).toNat > (B s g l).toNat)) ∧
    GivesP (.vcmpGeU32 d a b) d (fun s g l => decide ((A s g l).toNat ≥ (B s g l).toNat)) ∧
    GivesP (.ishelp d) d (fun _ g l => (g.lane l).helper) ∧
    GivesP (.pand d p q) d (fun _ g l => (g.lane l).pred p.val && (g.lane l).pred q.val) ∧
    GivesP (.por d p q) d (fun _ g l => (g.lane l).pred p.val || (g.lane l).pred q.val) ∧
    GivesP (.pxor d p q) d (fun _ g l => (g.lane l).pred p.val != (g.lane l).pred q.val) ∧
    GivesP (.pnot d p) d (fun _ g l => !(g.lane l).pred p.val) ∧
    GivesP (.pmov d p) d (fun _ g l => (g.lane l).pred p.val)

/-- The frame of the vector instructions: in an executing lane only the destination's registers and their poison
marks change, a lane that does not execute does not change at all, no predicate, scalar, k register or flag changes, and
no byte of memory; VADDC writes its predicate too; a shuffle, vote, match, mask, reduction or scan leaves the same, of
the lanes that it writes, but that a replay in which the retained data cannot give the other lanes has condition 6 set
(R325). -/
def Sys2Proof.Claims.VectorFrame : Prop :=
  (∀ (i : Instr) (d : VReg) (n : Nat) (s : State) (g : Group) (c : Clause), vectorDest i = some (d, n) →
    Issues i s g c → Answers (exec i s) fun t => OnlyGroup s t g.uid ∧ After t g.uid fun g' =>
      VectorKept g g' (lanesOf c.exec) d.val n none) ∧
  (∀ (d a b : VReg) (p : PReg) (s : State) (g : Group) (c : Clause), Issues (.vaddc d a b p) s g c →
    Answers (exec (.vaddc d a b p) s) fun t => OnlyGroup s t g.uid ∧ After t g.uid fun g' =>
      VectorKept g g' (lanesOf c.exec) d.val 1 (some p)) ∧
  ∀ (i : Instr) ls d n p (s : State) (g : Group) (c : Clause), acrossDest g c i = some (ls, d, n, p) →
    Issues i s g c → Answers (exec i s) fun t =>
      (OnlyGroup s t g.uid ∨ s.replayOf g ≠ none ∧ OnlyGroup (s.condition g 6) t g.uid) ∧
      After t g.uid fun g' => VectorKept g g' ls d n p

/-- The frame of the instructions that write a predicate: nothing but that predicate of the executing
lanes changes, and writing p15 changes nothing (R107, R193). -/
def Sys2Proof.Claims.PredicateFrame : Prop :=
  ∀ (i : Instr) (d : PReg) (s : State) (g : Group) (c : Clause), predDest i = some d → Issues i s g c →
    Answers (exec i s) fun t => OnlyGroup s t g.uid ∧ After t g.uid fun g' =>
      { g' with lanes := [] } = { g with lanes := [] } ∧ g'.lanes.length = g.lanes.length ∧
      ∀ l, ((mHas c.exec l = false ∨ d.val = 15) → g'.lane l = g.lane l) ∧
        { g'.lane l with preds := 0 } = { g.lane l with preds := 0 } ∧
        ∀ k, k ≠ d.val → (g'.lane l).pred k = (g.lane l).pred k

/-- The frame of the vector instructions: in an executing lane only the destination's registers and their poison
marks change, a lane that does not execute does not change at all, no predicate, scalar, k register or flag
changes, and no byte of memory; VADDC writes its predicate too; a shuffle, vote, match, mask, reduction or scan
leaves the same, of the lanes that it writes, but that a replay in which the retained data cannot give the other
lanes has condition 6 set (R325). The frame of the instructions that write a predicate: nothing but that
predicate of the executing lanes changes, and writing p15 changes nothing (R107, R193). -/
def Obligations.VectorFrames : Prop :=
  Sys2Proof.Claims.VectorFrame ∧
    Sys2Proof.Claims.PredicateFrame

/-- The vector file: a register or temporary that an executing lane has written reads as written, in that
lane and no other, until then pending results aside; its poison marks are gone, and p15 reads 1 whatever is
written (R30, R107, R112, R194). -/
def Sys2Proof.Claims.VectorFile : Prop :=
  ∀ (s : State) (g : Group) (l k : Nat) (d r : VReg) (p q : PReg) (w : Word) (b : Bool), l < g.lanes.length →
    (readV s (g.writeV l d.val w) k r.val =
      if (if r.val < 120 then g.pendV k ((g.lane k).vIdx r.val) else g.pendT k r.val) then
        s.undef (s.slotOf g) .vreg (vPlace k (if r.val < 120 then (g.lane k).vIdx r.val else 392 + r.val))
      else if k = l ∧ r = d then w else readV s g k r.val) ∧
    (g.writeV l d.val w).vBad k r.val = (if k = l ∧ r = d then false else g.vBad k r.val) ∧
    (((g.writeP l p.val b).lane k).pred q.val =
      if q.val = 15 then true else if k = l ∧ q = p then b else (g.lane k).pred q.val)

/-- The scalar file: what a write leaves is what a read of that register gives, every other register reads as
before, and a register whose result is pending reads the free value until its flag clears (R107, R112). The
vector file: a register or temporary that an executing lane has written reads as written, in that lane and no
other, until then pending results aside; its poison marks are gone, and p15 reads 1 whatever is written (R30,
R107, R112, R194). -/
def Obligations.RegisterFiles : Prop :=
  Sys2Proof.Claims.ScalarFile ∧
    Sys2Proof.Claims.VectorFile

/-! ### Floating point -/

/-- The float instructions write in every executing lane the result of their operation on the bits of
their sources, element by element for the packed types, rounded once in the mode (R200 to R211). -/
def Obligations.FloatResults : Prop :=
  ∀ (t : FTy) (p : Prec) (h : Half) (r : Rnd) (n : Narrow) (dt st : NumTy) (x : FCond) (d a b c : VReg) (e : PReg),
    let A (k : Nat) (s : State) (g : Group) (l : Nat) : Nat := readBits s g l a.val k
    let B (k : Nat) (s : State) (g : Group) (l : Nat) : Nat := readBits s g l b.val k
    let writes (i : Instr) (k : Nat) (v : State → Group → Nat → Nat) : Prop :=
      GivesGroup i fun s g cl => eachLane g cl fun g' l => g'.writeBits l d.val k (v s g l)
    let two (i : Instr) (f : Nat → Nat → Nat) : Prop :=
      writes i t.regs fun s g l => perElem2 t f (A t.regs s g l) (B t.regs s g l)
    let one (i : Instr) (f : Nat → Nat) : Prop := writes i p.regs fun s g l => f (A p.regs s g l)
    let V := p.fmt.value
    two (.fadd t r d a b) (fun u v => t.fmt.round r (Machine.Num.add r (t.fmt.value u) (t.fmt.value v))) ∧
    two (.fsub t r d a b) (fun u v => t.fmt.round r (Machine.Num.add r (t.fmt.value u) (t.fmt.value v).neg)) ∧
    two (.fmul t r d a b) (fun u v => t.fmt.round r (Machine.Num.mul (t.fmt.value u) (t.fmt.value v))) ∧
    two (.fmin t d a b) (t.fmt.minMax false) ∧ two (.fmax t d a b) (t.fmt.minMax true) ∧
    writes (.ffma t r d a b c) t.regs (fun s g l => perElem3 t (fun u v w =>
      t.fmt.round r (Machine.Num.add r (Machine.Num.mul (t.fmt.value u) (t.fmt.value v)) (t.fmt.value w)))
      (A t.regs s g l) (B t.regs s g l) (readBits s g l c.val t.regs)) ∧
    GivesP (.fcmp t x e a b) e (fun s g l => floatCond t x (A t.regs s g l) (B t.regs s g l)) ∧
    writes (.fdot2 h r d a b) 1 (fun s g l => dot2 h r (readBits s g l d.val 1) (A 1 s g l) (B 1 s g l)) ∧
    writes (.cvt dt st r d a) dt.regs (fun s g l => cvtResult dt r (cvtSource st (A st.regs s g l))) ∧
    writes (.cvtn n r d a) 1 (fun s g l => narrowBits (s.ctxOf g).ccb.ovt ((fmtOf n.src).getD .f32)
      ((fmtOf n.dst).getD .f32) r (A n.src.regs s g l)) ∧
    one (.frcp p r d a) (fun u => p.fmt.round r (Machine.Num.div (V p.fmt.one) (V u))) ∧
    one (.frsq p d a) (fun u => p.fmt.round .rn (V u).rsqrt) ∧
    one (.fsqrt p r d a) (fun u => p.fmt.round r (V u).sqrt) ∧
    writes (.fdiv p r d a b) p.regs (fun s g l => p.fmt.round r (Machine.Num.div (V (A p.regs s g l)) (V (B p.regs s g l)))) ∧
    one (.fexp2 p d a) p.fmt.exp2 ∧ one (.flog2 p d a) p.fmt.log2 ∧ one (.fsin p d a) p.fmt.sin ∧
    one (.fcos p d a) p.fmt.cos ∧ one (.fround p r d a) (p.fmt.integral r) ∧ one (.ffract p d a) p.fmt.fract ∧
    writes (.fclass p d a) 1 (fun s g l => p.fmt.classOf (A p.regs s g l))

/-- Special operands of the special functions (the table of R209), for binary32 and binary64: NaN
operands, both zeros, both infinities, and finite operands below 0. -/
def Sys2Proof.Claims.SpecialOperands : Prop :=
  ∀ p : Prec, let f := p.fmt
    let inf := f.infBits
    let ninf := f.signBit + f.infBits
    let nzero := f.signBit
    let rcp (r : Rnd) (x : Nat) : Nat := f.round r (Machine.Num.div (f.value f.one) (f.value x))
    let rsq (x : Nat) : Nat := f.round .rn (f.value x).rsqrt
    let sqrt (r : Rnd) (x : Nat) : Nat := f.round r (f.value x).sqrt
    (∀ (x : Nat) (r : Rnd), f.value x = .nan → rcp r x = f.nanBits ∧ rsq x = f.nanBits ∧ sqrt r x = f.nanBits ∧
      f.exp2 x = f.nanBits ∧ f.log2 x = f.nanBits ∧ f.sin x = f.nanBits ∧ f.cos x = f.nanBits) ∧
    (∀ r : Rnd, rcp r 0 = inf ∧ rcp r nzero = ninf ∧ rcp r inf = 0 ∧ rcp r ninf = nzero ∧
      sqrt r 0 = 0 ∧ sqrt r nzero = nzero ∧ sqrt r inf = inf ∧ sqrt r ninf = f.nanBits) ∧
    (rsq 0 = inf ∧ rsq nzero = ninf ∧ rsq inf = 0 ∧ rsq ninf = f.nanBits) ∧
    (f.exp2 0 = f.one ∧ f.exp2 nzero = f.one ∧ f.exp2 inf = inf ∧ f.exp2 ninf = 0) ∧
    (f.log2 0 = ninf ∧ f.log2 nzero = ninf ∧ f.log2 inf = inf ∧ f.log2 ninf = f.nanBits) ∧
    (f.sin 0 = 0 ∧ f.sin nzero = nzero ∧ f.sin inf = f.nanBits ∧ f.sin ninf = f.nanBits) ∧
    (f.cos 0 = f.one ∧ f.cos nzero = f.one ∧ f.cos inf = f.nanBits ∧ f.cos ninf = f.nanBits) ∧
    ∀ (x m : Nat) (e : Int) (r : Rnd), f.value x = .fin true m e → m ≠ 0 →
      rsq x = f.nanBits ∧ sqrt r x = f.nanBits ∧ f.log2 x = f.nanBits

/-- FMIN and FMAX (the table of R202): of two numbers that differ the lesser and the greater, of the zeros
−0 and +0, of a NaN and a number the number, of two NaNs the canonical NaN. -/
def Sys2Proof.Claims.FloatExtremes : Prop :=
  ∀ (f : Fmt) (a b : Nat), f ∈ [Fmt.f16, Fmt.bf16, Fmt.f32, Fmt.f64] →
    a < 2 ^ (1 + f.eb + f.fb) → b < 2 ^ (1 + f.eb + f.fb) →
    let n (x : Nat) : Prop := f.value x = .nan
    (n a → n b → f.minMax false a b = f.nanBits ∧ f.minMax true a b = f.nanBits) ∧
    (n a → ¬ n b → f.minMax false a b = b ∧ f.minMax true a b = b) ∧
    (¬ n a → n b → f.minMax false a b = a ∧ f.minMax true a b = a) ∧
    (¬ n a → ¬ n b → (f.value a).lt (f.value b) → f.minMax false a b = a ∧ f.minMax true a b = b) ∧
    (¬ n a → ¬ n b → (f.value b).lt (f.value a) → f.minMax false a b = b ∧ f.minMax true a b = a) ∧
    f.minMax false 0 f.signBit = f.signBit ∧ f.minMax false f.signBit 0 = f.signBit ∧
    f.minMax true 0 f.signBit = 0 ∧ f.minMax true f.signBit 0 = 0

/-- Special operands of the special functions (the table of R209), for binary32 and binary64: NaN operands, both
zeros, both infinities, and finite operands below 0. FMIN and FMAX (the table of R202): of two numbers that
differ the lesser and the greater, of the zeros −0 and +0, of a NaN and a number the number, of two NaNs the
canonical NaN. -/
def Obligations.FloatTables : Prop :=
  Sys2Proof.Claims.SpecialOperands ∧
    Sys2Proof.Claims.FloatExtremes

namespace Sys2Proof.Claims

/-- The rational value of a finite number. -/
def ratOf : Machine.Num → Option ℚ
  | .fin neg m e => some ((if neg then -1 else 1) * (m : ℚ) * 2 ^ e)
  | _ => none

/-- The place of a number that is no NaN: below or above every finite one, or at its rational value. -/
def placeOf : Machine.Num → Int × ℚ
  | .inf neg => (if neg then -1 else 1, 0)
  | x => (0, (ratOf x).getD 0)

/-- The order of places. -/
def Under (x y : Int × ℚ) : Prop := x.1 < y.1 ∨ x.1 = y.1 ∧ x.2 < y.2

/-- When a condition of FCMP holds (the table of R203). -/
def Compares (c : FCond) (a b : Machine.Num) : Prop :=
  let n := a = .nan ∨ b = .nan
  let x := placeOf a
  let y := placeOf b
  match c with
  | .eq => ¬ n ∧ x = y
  | .ne => n ∨ x ≠ y
  | .lt => ¬ n ∧ Under x y
  | .le => ¬ n ∧ (Under x y ∨ x = y)
  | .gt => ¬ n ∧ Under y x
  | .ge => ¬ n ∧ (Under y x ∨ x = y)
  | .un => n

/-- The integer that a rational rounds to in a mode (R85). -/
def RoundsTo (r : Rnd) (x : ℚ) (n : Int) : Prop :=
  match r with
  | .rn => |x - n| ≤ 1 / 2 ∧ (|x - n| = 1 / 2 → Even n)
  | .rz => n = if 0 ≤ x then ⌊x⌋ else ⌈x⌉
  | .ru => n = ⌈x⌉
  | .rd => n = ⌊x⌋

/-- A rational overflows a format: rounded with an unbounded exponent range it lies beyond the largest finite
magnitude, the half-way value included under .rn (R99). -/
def Overflows (f : Fmt) (r : Rnd) (x : ℚ) : Prop :=
  match r with
  | .rn => (2 - (2 : ℚ)⁻¹ ^ (f.fb + 1)) * 2 ^ f.bias ≤ |x|
  | .rz => 2 ^ (f.bias + 1) ≤ |x|
  | .ru => if 0 < x then (2 - (2 : ℚ)⁻¹ ^ f.fb) * 2 ^ f.bias < x else 2 ^ (f.bias + 1) ≤ -x
  | .rd => if x < 0 then (2 - (2 : ℚ)⁻¹ ^ f.fb) * 2 ^ f.bias < -x else 2 ^ (f.bias + 1) ≤ x

/-- The bits of an integer type, whether it is signed (R81), and its least and greatest value. -/
def intType : NumTy → Option (Nat × Bool)
  | .s8 => some (8, true) | .s16 => some (16, true) | .s32 => some (32, true) | .s64 => some (64, true)
  | .u32 => some (32, false) | .u64 => some (64, false) | _ => none

/-- The integer that a source register of CVT holds (R206). -/
def intOf (w : Nat) (signed : Bool) (bits : Nat) : Int :=
  if signed ∧ 2 ^ (w - 1) ≤ bits % 2 ^ w then (bits % 2 ^ w : Nat) - 2 ^ w else (bits % 2 ^ w : Nat)

/-- The register that CVT writes for an integer: the nearest value of the type's range, s8 and s16 sign-extended to
32 bits (R206, R207). -/
def saturated (w : Nat) (signed : Bool) (v : Int) : Nat :=
  let lo : Int := if signed then -(2 ^ (w - 1)) else 0
  let hi : Int := if signed then 2 ^ (w - 1) - 1 else 2 ^ w - 1
  (max lo (min hi v) % 2 ^ (if w = 64 then 64 else 32)).toNat

/-- The fields of a context's overflow table (R98). -/
def tableField (ovt : BitVec 16) (d : NumTy) : Nat :=
  match d with
  | .f32 => (ovt.extractLsb' 0 2).toNat | .f16 => (ovt.extractLsb' 2 2).toNat | _ => (ovt.extractLsb' 4 2).toNat

end Sys2Proof.Claims

/-- What the float operations compute, in rational numbers: the value of a format's bits; sums and products are exact;
FCMP's conditions, both elements of a packed type; FDOT2 rounds one exact sum; CVT between integers and formats, exact
into a wider format; CVTN's overflow; FROUND and FFRACT; the classes of FCLASS; and the special functions where their
result is rational: quotients by powers of two, roots of squares, powers and logarithms of two (R82, R99, R200, R203,
R204, R206 to R211). -/
def Obligations.FloatMeanings : Prop :=
  (∀ f ∈ [Fmt.f16, Fmt.bf16, Fmt.f32, Fmt.f64], ∀ bits : Nat,
    let ex := bits / 2 ^ f.fb % 2 ^ f.eb
    let fr := bits % 2 ^ f.fb
    let sg : ℚ := if bits / 2 ^ (f.fb + f.eb) % 2 = 1 then -1 else 1
    ex ≠ 2 ^ f.eb - 1 → ratOf (f.value bits) = some (sg * if ex = 0
      then (fr : ℚ) / 2 ^ f.fb * 2 ^ (1 - (f.bias : Int)) else (1 + (fr : ℚ) / 2 ^ f.fb) * 2 ^ ((ex : Int) - f.bias))) ∧
  (∀ (r : Rnd) (a b : Machine.Num) (x y : ℚ), ratOf a = some x → ratOf b = some y →
    ratOf (Machine.Num.add r a b) = some (x + y) ∧ ratOf (Machine.Num.mul a b) = some (x * y) ∧
    ratOf a.neg = some (-x)) ∧
  (∀ (t : FTy) (c : FCond) (a b : Nat), floatCond t c a b = true ↔
    if t.packed then Compares c (t.fmt.value (a % 65536)) (t.fmt.value (b % 65536)) ∧
      Compares c (t.fmt.value (a / 65536)) (t.fmt.value (b / 65536))
    else Compares c (t.fmt.value a) (t.fmt.value b)) ∧
  (∀ (h : Half) (r : Rnd) (d a b : Nat),
    let D := Fmt.f32.value d
    let A0 := h.fmt.value (a % 65536)
    let A1 := h.fmt.value (a / 65536)
    let B0 := h.fmt.value (b % 65536)
    let B1 := h.fmt.value (b / 65536)
    ((∃ v ∈ [D, A0, A1, B0, B1], v = .nan) → dot2 h r d a b = Fmt.f32.nanBits) ∧
    ∀ x p q u v, ratOf D = some x → ratOf A0 = some p → ratOf B0 = some q → ratOf A1 = some u → ratOf B1 = some v →
      ∃ z, ratOf z = some (x + p * q + u * v) ∧ dot2 h r d a b = Fmt.f32.round r z) ∧
  (∀ (dt st : NumTy) (r : Rnd) (bits : Nat),
    (∀ w sg v ds, intType st = some (w, sg) → intType dt = some (v, ds) →
      cvtResult dt r (cvtSource st bits) = saturated v ds (intOf w sg bits)) ∧
    (∀ w sg f, intType st = some (w, sg) → fmtOf dt = some f →
      ∃ z, ratOf z = some (intOf w sg bits : ℚ) ∧ cvtResult dt r (cvtSource st bits) = f.round r z) ∧
    (∀ f w sg, fmtOf st = some f → intType dt = some (w, sg) →
      let x := f.value (bits % 2 ^ (1 + f.eb + f.fb))
      (x = .nan → cvtResult dt r (cvtSource st bits) = 0) ∧
      (∀ neg, x = .inf neg → cvtResult dt r (cvtSource st bits) = saturated w sg (if neg then -(2 ^ 64) else 2 ^ 64)) ∧
      ∀ q, ratOf x = some q → ∃ n, RoundsTo r q n ∧ cvtResult dt r (cvtSource st bits) = saturated w sg n) ∧
    (∀ f e, fmtOf st = some f → fmtOf dt = some e →
      let x := f.value (bits % 2 ^ (1 + f.eb + f.fb))
      cvtResult dt r (cvtSource st bits) = e.round r x ∧
      (f.eb ≤ e.eb → f.fb < e.fb → (x = .nan → e.round r x = e.nanBits) ∧
        (x ≠ .nan → placeOf (e.value (e.round r x)) = placeOf x ∧ (e.value (e.round r x)).isNeg = x.isNeg)))) ∧
  (∀ (n : Narrow) (f d : Fmt) (r : Rnd) (ovt : BitVec 16) (bits : Nat), fmtOf n.src = some f → fmtOf n.dst = some d →
    let k := tableField ovt n.dst
    let out := narrowBits ovt f d r bits
    ((∀ x, ratOf (f.value bits) = some x → ¬ Overflows d r x) → out = d.round r (f.value bits)) ∧
    ∀ x, ratOf (f.value bits) = some x → Overflows d r x →
      (k = 0 → out = (if x < 0 then 2 ^ (d.eb + d.fb) else 0) + (d.infBits - 1)) ∧
      (k = 1 → out = d.round r (f.value bits)) ∧ (k = 2 → out = d.nanBits)) ∧
  ∀ p : Prec, let f := p.fmt
    (∀ (r : Rnd) (a : Nat) (x : ℚ), ratOf (f.value a) = some x → ∃ n : Int, RoundsTo r x n ∧
      ratOf (f.value (f.integral r a)) = some (n : ℚ) ∧ (f.value (f.integral r a)).isNeg = (f.value a).isNeg) ∧
    (∀ (r : Rnd) (a : Nat), (f.value a = .nan → f.integral r a = f.nanBits) ∧
      ∀ neg, f.value a = .inf neg → f.integral r a = f.withSign neg f.infBits) ∧
    (∀ (a : Nat) (x : ℚ), ratOf (f.value a) = some x → ∃ z, ratOf z = some (x - ⌊x⌋) ∧ z.isNeg = false ∧
      f.fract a = if f.round .rn z = f.one then f.one - 1 else f.round .rn z) ∧
    (∀ a, ratOf (f.value a) = none → f.fract a = f.nanBits) ∧
    (∀ a, f.classOf a = match f.value a with
      | .inf neg => if neg then 2 ^ 0 else 2 ^ 7
      | .nan => if a / 2 ^ (f.fb - 1) % 2 = 1 then 2 ^ 9 else 2 ^ 8
      | .fin neg m _ => if m = 0 then (if neg then 2 ^ 3 else 2 ^ 4)
          else if m < 2 ^ f.fb then (if neg then 2 ^ 2 else 2 ^ 5) else if neg then 2 ^ 1 else 2 ^ 6) ∧
    (∀ (r : Rnd) (a b : Nat) (x : ℚ) (k : Int) (neg : Bool), ratOf (f.value a) = some x →
      ratOf (f.value b) = some ((if neg then -1 else 1) * (2 : ℚ) ^ k) →
      ∃ z, ratOf z = some (x * ((if neg then -1 else 1) * (2 : ℚ) ^ (-k))) ∧ f.div r a b = f.round r z) ∧
    (∀ (r : Rnd) (a : Nat) (y : ℚ), 0 < y → ratOf (f.value a) = some (y * y) →
      ∃ z, ratOf z = some y ∧ f.round r (f.value a).sqrt = f.round r z) ∧
    (∀ (a : Nat) (k : Int), ratOf (f.value a) = some (2 ^ (2 * k)) →
      ∃ z, ratOf z = some (2 ^ (-k)) ∧ f.round .rn (f.value a).rsqrt = f.round .rn z) ∧
    (∀ (a : Nat) (n : Int), ratOf (f.value a) = some (n : ℚ) →
      ∃ z, ratOf z = some (2 ^ n) ∧ f.exp2 a = f.round .rn z) ∧
    ∀ (a : Nat) (k : Int), ratOf (f.value a) = some (2 ^ k) →
      ∃ z, ratOf z = some (k : ℚ) ∧ z.isNeg = decide (k < 0) ∧ f.log2 a = f.round .rn z

/-! ### Across the lanes -/

/-- Quad exchanges, derivatives and shuffles (R214 to R216): each executing lane takes the register of the
lane its form names, its own where that lane does not take part. -/
def Sys2Proof.Claims.CrossLaneResults : Prop :=
  ∀ d a b : VReg,
    let part (c : Clause) (l k : Nat) : Nat := if mHas c.exec k then k else l
    let sub (x y : Word) : Word := BitVec.ofNat 32 (Fmt.f32.sub .rn x.toNat y.toNat)
    let moves (i : Instr) (src : State → Group → Clause → Nat → Nat) : Prop :=
      GivesGroup i fun s g c => eachLane g c fun g' l => g'.writeV l d.val (readV s g (src s g c l) a.val)
    let diff (i : Instr) (hi lo : Nat → Nat) : Prop :=
      GivesGroup i fun s g c => eachLane g c fun g' l =>
        g'.writeV l d.val (sub (readV s g (part c l (hi l)) a.val) (readV s g (part c l (lo l)) a.val))
    moves (.qswapH d a) (fun _ _ c l => part c l (l ^^^ 1)) ∧
    moves (.qswapV d a) (fun _ _ c l => part c l (l ^^^ 2)) ∧
    moves (.qswapD d a) (fun _ _ c l => part c l (l ^^^ 3)) ∧
    diff (.ddxFine d a) (fun l => l / 2 * 2 + 1) (fun l => l / 2 * 2) ∧
    diff (.ddxCoarse d a) (fun l => l / 4 * 4 + 1) (fun l => l / 4 * 4) ∧
    diff (.ddyFine d a) (fun l => l / 4 * 4 + l % 2 + 2) (fun l => l / 4 * 4 + l % 2) ∧
    diff (.ddyCoarse d a) (fun l => l / 4 * 4 + 2) (fun l => l / 4 * 4) ∧
    (∀ (i : Instr) (src : Nat → Nat → Int),
      (i, src) ∈ ([(.shflIdx d a b, fun _ n => n), (.shflUp d a b, fun l n => (l : Int) - n),
        (.shflDown d a b, fun l n => l + n), (.shflXor d a b, fun l n => (l ^^^ n : Nat))] :
          List (Instr × (Nat → Nat → Int))) →
      Gives i fun s g c =>
        let k (l : Nat) : Int := src l (readV s g l b.val).toNat
        (noting s g fun r => mHas c.exec r.lane && !inReach g r (k r.lane)).setGroup
          (eachLane g c fun g' l => g'.writeV l d.val (readV s g
            (if 0 ≤ k l ∧ k l < g.width ∧ mHas c.exec (k l).toNat then (k l).toNat else l) a.val)))

/-- Votes, matches, masks, reductions and scans over the executing lanes that are no helpers (R217 to
R220): every participant gets the result, and no other lane changes. -/
def Sys2Proof.Claims.GroupWideResults : Prop :=
  ∀ (d p : PReg) (v a : VReg) (o : RedOp) (t : RedTy) (r : Rnd),
    let voters (g : Group) (c : Clause) : List Nat := (lanesOf c.exec).filter fun l => !(g.lane l).helper
    let each (i : Instr) (f : State → Group → List Nat → Group → Nat → Group) : Prop :=
      Gives i fun s g c => (noting s g fun r => (voters g c).contains r.lane).setGroup
        ((voters g c).foldl (f s g (voters g c)) g)
    each (.voteAny d p) (fun _ g ls g' l => g'.writeP l d.val (ls.any fun k => (g.lane k).pred p.val)) ∧
    each (.voteAll d p) (fun _ g ls g' l => g'.writeP l d.val (ls.all fun k => (g.lane k).pred p.val)) ∧
    each (.voteBallot v p) (fun _ g ls g' l =>
      g'.writeV64 l v.val (maskOf (ls.filter fun k => (g.lane k).pred p.val))) ∧
    each (.matchAny v a) (fun s g ls g' l =>
      g'.writeV64 l v.val (maskOf (ls.filter fun k => decide (readV s g k a.val = readV s g l a.val)))) ∧
    each (.actmask v) (fun _ _ ls g' l => g'.writeV64 l v.val (maskOf ls)) ∧
    each (.reduce o t r v a) (fun s g ls g' l => g'.writeRed t l v
      (redNode (redCombine o t r) (redValues s g (maskOf ls) o t a) 0 (Nat.log2 g.width))) ∧
    each (.scan o t r v a) (fun s g ls g' l => g'.writeRed t l v
      (scanFrom (redCombine o t r) (redValues s g (maskOf ls) o t a) 6 0 (l + 1) none))

/-- Quad exchanges, derivatives and shuffles (R214 to R216): each executing lane takes the register of the lane
its form names, its own where that lane does not take part. Votes, matches, masks, reductions and scans over the
executing lanes that are no helpers (R217 to R220): every participant gets the result, and no other lane
changes. -/
def Obligations.CrossLane : Prop :=
  Sys2Proof.Claims.CrossLaneResults ∧
    Sys2Proof.Claims.GroupWideResults

/-! ### Transfers of control -/

namespace Sys2Proof.Claims

/-- Lanes of a mask leave the clause for addresses; the others stay and go on at the next clause. -/
def goTo (g : Group) (m : Mask) (t : Nat → DWord) : Group :=
  { g with
    lanes := g.lanes.mapIdx fun l x => if mHas m l then { x with pc := t l } else x
    clause := g.clause.map fun c => { c with moved := c.moved ||| m } }

/-- The view a group's fetches take. -/
def fetcher (s : State) (g : Group) : Who := { s.who g with replay := none }

/-- Every lane of a mask has a target that passes its checks (R148, R149, R175); `link` says that 0 is a fault
of its own. -/
def targetsGood (s : State) (g : Group) (m : Mask) (pad : Option (Fin 4)) (link : Bool) (t : Nat → DWord) : Prop :=
  ∀ l ∈ lanesOf m, (link = true → t l ≠ 0) ∧ s.badTarget (fetcher s g) (t l) pad = none

/-- The group with the return site in the link pair of the executing lanes (R150, R173). -/
def linked (g : Group) (c : Clause) (r : VReg) : Group :=
  eachLane g c fun g' l => (g'.writeV l r.val (c.after.setWidth 32)).writeV l (r.val + 1) (c.after.extractLsb' 32 32)

/-- A direct transfer of an offset in words, taken by a mask of lanes when its target is good. -/
def takes (i : Instr) (off : Int) (m : State → Group → Clause → Mask) : Prop :=
  ∀ s g c, Issues i s g c →
    let t : DWord := c.word + BitVec.ofInt 64 (4 * off)
    targetsGood s g (m s g c) none false (fun _ => t) →
    exec i s = .next (s.setGroup (goTo g (m s g c) fun _ => t))

/-- The lanes outside a mask are as before, but that a halted one may have been called. -/
def OthersStay (g g' : Group) (m : Mask) : Prop :=
  ∀ l, mHas m l = false → called (g'.lane l) = called (g.lane l)

end Sys2Proof.Claims

/-- A target is good exactly when it is canonical, 4-byte aligned, in slot 2 to 31 of a line of kind 1 or 2,
and holds a clause header whose start mark and target mark are both 1, and, for an indirect transfer, whose first
instruction is an LPAD of the kind (R148, R149). -/
def Sys2Proof.Claims.TargetChecks : Prop :=
  ∀ (s : State) (w : Who) (a : DWord) (pad : Option (Fin 4)),
    s.badTarget w a pad = none ↔
      canonical a = true ∧ a.toNat % 4 = 0 ∧ 2 ≤ a.toNat % 128 / 4 ∧
      ∃ h x, s.lineHeader w a = .ok h ∧ (h / 2 ^ 60 = 1 ∨ h / 2 ^ 60 = 2) ∧ s.codeWord w a = .ok x ∧
        x.toNat / 2 ^ 27 = 0x1E ∧ h.testBit (a.toNat % 128 / 4 - 2) = true ∧
        h.testBit (30 + a.toNat % 128 / 4 - 2) = true ∧
        ∀ k, pad = some k → s.landing w a x = .ok (some k)

/-- Transfers whose targets are good are taken: BRA by the executing lanes whose predicate reads 1, BRS and
BRS.z by all of them or none, JMP, BRX, CALL, CALLX and RET by all; a direct target is the address of the
instruction's own word plus four times its offset; the calls write the return site to the link pair, after the
targets are read (R170 to R174). -/
def Sys2Proof.Claims.TransfersTaken : Prop :=
  (∀ (p : PReg) (o : BitVec 17), takes (.bra p o) o.toInt fun _ g c =>
    maskOf ((lanesOf c.exec).filter fun l => (g.lane l).pred p.val)) ∧
  (∀ (a : SReg) (o : BitVec 14), takes (.brs a o) o.toInt fun s g c => if readS s g a.val = 0 then 0 else c.exec) ∧
  (∀ (a : SReg) (o : BitVec 14), takes (.brsZ a o) o.toInt fun s g c => if readS s g a.val = 0 then c.exec else 0) ∧
  (∀ o : BitVec 21, takes (.jmp o) o.toInt fun _ _ c => c.exec) ∧
  (∀ (r : VReg) (o : BitVec 14) s g c, Issues (.call r o) s g c →
    let t : DWord := c.word + BitVec.ofInt 64 (4 * o.toInt)
    targetsGood s g c.exec none false (fun _ => t) →
    exec (.call r o) s = .next (s.setGroup (goTo (linked g c r) c.exec fun _ => t))) ∧
  (∀ (r t : VReg) s g c, Issues (.callx r t) s g c →
    targetsGood s g c.exec (some 0) true (fun l => readV64 s g l t.val) →
    exec (.callx r t) s = .next (s.setGroup (goTo (linked g c r) c.exec fun l => readV64 s g l t.val))) ∧
  (∀ (t : VReg) s g c, Issues (.brx t) s g c →
    targetsGood s g c.exec (some 1) true (fun l => readV64 s g l t.val) →
    exec (.brx t) s = .next (s.setGroup (goTo g c.exec fun l => readV64 s g l t.val))) ∧
  ∀ (r : VReg) s g c, Issues (.ret r) s g c →
    targetsGood s g c.exec (some 2) true (fun l => readV64 s g l r.val) →
    exec (.ret r) s = .next (s.setGroup (goTo g c.exec fun l => readV64 s g l r.val))

/-- An indirect transfer with a target of 0 in some lanes raises NULLLINK for exactly those lanes, whatever
else fails, and no lane transfers: the lanes that would have succeeded stay as they are (R151, R175). -/
def Sys2Proof.Claims.NullLinkFirst : Prop :=
  ∀ (i : Instr) (r : VReg) (s : State) (g : Group) (c : Clause),
    (i = .brx r ∨ i = .ret r ∨ ∃ d, i = .callx d r) → Issues i s g c →
    let m := maskOf ((lanesOf c.exec).filter fun l => readV64 s g l r.val = 0)
    m ≠ 0 →
    exec i s = .next (s.controlFault g c .nulllink m 0) ∧
    Answers (exec i s) fun t => After t g.uid fun g' => OthersStay g g' m

/-- A target is good exactly when it is canonical, 4-byte aligned, in slot 2 to 31 of a line of kind 1 or 2, and
holds a clause header whose start mark and target mark are both 1, and, for an indirect transfer, whose first
instruction is an LPAD of the kind (R148, R149). An indirect transfer with a target of 0 in some lanes raises
NULLLINK for exactly those lanes, whatever else fails, and no lane transfers: the lanes that would have
succeeded stay as they are (R151, R175). -/
def Obligations.TargetsChecked : Prop :=
  Sys2Proof.Claims.TargetChecks ∧
    Sys2Proof.Claims.NullLinkFirst

/-- KSET notes the executing lanes; JOIN makes the executing lanes wait at its word, to go on at the next
clause, unless no live lane is named; the waiting lanes go on together once every lane that the mask names waits
there or has exited; and where every live lane waits at a JOIN and none can be released, JOINDEAD is raised for the
lanes of the path that arrived last (R22, R23, R177, R178). A lane at a REPACK waits at no JOIN here (log entry
125). -/
def Sys2Proof.Claims.RejoinMasks : Prop :=
  (∀ k : KReg, GivesGroup (.kset k) fun _ g c => { g with k := g.k.set k.val c.exec }) ∧
  (∀ k : KReg, ∀ s g c, Issues (.join k) s g c → g.kMask k.val &&& g.live ≠ 0 →
    exec (.join k) s = .next (s.setGroup { g with
      lanes := g.lanes.mapIdx fun l x =>
        if mHas c.exec l then { x with pc := c.nextAt, st := .join k c.word c.header g.joins } else x
      clause := g.clause.map fun c' => { c' with moved := c'.moved ||| c.exec }
      joins := g.joins + 1 })) ∧
  (∀ k : KReg, ∀ s g c, Issues (.join k) s g c → g.kMask k.val &&& g.live = 0 →
    exec (.join k) s = .next (s.setGroup g)) ∧
  ∀ (s : State) (g : Group) (a : DWord), s.group? g.uid = some g → g.clause = none →
    exec (.joinRelease g.uid a) s =
      .next (if g.joinReady a then s.setGroup { g with
          lanes := g.lanes.map fun x => if x.joinsAt a then { x with st := .runnable } else x } else s) ∧
  (∀ (x : Lane) (a : DWord), x.joinsAt a = true ↔ ∃ k h n, x.st = .join k a h n) ∧
  (∀ (g : Group) (a : DWord), let waits (x : Lane) : Prop := ∃ k h n, x.st = .join k a h n
    ((∀ x ∈ g.lanes, ¬ waits x) → g.joinReady a = false) ∧
    ∀ k : KReg, (∃ x ∈ g.lanes, waits x) → (∀ x ∈ g.lanes, ∀ j h n, x.st = .join j a h n → j = k) →
      (g.joinReady a = true ↔ ∀ l, mHas (g.kMask k.val) l → (g.lane l).live = true → waits (g.lane l))) ∧
  (∀ (s : State) (g : Group), s.group? g.uid = some g → g.joinStuck = false ∨ g.clause ≠ none →
    s.joinDead g.uid = s) ∧
  (∀ g : Group, g.joinStuck = (decide (g.live ≠ 0) &&
    ((lanesOf g.live).all fun l => (g.lane l).arrival.isSome) && !(g.joinSites.any fun a => g.joinReady a))) ∧
  ∀ (s : State) (g : Group), s.group? g.uid = some g → g.lanes.length ≤ 64 → g.clause = none → g.joinStuck = true →
    s.handlerOf g .joindead = 0 → s.buffered (s.clusterOf g) < 256 →
    ∃ n site header, (∀ l ∈ lanesOf g.lastJoined, (g.lane l).arrival = some n ∧ ∀ k, k < g.lanes.length →
      ∀ i, (g.lane k).arrival = some i → i ≤ n) ∧
      (∃ k, (g.lane (maskLowest g.lastJoined)).st = .join k site header n) ∧
      ∃ r ∈ (s.joinDead g.uid).records, r.num = s.fresh ∧ r.code = .joindead ∧ r.mask = g.lastJoined ∧
        r.header = header ∧ r.word = site ∧ r.answer = 0

/-- Transfers whose targets are good are taken: BRA by the executing lanes whose predicate reads 1, BRS and
BRS.z by all of them or none, JMP, BRX, CALL, CALLX and RET by all; a direct target is the address of the
instruction's own word plus four times its offset; the calls write the return site to the link pair, after the
targets are read (R170 to R174). KSET notes the executing lanes; JOIN makes the executing lanes wait at its
word, to go on at the next clause, unless no live lane is named; the waiting lanes go on together once every
lane that the mask names waits there or has exited; and where every live lane waits at a JOIN and none can be
released, JOINDEAD is raised for the lanes of the path that arrived last (R22, R23, R177, R178). A lane at a
REPACK waits at no JOIN here (log entry 125). Where the spec leaves a choice the model takes that of log entry
125. -/
def Obligations.ControlTransfers : Prop :=
  Sys2Proof.Claims.TransfersTaken ∧
    Sys2Proof.Claims.RejoinMasks

/-- What has no effect beyond the PC's advance: NOP, HINT, LPAD, the fences in a machine whose memory is in order (log
entry 30), BRK with debug clear, and OPFENCE, which waits only for a faulted acquire of its group or a faulted write of
it to scratchpad. -/
def Sys2Proof.Claims.Inert : Prop :=
  (∀ i : Instr, (i = .nop ∨ (∃ h, i = .hint h) ∨ (∃ k, i = .lpad k) ∨ (∃ w, i = .fenceAcq w) ∨
      (∃ w, i = .fenceRel w) ∨ (∃ w, i = .fenceSc w)) → Gives i fun s _ _ => s) ∧
  (∀ s g c, Issues .opfence s g c →
    let waits : Prop := ∃ r ∈ s.replayed, r.group = g.uid ∧
      (Instr.acquires r.instr = true ∨ Instr.fillsSpad r.instr = true)
    (¬ waits → exec .opfence s = .next s) ∧ (waits → exec .opfence s = .next (s.holdClause g.uid .answers))) ∧
  ∀ (x : BitVec 14) s g c, Issues (.brk x) s g c → (s.ctxOf g).ccb.debug = false → exec (.brk x) s = .next s

/-! ### Exit, parks, traps -/

/-- EXIT: the executing lanes have exited, their bits of every k register are 0, their outstanding register
results are gone, and no other lane changes but helper lanes, which may leave with their quad (R18, R179). -/
def Sys2Proof.Claims.ExitLanes : Prop :=
  ∀ (s : State) (g : Group) (c : Clause), Issues .exitLanes s g c →
    Answers (exec .exitLanes s) fun t => After t g.uid fun g' =>
      g'.s = g.s ∧ g'.flags = g.flags ∧ g'.lanes.length = g.lanes.length ∧
      (∀ l, l < g.lanes.length → mHas c.exec l → (g'.lane l).st = .exited ∧
        ((g.lane l).live → ∀ k, k ∈ g'.k → mHas k l = false) ∧
        ((g.lane l).live → ∀ p ∈ g'.pend, ∀ r, p.dst ≠ .v l r ∧ p.dst ≠ .t l r)) ∧
      ∀ l, mHas c.exec l = false → (g.lane l).helper = false → called (g'.lane l) = called (g.lane l)

/-- The instructions that park a path: SVC sends one request with the lineage name of the lowest lane and
parks the path at the next clause, BRK with debug set and room in the fault buffer stops it, with a BREAK record that
the service reports, HALT parks it; PERF sets the context's requested level, at most 7 (R182, R183, R185, R356,
R368). -/
def Sys2Proof.Claims.Parks : Prop :=
  let parked (g : Group) (c : Clause) (p : Park) : Group := { g with
    lanes := g.lanes.mapIdx fun l x => if mHas c.exec l then { x with pc := c.nextAt, st := .parked p } else x
    clause := g.clause.map fun c' => { c' with moved := c'.moved ||| c.exec } }
  (∀ (x : BitVec 14) s g c, Issues (.svc x) s g c → g.replay = false →
    exec (.svc x) s = .next ((s.setGroup (parked g c (.svc s.fresh))).sendEvent (s.slotOf g) 0x41
      (natLe 4 x.toNat ++ natLe 4 g.svcarg.toNat ++ natLe 4 (((s.block? g.block).map (·.bid)).getD 0) ++
        natLe 4 g.gid ++ natLe 8 c.exec.toNat ++ natLe 16 (g.lane (maskLowest c.exec)).lin.toNat)
      (some (.svc g.uid c.exec)))) ∧
  (∀ (x : BitVec 14) s g c, Issues (.brk x) s g c → g.replay = false → (s.ctxOf g).ccb.debug = true →
    g.noHelpers c.exec ≠ 0 → s.buffered (s.clusterOf g) < 256 →
    Answers (exec (.brk x) s) fun t =>
      (∃ r ∈ t.records, r.num = s.fresh ∧ r.code = .brk ∧ r.aux = x.setWidth 32 ∧ r.mask = g.noHelpers c.exec ∧
        r.header = c.header ∧ r.word = c.word) ∧
      (∃ tag, t.awaited = s.awaited ++ [(s.fresh + 1, s.slotOf g, tag, .brk s.fresh)]) ∧
      After t g.uid fun g' => g'.lanes.map called = (parked g c (.brk s.fresh)).lanes.map called ∧
        g'.s = g.s ∧ g'.svcarg = g.svcarg) ∧
  (GivesGroup .halt fun _ g c => parked g c (.halt false)) ∧
  ∀ (a : SReg) s g c, Issues (.perf a) s g c → g.replay = false →
    Answers (exec (.perf a) s) fun t =>
      (t.ctxOf g).ccb.perfReq = min 7 (readS s g a.val).toNat ∧ t.groups = s.groups ∧ t.mem = s.mem

/-- What has no effect beyond the PC's advance: NOP, HINT, LPAD, the fences in a machine whose memory is in
order (log entry 30), BRK with debug clear, and OPFENCE, which waits only for a faulted acquire of its group or
a faulted write of it to scratchpad. EXIT: the executing lanes have exited, their bits of every k register are
0, their outstanding register results are gone, and no other lane changes but helper lanes, which may leave with
their quad (R18, R179). The instructions that park a path: SVC sends one request with the lineage name of the
lowest lane and parks the path at the next clause, BRK with debug set and room in the fault buffer stops it,
with a BREAK record that the service reports, HALT parks it; PERF sets the context's requested level, at most 7
(R182, R183, R185, R356, R368). -/
def Obligations.ExitsAndParks : Prop :=
  Sys2Proof.Claims.Inert ∧
    Sys2Proof.Claims.ExitLanes ∧
    Sys2Proof.Claims.Parks

/-- TRAP raises USER with its code for the executing lanes that are no helpers; among helper lanes only it
has no effect (R18, R181). -/
def Sys2Proof.Claims.TrapRaisesUser : Prop :=
  ∀ (x : BitVec 14) (s : State) (g : Group) (c : Clause), Issues (.trap x) s g c →
    let m := maskOf ((lanesOf c.exec).filter fun l => !(g.lane l).helper)
    exec (.trap x) s = .next (if m = 0 then s
      else s.trapAt g c (.trap x) { code := .user, aux := BitVec.ofNat 32 x.toNat } m)

/-- A precise trap whose code HMASK and HTAB send to the context's handler, with a record slot free: the
slot is taken, its index is in SVCARG, the group is in handler state, and the faulting lanes stand at the handler
address with the next clause as their resume address, or wait for the service when that address fails its own
check; the lanes outside the mask go on in the clause (R370, R371). The fault buffer has room for that check's own
fault. -/
def Sys2Proof.Claims.TrapEntersHandler : Prop :=
  ∀ (s : State) (g : Group) (c : Clause) (i : Instr) (f : FaultAt) (m : Mask) (k : Nat),
    s.issue? = some (g, c) → s.handlerOf g f.code ≠ 0 →
    (s.ctxOf g).freeHslot = some k → s.buffered (s.clusterOf g) < 256 →
    (k ∈ ((s.trapAt g c i f m).ctxOf g).hslots) ∧
    After (s.trapAt g c i f m) g.uid fun g' =>
      g'.svcarg = BitVec.ofNat 32 k ∧ g'.handler = true ∧ g'.hslot = some k ∧
      OthersStay g g' m ∧
      (∀ l, l < g.lanes.length → mHas m l → (g'.lane l).pc = s.handlerOf g f.code ∧
        (g'.lane l).resume = c.nextAt ∧
        ((g'.lane l).st = .runnable ∨ ∃ n, (g'.lane l).st = .parked (.fault n))) ∧
      (g'.clause.map fun c' => (c'.exec, c'.moved)) = some (c.exec &&& ~~~ m, c.moved ||| m)

/-- A precise trap that goes to the service, with room in the fault buffer and no unanswered record that it joins:
a record of the code, the lanes and the place waits in it, and the lanes park on that record at the next clause
(R367, R370, R372). -/
def Sys2Proof.Claims.TrapGoesToService : Prop :=
  ∀ (s : State) (g : Group) (c : Clause) (i : Instr) (f : FaultAt) (m : Mask),
    s.issue? = some (g, c) → s.handlerOf g f.code = 0 →
    (f.code.unit = true → ∀ x ∈ s.records, x.code ≠ f.code) →
    s.buffered (s.clusterOf g) < 256 →
    ∃ r, r ∈ (s.trapAt g c i f m).records ∧ r.num = s.fresh ∧ r.code = f.code ∧ r.mask = m ∧ r.aux = f.aux ∧
      r.arg = g.svcarg ∧ r.header = c.header ∧ r.word = c.word ∧ r.answer = 0 ∧
      After (s.trapAt g c i f m) g.uid fun g' => g'.handler = g.handler ∧ OthersStay g g' m ∧
        ∀ l, l < g.lanes.length → mHas m l →
          (g'.lane l).st = .parked (.fault s.fresh) ∧ (g'.lane l).pc = c.nextAt

/-- Which faults the handler takes: a code below 0x30 whose HMASK bit is 1, and none in handler state or of the
service's own context; the handler is the code's HTAB entry, the 8 bytes at HTAB + 8 × code, and 0 says that there is
none, as does an entry that cannot be read (R351, R370). -/
def Sys2Proof.Claims.HandlerTakes : Prop :=
  ∀ (s : State) (g : Group) (code : Code), let b := (s.ctxOf g).ccb
    let takes : Prop := code.num < 0x30 ∧ b.hmask.getLsbD code.num = true ∧ g.handler = false ∧ b.sys = false
    let entry := s.loadRecord { s.who g with replay := none } (b.htab.toNat + 8 * code.num) 8
    (¬ takes → s.handlerOf g code = 0) ∧
    (∀ bytes, takes → entry = .ok bytes → s.handlerOf g code = BitVec.ofNat 64 (leNat bytes)) ∧
    (∀ e, takes → entry = .error e → s.handlerOf g code = 0)

/-- ERET: in handler state, with good resume addresses, each executing lane goes to its own, the group
leaves handler state and its record slot is free; outside handler state it raises PRIVARG (R351, R371). -/
def Sys2Proof.Claims.EretReturns : Prop :=
  (∀ s g c, Issues .eret s g c → g.handler = true → s.handlerQueue = [] →
    targetsGood s g c.exec none false (fun l => (g.lane l).resume) →
    exec .eret s = .next ((s.setGroup { (goTo g c.exec fun l => (g.lane l).resume) with
        handler := false, hslot := none }).modCtx (s.slotOf g) fun x => { x with
      hslots := match g.hslot with
        | some k => x.hslots.filter fun i => i ≠ k
        | none => x.hslots })) ∧
  ∀ s g c, Issues .eret s g c → g.handler = false →
    exec .eret s = .next (s.trapAt g c .eret { code := .privarg } c.exec)

/-- TRAP raises USER with its code for the executing lanes that are no helpers; among helper lanes only it has
no effect (R18, R181). A precise trap whose code HMASK and HTAB send to the context's handler, with a record
slot free: the slot is taken, its index is in SVCARG, the group is in handler state, and the faulting lanes
stand at the handler address with the next clause as their resume address, or wait for the service when that
address fails its own check; the lanes outside the mask go on in the clause (R370, R371). The fault buffer has
room for that check's own fault. A precise trap that goes to the service, with room in the fault buffer and no
unanswered record that it joins: a record of the code, the lanes and the place waits in it, and the lanes park
on that record at the next clause (R367, R370, R372). Which faults the handler takes: a code below 0x30 whose
HMASK bit is 1, and none in handler state or of the service's own context; the handler is the code's HTAB entry,
the 8 bytes at HTAB + 8 × code, and 0 says that there is none, as does an entry that cannot be read (R351,
R370). ERET: in handler state, with good resume addresses, each executing lane goes to its own, the group leaves
handler state and its record slot is free; outside handler state it raises PRIVARG (R351, R371). Where the spec
leaves a choice the model takes that of log entries 53, 57 and 58. -/
def Obligations.Exceptions : Prop :=
  Sys2Proof.Claims.TrapRaisesUser ∧
    Sys2Proof.Claims.TrapEntersHandler ∧
    Sys2Proof.Claims.TrapGoesToService ∧
    Sys2Proof.Claims.HandlerTakes ∧
    Sys2Proof.Claims.EretReturns

/-- A fault record is 64 bytes and holds its fields where R369 puts them. -/
def Obligations.FaultRecordLayout : Prop :=
  ∀ r : Record, r.slot < 64 → r.core < 32 → r.cluster < 8 → r.bid < 2 ^ 32 → r.gid < 2 ^ 32 → r.source < 256 →
    r.level < 2 ^ 32 →
    r.bytes.length = 64 ∧ fieldOf r.bytes 0 1 = r.code.num ∧ fieldOf r.bytes 1 1 = r.source ∧
    fieldOf r.bytes 2 1 = r.slot ∧ fieldOf r.bytes 3 1 = r.core + 32 * r.cluster ∧
    fieldOf r.bytes 4 4 = r.bid ∧ fieldOf r.bytes 8 4 = r.gid ∧
    (fieldOf r.bytes 12 1).testBit 0 = r.write ∧ (fieldOf r.bytes 12 1).testBit 1 = r.atomic ∧
    (fieldOf r.bytes 12 1).testBit 2 = r.helper ∧ fieldOf r.bytes 14 1 = min 255 r.waiters ∧
    fieldOf r.bytes 16 8 = r.mask.toNat ∧ fieldOf r.bytes 24 8 = r.addr.toNat ∧
    fieldOf r.bytes 32 8 = r.header.toNat ∧ fieldOf r.bytes 40 8 = r.word.toNat ∧
    fieldOf r.bytes 48 4 = r.aux.toNat ∧ fieldOf r.bytes 52 4 = r.arg.toNat ∧
    fieldOf r.bytes 56 4 = r.level ∧ fieldOf r.bytes 60 4 = r.answer.toNat

/-! ### Launch and routes -/

namespace Sys2Proof.Claims

/-- The executing lanes of a vector memory instance, each performing in turn. -/
def ran (s : State) (g : Group) (c : Clause) (o : LaneOp) : Run :=
  (lanesOf c.exec).foldl (Run.lane o g) { state := s }

/-- The executing lanes whose accesses are made: a helper lane of a store makes none (R18). -/
def acting (g : Group) (c : Clause) (o : LaneOp) : List Nat :=
  (lanesOf c.exec).filter fun l => !(g.lane l).helper || decide (o.kind ≠ .store)

/-- The instance may perform: no lane has an earlier faulted access that orders before it (R373), the scratchpad
lines it reads are full (R61), and no lane's access fails (R224). -/
structure LanesReady (s : State) (g : Group) (c : Clause) (i : Instr) (o : LaneOp) : Prop where
  free : ∀ l ∈ acting g c o, s.blocked g i l (o.span s g l) = false
  full : o.waits = true → s.emptyLines ((acting g c o).flatMap fun l => o.span s g l) = []
  good : (ran s g c o).faults = []

/-- The state after an instance whose lanes all perform: the stores are made together in lane order (R77), and
each lane's result waits for the flag (R112). -/
def performed (s : State) (g : Group) (c : Clause) (i : Instr) (o : LaneOp) : State :=
  ((ran s g c o).state.perform (s.who g) (ran s g c o).puts).modGroup g.uid fun x =>
    (ran s g c o).words.foldl (fun x e => x.result i c.tied e.1 e.2) x

/-- The instruction performs lane by lane as the operation says. -/
def Performs (i : Instr) (o : LaneOp) : Prop :=
  ∀ s g c, Issues i s g c → LanesReady s g c i o → exec i s = .next (performed s g c i o)

/-- A group whose LOD instance has read nothing yet (R341). -/
def unread (g : Group) : Group := { g with seen := {} }

/-- The instruction performs lane by lane as the operation says, each residency bit and translation read once for
the instance (R341). -/
def PerformsLod (i : Instr) (o : LaneOp) : Prop :=
  ∀ s g c, Issues i s g c → let s' := s.modGroup g.uid unread
    LanesReady s' (unread g) c i o → exec i s = .next (performed s' (unread g) c i o)

/-- The instruction performs once for its executing lanes as the operation says (R226). -/
def PerformsOnce (i : Instr) (o : GroupOp) : Prop :=
  ∀ s g c x, Issues i s g c → (∀ l ∈ lanesOf c.exec, s.blocked g i l (o.span s g) = false) →
    o.run s g c.exec = .ok x →
    exec i s = .next ((x.state.perform (s.who g) x.puts).modGroup g.uid fun y => y.resultS o.dst c.tied x.words)

/-- A page that an access reaches as plain memory of this device: the physical address of its first byte. -/
def plainAt (s : State) (g : Group) (a : DWord) (n : Nat) (need : Need) (pa : Nat) : Prop :=
  s.served (s.slotOf g) a.toNat n = none ∧ ∃ l, s.reach (s.who g) a.toNat n need = .ok l ∧ l.owner = 255 ∧
    l.kind ≠ .compressed ∧ pa = l.base + a.toNat % 2 ^ l.log2 ∧ inDevice pa = false

/-- No byte of a run carries a poison mark. -/
def unmarked (s : State) (pa n : Nat) : Prop := ∀ i, i < n → s.marked (pa + i) = false

/-- An address that is canonical and a multiple of the access size. -/
def wellFormed (a : DWord) (n : Nat) : Prop := canonical a = true ∧ a.toNat % n = 0

/-- The word of four bytes of memory, the first in bits [7:0]. -/
def word4 (m : List Host.Cell) (a : Nat) : Word :=
  Memory.read m (a + 3) ++ Memory.read m (a + 2) ++ Memory.read m (a + 1) ++ Memory.read m a

/-- What a load of a size delivers from bytes of memory (R229). -/
def loaded (m : List Host.Cell) (a : Nat) : LdSize → List Word
  | .b8 => [(Memory.read m a).setWidth 32]
  | .s8 => [(Memory.read m a).signExtend 32]
  | .b16 => [(Memory.read m (a + 1) ++ Memory.read m a).setWidth 32]
  | .s16 => [(Memory.read m (a + 1) ++ Memory.read m a).signExtend 32]
  | .b32 => [word4 m a]
  | .b64 => [word4 m a, word4 m (a + 4)]
  | .b128 => [word4 m a, word4 m (a + 4), word4 m (a + 8), word4 m (a + 12)]

/-- The bytes of memory that a store to a page can change: none of another device's page or of a device
register, the code and the side-table entry of a compressed block, else the bytes themselves. -/
def footprint (p : Put) (a : Nat) : Prop :=
  p.leaf.owner = 255 ∧ inDevice p.pa = false ∧
    if p.leaf.kind = .compressed then
      (p.pa / 64 * 64 ≤ a ∧ a < p.pa / 64 * 64 + 16) ∨
        (p.leaf.side + 2 * ((p.pa - p.leaf.base) / 64) ≤ a ∧ a < p.leaf.side + 2 * ((p.pa - p.leaf.base) / 64) + 2)
    else p.pa ≤ a ∧ a < p.pa + p.data.length

end Sys2Proof.Claims

/-- LAUNCH and LAUNCH.ord: each executing lane that is no helper hands its record to the task scheduler, in
ascending order, and the child's number is the block's sequence number, which goes up by one, or LAUNCH.ord's; a
bad address in some lanes traps LAUNCHARG in those and no child is made; in a replay nothing happens (R187,
R325). A record of a bin block's own partial render asks for that render instead, and is counted like a child
(R297). Where the spec leaves a choice the model takes that of log entries 70, 123 and 143. -/
def Obligations.LaunchMakesChildren : Prop :=
  ∀ (v : VReg) (ord : Bool), let i : Instr := if ord then .launchOrd v else .launch v
    (∀ s g c, Issues i s g c → g.replay = false → g.noHelpers c.exec ≠ 0 →
      (∀ l ∈ lanesOf (g.noHelpers c.exec), wellFormed (readV64 s g l v.val) 64) →
      LanesReady s g c i (launchOp ord v) → let t := performed s g c i (launchOp ord v)
      exec i s = .next (if ord then t.countOrd g.uid (g.noHelpers c.exec) else t)) ∧
    (∀ (s : State) (g g' : Group) (c : Clause) (m : Mask), s.group? g.uid = some g' → g'.clause = some c →
      (c.wait = none → s.countOrd g.uid m = s.setGroup { g' with
        lanes := g'.lanes.mapIdx fun l x => if mHas m l then { x with launches := x.launches + 1 } else x }) ∧
      (c.wait ≠ none → s.countOrd g.uid m = s.setGroup g')) ∧
    (∀ s g l bytes, s.renderAt (s.slotOf g) (readV64 s g l v.val) = none →
      s.loadRecord (s.who g) (readV64 s g l v.val).toNat 64 = .ok bytes →
      (launchOp ord v).run s g l = .ok { state :=
        let b := s.block? g.block
        let item := if ord then (g.lane l).launches % 65536 * 65536 + (g.gid * 64 + l) % 65536
          else (b.map (·.launchSeq)).getD 0
        let s' := if ord then s else s.modBlock g.block fun b => { b with launchSeq := (b.launchSeq + 1) % 2 ^ 32 }
        (s'.takeTask (s.who g) bytes (taskName (g.lane l).lin (g.lane l).linset item) (g.lane l).watch).2 }) ∧
    (∀ s g l d b, s.renderAt (s.slotOf g) (readV64 s g l v.val) = some d → s.block? g.block = some b →
      b.kind = .bin d.uid → (launchOp ord v).run s g l = .ok { state :=
        ((if ord then s else s.modBlock g.block fun b => { b with launchSeq := (b.launchSeq + 1) % 2 ^ 32 }).modDraw
          d.uid fun d => { d with requests := d.requests ++ [some g.block] }).modBlock g.block fun b =>
            { b with renders := b.renders + 1 } }) ∧
    (∀ (s : State) (w : Who) (bytes : List Byte) (n : Name) (hits : List WatchHit),
      s.matchesOf w.slot n hits = [] →
      taskRefusal (s.ctx w.slot).ccb.prioCeil bytes (taskOf w.slot bytes) = none →
      ∃ gr : Grid, (s.takeTask w bytes n hits).2.grids = s.grids ++ [gr] ∧ gr.name = n ∧ gr.bytes = bytes ∧
        gr.slot = w.slot ∧ gr.placed = 0 ∧
        (s.takeTask w bytes n hits).2.queue =
          s.queue ++ [⟨if w.slot = 0 then 8 else (s.ctx w.slot).ccb.part, (taskOf w.slot bytes).prio, w.slot,
            .grid gr.uid⟩]) ∧
    (∀ s g c, Issues i s g c → g.replay = true → exec i s = .next s) ∧
    ∀ s g c, Issues i s g c → g.replay = false →
      let bad := maskOf ((lanesOf (g.noHelpers c.exec)).filter fun l =>
        !canonical (readV64 s g l v.val) || decide ((readV64 s g l v.val).toNat % 64 ≠ 0))
      bad ≠ 0 → exec i s = .next (s.trapAt g c i { code := .launcharg } bad)

/-- RENQ appends each lane's entry in ascending order and parks the lanes that find the route full, RDEQ takes the
oldest entry for the path into a scalar pair and parks it behind those that wait while there is none; a route
number of 4,096 or more, a disabled route or a broken descriptor traps ROUTE; in a replay RENQ does nothing and
RDEQ delivers 0 (R188 to R191, R325). -/
def Sys2Proof.Claims.RouteQueues : Prop :=
  (∀ (r : SReg) (e : VReg) s g c d t f, Issues (.renq r e) s g c → g.replay = false → g.noHelpers c.exec ≠ 0 →
    (readS s g r.val).toNat < 4096 → s.routeDesc (s.who g) (readS s g r.val).toNat = .ok d → d.en = true →
    d.bad = false → c.partialDone = 0 →
    appendLanes (s.who g) (readS s g r.val).toNat d
      ((lanesOf (g.noHelpers c.exec)).map fun l => (l, readV64 s g l e.val)) s = (t, [], f) →
    exec (.renq r e) s = .next t) ∧
  (∀ (r : SReg) (e : VReg) s g c d t x left, Issues (.renq r e) s g c → g.replay = false →
    g.noHelpers c.exec ≠ 0 → (readS s g r.val).toNat < 4096 →
    s.routeDesc (s.who g) (readS s g r.val).toNat = .ok d → d.en = true → d.bad = false → c.partialDone = 0 →
    appendLanes (s.who g) (readS s g r.val).toNat d
      ((lanesOf (g.noHelpers c.exec)).map fun l => (l, readV64 s g l e.val)) s = (t, x :: left, none) →
    Answers (exec (.renq r e) s) fun t' => t'.mem = t.mem ∧
      (∃ q, (t'.ctx (s.slotOf g)).routes.find? (fun e => e.1 == (readS s g r.val).toNat) =
        some ((readS s g r.val).toNat, q) ∧ q.waitSpace =
          ((t.ctx (s.slotOf g)).route (readS s g r.val).toNat d).waitSpace ++ [t.fresh]) ∧
      After t' g.uid fun g' => ∀ l, l < g.lanes.length → mHas c.exec l → (g'.lane l).pc = c.nextAt ∧
        (g'.lane l).st = .parked (.routeSpace (readS s g r.val).toNat t.fresh
          (((x :: left).find? fun p => p.1 == l).map (·.2)) c.header c.word)) ∧
  (∀ (s : State) (w : Who) (r : Nat) (d : RouteDesc) (e : DWord),
    2 ^ d.log2 ≤ ((s.ctx w.slot).route r d).count → s.append w r d e = .ok none) ∧
  (∀ (s : State) (w : Who) (r : Nat) (d : RouteDesc) (e : DWord),
    ((s.ctx w.slot).route r d).count < 2 ^ d.log2 →
    ∀ ps, s.storeGlobal { w with replay := none }
      (d.ring + BitVec.ofInt 64 (8 * (((s.ctx w.slot).route r d).tail.toNat % 2 ^ d.log2))) (natLe 8 e.toNat) .write
        = .ok ps →
    s.append w r d e = .ok (some ((s.perform { w with replay := none } ps).setRoute w.slot r
      { (s.ctx w.slot).route r d with tail := ((s.ctx w.slot).route r d).tail + 1 }))) ∧
  (∀ x : RouteCache, x.count = (x.tail - x.head).toNat) ∧
  (∀ (s : State) (c r : Nat) (x : RouteCache) (d : RouteDesc), ((s.setRoute c r x).ctx c).route r d = x ∧
    (s.setRoute c r x).mem = s.mem ∧ (s.setRoute c r x).groups = s.groups) ∧
  (∀ (s : State) (w : Who) (r : Nat) (d : RouteDesc), let x := (s.ctx w.slot).route r d
    let entry := s.loadGlobal { w with replay := none }
      (d.ring + BitVec.ofInt 64 (8 * (x.head.toNat % 2 ^ d.log2))) 8 .read
    (x.count = 0 → s.take w r d = .ok none) ∧
    (∀ bytes, x.count ≠ 0 → entry = .ok bytes → s.take w r d = .ok (some (BitVec.ofNat 64 (leNat bytes),
      s.setRoute w.slot r { x with head := x.head + 1 }))) ∧
    ∀ f, x.count ≠ 0 → entry = .error f → s.take w r d = .error f) ∧
  (∀ (d r : SReg) s g c q e t, Issues (.rdeq d r) s g c → g.replay = false → (readS s g r.val).toNat < 4096 →
    s.routeDesc (s.who g) (readS s g r.val).toNat = .ok q → q.en = true → q.bad = false →
    ((s.ctx (s.slotOf g)).route (readS s g r.val).toNat q).waitEntry = [] →
    s.take (s.who g) (readS s g r.val).toNat q = .ok (some (e, t)) →
    exec (.rdeq d r) s = .next (t.modGroup g.uid fun y =>
      (y.writeS d.val (e.setWidth 32)).writeS (d.val + 1) (e.extractLsb' 32 32))) ∧
  (∀ (d r : SReg) s g c q, Issues (.rdeq d r) s g c → g.replay = false → (readS s g r.val).toNat < 4096 →
    s.routeDesc (s.who g) (readS s g r.val).toNat = .ok q → q.en = true → q.bad = false →
    ((s.ctx (s.slotOf g)).route (readS s g r.val).toNat q).count = 0 →
    Answers (exec (.rdeq d r) s) fun t => t.mem = s.mem ∧
      (∃ x, (t.ctx (s.slotOf g)).routes.find? (fun e => e.1 == (readS s g r.val).toNat) =
        some ((readS s g r.val).toNat, x) ∧ x.waitEntry =
          ((s.ctx (s.slotOf g)).route (readS s g r.val).toNat q).waitEntry ++ [s.fresh]) ∧
      After t g.uid fun g' => ∀ l, l < g.lanes.length → mHas c.exec l → (g'.lane l).pc = c.nextAt ∧
        ∃ h w, (g'.lane l).st = .parked (.route (readS s g r.val).toNat s.fresh (g.sbase + d.val) h w)) ∧
  (∀ (d r : SReg) s g c, Issues (.rdeq d r) s g c → g.replay = true →
    exec (.rdeq d r) s = .next (s.setGroup ((g.writeS d.val 0).writeS (d.val + 1) 0))) ∧
  (∀ (r : SReg) (e : VReg) s g c, Issues (.renq r e) s g c → g.replay = true → exec (.renq r e) s = .next s) ∧
  (∀ (d r : SReg) s g c q, Issues (.rdeq d r) s g c → g.replay = false → (readS s g r.val).toNat < 4096 →
    s.routeDesc (s.who g) (readS s g r.val).toNat = .ok q → (q.en = false ∨ q.bad = true) →
    exec (.rdeq d r) s = .next (s.trapAt g c (.rdeq d r) { code := .route } c.exec)) ∧
  (∀ (r : SReg) (e : VReg) s g c q, Issues (.renq r e) s g c → g.replay = false → g.noHelpers c.exec ≠ 0 →
    (readS s g r.val).toNat < 4096 → s.routeDesc (s.who g) (readS s g r.val).toNat = .ok q →
    (q.en = false ∨ q.bad = true) →
    exec (.renq r e) s = .next (s.trapAt g c (.renq r e) { code := .route } (g.noHelpers c.exec))) ∧
  (∀ (d r : SReg) s g c, Issues (.rdeq d r) s g c → g.replay = false → 4096 ≤ (readS s g r.val).toNat →
    exec (.rdeq d r) s = .next (s.trapAt g c (.rdeq d r) { code := .route } c.exec)) ∧
  ∀ (r : SReg) (e : VReg) s g c, Issues (.renq r e) s g c → g.replay = false → g.noHelpers c.exec ≠ 0 →
    4096 ≤ (readS s g r.val).toNat →
    exec (.renq r e) s = .next (s.trapAt g c (.renq r e) { code := .route } (g.noHelpers c.exec))

/-- The first park that waits for an entry takes one when there is one and its lanes go on; the first that
waits for space appends what it has left and goes on once all is appended; enabling loads HEAD and TAIL from the
descriptor, and a write-back that is done no longer counts as busy (R189, R190, R415). -/
def Sys2Proof.Claims.RouteWakes : Prop :=
  (∀ (c : Slot) (r : BitVec 12) s x k ks g q e t,
    (s.ctx c.val).routes.find? (fun e => e.1 == r.toNat) = some (r.toNat, x) → x.waitEntry = k :: ks →
    s.parkGroup k = some g → s.parkFaulted g (g.parkMask k) = false →
    s.routeDesc { s.who g with replay := none } r.toNat = .ok q → q.en = true → q.bad = false →
    s.take { s.who g with replay := none } r.toNat q = .ok (some (e, t)) →
    exec (.routeEntryWake c r) s = .next ((t.modCtx c.val fun c => c.unpark [k]).setGroup
      (((g.putS (g.parkDst k) (e.setWidth 32)).putS (g.parkDst k + 1) (e.extractLsb' 32 32)).modLanes
        (g.parkMask k) fun _ x => { x with st := .runnable }))) ∧
  (∀ (c : Slot) (r : BitVec 12) s x k ks g q t f,
    (s.ctx c.val).routes.find? (fun e => e.1 == r.toNat) = some (r.toNat, x) → x.waitSpace = k :: ks →
    s.parkGroup k = some g → s.group? g.uid = some g → s.parkFaulted g (g.parkMask k) = false →
    s.routeDesc { s.who g with replay := none } r.toNat = .ok q → q.en = true → q.bad = false →
    appendLanes { s.who g with replay := none } r.toNat q (g.parkLeft k) s = (t, [], f) →
    Answers (exec (.routeSpaceWake c r) s) fun t' => t'.mem = t.mem ∧
      (∀ e ∈ (t'.ctx c.val).routes, k ∉ e.2.waitSpace) ∧
      After t' g.uid fun g' => ∀ l ∈ lanesOf (g.parkMask k), (g'.lane l).st = .runnable ∧
        (g'.lane l).pc = (g.lane l).pc) ∧
  (∀ (c : Slot) (r : BitVec 12) s d, let t := s.writeDesc c.val r.toNat true none
    t.routeDesc { cl := 0, slot := c.val } r.toNat = .ok d →
    exec (.routeEnable c r) s = .next (t.setRoute c.val r.toNat
      { (t.ctx c.val).route r.toNat d with head := d.head, tail := d.tail })) ∧
  (∀ (c : Slot) (r : BitVec 12) s, exec (.routeDisable c r) s = .next (s.writeDesc c.val r.toNat false
    (((s.ctx c.val).routes.find? fun e => e.1 == r.toNat).map fun e => (e.2.head, e.2.tail)))) ∧
  (∀ (c : Slot) (r : BitVec 12) s, Answers (exec (.routeWritebackDone c r) s) fun t =>
    (c.val, r.toNat) ∉ t.busyRoutes ∧ ∀ b, b ≠ (c.val, r.toNat) → (b ∈ t.busyRoutes ↔ b ∈ s.busyRoutes)) ∧
  ∀ (c : Slot) (r : BitVec 12) (e : DWord) s d t, s.routeDesc { cl := 0, slot := c.val } r.toNat = .ok d →
    (s.ctx c.val).state ≠ .free → d.pod = true → d.en = true → d.bad = false →
    s.append { cl := 0, slot := c.val } r.toNat d e = .ok (some t) →
    exec (.peerEnqueue c r e) s = .next t

/-- RENQ appends each lane's entry in ascending order and parks the lanes that find the route full, RDEQ takes
the oldest entry for the path into a scalar pair and parks it behind those that wait while there is none; a
route number of 4,096 or more, a disabled route or a broken descriptor traps ROUTE; in a replay RENQ does
nothing and RDEQ delivers 0 (R188 to R191, R325). The first park that waits for an entry takes one when there is
one and its lanes go on; the first that waits for space appends what it has left and goes on once all is
appended; enabling loads HEAD and TAIL from the descriptor, and a write-back that is done no longer counts as
busy (R189, R190, R415). Where the spec leaves a choice the model takes that of log entry 83. -/
def Obligations.Routes : Prop :=
  Sys2Proof.Claims.RouteQueues ∧
    Sys2Proof.Claims.RouteWakes

/-! ### Loads and stores -/

/-- The loads perform in every executing lane, and what each delivers from plain memory is the bytes at its
address, the first lowest, narrow values zero- or sign-extended (R228, R229). -/
def Obligations.LoadsDeliver : Prop :=
  (∀ z q d b o m, Performs (.ld z d b o) (loadOp z (.base b o)) ∧ Performs (.ldX z q d m) (loadOp z m) ∧
    Performs (.lds z d b o) (localLoadOp false z (.base b o)) ∧
    Performs (.ldsX z q d m) (localLoadOp false z m) ∧
    Performs (.ldc z d b o) (localLoadOp true z (.base b o)) ∧ Performs (.ldcX z q d m) (localLoadOp true z m)) ∧
  (∀ z q (d b : SReg) o m, PerformsOnce (.sld z d b o) (scalarLoadOp z d (.base b o)) ∧
    PerformsOnce (.sldX z q d m) (scalarLoadOp z d m)) ∧
  (∀ (z : LdSize) (m : MemX) s g l pa, s.replayOf g = none →
    wellFormed (globalAddr s g l z.bytes m) z.bytes →
    plainAt s g (globalAddr s g l z.bytes m) z.bytes .read pa → unmarked s pa z.bytes →
    (loadOp z m).run s g l = .ok { state := s.touch (s.who g) (globalAddr s g l z.bytes m).toNat false
                                   words := loaded s.mem pa z }) ∧
  (∀ (z : LdSize) (d : SReg) (m : MemX) s g e pa, s.replayOf g = none →
    wellFormed (globalAddr s g 0 z.bytes m) z.bytes →
    plainAt s g (globalAddr s g 0 z.bytes m) z.bytes .read pa → unmarked s pa z.bytes →
    (scalarLoadOp z d m).run s g e = .ok { state := s.touch (s.who g) (globalAddr s g 0 z.bytes m).toNat false
                                           words := loaded s.mem pa z }) ∧
  ∀ (z : LdSize) (m : MemX) (cluster : Bool) s g l b off,
    s.locate g cluster (localAddr s g l z.bytes m).toNat z.bytes = .ok (b.uid, off) → s.block? b.uid = some b →
    (∀ i, i < z.bytes → s.inSerai b.uid (off + i) = false ∧ b.spadPoison.contains (off + i) = false) →
    (localLoadOp cluster z m).run s g l = .ok { state := s, words := loaded b.spad off z }

/-- Address formation: a base, an index times one or the access size, and an offset in units of the access size
or in bytes, added modulo 2^64 for global and 2^32 for scratchpad and cluster addresses (R108, R130). -/
def Sys2Proof.Claims.AddressFormed : Prop :=
  ∀ (s : State) (g : Group) (l n : Nat) (b : SReg) (a i : VReg) (o : BitVec 7) (x : Word) (sc : Bool),
    let S : Nat := (readS64 s g b.val).toNat
    let V : Nat := (readV64 s g l a.val).toNat
    let I : Int := (readV s g l i.val).toInt * (if sc then n else 1)
    globalAddr s g l n (.base b o) = BitVec.ofInt 64 (S + o.toInt * n) ∧
    globalAddr s g l n (.baseXi b x) = BitVec.ofInt 64 (S + x.toInt) ∧
    globalAddr s g l n (.idx b i sc none) = BitVec.ofInt 64 (S + I) ∧
    globalAddr s g l n (.idx b i sc (some x)) = BitVec.ofInt 64 (S + I + x.toInt) ∧
    globalAddr s g l n (.vbase a o) = BitVec.ofInt 64 (V + o.toInt * n) ∧
    globalAddr s g l n (.vbaseXi a x) = BitVec.ofInt 64 (V + x.toInt) ∧
    localAddr s g l n (.base b o) = BitVec.ofInt 32 ((readS s g b.val).toNat + o.toInt * n) ∧
    localAddr s g l n (.baseXi b x) = BitVec.ofInt 32 ((readS s g b.val).toNat + x.toInt) ∧
    localAddr s g l n (.idx b i sc none) = BitVec.ofInt 32 ((readS s g b.val).toNat + I) ∧
    localAddr s g l n (.vbaseXi a x) = BitVec.ofInt 32 ((readV s g l a.val).toNat + x.toInt) ∧
    localAddr s g l n (.idx b i sc (some x)) = BitVec.ofInt 32 ((readS s g b.val).toNat + I + x.toInt) ∧
    localAddr s g l n (.vbase a o) = BitVec.ofInt 32 ((readV s g l a.val).toNat + o.toInt * n)

/-- The first failing check decides a lane's fault: a global address that is not canonical raises ADDRFORM, one
that is not a multiple of the size ALIGN, then what the translation and the page's permissions give; a scratchpad
address raises SPADRANGE (R54, R56, R57, R224, R363). -/
def Sys2Proof.Claims.AddressChecks : Prop :=
  ∀ (s : State) (g : Group) (l : Nat) (z : LdSize) (w : StNarrow) (d : VReg) (m : MemX),
    let a := globalAddr s g l z.bytes m
    let at_ (o : Except FaultAt LaneOut) (code : Code) : Prop := ∃ f, o = .error f ∧ f.code = code ∧ f.addr = a.toNat
    let both (code : Code) : Prop := at_ ((loadOp z m).run s g l) code ∧
      (z.narrowOk w → at_ ((storeOp z w d m).run s g l) code)
    (canonical a = false → both .addrform) ∧
    (canonical a = true → a.toNat % z.bytes ≠ 0 → both .align) ∧
    (wellFormed a z.bytes → s.served (s.slotOf g) a.toNat z.bytes = none →
      (∀ lv, s.lookup (s.who g) a.toNat = .bad lv → both .ptformat) ∧
      (∀ lv, s.lookup (s.who g) a.toNat = .invalid false lv → both .notmapped) ∧
      ∀ leaf, s.lookup (s.who g) a.toNat = .leaf leaf → leaf.write = false → z.narrowOk w →
        at_ ((storeOp z w d m).run s g l) .writeprot) ∧
    ∀ b, s.blockOf g = some b → b.spadBad (localAddr s g l z.bytes m).toNat z.bytes = true →
      ∃ f, (localLoadOp false z m).run s g l = .error f ∧ f.code = .spadrange

/-- Address formation: a base, an index times one or the access size, and an offset in units of the access size
or in bytes, added modulo 2^64 for global and 2^32 for scratchpad and cluster addresses (R108, R130). The first
failing check decides a lane's fault: a global address that is not canonical raises ADDRFORM, one that is not a
multiple of the size ALIGN, then what the translation and the page's permissions give; a scratchpad address
raises SPADRANGE (R54, R56, R57, R224, R363). -/
def Obligations.Addresses : Prop :=
  Sys2Proof.Claims.AddressFormed ∧
    Sys2Proof.Claims.AddressChecks

namespace Sys2Proof.Claims

/-- The bytes that a store writes: the low bytes of its source words, the first in the lowest bytes, or the first
one narrowed by CVTN's rules (R236). -/
structure StoredBytes (ovt : BitVec 16) (z : LdSize) (w : StNarrow) (src : Nat → Word) (bytes : List Byte) : Prop where
  size : bytes.length = z.bytes
  plain : w = .none → ∀ k, k < z.bytes → bytes[k]? = some ((src (k / 4)).extractLsb' (8 * (k % 4)) 8)
  half : w = .f16 → ∀ k, k < 2 →
    bytes[k]? = some ((BitVec.ofNat 16 (narrowBits ovt .f32 .f16 .rn (src 0).toNat)).extractLsb' (8 * k) 8)
  brain : w = .bf16 → ∀ k, k < 2 →
    bytes[k]? = some ((BitVec.ofNat 16 (narrowBits ovt .f32 .bf16 .rn (src 0).toNat)).extractLsb' (8 * k) 8)

/-- Bytes without poison marks. -/
def clean (bytes : List Byte) : MBytes := bytes.map fun b => (b, false)

end Sys2Proof.Claims

/-- The stores perform in every executing lane, helper lanes writing nothing; each puts the low bytes of its
source, or its value narrowed by CVTN's rules, at its address (R235, R236); STBRK puts the brick of the lanes'
elements, a NaN brick when one is NaN and an all-zero brick when all are zero (R92, R237); the overflow table is the
context's, but for an instruction redone after a fault, which keeps the one it issued with (R354); in a replay a store to
another block's scratchpad is discarded and sets condition 6 (R325). -/
def Obligations.StoresPut : Prop :=
  (∀ z w q d b o m, Performs (.st z d b o) (storeOp z .none d (.base b o)) ∧ Performs (.stX z w q d m) (storeOp z w d m) ∧
    Performs (.sts z d b o) (localStoreOp false z .none d (.base b o)) ∧
    Performs (.stsX z w q d m) (localStoreOp false z w d m) ∧
    Performs (.stc z d b o) (localStoreOp true z .none d (.base b o)) ∧
    Performs (.stcX z w q d m) (localStoreOp true z w d m)) ∧
  (∀ z w q (d b : SReg) o m, PerformsOnce (.sst z d b o) (scalarStoreOp z .none d (.base b o)) ∧
    PerformsOnce (.sstX z w q d m) (scalarStoreOp z w d m)) ∧
  (∀ k a m s g c x, Issues (.stbrk k a m) s g c → a.val + ceilDiv k.count g.width ≤ 120 →
    (∀ l ∈ lanesOf c.exec, s.blocked g (.stbrk k a m) l ((brickStoreOp k a m).span s g) = false) →
    (brickStoreOp k a m).run s g c.exec = .ok x →
    exec (.stbrk k a m) s = .next ((x.state.perform (s.who g) x.puts).modGroup g.uid fun y => y)) ∧
  (∀ k a m s g c, Issues (.stbrk k a m) s g c → 120 < a.val + ceilDiv k.count g.width →
    exec (.stbrk k a m) s = .next (s.trapAt g c (.stbrk k a m) { code := .memarg } c.exec)) ∧
  (∀ (s : State) (g : Group), g.ovt = none → s.ovtOf g = (s.ctxOf g).ccb.ovt) ∧
  (∀ z w d m s g l leaf, z.narrowOk w → wellFormed (globalAddr s g l z.bytes m) z.bytes →
    s.reach (s.who g) (globalAddr s g l z.bytes m).toNat z.bytes .write = .ok leaf →
    ∃ bytes, StoredBytes (s.ovtOf g) z w (fun k => readV s g l (d.val + k)) bytes ∧
      (storeOp z w d m).run s g l =
        .ok { state := s, puts := [⟨leaf, (globalAddr s g l z.bytes m).toNat, clean bytes⟩] }) ∧
  (∀ z w (d : SReg) m s g e leaf, z.narrowOk w → g.allHelpers e = false →
    wellFormed (globalAddr s g 0 z.bytes m) z.bytes →
    s.reach (s.who g) (globalAddr s g 0 z.bytes m).toNat z.bytes .write = .ok leaf →
    ∃ bytes, StoredBytes (s.ovtOf g) z w (fun k => readS s g (d.val + k)) bytes ∧
      (scalarStoreOp z w d m).run s g e =
        .ok { state := s, puts := [⟨leaf, (globalAddr s g 0 z.bytes m).toNat, clean bytes⟩] }) ∧
  (∀ cluster z w d m s g l bu off, z.narrowOk w →
    s.locate g cluster (localAddr s g l z.bytes m).toNat z.bytes = .ok (bu, off) →
    (g.replay = false ∨ bu = g.block →
      ∃ bytes, StoredBytes (s.ovtOf g) z w (fun k => readV s g l (d.val + k)) bytes ∧
        (localStoreOp cluster z w d m).run s g l = .ok { state := s.spadStore bu off (clean bytes) }) ∧
    (g.replay = true → bu ≠ g.block →
      (localStoreOp cluster z w d m).run s g l = .ok { state := s.condition g 6 })) ∧
  (∀ k (a : VReg) m s g e leaf, g.allHelpers e = false → wellFormed (globalAddr s g 0 64 m) 64 →
    s.reach (s.who g) (globalAddr s g 0 64 m).toNat 64 .brickWrite = .ok leaf →
    let inputs := (List.range k.count).map fun n =>
      if mHas e (n % g.width) ∧ (g.lane (n % g.width)).helper = false then
        readV s g (n % g.width) (a.val + n / g.width) else 0
    (brickStoreOp k a m).run s g e = .ok { state := s, puts :=
      [⟨leaf, (globalAddr s g 0 64 m).toNat, clean (brickOf (s.ovtOf g) k inputs)⟩] }) ∧
  (∀ (ovt : BitVec 16) (k : BrickTy) (ws : List Word), ws.length = k.count →
    let b := brickOf ovt k ws
    let whole (kind mw e : Nat) : Prop := b = BitVec.ofNat 8 (32 * kind + 4 * mw) :: BitVec.ofNat 8 e ::
      List.replicate 62 0
    let mark (e : Nat) : Prop := match k with
      | .bfp m => whole 1 m.val e
      | .int8 => whole 4 0 e
      | .f16 | .bf16 => True
    b.length = 64 ∧
    ((∃ w ∈ ws, f32val w = .nan) → mark 255) ∧
    ((∀ w ∈ ws, w.toNat % 2 ^ 31 = 0) → mark 0) ∧
    (k = .f16 → brickKind b = 2 ∧ brickE b = 127 ∧ ∀ n, n < 31 → BitVec.ofNat 16 (fieldOf b (2 + 2 * n) 2) =
      BitVec.ofNat 16 (narrowBits ovt .f32 .f16 .rn (ws.getD n 0).toNat)) ∧
    (k = .bf16 → brickKind b = 3 ∧ brickE b = 127 ∧ ∀ n, n < 31 → BitVec.ofNat 16 (fieldOf b (2 + 2 * n) 2) =
      BitVec.ofNat 16 (narrowBits ovt .f32 .bf16 .rn (ws.getD n 0).toNat))) ∧
  ∀ (o : LaneOp) (s : State) (g : Group) (l : Nat), o.kind = .store → (g.lane l).helper = true →
    o.at s g l = .ok { state := s }

/-- Where stores go: performing a list of stores changes no byte outside their footprints, and the last one to
plain memory reads back as stored, its poison marks gone (R77, R225); in a replay memory does not change (R326). The footprint of a store to a
compressed page is the block's code and its side-table entry (R97); that the code is the block's first 16 bytes is
the model's choice (log entry 20). -/
def Sys2Proof.Claims.StoreFrame : Prop :=
  ∀ (s : State) (w : Who) (ps : List Put),
    (∀ a, (∀ p ∈ ps, w.replay = none → ¬ footprint p a) →
      Memory.read (s.perform w ps).mem a = Memory.read s.mem a) ∧
    (s.perform w ps).ctxs = s.ctxs ∧ (s.perform w ps).blocks = s.blocks ∧
    ∀ (qs : List Put) (p : Put) (i : Nat), ps = qs ++ [p] → w.replay = none → p.leaf.owner = 255 →
      p.leaf.kind ≠ .compressed → inDevice p.pa = false → i < p.data.length →
      p.data[i]? = some (Memory.read (s.perform w ps).mem (p.pa + i), (s.perform w ps).marked (p.pa + i))

/-- Scratchpad stores change the bytes stored and no other byte of any block, no byte of global memory, and no full
bit (R61). -/
def Sys2Proof.Claims.ScratchStoreFrame : Prop :=
  ∀ (s : State) (b : Block) (off : Nat) (bytes : List Byte), s.block? b.uid = some b →
    (s.spadStore b.uid off (bytes.map fun x => (x, false))).mem = s.mem ∧
    ∃ b', (s.spadStore b.uid off (bytes.map fun x => (x, false))).block? b.uid = some b' ∧
      (∀ o, Memory.read b'.spad o = if off ≤ o ∧ o < off + bytes.length then bytes.getD (o - off) 0
        else Memory.read b.spad o) ∧
      (∀ i, (b'.line i).full = (b.line i).full) ∧
      ∀ v, v ≠ b.uid → (s.spadStore b.uid off (bytes.map fun x => (x, false))).block? v = s.block? v

/-- Where stores go: performing a list of stores changes no byte outside their footprints, and the last one to
plain memory reads back as stored, its poison marks gone (R77, R225); in a replay memory does not change (R326).
The footprint of a store to a compressed page is the block's code and its side-table entry (R97); that the code
is the block's first 16 bytes is the model's choice (log entry 20). Scratchpad stores change the bytes stored
and no other byte of any block, no byte of global memory, and no full bit (R61). Where the spec leaves a choice
the model takes that of log entry 20. -/
def Obligations.StoreFrames : Prop :=
  Sys2Proof.Claims.StoreFrame ∧
    Sys2Proof.Claims.ScratchStoreFrame

namespace Sys2Proof.Claims

/-- The load size of an atomic's location. -/
def atomSize (t : AtomTy) : LdSize := if t.is64 then .b64 else .b32

/-- What an atomic of a lane leaves at its location, which holds `old`: the operand is the register, or the pair, from
`c` on, and the new value of a .cas is the one after it (R238, R239). -/
def atomDone (s : State) (g : Group) (l : Nat) (o : AtomOp) (t : AtomTy) (c : VReg) (old : List Word) : DWord :=
  let arg (r : Nat) : Nat := if t.is64 then (readV64 s g l r).toNat else (readV s g l r).toNat
  BitVec.ofNat 64 (atomNew o t ((old.getD 1 0).toNat * 2 ^ 32 + (old.getD 0 0).toNat) (arg c.val)
    (arg (c.val + t.regs)))

end Sys2Proof.Claims

/-- The atomics perform in lane order, each lane indivisibly: the old value is the result and the new value is
stored at once, in global memory or in scratchpad; RED has no result; a helper lane writes nothing and its result is
Undefined (R18, R77, R239); the new value of each operation and type (R239). -/
def Obligations.Atomics : Prop :=
  (∀ o t q w d m c, Performs (.atom o t q w d m c) (atomOp o t m c true) ∧
    Performs (.red o t q w m c) (atomOp o t m c false) ∧ Performs (.atomx o t q w d m c) (atomOp o t m c true) ∧
    Performs (.atoms o t q w d m c) (atomSpadOp o t m c)) ∧
  (∀ o (t : AtomTy) (result : Bool) m (c : VReg) s g l pa, let n := 4 * t.regs
    s.replayOf g = none → wellFormed (globalAddr s g l n m) n → plainAt s g (globalAddr s g l n m) n .atomic pa →
    unmarked s pa n →
    ∃ ps, (atomOp o t m c result).run s g l = .ok
        { state := s.perform (s.who g) ps, words := if result then loaded s.mem pa (atomSize t) else [] } ∧
      ∀ a, Memory.read (s.perform (s.who g) ps).mem a = if pa ≤ a ∧ a < pa + n then
        (atomDone s g l o t c (loaded s.mem pa (atomSize t))).extractLsb' (8 * (a - pa)) 8
        else Memory.read s.mem a) ∧
  (∀ o (t : AtomTy) m (c : VReg) s g l b off, let n := 4 * t.regs
    s.locate g false (localAddr s g l n m).toNat n = .ok (b.uid, off) → s.block? b.uid = some b →
    (∀ i, i < n → s.inSerai b.uid (off + i) = false ∧ b.spadPoison.contains (off + i) = false) →
    (atomSpadOp o t m c).run s g l = .ok
      { state := s.spadStore b.uid off (clean ((List.range n).map fun k =>
          (atomDone s g l o t c (loaded b.spad off (atomSize t))).extractLsb' (8 * k) 8))
        words := loaded b.spad off (atomSize t) }) ∧
  (∀ (o : LaneOp) k s g l x, o.kind = .rmw k → (g.lane l).helper = true → o.run s g l = .ok x →
    o.at s g l = .ok { state := s, words := (List.range k).map fun i => s.undef (s.slotOf g) .result (8 * l + i) }) ∧
  (∀ (old x y : Word),
    let n (o : AtomOp) (t : AtomTy) : Word := BitVec.ofNat 32 (atomNew o t old.toNat x.toNat y.toNat)
    (∀ t : AtomTy, t = .s32 ∨ t = .u32 →
      n .add t = old + x ∧ n .and t = old &&& x ∧ n .or t = old ||| x ∧ n .xor t = old ^^^ x ∧ n .exch t = x ∧
      n .cas t = if old = x then y else old) ∧
    n .min .s32 = (if old.toInt ≤ x.toInt then old else x) ∧ n .max .s32 = (if old.toInt ≤ x.toInt then x else old) ∧
    n .min .u32 = (if old.toNat ≤ x.toNat then old else x) ∧ n .max .u32 = (if old.toNat ≤ x.toNat then x else old) ∧
    n .add .f32 = BitVec.ofNat 32 (Fmt.f32.round .rn
      (Machine.Num.add .rn (Fmt.f32.value old.toNat) (Fmt.f32.value x.toNat))) ∧
    n .min .f32 = BitVec.ofNat 32 (Fmt.f32.minMax false old.toNat x.toNat) ∧
    n .max .f32 = BitVec.ofNat 32 (Fmt.f32.minMax true old.toNat x.toNat) ∧
    n .exch .f32 = x ∧ n .cas .f32 = if old = x then y else old) ∧
  ∀ (old x y : DWord),
    let n (o : AtomOp) (t : AtomTy) : DWord := BitVec.ofNat 64 (atomNew o t old.toNat x.toNat y.toNat)
    (∀ t : AtomTy, t = .s64 ∨ t = .u64 →
      n .add t = old + x ∧ n .and t = old &&& x ∧ n .or t = old ||| x ∧ n .xor t = old ^^^ x ∧ n .exch t = x ∧
      n .cas t = if old = x then y else old) ∧
    n .min .s64 = (if old.toInt ≤ x.toInt then old else x) ∧ n .max .s64 = (if old.toInt ≤ x.toInt then x else old) ∧
    n .min .u64 = (if old.toNat ≤ x.toNat then old else x) ∧ n .max .u64 = (if old.toNat ≤ x.toNat then x else old)

/-! ### Bricks, levels of detail, textures -/

/-- LDBRK delivers the element its index names of the brick at its address, as binary32, +0 beyond the count, and
raises BRICKPOISON on a brick of kind 7; element i of a BFP brick of width m with 0 < E < 255 is
M × 2^(E − 127 − (m − 1)), and of a zero brick +0 (R88, R89, R90, R91, R232). -/
def Sys2Proof.Claims.BrickLoads : Prop :=
  (∀ d m c, Performs (.ldbrk d m c) (brickOp m c)) ∧
  (∀ (m : MemX) (c : VReg) s g l pa, s.replayOf g = none → wellFormed (globalAddr s g l 64 m) 64 →
    plainAt s g (globalAddr s g l 64 m) 64 .brickRead pa → unmarked s pa 64 →
    let b := Memory.reads s.mem pa 64
    let i := (readV s g l c.val).toNat
    (brickKind b = 7 → ∃ f, (brickOp m c).run s g l = .error f ∧ f.code = .brickpoison ∧
      f.addr = (globalAddr s g l 64 m).toNat) ∧
    (brickKind b ≠ 7 → (brickOp m c).run s g l = .ok
      { state := s.touch (s.who g) (globalAddr s g l 64 m).toNat false
        words := [if i < brickCount b then brickWord b i else 0] })) ∧
  ∀ (b : List Byte) (i : Nat), brickKind b = 1 → brickMw b < 7 →
    brickCount b = 496 / (brickMw b + 2) ∧
    (i < brickCount b → 0 < brickE b → brickE b < 255 → f32val (brickWord b i) =
      f32val (BitVec.ofNat 32 (Fmt.f32.round .rn (Machine.Num.ofInt (signedAt (leNat b) (16 + (brickMw b + 2) * i)
        (brickMw b + 2)) ((brickE b : Int) - 127 - (brickMw b + 1)) false)))) ∧
    (i < brickCount b → brickE b = 0 → brickWord b i = 0) ∧
    (i < brickCount b → brickE b = 255 → brickWord b i = 0x7FC00000)

namespace Sys2Proof.Claims

/-- What the misses of an LOD load's wanted level leave: RINGLOST, and the state in which the chain goes on (R231). -/
def missed (s : State) (g : Group) (d : LodDesc) (lin : Name) (wanted : Nat) (ps : List Nat) : Bool × State :=
  (ps.filter fun p => s.lodPage g d wanted p ≠ .present).foldl
    (fun x p => let y := x.2.logMiss g d wanted p lin; (x.1 || y.1, y.2))
    (false, ps.foldl (fun s p => s.keepPage g d wanted p) s)

/-- What a page is to the load: those of the wanted level are looked at before its misses are logged. -/
def seenPage (s : State) (g : Group) (d : LodDesc) (lin : Name) (wanted : Nat) (pages : Nat → List Nat)
    (k p : Nat) : PageState :=
  (if k = wanted then s else (missed s g d lin wanted (pages wanted)).2).lodPage g d k p

/-- The chain from the wanted level delivers level `k`: the first that has every page; `mis` tells whether a page of
one before it was marked resident and could not be translated, or had no readable map byte (R231, R308). -/
structure Delivers (s : State) (g : Group) (d : LodDesc) (lin : Name) (wanted : Nat) (pages : Nat → List Nat)
    (k : Nat) (mis : Bool) : Prop where
  low : wanted ≤ k
  high : k ≤ d.levels
  whole : ∀ p ∈ pages k, seenPage s g d lin wanted pages k p = .present
  first : ∀ j, wanted ≤ j → j < k → ∃ p ∈ pages j, seenPage s g d lin wanted pages j p ≠ .present
  mismatch : mis = true ↔ ∃ j, wanted ≤ j ∧ j < k ∧ ∃ p ∈ pages j, seenPage s g d lin wanted pages j p = .mismatch

/-- The status word (R105). -/
def lodStatus (wanted k : Nat) (lost mis none_ : Bool) : Word :=
  BitVec.ofNat 32 (wanted + 16 * k + 256 * lost.toNat + 512 * mis.toNat + 1024 * none_.toNat)

/-- A lane of an LOD load delivers words, and memory changes as logging its misses changes it. -/
def Reads (o : LaneOp) (s : State) (g : Group) (l : Nat) (m : List Host.Cell) (ws : List Word) : Prop :=
  ∃ t : State, o.run s g l = .ok { state := t, words := ws } ∧ t.mem = m

/-- The texels of a sample: a tap is the bytes at its offset, or a border texel (R234, R306). -/
def Tapped (s : State) (g : Group) (d : LodDesc) (k : Nat) (ts : List (Option Nat)) (cs : List (List Word)) : Prop :=
  cs.length = ts.length ∧ ∀ (n : Nat) (o : Option Nat), ts[n]? = some o → match o with
    | none => cs[n]? = some (texelColor d.tfmt none)
    | some x => ∃ b, s.levelBytes g d k x (texelBytes d.tfmt) = .ok b ∧ cs[n]? = some (texelColor d.tfmt (some b))

end Sys2Proof.Claims

/-- LDLOD, TEX and TEXG perform in every executing lane. An LDLOD delivers the bytes of the first level from the
wanted one down the chain whose page is resident and translated, with WANTED, DELIVERED, RINGLOST and MAPMISMATCH in
its status; with none it delivers zeros and NOLEVEL. TEX filters the four texels of that level, and TEXG returns one
channel of each. A miss of the wanted level enters the feedback ring unless the filter holds its key, the context
has no ring or it is a replay; a full ring drops it, counts it and sets RINGLOST (R105, R231, R234, R307, R308, R310,
R325, R341). -/
def Sys2Proof.Claims.LodFallsBack : Prop :=
  (∀ z d b o, PerformsLod (.ldlod z d b o) (lodOp 0 z (.base b o))) ∧
  (∀ l z d m, PerformsLod (.ldlodX l z d m) (lodOp l.val z m)) ∧
  (∀ u z d t c, PerformsLod (.tex u z d t c) (texLaneOp u z t c)) ∧
  (∀ n d t c, PerformsLod (.texg n d t c) (texgLaneOp n t c)) ∧
  (∀ (wanted : Fin 16) (z : LodSize) (m : MemX) s g l d,
    let a := (lodAddr s g l (4 * z.words) m).1
    let off := (lodAddr s g l (4 * z.words) m).2.toNat
    let lin := (g.lane l).lin
    let at_ (k : Nat) : Nat := d.mapOffset wanted.val off k
    let pages (k : Nat) : List Nat := [at_ k / 65536]
    let after := missed s g d lin wanted.val (pages wanted.val)
    wellFormed a 64 → off % (4 * z.words) = 0 → s.lodDesc g a = .ok d → d.levels ≤ 15 →
    (∀ k mis bytes, Delivers s g d lin wanted.val pages k mis →
      after.2.levelBytes g d k (at_ k) (4 * z.words) = .ok bytes →
      Reads (lodOp wanted.val z m) s g l after.2.mem
        (wordsOf z.words bytes ++ [lodStatus wanted.val k after.1 mis false])) ∧
    (∀ mis : Bool, wanted.val ≤ d.levels →
      (∀ j, wanted.val ≤ j → j ≤ d.levels → ∀ p ∈ pages j, seenPage s g d lin wanted.val pages j p ≠ .present) →
      (mis = true ↔ ∃ j, wanted.val ≤ j ∧ j ≤ d.levels ∧
        ∃ p ∈ pages j, seenPage s g d lin wanted.val pages j p = .mismatch) →
      Reads (lodOp wanted.val z m) s g l after.2.mem
        (List.replicate z.words 0 ++ [lodStatus wanted.val d.levels after.1 mis true])) ∧
    (d.levels < wanted.val → Reads (lodOp wanted.val z m) s g l s.mem
      (List.replicate z.words 0 ++ [lodStatus wanted.val d.levels false false true]))) ∧
  (∀ (u : TexMode) (z : LodSize) (t : SReg) (c : VReg) s g l d k mis cs,
    let x := readV s g l c.val
    let y := readV s g l (c.val + 1)
    let lin := (g.lane l).lin
    let wanted := texLevel s g l u d c.val
    let pages (k : Nat) : List Nat := tapPages (d.taps k x y).1
    let after := missed s g d lin wanted (pages wanted)
    let texel (n i : Nat) : Word := (cs.getD n []).getD i 0
    let mix (p q f : Word) : Word := f32fma f (f32sub q p) p
    wellFormed (readS64 s g t.val) 64 → s.lodDesc g (readS64 s g t.val) = .ok d → d.levels ≤ 15 →
    Delivers s g d lin wanted pages k mis → Tapped after.2 g d k (d.taps k x y).1 cs →
    Reads (texLaneOp u z t c) s g l after.2.mem
      (((List.range z.words).map fun i => mix (mix (texel 0 i) (texel 1 i) (d.taps k x y).2.1)
        (mix (texel 2 i) (texel 3 i) (d.taps k x y).2.1) (d.taps k x y).2.2) ++
        [lodStatus wanted k after.1 mis false])) ∧
  (∀ (n : Fin 4) (t : SReg) (c : VReg) s g l d k mis cs,
    let x := readV s g l c.val
    let y := readV s g l (c.val + 1)
    let lin := (g.lane l).lin
    let wanted := levelOf (readV s g l (c.val + 2)) d.levels
    let pages (k : Nat) : List Nat := tapPages (d.taps k x y).1
    let after := missed s g d lin wanted (pages wanted)
    wellFormed (readS64 s g t.val) 64 → s.lodDesc g (readS64 s g t.val) = .ok d → d.levels ≤ 15 →
    Delivers s g d lin wanted pages k mis → Tapped after.2 g d k (d.taps k x y).1 cs →
    Reads (texgLaneOp n t c) s g l after.2.mem
      (cs.map (fun w => w.getD n.val 0) ++ [lodStatus wanted k after.1 mis false])) ∧
  (∀ (d : LodDesc) (k : Nat) (x y : Word) (i j : Int),
    let ux := f32sub (f32mul x (f32int (d.size k).1)) 0x3F000000
    let vy := f32sub (f32mul y (f32int (d.size k).2)) 0x3F000000
    f32floor ux = some i → f32floor vy = some j →
    (d.taps k x y).2 = (f32sub ux (f32int i), f32sub vy (f32int j)) ∧
    ∀ n, n < 4 → (d.taps k x y).1[n]? = some
      (match wrapCoord d.amode (i + (n % 2 : Nat)) (d.size k).1, wrapCoord d.amode (j + (n / 2 : Nat)) (d.size k).2 with
        | some p, some q => some ((q * (d.size k).1 + p) * texelBytes d.tfmt)
        | _, _ => none)) ∧
  (∀ (d : LodDesc) (k : Nat) (x y : Word),
    (f32floor (f32sub (f32mul x (f32int (d.size k).1)) 0x3F000000) = none ∨
      f32floor (f32sub (f32mul y (f32int (d.size k).2)) 0x3F000000) = none) →
    (d.taps k x y).1 = [none, none, none, none]) ∧
  ∀ (s : State) (g : Group) (d : LodDesc) (l p : Nat) (lin : Name),
    let w : Who := { s.who g with replay := none }
    let ring := (s.ctx w.slot).ccb.fring.toNat
    let key := (w.slot, d.resid, l, p)
    let word (i : Nat) : Word := lin.extractLsb' (32 * i) 32
    (g.replay = true ∨ ring = 0 ∨ key ∈ (s.cluster w.cl).filter → s.logMiss g d l p lin = (false, s)) ∧
    (g.replay = false → ring ≠ 0 → key ∉ (s.cluster w.cl).filter →
      (s.quietLoad w ring 16 = none → (s.logMiss g d l p lin).1 = true) ∧
      ∀ h, s.quietLoad w ring 16 = some h →
        let cap := 2 ^ (fieldOf h 0 4 % 32)
        let put := fieldOf h 4 4
        (((BitVec.ofNat 32 put - BitVec.ofNat 32 (fieldOf h 8 4) : Word).toNat = cap →
          (s.logMiss g d l p lin).1 = true ∧ (∀ v t, s.quietNat w (ring + 12) 4 = some v →
            s.quietStore w (ring + 12) (natLe 4 (min (v + 1) (2 ^ 32 - 1))) = some t →
            (s.logMiss g d l p lin).2 = t)) ∧
        ((BitVec.ofNat 32 put - BitVec.ofNat 32 (fieldOf h 8 4) : Word).toNat ≠ cap →
          ∀ t t', s.quietStore w (ring + 64 + 16 * (put % cap)) (bytesOf [BitVec.ofNat 32 (d.resid * 256 + l * 16 +
              (lin.extractLsb' 96 4).toNat), BitVec.ofNat 32 p, word 1,
              (word 2 &&& 0xFFFFFF00) ||| (lin.extractLsb' 100 8).setWidth 32]) = some t →
            t.quietStore w (ring + 4) (natLe 4 (put + 1)) = some t' →
            s.logMiss g d l p lin = (false, t'.modCluster w.cl fun c => { c with filter := (key :: c.filter).take 64 }))))

/-- Texture coordinates: repeat, clamp and mirror name a texel inside the level, mirror repeats with period 2n and is
symmetric, border names none outside; the level of a sample is the floor of its operand, or TEX's of λ + 0.5, clamped
to the levels there are, 0 for NaN; a channel that a format lacks reads 0, and A reads 1.0 (R234, R306). -/
def Sys2Proof.Claims.TextureCoordinates : Prop :=
  (∀ (k : Int) (n : Nat), 0 < n →
    (∀ mode, mode < 3 → ∃ j, wrapCoord mode k n = some j ∧ j < n) ∧
    (0 ≤ k → k < n → ∀ mode, mode < 4 → wrapCoord mode k n = some k.toNat) ∧
    wrapCoord 0 (k + n) n = wrapCoord 0 k n ∧ wrapCoord 2 (k + 2 * n) n = wrapCoord 2 k n ∧
    wrapCoord 2 (-1 - k) n = wrapCoord 2 k n ∧
    (k < 0 → wrapCoord 1 k n = some 0) ∧ ((n : Int) ≤ k → wrapCoord 1 k n = some (n - 1)) ∧
    (k < 0 ∨ (n : Int) ≤ k → wrapCoord 3 k n = none)) ∧
  (∀ (x : Word) (levels : Nat), levelOf x levels ≤ levels ∧ (f32val x = .nan → levelOf x levels = 0) ∧
    (f32val x = .inf false → levelOf x levels = levels) ∧ (f32val x = .inf true → levelOf x levels = 0) ∧
    ∀ neg m e, f32val x = .fin neg m e → let v : Int := if neg then -(m : Int) else m
      (levelOf x levels : Int) = max 0 (min (levels : Int)
        (if 0 ≤ e then v * 2 ^ e.toNat else v / 2 ^ (-e).toNat))) ∧
  (∀ (s : State) (g : Group) (l : Nat) (d : LodDesc) (c : Nat),
    let step (lam : Word) : Nat := levelOf (f32add lam 0x3F000000) d.levels
    let part (dy : Bool) : Word :=
      f32max (f32mul (coarseDiff s g l c dy &&& 0x7FFFFFFF) (f32int d.w0))
        (f32mul (coarseDiff s g l (c + 1) dy &&& 0x7FFFFFFF) (f32int d.h0))
    let log := BitVec.ofNat 32 (Fmt.f32.log2 (f32max (part false) (part true)).toNat)
    texLevel s g l .level d c = step (readV s g l (c + 2)) ∧ texLevel s g l .auto d c = step log ∧
    texLevel s g l .bias d c = step (f32add log (readV s g l (c + 2)))) ∧
  ∀ (tfmt : Nat) (b : List Byte), tfmt < 6 →
    (texelColor tfmt (some b)).length = 4 ∧
    ((texelShape tfmt).1 = 1 → (texelColor tfmt (some b)).drop 1 = [0, 0, 0x3F800000]) ∧
    texelColor tfmt none = [0, 0, 0, if (texelShape tfmt).1 = 4 then 0 else 0x3F800000]

/-- LDBRK delivers the element its index names of the brick at its address, as binary32, +0 beyond the count,
and raises BRICKPOISON on a brick of kind 7; element i of a BFP brick of width m with 0 < E < 255 is M × 2^(E −
127 − (m − 1)), and of a zero brick +0 (R88, R89, R90, R91, R232). LDLOD, TEX and TEXG perform in every
executing lane. An LDLOD delivers the bytes of the first level from the wanted one down the chain whose page is
resident and translated, with WANTED, DELIVERED, RINGLOST and MAPMISMATCH in its status; with none it delivers
zeros and NOLEVEL. TEX filters the four texels of that level, and TEXG returns one channel of each. A miss of
the wanted level enters the feedback ring unless the filter holds its key, the context has no ring or it is a
replay; a full ring drops it, counts it and sets RINGLOST (R105, R231, R234, R307, R308, R310, R325, R341).
Texture coordinates: repeat, clamp and mirror name a texel inside the level, mirror repeats with period 2n and
is symmetric, border names none outside; the level of a sample is the floor of its operand, or TEX's of λ + 0.5,
clamped to the levels there are, 0 for NaN; a channel that a format lacks reads 0, and A reads 1.0 (R234, R306).
Where the spec leaves a choice the model takes that of log entries 130 and 141. -/
def Obligations.SpecialLoads : Prop :=
  Sys2Proof.Claims.BrickLoads ∧
    Sys2Proof.Claims.LodFallsBack ∧
    Sys2Proof.Claims.TextureCoordinates

/-! ### Copies -/

namespace Sys2Proof.Claims

/-- A lane's copy has no earlier faulted access to wait for (R373). -/
def copyFree (s : State) (g : Group) (i : Instr) (n : Nat) (a gl : SReg) (x : VReg) (l : Nat) : Prop :=
  s.blocked g i l [{ addr := (cpaAddrs s g n a gl x l).2.toNat, n := n, spad := none }] = false

/-- A CPA of `n` bytes whose lanes' copies `p` are good: the destination lines become empty, and the copies leave as
caravans. -/
def Copies (i : Instr) (n : Nat) (a gl : SReg) (x : VReg) : Prop :=
  ∀ s g c (p : Nat → Part), Issues i s g c →
    let ls := lanesOf (g.noHelpers c.exec)
    (∀ l ∈ ls, copyFree s g i n a gl x l ∧ cpaLane s g n a gl x (g.noHelpers c.exec) l = .ok (p l)) →
    exec i s = .next ((((ls.map p).foldl (fun t q => t.touch (t.who g) q.ga false) s).addPendingAll g.block
      (ls.map fun l => ((p l).off, (p l).n))).addCaravans (g.copyOf c) false (ls.map p))

/-- The byte a landing part leaves at a scratchpad offset. -/
def landed (b : Block) (p : Part) (o : Nat) : Byte :=
  if p.off ≤ o ∧ o < p.off + p.data.length then
    match p.data.getD (o - p.off) none with
    | some x => x.1
    | none => Memory.read b.spad o
  else Memory.read b.spad o

end Sys2Proof.Claims

/-- CPA and CPB make caravans, each part in exactly one line's caravan, and mark the destination lines empty
with pending bytes; a CPB out of scratchpad parks its group while a source line is empty; CARAVAN_LAND writes an
inbound caravan's bytes, lowers the counts and fills the lines whose count reaches 0; FEMARK sets the full bits
of its lines; FULL_BIT_WAKE lets a clause go on once its lines are full (R59, R60, R61, R62, R241, R242, R243).
Where the spec leaves a choice the model takes that of log entry 64. -/
def Obligations.CopiesLand : Prop :=
  (∀ a gl x, Copies (.cpaB32 a gl x) 4 a gl x ∧ Copies (.cpaB64 a gl x) 8 a gl x ∧ Copies (.cpaB128 a gl x) 16 a gl x) ∧
  (∀ (d a n : SReg) s g c t, Issues (.cpb d a n) s g c → g.allHelpers c.exec = false →
    let (out, ga, off, k) := cpbArgs s g d a n
    (readS s g n.val).toNat / 2 ^ 21 % 2 ^ 10 = 0 → k % 16 = 0 → k ≠ 0 → k ≤ 1048576 →
    (if out then d else a).val % 2 = 0 → wellFormed ga 16 → off % 16 = 0 →
    (∃ b, s.blockOf g = some b ∧ off + k ≤ b.spadSize) →
    (∀ l ∈ lanesOf c.exec, s.blocked g (.cpb d a n) l [{ addr := ga.toNat, n := k, spad := none }] = false) →
    let need := s.emptyLines [{ addr := off, n := k, spad := some g.block }]
    ((out = true → need = []) →
      cpbStart (if out then s else s.addPendingAll g.block [(off, k)]) g ((g.copyOf c).withCpb out ga off k) out
        ga.toNat off k = .ok t → exec (.cpb d a n) s = .next t) ∧
    (out = true → need ≠ [] → exec (.cpb d a n) s = .next (s.holdClause g.uid (.line need)))) ∧
  (∀ (s : State) (k : CopyOf) (out : Bool) (ps : List Part), ∃ ks : List Caravan,
    (s.addCaravans k out ps).caravans = s.caravans ++ ks ∧ (s.addCaravans k out ps).mem = s.mem ∧
    (∀ x ∈ ks, x.out = out ∧ x.block = k.block ∧ ∀ p ∈ x.parts, ∀ q ∈ x.parts, p.ga / 128 = q.ga / 128) ∧
    ∀ p ∈ ps, (ks.filter fun x => x.parts.contains p).length = 1) ∧
  (∀ (n : Nat) s k, s.caravans.find? (fun k => k.num == n) = some k → k.record = none → k.out = false →
    ∃ t : State, t = k.parts.foldl (fun s p => s.landPart k.block p) s ∧
      exec (.caravanLand n) s = .next { t with caravans := t.caravans.filter fun x => x.num ≠ n }) ∧
  (∀ (n : Nat) s k b, s.caravans.find? (fun k => k.num == n) = some k → k.record = none → k.out = true →
    s.block? k.block = some b → (∀ p ∈ k.parts, b.linesFull p.off p.n = true) →
    exec (.caravanLand n) s = .next (s.landOut k)) ∧
  (∀ (s : State) (b : Block) (p : Part), s.block? b.uid = some b →
    (∀ i ∈ linesMet p.off p.n, (b.line i).clob = []) →
    ∃ b', (s.landPart b.uid p).block? b.uid = some b' ∧ (∀ o, Memory.read b'.spad o = landed b p o) ∧
      ∀ i ∈ linesMet p.off p.n,
        (b'.line i).pendingBytes = (b.line i).pendingBytes - bytesInLine p.off p.n i ∧
        ((b'.line i).pendingBytes = 0 → (b'.line i).full = true)) ∧
  (∀ (a b : SReg) (full : Bool) s g c, let i : Instr := if full then .femarkFull a b else .femarkEmpty a b
    let off := (readS s g a.val).toNat
    let n := (readS s g b.val).toNat
    Issues i s g c → off % 128 = 0 → n % 128 = 0 → (∃ k, s.blockOf g = some k ∧ off + n ≤ k.spadSize) →
    exec i s = .next (s.modBlock g.block fun x => x.mark off n full)) ∧
  (∀ (b : Block) (off n i : Nat) (full : Bool), ((b.mark off n full).line i).full =
      (if i ∈ linesMet off n then full else (b.line i).full) ∧ (b.mark off n full).spad = b.spad) ∧
  ∀ (u : Nat) s g c ls, s.group? u = some g → g.clause = some c → c.wait = some (.line ls) →
    (∀ e ∈ ls, s.lineFull e = true) → (∀ e ∈ s.engines, e.group ≠ u) →
    Answers (exec (.fullBitWake u) s) fun t => OnlyGroup (s.drawn (s.slotOf g)) t u ∧ After t u fun g' =>
      g' = { g with clause := some { c with wait := none } }

/-! ### Tokens, barriers, collectives -/

/-- PREFR takes the next token slot and its word goes to `d`; TOKEN_RESOLVE resolves it; TOKW writes its status,
2 for a token older than the slot's, parks the path while it is pending, and traps MEMARG on one that is newer;
WAITC ends its lanes and registers a continuation, which CONTINUATION_SPAWN brings to its core (R64, R244, R245,
R246, R247). Where the spec leaves a choice the model takes that of log entries 128 and 135. -/
def Obligations.Tokens : Prop :=
  (∀ (d a b : SReg) s g c, Issues (.prefr d a b) s g c → (readS s g b.val).toNat ≤ 2 ^ 26 →
    readS s g b.val ≠ 0 → canonical (readS64 s g a.val) = true →
    let x := (s.ctx (s.slotOf g)).token_ (s.ctx (s.slotOf g)).nextToken
    (x.resolved = true → ∃ k t t', s.takeToken (s.slotOf g) = some (k, t, t') ∧
      k = (s.ctx (s.slotOf g)).nextToken ∧ t = tokenWord k (x.gen + 1) ∧
      exec (.prefr d a b) s = .next { t'.modGroup g.uid fun y => y.writeS d.val t with
        tokenOps := t'.tokenOps ++ [(s.slotOf g, k, .prefr d a b, g)] }) ∧
    (x.resolved = false → exec (.prefr d a b) s = .next (s.holdClause g.uid .tokenSlot))) ∧
  (∀ (c : Slot) (t : BitVec 8) s d a b g, s.tokenOps.find? (fun o => o.1 == c.val && o.2.1 == t.toNat) =
      some (c.val, t.toNat, .prefr d a b, g) →
    let s' : State := { s with tokenOps := s.tokenOps.filter fun o => !(o.1 == c.val && o.2.1 == t.toNat) }
    let w : Who := { s.who g with slot := c.val }
    exec (.tokenResolve c t) s = .next ((s'.touchRun w (readS64 s g a.val).toNat (readS s g b.val).toNat).resolveToken
      c.val t.toNat (s.skips w (readS64 s g a.val).toNat (readS s g b.val).toNat))) ∧
  (∀ (d a : SReg) s g c, Issues (.tokw d a) s g c →
    let t := readS s g a.val
    let x := (s.ctxOf g).token_ (t.toNat % 256)
    let age := x.gen - BitVec.ofNat 24 (t.toNat / 256)
    (age = 0 → x.resolved = true →
      exec (.tokw d a) s = .next (s.setGroup (g.writeS d.val (if x.skipped then 1 else 0)))) ∧
    (age = 0 → x.resolved = false →
      exec (.tokw d a) s = .next (s.setGroup (g.parkNext c c.exec (.token t (g.sbase + d.val))))) ∧
    (age ≠ 0 → age.toNat ≤ 2 ^ 23 → exec (.tokw d a) s = .next (s.setGroup (g.writeS d.val 2))) ∧
    (2 ^ 23 < age.toNat → exec (.tokw d a) s = .next (s.trap g c (.tokw d a) .memarg))) ∧
  (∀ (t : SReg) (o : BitVec 14) s g c (barrier : Bool),
    let i : Instr := if barrier then .waitcBarrier o else .waitcToken t o
    let w : Option Word := if barrier then none else some (readS s g t.val)
    Issues i s g c → s.badTarget { s.who g with replay := none } (c.target o) none = none →
    exec i s = .next ((({ s with conts := s.conts ++ [g.cont s c.exec (c.target o) w] } : State).setGroup
      (g.modClause fun x => { x with moved := x.moved ||| c.exec })).exitLanes g.uid c.exec)) ∧
  ∀ (n : Nat) s k b h, s.conts[n]? = some k → s.block? k.block = some b → s.contDue k b = true →
    s.vecUsed k.block k.core + maskCount k.mask * k.budget * 4 ≤ 32768 * partField b.task.partword 0 →
    (s.coreOf b.cluster k.core).fenced = false → (∀ p ∈ s.preempting, p.1 ≠ b.uid) →
    findHw (s.occupants b.cluster k.core) b.slot k.width = some h →
    Answers (exec (.continuationSpawn n) s) fun t =>
      (∃ g' ∈ t.groups, { g' with serial := false, slotLane := 0 } = k.group s.newId.1 h) ∧
      (∀ l, l < k.width → mHas k.mask l → ((k.group s.newId.1 h).lane l).pc = k.label) ∧
      t.conts = s.conts.eraseIdx n ∧ t.mem = s.mem

/-- BAR parks its lanes until every live lane of the block that is no helper waits at a BAR or has registered a
continuation and its bin block awaits no render, and then all go on and the continuations may spawn; an arrival at a phase barrier lowers PENDING, and the last one flips PHASE and reloads it; the bar wait ends when
PHASE differs from its bit (R248, R250, R251). -/
def Obligations.Barriers : Prop :=
  (∀ s g c, Issues .bar s g c → exec .bar s = .next (s.setGroup
    ((g.transfer c.exec fun _ => c.nextAt).modLanes c.exec fun _ x => { x with st := .bar }))) ∧
  (∀ (s : State) (b : Block), s.barrierReady b = true ↔ b.renders = 0 ∧
    (∀ g ∈ s.groups, g.block = b.uid → ∀ l, mHas (g.noHelpers g.live) l → (g.lane l).st = .bar) ∧
    ((∃ g ∈ s.groups, g.block = b.uid ∧ ∃ x ∈ g.lanes, x.st = .bar) ∨
      ∃ k ∈ s.conts, k.block = b.uid ∧ k.barrier = true ∧ k.resolved = false)) ∧
  (∀ (bu : Nat) s b, s.block? bu = some b → s.barrierReady b = true →
    Answers (exec (.barrierResolve bu) s) fun t => t.mem = s.mem ∧ t.block? bu = some { b with round := !b.round } ∧
      t.groups = (s.groups.map fun g => if g.block = bu then { g with
        lanes := g.lanes.map fun x => if x.st = .bar then { x with st := .runnable } else x } else g) ∧
      t.conts = s.conts.map fun k => if k.block = bu ∧ k.barrier = true then { k with resolved := true } else k) ∧
  (∀ (bu : Nat) s b, s.block? bu = some b → s.barrierReady b = false → exec (.barrierResolve bu) s = .next s) ∧
  (∀ (b : SReg) s g c w, Issues (.mbara b) s g c →
    s.locate g false (readS s g b.val).toNat 8 = .ok (g.block, (readS s g b.val).toNat) →
    s.emptyLines [{ addr := (readS s g b.val).toNat, n := 8, spad := some g.block }] = [] →
    s.phaseWord g (readS s g b.val).toNat = .ok w → w / 2 ^ 32 % 2 ^ 16 ≠ 0 → w % 2 ^ 16 ≠ 0 →
    exec (.mbara b) s = .next (s.spadStore g.block (readS s g b.val).toNat
      ((natLe 8 (arrive w)).map fun x => (x, false)))) ∧
  (∀ (w : BitVec 64), let phase := w.getLsbD 63
    let expect := w.extractLsb' 32 16
    let pending := w.extractLsb' 0 16
    expect ≠ 0 → pending ≠ 0 →
    let v := BitVec.ofNat 64 (arrive w.toNat)
    v.extractLsb' 32 16 = expect ∧ v.extractLsb' 16 16 = w.extractLsb' 16 16 ∧
      v.getLsbD 63 = (if pending = 1 then !phase else phase) ∧
      v.extractLsb' 0 16 = (if pending = 1 then expect else pending - 1)) ∧
  (∀ (b p : SReg) s g c w, Issues (.mbarw b p) s g c →
    s.locate g false (readS s g b.val).toNat 8 = .ok (g.block, (readS s g b.val).toNat) →
    s.emptyLines [{ addr := (readS s g b.val).toNat, n := 8, spad := some g.block }] = [] →
    s.phaseWord g (readS s g b.val).toNat = .ok w →
    exec (.mbarw b p) s = .next (if w.testBit 63 = (readS s g p.val).getLsbD 0 then
      s.setGroup (g.parkNext c c.exec (.phase (readS s g b.val).toNat ((readS s g p.val).getLsbD 0))) else s)) ∧
  (∀ (s : State) (g : Group) (x : Lane), s.phaseDone g x = true ↔
    ∃ off bit w, x.st = .parked (.phase off bit) ∧ s.phaseWord g off = .ok w ∧ w.testBit 63 ≠ bit) ∧
  (∀ (s : State) (g : Group) (off : Nat) (b : Block) o, s.locate g false off 8 = .ok (b.uid, o) →
    s.block? b.uid = some b →
    (∀ i, i < 8 → s.inSerai b.uid (o + i) = false ∧ b.spadPoison.contains (o + i) = false) →
    s.phaseWord g off = .ok (leNat (Memory.reads b.spad o 8))) ∧
  ∀ (u : Nat) s g, s.group? u = some g →
    Answers (exec (.phaseBarrierWake u) s) fun t => OnlyGroup s t u ∧ After t u fun g' =>
      g'.lanes = g.lanes.map fun x => if s.phaseDone g x then { x with st := .runnable } else x

/-- XALL registers its party, with the transfer's arguments, and owes its status, or has status 0 and no effect
in a replay; the flits of the other parties are noted; the transfer begins when all have come, waits while a
slice is missing, and ends with status 0, 1 for differing lists or sizes, 2 when a party is lost, its group
resident or saved; a lost peer is remembered; CFLUSH writes back the dirty lines of its range and releases the
pinned ones (R254, R255, R256, R257, R258, R325, R418). Where the spec leaves a choice the model takes that of
log entry 108. -/
def Obligations.Collectives : Prop :=
  (∀ (d a : SReg) s g c b, Issues (.xall d a) s g c → g.replay = false →
    let src := readS64 s g a.val
    let dst := readS64 s g (a.val + 2)
    let n := (readS s g (a.val + 4)).toNat
    let coll := (readS s g (a.val + 5)).toNat
    src.toNat % 256 = 0 → dst.toNat % 256 = 0 → n % 256 = 0 → n ≠ 0 → n ≤ 2 ^ 26 → coll < 64 →
    readS s g (a.val + 7) = 0 → canonical src = true → canonical dst = true →
    s.loadRecord (s.who g) ((s.ctxOf g).ccb.collTab.toNat + 160 * coll) 160 = .ok b →
    collBad s.podId b = false →
    Answers (exec (.xall d a) s) fun t => ∃ x : Xall, t.xalls = s.xalls ++ [x] ∧ x.src = src ∧ x.dest = dst ∧
      x.bytes = n ∧ x.coll = coll ∧ x.seq = readS s g (a.val + 6) ∧ x.begun = false ∧ x.group = g.uid ∧
      x.dst = g.sbase + d.val ∧ x.ids = ((b.drop 16).take (fieldOf b 0 1)).map (fun y => y.toNat) ∧
      x.rank = fieldOf b 1 1 ∧ x.slices = [] ∧ t.mem = s.mem) ∧
  (∀ (d a : SReg) s g c, Issues (.xall d a) s g c → g.replay = true →
    exec (.xall d a) s = .next (s.setGroup (g.queueS c.tied d.val [0]))) ∧
  (∀ (m : XallFlit) s, (∀ x ∈ s.xalls, x.coll = m.coll → x.seq = m.seq → x.begun = true) →
    exec (.xallRegistration m) s = .next { s with flits := s.flits ++ [m] }) ∧
  (∀ (m : XallFlit) s x, x ∈ s.xalls → x.coll = m.coll → x.seq = m.seq → x.begun = false →
    exec (.xallRegistration m) s = .next { s with xalls := s.xalls.map fun y =>
      if y.coll = m.coll ∧ y.seq = m.seq ∧ !y.begun then { y with seen := y.seen ++ [(m.party, m.ids, m.bytes.toNat)] }
      else y }) ∧
  (∀ (n : Nat) s x, s.xalls[n]? = some x → x.begun = false →
    (∀ j id, x.ids[j]? = some id → j = x.rank ∨ ∃ y ∈ x.seen, y.1 = id) →
    Answers (exec (.xallStart n) s) fun t => t.xalls[n]? = some { x with
      begun := true, mismatch := x.seen.any fun y => decide (y.2.1 ≠ x.ids) || decide (y.2.2 ≠ x.bytes) } ∧
      { t with xalls := [] } = { s with xalls := [] }) ∧
  (∀ (n : Nat) got s x, s.xalls[n]? = some x → x.begun = true → x.mismatch = true →
    exec (.xallComplete n got) s = .next (s.endXall n x 1)) ∧
  (∀ (n : Nat) got s x, s.xalls[n]? = some x → x.begun = true → x.record = none → x.mismatch = false →
    let x' : Xall := { x with slices := got ++ x.slices }
    let s' : State := { s with xalls := s.xalls.modify n fun _ => x' }
    let w : Who := { cl := x.cluster, slot := x.slot }
    let k := x.ids.length * x.bytes
    ∀ m, (s'.forXall x').loadRecord w x.src.toNat k = .ok m →
      let slice (j : Nat) : Option (List Byte) := s'.sliceOf x' ((m.drop (x.rank * x.bytes)).take x.bytes) j
      (∀ slices ps, (List.range x.ids.length).mapM slice = some slices →
        (s'.forXall x').storeRun w (k + 1) x.dest.toNat (slices.flatten.map fun b => (b, false)) = .ok ps →
        exec (.xallComplete n got) s = .next ((s'.landXall w x' ps).endXall n x'
          (if x.ids.zipIdx.any fun (id, j) => j != x.rank && s.lost.contains id then 2 else 0))) ∧
      ∀ j, j < x.ids.length → slice j = none → exec (.xallComplete n got) s = .next s') ∧
  (∀ (s : State) (x : Xall) (w : Who) (ps : List Put),
    (x.root = none → s.forXall x = s ∧
      s.landXall w x ps = (s.touchRun w x.src.toNat (x.ids.length * x.bytes)).perform w ps) ∧
    ∀ r, x.root = some r → ((s.forXall x).ctx x.slot).ccb.ptroot = r ∧ (s.forXall x).mem = s.mem ∧
      (s.landXall w x ps).mem = (s.putAll ps ps []).mem) ∧
  (∀ (s : State) (x : Xall) (own : List Byte) (j : Nat), s.sliceOf x own x.rank = some own ∧
    (∀ bs, j ≠ x.rank → (x.slices.find? fun e => e.1 == j) = some (j, bs) → bs.length = x.bytes →
      s.sliceOf x own j = some bs) ∧
    ((x.slices.find? fun e => e.1 == j) = none → j ≠ x.rank → (x.ids.getD j 255) ∉ s.lost → s.sliceOf x own j = none)) ∧
  (∀ (s : State) (n : Nat) (x : Xall) (status : Word), (s.endXall n x status).xalls = s.xalls.eraseIdx n ∧
    (s.endXall n x status).mem = s.mem ∧ (∀ g, s.group? x.group = some g →
      (s.endXall n x status).group? x.group = some (g.paySlot x.flag x.dst status)) ∧
    ∀ g, g ∈ (s.endXall n x status).groups → g.uid ≠ x.group → g ∈ s.groups) ∧
  (∀ (p : Fin 144) s, Answers (exec (.peerLost p) s) fun t => (∀ q, q ∈ t.lost ↔ q = p.val ∨ q ∈ s.lost) ∧
    { t with lost := [] } = { s with lost := [] }) ∧
  ∀ (a b : SReg) s g c, Issues (.cflush a b) s g c → (readS s g b.val).toNat ≤ 2 ^ 30 →
    let ga := (readS64 s g a.val).toNat
    let n := (readS s g b.val).toNat
    canonical (readS64 s g a.val) = true →
    (∀ l ∈ lanesOf c.exec, s.blocked g (.cflush a b) l [{ addr := ga, n := n, spad := none }] = false) →
    Answers (exec (.cflush a b) s) fun t => t.mem = s.mem ∧ t.ctxs = s.ctxs ∧ t.blocks = s.blocks ∧
      (t.groups = s.groups ∨ t.groups = s.groups.map fun x => { x with lanes := x.lanes.map called }) ∧
      (∀ f ∈ t.fills, f ∈ s.fills) ∧
      ∀ u leaf, n ≠ 0 → u ∈ unitsOf ga n → s.lookup (s.who g) (u * 65536) = .leaf leaf → leaf.owner = 255 →
        ∀ k, k < 512 → ga / 128 ≤ u * 512 + k → u * 512 + k ≤ (ga + n - 1) / 128 →
          let line := (leaf.base + u * 65536 % 2 ^ leaf.log2) / 128 + k
          (∀ f ∈ t.fills, f.line ≠ line) ∧ ∀ e ∈ t.clusters, ∀ p ∈ e.2.pins, p.2.1 ≠ line

/-! ### Matrices and hypervectors -/

namespace Sys2Proof.Claims

/-- The operand regions of an MMA lie on 128-byte lines inside the block's scratchpad (R264). -/
def regionsGood (s : State) (g : Group) (t : MatTy) (h : MatShape) (a b : SReg) : Prop :=
  s.badRegion g (readS s g a.val).toNat (matRows h * matPitch t h) = false ∧
  s.badRegion g (readS s g b.val).toNat (matRows h * matPitch t h) = false

/-- The state in which the engine has taken an instruction that names a tile which none holds in use. -/
def engaged (s : State) (g : Group) (c : Clause) (i : Instr) (reset : Bool) : State :=
  { s.use g c i reset with engines := s.engines ++ [s.engineOf g c i] }

/-- No lane's access to a run of global memory has an earlier faulted one to wait for (R373). -/
def runFree (s : State) (g : Group) (c : Clause) (i : Instr) (a n : Nat) : Prop :=
  ∀ l ∈ lanesOf c.exec, s.blocked g i l [{ addr := a, n := n, spad := none }] = false

end Sys2Proof.Claims

/-- The matrix instructions: what each hands to its engine, MZERO's zero tile and MSTAT's status word; an engine run
that ends leaves the engine free. MMA applies its shape to the two regions' rows and its tile, one iteration of an
MLOOP is such a step with PROGRESS one higher; a row of 16- and 32-bit elements is the bytes of its scratchpad lines;
MLDZ loads the tile's 4,096 elements, and MSTZ and MQNT write their images (R263, R265 to R271). -/
def Sys2Proof.Claims.MatrixRuns : Prop :=
  (∀ t h z a b s g c, let i : Instr := .mma t h z a b
    Issues i s g c → regionsGood s g t h a b → exec i s = .next (s.startMatrix g c i true)) ∧
  (∀ t z a s g c, let i : Instr := .mldz t z a
    Issues i s g c → wellFormed (readS64 s g a.val) 128 →
    runFree s g c i (readS64 s g a.val).toNat (4096 * tileSize t) →
    exec i s = .next (s.startMatrix g c i true)) ∧
  (∀ t z a s g c, let i : Instr := .mstz t z a
    Issues i s g c → g.allHelpers c.exec = false → wellFormed (readS64 s g a.val) 128 →
    exec i s = .next (s.startMatrix g c i false)) ∧
  (∀ k z a s g c, let i : Instr := .mqnt k z a
    Issues i s g c → g.allHelpers c.exec = false → wellFormed (readS64 s g a.val) 128 →
    runFree s g c i (readS64 s g a.val).toNat 8192 → exec i s = .next (s.startMatrix g c i false)) ∧
  (∀ (s : State) g c i t (reset : Bool) s', g.usesOf (Instr.tile i) = [] →
    (engaged s g c i reset).group? g.uid = some t →
    (engaged s g c i reset).runMatrix t (s.engineOf g c i).src i 0 = .ok s' →
    s.startMatrix g c i reset = { s' with engines := s'.engines.filter fun x => x ≠ s.engineOf g c i }) ∧
  (∀ t h z a b (s : State) g src ra rb, s.group? g.uid = some g →
    s.matRegion (s.who g) t h (.spad g.block (readS s src a.val).toNat) (matRows h) = .ok ra →
    s.matRegion (s.who g) t h (.spad g.block (readS s src b.val).toNat) (matRows h) = .ok rb →
    g.tileBad z.val (matElems h) = false →
    ∃ s', s.runMatrix g src (.mma t h z a b) 0 = .ok s' ∧ OnlyGroup s s' g.uid ∧ After s' g.uid fun y =>
      tget [] y.z z.val = matApply t h ra rb (tget [] g.z z.val) ∧ ∀ k, k ≠ z.val → tget [] y.z k = tget [] g.z k) ∧
  (∀ (s : State) w t h r n rows, s.matRegion w t h r n = .ok rows → rows.length = n ∧
    ∀ k, k < n → ∃ e, s.matRow w t h r k = .ok e ∧ rows[k]? = some e) ∧
  (∀ (s : State) w (t : MatTy) h (b : Block) off k, s.block? b.uid = some b → t ≠ .bfp →
    let p := matPitch t h
    let at_ := off + k * p
    (∀ i ∈ linesMet at_ p, (b.line i).full = true) →
    (∀ i, i < p → s.inSerai b.uid (at_ + i) = false ∧ b.spadPoison.contains (at_ + i) = false) →
    let byte (i : Nat) : Nat := (Memory.read b.spad (at_ + i)).toNat
    s.matRow w t h (.spad b.uid off) k = .ok (match t with
      | .f16 => (List.range (p / 2)).map fun n => Fmt.f16.value (byte (2 * n) + 256 * byte (2 * n + 1))
      | .bf16 => (List.range (p / 2)).map fun n => Fmt.bf16.value (byte (2 * n) + 256 * byte (2 * n + 1))
      | _ => (List.range (p / 4)).map fun n => Fmt.f32.value (byte (4 * n) + 256 * byte (4 * n + 1) +
          65536 * byte (4 * n + 2) + 2 ^ 24 * byte (4 * n + 3)))) ∧
  (∀ t h z p s g c, let i : Instr := .mloop t h z p
    Issues i s g c → (loopArgs s g p).bad = false → g.usesOf z.val = [] →
    s.loopBreach g (loopArgs s g p).asp (loopArgs s g p).abase (loopArgs s g p).astep (loopArgs s g p).niter
      (matRows h * matPitch t h) = false →
    s.loopBreach g (loopArgs s g p).bsp (loopArgs s g p).bbase (loopArgs s g p).bstep (loopArgs s g p).niter
      (matRows h * matPitch t h) = false →
    exec i s = .next (engaged s g c i true)) ∧
  (∀ (u : Nat) (z : ZReg) s g e t h p s', s.group? u = some g → e ∈ s.engines → e.group = u → e.record = none →
    e.instr = .mloop t h z p → e.spoiled = false → (∀ x ∈ s.engines, x.group = u → x.record = none →
      (∃ t h p, x.instr = .mloop t h z p) → x = e) →
    s.matStep g t h z.val (loopRegion g.block (loopArgs s e.src p).asp (loopArgs s e.src p).abase
        (loopArgs s e.src p).astep e.done)
      (loopRegion g.block (loopArgs s e.src p).bsp (loopArgs s e.src p).bbase (loopArgs s e.src p).bstep e.done)
      e.done = .ok s' →
    Answers (exec (.mloopIteration u z) s) fun x => x.mem = s'.mem ∧
      (x.engines = (s'.engines.filter fun y => y ≠ e) ++
        if e.done + 1 < (loopArgs s e.src p).niter then [{ e with done := e.done + 1 }] else []) ∧
      After x u fun y => tget 0 y.progress z.val = e.done + 1 ∧ ∀ k, tget [] y.z k =
        tget [] ((s'.group? u).getD g).z k) ∧
  (∀ z s g c, Issues (.mzero z) s g c → g.usesOf z.val = [] →
    (∀ e ∈ s.engines, e.group = g.uid → Instr.tile? e.instr ≠ some z.val) →
    Answers (exec (.mzero z) s) fun t => OnlyGroup s t g.uid ∧
    After t g.uid fun g' => (∀ e, tget 0 (tget [] g'.z z.val) e = 0) ∧ (∀ es, g'.tileBad z.val es = false) ∧
      tget 0 g'.progress z.val = 0 ∧ ∀ k, k ≠ z.val → tget [] g'.z k = tget [] g.z k) ∧
  (∀ t z (s : State) g src (a : SReg) bs, s.group? g.uid = some g →
    s.loadRecord (s.who g) (readS64 s src a.val).toNat (4096 * tileSize t) = .ok bs →
    ∃ s', s.runMatrix g src (.mldz t z a) 0 = .ok s' ∧ s'.mem = s.mem ∧ After s' g.uid fun y =>
      (∀ e, e < 4096 → tget 0 (tget [] y.z z.val) e = tileLoad t bs e) ∧ (∀ es, y.tileBad z.val es = false) ∧
      ∀ k, k ≠ z.val → tget [] y.z k = tget [] g.z k) ∧
  (∀ t z (s : State) g src (a : SReg) s', src.tileBad z.val (List.range 4096) = false →
    s.writeImage (s.who g) .write (mstzImage (s.ovtOf src) t (src.tileElems z.val)
      (readS64 s src a.val).toNat) 0 = (s', none) → s.runMatrix g src (.mstz t z a) 0 = .ok s') ∧
  (∀ k z (s : State) g src (a : SReg) s', src.tileBad z.val (List.range 4096) = false →
    s.writeImage (s.who g) .brickWrite (mqntImage (s.ovtOf src) k (src.tileElems z.val)
      (readS64 s src a.val).toNat) 0 = (s', none) → s.runMatrix g src (.mqnt k z a) 0 = .ok s') ∧
  ∀ d z, GivesS (.mstat d z) d fun s g => BitVec.ofNat 32 (tget 0 g.progress z.val +
    (if s.engines.any fun e => e.group == g.uid && e.record.isSome && Instr.tile? e.instr == some z.val then 2 ^ 30
      else 0) +
    (if g.uses.any fun u => u.tile == z.val then 2 ^ 31 else 0))

/-- One step of a matrix shape: element (i, j) of its region becomes the sum of its old value and the K products of
row i of A and row j of B, exact and rounded once to nearest; four steps of the deep shape follow one another; no
other element changes (R101, R262, R265). -/
def Sys2Proof.Claims.MatrixElements : Prop :=
  ∀ (t : MatTy) (h : MatShape) (a b : List (List Machine.Num)) (z : Regs) (i j : Nat),
    let origin : Nat × Nat := match h with | .view n => (16 * (n.val / 4), 16 * (n.val % 4)) | _ => (0, 0)
    let K : Nat := match t with | .f16 | .bf16 => 16 | .f32 => 4 | .bfp => 248
    let step (k : Nat) (w : Word) (x y : List Machine.Num) : Word := BitVec.ofNat 32 (Fmt.f32.round .rn (Machine.Num.sum .rn
      (f32val w :: (List.range k).map fun n => Machine.Num.mul (x.getD n .nan) (y.getD n .nan))))
    let x := a.getD (i - origin.1) []
    let y := b.getD (j - origin.2) []
    let old := tget 0 z (64 * i + j)
    i < 64 → j < 64 →
    tget 0 (matApply t h a b z) (64 * i + j) =
      if origin.1 ≤ i ∧ i < origin.1 + matRows h ∧ origin.2 ≤ j ∧ j < origin.2 + matRows h then
        if h = .deep then step K (step K (step K (step K old x y) (x.drop K) (y.drop K))
          (x.drop (2 * K)) (y.drop (2 * K))) (x.drop (3 * K)) (y.drop (3 * K))
        else step K old x y
      else old

/-- The matrix instructions: what each hands to its engine, MZERO's zero tile and MSTAT's status word; an engine
run that ends leaves the engine free. MMA applies its shape to the two regions' rows and its tile, one iteration
of an MLOOP is such a step with PROGRESS one higher; a row of 16- and 32-bit elements is the bytes of its
scratchpad lines; MLDZ loads the tile's 4,096 elements, and MSTZ and MQNT write their images (R263, R265 to
R271). One step of a matrix shape: element (i, j) of its region becomes the sum of its old value and the K
products of row i of A and row j of B, exact and rounded once to nearest; four steps of the deep shape follow
one another; no other element changes (R101, R262, R265). -/
def Obligations.Matrices : Prop :=
  Sys2Proof.Claims.MatrixRuns ∧
    Sys2Proof.Claims.MatrixElements

/-- The hypervector instructions: HMOV, HBIND, HPERM, HTIE and HBIT, the saturating counters of HBUND and their signs
in HTHR, HCLRC, the distances of HHAM and HNEAR, and the kibibyte that HLD and HST move (R272, R273). -/
def Obligations.Hypervectors : Prop :=
  (∀ d a b c n v e,
    GivesGroup (.hmov d a) (fun s g _ => g.writeH d.val (readH s g a.val)) ∧
    GivesGroup (.hbind d a b) (fun s g _ => g.writeH d.val (readH s g a.val ^^^ readH s g b.val)) ∧
    GivesGroup (.hperm d a n)
      (fun s g _ => g.writeH d.val ((readH s g a.val).rotateLeft ((readS s g n.val).toNat % 8192))) ∧
    GivesGroup (.htie a) (fun s g _ => { g with htie := readH s g a.val }) ∧
    GivesGroup (.hclrc c) (fun _ g _ => { g with c := tset 0 g.c c.val 0 }) ∧
    GivesGroup (.hham e a b) (fun s g k =>
      g.queueS k.tied e.val [BitVec.ofNat 32 (popNat 8192 (readH s g a.val ^^^ readH s g b.val).toNat)]) ∧
    (∀ s g k, Issues (.hbit d n v) s g k → Answers (exec (.hbit d n v) s) fun t => OnlyGroup s t g.uid ∧
      After t g.uid fun g' => ∀ i, i < 8192 → (tget 0 g'.h d.val).getLsbD i =
        if i = (readS s g n.val).toNat % 8192 then (readS s g v.val).getLsbD 0 else (readH s g d.val).getLsbD i)) ∧
  (∀ (c : CReg) (a : HReg) s g k, Issues (.hbund c a) s g k → Answers (exec (.hbund c a) s) fun t =>
    OnlyGroup s t g.uid ∧ After t g.uid fun g' => ∀ i, i < 8192 →
      let x := ((tget 0 g.c c.val).extractLsb' (8 * i) 8).toInt
      ((tget 0 g'.c c.val).extractLsb' (8 * i) 8).toInt =
        clampInt (x + if (readH s g a.val).getLsbD i then 1 else -1) (-127) 127) ∧
  (∀ (d : HReg) (c : CReg) s g k, Issues (.hthr d c) s g k → Answers (exec (.hthr d c) s) fun t =>
    OnlyGroup s t g.uid ∧ After t g.uid fun g' => ∀ i, i < 8192 →
      let x := ((tget 0 g.c c.val).extractLsb' (8 * i) 8).toInt
      (tget 0 g'.h d.val).getLsbD i = if 0 < x then true else if x < 0 then false else g.htie.getLsbD i) ∧
  (∀ (d : SReg) (a b : HReg) (n : SReg) s g c, Issues (.hnear d a b n) s g c →
    let k := (readS s g n.val).toNat
    let count := ((s.blockOf g).map (·.task.hcount)).getD 0
    let h (j : Nat) : Nat := popNat 8192 (readH s g a.val ^^^ readH s g (b.val + j)).toNat
    1 ≤ k → k ≤ 8 → b.val + k - 1 < count → (∀ j, j < k → g.hBad (b.val + j) = false) →
    ∃ j, j < k ∧ (∀ i, i < k → h j ≤ h i) ∧ (∀ i, i < j → h j < h i) ∧
      exec (.hnear d a b n) s = .next (s.setGroup
        (g.queueS c.tied d.val [BitVec.ofNat 32 j, BitVec.ofNat 32 (h j)]))) ∧
  (∀ (d : HReg) (b : SReg) (o : BitVec 7) s g c bs, Issues (.hld d b o) s g c →
    let a := readS64 s g b.val + BitVec.ofInt 64 (64 * o.toInt)
    wellFormed a 64 → s.hyperHeld g c (.hld d b o) a = false → s.loadRecord (s.who g) a.toNat 1024 = .ok bs →
    exec (.hld d b o) s = .next ((s.setGroup (g.queueH c.tied d.val (BitVec.ofNat 8192 (leNat bs)))).touchRun
      (s.who g) a.toNat 1024)) ∧
  ∀ (r : HReg) (b : SReg) (o : BitVec 7) s g c ps, Issues (.hst r b o) s g c → g.allHelpers c.exec = false →
    let a := readS64 s g b.val + BitVec.ofInt 64 (64 * o.toInt)
    wellFormed a 64 → s.hyperHeld g c (.hst r b o) a = false → s.storeRun (s.who g) 1025 a.toNat
      ((natLe 1024 (readH s g r.val).toNat).map fun x => (x, false)) = .ok ps →
    exec (.hst r b o) s = .next (s.perform (s.who g) ps)

/-! ### Generators and re-packing -/

/-- GOPEN opens the group's generator in producer mode with its serai's place and capacity, its threshold (0: the
width) and its label; an open one traps GENNEST, and bad arguments GENARG (R38, R144, R275). -/
def Sys2Proof.Claims.GeneratorOpens : Prop :=
  ∀ (p : SReg) (t : Fin 65) (o : Word),
    let opens (i : Instr) (n : Nat) : Prop := ∀ s g c, Issues i s g c →
      let off := (readS s g p.val).toNat
      let cap := (readS s g (p.val + 1)).toNat
      let thr := if t.val = 0 then g.width else t.val
      (g.gen ≠ none → exec i s = .next (s.trap g c i .gennest)) ∧
      (g.gen = none → cap = 0 ∨ 4096 < cap ∨ cap < thr ∨ g.width < thr ∨ off % 16 ≠ 0 ∨
          (∃ b, s.blockOf g = some b ∧ b.spadSize < off + 4 * n * cap) ∨
          (∃ l ∈ lanesOf g.live, g.budget < (g.lane l).vbase + 256) →
        exec i s = .next (s.trap g c i .genarg)) ∧
      (g.gen = none → 0 < cap → cap ≤ 4096 → thr ≤ cap → thr ≤ g.width → off % 16 = 0 →
        (∃ b, s.blockOf g = some b ∧ off + 4 * n * cap ≤ b.spadSize) →
        (∀ l ∈ lanesOf g.live, (g.lane l).vbase + 256 ≤ g.budget) →
        s.badTarget { s.who g with replay := none } (c.target o) none = none →
        Answers (exec i s) fun t' => OnlyGroup s t' g.uid ∧ After t' g.uid fun g' =>
          (∃ x, g'.gen = some x ∧ x.offset = off ∧ x.cap = cap ∧ x.words = n ∧ x.thr = thr ∧ x.label = c.target o ∧
            x.mode = .producer ∧ x.entries = []) ∧
          ∀ l ∈ lanesOf g.live, (g'.lane l).consBase = (g.lane l).vbase + 128 ∧ (g'.lane l).gdone = false)
    opens (.gopenW1 p t o) 1 ∧ opens (.gopenW2 p t o) 2 ∧ opens (.gopenW3 p t o) 3 ∧ opens (.gopenW4 p t o) 4

/-- GYIELD appends its lanes' words in ascending order while the serai has space, a lane without space waiting with
its yield pending; GTAKE gives each lane its entry of the batch; GBACK and GDONE wait; GCLOSE ends the generator;
each traps GENMODE in the other mode and with no open generator, GCLOSE also while entries are left, but that a GYIELD
of helper lanes alone has no effect (R18, R39, R40, R41, R42, R276). -/
def Sys2Proof.Claims.GeneratorPasses : Prop :=
  (∀ (a : VReg) s g c x, Issues (.gyield a) s g c → g.gen = some x → x.mode = .producer → a.val + x.words ≤ 120 →
    x.entries.length ≤ x.cap → (∀ l ∈ lanesOf c.exec, l < g.lanes.length) →
    let ls := lanesOf (g.noHelpers c.exec)
    let ws (l : Nat) : List Word := (List.range x.words).map fun k => readV s g l (a.val + k)
    Answers (exec (.gyield a) s) fun t => OnlyGroup s t g.uid ∧ After t g.uid fun g' =>
      g'.gen = some { x with entries := (x.entries ++ ls.map ws).take x.cap } ∧
      (∀ l ∈ ls.drop (x.cap - x.entries.length), (g'.lane l).st = .pendingYield (ws l)) ∧
      (∀ l ∈ ls.take (x.cap - x.entries.length), (g'.lane l).st = (g.lane l).st) ∧
      ∀ l ∈ lanesOf c.exec, (g'.lane l).pc = c.nextAt) ∧
  (∀ (d : VReg) s g c x, Issues (.gtake d) s g c → g.gen = some x → x.mode = .consumer → d.val + x.words ≤ 120 →
    g.replay = false →
    exec (.gtake d) s = .next (s.setGroup { (lanesOf c.exec).foldl (fun g' l => match (g.lane l).entry with
      | some j => g'.writeVs l d.val
          ((if x.taken then x.batch else x.entries.take x.batchN).getD j [])
      | none => g') g with gen := some (if x.taken then x else { x with
        batch := x.entries.take x.batchN, entries := x.entries.drop x.batchN, head := x.head + x.batchN
        taken := true }) })) ∧
  (∀ s g c x, Issues .gback s g c → g.gen = some x → x.mode = .consumer → exec .gback s = .next (s.setGroup
    ((g.transfer c.exec fun _ => c.nextAt).modLanes c.exec fun _ y => { y with st := .passDone }))) ∧
  (∀ s g c x, Issues .gdone s g c → g.gen = some x → x.mode = .producer → exec .gdone s = .next (s.setGroup
    ((g.transfer c.exec fun _ => c.nextAt).modLanes c.exec fun _ y => { y with st := .gdone, gdone := true }))) ∧
  (∀ s g c x, Issues .gclose s g c → g.gen = some x → x.mode = .producer → x.entries = [] →
    Answers (exec .gclose s) fun t => OnlyGroup s t g.uid ∧ After t g.uid fun g' => g'.gen = none ∧
      ∀ y ∈ g'.lanes, y.gdone = false ∧ y.st ≠ .gdone) ∧
  (∀ (a d : VReg) s g c, (Issues (.gyield a) s g c → g.allHelpers c.exec = false →
      (∀ x, g.gen = some x → x.mode = .consumer) →
      exec (.gyield a) s = .next (s.trap g c (.gyield a) .genmode)) ∧
    (Issues (.gyield a) s g c → g.allHelpers c.exec = true →
      exec (.gyield a) s = .next (s.setGroup (g.transfer c.exec fun _ => c.nextAt))) ∧
    (Issues (.gtake d) s g c → (∀ x, g.gen = some x → x.mode = .producer) →
      exec (.gtake d) s = .next (s.trap g c (.gtake d) .genmode)) ∧
    (Issues .gback s g c → (∀ x, g.gen = some x → x.mode = .producer) →
      exec .gback s = .next (s.trap g c .gback .genmode)) ∧
    (Issues .gdone s g c → (∀ x, g.gen = some x → x.mode = .consumer) →
      exec .gdone s = .next (s.trap g c .gdone .genmode)) ∧
    (Issues .gclose s g c → (∀ x, g.gen = some x → x.mode = .consumer ∨ x.entries ≠ []) →
      exec .gclose s = .next (s.trap g c .gclose .genmode))) ∧
  ∀ (g : Group) (x : Generator), g.gen = some x → x.mode = .producer → x.thr ≤ x.entries.length → 0 < x.thr →
    let live := lanesOf g.live
    (∃ y, g.settleGen.gen = some y ∧ y.mode = .consumer ∧ y.batchN = min x.entries.length live.length ∧
      y.entries = x.entries) ∧
    ∀ j l, live[j]? = some l →
      (g.settleGen.lane l).pc = x.label ∧ (g.settleGen.lane l).vbase = (g.lane l).consBase ∧
      (g.settleGen.lane l).prodPc = (g.lane l).pc ∧
      (j < x.entries.length → (g.settleGen.lane l).st = .runnable ∧ (g.settleGen.lane l).entry = some j) ∧
      (x.entries.length ≤ j → (g.settleGen.lane l).st = .passDone)

/-- GOPEN opens the group's generator in producer mode with its serai's place and capacity, its threshold (0:
the width) and its label; an open one traps GENNEST, and bad arguments GENARG (R38, R144, R275). GYIELD appends
its lanes' words in ascending order while the serai has space, a lane without space waiting with its yield
pending; GTAKE gives each lane its entry of the batch; GBACK and GDONE wait; GCLOSE ends the generator; each
traps GENMODE in the other mode and with no open generator, GCLOSE also while entries are left, but that a
GYIELD of helper lanes alone has no effect (R18, R39, R40, R41, R42, R276). Where the spec leaves a choice the
model takes that of log entries 79, 87 and 136. -/
def Obligations.Generators : Prop :=
  Sys2Proof.Claims.GeneratorOpens ∧
    Sys2Proof.Claims.GeneratorPasses

/-- REPACK parks its lanes with the low 16 bits of their keys, and in a replay sets condition 6; once every live
lane of the core's groups of the block waits at one REPACK, the lanes are sorted stably by key and fill the
groups from the lowest GID, and a group left without lanes retires, deferred work of a lane's going with it;
with roles that differ it traps in every participant, in one for which the fault buffer has no room once it has
(R44, R45, R325, R338, R367). Where the spec leaves a choice the model takes that of log entry 125. -/
def Obligations.RepackSorts : Prop :=
  (∀ (k : VReg) s g c, Issues (.repack k) s g c → g.gen = none →
    exec (.repack k) s = .next ((if g.replay then s.condition g 6 else s).setGroup
      ((g.transfer c.exec fun _ => c.nextAt).modLanes c.exec fun l x =>
        { x with st := .repack ((readV s g l k.val).toNat % 65536) c.word c.header }))) ∧
  (∀ (k : VReg) s g c, Issues (.repack k) s g c → g.gen ≠ none →
    exec (.repack k) s = .next (s.trap g c (.repack k) .repackgen)) ∧
  (∀ (b : Nat) (c : Fin 32) (site : DWord) s,
    let ps := byGid (s.groups.filter fun g => g.block == b && g.core == c.val)
    ps ≠ [] → (∀ g ∈ ps, g.roleTrap = false) → (∀ g ∈ ps, g.joinedRepack site = true) →
    ((∀ g ∈ ps, ∀ h ∈ ps, g.role = h.role) → let placed := placeSurvivors ps (survivors ps) ps
      exec (.repackComplete b c) s = .next (placed.foldl (fun s e =>
        if e.2 ≠ [] then (s.setGroup e.1).followItem b e else (s.dropGroup e.1).finishBlock e.1.block)
          (s.moveLateOps placed))) ∧
    ((∃ g ∈ ps, ∃ h ∈ ps, g.role ≠ h.role) → exec (.repackComplete b c) s = .next (s.trapRoles ps))) ∧
  (∀ (s : State) (g : Group) (ps : List Group),
    (s.repackRole g = none → s.trapRoles (g :: ps) =
      (s.modGroup g.uid fun x => { x with roleTrap := true }).trapRoles ps) ∧
    (∀ t, s.repackRole g = some t → s.trapRoles (g :: ps) =
      (if g.roleTrap then t.modGroup g.uid fun x => { x with roleTrap := false } else t).trapRoles ps) ∧
    s.trapRoles [] = s ∧
    (s.handlerOf g .repackrole = 0 → 256 ≤ s.buffered (s.clusterOf g) →
      (g.lane (maskLowest g.live)).repackAt.isSome = true → s.repackRole g = none)) ∧
  (∀ (b : Nat) (c : Fin 32) s, let ps := byGid (s.groups.filter fun g => g.block == b && g.core == c.val)
    ((∃ g ∈ ps, g.roleTrap = true) →
      exec (.repackComplete b c) s = .next (s.trapRoles (ps.filter fun g => g.roleTrap))) ∧
    ((∀ g ∈ ps, g.roleTrap = false) → (∀ site, ∃ g ∈ ps, g.joinedRepack site = false) →
      exec (.repackComplete b c) s = .next s)) ∧
  (∀ gs : List Group, ∃ xs : List (Survivor × Nat),
    xs.Perm (gs.flatMap fun g => g.lanes.zipIdx.filterMap fun x => x.1.repackKey.map fun k =>
      ({ uid := g.uid, from_ := x.2, key := k, lane := { x.1 with st := .runnable } } : Survivor)).zipIdx ∧
    xs.Pairwise (fun a b => a.1.key < b.1.key ∨ (a.1.key = b.1.key ∧ a.2 < b.2)) ∧
    survivors gs = xs.map fun x => x.1) ∧
  ∀ (all : List Group) (xs : List Survivor) (gs : List Group) (w : Nat), (∀ g ∈ gs, g.width = w) →
    ∀ i e, (placeSurvivors all xs gs)[i]? = some e →
      e.2 = (xs.drop (w * i)).take w ∧ (e.2.map fun x => x.lane).isPrefixOf e.1.lanes = true ∧
      e.1.lanes.length = w ∧ e.1.k = List.replicate 8 e.1.live ∧ ∃ g, gs[i]? = some g ∧ e.1.gid = g.gid

/-! ### Traversal -/

/-- TRAVB opens each lane's walk on its ray and descriptor, watched but in a replay; TRAVS runs each walk until
it ends or returns a candidate, and issues again while a walk has far to go; a round skips a pruned reference,
else fetches its node before it asks for its kind: a fault is the lane's, and kind none ends the walk with
FORMAT; TRAVC commits a candidate whose t lies between tmin and tmax; TRAVE closes the walks. A closed walk
delivers DONE or HIT words, and a lane without a walk says so; the stack holds at most 64 references (R281,
R282, R283). Where the spec leaves a choice the model takes that of log entries 31 and 76. -/
def Obligations.Traversal : Prop :=
  (∀ (r : VReg) (d : SReg), GivesGroup (.travb r d) fun s g c => eachLane g c fun g' l => g'.modLane l fun y =>
    { y with walk := some {
      ray := (List.range 8).map fun k => readV s g l (r.val + k), descAt := readS64 s g d.val, desc := none
      stack := [], tmax := readV s g l (r.val + 7), hit := none, cand := none
      name := rayName (g.lane l).lin (g.lane l).linset
      watch := if g.replay then []
        else s.matchesOf (s.slotOf g) (rayName (g.lane l).lin (g.lane l).linset) (g.lane l).watch } }) ∧
  (∀ (d : VReg) s g c, Issues (.travs d) s g c → s.travLong g c.exec = [] → LanesReady s g c (.travs d) travOp →
    exec (.travs d) s = .next (performed s g c (.travs d) travOp)) ∧
  (∀ (d : VReg) s g c, Issues (.travs d) s g c → s.travLong g c.exec ≠ [] →
    Answers (exec (.travs d) s) fun t => OnlyGroup s t g.uid) ∧
  (∀ (t : VReg) s g c, Issues (.travc t) s g c → exec (.travc t) s =
    .next ((lanesOf c.exec).foldl (fun s' l => s'.travCommit g l (readV s g l t.val)) s)) ∧
  (∀ (s : State) g l t w, (g.lane l).walk = some w →
    (w.cand = none ∨ (∃ r d z, w.cand = some (.dist r d z)) → s.travCommit g l t = s) ∧
    (f32cond .le w.tmin t = false ∨ f32cond .le t w.tmax = false → s.travCommit g l t = s) ∧
    ∀ t0 u v id, w.cand = some (.tri t0 u v id) → f32cond .le w.tmin t = true → f32cond .le t w.tmax = true →
      (∀ d, w.desc = some d → d.flags.getLsbD 0 = false) →
      s.travCommit g l t = s.modGroup g.uid fun y => y.modLane l fun x =>
        { x with walk := some { w with tmax := t, hit := some (t, u, v, id), cand := none } }) ∧
  (∀ s g c, Issues .trave s g c → exec .trave s = .next ((lanesOf c.exec).foldl (fun s' l => match (g.lane l).walk with
    | none => s'
    | some w => (s'.closeWalk g w 0).state.modGroup g.uid fun y => y.modLane l fun x => { x with walk := none }) s)) ∧
  (∀ (s : State) g (w : Walk) (k : Nat),
    (s.closeWalk g w k).walk = none ∧
    (s.closeWalk g w k).words = match w.hit with
      | some (t, u, v, id) => if k = 0 then [16, id, t, u, v] else [BitVec.ofNat 32 k, 0, 0, 0, 0]
      | none => [BitVec.ofNat 32 k, 0, 0, 0, 0]) ∧
  (∀ (s : State) g l, (g.lane l).walk = none → travOp.run s g l =
    .ok { state := s.modGroup g.uid fun y => y.modLane l fun x => { x with walk := none }, words := [32, 0, 0, 0, 0] }) ∧
  (∀ (s : State) g l d (w : Walk) ref key rest, w.stack = (ref, key) :: rest →
    let w' : Walk := { w with stack := rest }
    let kind := d.kind ref
    let load := s.travLoad g l (d.node ref) (if kind = 1 ∨ kind = 2 then 2 else 1)
    (∀ k, key = some k → f32cond .gt k w.tmax = true → (s.travNext g l d w).2 = .ok (.inr w')) ∧
    ((∀ k, key = some k → f32cond .gt k w.tmax = false) →
      (∀ f, load = .error f → (s.travNext g l d w).2 = .error f) ∧
      ∀ m, load = .ok m → mbBad m = false → (kind = 0 ∨ 5 < kind →
          (s.travNext g l d w).2 = .ok (.inl (s.closeWalk g w' 6))) ∧
        (1 ≤ kind → kind ≤ 5 → (s.travNext g l d w).2 = .ok (s.visit g w' d ref kind (m.map fun x => x.1))))) ∧
  (∀ (s : State) g l d (w : Walk), w.stack = [] → (s.travNext g l d w).2 = .ok (.inl (s.closeWalk g w 0))) ∧
  ∀ (w : Walk) (ps : List (Word × Option Word)), w.stack.length ≤ 64 →
    (w.pushAll ps).2.stack.length ≤ 64 ∧ ((w.pushAll ps).1 = true ↔ w.stack.length + ps.length ≤ 64) ∧
    ((w.pushAll ps).1 = true → (w.pushAll ps).2.stack = ps.reverse ++ w.stack)

/-! ### Graphics and work graphs -/

/-- DRAW takes the context's draw number and hands the draw to the pipeline, or traps PIPEARG on a bad state
block or a kernel that cannot be placed; VXEMIT and PRIMEMIT fill the vertex block's batch; PXOUT, DEPW and
DISCARD act on the lanes' fragments; WREC sends each lane's record to its node's store; LINSET sets the lanes'
lineage bits (R285, R286, R287, R303, R304, R314). That a DRAW in a replay has no effect whatever its operands
is read from R325 (log entry 75); that a WREC whose node register has a bit of [31:16] set still goes to NODE
and PORT is the model's choice (log entry 131). Where the spec leaves a choice the model takes that of log
entries 75, 131, 138 and 139. -/
def Obligations.GraphicsWords : Prop :=
  (∀ (d a n : SReg) s g c sb, Issues (.draw d a n) s g c → g.replay = false → g.allHelpers c.exec = false →
    wellFormed (readS64 s g a.val) 256 → s.loadRecord (s.who g) (readS64 s g a.val).toNat 256 = .ok sb →
    sbBad sb = false →
    drawUnplaceable (s.slotOf g) sb (readS s g n.val).toNat (s.prioOf g) = false →
    exec (.draw d a n) s = .next ((s.startDraw g c (readS64 s g a.val) sb (readS s g n.val).toNat).2.modGroup g.uid
      fun y => y.writeS d.val (BitVec.ofNat 32
        (s.startDraw g c (readS64 s g a.val) sb (readS s g n.val).toNat).1))) ∧
  (∀ (d a n : SReg) s g c sb, Issues (.draw d a n) s g c → g.replay = false → g.allHelpers c.exec = false →
    wellFormed (readS64 s g a.val) 256 → s.loadRecord (s.who g) (readS64 s g a.val).toNat 256 = .ok sb →
    (sbBad sb = true ∨ drawUnplaceable (s.slotOf g) sb (readS s g n.val).toNat (s.prioOf g) = true) →
    exec (.draw d a n) s = .next (s.trap g c (.draw d a n) .pipearg)) ∧
  (∀ (s : State) g c sa sb n, let ccb := (s.ctx (s.slotOf g)).ccb
    (s.startDraw g c sa sb n).1 =
      if ccb.lastFrame.toNat = nameFrame (g.lane (maskLowest (g.noHelpers c.exec))).lin then ccb.drawCtr.toNat else 0) ∧
  (∀ (d a n : SReg) s g c, Issues (.draw d a n) s g c → g.replay = true → exec (.draw d a n) s = .next s) ∧
  (∀ (v a : VReg) s g c b d, Issues (.vxemit v a) s g c → g.noHelpers c.exec ≠ 0 → s.vertexDraw g = some (b, d) →
    a.val + sbNat d.sb 41 1 ≤ 120 → (∀ l ∈ lanesOf (g.noHelpers c.exec), (readV s g l v.val).toNat ≤ 255) →
    spanPoison g (g.noHelpers c.exec) a.val (sbNat d.sb 41 1) = 0 →
    let row (l : Nat) : List Word := (List.range (sbNat d.sb 41 1)).map fun k => readV s g l (a.val + k)
    exec (.vxemit v a) s = .next (s.modBlock b.uid fun b => (lanesOf (g.noHelpers c.exec)).foldl
      (fun (b : Block) l => { b with verts := tput b.verts (readV s g l v.val).toNat (row l) }) b)) ∧
  (∀ (v p : VReg) s g c b d, Issues (.primemit v p) s g c → g.noHelpers c.exec ≠ 0 → s.vertexDraw g = some (b, d) →
    (∀ l ∈ lanesOf (g.noHelpers c.exec), (readV s g l v.val).toNat / 2 ^ 24 % 2 ^ 7 = 0 ∧
      64 * b.bid ≤ (readV s g l p.val).toNat ∧ (readV s g l p.val).toNat < min (64 * b.bid + 64) d.nprims) →
    let prim (l : Nat) : List Nat × Bool := ([(readV s g l v.val).toNat % 256, (readV s g l v.val).toNat / 256 % 256,
      (readV s g l v.val).toNat / 65536 % 256], (readV s g l v.val).getLsbD 31)
    exec (.primemit v p) s = .next (s.modBlock b.uid fun b => (lanesOf (g.noHelpers c.exec)).foldl
      (fun (b : Block) l => { b with prims := tput b.prims (readV s g l p.val).toNat (prim l) }) b)) ∧
  (∀ (n : Fin 8) (a : VReg) s g c sb, Issues (.pxout n a) s g c → g.noHelpers c.exec ≠ 0 → s.pixelSb g = some sb →
    exec (.pxout n a) s = .next (if sbNtgt sb ≤ n.val then s else s.setGroup
      ((lanesOf (g.noHelpers c.exec)).foldl (fun g' l => g'.modFrag l fun f => { f with
        colors := tput f.colors n.val ((List.range 4).map fun k => readV s g l (a.val + k)) }) g))) ∧
  (∀ (a : VReg) s g c sb, Issues (.depw a) s g c → g.noHelpers c.exec ≠ 0 → s.pixelSb g = some sb →
    (sbFlag sb 2 = true → exec (.depw a) s = .next (s.setGroup ((lanesOf (g.noHelpers c.exec)).foldl (fun g' l =>
      let z := f32min (f32max (readV s g l a.val) 0) 0x3F800000
      g'.modFrag l fun f => { f with depth := z, depw := some z }) g))) ∧
    (sbFlag sb 2 = false → exec (.depw a) s =
      .next (s.trapAt g c (.depw a) { code := .depwstate } (g.noHelpers c.exec)))) ∧
  (∀ s g c sb, Issues .discard s g c → s.pixelSb g = some sb →
    (sbFlag sb 1 = true → exec .discard s = .next ((s.setGroup ((lanesOf (g.noHelpers c.exec)).foldl (fun g' l =>
      (g'.modLane l fun x => { x with helper := true }).modFrag l fun f => { f with discarded := true }) g)).exitLanes
        g.uid 0)) ∧
    (sbFlag sb 1 = false → exec .discard s = .next (s.trap g c .discard .discardstate))) ∧
  (∀ (n : SReg) (t a : VReg) s g c d s', Issues (.wrec n t a) s g c → g.replay = false → g.noHelpers c.exec ≠ 0 →
    let k := (readS s g n.val).toNat
    s.nodeDesc (s.who g) (k / 4 % 2 ^ 14) = .ok d → k % 4 < d.ports → d.ports ≤ 4 → 0 < d.words → d.words ≤ 8 →
    a.val + d.words ≤ 120 → spanPoison g (g.noHelpers c.exec) a.val d.words = 0 → c.partialDone = 0 →
    sendRecords (fun l => {
      slot := s.slotOf g, node := k / 4 % 2 ^ 14, tag := readV s g l t.val, port := k % 4
      words := (List.range d.words).map fun j => readV s g l (a.val + j)
      name := (g.lane l).lin, watch := (g.lane l).watch, spilled := false }) (lanesOf (g.noHelpers c.exec)) s = (s', []) →
    exec (.wrec n t a) s = .next s') ∧
  (∀ (a : VReg) s g c, Issues (.linset a) s g c → (∀ l ∈ lanesOf c.exec, (readV s g l a.val).toNat < 2 ^ 12) →
    exec (.linset a) s = .next (s.setGroup
      (eachLane g c fun g' l => g'.modLane l fun x => { x with linset := readV s g l a.val }))) ∧
  ∀ (v a : VReg) (n : Fin 8) s g c, (Issues (.vxemit v a) s g c → g.noHelpers c.exec ≠ 0 → s.vertexDraw g = none →
      exec (.vxemit v a) s = .next (s.trapAt g c (.vxemit v a) { code := .pipearg } (g.noHelpers c.exec))) ∧
    (Issues (.pxout n a) s g c → g.noHelpers c.exec ≠ 0 → s.pixelSb g = none →
      exec (.pxout n a) s = .next (s.trapAt g c (.pxout n a) { code := .pipearg } (g.noHelpers c.exec)))

/-! ### The steps of draws, work graphs and replays -/

/-- The steps of a draw's fixed units: a job with an access that awaits an answer stands still, and those of its
stage with it, while the draw's other stages go on; bin blocks of up to 4,096 primitives follow one another and
rendering begins after the last; renders start when they are due; a retired fragment leaves its lane; a node
fires when each of its ports has a record, the oldest of each being taken, and launches one child (R296, R297,
R301, R304, R331, R427). What stands still with a job, and that a step is made whole or not at all, is log entry
59's reading of R427. Where the spec leaves a choice the model takes that of log entries 32, 59 and 78. -/
def Obligations.PipelineSteps : Prop :=
  (∀ (w : Nat) s d, s.draw? w = some d →
    (s.drawWaits d .bin = true → exec (.binStage w) s = .next s) ∧
    (s.drawWaits d .render = true → exec (.partialRender w) s = .next s ∧ exec (.finalRender w) s = .next s)) ∧
  (∀ (s : State) (d : Draw) (j : FixedJob) f, s.drawWaits d j = false →
    (∀ e k, (f (d.forJob j)).run 0 = .error (e, k) → s.fixedStep d j f = s.fixedFault d j e k) ∧
    (∀ k, (f (d.forJob j)).run 0 = .ok (s, k) → s.fixedStep d j f = s) ∧
    ∀ t k, (f (d.forJob j)).run 0 = .ok (t, k) → t ≠ s → s.fixedStep d j f = t.modDraw d.uid fun x =>
      { x with skips := x.skips.filter fun e => e.job ≠ j.num }) ∧
  (∀ (w : Nat) s d, s.draw? w = some d → (∀ g, d.grid = some g → s.gridDone g = true) → s.drawHeld d = false →
    d.stage = .bin → d.requests = [] → d.render = none → sbNat d.sb 16 8 ≠ 0 →
    let t := match d.grid with | some g => s.dropGrid g | none => s
    exec (.binStage w) s = .next (s.fixedStep d .bin fun d => pure (if d.nextBin < d.nprims then t.launchBin d
      else t.modDraw d.uid fun x => { x with stage := .rendering, grid := none }))) ∧
  (∀ (s : State) d, ∃ g, (s.launchBin d).grids = s.grids ++ [g] ∧ g.kind = .bin d.uid ∧
    g.task.threads = min 4096 (d.nprims - d.nextBin) ∧ g.slot = d.slot ∧
    (tget 0 g.scalars 0).toNat = d.nextBin % 2 ^ 32 ∧ (tget 0 g.scalars 1).toNat = min 4096 (d.nprims - d.nextBin)) ∧
  (∀ (w : Nat) s d, s.draw? w = some d → d.render = none → s.mayRender d = true → s.drawHeld d = false →
    d.cut ≠ some 1 →
    (d.requests ≠ [] → exec (.partialRender w) s = .next (s.fixedStep d .render fun d => s.startRender d false)) ∧
    (d.stage = .rendering → d.requests = [] →
      exec (.finalRender w) s = .next (s.fixedStep d .render fun d => s.startRender d true))) ∧
  (∀ (w : Nat) s d r, s.draw? w = some d → d.render = some r →
    (r.final = false → exec (.partialRender w) s = .next (s.fixedStep d .render fun d => s.goRender d r)) ∧
    (r.final = true → exec (.finalRender w) s = .next (s.fixedStep d .render fun d => s.goRender d r))) ∧
  (∀ (u l : Nat) s g f d t k, s.group? u = some g → (g.lane l).frag = some f → (g.lane l).fragPending = true →
    s.replayOf g = none → s.draw? f.draw = some d → d.earlier f = false → d.cut ≠ some 2 →
    let j : FixedJob := .retire f.x f.y f.prim.number
    ((s.flushCulled d.uid).retireFrag (d.forJob j) f (g.lane l).lods).run 0 = .ok (t, k) →
    exec (.fragmentRetire u l) s = .next (s.fixedStep d j fun _ => pure (((t.clearFrag u l).modDraw d.uid fun x =>
      { x with pending := x.pending.erase (f.x, f.y, f.prim.number) }).flushCulled d.uid))) ∧
  (∀ (c : Slot) (n : Nat) (k : Word) s d r rs bytes,
    let cl := s.storeOf c.val n k
    s.nodeDesc { cl := cl, slot := c.val } n = .ok d →
    firstRecords (s.cluster cl).store c.val n k (List.range (min 4 d.ports)) = some (r :: rs) →
    s.quietLoad { cl := cl, slot := c.val } d.task.toNat 64 = some bytes →
    let s1 := s.modCluster cl fun x => { x with store := (r :: rs).foldl (fun l y => l.erase y) x.store }
    ∀ u t, s1.takeTask { cl := cl, slot := c.val } bytes
        (nameMake c.val (nameFrame r.name) 4 (nameDisp r.name) 0 (nameUnit r.name) k.toNat) r.watch = (some u, t) →
      exec (.nodeFire c n k) s = .next (t.modGrid u fun g => { g with scalars := nodeScalars n k (r :: rs) })) ∧
  ∀ (st : List NodeRec) (slot node : Nat) (k : Word) (ps : List Nat) rs, firstRecords st slot node k ps = some rs →
    rs.length = ps.length ∧ (∀ r ∈ rs, r ∈ st ∧ r.slot = slot ∧ r.node = node ∧ r.tag = k) ∧
    rs.map (fun r => r.port) = ps

/-- WATCH arms a comparator of a context with DEBUG: the specification's fields, a new generation and an empty
ring, or, with MODE 0, disarms it; REPLAY starts the replay of its record and owes its status; both trap DEBUG
without DEBUG; REPLAY_COMPLETE pays the status and the bytes written once the replay has run (R288, R289, R318,
R323). Where the spec leaves a choice the model takes that of log entries 58 and 75. -/
def Obligations.WatchAndReplay : Prop :=
  (∀ (n a : SReg) s g c b, Issues (.watch n a) s g c → g.replay = false → g.allHelpers c.exec = false →
    (s.ctxOf g).ccb.debug = true → (readS s g n.val).toNat ≤ 15 → wellFormed (readS64 s g a.val) 64 →
    s.loadRecord (s.who g) (readS64 s g a.val).toNat 64 = .ok b → specBad b = false →
    exec (.watch n a) s = .next (s.arm (s.who g) (readS s g n.val).toNat b)) ∧
  (∀ (d n a : SReg) s g c, (s.ctxOf g).ccb.debug = false → g.replay = false → g.allHelpers c.exec = false →
    (Issues (.watch n a) s g c → exec (.watch n a) s = .next (s.trap g c (.watch n a) .debug)) ∧
    (Issues (.replay d a) s g c → exec (.replay d a) s = .next (s.trap g c (.replay d a) .debug))) ∧
  (∀ (s : State) (w : Who) (n : Nat) b, n < 16 →
    let old := (s.ctx w.slot).comp n
    let gen := old.gen + 1
    let spec := parseSpec b gen
    let set (x : Comparator) : State := s.modCtx w.slot fun c => { c with comps := tset {} c.comps n x }
    (((s.arm w n b).ctx w.slot).comp n).gen = gen ∧
    (fieldOf b 49 1 = 0 → s.arm w n b = set { old with mode := 0, gen := gen }) ∧
    (fieldOf b 49 1 ≠ 0 → ((s.arm w n b).ctx w.slot).comp n = spec ∧
      ∀ ps, (set spec).storeRun w 65 spec.ring.toNat
          ((natLe 4 spec.log2cap ++ natLe 4 0 ++ natLe 4 gen.toNat ++ List.replicate 52 0).map fun b => (b, false)) = .ok ps →
        s.arm w n b = (set spec).perform w ps)) ∧
  (∀ (d a : SReg) s g c h rec, Issues (.replay d a) s g c → g.replay = false → g.allHelpers c.exec = false →
    (s.ctxOf g).ccb.debug = true → wellFormed (readS64 s g a.val) 64 → wellFormed (readS64 s g (a.val + 2)) 64 →
    (∀ l ∈ lanesOf c.exec, s.blocked g (.replay d a) l [{ addr := (readS64 s g a.val).toNat, n := 64, spad := none },
      { addr := (readS64 s g (a.val + 2)).toNat, n := 4, spad := none }] = false) →
    s.loadRecord (s.who g) (readS64 s g (a.val + 2)).toNat 4 = .ok h →
    s.loadRecord (s.who g) (readS64 s g a.val).toNat 64 = .ok rec → 64 ≤ leNat h → leNat h % 16 = 0 →
    (∀ l ∈ lanesOf c.exec, s.blocked g (.replay d a) l (s.lookupSpans (s.who g) rec) = false) →
    let go (found : Option (List Byte)) (status : Option Nat) : Prop := exec (.replay d a) s =
      .next (s.startReplay g c (.replay d a) d (readS64 s g (a.val + 2)) (leNat h) rec found status)
    (s.lookupRecord (s.who g) rec = .notFound → go none (some 5)) ∧
    (s.lookupRecord (s.who g) rec = .stateLost → go none (some 3)) ∧
    ∀ t, s.lookupRecord (s.who g) rec = .found t → go (some t) none) ∧
  (∀ (d n a : SReg) s g c, g.replay = true → (Issues (.watch n a) s g c → exec (.watch n a) s = .next s) ∧
    (Issues (.replay d a) s g c → exec (.replay d a) s = .next s)) ∧
  ∀ (n : Nat) s r g t k ps, s.replay? n = some r → s.group? r.group = some g → r.record = none →
    s.replayRan r = true → r.dropped = false →
    let w : Who := { s.who g with replay := none }
    State.writeTrace w r.traceAt.toNat ((r.trace.take r.fits).drop r.written) r.written s = (t, k, none) →
    let t' := t.modReplay n fun x => { x with written := k }
    t'.storeRun w 61 (r.traceAt.toNat + 4) ((r.header_ k).map fun b => (b, false)) = .ok ps →
    exec (.replayComplete n) s = .next ((t'.perform w ps).endReplay r k)

/-! ### The service's own instructions -/

/-- A class 0xE word decodes only where its grade of privilege allows: with SYS, or in handler state for a word whose
bits [27:21] are 0; everywhere else the clause that holds it traps PRIV before any other decode trap of the word
(R146, R153, R342). -/
def Obligations.Privilege : Prop :=
  ∀ (sys handler : Bool) (t : TaskRec) (w x y : Nat), fld w 28 4 = 14 →
    (sys = false → handler = false → decodeIn sys handler t w x y = .error .priv) ∧
    (sys = false → fld w 21 7 ≠ 0 → decodeIn sys handler t w x y = .error .priv) ∧
    (sys = true ∨ (handler = true ∧ fld w 21 7 = 0) → decodeIn sys handler t w x y ≠ .error .priv)

/-- The context instructions: CTXSAVE makes a LIVE slot SAVING and asks its blocks to stop, CTXLOAD makes a FREE slot
LOADING with its image's control block, each with a token; OVTBL sets the overflow table; TLBINV, RESFENCE and
PGATTR take a token and do their work when it completes, PGATTR on the KIND field of the page's last-level entry,
valid or not, whose SIDE field it clears for a kind that has none; what they may not name, and a slot in another state,
traps PRIVARG (R350, R352, R353, R354, R355). -/
def Sys2Proof.Claims.ContextInstructions : Prop :=
  (∀ (d c a : SReg) s g k n t s', Issues (.ctxsave d c a) s g k →
    let slot := (readS s g c.val).toNat
    1 ≤ slot → slot ≤ 63 → (s.ctx slot).state = .live → (readS64 s g a.val).toNat < 2 ^ 52 →
    (readS64 s g a.val).toNat % 4096 = 0 → s.takeToken (s.slotOf g) = some (n, t, s') →
    exec (.ctxsave d c a) s = .next ((({ s' with tokenOps := s'.tokenOps ++ [(s.slotOf g, n, Instr.ctxsave d c a, g)] }
      |>.modGroup g.uid fun x => x.writeS d.val t).modCtx slot fun x => { x with
        state := .saving, saveAt := readS64 s g a.val, saveTok := some (s.slotOf g, n) }).askStop slot .ctxsave
          fun b => match b.kind with | .replay _ => false | _ => true)) ∧
  (∀ (d c a : SReg) s g k n t s', Issues (.ctxload d c a) s g k →
    let slot := (readS s g c.val).toNat
    let image := Memory.reads s.mem (readS64 s g a.val).toNat 256
    1 ≤ slot → slot ≤ 63 → (s.ctx slot).state = .free → (readS64 s g a.val).toNat < 2 ^ 52 →
    (readS64 s g a.val).toNat % 4096 = 0 → s.imageBad slot image = false →
    s.takeToken (s.slotOf g) = some (n, t, s') →
    exec (.ctxload d c a) s = .next (({ s' with tokenOps := s'.tokenOps ++ [(s.slotOf g, n, Instr.ctxload d c a, g)] }
      |>.modGroup g.uid fun x => x.writeS d.val t).modCtx slot fun x => { x with
        state := .loading, ccb := parseCcb image, saveAt := readS64 s g a.val, saveTok := some (s.slotOf g, n) })) ∧
  (∀ (c v : SReg) s g k, Issues (.ovtbl c v) s g k →
    let slot := (readS s g c.val).toNat
    let ovt := (readS s g v.val).toNat % 65536
    (slot ≤ 63 → (s.ctx slot).state = .live → ovtBad ovt = false → exec (.ovtbl c v) s =
      .next (s.modCtx slot fun x => { x with ccb := { x.ccb with ovt := BitVec.ofNat 16 ovt } })) ∧
    (63 < slot ∨ (s.ctx slot).state ≠ .live ∨ ovtBad ovt = true →
      exec (.ovtbl c v) s = .next (s.trap g k (.ovtbl c v) .privarg))) ∧
  (∀ (d r : SReg) s g c n t s', s.takeToken (s.slotOf g) = some (n, t, s') →
    let took (i : Instr) : Prop := exec i s = .next ({ s' with tokenOps := s'.tokenOps ++ [(s.slotOf g, n, i, g)] }
      |>.modGroup g.uid fun x => x.writeS d.val t)
    (Issues (.tlbinv d r) s g c → canonical (readS64 s g r.val) = true → (readS64 s g r.val).toNat % 65536 = 0 →
      (readS s g (r.val + 3)).toNat ≤ 63 → took (.tlbinv d r)) ∧
    (Issues (.resfence d r) s g c → (readS s g r.val).toNat ≤ 63 → took (.resfence d r)) ∧
    (Issues (.pgattr d r) s g c → canonical (readS64 s g r.val) = true → (readS s g (r.val + 2)).toNat ≤ 3 →
      (readS s g (r.val + 3)).toNat ≤ 63 → took (.pgattr d r))) ∧
  (∀ (c : Slot) (t : BitVec 8) s d r g, s.opOf c.val t.toNat = some (.tlbinv d r, g) →
    Answers (exec (.tlbinvComplete c t) s) fun x => x.mem = s.mem ∧
      ∀ e, e ∈ x.tlbs ↔ e ∈ s.tlbs ∧ ¬ (e.slot = (readS s g (r.val + 3)).toNat ∧ (readS s g (r.val + 2) = 0 ∨
        (vaUnit (readS64 s g r.val).toNat ≤ e.unit ∧
          e.unit < vaUnit (readS64 s g r.val).toNat + (readS s g (r.val + 2)).toNat)))) ∧
  (∀ (c : Slot) (t : BitVec 8) s d r g, s.opOf c.val t.toNat = some (.resfence d r, g) →
    Answers (exec (.resfenceComplete c t) s) fun x => x.mem = s.mem ∧
      ∀ n ∈ s.clustersOf (s.ctx (readS s g r.val).toNat).ccb.part, (x.cluster n).filter = []) ∧
  (∀ (c : Slot) (t : BitVec 8) s d r g, s.opOf c.val t.toNat = some (.pgattr d r, g) →
    let slot := (readS s g (r.val + 3)).toNat
    let kind := (readS s g (r.val + 2)).toNat
    let va := (readS64 s g r.val).toNat
    let at_ := leafSlot s.mem slot (va % 2 ^ 57) 4 (s.ctx slot).ccb.ptroot.toNat
    let last := (s.walk slot va).level ≤ 2 ∧ (Memory.read s.mem at_).getLsbD 1 = true
    Answers (exec (.pgattrComplete c t) s) fun x =>
      (∀ b, b ≠ at_ + 1 → kind = 2 ∨ b < at_ + 8 ∨ at_ + 16 ≤ b → Memory.read x.mem b = Memory.read s.mem b) ∧
      (last → kind ≠ 2 → ∀ i, i < 8 → Memory.read x.mem (at_ + 8 + i) = 0) ∧
      (last → Memory.read x.mem (at_ + 1) = BitVec.ofNat 8 ((Memory.read s.mem (at_ + 1)).toNat / 4 * 4 + kind)) ∧
      (¬ last → x.mem = s.mem) ∧ ((x.ctx c.val).token_ t.toNat).resolved = true ∧
      (((x.ctx c.val).token_ t.toNat).skipped = true ↔ ¬ last)) ∧
  (∀ (d r : SReg) s g c,
    (Issues (.tlbinv d r) s g c → canonical (readS64 s g r.val) = false ∨ (readS64 s g r.val).toNat % 65536 ≠ 0 ∨
        63 < (readS s g (r.val + 3)).toNat →
      exec (.tlbinv d r) s = .next (s.trap g c (.tlbinv d r) .privarg)) ∧
    (Issues (.resfence d r) s g c → 63 < (readS s g r.val).toNat →
      exec (.resfence d r) s = .next (s.trap g c (.resfence d r) .privarg)) ∧
    (Issues (.pgattr d r) s g c → canonical (readS64 s g r.val) = false ∨ 3 < (readS s g (r.val + 2)).toNat ∨
        63 < (readS s g (r.val + 3)).toNat →
      exec (.pgattr d r) s = .next (s.trap g c (.pgattr d r) .privarg))) ∧
  (∀ (d c a : SReg) s g k, let slot := (readS s g c.val).toNat
    (Issues (.ctxsave d c a) s g k → (s.ctx slot).state ≠ .live →
      exec (.ctxsave d c a) s = .next (s.trap g k (.ctxsave d c a) .privarg)) ∧
    (Issues (.ctxload d c a) s g k → (s.ctx slot).state ≠ .free ∨
        s.imageBad slot (Memory.reads s.mem (readS64 s g a.val).toNat 256) = true →
      exec (.ctxload d c a) s = .next (s.trap g k (.ctxload d c a) .privarg))) ∧
  ∀ (d c a : SReg) s g k, (readS s g c.val).toNat = 0 ∨ 63 < (readS s g c.val).toNat ∨
      2 ^ 52 ≤ (readS64 s g a.val).toNat ∨ (readS64 s g a.val).toNat % 4096 ≠ 0 →
    (Issues (.ctxsave d c a) s g k → exec (.ctxsave d c a) s = .next (s.trap g k (.ctxsave d c a) .privarg)) ∧
    (Issues (.ctxload d c a) s g k → exec (.ctxload d c a) s = .next (s.trap g k (.ctxload d c a) .privarg))

/-- A context that is SAVING and has no block left writes its routes' descriptors and then its image, the header, the
waiting tasks and the block records, at its save address, none at address 0, and its slot becomes FREE; one that is
LOADING becomes LIVE with the header's tokens and comparators, its tasks and its blocks join the tails of their queues
in image order, and its token resolves (R352, R353, R357). -/
def Sys2Proof.Claims.ContextsMove : Prop :=
  (∀ (c : Slot) s, (s.ctx c.val).state = .saving → (s.ctx c.val).saveAt = 0 → (∀ b ∈ s.blocks, b.slot ≠ c.val) →
    s.pipeBusy c.val = false →
    Answers (exec (.contextSaveComplete c) s) fun t => (t.ctx c.val).state = .free ∧
      t.mem = (s.flushRoutes c.val).mem ∧ ∀ e ∈ t.queue, e.slot ≠ c.val) ∧
  (∀ (c : Slot) s, (s.ctx c.val).state ≠ .saving → exec (.contextSaveComplete c) s = .next s) ∧
  (∀ (c : Slot) s, (∃ b ∈ s.blocks, b.slot = c.val) ∨ s.pipeBusy c.val = true →
    exec (.contextSaveComplete c) s = .next s) ∧
  (∀ (c : Slot) s, (s.ctx c.val).state = .saving → (s.ctx c.val).saveAt ≠ 0 → (∀ b ∈ s.blocks, b.slot ≠ c.val) →
    s.pipeBusy c.val = false →
    let s₁ := s.flushRoutes c.val
    let im := s₁.imageOf c.val
    let tasks := unadmitted im.grids im.queue
    Answers (exec (.contextSaveComplete c) s) fun t => (t.ctx c.val).state = .free ∧ (∀ e ∈ t.queue, e.slot ≠ c.val) ∧
      t.mem = (s₁.physWrite (s.ctx c.val).saveAt.toNat ((imageHeader (s₁.ctx c.val) im.blocks.length tasks.length ++
        (tasks.flatMap queuedBytes ++ im.blocks.flatMap s₁.blockRecord)).map fun b => (b, false))).mem) ∧
  (∀ (c : Slot) s, (s.ctx c.val).state = .loading → (s.ctx c.val).saveTok = none →
    fieldOf (Memory.reads s.mem (s.ctx c.val).saveAt.toNat 4096) 104 4 = 0 →
    fieldOf (Memory.reads s.mem (s.ctx c.val).saveAt.toNat 4096) 108 4 = 0 →
    Answers (exec (.contextLoadComplete c) s) fun t => (t.ctx c.val).state = .live ∧ t.mem = s.mem ∧
      (t.ctx c.val).ccb = (s.ctx c.val).ccb ∧ (t.ctx c.val).saveAt = 0 ∧
      let header := parseHeader true (Memory.reads s.mem (s.ctx c.val).saveAt.toNat 4096) (s.ctx c.val)
      (t.ctx c.val).tokens = header.tokens ∧ (t.ctx c.val).comps = header.comps) ∧
  (∀ (c : Slot) s sl k, (s.ctx c.val).state = .loading → (s.ctx c.val).saveTok = some (sl, k) →
    Answers (exec (.contextLoadComplete c) s) fun t => (t.ctx c.val).state = .live ∧ (t.ctx c.val).saveTok = none ∧
      ((t.ctx sl).token_ k).resolved = true ∧ ((t.ctx sl).token_ k).skipped = false) ∧
  (∀ (c : Slot) s, (s.ctx c.val).state = .loading →
    let at_ := (s.ctx c.val).saveAt.toNat
    let nb := fieldOf (Memory.reads s.mem at_ 4096) 104 4
    let nt := fieldOf (Memory.reads s.mem at_ 4096) 108 4
    let task (i : Nat) : List Byte := Memory.reads s.mem (at_ + 4096 + 64 * i) 64
    let entry (prio : Nat) (w : Waiting) : QEntry :=
      { part := s.partFor c.val, prio := prio, slot := c.val, what := w }
    Answers (exec (.contextLoadComplete c) s) fun t =>
      (∃ q, ∃ vs : List Saved, t.queue = q ++ vs.map (fun v => entry v.block.task.prio (.saved v)) ∧
        vs.length = (s.blockRecords nb (at_ + 4096 + 64 * nt)).length ∧
        ∀ v ∈ vs, v.loaded = true ∧ v.block.slot = c.val) ∧
      (nb = 0 → s.imageAt at_ = none →
        (∀ i, i < nt → taskRefusal (s.ctx c.val).ccb.prioCeil (task i) (taskOf c.val (task i)) = none) →
        ∃ gs : List Grid, gs.length = nt ∧
          t.queue = s.queue ++ gs.map (fun g => entry g.task.prio (.grid g.uid)) ∧
          ∀ i g, gs[i]? = some g → g ∈ t.grids ∧ g.bytes = task i ∧ g.slot = c.val ∧ g.placed = 0 ∧
            g.name = inSlot c.val (BitVec.ofNat 128 (fieldOf (task i) 40 16)))) ∧
  ∀ (c : Slot) s, (s.ctx c.val).state ≠ .loading → exec (.contextLoadComplete c) s = .next s

/-- The context instructions: CTXSAVE makes a LIVE slot SAVING and asks its blocks to stop, CTXLOAD makes a FREE
slot LOADING with its image's control block, each with a token; OVTBL sets the overflow table; TLBINV, RESFENCE
and PGATTR take a token and do their work when it completes, PGATTR on the KIND field of the page's last-level
entry, valid or not, whose SIDE field it clears for a kind that has none; what they may not name, and a slot in
another state, traps PRIVARG (R350, R352, R353, R354, R355). A context that is SAVING and has no block left
writes its routes' descriptors and then its image, the header, the waiting tasks and the block records, at its
save address, none at address 0, and its slot becomes FREE; one that is LOADING becomes LIVE with the header's
tokens and comparators, its tasks and its blocks join the tails of their queues in image order, and its token
resolves (R352, R353, R357). Where the spec leaves a choice the model takes that of log entries 65 and 66. -/
def Obligations.Contexts : Prop :=
  Sys2Proof.Claims.ContextInstructions ∧
    Sys2Proof.Claims.ContextsMove

/-- ADMIT gives a cluster to a partition and its budgets, which take effect at the next boundary; RASLOG stores the
oldest unread record and reports how many are left, 0xFFFFFFFF when there is none; both trap PRIVARG on what they may
not name; HALT parks its path until the
service is called, and its waking frees the lanes that are (R356, R405). -/
def Obligations.ServiceInstructions : Prop :=
  (∀ (r : SReg) s g c, Issues (.admitCluster r) s g c →
    let v (k : Nat) : Nat := (readS s g (r.val + k)).toNat
    v 0 ≤ 7 → v 1 ≤ 7 → 1 ≤ v 2 → v 2 ≤ 65535 → 1 ≤ v 3 → v 3 ≤ 1000 →
    ((s.cluster (v 0)).part = v 1 ∨ s.tenantOn (v 0) = false) →
    Answers (exec (.admitCluster r) s) fun t => (t.cluster (v 0)).part = v 1 ∧
      (t.cluster (v 0)).newBudgets = some (v 2, v 3) ∧ (t.cluster (v 0)).cap = 7 ∧
      (t.cluster (v 0)).energyBudget = (s.cluster (v 0)).energyBudget ∧ t.mem = s.mem ∧
      ∀ k, k ≠ v 0 → t.cluster k = s.cluster k) ∧
  (∀ (r : SReg) s g c, Issues (.admitCluster r) s g c →
    let v (k : Nat) : Nat := (readS s g (r.val + k)).toNat
    7 < v 0 ∨ 7 < v 1 ∨ v 2 = 0 ∨ 65535 < v 2 ∨ v 3 = 0 ∨ 1000 < v 3 ∨
      ((s.cluster (v 0)).part ≠ v 1 ∧ s.tenantOn (v 0) = true) →
    exec (.admitCluster r) s = .next (s.trap g c (.admitCluster r) .privarg)) ∧
  (∀ (d a : SReg) s g c, Issues (.raslog d a) s g c → (readS64 s g a.val).toNat < 2 ^ 52 →
    (s.ras = [] → exec (.raslog d a) s = .next (s.setGroup (g.writeS d.val 0xFFFFFFFF))) ∧
    (∀ r rs, s.ras = r :: rs → s.rasDropped = 0 → exec (.raslog d a) s =
      .next ((({ s with ras := rs } : State).physWrite (readS64 s g a.val).toNat
        (r.bytes.map fun b => (b, false))).modGroup g.uid fun y => y.writeS d.val (BitVec.ofNat 32 rs.length)))) ∧
  (∀ (d a : SReg) s g c, Issues (.raslog d a) s g c → 2 ^ 52 ≤ (readS64 s g a.val).toNat →
    exec (.raslog d a) s = .next (s.trap g c (.raslog d a) .privarg)) ∧
  (∀ r : Ras, r.bytes.length = 32) ∧
  (∀ s g c, Issues .halt s g c → exec .halt s = .next (s.setGroup (g.parkNext c c.exec (.halt false)))) ∧
  (∀ (x : LaneState), x.called = if x = .parked (.halt false) then .parked (.halt true) else x) ∧
  (∀ (u : Nat) s, let halted : LaneState := .parked (.halt true)
    exec (.haltWake u) s = .next (s.modGroup u fun g => { g with lanes := g.lanes.map fun x =>
      if x.st = halted then { x with st := .runnable } else x })) ∧
  ∀ h s g c, Issues (.hint h) s g c → exec (.hint h) s = .next s

/-! ### Issue and placement -/

/-- CLAUSE_BEGIN: a runnable path that may issue decodes its clause whole and begins it once the flags of its
wait mask and its set fields are clear, with the executing lanes those whose guard reads 1; a decoding that
stops raises its trap and no instruction of the clause executes (R28, R29, R152). Where the spec leaves a choice
the model takes that of log entries 40 and 41. -/
def Obligations.ClauseBegins : Prop :=
  ∀ (u l : Nat) s g, s.group? u = some g → g.clause = none → s.stopped g = false → s.mayIssue g l = true →
    s.taskOf u = none → (∀ d ∈ g.dueLate, d.mask &&& g.issueSet l = 0) → s.againOf u (g.issueSet l) = none →
    g.serial = false →
    let w : Who := { s.who g with replay := none }
    let pc := (g.lane l).pc
    (g.lastIssue = none → s.badTarget w pc none = none) →
    (∀ a, s.nextMarked w skipSlots (codeSlot pc) = .ok a → a ≠ pc →
      exec (.clauseBegin u l) s = .next (s.setGroup (g.modLanes (g.issueSet l) fun _ x => { x with pc := a }))) ∧
    (s.nextMarked w skipSlots (codeSlot pc) = .ok pc →
      (∀ e, s.decodeClause w g (s.sysGroup g) (s.taskOfGroup g) pc = .error e →
        exec (.clauseBegin u l) s = .next (s.stopPath g (g.issueSet l) pc e)) ∧
      ∀ d, s.decodeClause w g (s.sysGroup g) (s.taskOfGroup g) pc = .ok d →
        (g.flags &&& d.needs ≠ 0 → exec (.clauseBegin u l) s = .next s) ∧
        (g.flags &&& d.needs = 0 → exec (.clauseBegin u l) s = .next (s.startClause g (g.issueSet l) d) ∧
          ∃ t, t = s.startClause g (g.issueSet l) d ∧ t.turn = some g.uid ∧ t.mem = s.mem ∧
            After t u fun g' => g'.clause = some { d.clause with path := g.issueSet l, exec := g.guarded (g.issueSet l) d } ∧
              ∀ k, k < 64 → mHas (g.guarded (g.issueSet l) d) k =
                (mHas (g.issueSet l) k && ((g.lane k).pred d.pred != d.neg))))

/-- FLAG_CLEAR delivers the results tied to a set flag with nothing outstanding, to scalar, vector and hypervector
registers, one whose register was written meanwhile being Undefined and one for a clause temporary lost, and clears it;
FAIRNESS_TIMER ends a
path's turn after 1,024 issue cycles; GROUP_RETIRE takes out a group that has only helper lanes left, no flag set
and no clause in flight (R24, R28, R112, R180). -/
def Obligations.GroupSteps : Prop :=
  (∀ (u : Nat) (f : Fin 12) s g, s.group? u = some g → g.flag f = true → s.outstanding u f = false →
    g.setting f = false → Answers (exec (.flagClear u f) s) fun t => OnlyGroup s t u ∧
      After t u fun g' => g'.flag f = false ∧ (∀ p ∈ g'.pend, p.flag ≠ f) ∧ (∀ h, h ≠ f → g'.flag h = g.flag h) ∧
        (∀ p ∈ g.pend, p.flag = f → (∀ q ∈ g.pend, q.flag = f → q.dst = p.dst → q = p) →
          (∀ r, p.dst = .s r → tget 0 g'.s r = if p.clob then s.undef (s.slotOf g) .sreg r else p.word) ∧
          (∀ l r, p.dst = .v l r → l < g.lanes.length → tget 0 (g'.lane l).v r =
            if p.clob then s.undef (s.slotOf g) .vreg (vPlace l r) else p.word) ∧
          ∀ r, p.dst = .h r → tget 0 g'.h r = if p.clob then s.undefHyper (s.slotOf g) .hreg r else p.hyper) ∧
        (∀ r, (∀ p ∈ g.pend, p.flag = f → p.dst ≠ .s r) → tget 0 g'.s r = tget 0 g.s r) ∧
        (∀ r, (∀ p ∈ g.pend, p.flag = f → p.dst ≠ .h r) → tget 0 g'.h r = tget 0 g.h r) ∧
        ∀ l, (g'.lane l).t = (g.lane l).t ∧
          ∀ r, (∀ p ∈ g.pend, p.flag = f → p.dst ≠ .v l r) → tget 0 (g'.lane l).v r = tget 0 (g.lane l).v r) ∧
  (∀ (u : Nat) (f : Fin 12) s g, s.group? u = some g →
    g.flag f = false ∨ s.outstanding u f = true ∨ g.setting f = true → exec (.flagClear u f) s = .next s) ∧
  (∀ (u : Nat) s g, s.group? u = some g →
    (g.fair < 1024 → exec (.fairnessTimer u) s = .next s) ∧
    (1024 ≤ g.fair → exec (.fairnessTimer u) s = .next (s.setGroup { g with fair := 0, yieldPc := some g.lastPc }))) ∧
  (∀ (u : Nat) s g, s.group? u = some g → g.noHelpers g.live = 0 → g.flags = 0 → g.clause = none →
    (∀ x ∈ g.lanes, x.frag = none) →
    Answers (exec (.groupRetire u) s) fun t => t.group? u = none ∧ t.mem = s.mem) ∧
  ∀ (u : Nat) s g, s.group? u = some g → g.noHelpers g.live ≠ 0 ∨ g.flags ≠ 0 ∨ g.clause ≠ none →
    exec (.groupRetire u) s = .next s

/-- BLOCK_PLACEMENT places the head of a partition's highest queue on a cluster where it fits, and waits where
it does not; a stopped block is saved at its partition's area, or, when it does not fit, goes on and SAVEFULL
counts; a pixel group that outlasts the watchdog stops (R381, R382, R383, R388, R391). Where the spec leaves a
choice the model takes that of log entries 34, 71 and 73. -/
def Obligations.Placement : Prop :=
  (∀ (s : State) (p : Nat) e, s.queueHead p = some e → e ∈ s.queue ∧ e.part = p ∧ s.opens e = true ∧
    ∀ x ∈ s.queue, x.part = p → s.opens x = true → x.prio ≤ e.prio) ∧
  (∀ (p : Fin 8) s e n cl sp, s.queueHead p.val = some e → s.needOf e.what = some n → s.tileHeld e = false →
    s.clusterFor none e n = some (cl, sp) → exec (.blockPlacement p) s = .next (s.placeEntry e cl sp)) ∧
  (∀ (p : Fin 8) s e n, s.queueHead p.val = some e → s.needOf e.what = some n → s.tileHeld e = false →
    s.clusterFor none e n = none → e.prio < 7 → exec (.blockPlacement p) s = .next s) ∧
  (∀ (p : Fin 8) s, s.queueHead p.val = none → exec (.blockPlacement p) s = .next s) ∧
  (∀ (bu : Nat) s b, s.block? bu = some b → s.preempting.find? (fun p => p.1 == bu) = some (bu, .queue7) →
    let gs := s.groups.filter fun g => g.block == bu
    let p := (s.cluster b.cluster).part
    let size := recordSize b gs (s.conts.filter fun c => c.block == bu)
    (∀ g ∈ gs, g.halted = true) → s.drained b = true →
    ((s.partOf p).used + size ≤ (s.partOf p).saveSize.toNat →
      Answers (exec (.blockSave bu) s) fun t => (t.partOf p).used = ((t.savedInArea p).map fun v => v.bytes).sum ∧
        (∀ x ∈ t.blocks, x.uid ≠ bu) ∧ (∀ g ∈ t.groups, g.block ≠ bu) ∧
        ∃ e ∈ t.queue, e.prio = b.task.prio ∧ e.slot = b.slot ∧ ∃ v, e.what = .saved v ∧ v.block = b ∧
          v.groups = gs ∧ v.bytes = size) ∧
    ((s.partOf p).saveSize.toNat < (s.partOf p).used + size →
      Answers (exec (.blockSave bu) s) fun t => (t.partOf p).saveFull = (s.partOf p).saveFull + 1 ∧
        (t.blocks = s.blocks.map fun x => if x.uid = bu then { x with misfit := true } else x) ∧
        (t.groups = s.groups.map fun g => if g.block = bu then { g with expired := false } else g) ∧
        ∀ x ∈ t.preempting, x.1 ≠ bu)) ∧
  ∀ (u : Nat) s g, s.group? u = some g → g.pixel = true → g.expired = false → (∃ p ∈ s.preempting, p.1 = g.block) →
    exec (.pixelWatchdog u) s = .next ((s.setGroup { g with expired := true }).modPart
      (s.cluster (s.clusterOf g)).part fun p => { p with watchdog := p.watchdog + 1 })

/-- At the boundary of a control interval the energy debt grows by what was metered beyond the budget and is paid from
the new interval's, the new budgets take effect, and the level is the least of the cap and the highest PERF request,
0 while the cluster is hot; the logic rail follows the level, and stays at 0 while the SRAM rail is; then a block
whose charge exceeds the whole budget may be placed (R384, R385, R386, R396, R397, R399). -/
def Sys2Proof.Claims.ControlIntervals : Prop :=
  (∀ (cl : Fin 8) (m : List (Nat × Nat)) s,
    let c := s.cluster cl.val
    let metered := (m.map fun e => e.2).sum / 1000
    let debt := c.debt + (metered - c.energyBudget)
    let budgets := c.newBudgets.getD (c.energyBudget, c.currentBudget)
    let hot : Bool := if c.hot then !(c.sensors.all fun x => decide (x.2 < 380))
      else c.sensors.any fun x => decide (460 < x.2)
    ∃ t : State, exec (.controlInterval cl m) s = .next (t.boundary cl.val) ∧
      (t.cluster cl.val).energyBudget = budgets.1 ∧ (t.cluster cl.val).currentBudget = budgets.2 ∧
      (t.cluster cl.val).newBudgets = none ∧ (t.cluster cl.val).metered = metered ∧
      (t.cluster cl.val).debt = debt - min debt budgets.1 ∧ (t.cluster cl.val).left = budgets.1 - min debt budgets.1 ∧
      (t.cluster cl.val).hot = hot ∧
      ((t.cluster cl.val).cap, (t.cluster cl.val).debtRun) = c.nextCap debt metered ∧
      (t.cluster cl.val).level = (if hot = true then 0 else min (s.perfMax cl.val) (t.cluster cl.val).cap) ∧
      (t.cluster cl.val).rail = (if s.sramRail = 0 then 0
        else [550, 600, 650, 700, 750, 800, 875, 950].getD (t.cluster cl.val).level 550) ∧
      (∀ k, k ≠ cl.val → t.cluster k = s.cluster k) ∧ t.mem = s.mem ∧
      (t.groups = s.groups ∨ t.groups = s.groups.map fun x => { x with lanes := x.lanes.map called })) ∧
  (∀ (s : State) (n : Nat), s.queueHead (s.cluster n).part = none → s.boundary n = s) ∧
  ∀ (s : State) (n : Nat) e need, s.queueHead (s.cluster n).part = some e → s.needOf e.what = some need →
    s.boundary n = if (need.1.charges 1 1).1 ≤ (s.cluster n).energyBudget then s
      else s.placeHead (some n) (s.cluster n).part

/-- A display head that runs: its lead time counts a frame and holds the head's clusters, its deadline ends the hold
and takes the new period and lead, and MISSCOUNT rises when no new frame was presented; HEADCTL takes its value; a
head that does not run counts nothing (R312, R394, R395). -/
def Sys2Proof.Claims.DisplayHeads : Prop :=
  ∀ (h : Fin 4) s, let x := s.head h.val
    ((x.ctl.getLsbD 0 = false ∨ x.period = 0) →
      exec (.leadTime h) s = .next s ∧ exec (.deadline h) s = .next s) ∧
    (x.ctl.getLsbD 0 = true → x.period ≠ 0 →
      Answers (exec (.leadTime h) s) (fun t => (t.head h.val).frames = x.frames + 1 ∧
        ∀ cl ∈ t.headClusters h.val, h.val ∈ (t.cluster cl).holds) ∧
      Answers (exec (.deadline h) s) fun t => (t.head h.val).period = x.newPeriod.getD x.period ∧
        (t.head h.val).lead = x.newLead.getD x.lead ∧ (t.head h.val).fresh = false ∧
        (t.head h.val).misses = (if x.fresh then x.misses else x.misses + 1) ∧
        (∀ e ∈ t.clusters, h.val ∉ e.2.holds) ∧ t.mem = s.mem) ∧
    ∀ v, Answers (exec (.headctlWrite h v) s) fun t => t.head h.val = { x with ctl := v &&& 0x00FF3F03 } ∧
      ∀ k, k ≠ h.val → t.head k = s.head k

/-- At the boundary of a control interval the energy debt grows by what was metered beyond the budget and is
paid from the new interval's, the new budgets take effect, and the level is the least of the cap and the highest
PERF request, 0 while the cluster is hot; the logic rail follows the level, and stays at 0 while the SRAM rail
is; then a block whose charge exceeds the whole budget may be placed (R384, R385, R386, R396, R397, R399). A
display head that runs: its lead time counts a frame and holds the head's clusters, its deadline ends the hold
and takes the new period and lead, and MISSCOUNT rises when no new frame was presented; HEADCTL takes its value;
a head that does not run counts nothing (R312, R394, R395). Where the spec leaves a choice the model takes that
of log entries 72 and 84. -/
def Obligations.IntervalsAndHeads : Prop :=
  Sys2Proof.Claims.ControlIntervals ∧
    Sys2Proof.Claims.DisplayHeads

/-! ### Answers to faults -/

/-- FAULT_ANSWER takes a pending record out of the fault buffer as RETRY, SKIP, KILL or RELAUNCH; a RETRY lets
the clauses that wait for it try again and its parked lanes go on where they stand, a SKIP lets its parked lanes
go on past the instruction that faulted, runnable at the next place, and passes over an instruction that stands
in its clause; KILL and RELAUNCH end its blocks, and RELAUNCH queues each of them again until it has been
launched again twice; a value that names no answer leaves the record pending; a breakpoint's record is released;
FAULT_BUFFER_RETRY does nothing while the buffer is full (R182, R367, R372, R375, R416). Where the spec leaves a
choice the model takes that of log entry 55. -/
def Obligations.FaultAnswers : Prop :=
  (∀ (n : Nat) (a : Word) s r, s.records.find? (fun r => r.num == n) = some r → 1 ≤ a.toNat → a.toNat ≤ 4 →
    exec (.faultAnswer n a) s = .next (s.answer r a.toNat).mirror) ∧
  (∀ (n : Nat) (a : Word) s, a = 0 ∨ 4 < a.toNat ∨ s.records.find? (fun r => r.num == n) = none →
    exec (.faultAnswer n a) s = .next s) ∧
  (∀ (s : State) r, (∀ u ∈ r.groups, s.savedGroup u = false) → r.draws = [] →
    let r' : Nat → Record := fun a => { r with answer := BitVec.ofNat 32 a }
    (r.code ≠ .brk → s.answer r 1 = s.retry (r' 1) ∧ s.answer r 2 = s.skip (r' 2)) ∧
    (r.code = .brk → s.answer r 1 = s.releaseBreak r.num ∧ s.answer r 2 = s.releaseBreak r.num) ∧
    s.answer r 3 = (s.killGroups (r' 3) r.groups .final).dropRecord r.num ∧
    s.answer r 4 = (s.killGroups (r' 4) r.groups .counted).dropRecord r.num) ∧
  (∀ (s : State) (r : Record), (∀ x ∈ (s.skip r).records, x.num ≠ r.num) ∧
    ((∀ o ∈ s.lateOps, o.record ≠ some r.num) → (∀ x ∈ s.replayed, x.record ≠ some r.num) →
      (∀ e ∈ s.engines, e.record ≠ some r.num) →
      (s.retry r).records = s.records.filter fun x => x.num ≠ r.num)) ∧
  (∀ (s : State) (r : Record) (u : Nat) (m : Mask) g, s.skipKills r = [] → s.engineGroups r = [] →
    (∀ x ∈ s.replayed, x.record ≠ some r.num) → (∀ x ∈ s.xalls, x.record ≠ some r.num) →
    (r.who.map fun e => e.1).Nodup → (u, m) ∈ r.who → s.group? u = some g →
    ((∃ x ∈ g.lanes, x.st = .parked (.fault r.num)) → After (s.skip r) u fun g' => ∀ l, l < g.lanes.length →
      ((g.lane l).st = .parked (.fault r.num) →
        (g'.lane l).st = .runnable ∧ (g'.lane l).pc = (g.lane l).skipTo) ∧
      ((g.lane l).st ≠ .parked (.fault r.num) → (g'.lane l).st = (g.lane l).st ∧ (g'.lane l).pc = (g.lane l).pc)) ∧
    ∀ c, g.faulted r.num = false → s.stalled r.num u = false → g.clause = some c → c.wait = some .answers →
      c.exec &&& m ≠ 0 → After (s.skip r) u fun g' =>
        g'.clause = some { c.drop (m &&& c.exec) with wait := none } ∧
        ∀ l, l < g.lanes.length → (g'.lane l).st = (g.lane l).st ∧
          (g'.lane l).pc = if mHas (m &&& c.exec) l then c.nextAt else (g.lane l).pc) ∧
  (∀ (s : State) (r : Record) (u : Nat) g b, (s.groups.map fun x => x.uid).Nodup → u ∈ r.groups →
    s.group? u = some g → s.block? g.block = some b → ∀ how,
    let t := (s.killGroups r r.groups how).dropRecord r.num
    (∀ x ∈ t.blocks, x.uid ≠ b.uid) ∧ (∀ x ∈ t.groups, x.block ≠ b.uid) ∧ (∀ x ∈ t.records, x.num ≠ r.num) ∧
    (how = .counted → b.relaunches < 2 → (∀ n, b.kind ≠ .replay n) →
      ∃ e ∈ t.queue, e.what = .again b.grid b.bid (b.relaunches + 1) ∧ e.slot = b.slot ∧ e.prio = b.task.prio)) ∧
  (∀ (s : State) n, (s.dropRecord n).records = s.records.filter (fun r => r.num ≠ n) ∧
    (s.dropRecord n).mem = s.mem ∧ (s.dropRecord n).groups = s.groups) ∧
  (∀ (g : Group) (n : Nat) (l : Nat), l < g.lanes.length → (g.lane l).st = .parked (.fault n) →
    ((g.unfault n .runnable true).lane l).st = .runnable ∧
    ((g.unfault n .runnable true).lane l).pc = (g.lane l).skipTo ∧
    ((g.unfault n .runnable false).lane l).pc = (g.lane l).pc) ∧
  (∀ (s : State) (r : Record) (u : Nat) g c, (∀ o ∈ s.lateOps, o.record ≠ some r.num) →
    (∀ x ∈ s.replayed, x.record ≠ some r.num) → (∀ e ∈ s.engines, e.record ≠ some r.num) →
    s.group? u = some g → u ∈ r.groups → g.clause = some c → c.wait = some .answers →
    After (s.retry r) u fun g' => g'.clause = some { c with wait := none } ∧
      g'.lanes = (g.unfault r.num .runnable false).lanes) ∧
  (∀ (u : Nat) s g, s.group? u = some g → 256 ≤ s.buffered (s.clusterOf g) →
    exec (.faultBufferRetry u) s = .next s) ∧
  ∀ (u : Nat) s g c, s.group? u = some g → s.buffered (s.clusterOf g) < 256 → g.clause = some c →
    c.wait = some .faultBuffer → (∀ r ∈ s.replayed, r.group = u → r.record ≠ none) →
    (∀ e ∈ s.engines, e.group = u → e.record ≠ none) →
    Answers (exec (.faultBufferRetry u) s) fun t => OnlyGroup s t u ∧ After t u fun g' =>
      g' = { g with clause := some { c with wait := none } }

/-! ### The service's messages -/

namespace Sys2Proof.Claims

/-- A request that the service runs: it is well-formed, of a slot that is not FREE and that is bound to the
connection (R408, R409). -/
def Served (s : State) (q : Req) : Prop :=
  s.running ≠ none ∧ q.bad = false ∧ q.slot.val ≠ 0 ∧ (s.ctx q.slot.val).state ≠ .free ∧
    (s.ctx q.slot.val).conn = some q.conn

/-- The response to a request: one message, of the request's code plus 0x80, its tag and its connection. -/
def Responds (o : Host.Outcome State Fault Refusal) (s : State) (q : Req) (op status : Nat)
    (payload : List Byte) (P : State → Prop) : Prop :=
  Answers o fun t => t.outbox.head? = some {
      op := op + 0x80, conn := some q.conn, tag := q.tag, slot := q.slot.val, status := status, stamp := q.stamp
      payload := payload } ∧ t.outbox.length = s.outbox.length + 1 ∧ P t

/-- The requests that only a slot's own connection may make, with their codes (R408). -/
def bound (q : Req) (i : Instr) (op : Nat) : Prop :=
  (∃ a, i = .destroy q a ∧ op = 0x02) ∨ (∃ x, i = .mapPages q x ∧ op = 0x03) ∨
  (∃ a n, i = .unmapPages q a n ∧ op = 0x04) ∨ (∃ a l v p, i = .residency q a l v p ∧ op = 0x05) ∨
  (∃ r x, i = .enqueue q r x ∧ op = 0x06) ∨ (∃ a n, i = .readMem q a n ∧ op = 0x07) ∨
  (∃ a x, i = .writeMem q a x ∧ op = 0x08) ∨ (∃ n x, i = .watchRequest q n x ∧ op = 0x09) ∨
  (∃ a t, i = .replayRequest q a t ∧ op = 0x0A) ∨ (i = .raslogRequest q ∧ op = 0x0C) ∨
  (∃ t a, i = .svcanswer q t a ∧ op = 0x10) ∨ (∃ t a, i = .faultanswer q t a ∧ op = 0x11) ∨
  (∃ t, i = .resume q t ∧ op = 0x12)

end Sys2Proof.Claims

/-- Who may ask: a request that cannot be read, or of slot 0, is answered BADREQ; of a FREE slot, ABSENT; of a slot
bound to another connection, DENIED; and nothing else happens but that a request calls the service's halted groups
(R356, R407, R408, R409, R411). -/
def Sys2Proof.Claims.RequestChecks : Prop :=
  ∀ (q : Req) s i op, bound q i op → s.running ≠ none →
    let only (st : Nat) : Prop := Responds (exec i s) s q op st (if op = 0x06 then natLe 4 0 else []) fun t =>
      { t with outbox := [] } = { s.callHalted with outbox := [] }
    (q.bad = true ∨ q.slot.val = 0 → only 1) ∧
    (q.bad = false → q.slot.val ≠ 0 → (s.ctx q.slot.val).state = .free → only 2) ∧
    (q.bad = false → q.slot.val ≠ 0 → (s.ctx q.slot.val).state ≠ .free → (s.ctx q.slot.val).conn ≠ some q.conn → only 4) ∧
    s.callHalted.groups = s.groups.map fun g => { g with lanes := g.lanes.map called }

/-- The requests about contexts and memory: CREATE loads a FREE slot and DESTROY saves a LIVE one, answered later; MAP
stores its entries, unless one has a reserved bit set or maps memory left out of every map or retired, UNMAP clears V and drops
the translations, RESIDENCY sets or clears a page's bit, ENQUEUE appends entries, READ returns the bytes and WRITE
stores them (R309, R365, R408, R411, R422). -/
def Sys2Proof.Claims.MemoryRequests : Prop :=
  (∀ (q : Req) (a : DWord) s, s.running ≠ none → q.bad = false → q.slot.val ≠ 0 →
    (s.ctx q.slot.val).state = .free → a.toNat < 2 ^ 52 → a.toNat % 4096 = 0 →
    s.imageBad q.slot.val (Memory.reads s.mem a.toNat 256) = false →
    Answers (exec (.create q a) s) fun t => (t.ctx q.slot.val).state = .loading ∧
      (t.ctx q.slot.val).ccb = parseCcb (Memory.reads s.mem a.toNat 256) ∧ (t.ctx q.slot.val).saveAt = a ∧
      (t.ctx q.slot.val).conn = some q.conn ∧ (t.ctx q.slot.val).asked = some q ∧ t.mem = s.mem) ∧
  (∀ (q : Req) (a : DWord) s, s.running ≠ none → q.bad = false → q.slot.val ≠ 0 →
    (s.ctx q.slot.val).state ≠ .free →
    Responds (exec (.create q a) s) s q 0x01 5 [] fun t =>
      { t with outbox := [] } = { s.callHalted with outbox := [] }) ∧
  (∀ (q : Req) (a : DWord) s, s.running ≠ none → q.bad = true ∨ q.slot.val = 0 →
    Responds (exec (.create q a) s) s q 0x01 1 [] fun t =>
      { t with outbox := [] } = { s.callHalted with outbox := [] }) ∧
  (∀ (q : Req) (a : DWord) s, Served s q → (s.ctx q.slot.val).state = .live → a.toNat < 2 ^ 52 → a.toNat % 4096 = 0 →
    Answers (exec (.destroy q a) s) fun t => (t.ctx q.slot.val).state = .saving ∧ (t.ctx q.slot.val).saveAt = a ∧
      t.mem = s.mem) ∧
  (∀ (q : Req) x s, Served s q →
    let c := s.ctx q.slot.val
    let t := x.foldl (fun s e => s.physWrite e.1.toNat ((natLe 16 e.2.toNat).map fun b => (b, false))) s.callHalted
    let inside (m : List Host.Cell) (e : DWord × Name) : Prop :=
      inTables m c.slot e.1.toNat 4 c.ccb.ptroot.toNat = true
    let level (e : DWord × Name) : Nat := (tableLevelOf t.mem c.slot e.1.toNat 4 c.ccb.ptroot.toNat).getD 0
    x.length ≤ 682 → (∀ e ∈ x, s.barred (level e) e.2 = false) →
    (∀ e ∈ x, e.1.toNat < 2 ^ 52 ∧ e.1.toNat % 16 = 0 ∧ (inside s.mem e ∨ inside t.mem e)) →
    Responds (exec (.mapPages q x) s) s q 0x03 0 [] fun t' => t'.mem = t.mem ∧
      ((∀ e ∈ x, revalid s.mem e = false) → t'.tlbs = s.tlbs) ∧
      ((∃ e ∈ x, revalid s.mem e = true) → ∀ l ∈ t'.tlbs, l.slot ≠ c.slot)) ∧
  (∀ (q : Req) x s, Served s q → let c := s.ctx q.slot.val
    let t := x.foldl (fun s e => s.physWrite e.1.toNat ((natLe 16 e.2.toNat).map fun b => (b, false))) s.callHalted
    (682 < x.length ∨ ∃ e ∈ x,
      s.barred ((tableLevelOf t.mem c.slot e.1.toNat 4 c.ccb.ptroot.toNat).getD 0) e.2 = true) →
    Responds (exec (.mapPages q x) s) s q 0x03 1 [] fun t =>
      { t with outbox := [] } = { s.callHalted with outbox := [] }) ∧
  (∀ (q : Req) (a : DWord) (n : Word) s, Served s q → canonical a = true → a.toNat % 65536 = 0 →
    Responds (exec (.unmapPages q a n) s) s q 0x04 0 [] fun t => ∀ l ∈ t.tlbs,
      ¬ (l.slot = (s.ctx q.slot.val).slot ∧ vaUnit a.toNat ≤ l.unit ∧ l.unit < vaUnit a.toNat + n.toNat)) ∧
  (∀ (q : Req) (a : DWord) s x, Served s q → canonical a = true → a.toNat % 65536 = 0 →
    let c := s.ctx q.slot.val
    let v := vaUnit a.toNat * 65536
    s.walk c.slot v = .leaf x → Answers (exec (.unmapPages q a 1) s) fun t => ∀ b,
      let e := leafSlot s.mem c.slot v 4 (s.ctx c.slot).ccb.ptroot.toNat
      Memory.read t.mem b = if b = e then Memory.read s.mem e &&& 0xFE else Memory.read s.mem b) ∧
  (∀ (q : Req) (a : DWord) (l v : Byte) (p : Word) s d t, Served s q →
    l.toNat ≤ d.levels → v.toNat ≤ 1 →
    (v = 1 → s.unitMapped (s.ctx q.slot.val).slot d l.toNat p.toNat = true) →
    s.callHalted.reqDesc (s.ctx q.slot.val).slot a = some d →
    s.callHalted.setResident (s.ctx q.slot.val).slot d l.toNat p.toNat (v == 1) = some t → t.outbox = s.outbox →
    Responds (exec (.residency q a l v p) s) s q 0x05 0 [] fun x => x.mem = t.mem ∧
      ∀ n ∈ t.clustersOf (s.ctx q.slot.val).ccb.part, (x.cluster n).filter = []) ∧
  (∀ (q : Req) (r : Word) x s t n st, Served s q → x ≠ [] → x.length ≤ 2047 →
    State.enqueueAll (s.ctx q.slot.val).slot r.toNat x 0 s.callHalted = (t, n, st) → t.outbox = s.outbox →
    Responds (exec (.enqueue q r x) s) s q 0x06 st.num (natLe 4 n) fun u => u.mem = t.mem ∧ u.ctxs = t.ctxs) ∧
  (∀ (q : Req) (r : Word) x s, Served s q → (x = [] ∨ 2047 < x.length) →
    Responds (exec (.enqueue q r x) s) s q 0x06 1 (natLe 4 0) fun u => u.mem = s.mem) ∧
  (∀ (q : Req) (a : DWord) (n : Word) s bytes, Served s q → canonical a = true → n ≠ 0 → n.toNat ≤ 16384 →
    s.callHalted.readRange (s.callHalted.reqWho (s.ctx q.slot.val).slot) (n.toNat + 1) a.toNat n.toNat = .ok bytes →
    Responds (exec (.readMem q a n) s) s q 0x07 0 bytes fun t =>
      { t with outbox := [] } = { s.callHalted with outbox := [] }) ∧
  ∀ (q : Req) (a : DWord) x s ps, Served s q → canonical a = true → x.length ≤ 16376 →
    let h := s.callHalted
    h.storeRun (h.reqWho (s.ctx q.slot.val).slot) (x.length + 1) a.toNat (x.map fun b => (b, false)) = .ok ps →
    exec (.writeMem q a x) s = .next ((h.perform (h.reqWho (s.ctx q.slot.val).slot) ps).respond q 0x08 .ok [])

/-- Who may ask: a request that cannot be read, or of slot 0, is answered BADREQ; of a FREE slot, ABSENT; of a
slot bound to another connection, DENIED; and nothing else happens but that a request calls the service's halted
groups (R356, R407, R408, R409, R411). The requests about contexts and memory: CREATE loads a FREE slot and
DESTROY saves a LIVE one, answered later; MAP stores its entries, unless one has a reserved bit set or maps
memory left out of every map or retired, UNMAP clears V and drops the translations, RESIDENCY sets or clears a
page's bit, ENQUEUE appends entries, READ returns the bytes and WRITE stores them (R309, R365, R408, R411,
R422). Where the spec leaves a choice the model takes that of log entries 91 and 92. -/
def Obligations.Requests : Prop :=
  Sys2Proof.Claims.RequestChecks ∧
    Sys2Proof.Claims.MemoryRequests

/-- The other requests: WATCH and REPLAY launch a one-thread service task in a context with DEBUG and are DENIED
without it; TELEMETRY, RASLOG, ATTEST and BOOTSTATUS report; the answers to events let their lanes go on; BIND
with the slot's token binds it and sends the held events in order; a closed connection leaves its slots unbound
(R410, R411, R412, R413, R421). Where the spec leaves a choice the model takes that of log entries 90, 93 and
94. -/
def Obligations.OtherRequests : Prop :=
  (∀ (q : Req) (n : Byte) x s, Served s q → n.toNat ≤ 15 → x.length = 64 → specBad x = false →
    ((s.ctx q.slot.val).ccb.debug = false →
      Responds (exec (.watchRequest q n x) s) s q 0x09 4 [] fun t =>
        { t with outbox := [] } = { s.callHalted with outbox := [] }) ∧
    ((s.ctx q.slot.val).ccb.debug = true → s.clustersOf (s.ctx q.slot.val).ccb.part ≠ [] →
      exec (.watchRequest q n x) s = .next (s.callHalted.launchService q (.watch n.toNat x)))) ∧
  (∀ (q : Req) (a t : DWord) s, Served s q → wellFormed a 64 → wellFormed t 64 →
    (s.ctx q.slot.val).ccb.debug = true → s.clustersOf (s.ctx q.slot.val).ccb.part ≠ [] →
    exec (.replayRequest q a t) s = .next (s.callHalted.launchService q (.replay a t))) ∧
  (∀ (q : Req) s, s.running ≠ none → q.bad = false → q.slot.val ≠ 0 → (s.ctx q.slot.val).state ≠ .free →
    Responds (exec (.telemetry q) s) s q 0x0B 0 s.telemetryBytes fun t =>
      { t with outbox := [] } = { s.callHalted with outbox := [] }) ∧
  (∀ (q : Req) s, Served s q → s.ras.length ≤ 32 → s.rasDropped = 0 →
    Responds (exec (.raslogRequest q) s) s q 0x0C 0 (natLe 4 s.ras.length ++ s.ras.flatMap Ras.bytes)
      fun t => t.ras = []) ∧
  (∀ (q : Req) x s, s.running ≠ none → q.bad = false → q.slot.val ≠ 0 → (s.ctx q.slot.val).state ≠ .free →
    x.length = 32 → s.leaf < 32768 → Answers (exec (.attest q x) s) fun t => t.leaf = s.leaf + 1 ∧
      ∃ m, t.outbox = m :: s.outbox ∧ m.op = 0x8D ∧ m.status = 0 ∧ m.payload.take 32 = x ∧
        ((m.payload.drop (s.attested x s.leaf).length).length = 1616)) ∧
  (∀ (q : Req) x s, s.running ≠ none → q.bad = false → q.slot.val ≠ 0 → (s.ctx q.slot.val).state ≠ .free →
    x.length = 32 → 32768 ≤ s.leaf → Responds (exec (.attest q x) s) s q 0x0D 6 [] fun t => t.leaf = s.leaf) ∧
  (∀ (q : Req) s, q.bad = false → (s.running = none ∨ q.slot.val ≠ 0 ∧ (s.ctx q.slot.val).state ≠ .free) →
    Responds (exec (.bootstatus q) s) s q 0x0E 0
      (natLe 4 s.bringup0.toNat ++ natLe 4 s.lpok.toNat ++ natLe 4 s.tomup.toNat) fun t =>
        { t with outbox := [], groups := [] } = { s with outbox := [], groups := [] }) ∧
  (∀ (q : Req) s, q.bad = false → s.running ≠ none → q.slot.val ≠ 0 → (s.ctx q.slot.val).state = .free →
    Responds (exec (.bootstatus q) s) s q 0x0E 2 [] fun t => t.mem = s.mem) ∧
  (∀ (q : Req) (t a : Word) s n u m g, Served s q → s.eventOf (s.ctx q.slot.val).slot t = some (n, .svc u m) →
    s.group? u = some g → Responds (exec (.svcanswer q t a) s) s q 0x10 0 [] fun x => x.mem = s.mem ∧
      After x u fun g' => g'.svcarg = a ∧ ∀ l, l < g.lanes.length →
        (g'.lane l).st = if (g.lane l).st = .parked (.svc n) then .runnable else (called (g.lane l)).st) ∧
  (∀ (q : Req) (t a : Word) s e n r, Served s q → s.eventOf (s.ctx q.slot.val).slot t = some (e, .fault n) →
    s.records.find? (fun r => r.num == n) = some r → 1 ≤ a.toNat → a.toNat ≤ 4 →
    exec (.faultanswer q t a) s = .next ((s.callHalted.answer r a.toNat).mirror.respond q 0x11 .ok [])) ∧
  (∀ (q : Req) (t : Word) s e n r u g, Served s q → s.eventOf (s.ctx q.slot.val).slot t = some (e, .brk n) →
    r ∈ s.records → r.num = n → u ∈ r.groups →
    s.group? u = some g → Responds (exec (.resume q t) s) s q 0x12 0 [] fun x => x.mem = s.mem ∧
      (∀ k ∈ x.records, k.num ≠ n) ∧ (∀ k ∈ x.awaited, k.2.2.2 ≠ .brk n) ∧
      After x u fun g' => ∀ l, l < g.lanes.length →
        (g'.lane l).st = if (g.lane l).st = .parked (.brk n) then .runnable else (called (g.lane l)).st) ∧
  (∀ (q : Req) (t : DWord) s, s.running ≠ none → q.bad = false → q.slot.val ≠ 0 → (s.ctx q.slot.val).state ≠ .free →
    ((s.ctx q.slot.val).token ≠ some t → Responds (exec (.bindSlot q t) s) s q 0x13 4 [] fun x =>
      { x with outbox := [] } = { s.callHalted with outbox := [] }) ∧
    ((s.ctx q.slot.val).token = some t → (s.ctx q.slot.val).conn ≠ none →
      Responds (exec (.bindSlot q t) s) s q 0x13 5 [] fun x =>
        { x with outbox := [] } = { s.callHalted with outbox := [] }) ∧
    ((s.ctx q.slot.val).token = some t → (s.ctx q.slot.val).conn = none →
      Answers (exec (.bindSlot q t) s) fun x => (x.ctx q.slot.val).conn = some q.conn ∧ (x.ctx q.slot.val).held = [] ∧
        (x.ctx q.slot.val).dropped = 0 ∧ x.mem = s.mem ∧
        ∃ m, x.outbox = (((s.ctx q.slot.val).held.map fun h => { h with conn := some q.conn }).reverse) ++ m :: s.outbox ∧
          m.op = 0x93 ∧ m.status = 0)) ∧
  (∀ (n : Nat) s, Answers (exec (.connectionClose n) s) fun t => { t with ctxs := [] } = { s with ctxs := [] } ∧
    t.ctxs.length = s.ctxs.length ∧ ∀ c ∈ t.ctxs, c.conn ≠ some n) ∧
  ∀ (p : Fin 4) s, Answers (exec (.uePacketRefused p) s) fun t =>
    tget 0 t.drops p.val = tget 0 s.drops p.val + 1 ∧ (∀ k, k ≠ p.val → tget 0 t.drops k = tget 0 s.drops k) ∧
      { t with drops := [] } = { s with drops := [] }

/-! ### Heat, errors, rails, links, boot -/

/-- Heat and background work: readings are kept, an engine switches once a period when its site is hotter by more
than 3 degrees, GOVERNOR_PERIOD ends the period of the first unit listed, whose budget starts again (which unit comes
first: log entry 133), and an operation of a background unit stays within the
budget and changes no byte (R7, R398, R401). -/
def Sys2Proof.Claims.Background : Prop :=
  (∀ (c : Fin 8) (i v : Nat) s, Answers (exec (.thermalSample c [(i, v)]) s) fun t => (t.cluster c.val).reading i = v ∧
      (∀ k, k ≠ i → (t.cluster c.val).reading k = (s.cluster c.val).reading k) ∧ t.mem = s.mem) ∧
  (∀ (c : Fin 8) (k : Fin 32) s, Answers (exec (.engineSwitch c k) s) fun t => t.mem = s.mem ∧ t.groups = s.groups ∧
    (t.coreOf c.val k.val).engine =
      if (s.cluster c.val).engineHot k.val = true ∧ (s.coreOf c.val k.val).switched = false then
        !(s.coreOf c.val k.val).engine else (s.coreOf c.val k.val).engine) ∧
  (∀ s, s.periods = [] → exec .governorPeriod s = .next s) ∧
  (∀ s u us, s.periods = u :: us → Answers (exec .governorPeriod s) fun t => t.mem = s.mem ∧ t.groups = s.groups ∧
    t.periods = us ∧ tget 0 t.scrubbed (scrubBudget u).1 = 0 ∧
    (∀ k, k ≠ (scrubBudget u).1 → tget 0 t.scrubbed k = tget 0 s.scrubbed k) ∧
    (∀ k, u = .pool k → (t.coreOf (k / 32) (k % 32)).switched = false)) ∧
  ∀ (u : ScrubUnit) s, Answers (exec (.patrolScrub u) s) fun t => { t with scrubbed := [] } = { s with scrubbed := [] } ∧
    (tget 0 s.scrubbed (scrubBudget u).1 ≤ (scrubBudget u).2 →
      tget 0 t.scrubbed (scrubBudget u).1 ≤ (scrubBudget u).2)

namespace Sys2Proof.Claims

/-- The groups are as before, but that the service's halted groups may have been called (R356). -/
def Heard (s t : State) : Prop := t.groups = s.groups ∨ t.groups = s.callHalted.groups

end Sys2Proof.Claims

/-- Errors: a corrected one is recorded, and the fourth of one block within ten minutes asks for the page's
retirement; an uncorrectable one marks the half or the block's 64 bytes, changes no value and, in memory, asks
for the page's retirement; a page of a full table or already retired, or with no service, stays; a core's first
logic error in a second ends its block and launches it again, unless it has been launched again twice, and its
second fences the core and launches every block with a group there again, with its count as it is (R375, R376,
R377, R402, R403, R404). Where the spec leaves a choice the model takes that of log entries 61, 102, 103 and
124. -/
def Obligations.Errors : Prop :=
  (∀ (a t : Nat) s, Answers (exec (.correctedError a t) s) fun x => x.mem = s.mem ∧ Heard s x ∧
    (a / 64 * 64, t) ∈ x.corrected ∧
    x.agenda =
      if (s.corrected.filter fun e => decide (t ≤ e.2 + 600000000) && e.1 == a / 64 * 64).length = 3 then
        .retire (a / 64 * 64) t :: s.agenda else s.agenda) ∧
  (∀ (e : ErrorSite) (t : Nat) s, Answers (exec (.uncorrectableError e t) s) fun x => x.mem = s.mem) ∧
  (∀ (pa : Nat) (slice : Option (Fin 8)) (t : Nat) s,
    Answers (exec (.uncorrectableError (.memory pa slice) t) s) fun x =>
      (∀ b, x.marked b = (s.marked b || decide (b / 64 = pa / 64))) ∧
      x.agenda = if slice = none then .retire (pa / 64 * 64) t :: s.agenda else s.agenda) ∧
  (∀ (pa t : Nat) (s : State), s.running = none ∨ pa / 65536 ∈ s.retired ∨
      4096 ≤ (s.retired.filter fun p => tierOf (p * 65536) == tierOf pa).length → s.retirePage pa t = s) ∧
  (∀ (pa t : Nat) (s : State) (tier : Nat × Nat),
    let held (x : State) : Nat := (x.retired.filter fun p => tierOf (p * 65536) == tier).length
    held s ≤ 4096 → held (s.retirePage pa t) ≤ 4096) ∧
  (∀ (u l r h t : Nat) s g, s.group? u = some g → l < g.lanes.length →
    Answers (exec (.uncorrectableError (.vreg u l r h) t) s) fun x => After x u fun g' =>
      (2 * r + h % 2) ∈ (g'.lane l).vPoison ∧ (g'.lane l).v = (g.lane l).v ∧ (g'.lane l).pc = (g.lane l).pc) ∧
  (∀ (c : Fin 8) (k : Fin 32) (u t : Nat) s b, (∀ e ∈ (s.coreOf c.val k.val).errors, e + 1000000 < t) →
    s.block? u = some b → Answers (exec (.logicError c k (some u) t) s) fun x =>
      (x.coreOf c.val k.val).errors = [t] ∧ (x.coreOf c.val k.val).fenced = (s.coreOf c.val k.val).fenced ∧
      (∀ y ∈ x.blocks, y.uid ≠ u) ∧ (∀ y ∈ x.groups, y.block ≠ u) ∧ x.mem = s.mem ∧
      (b.relaunches < 2 → x.queue.head? =
        some ⟨(s.cluster b.cluster).part, b.task.prio, b.slot, .again b.grid b.bid (b.relaunches + 1)⟩)) ∧
  (∀ (c : Fin 8) (k : Fin 32) (t : Nat) s, (∀ e ∈ (s.coreOf c.val k.val).errors, e + 1000000 < t) →
    Answers (exec (.logicError c k none t) s) fun x => (x.coreOf c.val k.val).errors = [t] ∧
      (x.coreOf c.val k.val).fenced = (s.coreOf c.val k.val).fenced ∧ Heard s x) ∧
  ∀ (c : Fin 8) (k : Fin 32) (b : Option Nat) (t : Nat) s, (∃ e ∈ (s.coreOf c.val k.val).errors, t ≤ e + 1000000) →
    Answers (exec (.logicError c k b t) s) fun x => (x.coreOf c.val k.val).fenced = true ∧ x.mem = s.mem ∧
      ∀ y, y ∈ s.blocksOn c.val k.val → s.block? y.uid = some y →
        (∀ z ∈ x.blocks, z.uid ≠ y.uid) ∧ (∀ z ∈ x.groups, z.block ≠ y.uid) ∧
        ((∀ n, y.kind ≠ .replay n) → ∃ e ∈ x.queue, e.part = (s.cluster y.cluster).part ∧ e.prio = y.task.prio ∧
          e.slot = y.slot ∧ e.what = .again y.grid y.bid y.relaunches)

/-- The logic rails rise only on a settled SRAM rail, and the SRAM rail falls only when every logic rail is at 0 V
(R10, R397). -/
def Sys2Proof.Claims.Rails : Prop :=
  ∀ s : State,
    Answers (exec .powerUp s) (fun t => t.sramRail = 800 ∧ t.mem = s.mem ∧
      (s.sramRail ≠ 800 → t.clusters = s.clusters) ∧
      (s.sramRail = 800 → ∀ n, n < 8 → (t.cluster n).rail = railOf (t.cluster n).level)) ∧
    Answers (exec .powerDown s) fun t => t.mem = s.mem ∧ (∀ n, n < 8 → (t.cluster n).rail = 0) ∧
      ((∃ n, n < 8 ∧ (s.cluster n).rail ≠ 0) → t.sramRail = s.sramRail) ∧
      ((∀ n, n < 8 → (s.cluster n).rail = 0) → t.sramRail = 0)

/-- Heat and background work: readings are kept, an engine switches once a period when its site is hotter by
more than 3 degrees, GOVERNOR_PERIOD ends the period of the first unit listed, whose budget starts again (which
unit comes first: log entry 133), and an operation of a background unit stays within the budget and changes no
byte (R7, R398, R401). The logic rails rise only on a settled SRAM rail, and the SRAM rail falls only when every
logic rail is at 0 V (R10, R397). Where the spec leaves a choice the model takes that of log entries 100, 101,
104 and 133. -/
def Obligations.BackgroundAndRails : Prop :=
  Sys2Proof.Claims.Background ∧
    Sys2Proof.Claims.Rails

/-- Links: training takes the id of the lowest-numbered switch that trained and keeps the ports whose switch agrees
on it, a port that goes down is cleared in TOMUP, and with no port up every peer is lost; a peer's store writes its
bytes and its atomic the new value; a write to a register of the device pages takes effect as its register says, and
one to any other offset has none (R72, R393, R394, R415, R417, R418, R423; that a value written to a head without
deadlines holds at once: log entry 84; what a peer reaches: log entries 106, 107). -/
def Sys2Proof.Claims.Links : Prop :=
  (∀ (x : List (Option (Fin 144))) (p : Nat) (id : Fin 144) s, p < 18 → x[p]? = some (some id) →
    (∀ q, q < p → x[q]? = some none) →
    Answers (exec (.linkTraining x) s) fun t => t.podId = some id.val ∧ t.lost = [] ∧ t.mem = s.mem ∧
      (∀ i, i < 18 → t.tomup.getLsbD i = decide (x[i]? = some (some id))) ∧
      t.bringup0 = (s.bringup0 &&& 0x00FFFFFF) ||| BitVec.ofNat 32 (2 ^ 24 * id.val)) ∧
  (∀ (x : List (Option (Fin 144))) s, (∀ e ∈ x.take 18, e = none) →
    Answers (exec (.linkTraining x) s) fun t => t.podId = none ∧ t.tomup = 0 ∧ t.lost = List.range 144 ∧ t.mem = s.mem) ∧
  (∀ (p : Fin 18) s, Answers (exec (.portDown p) s) fun t => t.mem = s.mem ∧
    (∀ i, i < 18 → t.tomup.getLsbD i = (s.tomup.getLsbD i && i != p.val)) ∧
    ((∀ i, i < 18 → i ≠ p.val → s.tomup.getLsbD i = false) → t.lost = List.range 144)) ∧
  (∀ pa data s, s.peerRange pa.toNat data.length = true →
    Answers (exec (.peerRequest (.store pa data)) s) fun t => ∀ a, Memory.read t.mem a =
      if pa.toNat ≤ a ∧ a < pa.toNat + data.length then data.getD (a - pa.toNat) 0 else Memory.read s.mem a) ∧
  (∀ pa n s, exec (.peerRequest (.load pa n)) s = .next s) ∧
  (∀ pa (x y : DWord) s, s.peerRange pa.toNat 4 = true → pa.toNat % 4 = 0 → unmarked s pa.toNat 4 →
    Answers (exec (.peerRequest (.rmw .add .u32 pa x y)) s) fun t => ∀ a, a < 4 →
      Memory.read t.mem (pa.toNat + a) = (word4 s.mem pa.toNat + x.setWidth 32).extractLsb' (8 * a) 8) ∧
  (∀ (h : Fin 4) (v : Word) s,
    Answers (exec (.registerWrite (BitVec.ofNat 17 (0x40 * h.val)) v) s) fun t =>
      (t.head h.val).ctl = v &&& 0x00FF3F03 ∧ t.mem = s.mem) ∧
  (∀ (h : Fin 4) (v : Word) s, let x := s.head h.val
    let idle := x.period = 0 ∨ x.ctl.getLsbD 0 = false
    (Answers (exec (.registerWrite (BitVec.ofNat 17 (0x40 * h.val + 4)) v) s) fun t => t.mem = s.mem ∧
      (∀ k, k ≠ h.val → t.head k = s.head k) ∧ (idle → t.head h.val = { x with period := v, newPeriod := none }) ∧
      (¬ idle → t.head h.val = { x with newPeriod := some v })) ∧
    Answers (exec (.registerWrite (BitVec.ofNat 17 (0x40 * h.val + 8)) v) s) fun t => t.mem = s.mem ∧
      (∀ k, k ≠ h.val → t.head k = s.head k) ∧ (idle → t.head h.val = { x with lead := v, newLead := none }) ∧
      (¬ idle → t.head h.val = { x with newLead := some v })) ∧
  (∀ (p : Fin 8) (v : Word) s,
    Answers (exec (.registerWrite (BitVec.ofNat 17 (0x200 + 0x20 * p.val)) v) s) (fun t => t.mem = s.mem ∧
      (t.partOf p.val).saveBase.extractLsb' 0 32 = v ∧
      (t.partOf p.val).saveBase.extractLsb' 32 32 = (s.partOf p.val).saveBase.extractLsb' 32 32) ∧
    Answers (exec (.registerWrite (BitVec.ofNat 17 (0x204 + 0x20 * p.val)) v) s) (fun t => t.mem = s.mem ∧
      (t.partOf p.val).saveBase.extractLsb' 0 32 = (s.partOf p.val).saveBase.extractLsb' 0 32 ∧
      (t.partOf p.val).saveBase.extractLsb' 32 32 = v &&& 0xFFFFF) ∧
    Answers (exec (.registerWrite (BitVec.ofNat 17 (0x208 + 0x20 * p.val)) v) s) fun t => t.mem = s.mem ∧
      t.partOf p.val = { s.partOf p.val with saveSize := v }) ∧
  (∀ (v : Word) s, Answers (exec (.registerWrite 0x10000 v) s) fun t => t.mem = s.mem ∧
    t.agenda = .route (v.toNat % 64) (v.toNat / 64 % 4096) (v.getLsbD 31) :: s.agenda ∧ t.busyRoutes ≠ []) ∧
  (∀ (v : Word) s, Answers (exec (.registerWrite 0x10008 v) s) (fun t => t.mem = s.mem ∧
      t.frbase.extractLsb' 0 32 = v &&& 0xFFFFF000 ∧ t.frbase.extractLsb' 32 32 = s.frbase.extractLsb' 32 32) ∧
    Answers (exec (.registerWrite 0x1000C v) s) fun t => t.mem = s.mem ∧
      t.frbase.extractLsb' 0 32 = s.frbase.extractLsb' 0 32 ∧ t.frbase.extractLsb' 32 32 = v &&& 0xFFFFF) ∧
  ∀ (a : BitVec 17) (v : Word) s, (∀ h, h < 4 → ∀ k ∈ [0, 4, 8], a.toNat ≠ 0x40 * h + k) →
    (∀ p, p < 8 → ∀ k ∈ [0, 4, 8], a.toNat ≠ 0x200 + 0x20 * p + k) → a.toNat ∉ [0x10000, 0x10008, 0x1000C] →
    exec (.registerWrite a v) s = .next s

namespace Sys2Proof.Claims

/-- The service stands on the Waystation: the machine's blocks are one of slot 0 on each of its eight cores, and its
running lanes begin at the image's ENTRY (R11, R420). -/
def OnWaystation (t : State) (f : Firmware) : Prop :=
  (t.blocks.map fun b => (b.slot, b.cluster, b.cores.map fun c => c.1)) = (List.range 8).map (fun k => (0, 8, [k])) ∧
    t.groups.length = 8 ∧ ∀ g ∈ t.groups, t.clusterOf g = 8 ∧ g.core < 8 ∧ ∀ x ∈ g.lanes, x.st = .runnable →
      x.pc = Config.payloadAt + BitVec.ofNat 64 f.entry

end Sys2Proof.Claims

/-- BOOT: reset, then the first image that verifies; memory, flash and fuses keep what they hold but that the fuses
rise to the image's security version; slot 0 is LIVE with SYS and its groups run the image from its ENTRY; with no image nothing runs (R419, R420, R422,
R423). -/
def Sys2Proof.Claims.Boot : Prop :=
  ∀ (b : BringUp) (s : State),
    (s.afterReset.image 0 = none → s.afterReset.image 0x4000000 = none →
      exec (.boot b) s = .next s.afterReset ∧ s.afterReset.running = none ∧ s.afterReset.groups = []) ∧
    (∀ f sec, s.afterReset.image 0 = some (f, sec) → Answers (exec (.boot b) s) fun t => t.running = some f ∧
      f.offset = 0 ∧ t.fuses = max s.fuses (min 64 sec) ∧ t.mem = s.mem ∧ t.flash = s.flash ∧ t.leaf = s.leaf ∧
      (t.ctx 0).state = .live ∧ (t.ctx 0).ccb.sys = true ∧ t.lpok = b.lpddr ∧ OnWaystation t f) ∧
    ∀ f sec, s.afterReset.image 0 = none → s.afterReset.image 0x4000000 = some (f, sec) →
      Answers (exec (.boot b) s) fun t => t.running = some f ∧ f.offset = 0x4000000 ∧ t.mem = s.mem ∧
        (t.ctx 0).ccb.sys = true ∧ OnWaystation t f

/-- Links: training takes the id of the lowest-numbered switch that trained and keeps the ports whose switch
agrees on it, a port that goes down is cleared in TOMUP, and with no port up every peer is lost; a peer's store
writes its bytes and its atomic the new value; a write to a register of the device pages takes effect as its
register says, and one to any other offset has none (R72, R393, R394, R415, R417, R418, R423; that a value
written to a head without deadlines holds at once: log entry 84; what a peer reaches: log entries 106, 107).
BOOT: reset, then the first image that verifies; memory, flash and fuses keep what they hold but that the fuses
rise to the image's security version; slot 0 is LIVE with SYS and its groups run the image from its ENTRY; with
no image nothing runs (R419, R420, R422, R423). Where the spec leaves a choice the model takes that of log
entries 105, 106, 107, 123 and 134. -/
def Obligations.LinksAndBoot : Prop :=
  Sys2Proof.Claims.Links ∧
    Sys2Proof.Claims.Boot

/-- The state at reset: no group, block or context, no instruction in flight, an overflow table entry of 0x0015
for a context that is created, the display heads off with LEADTIME 200,000 and no frame counted; memory is
canonical (R98, R344, R394). Where the spec leaves a choice the model takes that of log entries 5, 8, 9 and 10. -/
def Obligations.ResetState : Prop :=
  Memory.wf State.reset.mem = true ∧ State.reset.groups = [] ∧ State.reset.blocks = [] ∧ State.reset.records = [] ∧
    (∀ c, (State.reset.ctx c).state = .free ∧ (State.reset.ctx c).ccb.ovt = 0x0015) ∧
    (∀ h, (State.reset.head h).ctl = 0 ∧ (State.reset.head h).lead = 200000 ∧ (State.reset.head h).period = 0 ∧
      (State.reset.head h).misses = 0 ∧ (State.reset.head h).frames = 0) ∧
    (∀ a, Memory.read State.reset.mem a = 0) ∧ State.reset.running = none
end

