-- ==== Sys2Proof/Laws/Fields.lean ====
section
/-! SUPPORT. What the fields of an encoded word read as: the class and opcode and the three fields of a
T3 word, the fields of an XM word, and the number of words that follow from them (06 R125, R128). -/

namespace Sys2Proof.Laws

/-- The fields below the opcode fit. -/
abbrev Fits (d a b : Nat) : Prop := d * 2 ^ 14 + a * 2 ^ 7 + b < 2 ^ 21

theorem wd_lt {op d a b : Nat} (ho : op < 2 ^ 11) (h : Fits d a b) : wd op d a b < 2 ^ 32 := by
  unfold Fits at h
  have : wd op d a b = op * 2 ^ 21 + (d * 2 ^ 14 + a * 2 ^ 7 + b) := by unfold wd; omega
  omega

theorem fld_class_wd {op d a b : Nat} (ho : op < 2 ^ 11) (h : Fits d a b) : fld (wd op d a b) 28 4 = op / 128 := by
  unfold Fits at h; unfold fld wd; omega

theorem fld_opcode_wd {op d a b : Nat} (h : Fits d a b) : fld (wd op d a b) 21 7 = op % 128 := by
  unfold Fits at h; unfold fld wd; omega

theorem r7_dest_wd {op a b : Nat} {d : Fin 128} (h : a * 2 ^ 7 + b < 2 ^ 14) : r7 (wd op d.val a b) 14 = d := by
  apply Fin.ext; simp only [r7, wd]; omega

theorem r7_first_wd {op d b : Nat} {a : Fin 128} (h : b < 2 ^ 7) : r7 (wd op d a.val b) 7 = a := by
  apply Fin.ext; simp only [r7, wd]; omega

theorem r7_second_wd {op d a : Nat} {b : Fin 128} : r7 (wd op d a b.val) 0 = b := by
  apply Fin.ext; simp only [r7, wd]; omega

theorem r4_dest_wd {op a b : Nat} {d : Fin 16} (h : a * 2 ^ 7 + b < 2 ^ 14) : r4 (wd op d.val a b) 14 = d := by
  apply Fin.ext; simp only [r4, wd]; omega

theorem r4_first_wd {op d b : Nat} {a : Fin 16} (h : b < 2 ^ 7) : r4 (wd op d a.val b) 7 = a := by
  apply Fin.ext; simp only [r4, wd]; omega

theorem r4_second_wd {op d a : Nat} {b : Fin 16} : r4 (wd op d a b.val) 0 = b := by
  apply Fin.ext; simp only [r4, wd]; omega

theorem imm7_wd {op d a : Nat} {i : BitVec 7} : imm 7 (wd op d a i.toNat) = i := by
  apply BitVec.eq_of_toNat_eq; simp only [imm, wd, BitVec.toNat_ofNat]; omega

theorem imm14_wd {op d : Nat} {i : BitVec 14} : imm 14 (wd op d 0 i.toNat) = i := by
  apply BitVec.eq_of_toNat_eq; simp only [imm, wd, BitVec.toNat_ofNat]; omega

theorem imm21_wd {op : Nat} {i : BitVec 21} : imm 21 (wd op 0 0 i.toNat) = i := by
  apply BitVec.eq_of_toNat_eq; simp only [imm, wd, BitVec.toNat_ofNat]; omega

/-! ### The bounds of the codes (R128, R129) -/

theorem rnd_code_lt (x : Rnd) : x.code < 4 := by cases x <;> simp [Rnd.code]

theorem sem_code_lt (x : Sem) : x.code < 4 := by cases x <;> simp [Sem.code]

theorem scope_code_lt (x : Scope) : x.code < 5 := by cases x <;> simp [Scope.code]

theorem specReg_code_lt (x : SpecReg) : x.code < 18 := by cases x <;> simp [SpecReg.code]

theorem fTy_code_lt (x : FTy) : x.code < 4 := by cases x <;> simp [FTy.code]

theorem fCond_code_lt (x : FCond) : x.code < 7 := by cases x <;> simp [FCond.code]

theorem numTy_code_lt (x : NumTy) : x.code < 10 := by cases x <;> simp [NumTy.code]

theorem prec_code_lt (x : Prec) : x.code < 2 := by cases x <;> simp [Prec.code]

theorem redOp_code_lt (x : RedOp) : x.code < 6 := by cases x <;> simp [RedOp.code]

theorem redTy_code_lt (x : RedTy) : x.code < 10 := by cases x <;> simp [RedTy.code]

theorem ldSize_code_lt (x : LdSize) : x.code < 7 := by cases x <;> simp [LdSize.code]

theorem lodSize_code_lt (x : LodSize) : x.code < 5 := by cases x <;> simp [LodSize.code]

theorem stNarrow_code_lt (x : StNarrow) : x.code < 8 := by cases x <;> simp [StNarrow.code]

theorem texMode_code_lt (x : TexMode) : x.code < 3 := by cases x <;> simp [TexMode.code]

theorem brickTy_tya_lt (x : BrickTy) : x.tya < 11 := by cases x <;> simp [BrickTy.tya]

theorem atomOp_code_lt (x : AtomOp) : x.code < 8 := by cases x <;> simp [AtomOp.code]

theorem atomTy_code_lt (x : AtomTy) : x.code < 9 := by cases x <;> simp [AtomTy.code]

theorem matTy_code_lt (x : MatTy) : x.code < 11 := by cases x <;> simp [MatTy.code]

theorem matShape_code_lt (x : MatShape) : x.code < 3 := by cases x <;> simp [MatShape.code]

theorem tileTy_code_lt (x : TileTy) : x.code < 9 := by cases x <;> simp [TileTy.code]

theorem quantTy_tya_lt (x : QuantTy) : x.tya < 11 := by cases x <;> simp [QuantTy.tya]

theorem brickTy_tyb_lt (x : BrickTy) : x.tyb < 7 := by
  cases x with
  | bfp m => exact m.isLt
  | int8 | f16 | bf16 => decide

theorem quantTy_tyb_lt (x : QuantTy) : x.tyb < 7 := by
  cases x with
  | bfp m => exact m.isLt
  | int8 => decide

theorem matShape_viewNo_lt (x : MatShape) : x.viewNo < 16 := by
  cases x with
  | view n => exact n.isLt
  | whole | deep => decide

theorem optCode_lt (q : Option Scope) : Scope.optCode q < 5 := by
  cases q with
  | none => decide
  | some w => exact scope_code_lt w

theorem isSome_code_lt (q : Option Scope) (n : Nat) (h : n < 4) : (if q.isSome then n else 0) < 4 := by
  split <;> omega

/-- Every field is within its width. -/
structure Xm.Fits (x : Xm) : Prop where
  c : x.c < 128
  scope : x.scope < 8
  sem : x.sem < 4
  rnd : x.rnd < 4
  opc : x.opc < 16
  tya : x.tya < 16
  tyb : x.tyb < 16
  am : x.am < 4
  sc : x.sc < 2
  xi : x.xi < 2
  rsv : x.rsv < 4

/-- The fields that are not the address's, each within its width. -/
theorem xm_fits {c scope sem rnd opc tya tyb : Nat}
    (h : c < 128 ∧ scope < 8 ∧ sem < 4 ∧ rnd < 4 ∧ opc < 16 ∧ tya < 16 ∧ tyb < 16) :
    Xm.Fits ⟨c, scope, sem, rnd, opc, tya, tyb, 0, 0, 0, 0⟩ :=
  ⟨h.1, h.2.1, h.2.2.1, h.2.2.2.1, h.2.2.2.2.1, h.2.2.2.2.2.1, h.2.2.2.2.2.2, Nat.zero_lt_succ _,
    Nat.zero_lt_succ _, Nat.zero_lt_succ _, Nat.zero_lt_succ _⟩

theorem xm_toNat_lt {x : Xm} (h : Xm.Fits x) : x.toNat < 2 ^ 32 := by
  obtain ⟨_, _, _, _, _, _, _, _, _, _, _⟩ := h
  unfold Xm.toNat; omega

/-- The fields of the XM word of some fields are those fields. -/
theorem xm_ofNat_toNat {x : Xm} (h : Xm.Fits x) : Xm.ofNat x.toNat = x := by
  obtain ⟨_, _, _, _, _, _, _, _, _, _, _⟩ := h
  cases x
  simp only [Xm.ofNat, Xm.toNat, fld, Xm.mk.injEq] at *
  refine ⟨?_, ?_, ?_, ?_, ?_, ?_, ?_, ?_, ?_, ?_, ?_⟩ <;> omega

theorem fld_xi {x : Xm} (h : Xm.Fits x) : fld x.toNat 2 1 = x.xi := congrArg Xm.xi (xm_ofNat_toNat h)

theorem hasXm_eq {w v : Nat} (hc : fld w 28 4 = fld v 28 4) (ho : fld w 21 7 = fld v 21 7) : hasXm w = hasXm v := by
  unfold hasXm; rw [hc, ho]

theorem hasXi_eq {w v : Nat} (hc : fld w 28 4 = fld v 28 4) (ho : fld w 21 7 = fld v 21 7) : hasXi w = hasXi v := by
  unfold hasXi; rw [hc, ho]

/-- The number of words depends on the class and the opcode and, with an XM word, on its XI bit (R128). -/
theorem wordCount_eq {w x v y : Nat} (hc : fld w 28 4 = fld v 28 4) (ho : fld w 21 7 = fld v 21 7)
    (hx : fld x 2 1 = fld y 2 1) : wordCount w x = wordCount v y := by
  unfold wordCount; rw [hasXm_eq hc ho, hasXi_eq hc ho, hx]

theorem wordCount_wd {op d a b x y : Nat} (ho : op < 2 ^ 11) (h : Fits d a b) (hx : fld x 2 1 = fld y 2 1) :
    wordCount (wd op d a b) x = wordCount (op * 2 ^ 21) y := by
  refine wordCount_eq ?_ ?_ hx
  · rw [fld_class_wd ho h]; unfold fld; omega
  · rw [fld_opcode_wd h]; unfold fld; omega

/-- The words are 32-bit values and as many as the fetch takes them to be. -/
def Counted (ws : List Nat) : Prop :=
  (∀ n ∈ ws, n < 2 ^ 32) ∧ ws.length = wordCount (ws.getD 0 0) (ws.getD 1 0)

theorem counted_one {op d a b : Nat} (ho : op < 2 ^ 11) (h : Fits d a b) (hw : wordCount (op * 2 ^ 21) 0 = 1) :
    Counted [wd op d a b] :=
  ⟨by simpa using wd_lt ho h, by simpa using ((wordCount_wd ho h rfl).trans hw).symm⟩

/-- A word of class 0xF (R131, R147): it has no XM word and no XI word. -/
theorem counted_hint {w : Nat} (h : w < 2 ^ 32) (hc : fld w 28 4 = 15) : Counted [w] := by
  have hm : hasXm w = false := by unfold hasXm; rw [hc]; rfl
  have hi : hasXi w = false := by unfold hasXi; rw [hc]; rfl
  exact ⟨by simpa using h, by simp [wordCount, hm, hi]⟩

theorem counted_two {op d a b x : Nat} (y : Nat) (ho : op < 2 ^ 11) (h : Fits d a b) (hx : x < 2 ^ 32)
    (hy : fld x 2 1 = fld y 2 1) (hw : wordCount (op * 2 ^ 21) y = 2) : Counted [wd op d a b, x] :=
  ⟨by simpa using ⟨wd_lt ho h, hx⟩, by simpa using ((wordCount_wd ho h hy).trans hw).symm⟩

/-- With an XM word whose XI bit is 0. -/
theorem counted_xm {op d a b : Nat} {x : Xm} (ho : op < 2 ^ 11) (h : Fits d a b) (hx : Xm.Fits x) (h0 : x.xi = 0)
    (hw : wordCount (op * 2 ^ 21) 0 = 2) : Counted [wd op d a b, x.toNat] :=
  counted_two 0 ho h (xm_toNat_lt hx) (by rw [fld_xi hx, h0]; rfl) hw

/-- With an XI word that always follows: its bits count for nothing. -/
theorem counted_xi {op d a b : Nat} {x : Word} (ho : op < 2 ^ 11) (h : Fits d a b) (hm : hasXm (op * 2 ^ 21) = false)
    (hi : hasXi (op * 2 ^ 21) = true) : Counted [wd op d a b, x.toNat] := by
  have hc : fld (wd op d a b) 28 4 = fld (op * 2 ^ 21) 28 4 := by
    rw [fld_class_wd ho h]; unfold fld; omega
  have hp : fld (wd op d a b) 21 7 = fld (op * 2 ^ 21) 21 7 := by
    rw [fld_opcode_wd h]; unfold fld; omega
  have hm' := (hasXm_eq hc hp).trans hm
  have hi' := (hasXi_eq hc hp).trans hi
  refine ⟨by simpa using ⟨wd_lt ho h, x.isLt⟩, ?_⟩
  simp [wordCount, hm', hi']

/-- The fields of a memory word that the address leaves to the instruction: none of the address's own. -/
def Xm.Plain (x : Xm) : Prop := x.am = 0 ∧ x.sc = 0 ∧ x.xi = 0

/-- A memory word with XM: one or two words follow, as XM's XI says (R130). -/
theorem counted_mem {op d : Nat} {m : MemX} {x : Xm} (ho : op < 2 ^ 11) (hd : d < 128) (hx : Xm.Fits x)
    (hp : Xm.Plain x) (h2 : wordCount (op * 2 ^ 21) 0 = 2) (h3 : wordCount (op * 2 ^ 21) 4 = 3) :
    Counted (wd op d m.reg m.low :: m.tail x) := by
  rcases x with ⟨xc, xscope, xsem, xrnd, xopc, xtya, xtyb, _, _, _, xrsv⟩
  obtain ⟨p1, p2, p3⟩ := hp
  dsimp only at p1 p2 p3
  subst p1 p2 p3
  have three : ∀ {y : Xm} {b o : Nat} {v : Word}, Laws.Fits d b o → Xm.Fits y → y.xi = 1 →
      Counted [wd op d b o, y.toNat, v.toNat] := by
    intro y b o v hf hy h1
    refine ⟨by simpa using ⟨wd_lt ho hf, xm_toNat_lt hy, v.isLt⟩, ?_⟩
    simpa using ((wordCount_wd (y := 4) ho hf (by rw [fld_xi hy, h1]; rfl)).trans h3).symm
  have wide : ∀ (am : Nat) (sc xi : Bool), am < 4 →
      Xm.Fits ⟨xc, xscope, xsem, xrnd, xopc, xtya, xtyb, am, sc.toNat, xi.toNat, xrsv⟩ := by
    intro am sc xi ha
    obtain ⟨a1, a2, a3, a4, a5, a6, a7, _, _, _, a11⟩ := hx
    exact ⟨a1, a2, a3, a4, a5, a6, a7, ha, Bool.toNat_lt sc, Bool.toNat_lt xi, a11⟩
  have f0 := wide 0 false true (by decide)
  have f1 := fun sc => wide 1 sc false (by decide)
  have f2 := fun sc => wide 1 sc true (by decide)
  have f3 := wide 2 false false (by decide)
  have f4 := wide 2 false true (by decide)
  simp only [Bool.toNat_true, Bool.toNat_false] at f0 f1 f2 f3 f4
  rcases m with ⟨b, o⟩ | ⟨b, v⟩ | ⟨b, i, sc, _ | v⟩ | ⟨a, o⟩ | ⟨a, v⟩ <;>
    simp only [MemX.reg, MemX.low, MemX.tail]
  · exact counted_xm ho (by unfold Laws.Fits; omega) hx rfl h2
  · exact three (by unfold Laws.Fits; omega) f0 rfl
  · exact counted_xm ho (by unfold Laws.Fits; omega) (f1 sc) rfl h2
  · exact three (by unfold Laws.Fits; omega) (f2 sc) rfl
  · exact counted_xm ho (by unfold Laws.Fits; omega) f3 rfl h2
  · exact three (by unfold Laws.Fits; omega) f4 rfl

end Sys2Proof.Laws
end

