-- ==== Sys2Proof/Laws/State.lean ====
section
/-! SUPPORT. The named updates of the state and of a group, field by field: what each leaves as it was. The
field an update changes keeps its own definition, given by the lemma that ends in `_eq`. -/

namespace Sys2Proof.Laws

open Sys2Proof.Machine

variable {s : State} {g : Machine.Group} {u n l r i z p : Nat} {v : BitVec 8192} {w : Word} {m : Mask} {b : Bool}
  {x : Fin 12} {d : Dst} {t : Regs} {c : Ctx} {fG : Machine.Group → Machine.Group} {fB : Block → Block}
  {fD : Grid → Grid} {fU : ClusterState → ClusterState} {fP : PartState → PartState} {fH : Head → Head}
  {fW : Draw → Draw} {fR : Replay → Replay} {fL : Lane → Lane} {fN : Nat → Lane → Lane} {fC : Clause → Clause}


/-! State.setGroup -/

@[simp] theorem state_setGroup_agenda : (s.setGroup g).agenda = s.agenda := rfl
@[simp] theorem state_setGroup_turn : (s.setGroup g).turn = s.turn := rfl
@[simp] theorem state_setGroup_undefCtr : (s.setGroup g).undefCtr = s.undefCtr := rfl
@[simp] theorem state_setGroup_undefCtrs : (s.setGroup g).undefCtrs = s.undefCtrs := rfl
@[simp] theorem state_setGroup_fresh : (s.setGroup g).fresh = s.fresh := rfl
@[simp] theorem state_setGroup_mem : (s.setGroup g).mem = s.mem := rfl
@[simp] theorem state_setGroup_memPoison : (s.setGroup g).memPoison = s.memPoison := rfl
@[simp] theorem state_setGroup_codedPoison : (s.setGroup g).codedPoison = s.codedPoison := rfl
@[simp] theorem state_setGroup_blocks : (s.setGroup g).blocks = s.blocks := rfl
@[simp] theorem state_setGroup_grids : (s.setGroup g).grids = s.grids := rfl
@[simp] theorem state_setGroup_conts : (s.setGroup g).conts = s.conts := rfl
@[simp] theorem state_setGroup_ctxs : (s.setGroup g).ctxs = s.ctxs := rfl
@[simp] theorem state_setGroup_clusters : (s.setGroup g).clusters = s.clusters := rfl
@[simp] theorem state_setGroup_queue : (s.setGroup g).queue = s.queue := rfl
@[simp] theorem state_setGroup_preempting : (s.setGroup g).preempting = s.preempting := rfl
@[simp] theorem state_setGroup_caravans : (s.setGroup g).caravans = s.caravans := rfl
@[simp] theorem state_setGroup_engines : (s.setGroup g).engines = s.engines := rfl
@[simp] theorem state_setGroup_replayed : (s.setGroup g).replayed = s.replayed := rfl
@[simp] theorem state_setGroup_lateOps : (s.setGroup g).lateOps = s.lateOps := rfl
@[simp] theorem state_setGroup_xalls : (s.setGroup g).xalls = s.xalls := rfl
@[simp] theorem state_setGroup_records : (s.setGroup g).records = s.records := rfl
@[simp] theorem state_setGroup_handlerQueue : (s.setGroup g).handlerQueue = s.handlerQueue := rfl
@[simp] theorem state_setGroup_draws : (s.setGroup g).draws = s.draws := rfl
@[simp] theorem state_setGroup_replays : (s.setGroup g).replays = s.replays := rfl
@[simp] theorem state_setGroup_tlbs : (s.setGroup g).tlbs = s.tlbs := rfl
@[simp] theorem state_setGroup_fills : (s.setGroup g).fills = s.fills := rfl
@[simp] theorem state_setGroup_tokenOps : (s.setGroup g).tokenOps = s.tokenOps := rfl
@[simp] theorem state_setGroup_heads : (s.setGroup g).heads = s.heads := rfl
@[simp] theorem state_setGroup_parts : (s.setGroup g).parts = s.parts := rfl
@[simp] theorem state_setGroup_images : (s.setGroup g).images = s.images := rfl
@[simp] theorem state_setGroup_frbase : (s.setGroup g).frbase = s.frbase := rfl
@[simp] theorem state_setGroup_busyRoutes : (s.setGroup g).busyRoutes = s.busyRoutes := rfl
@[simp] theorem state_setGroup_bringup0 : (s.setGroup g).bringup0 = s.bringup0 := rfl
@[simp] theorem state_setGroup_lpok : (s.setGroup g).lpok = s.lpok := rfl
@[simp] theorem state_setGroup_tomup : (s.setGroup g).tomup = s.tomup := rfl
@[simp] theorem state_setGroup_ringPut : (s.setGroup g).ringPut = s.ringPut := rfl
@[simp] theorem state_setGroup_podId : (s.setGroup g).podId = s.podId := rfl
@[simp] theorem state_setGroup_lost : (s.setGroup g).lost = s.lost := rfl
@[simp] theorem state_setGroup_flits : (s.setGroup g).flits = s.flits := rfl
@[simp] theorem state_setGroup_ras : (s.setGroup g).ras = s.ras := rfl
@[simp] theorem state_setGroup_rasDropped : (s.setGroup g).rasDropped = s.rasDropped := rfl
@[simp] theorem state_setGroup_rasClock : (s.setGroup g).rasClock = s.rasClock := rfl
@[simp] theorem state_setGroup_rasCount : (s.setGroup g).rasCount = s.rasCount := rfl
@[simp] theorem state_setGroup_corrected : (s.setGroup g).corrected = s.corrected := rfl
@[simp] theorem state_setGroup_retired : (s.setGroup g).retired = s.retired := rfl
@[simp] theorem state_setGroup_failed : (s.setGroup g).failed = s.failed := rfl
@[simp] theorem state_setGroup_flash : (s.setGroup g).flash = s.flash := rfl
@[simp] theorem state_setGroup_fuses : (s.setGroup g).fuses = s.fuses := rfl
@[simp] theorem state_setGroup_leaf : (s.setGroup g).leaf = s.leaf := rfl
@[simp] theorem state_setGroup_running : (s.setGroup g).running = s.running := rfl
@[simp] theorem state_setGroup_outbox : (s.setGroup g).outbox = s.outbox := rfl
@[simp] theorem state_setGroup_awaited : (s.setGroup g).awaited = s.awaited := rfl
@[simp] theorem state_setGroup_waiting : (s.setGroup g).waiting = s.waiting := rfl
@[simp] theorem state_setGroup_tasks : (s.setGroup g).tasks = s.tasks := rfl
@[simp] theorem state_setGroup_drops : (s.setGroup g).drops = s.drops := rfl
@[simp] theorem state_setGroup_scrubbed : (s.setGroup g).scrubbed = s.scrubbed := rfl
@[simp] theorem state_setGroup_periods : (s.setGroup g).periods = s.periods := rfl
@[simp] theorem state_setGroup_sramRail : (s.setGroup g).sramRail = s.sramRail := rfl

/-! State.modGroup -/

@[simp] theorem state_modGroup_agenda : (s.modGroup u fG).agenda = s.agenda := rfl
@[simp] theorem state_modGroup_turn : (s.modGroup u fG).turn = s.turn := rfl
@[simp] theorem state_modGroup_undefCtr : (s.modGroup u fG).undefCtr = s.undefCtr := rfl
@[simp] theorem state_modGroup_undefCtrs : (s.modGroup u fG).undefCtrs = s.undefCtrs := rfl
@[simp] theorem state_modGroup_fresh : (s.modGroup u fG).fresh = s.fresh := rfl
@[simp] theorem state_modGroup_mem : (s.modGroup u fG).mem = s.mem := rfl
@[simp] theorem state_modGroup_memPoison : (s.modGroup u fG).memPoison = s.memPoison := rfl
@[simp] theorem state_modGroup_codedPoison : (s.modGroup u fG).codedPoison = s.codedPoison := rfl
@[simp] theorem state_modGroup_blocks : (s.modGroup u fG).blocks = s.blocks := rfl
@[simp] theorem state_modGroup_grids : (s.modGroup u fG).grids = s.grids := rfl
@[simp] theorem state_modGroup_conts : (s.modGroup u fG).conts = s.conts := rfl
@[simp] theorem state_modGroup_ctxs : (s.modGroup u fG).ctxs = s.ctxs := rfl
@[simp] theorem state_modGroup_clusters : (s.modGroup u fG).clusters = s.clusters := rfl
@[simp] theorem state_modGroup_queue : (s.modGroup u fG).queue = s.queue := rfl
@[simp] theorem state_modGroup_preempting : (s.modGroup u fG).preempting = s.preempting := rfl
@[simp] theorem state_modGroup_caravans : (s.modGroup u fG).caravans = s.caravans := rfl
@[simp] theorem state_modGroup_engines : (s.modGroup u fG).engines = s.engines := rfl
@[simp] theorem state_modGroup_replayed : (s.modGroup u fG).replayed = s.replayed := rfl
@[simp] theorem state_modGroup_lateOps : (s.modGroup u fG).lateOps = s.lateOps := rfl
@[simp] theorem state_modGroup_xalls : (s.modGroup u fG).xalls = s.xalls := rfl
@[simp] theorem state_modGroup_records : (s.modGroup u fG).records = s.records := rfl
@[simp] theorem state_modGroup_handlerQueue : (s.modGroup u fG).handlerQueue = s.handlerQueue := rfl
@[simp] theorem state_modGroup_draws : (s.modGroup u fG).draws = s.draws := rfl
@[simp] theorem state_modGroup_replays : (s.modGroup u fG).replays = s.replays := rfl
@[simp] theorem state_modGroup_tlbs : (s.modGroup u fG).tlbs = s.tlbs := rfl
@[simp] theorem state_modGroup_fills : (s.modGroup u fG).fills = s.fills := rfl
@[simp] theorem state_modGroup_tokenOps : (s.modGroup u fG).tokenOps = s.tokenOps := rfl
@[simp] theorem state_modGroup_heads : (s.modGroup u fG).heads = s.heads := rfl
@[simp] theorem state_modGroup_parts : (s.modGroup u fG).parts = s.parts := rfl
@[simp] theorem state_modGroup_images : (s.modGroup u fG).images = s.images := rfl
@[simp] theorem state_modGroup_frbase : (s.modGroup u fG).frbase = s.frbase := rfl
@[simp] theorem state_modGroup_busyRoutes : (s.modGroup u fG).busyRoutes = s.busyRoutes := rfl
@[simp] theorem state_modGroup_bringup0 : (s.modGroup u fG).bringup0 = s.bringup0 := rfl
@[simp] theorem state_modGroup_lpok : (s.modGroup u fG).lpok = s.lpok := rfl
@[simp] theorem state_modGroup_tomup : (s.modGroup u fG).tomup = s.tomup := rfl
@[simp] theorem state_modGroup_ringPut : (s.modGroup u fG).ringPut = s.ringPut := rfl
@[simp] theorem state_modGroup_podId : (s.modGroup u fG).podId = s.podId := rfl
@[simp] theorem state_modGroup_lost : (s.modGroup u fG).lost = s.lost := rfl
@[simp] theorem state_modGroup_flits : (s.modGroup u fG).flits = s.flits := rfl
@[simp] theorem state_modGroup_ras : (s.modGroup u fG).ras = s.ras := rfl
@[simp] theorem state_modGroup_rasDropped : (s.modGroup u fG).rasDropped = s.rasDropped := rfl
@[simp] theorem state_modGroup_rasClock : (s.modGroup u fG).rasClock = s.rasClock := rfl
@[simp] theorem state_modGroup_rasCount : (s.modGroup u fG).rasCount = s.rasCount := rfl
@[simp] theorem state_modGroup_corrected : (s.modGroup u fG).corrected = s.corrected := rfl
@[simp] theorem state_modGroup_retired : (s.modGroup u fG).retired = s.retired := rfl
@[simp] theorem state_modGroup_failed : (s.modGroup u fG).failed = s.failed := rfl
@[simp] theorem state_modGroup_flash : (s.modGroup u fG).flash = s.flash := rfl
@[simp] theorem state_modGroup_fuses : (s.modGroup u fG).fuses = s.fuses := rfl
@[simp] theorem state_modGroup_leaf : (s.modGroup u fG).leaf = s.leaf := rfl
@[simp] theorem state_modGroup_running : (s.modGroup u fG).running = s.running := rfl
@[simp] theorem state_modGroup_outbox : (s.modGroup u fG).outbox = s.outbox := rfl
@[simp] theorem state_modGroup_awaited : (s.modGroup u fG).awaited = s.awaited := rfl
@[simp] theorem state_modGroup_waiting : (s.modGroup u fG).waiting = s.waiting := rfl
@[simp] theorem state_modGroup_tasks : (s.modGroup u fG).tasks = s.tasks := rfl
@[simp] theorem state_modGroup_drops : (s.modGroup u fG).drops = s.drops := rfl
@[simp] theorem state_modGroup_scrubbed : (s.modGroup u fG).scrubbed = s.scrubbed := rfl
@[simp] theorem state_modGroup_periods : (s.modGroup u fG).periods = s.periods := rfl
@[simp] theorem state_modGroup_sramRail : (s.modGroup u fG).sramRail = s.sramRail := rfl

/-! State.modBlock -/

@[simp] theorem state_modBlock_agenda : (s.modBlock u fB).agenda = s.agenda := rfl
@[simp] theorem state_modBlock_turn : (s.modBlock u fB).turn = s.turn := rfl
@[simp] theorem state_modBlock_undefCtr : (s.modBlock u fB).undefCtr = s.undefCtr := rfl
@[simp] theorem state_modBlock_undefCtrs : (s.modBlock u fB).undefCtrs = s.undefCtrs := rfl
@[simp] theorem state_modBlock_fresh : (s.modBlock u fB).fresh = s.fresh := rfl
@[simp] theorem state_modBlock_mem : (s.modBlock u fB).mem = s.mem := rfl
@[simp] theorem state_modBlock_memPoison : (s.modBlock u fB).memPoison = s.memPoison := rfl
@[simp] theorem state_modBlock_codedPoison : (s.modBlock u fB).codedPoison = s.codedPoison := rfl
@[simp] theorem state_modBlock_groups : (s.modBlock u fB).groups = s.groups := rfl
@[simp] theorem state_modBlock_grids : (s.modBlock u fB).grids = s.grids := rfl
@[simp] theorem state_modBlock_conts : (s.modBlock u fB).conts = s.conts := rfl
@[simp] theorem state_modBlock_ctxs : (s.modBlock u fB).ctxs = s.ctxs := rfl
@[simp] theorem state_modBlock_clusters : (s.modBlock u fB).clusters = s.clusters := rfl
@[simp] theorem state_modBlock_queue : (s.modBlock u fB).queue = s.queue := rfl
@[simp] theorem state_modBlock_preempting : (s.modBlock u fB).preempting = s.preempting := rfl
@[simp] theorem state_modBlock_caravans : (s.modBlock u fB).caravans = s.caravans := rfl
@[simp] theorem state_modBlock_engines : (s.modBlock u fB).engines = s.engines := rfl
@[simp] theorem state_modBlock_replayed : (s.modBlock u fB).replayed = s.replayed := rfl
@[simp] theorem state_modBlock_lateOps : (s.modBlock u fB).lateOps = s.lateOps := rfl
@[simp] theorem state_modBlock_xalls : (s.modBlock u fB).xalls = s.xalls := rfl
@[simp] theorem state_modBlock_records : (s.modBlock u fB).records = s.records := rfl
@[simp] theorem state_modBlock_handlerQueue : (s.modBlock u fB).handlerQueue = s.handlerQueue := rfl
@[simp] theorem state_modBlock_draws : (s.modBlock u fB).draws = s.draws := rfl
@[simp] theorem state_modBlock_replays : (s.modBlock u fB).replays = s.replays := rfl
@[simp] theorem state_modBlock_tlbs : (s.modBlock u fB).tlbs = s.tlbs := rfl
@[simp] theorem state_modBlock_fills : (s.modBlock u fB).fills = s.fills := rfl
@[simp] theorem state_modBlock_tokenOps : (s.modBlock u fB).tokenOps = s.tokenOps := rfl
@[simp] theorem state_modBlock_heads : (s.modBlock u fB).heads = s.heads := rfl
@[simp] theorem state_modBlock_parts : (s.modBlock u fB).parts = s.parts := rfl
@[simp] theorem state_modBlock_images : (s.modBlock u fB).images = s.images := rfl
@[simp] theorem state_modBlock_frbase : (s.modBlock u fB).frbase = s.frbase := rfl
@[simp] theorem state_modBlock_busyRoutes : (s.modBlock u fB).busyRoutes = s.busyRoutes := rfl
@[simp] theorem state_modBlock_bringup0 : (s.modBlock u fB).bringup0 = s.bringup0 := rfl
@[simp] theorem state_modBlock_lpok : (s.modBlock u fB).lpok = s.lpok := rfl
@[simp] theorem state_modBlock_tomup : (s.modBlock u fB).tomup = s.tomup := rfl
@[simp] theorem state_modBlock_ringPut : (s.modBlock u fB).ringPut = s.ringPut := rfl
@[simp] theorem state_modBlock_podId : (s.modBlock u fB).podId = s.podId := rfl
@[simp] theorem state_modBlock_lost : (s.modBlock u fB).lost = s.lost := rfl
@[simp] theorem state_modBlock_flits : (s.modBlock u fB).flits = s.flits := rfl
@[simp] theorem state_modBlock_ras : (s.modBlock u fB).ras = s.ras := rfl
@[simp] theorem state_modBlock_rasDropped : (s.modBlock u fB).rasDropped = s.rasDropped := rfl
@[simp] theorem state_modBlock_rasClock : (s.modBlock u fB).rasClock = s.rasClock := rfl
@[simp] theorem state_modBlock_rasCount : (s.modBlock u fB).rasCount = s.rasCount := rfl
@[simp] theorem state_modBlock_corrected : (s.modBlock u fB).corrected = s.corrected := rfl
@[simp] theorem state_modBlock_retired : (s.modBlock u fB).retired = s.retired := rfl
@[simp] theorem state_modBlock_failed : (s.modBlock u fB).failed = s.failed := rfl
@[simp] theorem state_modBlock_flash : (s.modBlock u fB).flash = s.flash := rfl
@[simp] theorem state_modBlock_fuses : (s.modBlock u fB).fuses = s.fuses := rfl
@[simp] theorem state_modBlock_leaf : (s.modBlock u fB).leaf = s.leaf := rfl
@[simp] theorem state_modBlock_running : (s.modBlock u fB).running = s.running := rfl
@[simp] theorem state_modBlock_outbox : (s.modBlock u fB).outbox = s.outbox := rfl
@[simp] theorem state_modBlock_awaited : (s.modBlock u fB).awaited = s.awaited := rfl
@[simp] theorem state_modBlock_waiting : (s.modBlock u fB).waiting = s.waiting := rfl
@[simp] theorem state_modBlock_tasks : (s.modBlock u fB).tasks = s.tasks := rfl
@[simp] theorem state_modBlock_drops : (s.modBlock u fB).drops = s.drops := rfl
@[simp] theorem state_modBlock_scrubbed : (s.modBlock u fB).scrubbed = s.scrubbed := rfl
@[simp] theorem state_modBlock_periods : (s.modBlock u fB).periods = s.periods := rfl
@[simp] theorem state_modBlock_sramRail : (s.modBlock u fB).sramRail = s.sramRail := rfl

/-! State.modGrid -/

@[simp] theorem state_modGrid_agenda : (s.modGrid u fD).agenda = s.agenda := rfl
@[simp] theorem state_modGrid_turn : (s.modGrid u fD).turn = s.turn := rfl
@[simp] theorem state_modGrid_undefCtr : (s.modGrid u fD).undefCtr = s.undefCtr := rfl
@[simp] theorem state_modGrid_undefCtrs : (s.modGrid u fD).undefCtrs = s.undefCtrs := rfl
@[simp] theorem state_modGrid_fresh : (s.modGrid u fD).fresh = s.fresh := rfl
@[simp] theorem state_modGrid_mem : (s.modGrid u fD).mem = s.mem := rfl
@[simp] theorem state_modGrid_memPoison : (s.modGrid u fD).memPoison = s.memPoison := rfl
@[simp] theorem state_modGrid_codedPoison : (s.modGrid u fD).codedPoison = s.codedPoison := rfl
@[simp] theorem state_modGrid_groups : (s.modGrid u fD).groups = s.groups := rfl
@[simp] theorem state_modGrid_blocks : (s.modGrid u fD).blocks = s.blocks := rfl
@[simp] theorem state_modGrid_conts : (s.modGrid u fD).conts = s.conts := rfl
@[simp] theorem state_modGrid_ctxs : (s.modGrid u fD).ctxs = s.ctxs := rfl
@[simp] theorem state_modGrid_clusters : (s.modGrid u fD).clusters = s.clusters := rfl
@[simp] theorem state_modGrid_queue : (s.modGrid u fD).queue = s.queue := rfl
@[simp] theorem state_modGrid_preempting : (s.modGrid u fD).preempting = s.preempting := rfl
@[simp] theorem state_modGrid_caravans : (s.modGrid u fD).caravans = s.caravans := rfl
@[simp] theorem state_modGrid_engines : (s.modGrid u fD).engines = s.engines := rfl
@[simp] theorem state_modGrid_replayed : (s.modGrid u fD).replayed = s.replayed := rfl
@[simp] theorem state_modGrid_lateOps : (s.modGrid u fD).lateOps = s.lateOps := rfl
@[simp] theorem state_modGrid_xalls : (s.modGrid u fD).xalls = s.xalls := rfl
@[simp] theorem state_modGrid_records : (s.modGrid u fD).records = s.records := rfl
@[simp] theorem state_modGrid_handlerQueue : (s.modGrid u fD).handlerQueue = s.handlerQueue := rfl
@[simp] theorem state_modGrid_draws : (s.modGrid u fD).draws = s.draws := rfl
@[simp] theorem state_modGrid_replays : (s.modGrid u fD).replays = s.replays := rfl
@[simp] theorem state_modGrid_tlbs : (s.modGrid u fD).tlbs = s.tlbs := rfl
@[simp] theorem state_modGrid_fills : (s.modGrid u fD).fills = s.fills := rfl
@[simp] theorem state_modGrid_tokenOps : (s.modGrid u fD).tokenOps = s.tokenOps := rfl
@[simp] theorem state_modGrid_heads : (s.modGrid u fD).heads = s.heads := rfl
@[simp] theorem state_modGrid_parts : (s.modGrid u fD).parts = s.parts := rfl
@[simp] theorem state_modGrid_images : (s.modGrid u fD).images = s.images := rfl
@[simp] theorem state_modGrid_frbase : (s.modGrid u fD).frbase = s.frbase := rfl
@[simp] theorem state_modGrid_busyRoutes : (s.modGrid u fD).busyRoutes = s.busyRoutes := rfl
@[simp] theorem state_modGrid_bringup0 : (s.modGrid u fD).bringup0 = s.bringup0 := rfl
@[simp] theorem state_modGrid_lpok : (s.modGrid u fD).lpok = s.lpok := rfl
@[simp] theorem state_modGrid_tomup : (s.modGrid u fD).tomup = s.tomup := rfl
@[simp] theorem state_modGrid_ringPut : (s.modGrid u fD).ringPut = s.ringPut := rfl
@[simp] theorem state_modGrid_podId : (s.modGrid u fD).podId = s.podId := rfl
@[simp] theorem state_modGrid_lost : (s.modGrid u fD).lost = s.lost := rfl
@[simp] theorem state_modGrid_flits : (s.modGrid u fD).flits = s.flits := rfl
@[simp] theorem state_modGrid_ras : (s.modGrid u fD).ras = s.ras := rfl
@[simp] theorem state_modGrid_rasDropped : (s.modGrid u fD).rasDropped = s.rasDropped := rfl
@[simp] theorem state_modGrid_rasClock : (s.modGrid u fD).rasClock = s.rasClock := rfl
@[simp] theorem state_modGrid_rasCount : (s.modGrid u fD).rasCount = s.rasCount := rfl
@[simp] theorem state_modGrid_corrected : (s.modGrid u fD).corrected = s.corrected := rfl
@[simp] theorem state_modGrid_retired : (s.modGrid u fD).retired = s.retired := rfl
@[simp] theorem state_modGrid_failed : (s.modGrid u fD).failed = s.failed := rfl
@[simp] theorem state_modGrid_flash : (s.modGrid u fD).flash = s.flash := rfl
@[simp] theorem state_modGrid_fuses : (s.modGrid u fD).fuses = s.fuses := rfl
@[simp] theorem state_modGrid_leaf : (s.modGrid u fD).leaf = s.leaf := rfl
@[simp] theorem state_modGrid_running : (s.modGrid u fD).running = s.running := rfl
@[simp] theorem state_modGrid_outbox : (s.modGrid u fD).outbox = s.outbox := rfl
@[simp] theorem state_modGrid_awaited : (s.modGrid u fD).awaited = s.awaited := rfl
@[simp] theorem state_modGrid_waiting : (s.modGrid u fD).waiting = s.waiting := rfl
@[simp] theorem state_modGrid_tasks : (s.modGrid u fD).tasks = s.tasks := rfl
@[simp] theorem state_modGrid_drops : (s.modGrid u fD).drops = s.drops := rfl
@[simp] theorem state_modGrid_scrubbed : (s.modGrid u fD).scrubbed = s.scrubbed := rfl
@[simp] theorem state_modGrid_periods : (s.modGrid u fD).periods = s.periods := rfl
@[simp] theorem state_modGrid_sramRail : (s.modGrid u fD).sramRail = s.sramRail := rfl

/-! State.setCtx -/

@[simp] theorem state_setCtx_agenda : (s.setCtx c).agenda = s.agenda := rfl
@[simp] theorem state_setCtx_turn : (s.setCtx c).turn = s.turn := rfl
@[simp] theorem state_setCtx_undefCtr : (s.setCtx c).undefCtr = s.undefCtr := rfl
@[simp] theorem state_setCtx_undefCtrs : (s.setCtx c).undefCtrs = s.undefCtrs := rfl
@[simp] theorem state_setCtx_fresh : (s.setCtx c).fresh = s.fresh := rfl
@[simp] theorem state_setCtx_mem : (s.setCtx c).mem = s.mem := rfl
@[simp] theorem state_setCtx_memPoison : (s.setCtx c).memPoison = s.memPoison := rfl
@[simp] theorem state_setCtx_codedPoison : (s.setCtx c).codedPoison = s.codedPoison := rfl
@[simp] theorem state_setCtx_groups : (s.setCtx c).groups = s.groups := rfl
@[simp] theorem state_setCtx_blocks : (s.setCtx c).blocks = s.blocks := rfl
@[simp] theorem state_setCtx_grids : (s.setCtx c).grids = s.grids := rfl
@[simp] theorem state_setCtx_conts : (s.setCtx c).conts = s.conts := rfl
@[simp] theorem state_setCtx_clusters : (s.setCtx c).clusters = s.clusters := rfl
@[simp] theorem state_setCtx_queue : (s.setCtx c).queue = s.queue := rfl
@[simp] theorem state_setCtx_preempting : (s.setCtx c).preempting = s.preempting := rfl
@[simp] theorem state_setCtx_caravans : (s.setCtx c).caravans = s.caravans := rfl
@[simp] theorem state_setCtx_engines : (s.setCtx c).engines = s.engines := rfl
@[simp] theorem state_setCtx_replayed : (s.setCtx c).replayed = s.replayed := rfl
@[simp] theorem state_setCtx_lateOps : (s.setCtx c).lateOps = s.lateOps := rfl
@[simp] theorem state_setCtx_xalls : (s.setCtx c).xalls = s.xalls := rfl
@[simp] theorem state_setCtx_records : (s.setCtx c).records = s.records := rfl
@[simp] theorem state_setCtx_handlerQueue : (s.setCtx c).handlerQueue = s.handlerQueue := rfl
@[simp] theorem state_setCtx_draws : (s.setCtx c).draws = s.draws := rfl
@[simp] theorem state_setCtx_replays : (s.setCtx c).replays = s.replays := rfl
@[simp] theorem state_setCtx_tlbs : (s.setCtx c).tlbs = s.tlbs := rfl
@[simp] theorem state_setCtx_fills : (s.setCtx c).fills = s.fills := rfl
@[simp] theorem state_setCtx_tokenOps : (s.setCtx c).tokenOps = s.tokenOps := rfl
@[simp] theorem state_setCtx_heads : (s.setCtx c).heads = s.heads := rfl
@[simp] theorem state_setCtx_parts : (s.setCtx c).parts = s.parts := rfl
@[simp] theorem state_setCtx_images : (s.setCtx c).images = s.images := rfl
@[simp] theorem state_setCtx_frbase : (s.setCtx c).frbase = s.frbase := rfl
@[simp] theorem state_setCtx_busyRoutes : (s.setCtx c).busyRoutes = s.busyRoutes := rfl
@[simp] theorem state_setCtx_bringup0 : (s.setCtx c).bringup0 = s.bringup0 := rfl
@[simp] theorem state_setCtx_lpok : (s.setCtx c).lpok = s.lpok := rfl
@[simp] theorem state_setCtx_tomup : (s.setCtx c).tomup = s.tomup := rfl
@[simp] theorem state_setCtx_ringPut : (s.setCtx c).ringPut = s.ringPut := rfl
@[simp] theorem state_setCtx_podId : (s.setCtx c).podId = s.podId := rfl
@[simp] theorem state_setCtx_lost : (s.setCtx c).lost = s.lost := rfl
@[simp] theorem state_setCtx_flits : (s.setCtx c).flits = s.flits := rfl
@[simp] theorem state_setCtx_ras : (s.setCtx c).ras = s.ras := rfl
@[simp] theorem state_setCtx_rasDropped : (s.setCtx c).rasDropped = s.rasDropped := rfl
@[simp] theorem state_setCtx_rasClock : (s.setCtx c).rasClock = s.rasClock := rfl
@[simp] theorem state_setCtx_rasCount : (s.setCtx c).rasCount = s.rasCount := rfl
@[simp] theorem state_setCtx_corrected : (s.setCtx c).corrected = s.corrected := rfl
@[simp] theorem state_setCtx_retired : (s.setCtx c).retired = s.retired := rfl
@[simp] theorem state_setCtx_failed : (s.setCtx c).failed = s.failed := rfl
@[simp] theorem state_setCtx_flash : (s.setCtx c).flash = s.flash := rfl
@[simp] theorem state_setCtx_fuses : (s.setCtx c).fuses = s.fuses := rfl
@[simp] theorem state_setCtx_leaf : (s.setCtx c).leaf = s.leaf := rfl
@[simp] theorem state_setCtx_running : (s.setCtx c).running = s.running := rfl
@[simp] theorem state_setCtx_outbox : (s.setCtx c).outbox = s.outbox := rfl
@[simp] theorem state_setCtx_awaited : (s.setCtx c).awaited = s.awaited := rfl
@[simp] theorem state_setCtx_waiting : (s.setCtx c).waiting = s.waiting := rfl
@[simp] theorem state_setCtx_tasks : (s.setCtx c).tasks = s.tasks := rfl
@[simp] theorem state_setCtx_drops : (s.setCtx c).drops = s.drops := rfl
@[simp] theorem state_setCtx_scrubbed : (s.setCtx c).scrubbed = s.scrubbed := rfl
@[simp] theorem state_setCtx_periods : (s.setCtx c).periods = s.periods := rfl
@[simp] theorem state_setCtx_sramRail : (s.setCtx c).sramRail = s.sramRail := rfl

/-! State.modCluster -/

@[simp] theorem state_modCluster_agenda : (s.modCluster n fU).agenda = s.agenda := rfl
@[simp] theorem state_modCluster_turn : (s.modCluster n fU).turn = s.turn := rfl
@[simp] theorem state_modCluster_undefCtr : (s.modCluster n fU).undefCtr = s.undefCtr := rfl
@[simp] theorem state_modCluster_undefCtrs : (s.modCluster n fU).undefCtrs = s.undefCtrs := rfl
@[simp] theorem state_modCluster_fresh : (s.modCluster n fU).fresh = s.fresh := rfl
@[simp] theorem state_modCluster_mem : (s.modCluster n fU).mem = s.mem := rfl
@[simp] theorem state_modCluster_memPoison : (s.modCluster n fU).memPoison = s.memPoison := rfl
@[simp] theorem state_modCluster_codedPoison : (s.modCluster n fU).codedPoison = s.codedPoison := rfl
@[simp] theorem state_modCluster_groups : (s.modCluster n fU).groups = s.groups := rfl
@[simp] theorem state_modCluster_blocks : (s.modCluster n fU).blocks = s.blocks := rfl
@[simp] theorem state_modCluster_grids : (s.modCluster n fU).grids = s.grids := rfl
@[simp] theorem state_modCluster_conts : (s.modCluster n fU).conts = s.conts := rfl
@[simp] theorem state_modCluster_ctxs : (s.modCluster n fU).ctxs = s.ctxs := rfl
@[simp] theorem state_modCluster_queue : (s.modCluster n fU).queue = s.queue := rfl
@[simp] theorem state_modCluster_preempting : (s.modCluster n fU).preempting = s.preempting := rfl
@[simp] theorem state_modCluster_caravans : (s.modCluster n fU).caravans = s.caravans := rfl
@[simp] theorem state_modCluster_engines : (s.modCluster n fU).engines = s.engines := rfl
@[simp] theorem state_modCluster_replayed : (s.modCluster n fU).replayed = s.replayed := rfl
@[simp] theorem state_modCluster_lateOps : (s.modCluster n fU).lateOps = s.lateOps := rfl
@[simp] theorem state_modCluster_xalls : (s.modCluster n fU).xalls = s.xalls := rfl
@[simp] theorem state_modCluster_records : (s.modCluster n fU).records = s.records := rfl
@[simp] theorem state_modCluster_handlerQueue : (s.modCluster n fU).handlerQueue = s.handlerQueue := rfl
@[simp] theorem state_modCluster_draws : (s.modCluster n fU).draws = s.draws := rfl
@[simp] theorem state_modCluster_replays : (s.modCluster n fU).replays = s.replays := rfl
@[simp] theorem state_modCluster_tlbs : (s.modCluster n fU).tlbs = s.tlbs := rfl
@[simp] theorem state_modCluster_fills : (s.modCluster n fU).fills = s.fills := rfl
@[simp] theorem state_modCluster_tokenOps : (s.modCluster n fU).tokenOps = s.tokenOps := rfl
@[simp] theorem state_modCluster_heads : (s.modCluster n fU).heads = s.heads := rfl
@[simp] theorem state_modCluster_parts : (s.modCluster n fU).parts = s.parts := rfl
@[simp] theorem state_modCluster_images : (s.modCluster n fU).images = s.images := rfl
@[simp] theorem state_modCluster_frbase : (s.modCluster n fU).frbase = s.frbase := rfl
@[simp] theorem state_modCluster_busyRoutes : (s.modCluster n fU).busyRoutes = s.busyRoutes := rfl
@[simp] theorem state_modCluster_bringup0 : (s.modCluster n fU).bringup0 = s.bringup0 := rfl
@[simp] theorem state_modCluster_lpok : (s.modCluster n fU).lpok = s.lpok := rfl
@[simp] theorem state_modCluster_tomup : (s.modCluster n fU).tomup = s.tomup := rfl
@[simp] theorem state_modCluster_ringPut : (s.modCluster n fU).ringPut = s.ringPut := rfl
@[simp] theorem state_modCluster_podId : (s.modCluster n fU).podId = s.podId := rfl
@[simp] theorem state_modCluster_lost : (s.modCluster n fU).lost = s.lost := rfl
@[simp] theorem state_modCluster_flits : (s.modCluster n fU).flits = s.flits := rfl
@[simp] theorem state_modCluster_ras : (s.modCluster n fU).ras = s.ras := rfl
@[simp] theorem state_modCluster_rasDropped : (s.modCluster n fU).rasDropped = s.rasDropped := rfl
@[simp] theorem state_modCluster_rasClock : (s.modCluster n fU).rasClock = s.rasClock := rfl
@[simp] theorem state_modCluster_rasCount : (s.modCluster n fU).rasCount = s.rasCount := rfl
@[simp] theorem state_modCluster_corrected : (s.modCluster n fU).corrected = s.corrected := rfl
@[simp] theorem state_modCluster_retired : (s.modCluster n fU).retired = s.retired := rfl
@[simp] theorem state_modCluster_failed : (s.modCluster n fU).failed = s.failed := rfl
@[simp] theorem state_modCluster_flash : (s.modCluster n fU).flash = s.flash := rfl
@[simp] theorem state_modCluster_fuses : (s.modCluster n fU).fuses = s.fuses := rfl
@[simp] theorem state_modCluster_leaf : (s.modCluster n fU).leaf = s.leaf := rfl
@[simp] theorem state_modCluster_running : (s.modCluster n fU).running = s.running := rfl
@[simp] theorem state_modCluster_outbox : (s.modCluster n fU).outbox = s.outbox := rfl
@[simp] theorem state_modCluster_awaited : (s.modCluster n fU).awaited = s.awaited := rfl
@[simp] theorem state_modCluster_waiting : (s.modCluster n fU).waiting = s.waiting := rfl
@[simp] theorem state_modCluster_tasks : (s.modCluster n fU).tasks = s.tasks := rfl
@[simp] theorem state_modCluster_drops : (s.modCluster n fU).drops = s.drops := rfl
@[simp] theorem state_modCluster_scrubbed : (s.modCluster n fU).scrubbed = s.scrubbed := rfl
@[simp] theorem state_modCluster_periods : (s.modCluster n fU).periods = s.periods := rfl
@[simp] theorem state_modCluster_sramRail : (s.modCluster n fU).sramRail = s.sramRail := rfl

/-! State.modPart -/

@[simp] theorem state_modPart_agenda : (s.modPart n fP).agenda = s.agenda := rfl
@[simp] theorem state_modPart_turn : (s.modPart n fP).turn = s.turn := rfl
@[simp] theorem state_modPart_undefCtr : (s.modPart n fP).undefCtr = s.undefCtr := rfl
@[simp] theorem state_modPart_undefCtrs : (s.modPart n fP).undefCtrs = s.undefCtrs := rfl
@[simp] theorem state_modPart_fresh : (s.modPart n fP).fresh = s.fresh := rfl
@[simp] theorem state_modPart_mem : (s.modPart n fP).mem = s.mem := rfl
@[simp] theorem state_modPart_memPoison : (s.modPart n fP).memPoison = s.memPoison := rfl
@[simp] theorem state_modPart_codedPoison : (s.modPart n fP).codedPoison = s.codedPoison := rfl
@[simp] theorem state_modPart_groups : (s.modPart n fP).groups = s.groups := rfl
@[simp] theorem state_modPart_blocks : (s.modPart n fP).blocks = s.blocks := rfl
@[simp] theorem state_modPart_grids : (s.modPart n fP).grids = s.grids := rfl
@[simp] theorem state_modPart_conts : (s.modPart n fP).conts = s.conts := rfl
@[simp] theorem state_modPart_ctxs : (s.modPart n fP).ctxs = s.ctxs := rfl
@[simp] theorem state_modPart_clusters : (s.modPart n fP).clusters = s.clusters := rfl
@[simp] theorem state_modPart_queue : (s.modPart n fP).queue = s.queue := rfl
@[simp] theorem state_modPart_preempting : (s.modPart n fP).preempting = s.preempting := rfl
@[simp] theorem state_modPart_caravans : (s.modPart n fP).caravans = s.caravans := rfl
@[simp] theorem state_modPart_engines : (s.modPart n fP).engines = s.engines := rfl
@[simp] theorem state_modPart_replayed : (s.modPart n fP).replayed = s.replayed := rfl
@[simp] theorem state_modPart_lateOps : (s.modPart n fP).lateOps = s.lateOps := rfl
@[simp] theorem state_modPart_xalls : (s.modPart n fP).xalls = s.xalls := rfl
@[simp] theorem state_modPart_records : (s.modPart n fP).records = s.records := rfl
@[simp] theorem state_modPart_handlerQueue : (s.modPart n fP).handlerQueue = s.handlerQueue := rfl
@[simp] theorem state_modPart_draws : (s.modPart n fP).draws = s.draws := rfl
@[simp] theorem state_modPart_replays : (s.modPart n fP).replays = s.replays := rfl
@[simp] theorem state_modPart_tlbs : (s.modPart n fP).tlbs = s.tlbs := rfl
@[simp] theorem state_modPart_fills : (s.modPart n fP).fills = s.fills := rfl
@[simp] theorem state_modPart_tokenOps : (s.modPart n fP).tokenOps = s.tokenOps := rfl
@[simp] theorem state_modPart_heads : (s.modPart n fP).heads = s.heads := rfl
@[simp] theorem state_modPart_images : (s.modPart n fP).images = s.images := rfl
@[simp] theorem state_modPart_frbase : (s.modPart n fP).frbase = s.frbase := rfl
@[simp] theorem state_modPart_busyRoutes : (s.modPart n fP).busyRoutes = s.busyRoutes := rfl
@[simp] theorem state_modPart_bringup0 : (s.modPart n fP).bringup0 = s.bringup0 := rfl
@[simp] theorem state_modPart_lpok : (s.modPart n fP).lpok = s.lpok := rfl
@[simp] theorem state_modPart_tomup : (s.modPart n fP).tomup = s.tomup := rfl
@[simp] theorem state_modPart_ringPut : (s.modPart n fP).ringPut = s.ringPut := rfl
@[simp] theorem state_modPart_podId : (s.modPart n fP).podId = s.podId := rfl
@[simp] theorem state_modPart_lost : (s.modPart n fP).lost = s.lost := rfl
@[simp] theorem state_modPart_flits : (s.modPart n fP).flits = s.flits := rfl
@[simp] theorem state_modPart_ras : (s.modPart n fP).ras = s.ras := rfl
@[simp] theorem state_modPart_rasDropped : (s.modPart n fP).rasDropped = s.rasDropped := rfl
@[simp] theorem state_modPart_rasClock : (s.modPart n fP).rasClock = s.rasClock := rfl
@[simp] theorem state_modPart_rasCount : (s.modPart n fP).rasCount = s.rasCount := rfl
@[simp] theorem state_modPart_corrected : (s.modPart n fP).corrected = s.corrected := rfl
@[simp] theorem state_modPart_retired : (s.modPart n fP).retired = s.retired := rfl
@[simp] theorem state_modPart_failed : (s.modPart n fP).failed = s.failed := rfl
@[simp] theorem state_modPart_flash : (s.modPart n fP).flash = s.flash := rfl
@[simp] theorem state_modPart_fuses : (s.modPart n fP).fuses = s.fuses := rfl
@[simp] theorem state_modPart_leaf : (s.modPart n fP).leaf = s.leaf := rfl
@[simp] theorem state_modPart_running : (s.modPart n fP).running = s.running := rfl
@[simp] theorem state_modPart_outbox : (s.modPart n fP).outbox = s.outbox := rfl
@[simp] theorem state_modPart_awaited : (s.modPart n fP).awaited = s.awaited := rfl
@[simp] theorem state_modPart_waiting : (s.modPart n fP).waiting = s.waiting := rfl
@[simp] theorem state_modPart_tasks : (s.modPart n fP).tasks = s.tasks := rfl
@[simp] theorem state_modPart_drops : (s.modPart n fP).drops = s.drops := rfl
@[simp] theorem state_modPart_scrubbed : (s.modPart n fP).scrubbed = s.scrubbed := rfl
@[simp] theorem state_modPart_periods : (s.modPart n fP).periods = s.periods := rfl
@[simp] theorem state_modPart_sramRail : (s.modPart n fP).sramRail = s.sramRail := rfl

/-! State.modHead -/

@[simp] theorem state_modHead_agenda : (s.modHead n fH).agenda = s.agenda := rfl
@[simp] theorem state_modHead_turn : (s.modHead n fH).turn = s.turn := rfl
@[simp] theorem state_modHead_undefCtr : (s.modHead n fH).undefCtr = s.undefCtr := rfl
@[simp] theorem state_modHead_undefCtrs : (s.modHead n fH).undefCtrs = s.undefCtrs := rfl
@[simp] theorem state_modHead_fresh : (s.modHead n fH).fresh = s.fresh := rfl
@[simp] theorem state_modHead_mem : (s.modHead n fH).mem = s.mem := rfl
@[simp] theorem state_modHead_memPoison : (s.modHead n fH).memPoison = s.memPoison := rfl
@[simp] theorem state_modHead_codedPoison : (s.modHead n fH).codedPoison = s.codedPoison := rfl
@[simp] theorem state_modHead_groups : (s.modHead n fH).groups = s.groups := rfl
@[simp] theorem state_modHead_blocks : (s.modHead n fH).blocks = s.blocks := rfl
@[simp] theorem state_modHead_grids : (s.modHead n fH).grids = s.grids := rfl
@[simp] theorem state_modHead_conts : (s.modHead n fH).conts = s.conts := rfl
@[simp] theorem state_modHead_ctxs : (s.modHead n fH).ctxs = s.ctxs := rfl
@[simp] theorem state_modHead_clusters : (s.modHead n fH).clusters = s.clusters := rfl
@[simp] theorem state_modHead_queue : (s.modHead n fH).queue = s.queue := rfl
@[simp] theorem state_modHead_preempting : (s.modHead n fH).preempting = s.preempting := rfl
@[simp] theorem state_modHead_caravans : (s.modHead n fH).caravans = s.caravans := rfl
@[simp] theorem state_modHead_engines : (s.modHead n fH).engines = s.engines := rfl
@[simp] theorem state_modHead_replayed : (s.modHead n fH).replayed = s.replayed := rfl
@[simp] theorem state_modHead_lateOps : (s.modHead n fH).lateOps = s.lateOps := rfl
@[simp] theorem state_modHead_xalls : (s.modHead n fH).xalls = s.xalls := rfl
@[simp] theorem state_modHead_records : (s.modHead n fH).records = s.records := rfl
@[simp] theorem state_modHead_handlerQueue : (s.modHead n fH).handlerQueue = s.handlerQueue := rfl
@[simp] theorem state_modHead_draws : (s.modHead n fH).draws = s.draws := rfl
@[simp] theorem state_modHead_replays : (s.modHead n fH).replays = s.replays := rfl
@[simp] theorem state_modHead_tlbs : (s.modHead n fH).tlbs = s.tlbs := rfl
@[simp] theorem state_modHead_fills : (s.modHead n fH).fills = s.fills := rfl
@[simp] theorem state_modHead_tokenOps : (s.modHead n fH).tokenOps = s.tokenOps := rfl
@[simp] theorem state_modHead_parts : (s.modHead n fH).parts = s.parts := rfl
@[simp] theorem state_modHead_images : (s.modHead n fH).images = s.images := rfl
@[simp] theorem state_modHead_frbase : (s.modHead n fH).frbase = s.frbase := rfl
@[simp] theorem state_modHead_busyRoutes : (s.modHead n fH).busyRoutes = s.busyRoutes := rfl
@[simp] theorem state_modHead_bringup0 : (s.modHead n fH).bringup0 = s.bringup0 := rfl
@[simp] theorem state_modHead_lpok : (s.modHead n fH).lpok = s.lpok := rfl
@[simp] theorem state_modHead_tomup : (s.modHead n fH).tomup = s.tomup := rfl
@[simp] theorem state_modHead_ringPut : (s.modHead n fH).ringPut = s.ringPut := rfl
@[simp] theorem state_modHead_podId : (s.modHead n fH).podId = s.podId := rfl
@[simp] theorem state_modHead_lost : (s.modHead n fH).lost = s.lost := rfl
@[simp] theorem state_modHead_flits : (s.modHead n fH).flits = s.flits := rfl
@[simp] theorem state_modHead_ras : (s.modHead n fH).ras = s.ras := rfl
@[simp] theorem state_modHead_rasDropped : (s.modHead n fH).rasDropped = s.rasDropped := rfl
@[simp] theorem state_modHead_rasClock : (s.modHead n fH).rasClock = s.rasClock := rfl
@[simp] theorem state_modHead_rasCount : (s.modHead n fH).rasCount = s.rasCount := rfl
@[simp] theorem state_modHead_corrected : (s.modHead n fH).corrected = s.corrected := rfl
@[simp] theorem state_modHead_retired : (s.modHead n fH).retired = s.retired := rfl
@[simp] theorem state_modHead_failed : (s.modHead n fH).failed = s.failed := rfl
@[simp] theorem state_modHead_flash : (s.modHead n fH).flash = s.flash := rfl
@[simp] theorem state_modHead_fuses : (s.modHead n fH).fuses = s.fuses := rfl
@[simp] theorem state_modHead_leaf : (s.modHead n fH).leaf = s.leaf := rfl
@[simp] theorem state_modHead_running : (s.modHead n fH).running = s.running := rfl
@[simp] theorem state_modHead_outbox : (s.modHead n fH).outbox = s.outbox := rfl
@[simp] theorem state_modHead_awaited : (s.modHead n fH).awaited = s.awaited := rfl
@[simp] theorem state_modHead_waiting : (s.modHead n fH).waiting = s.waiting := rfl
@[simp] theorem state_modHead_tasks : (s.modHead n fH).tasks = s.tasks := rfl
@[simp] theorem state_modHead_drops : (s.modHead n fH).drops = s.drops := rfl
@[simp] theorem state_modHead_scrubbed : (s.modHead n fH).scrubbed = s.scrubbed := rfl
@[simp] theorem state_modHead_periods : (s.modHead n fH).periods = s.periods := rfl
@[simp] theorem state_modHead_sramRail : (s.modHead n fH).sramRail = s.sramRail := rfl

/-! State.modDraw -/

@[simp] theorem state_modDraw_agenda : (s.modDraw u fW).agenda = s.agenda := rfl
@[simp] theorem state_modDraw_turn : (s.modDraw u fW).turn = s.turn := rfl
@[simp] theorem state_modDraw_undefCtr : (s.modDraw u fW).undefCtr = s.undefCtr := rfl
@[simp] theorem state_modDraw_undefCtrs : (s.modDraw u fW).undefCtrs = s.undefCtrs := rfl
@[simp] theorem state_modDraw_fresh : (s.modDraw u fW).fresh = s.fresh := rfl
@[simp] theorem state_modDraw_mem : (s.modDraw u fW).mem = s.mem := rfl
@[simp] theorem state_modDraw_memPoison : (s.modDraw u fW).memPoison = s.memPoison := rfl
@[simp] theorem state_modDraw_codedPoison : (s.modDraw u fW).codedPoison = s.codedPoison := rfl
@[simp] theorem state_modDraw_groups : (s.modDraw u fW).groups = s.groups := rfl
@[simp] theorem state_modDraw_blocks : (s.modDraw u fW).blocks = s.blocks := rfl
@[simp] theorem state_modDraw_grids : (s.modDraw u fW).grids = s.grids := rfl
@[simp] theorem state_modDraw_conts : (s.modDraw u fW).conts = s.conts := rfl
@[simp] theorem state_modDraw_ctxs : (s.modDraw u fW).ctxs = s.ctxs := rfl
@[simp] theorem state_modDraw_clusters : (s.modDraw u fW).clusters = s.clusters := rfl
@[simp] theorem state_modDraw_queue : (s.modDraw u fW).queue = s.queue := rfl
@[simp] theorem state_modDraw_preempting : (s.modDraw u fW).preempting = s.preempting := rfl
@[simp] theorem state_modDraw_caravans : (s.modDraw u fW).caravans = s.caravans := rfl
@[simp] theorem state_modDraw_engines : (s.modDraw u fW).engines = s.engines := rfl
@[simp] theorem state_modDraw_replayed : (s.modDraw u fW).replayed = s.replayed := rfl
@[simp] theorem state_modDraw_lateOps : (s.modDraw u fW).lateOps = s.lateOps := rfl
@[simp] theorem state_modDraw_xalls : (s.modDraw u fW).xalls = s.xalls := rfl
@[simp] theorem state_modDraw_records : (s.modDraw u fW).records = s.records := rfl
@[simp] theorem state_modDraw_handlerQueue : (s.modDraw u fW).handlerQueue = s.handlerQueue := rfl
@[simp] theorem state_modDraw_replays : (s.modDraw u fW).replays = s.replays := rfl
@[simp] theorem state_modDraw_tlbs : (s.modDraw u fW).tlbs = s.tlbs := rfl
@[simp] theorem state_modDraw_fills : (s.modDraw u fW).fills = s.fills := rfl
@[simp] theorem state_modDraw_tokenOps : (s.modDraw u fW).tokenOps = s.tokenOps := rfl
@[simp] theorem state_modDraw_heads : (s.modDraw u fW).heads = s.heads := rfl
@[simp] theorem state_modDraw_parts : (s.modDraw u fW).parts = s.parts := rfl
@[simp] theorem state_modDraw_images : (s.modDraw u fW).images = s.images := rfl
@[simp] theorem state_modDraw_frbase : (s.modDraw u fW).frbase = s.frbase := rfl
@[simp] theorem state_modDraw_busyRoutes : (s.modDraw u fW).busyRoutes = s.busyRoutes := rfl
@[simp] theorem state_modDraw_bringup0 : (s.modDraw u fW).bringup0 = s.bringup0 := rfl
@[simp] theorem state_modDraw_lpok : (s.modDraw u fW).lpok = s.lpok := rfl
@[simp] theorem state_modDraw_tomup : (s.modDraw u fW).tomup = s.tomup := rfl
@[simp] theorem state_modDraw_ringPut : (s.modDraw u fW).ringPut = s.ringPut := rfl
@[simp] theorem state_modDraw_podId : (s.modDraw u fW).podId = s.podId := rfl
@[simp] theorem state_modDraw_lost : (s.modDraw u fW).lost = s.lost := rfl
@[simp] theorem state_modDraw_flits : (s.modDraw u fW).flits = s.flits := rfl
@[simp] theorem state_modDraw_ras : (s.modDraw u fW).ras = s.ras := rfl
@[simp] theorem state_modDraw_rasDropped : (s.modDraw u fW).rasDropped = s.rasDropped := rfl
@[simp] theorem state_modDraw_rasClock : (s.modDraw u fW).rasClock = s.rasClock := rfl
@[simp] theorem state_modDraw_rasCount : (s.modDraw u fW).rasCount = s.rasCount := rfl
@[simp] theorem state_modDraw_corrected : (s.modDraw u fW).corrected = s.corrected := rfl
@[simp] theorem state_modDraw_retired : (s.modDraw u fW).retired = s.retired := rfl
@[simp] theorem state_modDraw_failed : (s.modDraw u fW).failed = s.failed := rfl
@[simp] theorem state_modDraw_flash : (s.modDraw u fW).flash = s.flash := rfl
@[simp] theorem state_modDraw_fuses : (s.modDraw u fW).fuses = s.fuses := rfl
@[simp] theorem state_modDraw_leaf : (s.modDraw u fW).leaf = s.leaf := rfl
@[simp] theorem state_modDraw_running : (s.modDraw u fW).running = s.running := rfl
@[simp] theorem state_modDraw_outbox : (s.modDraw u fW).outbox = s.outbox := rfl
@[simp] theorem state_modDraw_awaited : (s.modDraw u fW).awaited = s.awaited := rfl
@[simp] theorem state_modDraw_waiting : (s.modDraw u fW).waiting = s.waiting := rfl
@[simp] theorem state_modDraw_tasks : (s.modDraw u fW).tasks = s.tasks := rfl
@[simp] theorem state_modDraw_drops : (s.modDraw u fW).drops = s.drops := rfl
@[simp] theorem state_modDraw_scrubbed : (s.modDraw u fW).scrubbed = s.scrubbed := rfl
@[simp] theorem state_modDraw_periods : (s.modDraw u fW).periods = s.periods := rfl
@[simp] theorem state_modDraw_sramRail : (s.modDraw u fW).sramRail = s.sramRail := rfl

/-! State.modReplay -/

@[simp] theorem state_modReplay_agenda : (s.modReplay n fR).agenda = s.agenda := rfl
@[simp] theorem state_modReplay_turn : (s.modReplay n fR).turn = s.turn := rfl
@[simp] theorem state_modReplay_undefCtr : (s.modReplay n fR).undefCtr = s.undefCtr := rfl
@[simp] theorem state_modReplay_undefCtrs : (s.modReplay n fR).undefCtrs = s.undefCtrs := rfl
@[simp] theorem state_modReplay_fresh : (s.modReplay n fR).fresh = s.fresh := rfl
@[simp] theorem state_modReplay_mem : (s.modReplay n fR).mem = s.mem := rfl
@[simp] theorem state_modReplay_memPoison : (s.modReplay n fR).memPoison = s.memPoison := rfl
@[simp] theorem state_modReplay_codedPoison : (s.modReplay n fR).codedPoison = s.codedPoison := rfl
@[simp] theorem state_modReplay_groups : (s.modReplay n fR).groups = s.groups := rfl
@[simp] theorem state_modReplay_blocks : (s.modReplay n fR).blocks = s.blocks := rfl
@[simp] theorem state_modReplay_grids : (s.modReplay n fR).grids = s.grids := rfl
@[simp] theorem state_modReplay_conts : (s.modReplay n fR).conts = s.conts := rfl
@[simp] theorem state_modReplay_ctxs : (s.modReplay n fR).ctxs = s.ctxs := rfl
@[simp] theorem state_modReplay_clusters : (s.modReplay n fR).clusters = s.clusters := rfl
@[simp] theorem state_modReplay_queue : (s.modReplay n fR).queue = s.queue := rfl
@[simp] theorem state_modReplay_preempting : (s.modReplay n fR).preempting = s.preempting := rfl
@[simp] theorem state_modReplay_caravans : (s.modReplay n fR).caravans = s.caravans := rfl
@[simp] theorem state_modReplay_engines : (s.modReplay n fR).engines = s.engines := rfl
@[simp] theorem state_modReplay_replayed : (s.modReplay n fR).replayed = s.replayed := rfl
@[simp] theorem state_modReplay_lateOps : (s.modReplay n fR).lateOps = s.lateOps := rfl
@[simp] theorem state_modReplay_xalls : (s.modReplay n fR).xalls = s.xalls := rfl
@[simp] theorem state_modReplay_records : (s.modReplay n fR).records = s.records := rfl
@[simp] theorem state_modReplay_handlerQueue : (s.modReplay n fR).handlerQueue = s.handlerQueue := rfl
@[simp] theorem state_modReplay_draws : (s.modReplay n fR).draws = s.draws := rfl
@[simp] theorem state_modReplay_tlbs : (s.modReplay n fR).tlbs = s.tlbs := rfl
@[simp] theorem state_modReplay_fills : (s.modReplay n fR).fills = s.fills := rfl
@[simp] theorem state_modReplay_tokenOps : (s.modReplay n fR).tokenOps = s.tokenOps := rfl
@[simp] theorem state_modReplay_heads : (s.modReplay n fR).heads = s.heads := rfl
@[simp] theorem state_modReplay_parts : (s.modReplay n fR).parts = s.parts := rfl
@[simp] theorem state_modReplay_images : (s.modReplay n fR).images = s.images := rfl
@[simp] theorem state_modReplay_frbase : (s.modReplay n fR).frbase = s.frbase := rfl
@[simp] theorem state_modReplay_busyRoutes : (s.modReplay n fR).busyRoutes = s.busyRoutes := rfl
@[simp] theorem state_modReplay_bringup0 : (s.modReplay n fR).bringup0 = s.bringup0 := rfl
@[simp] theorem state_modReplay_lpok : (s.modReplay n fR).lpok = s.lpok := rfl
@[simp] theorem state_modReplay_tomup : (s.modReplay n fR).tomup = s.tomup := rfl
@[simp] theorem state_modReplay_ringPut : (s.modReplay n fR).ringPut = s.ringPut := rfl
@[simp] theorem state_modReplay_podId : (s.modReplay n fR).podId = s.podId := rfl
@[simp] theorem state_modReplay_lost : (s.modReplay n fR).lost = s.lost := rfl
@[simp] theorem state_modReplay_flits : (s.modReplay n fR).flits = s.flits := rfl
@[simp] theorem state_modReplay_ras : (s.modReplay n fR).ras = s.ras := rfl
@[simp] theorem state_modReplay_rasDropped : (s.modReplay n fR).rasDropped = s.rasDropped := rfl
@[simp] theorem state_modReplay_rasClock : (s.modReplay n fR).rasClock = s.rasClock := rfl
@[simp] theorem state_modReplay_rasCount : (s.modReplay n fR).rasCount = s.rasCount := rfl
@[simp] theorem state_modReplay_corrected : (s.modReplay n fR).corrected = s.corrected := rfl
@[simp] theorem state_modReplay_retired : (s.modReplay n fR).retired = s.retired := rfl
@[simp] theorem state_modReplay_failed : (s.modReplay n fR).failed = s.failed := rfl
@[simp] theorem state_modReplay_flash : (s.modReplay n fR).flash = s.flash := rfl
@[simp] theorem state_modReplay_fuses : (s.modReplay n fR).fuses = s.fuses := rfl
@[simp] theorem state_modReplay_leaf : (s.modReplay n fR).leaf = s.leaf := rfl
@[simp] theorem state_modReplay_running : (s.modReplay n fR).running = s.running := rfl
@[simp] theorem state_modReplay_outbox : (s.modReplay n fR).outbox = s.outbox := rfl
@[simp] theorem state_modReplay_awaited : (s.modReplay n fR).awaited = s.awaited := rfl
@[simp] theorem state_modReplay_waiting : (s.modReplay n fR).waiting = s.waiting := rfl
@[simp] theorem state_modReplay_tasks : (s.modReplay n fR).tasks = s.tasks := rfl
@[simp] theorem state_modReplay_drops : (s.modReplay n fR).drops = s.drops := rfl
@[simp] theorem state_modReplay_scrubbed : (s.modReplay n fR).scrubbed = s.scrubbed := rfl
@[simp] theorem state_modReplay_periods : (s.modReplay n fR).periods = s.periods := rfl
@[simp] theorem state_modReplay_sramRail : (s.modReplay n fR).sramRail = s.sramRail := rfl

/-! Group.modLane -/

@[simp] theorem group_modLane_uid : (g.modLane l fL).uid = g.uid := rfl
@[simp] theorem group_modLane_block : (g.modLane l fL).block = g.block := rfl
@[simp] theorem group_modLane_gid : (g.modLane l fL).gid = g.gid := rfl
@[simp] theorem group_modLane_width : (g.modLane l fL).width = g.width := rfl
@[simp] theorem group_modLane_s : (g.modLane l fL).s = g.s := rfl
@[simp] theorem group_modLane_sPoison : (g.modLane l fL).sPoison = g.sPoison := rfl
@[simp] theorem group_modLane_sbase : (g.modLane l fL).sbase = g.sbase := rfl
@[simp] theorem group_modLane_k : (g.modLane l fL).k = g.k := rfl
@[simp] theorem group_modLane_flags : (g.modLane l fL).flags = g.flags := rfl
@[simp] theorem group_modLane_h : (g.modLane l fL).h = g.h := rfl
@[simp] theorem group_modLane_hPoison : (g.modLane l fL).hPoison = g.hPoison := rfl
@[simp] theorem group_modLane_c : (g.modLane l fL).c = g.c := rfl
@[simp] theorem group_modLane_htie : (g.modLane l fL).htie = g.htie := rfl
@[simp] theorem group_modLane_z : (g.modLane l fL).z = g.z := rfl
@[simp] theorem group_modLane_zPoison : (g.modLane l fL).zPoison = g.zPoison := rfl
@[simp] theorem group_modLane_progress : (g.modLane l fL).progress = g.progress := rfl
@[simp] theorem group_modLane_uses : (g.modLane l fL).uses = g.uses := rfl
@[simp] theorem group_modLane_svcarg : (g.modLane l fL).svcarg = g.svcarg := rfl
@[simp] theorem group_modLane_role : (g.modLane l fL).role = g.role := rfl
@[simp] theorem group_modLane_budget : (g.modLane l fL).budget = g.budget := rfl
@[simp] theorem group_modLane_handler : (g.modLane l fL).handler = g.handler := rfl
@[simp] theorem group_modLane_hslot : (g.modLane l fL).hslot = g.hslot := rfl
@[simp] theorem group_modLane_replay : (g.modLane l fL).replay = g.replay := rfl
@[simp] theorem group_modLane_restored : (g.modLane l fL).restored = g.restored := rfl
@[simp] theorem group_modLane_serial : (g.modLane l fL).serial = g.serial := rfl
@[simp] theorem group_modLane_fair : (g.modLane l fL).fair = g.fair := rfl
@[simp] theorem group_modLane_yieldPc : (g.modLane l fL).yieldPc = g.yieldPc := rfl
@[simp] theorem group_modLane_lastPc : (g.modLane l fL).lastPc = g.lastPc := rfl
@[simp] theorem group_modLane_issued : (g.modLane l fL).issued = g.issued := rfl
@[simp] theorem group_modLane_serialLane : (g.modLane l fL).serialLane = g.serialLane := rfl
@[simp] theorem group_modLane_late : (g.modLane l fL).late = g.late := rfl
@[simp] theorem group_modLane_gen : (g.modLane l fL).gen = g.gen := rfl
@[simp] theorem group_modLane_clause : (g.modLane l fL).clause = g.clause := rfl
@[simp] theorem group_modLane_pend : (g.modLane l fL).pend = g.pend := rfl
@[simp] theorem group_modLane_seen : (g.modLane l fL).seen = g.seen := rfl
@[simp] theorem group_modLane_joins : (g.modLane l fL).joins = g.joins := rfl
@[simp] theorem group_modLane_s0 : (g.modLane l fL).s0 = g.s0 := rfl
@[simp] theorem group_modLane_lastIssue : (g.modLane l fL).lastIssue = g.lastIssue := rfl
@[simp] theorem group_modLane_lastA : (g.modLane l fL).lastA = g.lastA := rfl
@[simp] theorem group_modLane_lastB : (g.modLane l fL).lastB = g.lastB := rfl
@[simp] theorem group_modLane_core : (g.modLane l fL).core = g.core := rfl
@[simp] theorem group_modLane_hwslot : (g.modLane l fL).hwslot = g.hwslot := rfl
@[simp] theorem group_modLane_slotLane : (g.modLane l fL).slotLane = g.slotLane := rfl
@[simp] theorem group_modLane_pixel : (g.modLane l fL).pixel = g.pixel := rfl
@[simp] theorem group_modLane_expired : (g.modLane l fL).expired = g.expired := rfl

/-! Group.modLanes -/

@[simp] theorem group_modLanes_uid : (g.modLanes m fN).uid = g.uid := rfl
@[simp] theorem group_modLanes_block : (g.modLanes m fN).block = g.block := rfl
@[simp] theorem group_modLanes_gid : (g.modLanes m fN).gid = g.gid := rfl
@[simp] theorem group_modLanes_width : (g.modLanes m fN).width = g.width := rfl
@[simp] theorem group_modLanes_s : (g.modLanes m fN).s = g.s := rfl
@[simp] theorem group_modLanes_sPoison : (g.modLanes m fN).sPoison = g.sPoison := rfl
@[simp] theorem group_modLanes_sbase : (g.modLanes m fN).sbase = g.sbase := rfl
@[simp] theorem group_modLanes_k : (g.modLanes m fN).k = g.k := rfl
@[simp] theorem group_modLanes_flags : (g.modLanes m fN).flags = g.flags := rfl
@[simp] theorem group_modLanes_h : (g.modLanes m fN).h = g.h := rfl
@[simp] theorem group_modLanes_hPoison : (g.modLanes m fN).hPoison = g.hPoison := rfl
@[simp] theorem group_modLanes_c : (g.modLanes m fN).c = g.c := rfl
@[simp] theorem group_modLanes_htie : (g.modLanes m fN).htie = g.htie := rfl
@[simp] theorem group_modLanes_z : (g.modLanes m fN).z = g.z := rfl
@[simp] theorem group_modLanes_zPoison : (g.modLanes m fN).zPoison = g.zPoison := rfl
@[simp] theorem group_modLanes_progress : (g.modLanes m fN).progress = g.progress := rfl
@[simp] theorem group_modLanes_uses : (g.modLanes m fN).uses = g.uses := rfl
@[simp] theorem group_modLanes_svcarg : (g.modLanes m fN).svcarg = g.svcarg := rfl
@[simp] theorem group_modLanes_role : (g.modLanes m fN).role = g.role := rfl
@[simp] theorem group_modLanes_budget : (g.modLanes m fN).budget = g.budget := rfl
@[simp] theorem group_modLanes_handler : (g.modLanes m fN).handler = g.handler := rfl
@[simp] theorem group_modLanes_hslot : (g.modLanes m fN).hslot = g.hslot := rfl
@[simp] theorem group_modLanes_replay : (g.modLanes m fN).replay = g.replay := rfl
@[simp] theorem group_modLanes_restored : (g.modLanes m fN).restored = g.restored := rfl
@[simp] theorem group_modLanes_serial : (g.modLanes m fN).serial = g.serial := rfl
@[simp] theorem group_modLanes_fair : (g.modLanes m fN).fair = g.fair := rfl
@[simp] theorem group_modLanes_yieldPc : (g.modLanes m fN).yieldPc = g.yieldPc := rfl
@[simp] theorem group_modLanes_lastPc : (g.modLanes m fN).lastPc = g.lastPc := rfl
@[simp] theorem group_modLanes_issued : (g.modLanes m fN).issued = g.issued := rfl
@[simp] theorem group_modLanes_serialLane : (g.modLanes m fN).serialLane = g.serialLane := rfl
@[simp] theorem group_modLanes_late : (g.modLanes m fN).late = g.late := rfl
@[simp] theorem group_modLanes_gen : (g.modLanes m fN).gen = g.gen := rfl
@[simp] theorem group_modLanes_clause : (g.modLanes m fN).clause = g.clause := rfl
@[simp] theorem group_modLanes_pend : (g.modLanes m fN).pend = g.pend := rfl
@[simp] theorem group_modLanes_seen : (g.modLanes m fN).seen = g.seen := rfl
@[simp] theorem group_modLanes_joins : (g.modLanes m fN).joins = g.joins := rfl
@[simp] theorem group_modLanes_s0 : (g.modLanes m fN).s0 = g.s0 := rfl
@[simp] theorem group_modLanes_lastIssue : (g.modLanes m fN).lastIssue = g.lastIssue := rfl
@[simp] theorem group_modLanes_lastA : (g.modLanes m fN).lastA = g.lastA := rfl
@[simp] theorem group_modLanes_lastB : (g.modLanes m fN).lastB = g.lastB := rfl
@[simp] theorem group_modLanes_core : (g.modLanes m fN).core = g.core := rfl
@[simp] theorem group_modLanes_hwslot : (g.modLanes m fN).hwslot = g.hwslot := rfl
@[simp] theorem group_modLanes_slotLane : (g.modLanes m fN).slotLane = g.slotLane := rfl
@[simp] theorem group_modLanes_pixel : (g.modLanes m fN).pixel = g.pixel := rfl
@[simp] theorem group_modLanes_expired : (g.modLanes m fN).expired = g.expired := rfl

/-! Group.clobber -/

@[simp] theorem group_clobber_uid : (g.clobber d).uid = g.uid := rfl
@[simp] theorem group_clobber_block : (g.clobber d).block = g.block := rfl
@[simp] theorem group_clobber_gid : (g.clobber d).gid = g.gid := rfl
@[simp] theorem group_clobber_width : (g.clobber d).width = g.width := rfl
@[simp] theorem group_clobber_lanes : (g.clobber d).lanes = g.lanes := rfl
@[simp] theorem group_clobber_s : (g.clobber d).s = g.s := rfl
@[simp] theorem group_clobber_sPoison : (g.clobber d).sPoison = g.sPoison := rfl
@[simp] theorem group_clobber_sbase : (g.clobber d).sbase = g.sbase := rfl
@[simp] theorem group_clobber_k : (g.clobber d).k = g.k := rfl
@[simp] theorem group_clobber_flags : (g.clobber d).flags = g.flags := rfl
@[simp] theorem group_clobber_h : (g.clobber d).h = g.h := rfl
@[simp] theorem group_clobber_hPoison : (g.clobber d).hPoison = g.hPoison := rfl
@[simp] theorem group_clobber_c : (g.clobber d).c = g.c := rfl
@[simp] theorem group_clobber_htie : (g.clobber d).htie = g.htie := rfl
@[simp] theorem group_clobber_z : (g.clobber d).z = g.z := rfl
@[simp] theorem group_clobber_zPoison : (g.clobber d).zPoison = g.zPoison := rfl
@[simp] theorem group_clobber_progress : (g.clobber d).progress = g.progress := rfl
@[simp] theorem group_clobber_uses : (g.clobber d).uses = g.uses := rfl
@[simp] theorem group_clobber_svcarg : (g.clobber d).svcarg = g.svcarg := rfl
@[simp] theorem group_clobber_role : (g.clobber d).role = g.role := rfl
@[simp] theorem group_clobber_budget : (g.clobber d).budget = g.budget := rfl
@[simp] theorem group_clobber_handler : (g.clobber d).handler = g.handler := rfl
@[simp] theorem group_clobber_hslot : (g.clobber d).hslot = g.hslot := rfl
@[simp] theorem group_clobber_replay : (g.clobber d).replay = g.replay := rfl
@[simp] theorem group_clobber_restored : (g.clobber d).restored = g.restored := rfl
@[simp] theorem group_clobber_serial : (g.clobber d).serial = g.serial := rfl
@[simp] theorem group_clobber_fair : (g.clobber d).fair = g.fair := rfl
@[simp] theorem group_clobber_yieldPc : (g.clobber d).yieldPc = g.yieldPc := rfl
@[simp] theorem group_clobber_lastPc : (g.clobber d).lastPc = g.lastPc := rfl
@[simp] theorem group_clobber_issued : (g.clobber d).issued = g.issued := rfl
@[simp] theorem group_clobber_serialLane : (g.clobber d).serialLane = g.serialLane := rfl
@[simp] theorem group_clobber_late : (g.clobber d).late = g.late := rfl
@[simp] theorem group_clobber_gen : (g.clobber d).gen = g.gen := rfl
@[simp] theorem group_clobber_clause : (g.clobber d).clause = g.clause := rfl
@[simp] theorem group_clobber_seen : (g.clobber d).seen = g.seen := rfl
@[simp] theorem group_clobber_joins : (g.clobber d).joins = g.joins := rfl
@[simp] theorem group_clobber_s0 : (g.clobber d).s0 = g.s0 := rfl
@[simp] theorem group_clobber_lastIssue : (g.clobber d).lastIssue = g.lastIssue := rfl
@[simp] theorem group_clobber_lastA : (g.clobber d).lastA = g.lastA := rfl
@[simp] theorem group_clobber_lastB : (g.clobber d).lastB = g.lastB := rfl
@[simp] theorem group_clobber_core : (g.clobber d).core = g.core := rfl
@[simp] theorem group_clobber_hwslot : (g.clobber d).hwslot = g.hwslot := rfl
@[simp] theorem group_clobber_slotLane : (g.clobber d).slotLane = g.slotLane := rfl
@[simp] theorem group_clobber_pixel : (g.clobber d).pixel = g.pixel := rfl
@[simp] theorem group_clobber_expired : (g.clobber d).expired = g.expired := rfl

/-! Group.putS -/

@[simp] theorem group_putS_uid : (g.putS i w).uid = g.uid := rfl
@[simp] theorem group_putS_block : (g.putS i w).block = g.block := rfl
@[simp] theorem group_putS_gid : (g.putS i w).gid = g.gid := rfl
@[simp] theorem group_putS_width : (g.putS i w).width = g.width := rfl
@[simp] theorem group_putS_lanes : (g.putS i w).lanes = g.lanes := rfl
@[simp] theorem group_putS_sbase : (g.putS i w).sbase = g.sbase := rfl
@[simp] theorem group_putS_k : (g.putS i w).k = g.k := rfl
@[simp] theorem group_putS_flags : (g.putS i w).flags = g.flags := rfl
@[simp] theorem group_putS_h : (g.putS i w).h = g.h := rfl
@[simp] theorem group_putS_hPoison : (g.putS i w).hPoison = g.hPoison := rfl
@[simp] theorem group_putS_c : (g.putS i w).c = g.c := rfl
@[simp] theorem group_putS_htie : (g.putS i w).htie = g.htie := rfl
@[simp] theorem group_putS_z : (g.putS i w).z = g.z := rfl
@[simp] theorem group_putS_zPoison : (g.putS i w).zPoison = g.zPoison := rfl
@[simp] theorem group_putS_progress : (g.putS i w).progress = g.progress := rfl
@[simp] theorem group_putS_uses : (g.putS i w).uses = g.uses := rfl
@[simp] theorem group_putS_svcarg : (g.putS i w).svcarg = g.svcarg := rfl
@[simp] theorem group_putS_role : (g.putS i w).role = g.role := rfl
@[simp] theorem group_putS_budget : (g.putS i w).budget = g.budget := rfl
@[simp] theorem group_putS_handler : (g.putS i w).handler = g.handler := rfl
@[simp] theorem group_putS_hslot : (g.putS i w).hslot = g.hslot := rfl
@[simp] theorem group_putS_replay : (g.putS i w).replay = g.replay := rfl
@[simp] theorem group_putS_restored : (g.putS i w).restored = g.restored := rfl
@[simp] theorem group_putS_serial : (g.putS i w).serial = g.serial := rfl
@[simp] theorem group_putS_fair : (g.putS i w).fair = g.fair := rfl
@[simp] theorem group_putS_yieldPc : (g.putS i w).yieldPc = g.yieldPc := rfl
@[simp] theorem group_putS_lastPc : (g.putS i w).lastPc = g.lastPc := rfl
@[simp] theorem group_putS_issued : (g.putS i w).issued = g.issued := rfl
@[simp] theorem group_putS_serialLane : (g.putS i w).serialLane = g.serialLane := rfl
@[simp] theorem group_putS_late : (g.putS i w).late = g.late := rfl
@[simp] theorem group_putS_gen : (g.putS i w).gen = g.gen := rfl
@[simp] theorem group_putS_clause : (g.putS i w).clause = g.clause := rfl
@[simp] theorem group_putS_seen : (g.putS i w).seen = g.seen := rfl
@[simp] theorem group_putS_joins : (g.putS i w).joins = g.joins := rfl
@[simp] theorem group_putS_s0 : (g.putS i w).s0 = g.s0 := rfl
@[simp] theorem group_putS_lastIssue : (g.putS i w).lastIssue = g.lastIssue := rfl
@[simp] theorem group_putS_lastA : (g.putS i w).lastA = g.lastA := rfl
@[simp] theorem group_putS_lastB : (g.putS i w).lastB = g.lastB := rfl
@[simp] theorem group_putS_core : (g.putS i w).core = g.core := rfl
@[simp] theorem group_putS_hwslot : (g.putS i w).hwslot = g.hwslot := rfl
@[simp] theorem group_putS_slotLane : (g.putS i w).slotLane = g.slotLane := rfl
@[simp] theorem group_putS_pixel : (g.putS i w).pixel = g.pixel := rfl
@[simp] theorem group_putS_expired : (g.putS i w).expired = g.expired := rfl

/-! Group.writeH -/

@[simp] theorem group_writeH_uid : (g.writeH n v).uid = g.uid := rfl
@[simp] theorem group_writeH_block : (g.writeH n v).block = g.block := rfl
@[simp] theorem group_writeH_gid : (g.writeH n v).gid = g.gid := rfl
@[simp] theorem group_writeH_width : (g.writeH n v).width = g.width := rfl
@[simp] theorem group_writeH_lanes : (g.writeH n v).lanes = g.lanes := rfl
@[simp] theorem group_writeH_s : (g.writeH n v).s = g.s := rfl
@[simp] theorem group_writeH_sPoison : (g.writeH n v).sPoison = g.sPoison := rfl
@[simp] theorem group_writeH_sbase : (g.writeH n v).sbase = g.sbase := rfl
@[simp] theorem group_writeH_k : (g.writeH n v).k = g.k := rfl
@[simp] theorem group_writeH_flags : (g.writeH n v).flags = g.flags := rfl
@[simp] theorem group_writeH_c : (g.writeH n v).c = g.c := rfl
@[simp] theorem group_writeH_htie : (g.writeH n v).htie = g.htie := rfl
@[simp] theorem group_writeH_z : (g.writeH n v).z = g.z := rfl
@[simp] theorem group_writeH_zPoison : (g.writeH n v).zPoison = g.zPoison := rfl
@[simp] theorem group_writeH_progress : (g.writeH n v).progress = g.progress := rfl
@[simp] theorem group_writeH_uses : (g.writeH n v).uses = g.uses := rfl
@[simp] theorem group_writeH_svcarg : (g.writeH n v).svcarg = g.svcarg := rfl
@[simp] theorem group_writeH_role : (g.writeH n v).role = g.role := rfl
@[simp] theorem group_writeH_budget : (g.writeH n v).budget = g.budget := rfl
@[simp] theorem group_writeH_handler : (g.writeH n v).handler = g.handler := rfl
@[simp] theorem group_writeH_hslot : (g.writeH n v).hslot = g.hslot := rfl
@[simp] theorem group_writeH_replay : (g.writeH n v).replay = g.replay := rfl
@[simp] theorem group_writeH_restored : (g.writeH n v).restored = g.restored := rfl
@[simp] theorem group_writeH_serial : (g.writeH n v).serial = g.serial := rfl
@[simp] theorem group_writeH_fair : (g.writeH n v).fair = g.fair := rfl
@[simp] theorem group_writeH_yieldPc : (g.writeH n v).yieldPc = g.yieldPc := rfl
@[simp] theorem group_writeH_lastPc : (g.writeH n v).lastPc = g.lastPc := rfl
@[simp] theorem group_writeH_issued : (g.writeH n v).issued = g.issued := rfl
@[simp] theorem group_writeH_serialLane : (g.writeH n v).serialLane = g.serialLane := rfl
@[simp] theorem group_writeH_late : (g.writeH n v).late = g.late := rfl
@[simp] theorem group_writeH_gen : (g.writeH n v).gen = g.gen := rfl
@[simp] theorem group_writeH_clause : (g.writeH n v).clause = g.clause := rfl
@[simp] theorem group_writeH_seen : (g.writeH n v).seen = g.seen := rfl
@[simp] theorem group_writeH_joins : (g.writeH n v).joins = g.joins := rfl
@[simp] theorem group_writeH_s0 : (g.writeH n v).s0 = g.s0 := rfl
@[simp] theorem group_writeH_lastIssue : (g.writeH n v).lastIssue = g.lastIssue := rfl
@[simp] theorem group_writeH_lastA : (g.writeH n v).lastA = g.lastA := rfl
@[simp] theorem group_writeH_lastB : (g.writeH n v).lastB = g.lastB := rfl
@[simp] theorem group_writeH_core : (g.writeH n v).core = g.core := rfl
@[simp] theorem group_writeH_hwslot : (g.writeH n v).hwslot = g.hwslot := rfl
@[simp] theorem group_writeH_slotLane : (g.writeH n v).slotLane = g.slotLane := rfl
@[simp] theorem group_writeH_pixel : (g.writeH n v).pixel = g.pixel := rfl
@[simp] theorem group_writeH_expired : (g.writeH n v).expired = g.expired := rfl

/-! Group.putTile -/

@[simp] theorem group_putTile_uid : (g.putTile z t).uid = g.uid := rfl
@[simp] theorem group_putTile_block : (g.putTile z t).block = g.block := rfl
@[simp] theorem group_putTile_gid : (g.putTile z t).gid = g.gid := rfl
@[simp] theorem group_putTile_width : (g.putTile z t).width = g.width := rfl
@[simp] theorem group_putTile_lanes : (g.putTile z t).lanes = g.lanes := rfl
@[simp] theorem group_putTile_s : (g.putTile z t).s = g.s := rfl
@[simp] theorem group_putTile_sPoison : (g.putTile z t).sPoison = g.sPoison := rfl
@[simp] theorem group_putTile_sbase : (g.putTile z t).sbase = g.sbase := rfl
@[simp] theorem group_putTile_k : (g.putTile z t).k = g.k := rfl
@[simp] theorem group_putTile_flags : (g.putTile z t).flags = g.flags := rfl
@[simp] theorem group_putTile_h : (g.putTile z t).h = g.h := rfl
@[simp] theorem group_putTile_hPoison : (g.putTile z t).hPoison = g.hPoison := rfl
@[simp] theorem group_putTile_c : (g.putTile z t).c = g.c := rfl
@[simp] theorem group_putTile_htie : (g.putTile z t).htie = g.htie := rfl
@[simp] theorem group_putTile_zPoison : (g.putTile z t).zPoison = g.zPoison := rfl
@[simp] theorem group_putTile_progress : (g.putTile z t).progress = g.progress := rfl
@[simp] theorem group_putTile_uses : (g.putTile z t).uses = g.uses := rfl
@[simp] theorem group_putTile_svcarg : (g.putTile z t).svcarg = g.svcarg := rfl
@[simp] theorem group_putTile_role : (g.putTile z t).role = g.role := rfl
@[simp] theorem group_putTile_budget : (g.putTile z t).budget = g.budget := rfl
@[simp] theorem group_putTile_handler : (g.putTile z t).handler = g.handler := rfl
@[simp] theorem group_putTile_hslot : (g.putTile z t).hslot = g.hslot := rfl
@[simp] theorem group_putTile_replay : (g.putTile z t).replay = g.replay := rfl
@[simp] theorem group_putTile_restored : (g.putTile z t).restored = g.restored := rfl
@[simp] theorem group_putTile_serial : (g.putTile z t).serial = g.serial := rfl
@[simp] theorem group_putTile_fair : (g.putTile z t).fair = g.fair := rfl
@[simp] theorem group_putTile_yieldPc : (g.putTile z t).yieldPc = g.yieldPc := rfl
@[simp] theorem group_putTile_lastPc : (g.putTile z t).lastPc = g.lastPc := rfl
@[simp] theorem group_putTile_issued : (g.putTile z t).issued = g.issued := rfl
@[simp] theorem group_putTile_serialLane : (g.putTile z t).serialLane = g.serialLane := rfl
@[simp] theorem group_putTile_late : (g.putTile z t).late = g.late := rfl
@[simp] theorem group_putTile_gen : (g.putTile z t).gen = g.gen := rfl
@[simp] theorem group_putTile_clause : (g.putTile z t).clause = g.clause := rfl
@[simp] theorem group_putTile_pend : (g.putTile z t).pend = g.pend := rfl
@[simp] theorem group_putTile_seen : (g.putTile z t).seen = g.seen := rfl
@[simp] theorem group_putTile_joins : (g.putTile z t).joins = g.joins := rfl
@[simp] theorem group_putTile_s0 : (g.putTile z t).s0 = g.s0 := rfl
@[simp] theorem group_putTile_lastIssue : (g.putTile z t).lastIssue = g.lastIssue := rfl
@[simp] theorem group_putTile_lastA : (g.putTile z t).lastA = g.lastA := rfl
@[simp] theorem group_putTile_lastB : (g.putTile z t).lastB = g.lastB := rfl
@[simp] theorem group_putTile_core : (g.putTile z t).core = g.core := rfl
@[simp] theorem group_putTile_hwslot : (g.putTile z t).hwslot = g.hwslot := rfl
@[simp] theorem group_putTile_slotLane : (g.putTile z t).slotLane = g.slotLane := rfl
@[simp] theorem group_putTile_pixel : (g.putTile z t).pixel = g.pixel := rfl
@[simp] theorem group_putTile_expired : (g.putTile z t).expired = g.expired := rfl

/-! Group.setK -/

@[simp] theorem group_setK_uid : (g.setK n m).uid = g.uid := rfl
@[simp] theorem group_setK_block : (g.setK n m).block = g.block := rfl
@[simp] theorem group_setK_gid : (g.setK n m).gid = g.gid := rfl
@[simp] theorem group_setK_width : (g.setK n m).width = g.width := rfl
@[simp] theorem group_setK_lanes : (g.setK n m).lanes = g.lanes := rfl
@[simp] theorem group_setK_s : (g.setK n m).s = g.s := rfl
@[simp] theorem group_setK_sPoison : (g.setK n m).sPoison = g.sPoison := rfl
@[simp] theorem group_setK_sbase : (g.setK n m).sbase = g.sbase := rfl
@[simp] theorem group_setK_flags : (g.setK n m).flags = g.flags := rfl
@[simp] theorem group_setK_h : (g.setK n m).h = g.h := rfl
@[simp] theorem group_setK_hPoison : (g.setK n m).hPoison = g.hPoison := rfl
@[simp] theorem group_setK_c : (g.setK n m).c = g.c := rfl
@[simp] theorem group_setK_htie : (g.setK n m).htie = g.htie := rfl
@[simp] theorem group_setK_z : (g.setK n m).z = g.z := rfl
@[simp] theorem group_setK_zPoison : (g.setK n m).zPoison = g.zPoison := rfl
@[simp] theorem group_setK_progress : (g.setK n m).progress = g.progress := rfl
@[simp] theorem group_setK_uses : (g.setK n m).uses = g.uses := rfl
@[simp] theorem group_setK_svcarg : (g.setK n m).svcarg = g.svcarg := rfl
@[simp] theorem group_setK_role : (g.setK n m).role = g.role := rfl
@[simp] theorem group_setK_budget : (g.setK n m).budget = g.budget := rfl
@[simp] theorem group_setK_handler : (g.setK n m).handler = g.handler := rfl
@[simp] theorem group_setK_hslot : (g.setK n m).hslot = g.hslot := rfl
@[simp] theorem group_setK_replay : (g.setK n m).replay = g.replay := rfl
@[simp] theorem group_setK_restored : (g.setK n m).restored = g.restored := rfl
@[simp] theorem group_setK_serial : (g.setK n m).serial = g.serial := rfl
@[simp] theorem group_setK_fair : (g.setK n m).fair = g.fair := rfl
@[simp] theorem group_setK_yieldPc : (g.setK n m).yieldPc = g.yieldPc := rfl
@[simp] theorem group_setK_lastPc : (g.setK n m).lastPc = g.lastPc := rfl
@[simp] theorem group_setK_issued : (g.setK n m).issued = g.issued := rfl
@[simp] theorem group_setK_serialLane : (g.setK n m).serialLane = g.serialLane := rfl
@[simp] theorem group_setK_late : (g.setK n m).late = g.late := rfl
@[simp] theorem group_setK_gen : (g.setK n m).gen = g.gen := rfl
@[simp] theorem group_setK_clause : (g.setK n m).clause = g.clause := rfl
@[simp] theorem group_setK_pend : (g.setK n m).pend = g.pend := rfl
@[simp] theorem group_setK_seen : (g.setK n m).seen = g.seen := rfl
@[simp] theorem group_setK_joins : (g.setK n m).joins = g.joins := rfl
@[simp] theorem group_setK_s0 : (g.setK n m).s0 = g.s0 := rfl
@[simp] theorem group_setK_lastIssue : (g.setK n m).lastIssue = g.lastIssue := rfl
@[simp] theorem group_setK_lastA : (g.setK n m).lastA = g.lastA := rfl
@[simp] theorem group_setK_lastB : (g.setK n m).lastB = g.lastB := rfl
@[simp] theorem group_setK_core : (g.setK n m).core = g.core := rfl
@[simp] theorem group_setK_hwslot : (g.setK n m).hwslot = g.hwslot := rfl
@[simp] theorem group_setK_slotLane : (g.setK n m).slotLane = g.slotLane := rfl
@[simp] theorem group_setK_pixel : (g.setK n m).pixel = g.pixel := rfl
@[simp] theorem group_setK_expired : (g.setK n m).expired = g.expired := rfl

/-! Group.setFlag -/

@[simp] theorem group_setFlag_uid : (g.setFlag x).uid = g.uid := rfl
@[simp] theorem group_setFlag_block : (g.setFlag x).block = g.block := rfl
@[simp] theorem group_setFlag_gid : (g.setFlag x).gid = g.gid := rfl
@[simp] theorem group_setFlag_width : (g.setFlag x).width = g.width := rfl
@[simp] theorem group_setFlag_lanes : (g.setFlag x).lanes = g.lanes := rfl
@[simp] theorem group_setFlag_s : (g.setFlag x).s = g.s := rfl
@[simp] theorem group_setFlag_sPoison : (g.setFlag x).sPoison = g.sPoison := rfl
@[simp] theorem group_setFlag_sbase : (g.setFlag x).sbase = g.sbase := rfl
@[simp] theorem group_setFlag_k : (g.setFlag x).k = g.k := rfl
@[simp] theorem group_setFlag_h : (g.setFlag x).h = g.h := rfl
@[simp] theorem group_setFlag_hPoison : (g.setFlag x).hPoison = g.hPoison := rfl
@[simp] theorem group_setFlag_c : (g.setFlag x).c = g.c := rfl
@[simp] theorem group_setFlag_htie : (g.setFlag x).htie = g.htie := rfl
@[simp] theorem group_setFlag_z : (g.setFlag x).z = g.z := rfl
@[simp] theorem group_setFlag_zPoison : (g.setFlag x).zPoison = g.zPoison := rfl
@[simp] theorem group_setFlag_progress : (g.setFlag x).progress = g.progress := rfl
@[simp] theorem group_setFlag_uses : (g.setFlag x).uses = g.uses := rfl
@[simp] theorem group_setFlag_svcarg : (g.setFlag x).svcarg = g.svcarg := rfl
@[simp] theorem group_setFlag_role : (g.setFlag x).role = g.role := rfl
@[simp] theorem group_setFlag_budget : (g.setFlag x).budget = g.budget := rfl
@[simp] theorem group_setFlag_handler : (g.setFlag x).handler = g.handler := rfl
@[simp] theorem group_setFlag_hslot : (g.setFlag x).hslot = g.hslot := rfl
@[simp] theorem group_setFlag_replay : (g.setFlag x).replay = g.replay := rfl
@[simp] theorem group_setFlag_restored : (g.setFlag x).restored = g.restored := rfl
@[simp] theorem group_setFlag_serial : (g.setFlag x).serial = g.serial := rfl
@[simp] theorem group_setFlag_fair : (g.setFlag x).fair = g.fair := rfl
@[simp] theorem group_setFlag_yieldPc : (g.setFlag x).yieldPc = g.yieldPc := rfl
@[simp] theorem group_setFlag_lastPc : (g.setFlag x).lastPc = g.lastPc := rfl
@[simp] theorem group_setFlag_issued : (g.setFlag x).issued = g.issued := rfl
@[simp] theorem group_setFlag_serialLane : (g.setFlag x).serialLane = g.serialLane := rfl
@[simp] theorem group_setFlag_late : (g.setFlag x).late = g.late := rfl
@[simp] theorem group_setFlag_gen : (g.setFlag x).gen = g.gen := rfl
@[simp] theorem group_setFlag_clause : (g.setFlag x).clause = g.clause := rfl
@[simp] theorem group_setFlag_pend : (g.setFlag x).pend = g.pend := rfl
@[simp] theorem group_setFlag_seen : (g.setFlag x).seen = g.seen := rfl
@[simp] theorem group_setFlag_joins : (g.setFlag x).joins = g.joins := rfl
@[simp] theorem group_setFlag_s0 : (g.setFlag x).s0 = g.s0 := rfl
@[simp] theorem group_setFlag_lastIssue : (g.setFlag x).lastIssue = g.lastIssue := rfl
@[simp] theorem group_setFlag_lastA : (g.setFlag x).lastA = g.lastA := rfl
@[simp] theorem group_setFlag_lastB : (g.setFlag x).lastB = g.lastB := rfl
@[simp] theorem group_setFlag_core : (g.setFlag x).core = g.core := rfl
@[simp] theorem group_setFlag_hwslot : (g.setFlag x).hwslot = g.hwslot := rfl
@[simp] theorem group_setFlag_slotLane : (g.setFlag x).slotLane = g.slotLane := rfl
@[simp] theorem group_setFlag_pixel : (g.setFlag x).pixel = g.pixel := rfl
@[simp] theorem group_setFlag_expired : (g.setFlag x).expired = g.expired := rfl

/-! Group.clearFlag -/

@[simp] theorem group_clearFlag_uid : (g.clearFlag x).uid = g.uid := rfl
@[simp] theorem group_clearFlag_block : (g.clearFlag x).block = g.block := rfl
@[simp] theorem group_clearFlag_gid : (g.clearFlag x).gid = g.gid := rfl
@[simp] theorem group_clearFlag_width : (g.clearFlag x).width = g.width := rfl
@[simp] theorem group_clearFlag_lanes : (g.clearFlag x).lanes = g.lanes := rfl
@[simp] theorem group_clearFlag_s : (g.clearFlag x).s = g.s := rfl
@[simp] theorem group_clearFlag_sPoison : (g.clearFlag x).sPoison = g.sPoison := rfl
@[simp] theorem group_clearFlag_sbase : (g.clearFlag x).sbase = g.sbase := rfl
@[simp] theorem group_clearFlag_k : (g.clearFlag x).k = g.k := rfl
@[simp] theorem group_clearFlag_h : (g.clearFlag x).h = g.h := rfl
@[simp] theorem group_clearFlag_hPoison : (g.clearFlag x).hPoison = g.hPoison := rfl
@[simp] theorem group_clearFlag_c : (g.clearFlag x).c = g.c := rfl
@[simp] theorem group_clearFlag_htie : (g.clearFlag x).htie = g.htie := rfl
@[simp] theorem group_clearFlag_z : (g.clearFlag x).z = g.z := rfl
@[simp] theorem group_clearFlag_zPoison : (g.clearFlag x).zPoison = g.zPoison := rfl
@[simp] theorem group_clearFlag_progress : (g.clearFlag x).progress = g.progress := rfl
@[simp] theorem group_clearFlag_uses : (g.clearFlag x).uses = g.uses := rfl
@[simp] theorem group_clearFlag_svcarg : (g.clearFlag x).svcarg = g.svcarg := rfl
@[simp] theorem group_clearFlag_role : (g.clearFlag x).role = g.role := rfl
@[simp] theorem group_clearFlag_budget : (g.clearFlag x).budget = g.budget := rfl
@[simp] theorem group_clearFlag_handler : (g.clearFlag x).handler = g.handler := rfl
@[simp] theorem group_clearFlag_hslot : (g.clearFlag x).hslot = g.hslot := rfl
@[simp] theorem group_clearFlag_replay : (g.clearFlag x).replay = g.replay := rfl
@[simp] theorem group_clearFlag_restored : (g.clearFlag x).restored = g.restored := rfl
@[simp] theorem group_clearFlag_serial : (g.clearFlag x).serial = g.serial := rfl
@[simp] theorem group_clearFlag_fair : (g.clearFlag x).fair = g.fair := rfl
@[simp] theorem group_clearFlag_yieldPc : (g.clearFlag x).yieldPc = g.yieldPc := rfl
@[simp] theorem group_clearFlag_lastPc : (g.clearFlag x).lastPc = g.lastPc := rfl
@[simp] theorem group_clearFlag_issued : (g.clearFlag x).issued = g.issued := rfl
@[simp] theorem group_clearFlag_serialLane : (g.clearFlag x).serialLane = g.serialLane := rfl
@[simp] theorem group_clearFlag_late : (g.clearFlag x).late = g.late := rfl
@[simp] theorem group_clearFlag_gen : (g.clearFlag x).gen = g.gen := rfl
@[simp] theorem group_clearFlag_clause : (g.clearFlag x).clause = g.clause := rfl
@[simp] theorem group_clearFlag_pend : (g.clearFlag x).pend = g.pend := rfl
@[simp] theorem group_clearFlag_seen : (g.clearFlag x).seen = g.seen := rfl
@[simp] theorem group_clearFlag_joins : (g.clearFlag x).joins = g.joins := rfl
@[simp] theorem group_clearFlag_s0 : (g.clearFlag x).s0 = g.s0 := rfl
@[simp] theorem group_clearFlag_lastIssue : (g.clearFlag x).lastIssue = g.lastIssue := rfl
@[simp] theorem group_clearFlag_lastA : (g.clearFlag x).lastA = g.lastA := rfl
@[simp] theorem group_clearFlag_lastB : (g.clearFlag x).lastB = g.lastB := rfl
@[simp] theorem group_clearFlag_core : (g.clearFlag x).core = g.core := rfl
@[simp] theorem group_clearFlag_hwslot : (g.clearFlag x).hwslot = g.hwslot := rfl
@[simp] theorem group_clearFlag_slotLane : (g.clearFlag x).slotLane = g.slotLane := rfl
@[simp] theorem group_clearFlag_pixel : (g.clearFlag x).pixel = g.pixel := rfl
@[simp] theorem group_clearFlag_expired : (g.clearFlag x).expired = g.expired := rfl

/-! Group.modClause -/

@[simp] theorem group_modClause_uid : (g.modClause fC).uid = g.uid := rfl
@[simp] theorem group_modClause_block : (g.modClause fC).block = g.block := rfl
@[simp] theorem group_modClause_gid : (g.modClause fC).gid = g.gid := rfl
@[simp] theorem group_modClause_width : (g.modClause fC).width = g.width := rfl
@[simp] theorem group_modClause_lanes : (g.modClause fC).lanes = g.lanes := rfl
@[simp] theorem group_modClause_s : (g.modClause fC).s = g.s := rfl
@[simp] theorem group_modClause_sPoison : (g.modClause fC).sPoison = g.sPoison := rfl
@[simp] theorem group_modClause_sbase : (g.modClause fC).sbase = g.sbase := rfl
@[simp] theorem group_modClause_k : (g.modClause fC).k = g.k := rfl
@[simp] theorem group_modClause_flags : (g.modClause fC).flags = g.flags := rfl
@[simp] theorem group_modClause_h : (g.modClause fC).h = g.h := rfl
@[simp] theorem group_modClause_hPoison : (g.modClause fC).hPoison = g.hPoison := rfl
@[simp] theorem group_modClause_c : (g.modClause fC).c = g.c := rfl
@[simp] theorem group_modClause_htie : (g.modClause fC).htie = g.htie := rfl
@[simp] theorem group_modClause_z : (g.modClause fC).z = g.z := rfl
@[simp] theorem group_modClause_zPoison : (g.modClause fC).zPoison = g.zPoison := rfl
@[simp] theorem group_modClause_progress : (g.modClause fC).progress = g.progress := rfl
@[simp] theorem group_modClause_uses : (g.modClause fC).uses = g.uses := rfl
@[simp] theorem group_modClause_svcarg : (g.modClause fC).svcarg = g.svcarg := rfl
@[simp] theorem group_modClause_role : (g.modClause fC).role = g.role := rfl
@[simp] theorem group_modClause_budget : (g.modClause fC).budget = g.budget := rfl
@[simp] theorem group_modClause_handler : (g.modClause fC).handler = g.handler := rfl
@[simp] theorem group_modClause_hslot : (g.modClause fC).hslot = g.hslot := rfl
@[simp] theorem group_modClause_replay : (g.modClause fC).replay = g.replay := rfl
@[simp] theorem group_modClause_restored : (g.modClause fC).restored = g.restored := rfl
@[simp] theorem group_modClause_serial : (g.modClause fC).serial = g.serial := rfl
@[simp] theorem group_modClause_fair : (g.modClause fC).fair = g.fair := rfl
@[simp] theorem group_modClause_yieldPc : (g.modClause fC).yieldPc = g.yieldPc := rfl
@[simp] theorem group_modClause_lastPc : (g.modClause fC).lastPc = g.lastPc := rfl
@[simp] theorem group_modClause_issued : (g.modClause fC).issued = g.issued := rfl
@[simp] theorem group_modClause_serialLane : (g.modClause fC).serialLane = g.serialLane := rfl
@[simp] theorem group_modClause_late : (g.modClause fC).late = g.late := rfl
@[simp] theorem group_modClause_gen : (g.modClause fC).gen = g.gen := rfl
@[simp] theorem group_modClause_pend : (g.modClause fC).pend = g.pend := rfl
@[simp] theorem group_modClause_seen : (g.modClause fC).seen = g.seen := rfl
@[simp] theorem group_modClause_joins : (g.modClause fC).joins = g.joins := rfl
@[simp] theorem group_modClause_s0 : (g.modClause fC).s0 = g.s0 := rfl
@[simp] theorem group_modClause_lastIssue : (g.modClause fC).lastIssue = g.lastIssue := rfl
@[simp] theorem group_modClause_lastA : (g.modClause fC).lastA = g.lastA := rfl
@[simp] theorem group_modClause_lastB : (g.modClause fC).lastB = g.lastB := rfl
@[simp] theorem group_modClause_core : (g.modClause fC).core = g.core := rfl
@[simp] theorem group_modClause_hwslot : (g.modClause fC).hwslot = g.hwslot := rfl
@[simp] theorem group_modClause_slotLane : (g.modClause fC).slotLane = g.slotLane := rfl
@[simp] theorem group_modClause_pixel : (g.modClause fC).pixel = g.pixel := rfl
@[simp] theorem group_modClause_expired : (g.modClause fC).expired = g.expired := rfl

/-! Group.writeV -/

@[simp] theorem group_writeV_uid : (g.writeV l r w).uid = g.uid := by
  unfold Machine.Group.writeV; split <;> rfl
@[simp] theorem group_writeV_block : (g.writeV l r w).block = g.block := by
  unfold Machine.Group.writeV; split <;> rfl
@[simp] theorem group_writeV_gid : (g.writeV l r w).gid = g.gid := by
  unfold Machine.Group.writeV; split <;> rfl
@[simp] theorem group_writeV_width : (g.writeV l r w).width = g.width := by
  unfold Machine.Group.writeV; split <;> rfl
@[simp] theorem group_writeV_s : (g.writeV l r w).s = g.s := by
  unfold Machine.Group.writeV; split <;> rfl
@[simp] theorem group_writeV_sPoison : (g.writeV l r w).sPoison = g.sPoison := by
  unfold Machine.Group.writeV; split <;> rfl
@[simp] theorem group_writeV_sbase : (g.writeV l r w).sbase = g.sbase := by
  unfold Machine.Group.writeV; split <;> rfl
@[simp] theorem group_writeV_k : (g.writeV l r w).k = g.k := by
  unfold Machine.Group.writeV; split <;> rfl
@[simp] theorem group_writeV_flags : (g.writeV l r w).flags = g.flags := by
  unfold Machine.Group.writeV; split <;> rfl
@[simp] theorem group_writeV_h : (g.writeV l r w).h = g.h := by
  unfold Machine.Group.writeV; split <;> rfl
@[simp] theorem group_writeV_hPoison : (g.writeV l r w).hPoison = g.hPoison := by
  unfold Machine.Group.writeV; split <;> rfl
@[simp] theorem group_writeV_c : (g.writeV l r w).c = g.c := by
  unfold Machine.Group.writeV; split <;> rfl
@[simp] theorem group_writeV_htie : (g.writeV l r w).htie = g.htie := by
  unfold Machine.Group.writeV; split <;> rfl
@[simp] theorem group_writeV_z : (g.writeV l r w).z = g.z := by
  unfold Machine.Group.writeV; split <;> rfl
@[simp] theorem group_writeV_zPoison : (g.writeV l r w).zPoison = g.zPoison := by
  unfold Machine.Group.writeV; split <;> rfl
@[simp] theorem group_writeV_progress : (g.writeV l r w).progress = g.progress := by
  unfold Machine.Group.writeV; split <;> rfl
@[simp] theorem group_writeV_uses : (g.writeV l r w).uses = g.uses := by
  unfold Machine.Group.writeV; split <;> rfl
@[simp] theorem group_writeV_svcarg : (g.writeV l r w).svcarg = g.svcarg := by
  unfold Machine.Group.writeV; split <;> rfl
@[simp] theorem group_writeV_role : (g.writeV l r w).role = g.role := by
  unfold Machine.Group.writeV; split <;> rfl
@[simp] theorem group_writeV_budget : (g.writeV l r w).budget = g.budget := by
  unfold Machine.Group.writeV; split <;> rfl
@[simp] theorem group_writeV_handler : (g.writeV l r w).handler = g.handler := by
  unfold Machine.Group.writeV; split <;> rfl
@[simp] theorem group_writeV_hslot : (g.writeV l r w).hslot = g.hslot := by
  unfold Machine.Group.writeV; split <;> rfl
@[simp] theorem group_writeV_replay : (g.writeV l r w).replay = g.replay := by
  unfold Machine.Group.writeV; split <;> rfl
@[simp] theorem group_writeV_restored : (g.writeV l r w).restored = g.restored := by
  unfold Machine.Group.writeV; split <;> rfl
@[simp] theorem group_writeV_serial : (g.writeV l r w).serial = g.serial := by
  unfold Machine.Group.writeV; split <;> rfl
@[simp] theorem group_writeV_fair : (g.writeV l r w).fair = g.fair := by
  unfold Machine.Group.writeV; split <;> rfl
@[simp] theorem group_writeV_yieldPc : (g.writeV l r w).yieldPc = g.yieldPc := by
  unfold Machine.Group.writeV; split <;> rfl
@[simp] theorem group_writeV_lastPc : (g.writeV l r w).lastPc = g.lastPc := by
  unfold Machine.Group.writeV; split <;> rfl
@[simp] theorem group_writeV_issued : (g.writeV l r w).issued = g.issued := by
  unfold Machine.Group.writeV; split <;> rfl
@[simp] theorem group_writeV_serialLane : (g.writeV l r w).serialLane = g.serialLane := by
  unfold Machine.Group.writeV; split <;> rfl
@[simp] theorem group_writeV_late : (g.writeV l r w).late = g.late := by
  unfold Machine.Group.writeV; split <;> rfl
@[simp] theorem group_writeV_gen : (g.writeV l r w).gen = g.gen := by
  unfold Machine.Group.writeV; split <;> rfl
@[simp] theorem group_writeV_clause : (g.writeV l r w).clause = g.clause := by
  unfold Machine.Group.writeV; split <;> rfl
@[simp] theorem group_writeV_seen : (g.writeV l r w).seen = g.seen := by
  unfold Machine.Group.writeV; split <;> rfl
@[simp] theorem group_writeV_joins : (g.writeV l r w).joins = g.joins := by
  unfold Machine.Group.writeV; split <;> rfl
@[simp] theorem group_writeV_s0 : (g.writeV l r w).s0 = g.s0 := by
  unfold Machine.Group.writeV; split <;> rfl
@[simp] theorem group_writeV_lastIssue : (g.writeV l r w).lastIssue = g.lastIssue := by
  unfold Machine.Group.writeV; split <;> rfl
@[simp] theorem group_writeV_lastA : (g.writeV l r w).lastA = g.lastA := by
  unfold Machine.Group.writeV; split <;> rfl
@[simp] theorem group_writeV_lastB : (g.writeV l r w).lastB = g.lastB := by
  unfold Machine.Group.writeV; split <;> rfl
@[simp] theorem group_writeV_core : (g.writeV l r w).core = g.core := by
  unfold Machine.Group.writeV; split <;> rfl
@[simp] theorem group_writeV_hwslot : (g.writeV l r w).hwslot = g.hwslot := by
  unfold Machine.Group.writeV; split <;> rfl
@[simp] theorem group_writeV_slotLane : (g.writeV l r w).slotLane = g.slotLane := by
  unfold Machine.Group.writeV; split <;> rfl
@[simp] theorem group_writeV_pixel : (g.writeV l r w).pixel = g.pixel := by
  unfold Machine.Group.writeV; split <;> rfl
@[simp] theorem group_writeV_expired : (g.writeV l r w).expired = g.expired := by
  unfold Machine.Group.writeV; split <;> rfl

/-! Group.writeP -/

@[simp] theorem group_writeP_uid : (g.writeP l p b).uid = g.uid := by
  unfold Machine.Group.writeP; split <;> rfl
@[simp] theorem group_writeP_block : (g.writeP l p b).block = g.block := by
  unfold Machine.Group.writeP; split <;> rfl
@[simp] theorem group_writeP_gid : (g.writeP l p b).gid = g.gid := by
  unfold Machine.Group.writeP; split <;> rfl
@[simp] theorem group_writeP_width : (g.writeP l p b).width = g.width := by
  unfold Machine.Group.writeP; split <;> rfl
@[simp] theorem group_writeP_s : (g.writeP l p b).s = g.s := by
  unfold Machine.Group.writeP; split <;> rfl
@[simp] theorem group_writeP_sPoison : (g.writeP l p b).sPoison = g.sPoison := by
  unfold Machine.Group.writeP; split <;> rfl
@[simp] theorem group_writeP_sbase : (g.writeP l p b).sbase = g.sbase := by
  unfold Machine.Group.writeP; split <;> rfl
@[simp] theorem group_writeP_k : (g.writeP l p b).k = g.k := by
  unfold Machine.Group.writeP; split <;> rfl
@[simp] theorem group_writeP_flags : (g.writeP l p b).flags = g.flags := by
  unfold Machine.Group.writeP; split <;> rfl
@[simp] theorem group_writeP_h : (g.writeP l p b).h = g.h := by
  unfold Machine.Group.writeP; split <;> rfl
@[simp] theorem group_writeP_hPoison : (g.writeP l p b).hPoison = g.hPoison := by
  unfold Machine.Group.writeP; split <;> rfl
@[simp] theorem group_writeP_c : (g.writeP l p b).c = g.c := by
  unfold Machine.Group.writeP; split <;> rfl
@[simp] theorem group_writeP_htie : (g.writeP l p b).htie = g.htie := by
  unfold Machine.Group.writeP; split <;> rfl
@[simp] theorem group_writeP_z : (g.writeP l p b).z = g.z := by
  unfold Machine.Group.writeP; split <;> rfl
@[simp] theorem group_writeP_zPoison : (g.writeP l p b).zPoison = g.zPoison := by
  unfold Machine.Group.writeP; split <;> rfl
@[simp] theorem group_writeP_progress : (g.writeP l p b).progress = g.progress := by
  unfold Machine.Group.writeP; split <;> rfl
@[simp] theorem group_writeP_uses : (g.writeP l p b).uses = g.uses := by
  unfold Machine.Group.writeP; split <;> rfl
@[simp] theorem group_writeP_svcarg : (g.writeP l p b).svcarg = g.svcarg := by
  unfold Machine.Group.writeP; split <;> rfl
@[simp] theorem group_writeP_role : (g.writeP l p b).role = g.role := by
  unfold Machine.Group.writeP; split <;> rfl
@[simp] theorem group_writeP_budget : (g.writeP l p b).budget = g.budget := by
  unfold Machine.Group.writeP; split <;> rfl
@[simp] theorem group_writeP_handler : (g.writeP l p b).handler = g.handler := by
  unfold Machine.Group.writeP; split <;> rfl
@[simp] theorem group_writeP_hslot : (g.writeP l p b).hslot = g.hslot := by
  unfold Machine.Group.writeP; split <;> rfl
@[simp] theorem group_writeP_replay : (g.writeP l p b).replay = g.replay := by
  unfold Machine.Group.writeP; split <;> rfl
@[simp] theorem group_writeP_restored : (g.writeP l p b).restored = g.restored := by
  unfold Machine.Group.writeP; split <;> rfl
@[simp] theorem group_writeP_serial : (g.writeP l p b).serial = g.serial := by
  unfold Machine.Group.writeP; split <;> rfl
@[simp] theorem group_writeP_fair : (g.writeP l p b).fair = g.fair := by
  unfold Machine.Group.writeP; split <;> rfl
@[simp] theorem group_writeP_yieldPc : (g.writeP l p b).yieldPc = g.yieldPc := by
  unfold Machine.Group.writeP; split <;> rfl
@[simp] theorem group_writeP_lastPc : (g.writeP l p b).lastPc = g.lastPc := by
  unfold Machine.Group.writeP; split <;> rfl
@[simp] theorem group_writeP_issued : (g.writeP l p b).issued = g.issued := by
  unfold Machine.Group.writeP; split <;> rfl
@[simp] theorem group_writeP_serialLane : (g.writeP l p b).serialLane = g.serialLane := by
  unfold Machine.Group.writeP; split <;> rfl
@[simp] theorem group_writeP_late : (g.writeP l p b).late = g.late := by
  unfold Machine.Group.writeP; split <;> rfl
@[simp] theorem group_writeP_gen : (g.writeP l p b).gen = g.gen := by
  unfold Machine.Group.writeP; split <;> rfl
@[simp] theorem group_writeP_clause : (g.writeP l p b).clause = g.clause := by
  unfold Machine.Group.writeP; split <;> rfl
@[simp] theorem group_writeP_pend : (g.writeP l p b).pend = g.pend := by
  unfold Machine.Group.writeP; split <;> rfl
@[simp] theorem group_writeP_seen : (g.writeP l p b).seen = g.seen := by
  unfold Machine.Group.writeP; split <;> rfl
@[simp] theorem group_writeP_joins : (g.writeP l p b).joins = g.joins := by
  unfold Machine.Group.writeP; split <;> rfl
@[simp] theorem group_writeP_s0 : (g.writeP l p b).s0 = g.s0 := by
  unfold Machine.Group.writeP; split <;> rfl
@[simp] theorem group_writeP_lastIssue : (g.writeP l p b).lastIssue = g.lastIssue := by
  unfold Machine.Group.writeP; split <;> rfl
@[simp] theorem group_writeP_lastA : (g.writeP l p b).lastA = g.lastA := by
  unfold Machine.Group.writeP; split <;> rfl
@[simp] theorem group_writeP_lastB : (g.writeP l p b).lastB = g.lastB := by
  unfold Machine.Group.writeP; split <;> rfl
@[simp] theorem group_writeP_core : (g.writeP l p b).core = g.core := by
  unfold Machine.Group.writeP; split <;> rfl
@[simp] theorem group_writeP_hwslot : (g.writeP l p b).hwslot = g.hwslot := by
  unfold Machine.Group.writeP; split <;> rfl
@[simp] theorem group_writeP_slotLane : (g.writeP l p b).slotLane = g.slotLane := by
  unfold Machine.Group.writeP; split <;> rfl
@[simp] theorem group_writeP_pixel : (g.writeP l p b).pixel = g.pixel := by
  unfold Machine.Group.writeP; split <;> rfl
@[simp] theorem group_writeP_expired : (g.writeP l p b).expired = g.expired := by
  unfold Machine.Group.writeP; split <;> rfl

/-! The others are made of these. -/

theorem state_modCtx_eq (s : State) (slot : Nat) (f : Ctx → Ctx) : s.modCtx slot f = s.setCtx (f (s.ctx slot)) := rfl

theorem state_modCore_eq (s : State) (cl k : Nat) (f : CoreState → CoreState) :
    s.modCore cl k f = s.modCluster cl fun c => { c with cores := tset {} c.cores k (f (tget {} c.cores k)) } := rfl

theorem state_holdClause_eq (s : State) (u : Nat) (w : Wait) :
    s.holdClause u w = s.modGroup u fun g => g.modClause fun c => { c with wait := some w } := rfl

theorem group_writeS_eq (g : Machine.Group) (r : Nat) (w : Word) : g.writeS r w = g.putS (g.sbase + r) w := rfl

theorem group_writeV64_eq (g : Machine.Group) (l r : Nat) (d : DWord) :
    g.writeV64 l r d = (g.writeV l r (lo32 d)).writeV l (r + 1) (hi32 d) := rfl

theorem group_writeS64_eq (g : Machine.Group) (r : Nat) (d : DWord) :
    g.writeS64 r d = (g.writeS r (lo32 d)).writeS (r + 1) (hi32 d) := rfl

end Sys2Proof.Laws
end

