-- ==== Sys2Proof/Laws/Table.lean ====
section
/-! SUPPORT. The laws of sparse tables and of memory: a read after a write, and that every operation keeps
the canonical form. -/

namespace Sys2Proof.Laws

open Sys2Proof.Machine

variable {α : Type}

@[simp] theorem tget_nil (d : α) (n : Nat) : tget d [] n = d := rfl

/-- An entry above the bound of a canonical tail is not listed there. -/
theorem tget_below [DecidableEq α] {d : α} {lo n : Nat} {t : Table α} (h : tabove d lo t = true) (hn : n < lo) :
    tget d t n = d := by
  induction t generalizing lo with
  | nil => rfl
  | cons e t ih =>
    obtain ⟨k, v⟩ := e
    simp only [tabove, Bool.and_eq_true, decide_eq_true_eq] at h
    obtain ⟨⟨hk, -⟩, ht⟩ := h
    rw [tget, if_neg (by omega)]
    exact ih ht (by omega)

theorem tabove_mono [DecidableEq α] {d : α} {lo hi : Nat} {t : Table α} (h : tabove d hi t = true) (hl : lo ≤ hi) :
    tabove d lo t = true := by
  cases t with
  | nil => rfl
  | cons e t =>
    obtain ⟨k, v⟩ := e
    simp only [tabove, Bool.and_eq_true, decide_eq_true_eq] at h ⊢
    exact ⟨⟨by omega, h.1.2⟩, h.2⟩

theorem tput_above [DecidableEq α] {d v : α} {lo n : Nat} {t : Table α} (h : tabove d lo t = true) (hn : lo ≤ n)
    (hv : v ≠ d) : tabove d lo (tput t n v) = true := by
  induction t generalizing lo with
  | nil => simp [tput, tabove, hn, hv]
  | cons e t ih =>
    obtain ⟨k, u⟩ := e
    simp only [tabove, Bool.and_eq_true, decide_eq_true_eq] at h
    obtain ⟨⟨hk, hu⟩, ht⟩ := h
    rw [tput]
    split
    · simp only [tabove, Bool.and_eq_true, decide_eq_true_eq]
      exact ⟨⟨hn, hv⟩, ⟨by omega, hu⟩, ht⟩
    · split
      · subst k
        simp only [tabove, Bool.and_eq_true, decide_eq_true_eq]
        exact ⟨⟨hn, hv⟩, ht⟩
      · simp only [tabove, Bool.and_eq_true, decide_eq_true_eq]
        exact ⟨⟨hk, hu⟩, ih ht (by omega)⟩

theorem tkeep_above [DecidableEq α] {d : α} {lo : Nat} {t : Table α} (p : Nat → Bool) (h : tabove d lo t = true) :
    tabove d lo (tkeep p t) = true := by
  induction t generalizing lo with
  | nil => rfl
  | cons e t ih =>
    obtain ⟨k, u⟩ := e
    simp only [tabove, Bool.and_eq_true, decide_eq_true_eq] at h
    obtain ⟨⟨hk, hu⟩, ht⟩ := h
    have h' := ih ht
    unfold tkeep at h' ⊢
    rw [List.filter_cons]
    split
    · simp only [tabove, Bool.and_eq_true, decide_eq_true_eq]
      exact ⟨⟨hk, hu⟩, h'⟩
    · exact tabove_mono h' (by omega)

/-- A write keeps the canonical form. -/
theorem tset_wf [DecidableEq α] {d v : α} {n : Nat} {t : Table α} (h : twf d t = true) :
    twf d (tset d t n v) = true := by
  unfold tset
  split
  · exact tkeep_above _ h
  · exact tput_above h (Nat.zero_le n) ‹_›

theorem tkeep_wf [DecidableEq α] {d : α} {t : Table α} (p : Nat → Bool) (h : twf d t = true) :
    twf d (tkeep p t) = true := tkeep_above p h

theorem tget_tput_same (d v : α) (n : Nat) (t : Table α) : tget d (tput t n v) n = v := by
  induction t with
  | nil => simp [tput, tget]
  | cons e t ih =>
    obtain ⟨k, u⟩ := e
    rw [tput]
    split
    · simp [tget]
    · split
      · simp [tget]
      · rw [tget, if_neg (by omega)]; exact ih

theorem tget_tput_ne (d v : α) {n m : Nat} (t : Table α) (hm : m ≠ n) : tget d (tput t n v) m = tget d t m := by
  induction t with
  | nil => simp [tput, tget, Ne.symm hm]
  | cons e t ih =>
    obtain ⟨k, u⟩ := e
    rw [tput]
    split
    · simp [tget, Ne.symm hm]
    · split
      · subst k; simp [tget, Ne.symm hm]
      · simp only [tget]; rw [ih]

theorem tget_tkeep (d : α) (p : Nat → Bool) (t : Table α) (m : Nat) :
    tget d (tkeep p t) m = if p m then tget d t m else d := by
  induction t with
  | nil => simp [tkeep, tget]
  | cons e t ih =>
    obtain ⟨k, u⟩ := e
    unfold tkeep at ih ⊢
    rw [List.filter_cons]
    by_cases hk : k = m
    · subst k
      by_cases hp : p m = true <;> simp_all [tget]
    · by_cases hp : p k = true <;> simp [tget, hk, hp, ih]

/-- A read after a write of the same key gives what was written. -/
@[simp] theorem tget_tset_same [DecidableEq α] (d v : α) (n : Nat) (t : Table α) : tget d (tset d t n v) n = v := by
  unfold tset
  split
  · rw [tget_tkeep]; simp [*]
  · exact tget_tput_same d v n t

/-- A write leaves every other key alone. -/
@[simp] theorem tget_tset_ne [DecidableEq α] (d v : α) {n m : Nat} (t : Table α) (hm : m ≠ n) :
    tget d (tset d t n v) m = tget d t m := by
  unfold tset
  split
  · rw [tget_tkeep]; simp [hm]
  · exact tget_tput_ne d v t hm

theorem tget_tset [DecidableEq α] (d v : α) (n m : Nat) (t : Table α) :
    tget d (tset d t n v) m = if m = n then v else tget d t m := by
  split
  · subst m; exact tget_tset_same d v n t
  · exact tget_tset_ne d v t ‹_›

/-- Two canonical tables that read alike everywhere are one table. -/
theorem tabove_ext [DecidableEq α] {d : α} {lo : Nat} {t u : Table α} (ht : tabove d lo t = true)
    (hu : tabove d lo u = true) (h : ∀ n, tget d t n = tget d u n) : t = u := by
  induction t generalizing lo u with
  | nil =>
    cases u with
    | nil => rfl
    | cons e u =>
      obtain ⟨k, v⟩ := e
      simp only [tabove, Bool.and_eq_true, decide_eq_true_eq] at hu
      have := h k
      simp only [tget, if_true] at this
      exact absurd this.symm hu.1.2
  | cons e t ih =>
    obtain ⟨k, v⟩ := e
    have ht0 := ht
    simp only [tabove, Bool.and_eq_true, decide_eq_true_eq] at ht
    cases u with
    | nil =>
      have := h k
      simp only [tget, if_true] at this
      exact absurd this ht.1.2
    | cons e u =>
      obtain ⟨j, w⟩ := e
      have hu0 := hu
      simp only [tabove, Bool.and_eq_true, decide_eq_true_eq] at hu
      have hkj : k = j := by
        rcases Nat.lt_trichotomy k j with hl | hl | hl
        · have h1 := h k
          have h2 := tget_below (d := d) (lo := j + 1) (n := k) hu.2 (by omega)
          simp only [tget, if_true, if_neg (show ¬ j = k by omega), h2] at h1
          exact absurd h1 ht.1.2
        · exact hl
        · have h1 := h j
          have h2 := tget_below (d := d) (lo := k + 1) (n := j) ht.2 (by omega)
          simp only [tget, if_true, if_neg (show ¬ k = j by omega), h2] at h1
          exact absurd h1.symm hu.1.2
      subst hkj
      have hvw := h k
      simp only [tget, if_true] at hvw
      subst hvw
      refine congrArg _ (ih ht.2 hu.2 fun n => ?_)
      by_cases hn : k = n
      · subst hn
        rw [tget_below ht.2 (by omega), tget_below hu.2 (by omega)]
      · have := h n
        simpa only [tget, if_neg hn] using this

/-! ### Memory -/

theorem memory_write_wf {m : List Host.Cell} (a : Nat) (b : Byte) (h : Memory.wf m = true) :
    Memory.wf (Memory.write m a b) = true := tset_wf h

theorem memory_writes_wf {m : List Host.Cell} (a : Nat) (bs : List Byte) (h : Memory.wf m = true) :
    Memory.wf (Memory.writes m a bs) = true := by
  induction bs generalizing m a with
  | nil => exact h
  | cons b bs ih => exact ih (a + 1) (memory_write_wf a b h)

@[simp] theorem memory_read_write_same (m : List Host.Cell) (a : Nat) (b : Byte) :
    Memory.read (Memory.write m a b) a = b := tget_tset_same _ _ _ _

@[simp] theorem memory_read_write_ne (m : List Host.Cell) {a c : Nat} (b : Byte) (h : c ≠ a) :
    Memory.read (Memory.write m a b) c = Memory.read m c := tget_tset_ne _ _ _ h

/-- A run of bytes written changes no byte below it or above it. -/
theorem memory_read_writes_outside (m : List Host.Cell) (a c : Nat) (bs : List Byte)
    (h : c < a ∨ a + bs.length ≤ c) : Memory.read (Memory.writes m a bs) c = Memory.read m c := by
  induction bs generalizing m a with
  | nil => rfl
  | cons b bs ih =>
    simp only [List.length_cons] at h
    rw [Memory.writes, ih _ _ (by omega), memory_read_write_ne m b (by omega)]

/-- A byte of a run reads as what was written there. -/
theorem memory_read_writes_at (m : List Host.Cell) (a i : Nat) (bs : List Byte) (h : i < bs.length) :
    Memory.read (Memory.writes m a bs) (a + i) = bs[i] := by
  induction bs generalizing m a i with
  | nil => simp at h
  | cons b bs ih =>
    cases i with
    | zero => rw [Memory.writes, memory_read_writes_outside _ _ _ _ (by omega)]; simp
    | succ i =>
      have := ih (Memory.write m a b) (a + 1) i (by simpa using h)
      rw [Memory.writes, show a + (i + 1) = a + 1 + i by omega, this]
      simp

@[simp] theorem memory_reads_length (m : List Host.Cell) (a n : Nat) : (Memory.reads m a n).length = n := by
  induction n generalizing a with
  | zero => rfl
  | succ n ih => simp [Memory.reads, ih]

theorem memory_reads_getElem (m : List Host.Cell) (a n i : Nat) (h : i < (Memory.reads m a n).length) :
    (Memory.reads m a n)[i] = Memory.read m (a + i) := by
  induction n generalizing a i with
  | zero => simp [Memory.reads] at h
  | succ n ih =>
    cases i with
    | zero => simp [Memory.reads]
    | succ i =>
      simp only [Memory.reads, List.getElem_cons_succ]
      rw [ih]
      congr 1
      omega

/-- Reading back a run gives what was written. -/
theorem memory_reads_writes (m : List Host.Cell) (a : Nat) (bs : List Byte) :
    Memory.reads (Memory.writes m a bs) a bs.length = bs := by
  apply List.ext_getElem (by simp)
  intro i h1 h2
  rw [memory_reads_getElem, memory_read_writes_at m a i bs h2]

/-- A run read apart from a run written is as before. -/
theorem memory_reads_writes_apart (m : List Host.Cell) (a c n : Nat) (bs : List Byte)
    (h : c + n ≤ a ∨ a + bs.length ≤ c) : Memory.reads (Memory.writes m a bs) c n = Memory.reads m c n := by
  apply List.ext_getElem (by simp)
  intro i h1 h2
  simp only [memory_reads_length] at h1
  rw [memory_reads_getElem, memory_reads_getElem, memory_read_writes_outside m a (c + i) bs (by omega)]

/-! ### Bytes and numbers -/

@[simp] theorem natLe_length (n v : Nat) : (natLe n v).length = n := by
  induction n generalizing v with
  | zero => rfl
  | succ n ih => simp [natLe, ih]

/-- The little-endian bytes of a number that fits give the number back (R1). -/
theorem leNat_natLe (n v : Nat) (h : v < 256 ^ n) : leNat (natLe n v) = v := by
  induction n generalizing v with
  | zero => simp only [Nat.pow_zero] at h; simp only [natLe, leNat]; omega
  | succ n ih =>
    have hq : v / 256 < 256 ^ n := by
      rw [Nat.div_lt_iff_lt_mul (by decide)]; rw [Nat.pow_succ] at h; omega
    simp only [natLe, leNat, ih _ hq, BitVec.toNat_ofNat]
    omega

theorem leNat_lt (bs : List Byte) : leNat bs < 256 ^ bs.length := by
  induction bs with
  | nil => simp [leNat]
  | cons b bs ih =>
    have := b.isLt
    simp only [leNat, List.length_cons, Nat.pow_succ]
    omega

@[simp] theorem lo32_pair64 (lo hi : Word) : lo32 (pair64 lo hi) = lo := by
  apply BitVec.eq_of_toNat_eq
  simp only [lo32, pair64, BitVec.toNat_ofNat]
  omega

@[simp] theorem hi32_pair64 (lo hi : Word) : hi32 (pair64 lo hi) = hi := by
  apply BitVec.eq_of_toNat_eq
  simp only [hi32, pair64, BitVec.toNat_ofNat]
  omega

/-- A 64-bit value is the pair of its halves (R107). -/
@[simp] theorem pair64_halves (d : DWord) : pair64 (lo32 d) (hi32 d) = d := by
  apply BitVec.eq_of_toNat_eq
  simp only [lo32, hi32, pair64, BitVec.toNat_ofNat]
  omega

/-! ### Masks -/

theorem mem_lanesOf {m : Mask} {l : Nat} : l ∈ lanesOf m ↔ l < 64 ∧ mHas m l = true := by
  simp [lanesOf, mHas]

theorem lanesOf_zero : lanesOf 0 = [] := by decide

theorem lanesOf_ne_nil {m : Mask} (h : m ≠ 0) : lanesOf m ≠ [] := by
  intro h0
  apply h
  apply BitVec.eq_of_getLsbD_eq
  intro i hi
  have : i ∉ lanesOf m := by rw [h0]; exact List.not_mem_nil
  rw [mem_lanesOf] at this
  simp only [hi, true_and, mHas, Bool.not_eq_true] at this
  simpa using this

theorem mHas_maskOne (l k : Nat) (hl : l < 64) : mHas (maskOne l) k = decide (k = l) := by
  unfold mHas maskOne
  by_cases h : k < 64
  · rw [BitVec.getLsbD_ofNat]
    simp only [h, decide_true, Bool.true_and, Nat.testBit_two_pow]
    exact decide_eq_decide.mpr eq_comm
  · rw [BitVec.getLsbD_of_ge _ _ (by omega)]
    exact (decide_eq_false (by omega)).symm

/-- The mask of a list has the lanes of the list. -/
theorem mHas_maskOf (ls : List Nat) (k : Nat) (h : ∀ l ∈ ls, l < 64) : mHas (maskOf ls) k = decide (k ∈ ls) := by
  have go : ∀ (ls : List Nat) (m : Mask), (∀ l ∈ ls, l < 64) →
      mHas (ls.foldl (fun m l => m ||| maskOne l) m) k = (mHas m k || decide (k ∈ ls)) := by
    intro ls
    induction ls with
    | nil => intro m _; simp
    | cons l ls ih =>
      intro m hl
      rw [List.foldl_cons, ih _ fun x hx => hl x (List.mem_cons_of_mem l hx)]
      have h1 := mHas_maskOne l k (hl l List.mem_cons_self)
      unfold mHas at h1 ⊢
      rw [BitVec.getLsbD_or, h1]
      by_cases hk : k = l <;> simp [hk]
  have h0 := go ls 0 h
  have hz : mHas 0 k = false := by simp [mHas]
  rw [hz, Bool.false_or] at h0
  exact h0

end Sys2Proof.Laws
end

