-- ==== Sys2Proof/Laws/Groups.lean ====
section
/-! SUPPORT. Finding a group after an update, and the registers of a group after a write: the value written,
and every other register as it was. -/

namespace Sys2Proof.Laws

open Sys2Proof.Machine

/-! ### The group of a number -/

theorem group?_uid {s : State} {u : Nat} {g : Machine.Group} (h : s.group? u = some g) : g.uid = u := by
  have := List.find?_some h
  simpa using this

/-- Changing the group `u` changes what the number `u` finds and nothing else, when the change keeps the
number. -/
theorem group?_modGroup (s : State) (u v : Nat) (f : Machine.Group → Machine.Group) (hf : ∀ g, (f g).uid = g.uid) :
    (s.modGroup u f).group? v = if v = u then (s.group? u).map f else s.group? v := by
  unfold State.modGroup State.group?
  dsimp only
  by_cases hv : v = u
  · subst hv
    rw [if_pos rfl]
    induction s.groups with
    | nil => rfl
    | cons g gs ih =>
      simp only [List.map_cons, List.find?_cons]
      by_cases hg : g.uid = v
      · simp [hg, hf]
      · have : (g.uid == v) = false := by simpa using hg
        simp only [if_neg hg, this]
        exact ih
  · rw [if_neg hv]
    induction s.groups with
    | nil => rfl
    | cons g gs ih =>
      simp only [List.map_cons, List.find?_cons]
      by_cases hg : g.uid = u
      · have h1 : (g.uid == v) = false := by rw [hg]; simpa using Ne.symm hv
        simp only [if_pos hg, hf, h1]
        exact ih
      · simp only [if_neg hg]
        cases g.uid == v with
        | true => rfl
        | false => exact ih

theorem group?_modGroup_same {s : State} {u : Nat} {g : Machine.Group} {f : Machine.Group → Machine.Group}
    (hf : ∀ g, (f g).uid = g.uid) (h : s.group? u = some g) : (s.modGroup u f).group? u = some (f g) := by
  rw [group?_modGroup s u u f hf]; simp [h]

theorem group?_modGroup_ne {s : State} {u v : Nat} {f : Machine.Group → Machine.Group} (hf : ∀ g, (f g).uid = g.uid)
    (h : v ≠ u) : (s.modGroup u f).group? v = s.group? v := by
  rw [group?_modGroup s u v f hf, if_neg h]

/-- Replacing a group is changing it to a constant; the replacement carries the number it replaces. -/
theorem setGroup_eq (s : State) (g : Machine.Group) : s.setGroup g = s.modGroup g.uid fun _ => g := rfl

theorem group?_setGroup_same {s : State} {g x : Machine.Group} (h : s.group? g.uid = some x) :
    (s.setGroup g).group? g.uid = some g := by
  unfold State.setGroup State.group? at *
  dsimp only
  revert h
  induction s.groups with
  | nil => simp
  | cons y ys ih =>
    intro h
    rw [List.map_cons, List.find?_cons]
    by_cases hy : y.uid = g.uid
    · simp [hy]
    · rw [List.find?_cons] at h
      have : (y.uid == g.uid) = false := by simpa using hy
      rw [this] at h
      simp only [if_neg hy, this]
      exact ih h

theorem group?_setGroup_ne {s : State} {g : Machine.Group} {v : Nat} (h : v ≠ g.uid) :
    (s.setGroup g).group? v = s.group? v := by
  unfold State.setGroup State.group?
  dsimp only
  induction s.groups with
  | nil => rfl
  | cons y ys ih =>
    rw [List.map_cons, List.find?_cons, List.find?_cons]
    by_cases hy : y.uid = g.uid
    · have h1 : (g.uid == v) = false := by simpa using Ne.symm h
      have h2 : (y.uid == v) = false := by rw [hy]; exact h1
      rw [if_pos hy, h1, h2]; exact ih
    · rw [if_neg hy]
      cases y.uid == v with
      | true => rfl
      | false => exact ih

/-! ### Lanes -/

theorem lane_modLane_same {g : Machine.Group} {l : Nat} {f : Lane → Lane} (h : l < g.lanes.length) :
    (g.modLane l f).lane l = f (g.lane l) := by
  unfold Machine.Group.modLane Machine.Group.lane
  simp [List.getD_eq_getElem?_getD, h]

theorem lane_modLane_ne {g : Machine.Group} {l k : Nat} {f : Lane → Lane} (h : k ≠ l) :
    (g.modLane l f).lane k = g.lane k := by
  unfold Machine.Group.modLane Machine.Group.lane
  simp [List.getD_eq_getElem?_getD, Ne.symm h]

theorem lane_modLanes {g : Machine.Group} {m : Mask} {f : Nat → Lane → Lane} {k : Nat} (h : k < g.lanes.length) :
    (g.modLanes m f).lane k = if mHas m k then f k (g.lane k) else g.lane k := by
  unfold Machine.Group.modLanes Machine.Group.lane
  simp [List.getD_eq_getElem?_getD, h]

@[simp] theorem lane_clobber {g : Machine.Group} {d : Dst} {k : Nat} : (g.clobber d).lane k = g.lane k := rfl

@[simp] theorem length_modLane {g : Machine.Group} {l : Nat} {f : Lane → Lane} :
    (g.modLane l f).lanes.length = g.lanes.length := by simp [Machine.Group.modLane]

@[simp] theorem length_modLanes {g : Machine.Group} {m : Mask} {f : Nat → Lane → Lane} :
    (g.modLanes m f).lanes.length = g.lanes.length := by simp [Machine.Group.modLanes]

/-- A vector write reaches no other lane. -/
theorem lane_writeV_ne {g : Machine.Group} {l k r : Nat} {w : Word} (h : k ≠ l) :
    (g.writeV l r w).lane k = g.lane k := by
  unfold Machine.Group.writeV
  split <;> rw [lane_clobber, lane_modLane_ne h]

/-- A vector register written reads as the value, and its poison marks are clear (R194). -/
theorem lane_writeV_same {g : Machine.Group} {l r : Nat} {w : Word} (hl : l < g.lanes.length) (hr : r < 120) :
    (g.writeV l r w).lane l = { g.lane l with
      v := tset 0 (g.lane l).v ((g.lane l).vIdx r) w
      vPoison := (g.lane l).vPoison.filter fun h => h / 2 ≠ (g.lane l).vIdx r } := by
  unfold Machine.Group.writeV
  rw [if_pos hr, lane_clobber, lane_modLane_same hl]

/-- A clause temporary written reads as the value (R30). -/
theorem lane_writeV_temp {g : Machine.Group} {l r : Nat} {w : Word} (hl : l < g.lanes.length) (hr : ¬ r < 120) :
    (g.writeV l r w).lane l = { g.lane l with t := (r, w) :: (g.lane l).t.filter fun e => e.1 ≠ r } := by
  unfold Machine.Group.writeV
  rw [if_neg hr, lane_clobber, lane_modLane_same hl]

/-- Clobbering a pending result changes neither where it goes nor when. -/
theorem pendV_clobber {g : Machine.Group} {d : Dst} {l r : Nat} : (g.clobber d).pendV l r = g.pendV l r := by
  unfold Machine.Group.pendV Machine.Group.clobber
  dsimp only
  rw [List.any_map]
  congr 1
  funext p
  simp only [Function.comp]
  split <;> rfl

theorem pendS_clobber {g : Machine.Group} {d : Dst} {r : Nat} : (g.clobber d).pendS r = g.pendS r := by
  unfold Machine.Group.pendS Machine.Group.clobber
  dsimp only
  rw [List.any_map]
  congr 1
  funext p
  simp only [Function.comp]
  split <;> rfl

/-- A vector register read after it is written, when no long-latency result waits for it (R112). -/
theorem readV_writeV_same {s : State} {g : Machine.Group} {l r : Nat} {w : Word} (hl : l < g.lanes.length)
    (hr : r < 120) (hp : g.pendV l ((g.lane l).vIdx r) = false) : readV s (g.writeV l r w) l r = w := by
  have hp' : (g.writeV l r w).pendV l ((g.lane l).vIdx r) = false := by
    unfold Machine.Group.writeV
    rw [if_pos hr, pendV_clobber]
    exact hp
  have hi : ((g.writeV l r w).lane l).vIdx r = (g.lane l).vIdx r := by rw [lane_writeV_same hl hr]; rfl
  have hv : ((g.writeV l r w).lane l).v = tset 0 (g.lane l).v ((g.lane l).vIdx r) w := by
    rw [lane_writeV_same hl hr]
  unfold readV
  simp only [hr, if_true, hi, hp', hv, tget_tset_same]
  rfl

theorem pendS_writeS {g : Machine.Group} {r i : Nat} {w : Word} : (g.writeS r w).pendS i = g.pendS i := by
  unfold Machine.Group.writeS Machine.Group.putS
  rw [pendS_clobber]
  rfl

theorem s_writeS {g : Machine.Group} {r : Nat} {w : Word} : (g.writeS r w).s = tset 0 g.s (g.sbase + r) w := rfl

theorem sbase_writeS {g : Machine.Group} {r : Nat} {w : Word} : (g.writeS r w).sbase = g.sbase := rfl

/-- A scalar register read after it is written (R156). -/
theorem readS_writeS_same {s : State} {g : Machine.Group} {r : Nat} {w : Word} (hp : g.pendS (g.sbase + r) = false) :
    readS s (g.writeS r w) r = w := by
  unfold readS
  simp [pendS_writeS, s_writeS, sbase_writeS, hp]

/-- Every other scalar register is as it was. -/
theorem readS_writeS_ne {s : State} {g : Machine.Group} {r q : Nat} {w : Word} (h : q ≠ r) :
    readS s (g.writeS r w) q = readS s g q := by
  have hs : s.slotOf (g.writeS r w) = s.slotOf g := rfl
  unfold readS
  simp only [pendS_writeS, s_writeS, sbase_writeS, hs]
  rw [tget_tset_ne 0 w g.s (show g.sbase + q ≠ g.sbase + r by omega)]

/-- The bits of a word with one bit set. -/
theorem getLsbD_bit {w p q : Nat} (hq : q < w) : (BitVec.ofNat w (2 ^ p)).getLsbD q = decide (p = q) := by
  rw [BitVec.getLsbD_ofNat, Nat.testBit_two_pow]
  simp [hq]

/-- Setting or clearing one bit of a word, as predicates and flags do. -/
theorem getLsbD_setBit {w p q : Nat} (x : BitVec w) (b : Bool) (hq : q < w) :
    ((x &&& ~~~ BitVec.ofNat w (2 ^ p)) ||| BitVec.ofNat w (if b then 2 ^ p else 0)).getLsbD q =
      if p = q then b else x.getLsbD q := by
  rw [BitVec.getLsbD_or, BitVec.getLsbD_and, BitVec.getLsbD_not, getLsbD_bit hq]
  cases b
  · by_cases h : p = q <;> simp [h, hq]
  · rw [if_pos rfl, getLsbD_bit hq]
    by_cases h : p = q <;> simp [h, hq]

/-- p15 reads 1 (R107). -/
@[simp] theorem pred_fifteen (x : Lane) : x.pred 15 = true := rfl

/-- A write to p15 is discarded (R107). -/
@[simp] theorem writeP_fifteen (g : Machine.Group) (l : Nat) (b : Bool) : g.writeP l 15 b = g := rfl

/-- A predicate read after it is written. -/
theorem pred_writeP_same {g : Machine.Group} {l p : Nat} {b : Bool} (hl : l < g.lanes.length) (hp : p < 15) :
    ((g.writeP l p b).lane l).pred p = b := by
  unfold Machine.Group.writeP
  rw [if_neg (by omega), lane_modLane_same hl]
  unfold Lane.pred
  rw [if_neg (by omega)]
  exact (getLsbD_setBit _ b hp).trans (if_pos rfl)

/-- A predicate write changes no other predicate of the lane. -/
theorem pred_writeP_ne {g : Machine.Group} {l p q : Nat} {b : Bool} (hl : l < g.lanes.length) (h : q ≠ p) :
    ((g.writeP l p b).lane l).pred q = (g.lane l).pred q := by
  unfold Machine.Group.writeP
  by_cases h15 : p = 15
  · rw [if_pos h15]
  · rw [if_neg h15, lane_modLane_same hl]
    unfold Lane.pred
    by_cases hq : q = 15
    · simp [hq]
    · rw [if_neg hq, if_neg hq]
      by_cases hq15 : q < 15
      · exact (getLsbD_setBit _ b hq15).trans (if_neg (Ne.symm h))
      · rw [BitVec.getLsbD_of_ge _ _ (by omega), BitVec.getLsbD_of_ge _ _ (by omega)]

/-! ### Flags -/

theorem flag_setFlag (g : Machine.Group) (f e : Fin 12) :
    (g.setFlag f).flag e = (decide (e = f) || g.flag e) := by
  unfold Machine.Group.flag Machine.Group.setFlag
  rw [BitVec.getLsbD_or, getLsbD_bit e.isLt, Bool.or_comm]
  congr 1
  exact decide_eq_decide.mpr ⟨fun h => Fin.ext h.symm, fun h => by rw [h]⟩

theorem flag_clearFlag (g : Machine.Group) (f e : Fin 12) :
    (g.clearFlag f).flag e = (!decide (e = f) && g.flag e) := by
  unfold Machine.Group.flag Machine.Group.clearFlag
  rw [BitVec.getLsbD_and, BitVec.getLsbD_not, getLsbD_bit e.isLt, Bool.and_comm]
  have : decide (f.val = e.val) = decide (e = f) :=
    decide_eq_decide.mpr ⟨fun h => Fin.ext h.symm, fun h => by rw [h]⟩
  rw [this]
  simp

end Sys2Proof.Laws
end

