-- ==== Sys2Proof/Laws/Issue.lean ====
section
/-! SUPPORT. What the shared forms of a meaning do, once each: the issue of an instruction word, a memory
instance that performs, a group-level access, a checked transfer of control. -/

namespace Sys2Proof.Laws

open Sys2Proof.Machine

/-! ### The clause in flight -/

/-- The clause in flight is that of the group whose turn it is. -/
theorem issue?_some {s : State} {g : Machine.Group} {c : Clause} (h : s.issue? = some (g, c)) :
    s.turn = some g.uid ∧ s.group? g.uid = some g ∧ g.clause = some c := by
  unfold State.issue? at h
  split at h
  · cases h
  · rename_i u hu
    split at h
    · cases h
    · rename_i x hx
      split at h
      · cases h
      · rename_i y hy
        cases h
        have := group?_uid hx
        exact ⟨by rw [this]; exact hu, by rw [this]; exact hx, hy⟩

variable {i : Instr} {s : State} {g : Machine.Group} {c : Clause} {f : Machine.Group → Clause → State}

/-- With executing lanes and no poison mark on what it reads, a meaning acts (R156, R193). -/
theorem issue_next (h : s.issue? = some (g, c)) (hx : c.exec ≠ 0) (hp : poisonMask s g c.exec i = 0) :
    issue i s f = .next (f g c) := by
  unfold issue; rw [h]; dsimp only; rw [if_neg hx, if_pos hp]

/-- With no executing lane a meaning does nothing (R29). -/
theorem issue_idle (h : s.issue? = some (g, c)) (hx : c.exec = 0) : issue i s f = .next s := by
  unfold issue; rw [h]; dsimp only; rw [if_pos hx]

/-- A poison mark on a register it reads raises POISON, and nothing else happens (R158, R194). -/
theorem issue_poisoned (h : s.issue? = some (g, c)) (hx : c.exec ≠ 0) (hp : poisonMask s g c.exec i ≠ 0) :
    issue i s f =
      .next (s.holdFault g c { code := .poison, source := Instr.source i, pool := true } (poisonMask s g c.exec i)) := by
  unfold issue; rw [h]; dsimp only; rw [if_neg hx, if_neg hp]

/-- With no clause in flight a meaning stops. -/
theorem issue_none (h : s.issue? = none) : issue i s f = .fault .noIssue := by
  unfold issue; rw [h]

/-- Everything a meaning can answer. -/
theorem issue_cases {o : Host.Outcome State Fault Refusal} (h : issue i s f = o) :
    (s.issue? = none ∧ o = .fault .noIssue) ∨
    ∃ g c, s.issue? = some (g, c) ∧
      ((c.exec = 0 ∧ o = .next s) ∨
       (c.exec ≠ 0 ∧ poisonMask s g c.exec i ≠ 0 ∧
          o = .next (s.holdFault g c { code := .poison, source := Instr.source i, pool := true } (poisonMask s g c.exec i))) ∨
       (c.exec ≠ 0 ∧ poisonMask s g c.exec i = 0 ∧ o = .next (f g c))) := by
  subst h
  cases hi : s.issue? with
  | none => exact .inl ⟨rfl, issue_none hi⟩
  | some x =>
    obtain ⟨g, c⟩ := x
    refine .inr ⟨g, c, rfl, ?_⟩
    by_cases hx : c.exec = 0
    · exact .inl ⟨hx, issue_idle hi hx⟩
    · by_cases hp : poisonMask s g c.exec i = 0
      · exact .inr (.inr ⟨hx, hp, issue_next hi hx hp⟩)
      · exact .inr (.inl ⟨hx, hp, issue_poisoned hi hx hp⟩)

/-- A meaning refuses nothing. -/
theorem issue_not_refused {r : Refusal} : issue i s f ≠ .refused r := by
  intro h
  rcases issue_cases h with ⟨-, h⟩ | ⟨g, c, -, ⟨-, h⟩ | ⟨-, -, h⟩ | ⟨-, -, h⟩⟩ <;> cases h

/-! ### Memory instances -/

variable {o : LaneOp}

/-- The lanes whose access the helper-lane rules leave to be made are executing lanes (R18). -/
theorem acting_subset {l : Nat}
    (h : l ∈ (lanesOf c.exec).filter fun l => !(g.lane l).helper || decide (o.kind ≠ .store)) :
    l ∈ lanesOf c.exec := List.mem_of_mem_filter h

theorem emptyLines_nil {xs ys : List Span} (h : s.emptyLines xs = []) (hs : ∀ x ∈ ys, x ∈ xs) :
    s.emptyLines ys = [] := by
  unfold State.emptyLines at h ⊢
  rw [List.flatMap_eq_nil_iff] at h ⊢
  exact fun x hx => h x (hs x hx)

/-- A memory instance none of whose lanes waits or fails performs in every lane: the stores together in lane
order, each result for its flag (R77, R78, R112). -/
theorem runLanes_performed (hb : ∀ l ∈ lanesOf c.exec, s.blocked g i l (o.span s g l) = false)
    (hw : o.waits = true → s.emptyLines ((lanesOf c.exec).flatMap fun l => o.span s g l) = [])
    (hf : ((lanesOf c.exec).foldl (Run.lane o g) { state := s }).faults = []) :
    runLanes s g c i o =
      (let r := (lanesOf c.exec).foldl (Run.lane o g) { state := s }
       (r.state.perform (s.who g) r.puts).modGroup g.uid fun x =>
         r.words.foldl (fun x e => x.result i c.tied e.1 e.2) x) := by
  have free : s.heldBack g i o
      ((lanesOf c.exec).filter fun l => !(g.lane l).helper || decide (o.kind ≠ .store)) = false := by
    simp only [State.heldBack, Bool.and_eq_false_iff, List.any_eq_false]
    exact .inr fun l hl => by simp [hb l (acting_subset hl)]
  have full : (if o.waits then s.emptyLines
      (((lanesOf c.exec).filter fun l => !(g.lane l).helper || decide (o.kind ≠ .store)).flatMap
        fun l => o.span s g l) else []) = [] := by
    split
    · refine emptyLines_nil (hw ‹_›) fun x hx => ?_
      rw [List.mem_flatMap] at hx ⊢
      obtain ⟨l, hl, he⟩ := hx
      exact ⟨l, acting_subset hl, he⟩
    · rfl
  unfold runLanes
  simp only [free, full, hf, Bool.false_eq_true, if_false]
  rfl

/-- A memory instance with a lane that an earlier faulted access orders after it waits whole (R373). -/
theorem runLanes_blocked
    (h : (((lanesOf c.exec).filter fun l => !(g.lane l).helper || decide (o.kind ≠ .store)).any
      fun l => s.blocked g i l (o.span s g l)) = true) :
    runLanes s g c i o = s.holdClause g.uid .answers := by
  have hr : s.replayed ≠ [] := by
    intro h0
    simp [State.blocked, h0] at h
  unfold runLanes
  simp only [State.heldBack, h, hr, ne_eq, not_false_eq_true, decide_true, Bool.and_self, if_true]

/-- A group-level access that does not fail is performed once (R226). -/
theorem runGroupOp_performed {o : GroupOp} {x : LaneOut}
    (hb : ∀ l ∈ lanesOf c.exec, s.blocked g i l (o.span s g) = false) (hx : o.run s g c.exec = .ok x) :
    runGroupOp s g c i o =
      (x.state.perform (s.who g) x.puts).modGroup g.uid fun y => y.resultS o.dst c.tied x.words := by
  have free : s.blockedAll g c i (o.span s g) = false := by
    unfold State.blockedAll
    rw [List.any_eq_false]
    intro l hl
    simp [hb l hl]
  unfold runGroupOp
  simp only [free, hx]
  rfl

/-! ### Transfers of control -/

variable {w : Who} {pad : Option (Fin 4)} {link : Bool} {ls : List (Nat × DWord)}

/-- No lane fails when no lane's target fails (R148, R175). -/
theorem firstFail_none (h : ∀ e ∈ ls, (link = true → e.2 ≠ 0) ∧ s.badTarget w e.2 pad = none) :
    s.firstFail w pad link ls = none := by
  have none : (ls.filterMap fun (l, a) => (s.targetFail w pad link a).map fun f => (l, a, f)) = [] := by
    rw [List.filterMap_eq_nil_iff]
    rintro ⟨l, a⟩ he
    have := h _ he
    simp only [State.targetFail, Option.map_eq_none_iff]
    cases link <;> simp_all
  unfold State.firstFail
  simp [none]

/-- With good targets the transfer is what follows the check (R151). -/
theorem checked_good {k : State}
    (h : ∀ e ∈ ls, (link = true → e.2 ≠ 0) ∧ s.badTarget { s.who g with replay := none } e.2 pad = none) :
    s.checked g c pad link ls k = k := by
  unfold State.checked
  rw [firstFail_none h]

/-- With a target that fails, the lanes of the first failure take a fault, whatever follows (R151, R175). -/
theorem checked_fails {k : State} {code : Code} {lv : Nat} {m : Mask} {a : DWord}
    (h : s.firstFail { s.who g with replay := none } pad link ls = some (code, lv, m, a)) :
    s.checked g c pad link ls k =
      if code.resolvable then s.holdFault g c { code := code, addr := a.toNat, level := lv, source := 3 } m
      else s.controlFault g c code m a.toNat := by
  unfold State.checked
  rw [h]

end Sys2Proof.Laws
end

