-- ==== Sys2Proof/Laws/Memory.lean ====
section
/-! SUPPORT. What the shared operations do to physical memory: a write changes the bytes of its run and no
other, and every one of them keeps the canonical form. -/

namespace Sys2Proof.Laws

open Sys2Proof.Machine

/-- Memory at reset is in canonical form. -/
theorem reset_mem_wf : Memory.wf State.reset.mem = true := rfl

/-! ### Physical writes -/

@[simp] theorem uncode_mem (s : State) (b : Nat) : (s.uncode b).mem = s.mem := by
  unfold State.uncode; split <;> rfl

@[simp] theorem uncode_groups (s : State) (b : Nat) : (s.uncode b).groups = s.groups := by
  unfold State.uncode; split <;> rfl

@[simp] theorem setMark_mem (s : State) (pa : Nat) (m : Bool) : (s.setMark pa m).mem = s.mem := by
  unfold State.setMark
  dsimp only
  split <;> exact uncode_mem s _

@[simp] theorem setMark_groups (s : State) (pa : Nat) (m : Bool) : (s.setMark pa m).groups = s.groups := by
  unfold State.setMark
  dsimp only
  split <;> exact uncode_groups s _

/-- A physical write is a write of its bytes to the list that memory is. -/
theorem physWrite_mem (s : State) (pa : Nat) (bs : MBytes) :
    (s.physWrite pa bs).mem = Memory.writes s.mem pa (mbPlain bs) := by
  induction bs generalizing s pa with
  | nil => rfl
  | cons x bs ih =>
    obtain ⟨b, m⟩ := x
    rw [State.physWrite, ih, setMark_mem]
    rfl

theorem physWrite_wf {s : State} (pa : Nat) (bs : MBytes) (h : Memory.wf s.mem = true) :
    Memory.wf (s.physWrite pa bs).mem = true := by
  rw [physWrite_mem]; exact memory_writes_wf _ _ h

/-- Every byte outside the run reads as before. -/
theorem physWrite_read_outside (s : State) (pa a : Nat) (bs : MBytes) (h : a < pa ∨ pa + bs.length ≤ a) :
    Memory.read (s.physWrite pa bs).mem a = Memory.read s.mem a := by
  rw [physWrite_mem]
  exact memory_read_writes_outside _ _ _ _ (by simpa [mbPlain] using h)

/-- The run reads as what was written. -/
theorem physWrite_reads (s : State) (pa : Nat) (bs : MBytes) :
    Memory.reads (s.physWrite pa bs).mem pa bs.length = mbPlain bs := by
  rw [physWrite_mem]
  have := memory_reads_writes s.mem pa (mbPlain bs)
  simpa [mbPlain] using this

/-- A physical write changes memory and its marks only. -/
theorem physWrite_groups (s : State) (pa : Nat) (bs : MBytes) : (s.physWrite pa bs).groups = s.groups := by
  induction bs generalizing s pa with
  | nil => rfl
  | cons x bs ih =>
    obtain ⟨b, m⟩ := x
    rw [State.physWrite, ih, setMark_groups]

/-! ### Stores -/

@[simp] theorem regWrite_mem (s : State) (off : Nat) (v : Word) : (s.regWrite off v).mem = s.mem := by
  unfold State.regWrite State.writeHeadCtl State.modHead State.modPart
  split
  · split <;> rfl
  · split <;> split <;> rfl

theorem recode_wf {s : State} (p : Put) (all : List Put) (h : Memory.wf s.mem = true) :
    Memory.wf (s.recode p all).mem = true := by
  unfold State.recode
  dsimp only
  apply physWrite_wf
  dsimp only
  apply physWrite_wf
  exact h

theorem putAll_wf {s : State} (all ps : List Put) (done : List Nat) (h : Memory.wf s.mem = true) :
    Memory.wf (s.putAll all ps done).mem = true := by
  induction ps generalizing s done with
  | nil => exact h
  | cons p ps ih =>
    rw [State.putAll]
    split
    · exact ih _ h
    · split
      · exact ih _ (by rw [regWrite_mem]; exact h)
      · split
        · split
          · exact ih _ h
          · exact ih _ (recode_wf _ _ h)
        · apply ih; apply physWrite_wf; exact h

@[simp] theorem callHalted_mem (s : State) : s.callHalted.mem = s.mem := rfl

@[simp] theorem putRas_mem (s : State) (r : Ras) : (s.putRas r).mem = s.mem := rfl

@[simp] theorem reportDrops_mem (s : State) (u t : Nat) : (s.reportDrops u t).mem = s.mem := by
  unfold State.reportDrops; split <;> rfl

/-- A record of the RAS log leaves memory as it is. -/
@[simp] theorem logRas_mem (s : State) (r : Ras) : (s.logRas r).mem = s.mem := by
  unfold State.logRas
  dsimp only
  generalize hq : State.reportDrops _ _ _ = q
  have hm : q.mem = s.mem := by rw [← hq, reportDrops_mem]
  split
  · rw [putRas_mem]; exact hm
  · split
    · rw [putRas_mem]; exact hm
    · exact hm

@[simp] theorem attrMismatch_mem (s : State) (cl core slot line a b : Nat) :
    (s.attrMismatch cl core slot line a b).mem = s.mem := logRas_mem _ _

@[simp] theorem staleUse_mem (s : State) (w : Who) (va : Nat) (l : Leaf) : (s.staleUse w va l).mem = s.mem := by
  unfold State.staleUse
  split
  · split
    · rfl
    · exact attrMismatch_mem _ _ _ _ _ _ _
  · rfl

@[simp] theorem cacheLeaf_mem (s : State) (w : Who) (va : Nat) (l : Leaf) : (s.cacheLeaf w va l).mem = s.mem := by
  unfold State.cacheLeaf
  split <;> rfl

@[simp] theorem fillLine_mem (s : State) (w : Who) (va : Nat) (l : Leaf) : (s.fillLine w va l).mem = s.mem := by
  unfold State.fillLine
  split <;> rfl

/-- The use of a page leaves memory as it is (R365, R379). -/
@[simp] theorem touch_mem (s : State) (w : Who) (va : Nat) (wr : Bool) : (s.touch w va wr).mem = s.mem := by
  unfold State.touch
  split
  · cases wr <;> simp
  · rfl

@[simp] theorem spoilWhere_mem (s : State) (p : Machine.Group → MatUse → Bool) : (s.spoilWhere p).mem = s.mem := by
  unfold State.spoilWhere
  split <;> rfl

theorem foldl_globSpoil_mem (ps : List Put) (s : State) (w : Who) :
    (ps.foldl (fun s p => s.globSpoil w p.pa p.data.length) s).mem = s.mem := by
  induction ps generalizing s with
  | nil => rfl
  | cons p ps ih => rw [List.foldl_cons, ih, State.globSpoil, spoilWhere_mem]

theorem foldl_touch_mem (ps : List Put) (s : State) (w : Who) :
    (ps.foldl (fun s p => s.touch w p.va true) s).mem = s.mem := by
  induction ps generalizing s with
  | nil => rfl
  | cons p ps ih => rw [List.foldl_cons, ih, touch_mem]

/-- The stores of an instance keep the canonical form. -/
theorem perform_wf {s : State} (w : Who) (ps : List Put) (h : Memory.wf s.mem = true) :
    Memory.wf (s.perform w ps).mem = true := by
  unfold State.perform
  split
  · exact h
  · dsimp only
    rw [foldl_globSpoil_mem, foldl_touch_mem]
    exact putAll_wf _ _ _ h

/-- An instance of a replay stores to its overlay, and memory is as it was (R326). -/
theorem perform_replay_mem {s : State} {w : Who} {n : Nat} (ps : List Put) (h : w.replay = some n) :
    (s.perform w ps).mem = s.mem := by
  unfold State.perform; rw [h]; rfl

theorem quietStore_wf {s t : State} {w : Who} {va : Nat} {bs : List Byte} (ht : s.quietStore w va bs = some t)
    (h : Memory.wf s.mem = true) : Memory.wf t.mem = true := by
  unfold State.quietStore at ht
  split at ht
  · cases ht; exact perform_wf _ _ h
  · cases ht

/-! ### Events, records and faults -/

@[simp] theorem sendEvent_mem (s : State) (slot op : Nat) (p : List Byte) (aw : Option Awaited) :
    (s.sendEvent slot op p aw).mem = s.mem := by
  have call : (if op = 0x41 ∨ op = 0x42 ∨ op = 0x43 then s.callHalted else s).mem = s.mem := by split <;> rfl
  unfold State.sendEvent
  dsimp only
  generalize (if op = 0x41 ∨ op = 0x42 ∨ op = 0x43 then s.callHalted else s) = q at call ⊢
  rw [← call]
  cases aw <;> dsimp only <;> (repeat' split) <;> rfl

@[simp] theorem respond_mem (s : State) (q : Req) (op : Nat) (st : Status) (p : List Byte) :
    (s.respond q op st p).mem = s.mem := rfl

theorem mirror_wf {s : State} (h : Memory.wf s.mem = true) : Memory.wf s.mirror.mem = true := by
  unfold State.mirror
  split
  · exact h
  · split
    · exact h
    · have h1 := fun pa bs => physWrite_wf pa bs h
      dsimp only
      rw [physWrite_mem]
      apply memory_writes_wf
      dsimp only
      exact h1 _ _

theorem enterRecord_wf {s t : State} {r : Record} {n : Nat} {b : Bool} (ht : s.enterRecord r = some (n, b, t))
    (h : Memory.wf s.mem = true) : Memory.wf t.mem = true := by
  unfold State.enterRecord at ht
  dsimp only at ht
  split at ht
  · simp only [Option.some.injEq, Prod.mk.injEq] at ht
    rw [← ht.2.2]
    split
    · apply physWrite_wf; exact h
    · exact h
  · split at ht
    · cases ht
    · simp only [Option.some.injEq, Prod.mk.injEq] at ht
      rw [← ht.2.2]
      exact mirror_wf h

@[simp] theorem countLogic_mem (s : State) (r : Record) : (s.countLogic r).mem = s.mem := by
  unfold State.countLogic; split <;> rfl

/-- A fault record keeps the canonical form: its entry in the ring is written by physical writes (R367, R416). -/
theorem fileRecord_wf {s t : State} {r : Record} {n : Nat} (ht : s.fileRecord r = some (n, t))
    (h : Memory.wf s.mem = true) : Memory.wf t.mem = true := by
  unfold State.fileRecord at ht
  split at ht
  · cases ht
  · rename_i k b q hq
    have := enterRecord_wf hq h
    simp only [Option.some.injEq, Prod.mk.injEq] at ht
    rw [← ht.2, countLogic_mem]
    split
    · rw [sendEvent_mem]; exact this
    · exact this

theorem holdFault_wf {s : State} (g : Machine.Group) (c : Clause) (f : FaultAt) (m : Mask)
    (h : Memory.wf s.mem = true) : Memory.wf (s.holdFault g c f m).mem = true := by
  unfold State.holdFault
  split
  · exact h
  · rename_i n t ht
    have := fileRecord_wf ht h
    exact this

@[simp] theorem modCtx_mem (s : State) (k : Nat) (f : Ctx → Ctx) : (s.modCtx k f).mem = s.mem := rfl

theorem enterHandler_wf {s t : State} {u k : Nat} {r : Record} {m : Mask} {resume : Nat → DWord}
    (ht : s.enterHandler u k r m resume = some t) (h : Memory.wf s.mem = true) : Memory.wf t.mem = true := by
  unfold State.enterHandler at ht
  split at ht
  · cases ht; exact h
  · rename_i g _
    have h1 : Memory.wf ((s.quietStore { s.who g with replay := none }
        ((s.ctxOf g).ccb.htab.toNat + 512 + 64 * k) r.bytes).getD s).mem = true := by
      cases hq : s.quietStore { s.who g with replay := none } ((s.ctxOf g).ccb.htab.toNat + 512 + 64 * k) r.bytes with
      | none => exact h
      | some t => exact quietStore_wf hq h
    dsimp only at ht
    generalize (s.quietStore { s.who g with replay := none }
      ((s.ctxOf g).ccb.htab.toNat + 512 + 64 * k) r.bytes).getD s = q at h1 ht
    split at ht
    · cases ht; rw [state_modGroup_mem, modCtx_mem]; exact h1
    · split at ht
      · rename_i n t' hf
        cases ht
        rw [state_modGroup_mem]
        exact fileRecord_wf hf (by rw [state_modGroup_mem, modCtx_mem]; exact h1)
      · cases ht

/-- Taking an exception keeps the canonical form. -/
theorem deliver_wf {s t : State} {g : Machine.Group} {r : Record} {m : Mask} {pc skip : Nat → DWord} {n : Option Nat}
    (ht : s.deliver g r m pc skip = some (n, t)) (h : Memory.wf s.mem = true) : Memory.wf t.mem = true := by
  unfold State.deliver at ht
  split at ht
  · split at ht
    · rw [Option.map_eq_some_iff] at ht
      obtain ⟨t', he, hp⟩ := ht
      cases hp
      exact enterHandler_wf he h
    · cases ht; exact h
  · split at ht
    · cases ht
    · rename_i k t' hf
      cases ht
      have := fileRecord_wf hf h
      exact this

theorem raise_wf {s t : State} {g : Machine.Group} {r : Record} {m : Mask} {pc skip : Nat → DWord}
    (ht : s.raise g r m pc skip = some t) (h : Memory.wf s.mem = true) : Memory.wf t.mem = true := by
  unfold State.raise at ht
  rw [Option.map_eq_some_iff] at ht
  obtain ⟨⟨n, t'⟩, he, hp⟩ := ht
  cases hp
  exact deliver_wf he h

@[simp] theorem onRetry_mem (s : State) (n : Option Nat) (u : Nat) (m : Mask) (w : Again) :
    (s.onRetry n u m w).mem = s.mem := by
  cases n <;> rfl

theorem trapAt_wf {s : State} (g : Machine.Group) (c : Clause) (i : Instr) (f : FaultAt) (m : Mask)
    (h : Memory.wf s.mem = true) : Memory.wf (s.trapAt g c i f m).mem = true := by
  unfold State.trapAt
  dsimp only
  split
  · exact h
  · rename_i n t ht
    have := deliver_wf ht h
    rw [state_modGroup_mem]
    split
    · exact this
    · rw [onRetry_mem]; exact this

theorem controlFault_wf {s : State} (g : Machine.Group) (c : Clause) (code : Code) (m : Mask) (a : Nat)
    (h : Memory.wf s.mem = true) : Memory.wf (s.controlFault g c code m a).mem = true := by
  unfold State.controlFault
  dsimp only
  split
  · exact h
  · rename_i t ht
    have := raise_wf ht h
    exact this

theorem checked_wf {s k : State} (g : Machine.Group) (c : Clause) (pad : Option (Fin 4)) (link : Bool)
    (ls : List (Nat × DWord)) (h : Memory.wf s.mem = true) (hk : Memory.wf k.mem = true) :
    Memory.wf (s.checked g c pad link ls k).mem = true := by
  unfold State.checked
  split
  · exact hk
  · split
    · exact holdFault_wf _ _ _ _ h
    · exact controlFault_wf _ _ _ _ _ h

/-- A meaning keeps the canonical form when its action does. -/
theorem issue_wf {i : Instr} {s t : State} {f : Machine.Group → Clause → State} (ht : issue i s f = .next t)
    (h : Memory.wf s.mem = true) (hf : ∀ g c, Memory.wf (f g c).mem = true) : Memory.wf t.mem = true := by
  rcases issue_cases ht with ⟨-, h0⟩ | ⟨g, c, -, ⟨-, h0⟩ | ⟨-, -, h0⟩ | ⟨-, -, h0⟩⟩
  · cases h0
  · cases h0; exact h
  · cases h0; exact holdFault_wf _ _ _ _ h
  · cases h0; exact hf g c

/-! ### Memory instances -/

/-- What one lane's access leaves in memory. -/
def LaneOp.Keeps (o : LaneOp) : Prop :=
  ∀ s g l x, o.run s g l = .ok x → Memory.wf s.mem = true → Memory.wf x.state.mem = true

theorem at_wf {o : LaneOp} (ho : LaneOp.Keeps o) {s : State} {g : Machine.Group} {l : Nat} {x : LaneOut}
    (hx : o.at s g l = .ok x) (h : Memory.wf s.mem = true) : Memory.wf x.state.mem = true := by
  unfold LaneOp.at at hx
  split at hx
  · split at hx
    · cases hx; exact h
    · split at hx
      · cases hx
      · cases hx; exact h
    · split at hx
      · split at hx
        · cases hx; exact h
        · cases hx
      · exact ho _ _ _ _ hx h
    · exact ho _ _ _ _ hx h
  · exact ho _ _ _ _ hx h

theorem foldl_lane_wf {o : LaneOp} (ho : LaneOp.Keeps o) (g : Machine.Group) (ls : List Nat) (r : Run)
    (h : Memory.wf r.state.mem = true) : Memory.wf (ls.foldl (Run.lane o g) r).state.mem = true := by
  induction ls generalizing r with
  | nil => exact h
  | cons l ls ih =>
    rw [List.foldl_cons]
    apply ih
    unfold Run.lane
    split
    · exact at_wf ho (by assumption) h
    · rename_i f _
      cases hs : f.seen <;> simpa [hs, Option.elim, State.putSeen] using h

theorem park_wf {s t : State} {g src : Machine.Group} {i : Instr} {fl : Option (Fin 12)} {f : FaultAt} {m : Mask}
    {header word : DWord} {spans : List (Nat × Nat × Nat × Bool)}
    (ht : s.park g src i fl f m header word spans = some t) (h : Memory.wf s.mem = true) :
    Memory.wf t.mem = true := by
  unfold State.park at ht
  dsimp only at ht
  split at ht
  · cases ht
  · rename_i n t' hf
    cases ht
    have := fileRecord_wf hf h
    exact this

@[simp] theorem deferFault_mem (s : State) (g : Machine.Group) (i : Instr) (f : FaultAt) (m : Mask) (w : Again) :
    (s.deferFault g i f m w).mem = s.mem := rfl

theorem settleFault_wf {s t : State} {o : LaneOp} {g : Machine.Group} {c : Clause} {i : Instr} {wait : Bool}
    {fs : List (Nat × FaultAt)} (ht : s.settleFault o g c i wait fs = some t) (h : Memory.wf s.mem = true) :
    Memory.wf t.mem = true := by
  unfold State.settleFault at ht
  split at ht
  · cases ht; exact h
  · dsimp only at ht
    split at ht
    · split at ht
      · cases ht; exact h
      · exact park_wf ht h
    · cases ht; rw [deferFault_mem]; exact h

/-- The faults of an instance, code by code. -/
theorem foldl_settle_wf {o : LaneOp} {g : Machine.Group} {c : Clause} {i : Instr} {wait : Bool}
    {fs : Nat → List (Nat × FaultAt)} {ks : List Nat} {t : Option State} {u : State}
    (hu : ks.foldl (fun (t : Option State) k => t.bind fun s => s.settleFault o g c i wait (fs k)) t = some u)
    (ht : ∀ v, t = some v → Memory.wf v.mem = true) : Memory.wf u.mem = true := by
  induction ks generalizing t with
  | nil => exact ht u hu
  | cons k ks ih =>
    rw [List.foldl_cons] at hu
    refine ih hu fun v hv => ?_
    rw [Option.bind_eq_some_iff] at hv
    obtain ⟨x, hx, hv⟩ := hv
    exact settleFault_wf hv (ht x hx)

/-- A vector memory instruction keeps the canonical form when the access of one lane does. -/
theorem runLanes_wf {s : State} (g : Machine.Group) (c : Clause) (i : Instr) {o : LaneOp} (ho : LaneOp.Keeps o)
    (h : Memory.wf s.mem = true) : Memory.wf (runLanes s g c i o).mem = true := by
  have hr := foldl_lane_wf ho g (lanesOf c.exec) { state := s } h
  unfold runLanes
  dsimp only
  generalize (lanesOf c.exec).foldl (Run.lane o g) { state := s } = r at hr ⊢
  have hp := perform_wf (s.who g) r.puts hr
  split
  · exact h
  · generalize (if o.waits = true then _ else _) = need
    split
    · exact h
    · generalize hd : (faultCodes r.faults).foldl _ _ = d
      cases d with
      | none => exact h
      | some t => exact foldl_settle_wf (fs := ofCode r.faults) hd fun v hv => by cases hv; exact hp

end Sys2Proof.Laws
end

