-- ==== Sys2Proof/Laws/PerInstr.lean ====
section
/-! SUPPORT. The family Encoding, one lemma per constructor: the words that the encoder gives a well-formed
instruction are 32-bit values, and as many as the fetch of a clause takes them to be (06 R128). An event of
the device has no words. -/

namespace Sys2Proof.Laws.Encoding

/-- The encoder gives an instruction no word, or words that the fetch counts as they are. -/
def Statement (i : Instr) : Prop := i.wellFormed = true → encode i = [] ∨ Counted (encode i)

theorem sadd (d : SReg) (a : SReg) (b : SReg) : Statement (.sadd d a b) :=
  fun _ => .inr (counted_one (by decide) (by unfold Fits; omega) (by decide))

theorem ssub (d : SReg) (a : SReg) (b : SReg) : Statement (.ssub d a b) :=
  fun _ => .inr (counted_one (by decide) (by unfold Fits; omega) (by decide))

theorem smul (d : SReg) (a : SReg) (b : SReg) : Statement (.smul d a b) :=
  fun _ => .inr (counted_one (by decide) (by unfold Fits; omega) (by decide))

theorem smulh (d : SReg) (a : SReg) (b : SReg) : Statement (.smulh d a b) :=
  fun _ => .inr (counted_one (by decide) (by unfold Fits; omega) (by decide))

theorem smulhU (d : SReg) (a : SReg) (b : SReg) : Statement (.smulhU d a b) :=
  fun _ => .inr (counted_one (by decide) (by unfold Fits; omega) (by decide))

theorem sand (d : SReg) (a : SReg) (b : SReg) : Statement (.sand d a b) :=
  fun _ => .inr (counted_one (by decide) (by unfold Fits; omega) (by decide))

theorem sor (d : SReg) (a : SReg) (b : SReg) : Statement (.sor d a b) :=
  fun _ => .inr (counted_one (by decide) (by unfold Fits; omega) (by decide))

theorem sxor (d : SReg) (a : SReg) (b : SReg) : Statement (.sxor d a b) :=
  fun _ => .inr (counted_one (by decide) (by unfold Fits; omega) (by decide))

theorem sshl (d : SReg) (a : SReg) (b : SReg) : Statement (.sshl d a b) :=
  fun _ => .inr (counted_one (by decide) (by unfold Fits; omega) (by decide))

theorem sshr (d : SReg) (a : SReg) (b : SReg) : Statement (.sshr d a b) :=
  fun _ => .inr (counted_one (by decide) (by unfold Fits; omega) (by decide))

theorem ssar (d : SReg) (a : SReg) (b : SReg) : Statement (.ssar d a b) :=
  fun _ => .inr (counted_one (by decide) (by unfold Fits; omega) (by decide))

theorem smin (d : SReg) (a : SReg) (b : SReg) : Statement (.smin d a b) :=
  fun _ => .inr (counted_one (by decide) (by unfold Fits; omega) (by decide))

theorem smax (d : SReg) (a : SReg) (b : SReg) : Statement (.smax d a b) :=
  fun _ => .inr (counted_one (by decide) (by unfold Fits; omega) (by decide))

theorem sminu (d : SReg) (a : SReg) (b : SReg) : Statement (.sminu d a b) :=
  fun _ => .inr (counted_one (by decide) (by unfold Fits; omega) (by decide))

theorem smaxu (d : SReg) (a : SReg) (b : SReg) : Statement (.smaxu d a b) :=
  fun _ => .inr (counted_one (by decide) (by unfold Fits; omega) (by decide))

theorem ssel (d : SReg) (a : SReg) (b : SReg) (c : SReg) : Statement (.ssel d a b c) :=
  fun _ => .inr (counted_xm (by decide) (by unfold Fits; omega) (xm_fits (by omega)) rfl (by decide))

theorem sclz (d : SReg) (a : SReg) : Statement (.sclz d a) :=
  fun _ => .inr (counted_one (by decide) (by unfold Fits; omega) (by decide))

theorem spop (d : SReg) (a : SReg) : Statement (.spop d a) :=
  fun _ => .inr (counted_one (by decide) (by unfold Fits; omega) (by decide))

theorem smov (d : SReg) (a : SReg) : Statement (.smov d a) :=
  fun _ => .inr (counted_one (by decide) (by unfold Fits; omega) (by decide))

theorem scmpEq (d : SReg) (a : SReg) (b : SReg) : Statement (.scmpEq d a b) :=
  fun _ => .inr (counted_one (by decide) (by unfold Fits; omega) (by decide))

theorem scmpNe (d : SReg) (a : SReg) (b : SReg) : Statement (.scmpNe d a b) :=
  fun _ => .inr (counted_one (by decide) (by unfold Fits; omega) (by decide))

theorem scmpLt (d : SReg) (a : SReg) (b : SReg) : Statement (.scmpLt d a b) :=
  fun _ => .inr (counted_one (by decide) (by unfold Fits; omega) (by decide))

theorem scmpLe (d : SReg) (a : SReg) (b : SReg) : Statement (.scmpLe d a b) :=
  fun _ => .inr (counted_one (by decide) (by unfold Fits; omega) (by decide))

theorem scmpGt (d : SReg) (a : SReg) (b : SReg) : Statement (.scmpGt d a b) :=
  fun _ => .inr (counted_one (by decide) (by unfold Fits; omega) (by decide))

theorem scmpGe (d : SReg) (a : SReg) (b : SReg) : Statement (.scmpGe d a b) :=
  fun _ => .inr (counted_one (by decide) (by unfold Fits; omega) (by decide))

theorem scmpLtu (d : SReg) (a : SReg) (b : SReg) : Statement (.scmpLtu d a b) :=
  fun _ => .inr (counted_one (by decide) (by unfold Fits; omega) (by decide))

theorem scmpLeu (d : SReg) (a : SReg) (b : SReg) : Statement (.scmpLeu d a b) :=
  fun _ => .inr (counted_one (by decide) (by unfold Fits; omega) (by decide))

theorem scmpGtu (d : SReg) (a : SReg) (b : SReg) : Statement (.scmpGtu d a b) :=
  fun _ => .inr (counted_one (by decide) (by unfold Fits; omega) (by decide))

theorem scmpGeu (d : SReg) (a : SReg) (b : SReg) : Statement (.scmpGeu d a b) :=
  fun _ => .inr (counted_one (by decide) (by unfold Fits; omega) (by decide))

theorem smovi (d : SReg) (i : BitVec 14) : Statement (.smovi d i) :=
  fun _ => .inr (counted_one (by decide) (by unfold Fits; omega) (by decide))

theorem saddiShort (d : SReg) (a : SReg) (i : BitVec 7) : Statement (.saddiShort d a i) :=
  fun _ => .inr (counted_one (by decide) (by unfold Fits; omega) (by decide))

theorem saddiXi (d : SReg) (a : SReg) (i : Word) : Statement (.saddiXi d a i) :=
  fun _ => .inr (counted_xi (by decide) (by unfold Fits; omega) (by decide) (by decide))

theorem slit (d : SReg) (i : Word) : Statement (.slit d i) :=
  fun _ => .inr (counted_xi (by decide) (by unfold Fits; omega) (by decide) (by decide))

theorem srdS (d : SReg) (n : SpecReg) : Statement (.srdS d n) :=
  fun _ => .inr (counted_one (by decide) (by unfold Fits; have := specReg_code_lt n; omega) (by decide))

theorem srdV (d : VReg) (n : SpecReg) : Statement (.srdV d n) :=
  fun _ => .inr (counted_one (by decide) (by unfold Fits; have := specReg_code_lt n; omega) (by decide))

theorem swr (s : SReg) (n : SpecReg) : Statement (.swr s n) :=
  fun _ => .inr (counted_one (by decide) (by unfold Fits; have := specReg_code_lt n; omega) (by decide))

theorem swin (i : BitVec 14) : Statement (.swin i) :=
  fun _ => .inr (counted_one (by decide) (by unfold Fits; omega) (by decide))

theorem vwin (i : BitVec 14) : Statement (.vwin i) :=
  fun _ => .inr (counted_one (by decide) (by unfold Fits; omega) (by decide))

theorem bra (p : PReg) (o : BitVec 17) : Statement (.bra p o) := by
  intro _; right
  have h := counted_one (op := 0x100) (d := 0) (a := 0) (b := p.val * 2 ^ 17 + o.toNat) (by decide)
    (by unfold Fits; omega) (by decide)
  simpa [encode, wd, Nat.add_assoc] using h

theorem brs (s : SReg) (o : BitVec 14) : Statement (.brs s o) :=
  fun _ => .inr (counted_one (by decide) (by unfold Fits; omega) (by decide))

theorem brsZ (s : SReg) (o : BitVec 14) : Statement (.brsZ s o) :=
  fun _ => .inr (counted_one (by decide) (by unfold Fits; omega) (by decide))

theorem jmp (o : BitVec 21) : Statement (.jmp o) :=
  fun _ => .inr (counted_one (by decide) (by unfold Fits; omega) (by decide))

theorem brx (t : VReg) : Statement (.brx t) :=
  fun _ => .inr (counted_one (by decide) (by unfold Fits; omega) (by decide))

theorem call (l : VReg) (o : BitVec 14) : Statement (.call l o) :=
  fun _ => .inr (counted_one (by decide) (by unfold Fits; omega) (by decide))

theorem callx (l : VReg) (t : VReg) : Statement (.callx l t) :=
  fun _ => .inr (counted_one (by decide) (by unfold Fits; omega) (by decide))

theorem ret (l : VReg) : Statement (.ret l) :=
  fun _ => .inr (counted_one (by decide) (by unfold Fits; omega) (by decide))

theorem lpad (k : Fin 4) : Statement (.lpad k) :=
  fun _ => .inr (counted_one (by decide) (by unfold Fits; omega) (by decide))

theorem kset (k : KReg) : Statement (.kset k) :=
  fun _ => .inr (counted_one (by decide) (by unfold Fits; omega) (by decide))

theorem join (k : KReg) : Statement (.join k) :=
  fun _ => .inr (counted_one (by decide) (by unfold Fits; omega) (by decide))

theorem exitLanes : Statement .exitLanes :=
  fun _ => .inr (counted_one (by decide) (by unfold Fits; omega) (by decide))

theorem trap (c : BitVec 14) : Statement (.trap c) :=
  fun _ => .inr (counted_one (by decide) (by unfold Fits; omega) (by decide))

theorem brk (c : BitVec 14) : Statement (.brk c) :=
  fun _ => .inr (counted_one (by decide) (by unfold Fits; omega) (by decide))

theorem nop : Statement .nop :=
  fun _ => .inr (counted_one (by decide) (by unfold Fits; omega) (by decide))

theorem perf (s : SReg) : Statement (.perf s) :=
  fun _ => .inr (counted_one (by decide) (by unfold Fits; omega) (by decide))

theorem launch (v : VReg) : Statement (.launch v) :=
  fun _ => .inr (counted_one (by decide) (by unfold Fits; omega) (by decide))

theorem launchOrd (v : VReg) : Statement (.launchOrd v) :=
  fun _ => .inr (counted_one (by decide) (by unfold Fits; omega) (by decide))

theorem renq (r : SReg) (e : VReg) : Statement (.renq r e) :=
  fun _ => .inr (counted_one (by decide) (by unfold Fits; omega) (by decide))

theorem rdeq (d : SReg) (r : SReg) : Statement (.rdeq d r) :=
  fun _ => .inr (counted_one (by decide) (by unfold Fits; omega) (by decide))

theorem svc (c : BitVec 14) : Statement (.svc c) :=
  fun _ => .inr (counted_one (by decide) (by unfold Fits; omega) (by decide))

theorem vadd (d : VReg) (a : VReg) (b : VReg) : Statement (.vadd d a b) :=
  fun _ => .inr (counted_one (by decide) (by unfold Fits; omega) (by decide))

theorem vsub (d : VReg) (a : VReg) (b : VReg) : Statement (.vsub d a b) :=
  fun _ => .inr (counted_one (by decide) (by unfold Fits; omega) (by decide))

theorem vmul (d : VReg) (a : VReg) (b : VReg) : Statement (.vmul d a b) :=
  fun _ => .inr (counted_one (by decide) (by unfold Fits; omega) (by decide))

theorem vmulhS32 (d : VReg) (a : VReg) (b : VReg) : Statement (.vmulhS32 d a b) :=
  fun _ => .inr (counted_one (by decide) (by unfold Fits; omega) (by decide))

theorem vmulhU32 (d : VReg) (a : VReg) (b : VReg) : Statement (.vmulhU32 d a b) :=
  fun _ => .inr (counted_one (by decide) (by unfold Fits; omega) (by decide))

theorem vmad (d : VReg) (a : VReg) (b : VReg) (c : VReg) : Statement (.vmad d a b c) :=
  fun _ => .inr (counted_xm (by decide) (by unfold Fits; omega) (xm_fits (by omega)) rfl (by decide))

theorem vaddc (d : VReg) (a : VReg) (b : VReg) (c : PReg) : Statement (.vaddc d a b c) :=
  fun _ => .inr (counted_xm (by decide) (by unfold Fits; omega) (xm_fits (by omega)) rfl (by decide))

theorem vand (d : VReg) (a : VReg) (b : VReg) : Statement (.vand d a b) :=
  fun _ => .inr (counted_one (by decide) (by unfold Fits; omega) (by decide))

theorem vor (d : VReg) (a : VReg) (b : VReg) : Statement (.vor d a b) :=
  fun _ => .inr (counted_one (by decide) (by unfold Fits; omega) (by decide))

theorem vxor (d : VReg) (a : VReg) (b : VReg) : Statement (.vxor d a b) :=
  fun _ => .inr (counted_one (by decide) (by unfold Fits; omega) (by decide))

theorem vshl (d : VReg) (a : VReg) (b : VReg) : Statement (.vshl d a b) :=
  fun _ => .inr (counted_one (by decide) (by unfold Fits; omega) (by decide))

theorem vshr (d : VReg) (a : VReg) (b : VReg) : Statement (.vshr d a b) :=
  fun _ => .inr (counted_one (by decide) (by unfold Fits; omega) (by decide))

theorem vsar (d : VReg) (a : VReg) (b : VReg) : Statement (.vsar d a b) :=
  fun _ => .inr (counted_one (by decide) (by unfold Fits; omega) (by decide))

theorem vminS32 (d : VReg) (a : VReg) (b : VReg) : Statement (.vminS32 d a b) :=
  fun _ => .inr (counted_one (by decide) (by unfold Fits; omega) (by decide))

theorem vminU32 (d : VReg) (a : VReg) (b : VReg) : Statement (.vminU32 d a b) :=
  fun _ => .inr (counted_one (by decide) (by unfold Fits; omega) (by decide))

theorem vmaxS32 (d : VReg) (a : VReg) (b : VReg) : Statement (.vmaxS32 d a b) :=
  fun _ => .inr (counted_one (by decide) (by unfold Fits; omega) (by decide))

theorem vmaxU32 (d : VReg) (a : VReg) (b : VReg) : Statement (.vmaxU32 d a b) :=
  fun _ => .inr (counted_one (by decide) (by unfold Fits; omega) (by decide))

theorem vabs (d : VReg) (a : VReg) : Statement (.vabs d a) :=
  fun _ => .inr (counted_one (by decide) (by unfold Fits; omega) (by decide))

theorem vclz (d : VReg) (a : VReg) : Statement (.vclz d a) :=
  fun _ => .inr (counted_one (by decide) (by unfold Fits; omega) (by decide))

theorem vpop (d : VReg) (a : VReg) : Statement (.vpop d a) :=
  fun _ => .inr (counted_one (by decide) (by unfold Fits; omega) (by decide))

theorem vbfeS32 (d : VReg) (a : VReg) (b : VReg) (c : VReg) : Statement (.vbfeS32 d a b c) :=
  fun _ => .inr (counted_xm (by decide) (by unfold Fits; omega) (xm_fits (by omega)) rfl (by decide))

theorem vbfeU32 (d : VReg) (a : VReg) (b : VReg) (c : VReg) : Statement (.vbfeU32 d a b c) :=
  fun _ => .inr (counted_xm (by decide) (by unfold Fits; omega) (xm_fits (by omega)) rfl (by decide))

theorem vbfi (d : VReg) (a : VReg) (b : VReg) (c : VReg) : Statement (.vbfi d a b c) :=
  fun _ => .inr (counted_xm (by decide) (by unfold Fits; omega) (xm_fits (by omega)) rfl (by decide))

theorem vsel (d : VReg) (a : VReg) (b : VReg) (c : PReg) : Statement (.vsel d a b c) :=
  fun _ => .inr (counted_xm (by decide) (by unfold Fits; omega) (xm_fits (by omega)) rfl (by decide))

theorem vmov (d : VReg) (a : VReg) : Statement (.vmov d a) :=
  fun _ => .inr (counted_one (by decide) (by unfold Fits; omega) (by decide))

theorem vmovi (d : VReg) (i : BitVec 14) : Statement (.vmovi d i) :=
  fun _ => .inr (counted_one (by decide) (by unfold Fits; omega) (by decide))

theorem vlit (d : VReg) (i : Word) : Statement (.vlit d i) :=
  fun _ => .inr (counted_xi (by decide) (by unfold Fits; omega) (by decide) (by decide))

theorem vcmpEqS32 (d : PReg) (a : VReg) (b : VReg) : Statement (.vcmpEqS32 d a b) :=
  fun _ => .inr (counted_one (by decide) (by unfold Fits; omega) (by decide))

theorem vcmpNeS32 (d : PReg) (a : VReg) (b : VReg) : Statement (.vcmpNeS32 d a b) :=
  fun _ => .inr (counted_one (by decide) (by unfold Fits; omega) (by decide))

theorem vcmpLtS32 (d : PReg) (a : VReg) (b : VReg) : Statement (.vcmpLtS32 d a b) :=
  fun _ => .inr (counted_one (by decide) (by unfold Fits; omega) (by decide))

theorem vcmpLeS32 (d : PReg) (a : VReg) (b : VReg) : Statement (.vcmpLeS32 d a b) :=
  fun _ => .inr (counted_one (by decide) (by unfold Fits; omega) (by decide))

theorem vcmpGtS32 (d : PReg) (a : VReg) (b : VReg) : Statement (.vcmpGtS32 d a b) :=
  fun _ => .inr (counted_one (by decide) (by unfold Fits; omega) (by decide))

theorem vcmpGeS32 (d : PReg) (a : VReg) (b : VReg) : Statement (.vcmpGeS32 d a b) :=
  fun _ => .inr (counted_one (by decide) (by unfold Fits; omega) (by decide))

theorem vcmpEqU32 (d : PReg) (a : VReg) (b : VReg) : Statement (.vcmpEqU32 d a b) :=
  fun _ => .inr (counted_one (by decide) (by unfold Fits; omega) (by decide))

theorem vcmpNeU32 (d : PReg) (a : VReg) (b : VReg) : Statement (.vcmpNeU32 d a b) :=
  fun _ => .inr (counted_one (by decide) (by unfold Fits; omega) (by decide))

theorem vcmpLtU32 (d : PReg) (a : VReg) (b : VReg) : Statement (.vcmpLtU32 d a b) :=
  fun _ => .inr (counted_one (by decide) (by unfold Fits; omega) (by decide))

theorem vcmpLeU32 (d : PReg) (a : VReg) (b : VReg) : Statement (.vcmpLeU32 d a b) :=
  fun _ => .inr (counted_one (by decide) (by unfold Fits; omega) (by decide))

theorem vcmpGtU32 (d : PReg) (a : VReg) (b : VReg) : Statement (.vcmpGtU32 d a b) :=
  fun _ => .inr (counted_one (by decide) (by unfold Fits; omega) (by decide))

theorem vcmpGeU32 (d : PReg) (a : VReg) (b : VReg) : Statement (.vcmpGeU32 d a b) :=
  fun _ => .inr (counted_one (by decide) (by unfold Fits; omega) (by decide))

theorem fadd (t : FTy) (r : Rnd) (d : VReg) (a : VReg) (b : VReg) : Statement (.fadd t r d a b) := by
  intro _; right; cases t <;> cases r <;>
    exact counted_one (by decide) (by unfold Fits; omega) (by decide)

theorem fsub (t : FTy) (r : Rnd) (d : VReg) (a : VReg) (b : VReg) : Statement (.fsub t r d a b) := by
  intro _; right; cases t <;> cases r <;>
    exact counted_one (by decide) (by unfold Fits; omega) (by decide)

theorem fmul (t : FTy) (r : Rnd) (d : VReg) (a : VReg) (b : VReg) : Statement (.fmul t r d a b) := by
  intro _; right; cases t <;> cases r <;>
    exact counted_one (by decide) (by unfold Fits; omega) (by decide)

theorem ffma (t : FTy) (r : Rnd) (d : VReg) (a : VReg) (b : VReg) (c : VReg) : Statement (.ffma t r d a b c) := by
  intro _; right; cases t <;> cases r <;>
    exact counted_xm (by decide) (by unfold Fits; omega) (xm_fits (by omega)) rfl (by decide)

theorem fmin (t : FTy) (d : VReg) (a : VReg) (b : VReg) : Statement (.fmin t d a b) := by
  intro _; right; cases t <;>
    exact counted_one (by decide) (by unfold Fits; omega) (by decide)

theorem fmax (t : FTy) (d : VReg) (a : VReg) (b : VReg) : Statement (.fmax t d a b) := by
  intro _; right; cases t <;>
    exact counted_one (by decide) (by unfold Fits; omega) (by decide)

theorem fcmp (t : FTy) (x : FCond) (d : PReg) (a : VReg) (b : VReg) : Statement (.fcmp t x d a b) := by
  intro _; right; cases t <;>
    exact counted_xm (by decide) (by unfold Fits; omega) (xm_fits (by have := fCond_code_lt x; omega)) rfl (by decide)

theorem fdot2 (t : Half) (r : Rnd) (d : VReg) (a : VReg) (b : VReg) : Statement (.fdot2 t r d a b) := by
  intro _; right; cases t <;> cases r <;>
    exact counted_one (by decide) (by unfold Fits; omega) (by decide)

theorem cvt (dt : NumTy) (sty : NumTy) (r : Rnd) (d : VReg) (a : VReg) : Statement (.cvt dt sty r d a) := by
  intro _; right; cases r <;>
    exact counted_xm (by decide) (by unfold Fits; omega) (xm_fits (by have := numTy_code_lt dt; have := numTy_code_lt sty; omega)) rfl (by decide)

theorem cvtn (n : Narrow) (r : Rnd) (d : VReg) (a : VReg) : Statement (.cvtn n r d a) := by
  intro _; right; cases r <;>
    exact counted_xm (by decide) (by unfold Fits; omega) (xm_fits (by have := numTy_code_lt n.dst; have := numTy_code_lt n.src; omega)) rfl (by decide)

theorem frcp (t : Prec) (r : Rnd) (d : VReg) (a : VReg) : Statement (.frcp t r d a) := by
  intro _; right; cases t <;> cases r <;>
    exact counted_one (by decide) (by unfold Fits; omega) (by decide)

theorem frsq (t : Prec) (d : VReg) (a : VReg) : Statement (.frsq t d a) := by
  intro _; right; cases t <;>
    exact counted_one (by decide) (by unfold Fits; omega) (by decide)

theorem fsqrt (t : Prec) (r : Rnd) (d : VReg) (a : VReg) : Statement (.fsqrt t r d a) := by
  intro _; right; cases t <;> cases r <;>
    exact counted_one (by decide) (by unfold Fits; omega) (by decide)

theorem fdiv (t : Prec) (r : Rnd) (d : VReg) (a : VReg) (b : VReg) : Statement (.fdiv t r d a b) := by
  intro _; right; cases t <;> cases r <;>
    exact counted_one (by decide) (by unfold Fits; omega) (by decide)

theorem fexp2 (t : Prec) (d : VReg) (a : VReg) : Statement (.fexp2 t d a) := by
  intro _; right; cases t <;>
    exact counted_one (by decide) (by unfold Fits; omega) (by decide)

theorem flog2 (t : Prec) (d : VReg) (a : VReg) : Statement (.flog2 t d a) := by
  intro _; right; cases t <;>
    exact counted_one (by decide) (by unfold Fits; omega) (by decide)

theorem fsin (t : Prec) (d : VReg) (a : VReg) : Statement (.fsin t d a) := by
  intro _; right; cases t <;>
    exact counted_one (by decide) (by unfold Fits; omega) (by decide)

theorem fcos (t : Prec) (d : VReg) (a : VReg) : Statement (.fcos t d a) := by
  intro _; right; cases t <;>
    exact counted_one (by decide) (by unfold Fits; omega) (by decide)

theorem fround (t : Prec) (r : Rnd) (d : VReg) (a : VReg) : Statement (.fround t r d a) := by
  intro _; right; cases t <;> cases r <;>
    exact counted_one (by decide) (by unfold Fits; omega) (by decide)

theorem ffract (t : Prec) (d : VReg) (a : VReg) : Statement (.ffract t d a) := by
  intro _; right; cases t <;>
    exact counted_one (by decide) (by unfold Fits; omega) (by decide)

theorem fclass (t : Prec) (d : VReg) (a : VReg) : Statement (.fclass t d a) := by
  intro _; right; cases t <;>
    exact counted_one (by decide) (by unfold Fits; omega) (by decide)

theorem qswapH (d : VReg) (a : VReg) : Statement (.qswapH d a) :=
  fun _ => .inr (counted_one (by decide) (by unfold Fits; omega) (by decide))

theorem qswapV (d : VReg) (a : VReg) : Statement (.qswapV d a) :=
  fun _ => .inr (counted_one (by decide) (by unfold Fits; omega) (by decide))

theorem qswapD (d : VReg) (a : VReg) : Statement (.qswapD d a) :=
  fun _ => .inr (counted_one (by decide) (by unfold Fits; omega) (by decide))

theorem ddxFine (d : VReg) (a : VReg) : Statement (.ddxFine d a) :=
  fun _ => .inr (counted_one (by decide) (by unfold Fits; omega) (by decide))

theorem ddxCoarse (d : VReg) (a : VReg) : Statement (.ddxCoarse d a) :=
  fun _ => .inr (counted_one (by decide) (by unfold Fits; omega) (by decide))

theorem ddyFine (d : VReg) (a : VReg) : Statement (.ddyFine d a) :=
  fun _ => .inr (counted_one (by decide) (by unfold Fits; omega) (by decide))

theorem ddyCoarse (d : VReg) (a : VReg) : Statement (.ddyCoarse d a) :=
  fun _ => .inr (counted_one (by decide) (by unfold Fits; omega) (by decide))

theorem shflIdx (d : VReg) (a : VReg) (b : VReg) : Statement (.shflIdx d a b) :=
  fun _ => .inr (counted_one (by decide) (by unfold Fits; omega) (by decide))

theorem shflUp (d : VReg) (a : VReg) (b : VReg) : Statement (.shflUp d a b) :=
  fun _ => .inr (counted_one (by decide) (by unfold Fits; omega) (by decide))

theorem shflDown (d : VReg) (a : VReg) (b : VReg) : Statement (.shflDown d a b) :=
  fun _ => .inr (counted_one (by decide) (by unfold Fits; omega) (by decide))

theorem shflXor (d : VReg) (a : VReg) (b : VReg) : Statement (.shflXor d a b) :=
  fun _ => .inr (counted_one (by decide) (by unfold Fits; omega) (by decide))

theorem voteAny (d : PReg) (a : PReg) : Statement (.voteAny d a) :=
  fun _ => .inr (counted_one (by decide) (by unfold Fits; omega) (by decide))

theorem voteAll (d : PReg) (a : PReg) : Statement (.voteAll d a) :=
  fun _ => .inr (counted_one (by decide) (by unfold Fits; omega) (by decide))

theorem voteBallot (d : VReg) (a : PReg) : Statement (.voteBallot d a) :=
  fun _ => .inr (counted_one (by decide) (by unfold Fits; omega) (by decide))

theorem matchAny (d : VReg) (a : VReg) : Statement (.matchAny d a) :=
  fun _ => .inr (counted_one (by decide) (by unfold Fits; omega) (by decide))

theorem reduce (o : RedOp) (t : RedTy) (r : Rnd) (d : VReg) (a : VReg) : Statement (.reduce o t r d a) :=
  fun _ => .inr (counted_xm (by decide) (by unfold Fits; omega) (xm_fits (by have := redOp_code_lt o; have := redTy_code_lt t; have := rnd_code_lt r; omega)) rfl (by decide))

theorem scan (o : RedOp) (t : RedTy) (r : Rnd) (d : VReg) (a : VReg) : Statement (.scan o t r d a) :=
  fun _ => .inr (counted_xm (by decide) (by unfold Fits; omega) (xm_fits (by have := redOp_code_lt o; have := redTy_code_lt t; have := rnd_code_lt r; omega)) rfl (by decide))

theorem actmask (d : VReg) : Statement (.actmask d) :=
  fun _ => .inr (counted_one (by decide) (by unfold Fits; omega) (by decide))

theorem ishelp (d : PReg) : Statement (.ishelp d) :=
  fun _ => .inr (counted_one (by decide) (by unfold Fits; omega) (by decide))

theorem pand (d : PReg) (a : PReg) (b : PReg) : Statement (.pand d a b) :=
  fun _ => .inr (counted_one (by decide) (by unfold Fits; omega) (by decide))

theorem por (d : PReg) (a : PReg) (b : PReg) : Statement (.por d a b) :=
  fun _ => .inr (counted_one (by decide) (by unfold Fits; omega) (by decide))

theorem pxor (d : PReg) (a : PReg) (b : PReg) : Statement (.pxor d a b) :=
  fun _ => .inr (counted_one (by decide) (by unfold Fits; omega) (by decide))

theorem pnot (d : PReg) (a : PReg) : Statement (.pnot d a) :=
  fun _ => .inr (counted_one (by decide) (by unfold Fits; omega) (by decide))

theorem pmov (d : PReg) (a : PReg) : Statement (.pmov d a) :=
  fun _ => .inr (counted_one (by decide) (by unfold Fits; omega) (by decide))

theorem ld (z : LdSize) (d : VReg) (b : SReg) (o : BitVec 7) : Statement (.ld z d b o) := by
  intro _; right; cases z <;>
    exact counted_one (by decide) (by unfold Fits; omega) (by decide)

theorem ldX (z : LdSize) (q : Option Scope) (d : VReg) (m : MemX) : Statement (.ldX z q d m) := by
  intro _; right; cases z <;>
    exact counted_mem (by decide) (by omega) (xm_fits (by have := optCode_lt q; have := isSome_code_lt q 1 (by decide); omega)) ⟨rfl, rfl, rfl⟩ (by decide) (by decide)

theorem lds (z : LdSize) (d : VReg) (b : SReg) (o : BitVec 7) : Statement (.lds z d b o) := by
  intro _; right; cases z <;>
    exact counted_one (by decide) (by unfold Fits; omega) (by decide)

theorem ldsX (z : LdSize) (q : Option Scope) (d : VReg) (m : MemX) : Statement (.ldsX z q d m) := by
  intro _; right; cases z <;>
    exact counted_mem (by decide) (by omega) (xm_fits (by have := optCode_lt q; have := isSome_code_lt q 1 (by decide); omega)) ⟨rfl, rfl, rfl⟩ (by decide) (by decide)

theorem ldc (z : LdSize) (d : VReg) (b : SReg) (o : BitVec 7) : Statement (.ldc z d b o) := by
  intro _; right; cases z <;>
    exact counted_one (by decide) (by unfold Fits; omega) (by decide)

theorem ldcX (z : LdSize) (q : Option Scope) (d : VReg) (m : MemX) : Statement (.ldcX z q d m) := by
  intro _; right; cases z <;>
    exact counted_mem (by decide) (by omega) (xm_fits (by have := optCode_lt q; have := isSome_code_lt q 1 (by decide); omega)) ⟨rfl, rfl, rfl⟩ (by decide) (by decide)

theorem sld (z : LdSize) (d : SReg) (b : SReg) (o : BitVec 7) : Statement (.sld z d b o) := by
  intro _; right; cases z <;>
    exact counted_one (by decide) (by unfold Fits; omega) (by decide)

theorem sldX (z : LdSize) (q : Option Scope) (d : SReg) (m : MemX) : Statement (.sldX z q d m) := by
  intro _; right; cases z <;>
    exact counted_mem (by decide) (by omega) (xm_fits (by have := optCode_lt q; have := isSome_code_lt q 1 (by decide); omega)) ⟨rfl, rfl, rfl⟩ (by decide) (by decide)

theorem ldlod (z : LodSize) (d : VReg) (b : SReg) (o : BitVec 7) : Statement (.ldlod z d b o) := by
  intro _; right; cases z <;>
    exact counted_one (by decide) (by unfold Fits; omega) (by decide)

theorem ldlodX (l : Fin 16) (z : LodSize) (d : VReg) (m : MemX) : Statement (.ldlodX l z d m) := by
  intro _; right; cases z <;>
    exact counted_mem (by decide) (by omega) (xm_fits (by omega)) ⟨rfl, rfl, rfl⟩ (by decide) (by decide)

theorem ldbrk (d : VReg) (m : MemX) (c : VReg) : Statement (.ldbrk d m c) :=
  fun _ => .inr (counted_mem (by decide) (by omega) (xm_fits (by omega)) ⟨rfl, rfl, rfl⟩ (by decide) (by decide))

theorem tex (u : TexMode) (z : LodSize) (d : VReg) (s : SReg) (c : VReg) : Statement (.tex u z d s c) := by
  intro _; right; cases z <;>
    exact counted_xm (by decide) (by unfold Fits; omega) (xm_fits (by have := texMode_code_lt u; omega)) rfl (by decide)

theorem texg (n : Fin 4) (d : VReg) (s : SReg) (c : VReg) : Statement (.texg n d s c) :=
  fun _ => .inr (counted_xm (by decide) (by unfold Fits; omega) (xm_fits (by omega)) rfl (by decide))

theorem st (z : LdSize) (d : VReg) (b : SReg) (o : BitVec 7) : Statement (.st z d b o) := by
  intro _; right; cases z <;>
    exact counted_one (by decide) (by unfold Fits; omega) (by decide)

theorem stX (z : LdSize) (w : StNarrow) (q : Option Scope) (d : VReg) (m : MemX) : Statement (.stX z w q d m) := by
  intro _; right; cases z <;>
    exact counted_mem (by decide) (by omega) (xm_fits (by have := stNarrow_code_lt w; have := optCode_lt q; have := isSome_code_lt q 2 (by decide); omega)) ⟨rfl, rfl, rfl⟩ (by decide) (by decide)

theorem sts (z : LdSize) (d : VReg) (b : SReg) (o : BitVec 7) : Statement (.sts z d b o) := by
  intro _; right; cases z <;>
    exact counted_one (by decide) (by unfold Fits; omega) (by decide)

theorem stsX (z : LdSize) (w : StNarrow) (q : Option Scope) (d : VReg) (m : MemX) : Statement (.stsX z w q d m) := by
  intro _; right; cases z <;>
    exact counted_mem (by decide) (by omega) (xm_fits (by have := stNarrow_code_lt w; have := optCode_lt q; have := isSome_code_lt q 2 (by decide); omega)) ⟨rfl, rfl, rfl⟩ (by decide) (by decide)

theorem stc (z : LdSize) (d : VReg) (b : SReg) (o : BitVec 7) : Statement (.stc z d b o) := by
  intro _; right; cases z <;>
    exact counted_one (by decide) (by unfold Fits; omega) (by decide)

theorem stcX (z : LdSize) (w : StNarrow) (q : Option Scope) (d : VReg) (m : MemX) : Statement (.stcX z w q d m) := by
  intro _; right; cases z <;>
    exact counted_mem (by decide) (by omega) (xm_fits (by have := stNarrow_code_lt w; have := optCode_lt q; have := isSome_code_lt q 2 (by decide); omega)) ⟨rfl, rfl, rfl⟩ (by decide) (by decide)

theorem sst (z : LdSize) (d : SReg) (b : SReg) (o : BitVec 7) : Statement (.sst z d b o) := by
  intro _; right; cases z <;>
    exact counted_one (by decide) (by unfold Fits; omega) (by decide)

theorem sstX (z : LdSize) (w : StNarrow) (q : Option Scope) (d : SReg) (m : MemX) : Statement (.sstX z w q d m) := by
  intro _; right; cases z <;>
    exact counted_mem (by decide) (by omega) (xm_fits (by have := stNarrow_code_lt w; have := optCode_lt q; have := isSome_code_lt q 2 (by decide); omega)) ⟨rfl, rfl, rfl⟩ (by decide) (by decide)

theorem stbrk (k : BrickTy) (a : VReg) (m : MemX) : Statement (.stbrk k a m) :=
  fun _ => .inr (counted_mem (by decide) (by omega) (xm_fits (by have := brickTy_tya_lt k; have := brickTy_tyb_lt k; omega)) ⟨rfl, rfl, rfl⟩ (by decide) (by decide))

theorem atom (o : AtomOp) (t : AtomTy) (q : Sem) (w : Scope) (d : VReg) (m : MemX) (c : VReg) : Statement (.atom o t q w d m c) := by
  intro _; right; have h := atomTy_code_lt t; cases t <;>
    exact counted_mem (by decide) (by omega) (xm_fits (by have := atomOp_code_lt o; have := sem_code_lt q; have := scope_code_lt w; omega)) ⟨rfl, rfl, rfl⟩ (by decide) (by decide)

theorem atoms (o : AtomOp) (t : AtomTy) (q : Sem) (w : Scope) (d : VReg) (m : MemX) (c : VReg) : Statement (.atoms o t q w d m c) := by
  intro _; right; have h := atomTy_code_lt t; cases t <;>
    exact counted_mem (by decide) (by omega) (xm_fits (by have := atomOp_code_lt o; have := sem_code_lt q; have := scope_code_lt w; omega)) ⟨rfl, rfl, rfl⟩ (by decide) (by decide)

theorem red (o : AtomOp) (t : AtomTy) (q : Sem) (w : Scope) (m : MemX) (c : VReg) : Statement (.red o t q w m c) := by
  intro _; right; have h := atomTy_code_lt t; cases t <;>
    exact counted_mem (by decide) (by omega) (xm_fits (by have := atomOp_code_lt o; have := sem_code_lt q; have := scope_code_lt w; omega)) ⟨rfl, rfl, rfl⟩ (by decide) (by decide)

theorem atomx (o : AtomOp) (t : AtomTy) (q : Sem) (w : Scope) (d : VReg) (m : MemX) (c : VReg) : Statement (.atomx o t q w d m c) := by
  intro _; right; have h := atomTy_code_lt t; cases t <;>
    exact counted_mem (by decide) (by omega) (xm_fits (by have := atomOp_code_lt o; have := sem_code_lt q; have := scope_code_lt w; omega)) ⟨rfl, rfl, rfl⟩ (by decide) (by decide)

theorem cpaB32 (s : SReg) (g : SReg) (i : VReg) : Statement (.cpaB32 s g i) :=
  fun _ => .inr (counted_one (by decide) (by unfold Fits; omega) (by decide))

theorem cpaB64 (s : SReg) (g : SReg) (i : VReg) : Statement (.cpaB64 s g i) :=
  fun _ => .inr (counted_one (by decide) (by unfold Fits; omega) (by decide))

theorem cpaB128 (s : SReg) (g : SReg) (i : VReg) : Statement (.cpaB128 s g i) :=
  fun _ => .inr (counted_one (by decide) (by unfold Fits; omega) (by decide))

theorem cpb (d : SReg) (s : SReg) (n : SReg) : Statement (.cpb d s n) :=
  fun _ => .inr (counted_one (by decide) (by unfold Fits; omega) (by decide))

theorem prefr (d : SReg) (a : SReg) (b : SReg) : Statement (.prefr d a b) :=
  fun _ => .inr (counted_one (by decide) (by unfold Fits; omega) (by decide))

theorem tokw (d : SReg) (a : SReg) : Statement (.tokw d a) :=
  fun _ => .inr (counted_one (by decide) (by unfold Fits; omega) (by decide))

theorem femarkFull (a : SReg) (b : SReg) : Statement (.femarkFull a b) :=
  fun _ => .inr (counted_one (by decide) (by unfold Fits; omega) (by decide))

theorem femarkEmpty (a : SReg) (b : SReg) : Statement (.femarkEmpty a b) :=
  fun _ => .inr (counted_one (by decide) (by unfold Fits; omega) (by decide))

theorem waitcToken (t : SReg) (o : BitVec 14) : Statement (.waitcToken t o) :=
  fun _ => .inr (counted_one (by decide) (by unfold Fits; omega) (by decide))

theorem waitcBarrier (o : BitVec 14) : Statement (.waitcBarrier o) :=
  fun _ => .inr (counted_one (by decide) (by unfold Fits; omega) (by decide))

theorem bar : Statement .bar :=
  fun _ => .inr (counted_one (by decide) (by unfold Fits; omega) (by decide))

theorem mbara (b : SReg) : Statement (.mbara b) :=
  fun _ => .inr (counted_one (by decide) (by unfold Fits; omega) (by decide))

theorem mbarw (b : SReg) (p : SReg) : Statement (.mbarw b p) :=
  fun _ => .inr (counted_one (by decide) (by unfold Fits; omega) (by decide))

theorem fenceAcq (w : Scope) : Statement (.fenceAcq w) :=
  fun _ => .inr (counted_one (by decide) (by unfold Fits; have := scope_code_lt w; omega) (by decide))

theorem fenceRel (w : Scope) : Statement (.fenceRel w) :=
  fun _ => .inr (counted_one (by decide) (by unfold Fits; have := scope_code_lt w; omega) (by decide))

theorem fenceSc (w : Scope) : Statement (.fenceSc w) :=
  fun _ => .inr (counted_one (by decide) (by unfold Fits; have := scope_code_lt w; omega) (by decide))

theorem opfence : Statement .opfence :=
  fun _ => .inr (counted_one (by decide) (by unfold Fits; omega) (by decide))

theorem xall (d : SReg) (a : SReg) : Statement (.xall d a) :=
  fun _ => .inr (counted_one (by decide) (by unfold Fits; omega) (by decide))

theorem cflush (a : SReg) (b : SReg) : Statement (.cflush a b) :=
  fun _ => .inr (counted_one (by decide) (by unfold Fits; omega) (by decide))

theorem mma (t : MatTy) (h : MatShape) (z : ZReg) (a : SReg) (b : SReg) : Statement (.mma t h z a b) :=
  fun _ => .inr (counted_xm (by decide) (by unfold Fits; omega) (xm_fits (by have := matTy_code_lt t; have := matShape_code_lt h; have := matShape_viewNo_lt h; omega)) rfl (by decide))

theorem mloop (t : MatTy) (h : MatShape) (z : ZReg) (p : SReg) : Statement (.mloop t h z p) :=
  fun _ => .inr (counted_xm (by decide) (by unfold Fits; omega) (xm_fits (by have := matTy_code_lt t; have := matShape_code_lt h; have := matShape_viewNo_lt h; omega)) rfl (by decide))

theorem mzero (z : ZReg) : Statement (.mzero z) :=
  fun _ => .inr (counted_one (by decide) (by unfold Fits; omega) (by decide))

theorem mldz (t : TileTy) (z : ZReg) (a : SReg) : Statement (.mldz t z a) :=
  fun _ => .inr (counted_one (by decide) (by unfold Fits; have := tileTy_code_lt t; omega) (by decide))

theorem mstz (t : TileTy) (z : ZReg) (a : SReg) : Statement (.mstz t z a) :=
  fun _ => .inr (counted_one (by decide) (by unfold Fits; have := tileTy_code_lt t; omega) (by decide))

theorem mqnt (k : QuantTy) (z : ZReg) (a : SReg) : Statement (.mqnt k z a) :=
  fun _ => .inr (counted_xm (by decide) (by unfold Fits; omega) (xm_fits (by have := quantTy_tya_lt k; have := quantTy_tyb_lt k; omega)) rfl (by decide))

theorem mstat (d : SReg) (z : ZReg) : Statement (.mstat d z) :=
  fun _ => .inr (counted_one (by decide) (by unfold Fits; omega) (by decide))

theorem hld (d : HReg) (b : SReg) (o : BitVec 7) : Statement (.hld d b o) :=
  fun _ => .inr (counted_one (by decide) (by unfold Fits; omega) (by decide))

theorem hst (a : HReg) (b : SReg) (o : BitVec 7) : Statement (.hst a b o) :=
  fun _ => .inr (counted_one (by decide) (by unfold Fits; omega) (by decide))

theorem hmov (d : HReg) (a : HReg) : Statement (.hmov d a) :=
  fun _ => .inr (counted_one (by decide) (by unfold Fits; omega) (by decide))

theorem hbind (d : HReg) (a : HReg) (b : HReg) : Statement (.hbind d a b) :=
  fun _ => .inr (counted_one (by decide) (by unfold Fits; omega) (by decide))

theorem hperm (d : HReg) (a : HReg) (n : SReg) : Statement (.hperm d a n) :=
  fun _ => .inr (counted_one (by decide) (by unfold Fits; omega) (by decide))

theorem hbund (c : CReg) (a : HReg) : Statement (.hbund c a) :=
  fun _ => .inr (counted_one (by decide) (by unfold Fits; omega) (by decide))

theorem hthr (d : HReg) (c : CReg) : Statement (.hthr d c) :=
  fun _ => .inr (counted_one (by decide) (by unfold Fits; omega) (by decide))

theorem hclrc (c : CReg) : Statement (.hclrc c) :=
  fun _ => .inr (counted_one (by decide) (by unfold Fits; omega) (by decide))

theorem hham (d : SReg) (a : HReg) (b : HReg) : Statement (.hham d a b) :=
  fun _ => .inr (counted_one (by decide) (by unfold Fits; omega) (by decide))

theorem hnear (d : SReg) (a : HReg) (b : HReg) (c : SReg) : Statement (.hnear d a b c) :=
  fun _ => .inr (counted_xm (by decide) (by unfold Fits; omega) (xm_fits (by omega)) rfl (by decide))

theorem htie (a : HReg) : Statement (.htie a) :=
  fun _ => .inr (counted_one (by decide) (by unfold Fits; omega) (by decide))

theorem hbit (d : HReg) (n : SReg) (v : SReg) : Statement (.hbit d n v) :=
  fun _ => .inr (counted_one (by decide) (by unfold Fits; omega) (by decide))

theorem gopenW1 (p : SReg) (t : Fin 65) (o : Word) : Statement (.gopenW1 p t o) :=
  fun _ => .inr (counted_xi (by decide) (by unfold Fits; omega) (by decide) (by decide))

theorem gopenW2 (p : SReg) (t : Fin 65) (o : Word) : Statement (.gopenW2 p t o) :=
  fun _ => .inr (counted_xi (by decide) (by unfold Fits; omega) (by decide) (by decide))

theorem gopenW3 (p : SReg) (t : Fin 65) (o : Word) : Statement (.gopenW3 p t o) :=
  fun _ => .inr (counted_xi (by decide) (by unfold Fits; omega) (by decide) (by decide))

theorem gopenW4 (p : SReg) (t : Fin 65) (o : Word) : Statement (.gopenW4 p t o) :=
  fun _ => .inr (counted_xi (by decide) (by unfold Fits; omega) (by decide) (by decide))

theorem gyield (a : VReg) : Statement (.gyield a) :=
  fun _ => .inr (counted_one (by decide) (by unfold Fits; omega) (by decide))

theorem gtake (d : VReg) : Statement (.gtake d) :=
  fun _ => .inr (counted_one (by decide) (by unfold Fits; omega) (by decide))

theorem gback : Statement .gback :=
  fun _ => .inr (counted_one (by decide) (by unfold Fits; omega) (by decide))

theorem gdone : Statement .gdone :=
  fun _ => .inr (counted_one (by decide) (by unfold Fits; omega) (by decide))

theorem gclose : Statement .gclose :=
  fun _ => .inr (counted_one (by decide) (by unfold Fits; omega) (by decide))

theorem repack (k : VReg) : Statement (.repack k) :=
  fun _ => .inr (counted_one (by decide) (by unfold Fits; omega) (by decide))

theorem travb (r : VReg) (d : SReg) : Statement (.travb r d) :=
  fun _ => .inr (counted_one (by decide) (by unfold Fits; omega) (by decide))

theorem travs (d : VReg) : Statement (.travs d) :=
  fun _ => .inr (counted_one (by decide) (by unfold Fits; omega) (by decide))

theorem travc (t : VReg) : Statement (.travc t) :=
  fun _ => .inr (counted_one (by decide) (by unfold Fits; omega) (by decide))

theorem trave : Statement .trave :=
  fun _ => .inr (counted_one (by decide) (by unfold Fits; omega) (by decide))

theorem draw (d : SReg) (a : SReg) (n : SReg) : Statement (.draw d a n) :=
  fun _ => .inr (counted_one (by decide) (by unfold Fits; omega) (by decide))

theorem vxemit (i : VReg) (a : VReg) : Statement (.vxemit i a) :=
  fun _ => .inr (counted_one (by decide) (by unfold Fits; omega) (by decide))

theorem primemit (i : VReg) (p : VReg) : Statement (.primemit i p) :=
  fun _ => .inr (counted_one (by decide) (by unfold Fits; omega) (by decide))

theorem pxout (n : Fin 8) (a : VReg) : Statement (.pxout n a) :=
  fun _ => .inr (counted_one (by decide) (by unfold Fits; omega) (by decide))

theorem discard : Statement .discard :=
  fun _ => .inr (counted_one (by decide) (by unfold Fits; omega) (by decide))

theorem depw (a : VReg) : Statement (.depw a) :=
  fun _ => .inr (counted_one (by decide) (by unfold Fits; omega) (by decide))

theorem wrec (s : SReg) (t : VReg) (a : VReg) : Statement (.wrec s t a) :=
  fun _ => .inr (counted_one (by decide) (by unfold Fits; omega) (by decide))

theorem linset (a : VReg) : Statement (.linset a) :=
  fun _ => .inr (counted_one (by decide) (by unfold Fits; omega) (by decide))

theorem watch (n : SReg) (a : SReg) : Statement (.watch n a) :=
  fun _ => .inr (counted_one (by decide) (by unfold Fits; omega) (by decide))

theorem replay (d : SReg) (a : SReg) : Statement (.replay d a) :=
  fun _ => .inr (counted_one (by decide) (by unfold Fits; omega) (by decide))

theorem eret : Statement .eret :=
  fun _ => .inr (counted_one (by decide) (by unfold Fits; omega) (by decide))

theorem ctxsave (d : SReg) (c : SReg) (a : SReg) : Statement (.ctxsave d c a) :=
  fun _ => .inr (counted_one (by decide) (by unfold Fits; omega) (by decide))

theorem ctxload (d : SReg) (c : SReg) (a : SReg) : Statement (.ctxload d c a) :=
  fun _ => .inr (counted_one (by decide) (by unfold Fits; omega) (by decide))

theorem ovtbl (c : SReg) (v : SReg) : Statement (.ovtbl c v) :=
  fun _ => .inr (counted_one (by decide) (by unfold Fits; omega) (by decide))

theorem tlbinv (d : SReg) (r : SReg) : Statement (.tlbinv d r) :=
  fun _ => .inr (counted_one (by decide) (by unfold Fits; omega) (by decide))

theorem resfence (d : SReg) (c : SReg) : Statement (.resfence d c) :=
  fun _ => .inr (counted_one (by decide) (by unfold Fits; omega) (by decide))

theorem pgattr (d : SReg) (r : SReg) : Statement (.pgattr d r) :=
  fun _ => .inr (counted_one (by decide) (by unfold Fits; omega) (by decide))

theorem admitCluster (r : SReg) : Statement (.admitCluster r) :=
  fun _ => .inr (counted_one (by decide) (by unfold Fits; omega) (by decide))

theorem raslog (d : SReg) (a : SReg) : Statement (.raslog d a) :=
  fun _ => .inr (counted_one (by decide) (by unfold Fits; omega) (by decide))

theorem halt : Statement .halt :=
  fun _ => .inr (counted_one (by decide) (by unfold Fits; omega) (by decide))

theorem hint (h : BitVec 24) : Statement (.hint h) := by
  intro _; right
  exact counted_hint (by omega) (by unfold fld; omega)

theorem clauseBegin (g : Nat) (l : Nat) : Statement (.clauseBegin g l) := fun _ => .inl rfl

theorem flagClear (g : Nat) (f : Fin 12) : Statement (.flagClear g f) := fun _ => .inl rfl

theorem fairnessTimer (g : Nat) : Statement (.fairnessTimer g) := fun _ => .inl rfl

theorem joinRelease (g : Nat) (a : DWord) : Statement (.joinRelease g a) := fun _ => .inl rfl

theorem groupRetire (g : Nat) : Statement (.groupRetire g) := fun _ => .inl rfl

theorem repackComplete (b : Nat) (c : Fin 32) : Statement (.repackComplete b c) := fun _ => .inl rfl

theorem routeEntryWake (c : Slot) (r : BitVec 12) : Statement (.routeEntryWake c r) := fun _ => .inl rfl

theorem routeSpaceWake (c : Slot) (r : BitVec 12) : Statement (.routeSpaceWake c r) := fun _ => .inl rfl

theorem caravanLand (n : Nat) : Statement (.caravanLand n) := fun _ => .inl rfl

theorem fullBitWake (g : Nat) : Statement (.fullBitWake g) := fun _ => .inl rfl

theorem continuationSpawn (n : Nat) : Statement (.continuationSpawn n) := fun _ => .inl rfl

theorem tokenResolve (c : Slot) (t : BitVec 8) : Statement (.tokenResolve c t) := fun _ => .inl rfl

theorem barrierResolve (b : Nat) : Statement (.barrierResolve b) := fun _ => .inl rfl

theorem phaseBarrierWake (g : Nat) : Statement (.phaseBarrierWake g) := fun _ => .inl rfl

theorem mloopIteration (g : Nat) (z : ZReg) : Statement (.mloopIteration g z) := fun _ => .inl rfl

theorem thermalSample (c : Fin 8) (r : List (Nat × Nat)) : Statement (.thermalSample c r) := fun _ => .inl rfl

theorem engineSwitch (c : Fin 8) (k : Fin 32) : Statement (.engineSwitch c k) := fun _ => .inl rfl

theorem xallRegistration (m : XallFlit) : Statement (.xallRegistration m) := fun _ => .inl rfl

theorem xallStart (n : Nat) : Statement (.xallStart n) := fun _ => .inl rfl

theorem xallComplete (n : Nat) (x : List (Nat × List Byte)) : Statement (.xallComplete n x) := fun _ => .inl rfl

theorem blockPlacement (p : Fin 8) : Statement (.blockPlacement p) := fun _ => .inl rfl

theorem blockSave (b : Nat) : Statement (.blockSave b) := fun _ => .inl rfl

theorem pixelWatchdog (g : Nat) : Statement (.pixelWatchdog g) := fun _ => .inl rfl

theorem binStage (w : Nat) : Statement (.binStage w) := fun _ => .inl rfl

theorem partialRender (w : Nat) : Statement (.partialRender w) := fun _ => .inl rfl

theorem finalRender (w : Nat) : Statement (.finalRender w) := fun _ => .inl rfl

theorem fragmentRetire (g : Nat) (l : Nat) : Statement (.fragmentRetire g l) := fun _ => .inl rfl

theorem nodeFire (c : Slot) (n : Nat) (t : Word) : Statement (.nodeFire c n t) := fun _ => .inl rfl

theorem replayComplete (n : Nat) : Statement (.replayComplete n) := fun _ => .inl rfl

theorem leadTime (h : Fin 4) : Statement (.leadTime h) := fun _ => .inl rfl

theorem deadline (h : Fin 4) : Statement (.deadline h) := fun _ => .inl rfl

theorem controlInterval (c : Fin 8) (m : List (Nat × Nat)) : Statement (.controlInterval c m) := fun _ => .inl rfl

theorem governorPeriod : Statement .governorPeriod := fun _ => .inl rfl

theorem patrolScrub (u : ScrubUnit) : Statement (.patrolScrub u) := fun _ => .inl rfl

theorem correctedError (a : Nat) (t : Nat) : Statement (.correctedError a t) := fun _ => .inl rfl

theorem uncorrectableError (e : ErrorSite) (t : Nat) : Statement (.uncorrectableError e t) := fun _ => .inl rfl

theorem logicError (c : Fin 8) (k : Fin 32) (b : Option Nat) (t : Nat) : Statement (.logicError c k b t) := fun _ => .inl rfl

theorem faultBufferRetry (g : Nat) : Statement (.faultBufferRetry g) := fun _ => .inl rfl

theorem faultAnswer (n : Nat) (a : Word) : Statement (.faultAnswer n a) := fun _ => .inl rfl

theorem contextSaveComplete (c : Slot) : Statement (.contextSaveComplete c) := fun _ => .inl rfl

theorem contextLoadComplete (c : Slot) : Statement (.contextLoadComplete c) := fun _ => .inl rfl

theorem tlbinvComplete (c : Slot) (t : BitVec 8) : Statement (.tlbinvComplete c t) := fun _ => .inl rfl

theorem resfenceComplete (c : Slot) (t : BitVec 8) : Statement (.resfenceComplete c t) := fun _ => .inl rfl

theorem pgattrComplete (c : Slot) (t : BitVec 8) : Statement (.pgattrComplete c t) := fun _ => .inl rfl

theorem haltWake (g : Nat) : Statement (.haltWake g) := fun _ => .inl rfl

theorem create (q : Req) (a : DWord) : Statement (.create q a) := fun _ => .inl rfl

theorem destroy (q : Req) (a : DWord) : Statement (.destroy q a) := fun _ => .inl rfl

theorem mapPages (q : Req) (x : List (DWord × Name)) : Statement (.mapPages q x) := fun _ => .inl rfl

theorem unmapPages (q : Req) (a : DWord) (n : Word) : Statement (.unmapPages q a n) := fun _ => .inl rfl

theorem residency (q : Req) (a : DWord) (l : Byte) (v : Byte) (p : Word) : Statement (.residency q a l v p) := fun _ => .inl rfl

theorem enqueue (q : Req) (r : Word) (x : List DWord) : Statement (.enqueue q r x) := fun _ => .inl rfl

theorem readMem (q : Req) (a : DWord) (n : Word) : Statement (.readMem q a n) := fun _ => .inl rfl

theorem writeMem (q : Req) (a : DWord) (x : List Byte) : Statement (.writeMem q a x) := fun _ => .inl rfl

theorem watchRequest (q : Req) (n : Byte) (x : List Byte) : Statement (.watchRequest q n x) := fun _ => .inl rfl

theorem replayRequest (q : Req) (a : DWord) (t : DWord) : Statement (.replayRequest q a t) := fun _ => .inl rfl

theorem telemetry (q : Req) : Statement (.telemetry q) := fun _ => .inl rfl

theorem raslogRequest (q : Req) : Statement (.raslogRequest q) := fun _ => .inl rfl

theorem attest (q : Req) (x : List Byte) : Statement (.attest q x) := fun _ => .inl rfl

theorem bootstatus (q : Req) : Statement (.bootstatus q) := fun _ => .inl rfl

theorem svcanswer (q : Req) (t : Word) (a : Word) : Statement (.svcanswer q t a) := fun _ => .inl rfl

theorem faultanswer (q : Req) (t : Word) (a : Word) : Statement (.faultanswer q t a) := fun _ => .inl rfl

theorem resume (q : Req) (t : Word) : Statement (.resume q t) := fun _ => .inl rfl

theorem bindSlot (q : Req) (t : DWord) : Statement (.bindSlot q t) := fun _ => .inl rfl

theorem uePacketRefused (p : Fin 4) : Statement (.uePacketRefused p) := fun _ => .inl rfl

theorem connectionClose (n : Nat) : Statement (.connectionClose n) := fun _ => .inl rfl

theorem routeEnable (c : Slot) (r : BitVec 12) : Statement (.routeEnable c r) := fun _ => .inl rfl

theorem routeDisable (c : Slot) (r : BitVec 12) : Statement (.routeDisable c r) := fun _ => .inl rfl

theorem routeWritebackDone (c : Slot) (r : BitVec 12) : Statement (.routeWritebackDone c r) := fun _ => .inl rfl

theorem headctlWrite (h : Fin 4) (v : Word) : Statement (.headctlWrite h v) := fun _ => .inl rfl

theorem registerWrite (a : BitVec 17) (v : Word) : Statement (.registerWrite a v) := fun _ => .inl rfl

theorem linkTraining (x : List (Option (Fin 144))) : Statement (.linkTraining x) := fun _ => .inl rfl

theorem peerRequest (p : PeerFlit) : Statement (.peerRequest p) := fun _ => .inl rfl

theorem peerEnqueue (c : Slot) (r : BitVec 12) (e : DWord) : Statement (.peerEnqueue c r e) := fun _ => .inl rfl

theorem peerLost (p : Fin 144) : Statement (.peerLost p) := fun _ => .inl rfl

theorem boot (b : BringUp) : Statement (.boot b) := fun _ => .inl rfl

theorem powerDown : Statement .powerDown := fun _ => .inl rfl

theorem powerUp : Statement .powerUp := fun _ => .inl rfl

theorem portDown (p : Fin 18) : Statement (.portDown p) := fun _ => .inl rfl

end Sys2Proof.Laws.Encoding
end

