-- ==== Sys2Proof/Safety.lean ====
section
/-! DEFINITION. What claims call a safe run: a step that answers a next state. -/

namespace Sys2Proof.Machine

/-- A step stops neither with a fault nor with a refusal. -/
def Outcome.goes (o : Host.Outcome State Fault Refusal) : Prop := ∃ t, o = .next t

/-- Every step of `n` from a state goes on. -/
def Safe : Nat → State → Prop
  | 0, _ => True
  | n + 1, s => ∃ t, step s = .next t ∧ Safe n t

end Sys2Proof.Machine
end

