-- ==== Sys2Proof/Tests/World.lean ====
section
/-! SUPPORT. A small machine for the tests: a group of one live lane in slot 1 with a clause in flight, page
tables that map the first GiB of the context to physical memory, and a line of code. -/

namespace Sys2Proof.Tests

open Sys2Proof.Machine Sys2Proof.Claims

/-- Memory. At 0x1000 the tables of the context: GiB 0 plain, 1 bricks, 2 read only, 3 a broken entry,
4 never-fault. At 0x200 a
line of code with a marked clause at slots 2, 4, 6 and 8 that begins with LPAD 0, 1, 2 and 3. At 0x4000 a handler
table with an entry for USER. At 0x5000 the descriptors of route 0 (one entry), 1 (empty) and 2 (POD). At 0x5400 a
task record. At 0x7000 an LOD descriptor of two levels whose level 1 only is resident, at 0x7200 one of one level
that is not. At 0x7400 the descriptor of node 0: two ports, one word. At 0x8000 a state block of one target. -/
def tmem : List Host.Cell :=
  [(0x200, 0xFF), (0x203, 0x40), (0x204, 0x15), (0x207, 0x10), (0x208, 0xFE), (0x209, 0x01), (0x20B, 0xF0), (0x20F, 0x21),
   (0x210, 0xFE), (0x211, 0x01), (0x213, 0xF0), (0x214, 0x01), (0x217, 0x21), (0x218, 0xFE), (0x219, 0x01), (0x21B, 0xF0),
   (0x21C, 0x02), (0x21F, 0x21), (0x220, 0xFE), (0x221, 0x01), (0x223, 0xF0), (0x224, 0x03), (0x227, 0x21), (0x1000, 0x01),
   (0x1001, 0x20), (0x2000, 0x01), (0x2001, 0x30), (0x3000, 0x0F), (0x3006, 0xF0), (0x3007, 0x0F), (0x3010, 0x0F), (0x3011, 0x01),
   (0x3013, 0x40), (0x3016, 0xF0), (0x3017, 0x0F), (0x3020, 0x0B), (0x3023, 0x80), (0x3026, 0xF0), (0x3027, 0x0F), (0x3030, 0x01),
   (0x3037, 0x10), (0x3040, 0x10), (0x4090, 0x20), (0x4091, 0x02), (0x5001, 0x60), (0x5008, 0x04), (0x500B, 0x80), (0x5014, 0x01),
   (0x5021, 0x61), (0x5028, 0x04), (0x502B, 0x80), (0x5041, 0x62), (0x5048, 0x04), (0x504B, 0xC0), (0x5400, 0x08), (0x5401, 0x02),
   (0x5408, 0x41), (0x5409, 0x10), (0x540A, 0x04), (0x540B, 0x01), (0x540C, 0x01), (0x5410, 0x01), (0x7000, 0x10), (0x7004, 0x10),
   (0x700C, 0x04), (0x7042, 0x10), (0x7049, 0x71), (0x7052, 0x11), (0x7058, 0x08), (0x7059, 0x71), (0x7108, 0x01), (0x7204, 0x10),
   (0x7242, 0x10), (0x7249, 0x71), (0x7401, 0x54), (0x7408, 0x02), (0x7409, 0x01), (0x8010, 0x08), (0x8011, 0x02), (0x8020, 0x10),
   (0x8024, 0x01), (0x8026, 0x01), (0x8028, 0x01), (0x8029, 0x04), (0x802A, 0x06)]

/-- The state block that memory holds at 0x8000. -/
def tsb : List Byte :=
  List.replicate 16 0 ++ natLe 8 0x208 ++ List.replicate 8 0 ++ natLe 4 16 ++ natLe 2 1 ++ natLe 2 1 ++ [1, 4] ++
    natLe 2 6 ++ List.replicate 212 0

/-- A draw of 100 primitives. -/
def tdraw : Draw :=
  { uid := 5, slot := 1, number := 0, name := 0, watch := [], sbAt := 0x8000, sb := tsb, nprims := 100, frame := 0
    prio := 0, stage := .vertex, prims := [], primHits := [], grid := none, nextBin := 0, requests := []
    render := none, defer := [], pending := [], culled := [], skips := [] }

/-- The clause: its only executing lane is lane 0. -/
def tcl : Clause :=
  { header := 8, word := 12, buf := [], idx := 0, count := 1, setA := some 0, setB := none, tie := 0
    path := 1, exec := 1, moved := 0, partialDone := 0, after := 24, nextAt := 24, wait := none, deferred := [] }

/-- The group: scalars and the vector registers of its one live lane. -/
def tgrp (sr ve : Regs) : Machine.Group :=
  { hostGroup [] with
    s := sr, clause := some tcl
    lanes := { pc := 8, st := .runnable, v := ve } :: List.replicate 7 {} }

/-- The machine with that group. -/
def tst (g : Machine.Group) : State :=
  { State.reset with
    turn := some 0, groups := [g], blocks := [hostBlock 1], mem := tmem
    ctxs := [{ slot := 1, state := .live, ccb := { ptroot := 0x1000, htab := 0x4000, hmask := -1, routeBase := 0x5000, nodeTab := 0x7400 } }] }

/-- The same machine with DEBUG in its context. -/
def tdbg (g : Machine.Group) : State :=
  { tst g with ctxs := [{ slot := 1, state := .live, ccb := { ptroot := 0x1000, debug := true } }] }

/-- The value of an access, when it is given and passes a check. -/
def okSat {ε α : Type} (x : Except ε α) (p : α → Bool) : Bool := match x with | .ok a => p a | .error _ => false

/-- The value there is, when it passes a check. -/
def someSat {α : Type} (x : Option α) (p : α → Bool) : Bool := match x with | some a => p a | none => false

theorem of_okSat {ε α : Type} {x : Except ε α} {p : α → Bool} (h : okSat x p = true) : ∃ a, x = .ok a ∧ p a = true := by
  cases x with
  | ok a => exact ⟨a, rfl, h⟩
  | error e => cases h

theorem of_someSat {α : Type} {x : Option α} {p : α → Bool} (h : someSat x p = true) : ∃ a, x = some a ∧ p a = true := by
  cases x with
  | some a => exact ⟨a, rfl, h⟩
  | none => cases h

/-- A group without a poison mark in its registers. -/
def Clean (g : Machine.Group) : Prop :=
  g.sPoison = [] ∧ g.hPoison = [] ∧ ∀ x ∈ g.lanes, x.vPoison = []

theorem vHalf_clean {g : Machine.Group} (h : ∀ x ∈ g.lanes, x.vPoison = []) (l r k : Nat) :
    g.vHalf l r k = false := by
  have hl : (g.lane l).vPoison = [] := by
    unfold Machine.Group.lane
    by_cases hl : l < g.lanes.length
    · rw [List.getD_eq_getElem?_getD, List.getElem?_eq_getElem hl]; exact h _ (List.getElem_mem hl)
    · rw [List.getD_eq_getElem?_getD, List.getElem?_eq_none (by omega)]; rfl
  simp [Machine.Group.vHalf, hl]

/-- A clean group reads no mark, whatever the instruction. -/
theorem poisonMask_clean {g : Machine.Group} (h : Clean g) (s : State) (m : Mask) (i : Instr) : poisonMask s g m i = 0 := by
  have hv := vHalf_clean h.2.2
  have hb (l : Nat) (r : Rd) : r.bad g l = false := by
    cases r <;> simp [Rd.bad, Machine.Group.vBad, Machine.Group.sBad, Machine.Group.hBad, hv, h.1, h.2.1]
  have hf : (lanesOf m).filter (fun l => (Instr.reads s g l i).any fun r => r.bad g l) = [] := by
    simp [hb]
  rw [poisonMask, hf]
  rfl

/-- A state and operands that meet the hypotheses of a statement about an instruction. -/
def Meets (i : Instr) (P : State → Machine.Group → Clause → Prop) : Prop :=
  ∃ s g c, Issues i s g c ∧ P s g c

/-- A group in flight whose registers carry no mark issues any instruction. -/
theorem meets {i : Instr} {P : State → Machine.Group → Clause → Prop} (s : State) (g : Machine.Group) (c : Clause)
    (hs : s.issue? = some (g, c)) (hx : c.exec ≠ 0) (hg : Clean g) (h : P s g c) : Meets i P :=
  ⟨s, g, c, ⟨hs, hx, poisonMask_clean hg _ _ _⟩, h⟩

theorem clean_tgrp (sr ve : Regs) : Clean (tgrp sr ve) := by
  refine ⟨rfl, rfl, fun x hx => ?_⟩
  simp [tgrp] at hx
  rcases hx with rfl | rfl <;> rfl

/-- The small machine issues any instruction. -/
theorem issues_tst (i : Instr) (sr ve : Regs) : Issues i (tst (tgrp sr ve)) (tgrp sr ve) tcl :=
  ⟨rfl, by decide, poisonMask_clean (clean_tgrp sr ve) _ _ _⟩

/-- A statement's further hypotheses on the small machine. -/
theorem meets1 {i : Instr} {P : State → Machine.Group → Clause → Prop} (sr ve : Regs)
    (h : P (tst (tgrp sr ve)) (tgrp sr ve) tcl) : Meets i P :=
  ⟨_, _, _, issues_tst i sr ve, h⟩


end Sys2Proof.Tests
end

