-- ==== Sys2Proof/Tests/Slice0.lean ====
section
/-! SUPPORT. Well-formedness: terms that meet every limit, and for each limit terms that break it. Encodings that the
spec reserves. Single steps of single instructions, with results worked out by hand from the rules cited. -/

namespace Sys2Proof.Tests

set_option Elab.async false

open Sys2Proof.Machine Sys2Proof.Claims

set_option maxRecDepth 20000

/-! ### Well-formed terms -/

/-- Terms that meet every limit are well formed. -/
theorem test_wellFormed1 :
    [.srdS 10 .vbase,
     .srdV 10 .vbase,
     .swr 10 .vbase,
     .swin 0,
     .vwin 0,
     .brx 10,
     .call 10 0,
     .callx 10 10,
     .ret 10,
     .launch 10,
     .launchOrd 10,
     .renq 10 10,
     .rdeq 10 10,
     .fadd .f32 .rn 10 10 10,
     .fsub .f32 .rn 10 10 10,
     .fmul .f32 .rn 10 10 10,
     .ffma .f32 .rn 10 10 10 10,
     .fmin .f32 10 10 10,
     .fmax .f32 10 10 10,
     .fcmp .f32 .eq 3 10 10,
     .cvt .s32 .f32 .rn 10 10,
     .cvtn .f16f32 .rn 10 10,
     .frcp .f32 .rn 10 10,
     .frsq .f32 10 10,
     .fsqrt .f32 .rn 10 10,
     .fdiv .f32 .rn 10 10 10,
     .fexp2 .f32 10 10,
     .flog2 .f32 10 10,
     .fsin .f32 10 10,
     .fcos .f32 10 10,
     .fround .f32 .rn 10 10,
     .ffract .f32 10 10].all (fun i => Instr.wellFormed i == true) = true := by decide

/-- Terms that meet every limit are well formed. -/
theorem test_wellFormed2 :
    [.fclass .f32 10 10,
     .voteBallot 10 3,
     .matchAny 10 10,
     .reduce .add .s32 .rn 10 10,
     .scan .add .s32 .rn 10 10,
     .actmask 10,
     .ld .b32 10 10 0,
     .ldX .b32 none 10 (.base 10 0),
     .lds .b32 10 10 0,
     .ldsX .b32 none 10 (.base 10 0),
     .ldc .b32 10 10 0,
     .ldcX .b32 none 10 (.base 10 0),
     .sld .b32 10 10 0,
     .sldX .b32 none 10 (.base 10 0),
     .ldlod .b32 10 10 0,
     .ldlodX 0 .b32 10 (.base 10 0),
     .ldbrk 10 (.base 10 0) 10,
     .tex .auto .b32 10 10 10,
     .texg 0 10 10 10,
     .st .b32 10 10 0,
     .stX .b32 .none none 10 (.base 10 0),
     .sts .b32 10 10 0,
     .stsX .b32 .none none 10 (.base 10 0),
     .stc .b32 10 10 0,
     .stcX .b32 .none none 10 (.base 10 0),
     .sst .b32 10 10 0,
     .sstX .b32 .none none 10 (.base 10 0),
     .stbrk .int8 10 (.base 10 0),
     .atom .add .s32 .rlx .dev 10 (.base 10 0) 10,
     .atoms .add .s32 .rlx .core 10 (.base 10 0) 10,
     .red .add .s32 .rlx .dev (.base 10 0) 10,
     .atomx .add .s32 .rlx .dev 10 (.base 10 0) 10].all (fun i => Instr.wellFormed i == true) = true := by decide

/-- Terms that meet every limit are well formed. -/
theorem test_wellFormed3 :
    [.cpaB32 10 10 10,
     .cpaB64 10 10 10,
     .cpaB128 10 10 10,
     .prefr 10 10 10,
     .xall 10 10,
     .cflush 10 10,
     .mma .f16 .whole 0 10 10,
     .mloop .f16 .whole 0 10,
     .mldz .f16 0 10,
     .mstz .f16 0 10,
     .mqnt .int8 0 10,
     .hld 0 10 0,
     .hst 0 10 0,
     .hnear 10 0 0 10,
     .gopenW1 10 0 0,
     .gopenW2 10 0 0,
     .gopenW3 10 0 0,
     .gopenW4 10 0 0,
     .travb 10 10,
     .travs 10,
     .draw 10 10 10,
     .pxout 0 10,
     .watch 10 10,
     .replay 10 10,
     .ctxsave 10 10 10,
     .ctxload 10 10 10,
     .tlbinv 10 10,
     .pgattr 10 10,
     .admitCluster 10,
     .raslog 10 10].all (fun i => Instr.wellFormed i == true) = true := by decide

/-- Terms that break one limit each (R126, R127, R137-R142 and the entries): refused. -/
theorem test_illFormed1 :
    [.srdS 126 .lin,
     .srdS 11 .cycle,
     .srdV 118 .lin,
     .srdV 11 .cycle,
     .swr 10 .lane,
     .swin 16,
     .vwin 4,
     .brx 11,
     .call 11 0,
     .callx 11 10,
     .callx 10 11,
     .ret 11,
     .launch 11,
     .launchOrd 11,
     .renq 10 11,
     .rdeq 11 10,
     .fadd .f64 .rn 11 10 10,
     .fadd .f64 .rn 10 11 10,
     .fadd .f64 .rn 10 10 11,
     .fsub .f64 .rn 11 10 10,
     .fsub .f64 .rn 10 11 10,
     .fsub .f64 .rn 10 10 11,
     .fmul .f64 .rn 11 10 10,
     .fmul .f64 .rn 10 11 10,
     .fmul .f64 .rn 10 10 11,
     .ffma .f64 .rn 11 10 10 10,
     .ffma .f64 .rn 10 11 10 10,
     .ffma .f64 .rn 10 10 11 10,
     .ffma .f64 .rn 10 10 10 11,
     .fmin .f64 11 10 10,
     .fmin .f64 10 11 10,
     .fmin .f64 10 10 11].all (fun i => Instr.wellFormed i == false) = true := by decide

/-- Terms that break one limit each (R126, R127, R137-R142 and the entries): refused. -/
theorem test_illFormed2 :
    [.fmax .f64 11 10 10,
     .fmax .f64 10 11 10,
     .fmax .f64 10 10 11,
     .fcmp .f64 .eq 3 11 10,
     .fcmp .f64 .eq 3 10 11,
     .cvt .f16 .f16 .rn 10 10,
     .cvt .u64 .f32 .rn 11 10,
     .cvt .s32 .f64 .rn 10 11,
     .cvtn .f32f64 .rn 10 11,
     .frcp .f64 .rn 11 10,
     .frcp .f64 .rn 10 11,
     .frsq .f64 11 10,
     .frsq .f64 10 11,
     .fsqrt .f64 .rn 11 10,
     .fsqrt .f64 .rn 10 11,
     .fdiv .f64 .rn 11 10 10,
     .fdiv .f64 .rn 10 11 10,
     .fdiv .f64 .rn 10 10 11,
     .fexp2 .f64 11 10,
     .fexp2 .f64 10 11,
     .flog2 .f64 11 10,
     .flog2 .f64 10 11,
     .fsin .f64 11 10,
     .fsin .f64 10 11,
     .fcos .f64 11 10,
     .fcos .f64 10 11,
     .fround .f64 .rn 11 10,
     .fround .f64 .rn 10 11,
     .ffract .f64 11 10,
     .ffract .f64 10 11,
     .fclass .f64 10 11,
     .voteBallot 11 3].all (fun i => Instr.wellFormed i == false) = true := by decide

/-- Terms that break one limit each (R126, R127, R137-R142 and the entries): refused. -/
theorem test_illFormed3 :
    [.matchAny 11 10,
     .reduce .add .s64 .rn 11 10,
     .reduce .add .s64 .rn 10 11,
     .reduce .and .f32 .rn 10 10,
     .reduce .max .f32 .rz 10 10,
     .reduce .add .s32 .ru 10 10,
     .scan .add .s64 .rn 11 10,
     .scan .add .s64 .rn 10 11,
     .scan .and .f32 .rn 10 10,
     .scan .max .f32 .rz 10 10,
     .scan .add .s32 .ru 10 10,
     .actmask 11,
     .ld .b64 11 10 0,
     .ld .b128 118 10 0,
     .ld .b32 10 11 0,
     .ldX .b64 none 11 (.base 10 0),
     .ldX .b128 none 118 (.base 10 0),
     .ldX .b32 none 10 (.base 11 0),
     .ldX .b16 (some .clu) 10 (.base 10 0),
     .lds .b64 11 10 0,
     .lds .b128 118 10 0,
     .ldsX .b64 none 11 (.base 10 0),
     .ldsX .b128 none 118 (.base 10 0),
     .ldsX .b16 (some .clu) 10 (.base 10 0),
     .ldsX .b32 (some .dev) 10 (.base 10 0),
     .ldc .b64 11 10 0,
     .ldc .b128 118 10 0,
     .ldcX .b64 none 11 (.base 10 0),
     .ldcX .b128 none 118 (.base 10 0),
     .ldcX .b16 (some .clu) 10 (.base 10 0),
     .ldcX .b32 (some .dev) 10 (.base 10 0),
     .ldcX .b32 (some .grp) 10 (.base 10 0)].all (fun i => Instr.wellFormed i == false) = true := by decide

/-- Terms that break one limit each (R126, R127, R137-R142 and the entries): refused. -/
theorem test_illFormed4 :
    [.sld .b64 11 10 0,
     .sld .b128 126 10 0,
     .sld .b32 10 11 0,
     .sldX .b64 none 11 (.base 10 0),
     .sldX .b128 none 126 (.base 10 0),
     .sldX .b32 none 10 (.base 11 0),
     .sldX .b32 none 10 (.vbase 10 0),
     .sldX .b16 (some .clu) 10 (.base 10 0),
     .ldlod .b64 11 10 0,
     .ldlod .b32 119 10 0,
     .ldlod .b128 116 10 0,
     .ldlod .b32 10 11 0,
     .ldlodX 0 .b64 11 (.base 10 0),
     .ldlodX 0 .b32 119 (.base 10 0),
     .ldlodX 0 .b128 116 (.base 10 0),
     .ldlodX 0 .b32 10 (.base 11 0),
     .ldbrk 10 (.base 11 0) 10,
     .tex .auto .b32 119 10 10,
     .tex .auto .b128 116 10 10,
     .tex .auto .b32 10 11 10,
     .tex .auto .b32 10 10 119,
     .tex .level .b32 10 10 118,
     .texg 0 116 10 10,
     .texg 0 124 10 10,
     .texg 0 10 11 10,
     .texg 0 10 10 118,
     .texg 0 10 10 126,
     .st .b64 11 10 0,
     .st .b128 118 10 0,
     .st .b32 10 11 0,
     .stX .b64 .none none 11 (.base 10 0),
     .stX .b128 .none none 118 (.base 10 0)].all (fun i => Instr.wellFormed i == false) = true := by decide

/-- Terms that break one limit each (R126, R127, R137-R142 and the entries): refused. -/
theorem test_illFormed5 :
    [.stX .b32 .none none 10 (.base 11 0),
     .stX .b16 .none (some .clu) 10 (.base 10 0),
     .stX .b32 .f16 none 10 (.base 10 0),
     .sts .b64 11 10 0,
     .sts .b128 118 10 0,
     .stsX .b64 .none none 11 (.base 10 0),
     .stsX .b128 .none none 118 (.base 10 0),
     .stsX .b16 .none (some .clu) 10 (.base 10 0),
     .stsX .b32 .none (some .dev) 10 (.base 10 0),
     .stsX .b32 .f16 none 10 (.base 10 0),
     .stc .b64 11 10 0,
     .stc .b128 118 10 0,
     .stcX .b64 .none none 11 (.base 10 0),
     .stcX .b128 .none none 118 (.base 10 0),
     .stcX .b16 .none (some .clu) 10 (.base 10 0),
     .stcX .b32 .none (some .dev) 10 (.base 10 0),
     .stcX .b32 .none (some .grp) 10 (.base 10 0),
     .stcX .b32 .f16 none 10 (.base 10 0),
     .sst .b64 11 10 0,
     .sst .b128 126 10 0,
     .sst .b32 10 11 0,
     .sstX .b64 .none none 11 (.base 10 0),
     .sstX .b128 .none none 126 (.base 10 0),
     .sstX .b32 .none none 10 (.base 11 0),
     .sstX .b32 .none none 10 (.vbase 10 0),
     .sstX .b16 .none (some .clu) 10 (.base 10 0),
     .sstX .b32 .f16 none 10 (.base 10 0),
     .stbrk .int8 10 (.base 11 0),
     .stbrk .int8 10 (.vbase 10 0),
     .atom .add .s64 .rlx .dev 11 (.base 10 0) 10,
     .atom .add .u64 .rlx .dev 10 (.base 10 0) 11,
     .atom .cas .s32 .rlx .dev 10 (.base 10 0) 119].all (fun i => Instr.wellFormed i == false) = true := by decide

/-- Terms that break one limit each (R126, R127, R137-R142 and the entries): refused. -/
theorem test_illFormed6 :
    [.atom .add .s32 .rlx .dev 10 (.base 11 0) 10,
     .atom .xor .f32 .rlx .dev 10 (.base 10 0) 10,
     .atom .add .s32 .rlx .pod 10 (.base 10 0) 10,
     .atoms .add .s64 .rlx .core 11 (.base 10 0) 10,
     .atoms .add .u64 .rlx .core 10 (.base 10 0) 11,
     .atoms .cas .s32 .rlx .core 10 (.base 10 0) 119,
     .atoms .xor .f32 .rlx .core 10 (.base 10 0) 10,
     .atoms .add .s32 .rlx .dev 10 (.base 10 0) 10,
     .red .add .u64 .rlx .dev (.base 10 0) 11,
     .red .cas .s32 .rlx .dev (.base 10 0) 119,
     .red .add .s32 .rlx .dev (.base 11 0) 10,
     .red .xor .f32 .rlx .dev (.base 10 0) 10,
     .red .exch .s32 .rlx .dev (.base 10 0) 10,
     .red .cas .s32 .rlx .dev (.base 10 0) 10,
     .red .add .s32 .rlx .pod (.base 10 0) 10,
     .atomx .add .s64 .rlx .dev 11 (.base 10 0) 10,
     .atomx .add .u64 .rlx .dev 10 (.base 10 0) 11,
     .atomx .cas .s32 .rlx .dev 10 (.base 10 0) 119,
     .atomx .add .s32 .rlx .dev 10 (.base 11 0) 10,
     .atomx .xor .f32 .rlx .dev 10 (.base 10 0) 10,
     .atomx .add .s32 .rlx .clu 10 (.base 10 0) 10,
     .cpaB32 10 11 10,
     .cpaB64 10 11 10,
     .cpaB128 10 11 10,
     .prefr 10 11 10,
     .xall 10 11,
     .xall 10 122,
     .cflush 11 10,
     .mma .bfp .deep 0 10 10,
     .mloop .f16 .whole 0 11,
     .mloop .f16 .whole 0 122,
     .mloop .f16 .deep 0 10].all (fun i => Instr.wellFormed i == false) = true := by decide

/-- Terms that break one limit each (R126, R127, R137-R142 and the entries): refused. -/
theorem test_illFormed7 :
    [.mldz .f16 0 11,
     .mstz .f16 0 11,
     .mqnt .int8 0 11,
     .hld 0 11 0,
     .hst 0 11 0,
     .hnear 11 0 0 10,
     .gopenW1 11 0 0,
     .gopenW2 11 0 0,
     .gopenW3 11 0 0,
     .gopenW4 11 0 0,
     .travb 113 10,
     .travb 121 10,
     .travb 10 11,
     .travs 116,
     .travs 124,
     .draw 10 11 10,
     .pxout 0 117,
     .pxout 0 125,
     .watch 10 11,
     .replay 11 10,
     .replay 10 11,
     .replay 10 126,
     .ctxsave 10 10 11,
     .ctxload 10 10 11,
     .tlbinv 10 11,
     .tlbinv 10 126,
     .pgattr 10 11,
     .pgattr 10 126,
     .admitCluster 11,
     .admitCluster 126,
     .raslog 10 11].all (fun i => Instr.wellFormed i == false) = true := by decide


/-! ### Words the spec reserves -/

/-- The trap a word and the two after it raise. -/
def refusedAs (w x y : Nat) (t : Trap) : Bool := match decode w x y with | .error e => e == t | .ok _ => false

/-- Opcodes that no table lists in classes 0x0, 0x2, 0x7, 0x9 and 0xB, and an LPAD with a bit outside its fields
trap ILLEGAL (R127, R132, R134, R139, R141, R143, R176); a clause header where an instruction is due traps CLAUSE (R124). -/
theorem test_reservedWords : [0x02600000, 0x2FE00000, 0x7FE00000, 0x9FE00000, 0xBFE00000, 0x21000004].all
    (fun w => refusedAs w 0 0 .illegal) = true ∧ refusedAs 0xF0000000 0 0 .clause = true := by decide

/-- The words of the spec's own listings (06, after R124) are what the listings say: two indexed loads, VADD, FADD.f32,
EXIT; and LD.b32 and LDS.b32 of a base register. -/
theorem test_listings :
    decode 0x70A20A02 0x18 0 = .ok (.ldX .b32 none 8 (.idx 20 2 true none)) ∧
    decode 0x70A24A02 0x1C 0x100 = .ok (.ldX .b32 none 9 (.idx 20 2 true (some 256))) ∧
    decode 0x30028103 0 0 = .ok (.vadd 10 2 3) ∧ decode 0x4082C409 0 0 = .ok (.fadd .f32 .rn 11 8 9) ∧
    decode 0x21600000 0 0 = .ok .exitLanes ∧ decode 0x70820A00 0 0 = .ok (.ld .b32 8 20 0) ∧
    decode 0x72830200 0 0 = .ok (.lds .b32 12 4 0) := by
  refine ⟨?_, ?_, ?_, ?_, ?_, ?_, ?_⟩ <;> rfl

/-! ### Single steps -/

/-- A scalar after an instruction. -/
def sAfter (i : Instr) (sr ve : Regs) (r : Nat) : Option Word := match exec i (tst (tgrp sr ve)) with
  | .next t => (t.group? 0).map fun g => readS t g r
  | _ => none

/-- A vector register of lane 0 after an instruction. -/
def vAfter (i : Instr) (sr ve : Regs) (r : Nat) : Option Word := match exec i (tst (tgrp sr ve)) with
  | .next t => (t.group? 0).map fun g => readV t g 0 r
  | _ => none

/-- A predicate of lane 0 after an instruction. -/
def pAfter (i : Instr) (sr ve : Regs) (p : Nat) : Option Bool := match exec i (tst (tgrp sr ve)) with
  | .next t => (t.group? 0).map fun g => (g.lane 0).pred p
  | _ => none

/-- R159: sums wrap; the high product is signed or not; a shift by 32 leaves no bit, and SSAR the sign. -/
theorem test_scalars :
    sAfter (.sadd 8 4 6) [(4, 0xFFFFFFFF), (6, 2)] [] 8 = some 1 ∧
    sAfter (.ssub 8 4 6) [(4, 1), (6, 2)] [] 8 = some 0xFFFFFFFF ∧
    sAfter (.smulh 8 4 6) [(4, 0xFFFFFFFF), (6, 0xFFFFFFFF)] [] 8 = some 0 ∧
    sAfter (.smulhU 8 4 6) [(4, 0xFFFFFFFF), (6, 0xFFFFFFFF)] [] 8 = some 0xFFFFFFFE ∧
    sAfter (.sshl 8 4 6) [(4, 1), (6, 32)] [] 8 = some 0 ∧
    sAfter (.ssar 8 4 6) [(4, 0x80000000), (6, 33)] [] 8 = some 0xFFFFFFFF ∧
    sAfter (.sshr 4 4 6) [(4, 0x80000000), (6, 31)] [] 4 = some 1 := by decide +kernel

/-- R159, R160: signed and unsigned orders differ; leading zeros and ones of a word. -/
theorem test_scalarOrders :
    sAfter (.smin 8 4 6) [(4, 0xFFFFFFFF), (6, 2)] [] 8 = some 0xFFFFFFFF ∧
    sAfter (.sminu 8 4 6) [(4, 0xFFFFFFFF), (6, 2)] [] 8 = some 2 ∧
    sAfter (.scmpLt 8 4 6) [(4, 0x80000000), (6, 0)] [] 8 = some 1 ∧
    sAfter (.scmpLtu 8 4 6) [(4, 0x80000000), (6, 0)] [] 8 = some 0 ∧
    sAfter (.sclz 8 4) [] [] 8 = some 32 ∧ sAfter (.spop 8 4) [(4, 0xF0F)] [] 8 = some 8 := by decide +kernel

/-- R162: the short immediates are signed. -/
theorem test_immediates :
    sAfter (.smovi 8 0x3FFF) [] [] 8 = some 0xFFFFFFFF ∧ sAfter (.saddiShort 8 4 0x7F) [(4, 5)] [] 8 = some 4 := by decide +kernel

/-- R195, R196, R199: vector sums wrap, products keep their halves, comparisons are signed or not. -/
theorem test_vectors :
    vAfter (.vadd 8 4 6) [] [(4, 0x80000000), (6, 0x80000001)] 8 = some 1 ∧
    vAfter (.vmulhS32 8 4 6) [] [(4, 0xFFFFFFFE), (6, 3)] 8 = some 0xFFFFFFFF ∧
    vAfter (.vmulhU32 8 4 6) [] [(4, 0xFFFFFFFE), (6, 3)] 8 = some 2 ∧
    pAfter (.vcmpLtS32 3 4 6) [] [(4, 0xFFFFFFFF), (6, 0)] 3 = some true ∧
    pAfter (.vcmpLtU32 3 4 6) [] [(4, 0xFFFFFFFF), (6, 0)] 3 = some false := by decide +kernel

/-- R84, R201: a sum is rounded once, by its mode; an infinite difference is the one NaN. -/
theorem test_floats :
    vAfter (.fadd .f32 .rn 8 4 6) [] [(4, 0x3F800000), (6, 0x33800000)] 8 = some 0x3F800000 ∧
    vAfter (.fadd .f32 .ru 8 4 6) [] [(4, 0x3F800000), (6, 0x33800000)] 8 = some 0x3F800001 ∧
    vAfter (.fmul .f32 .rn 8 4 6) [] [(4, 0x40400000), (6, 0xC0000000)] 8 = some 0xC0C00000 ∧
    vAfter (.fsub .f32 .rn 8 4 6) [] [(4, 0x7F800000), (6, 0x7F800000)] 8 = some 0x7FC00000 ∧
    vAfter (.fdiv .f32 .rn 8 4 6) [] [(4, 0x3F800000), (6, 0)] 8 = some 0x7F800000 ∧
    vAfter (.fsqrt .f32 .rn 8 4) [] [(4, 0x41100000)] 8 = some 0x40400000 := by decide +kernel

/-- R206, R207: a conversion saturates and rounds by its mode. -/
theorem test_conversions :
    vAfter (.cvt .s32 .f32 .rd 8 4) [] [(4, 0xBFC00000)] 8 = some 0xFFFFFFFE ∧
    vAfter (.cvt .s32 .f32 .rn 8 4) [] [(4, 0x4F800000)] 8 = some 0x7FFFFFFF ∧
    vAfter (.cvt .f32 .s32 .rn 8 4) [] [(4, 0xFFFFFFFF)] 8 = some 0xBF800000 := by decide +kernel

/-- SHA-256 of the three bytes "abc" (the example of FIPS 180-4 for one block). -/
theorem test_sha256_abc : sha256 [0x61, 0x62, 0x63] =
    [0xba, 0x78, 0x16, 0xbf, 0x8f, 0x01, 0xcf, 0xea, 0x41, 0x41, 0x40, 0xde, 0x5d, 0xae, 0x22, 0x23, 0xb0, 0x03, 0x61, 0xa3,
      0x96, 0x17, 0x7a, 0x9c, 0xb4, 0x10, 0xff, 0x61, 0xf2, 0x00, 0x15, 0xad] := by decide +kernel

end Sys2Proof.Tests
end

