-- ==== Sys2Proof/Tests/WitnessControl.lean ====
section
/-! SUPPORT. Witnesses for the statements about parks, exceptions, launches and routes: a concrete state and
operands that meet their hypotheses. -/

namespace Sys2Proof.Tests

set_option Elab.async false

open Sys2Proof.Machine Sys2Proof.Claims

set_option maxRecDepth 20000

/-- Inert (BRK with debug clear) and Parks (SVC, BRK with debug set, PERF). -/
theorem test_hyp_Parks : (Meets (.brk 0x3FFF) fun s g _ => (s.ctxOf g).ccb.debug = false) ∧
    (Meets (.svc 0) fun _ g _ => g.replay = false) ∧
    (Meets (.brk 0) fun s g c => g.replay = false ∧ (s.ctxOf g).ccb.debug = true ∧ g.noHelpers c.exec ≠ 0) :=
  ⟨meets1 [] [] (by decide +kernel), meets1 [] [] rfl,
    meets (tdbg (tgrp [] [])) _ _ rfl (by decide) (clean_tgrp _ _) (by decide +kernel)⟩

/-- Inert: OPFENCE with nothing to wait for, with a faulted acquire of its group, and with a faulted LDS's copy. -/
theorem test_hyp_Opfence : (Meets .opfence fun s g _ => ¬ ∃ r ∈ s.replayed, r.group = g.uid ∧
      (Instr.acquires r.instr = true ∨ Instr.fillsSpad r.instr = true)) ∧
    (Meets .opfence fun s g _ => ∃ r ∈ s.replayed, r.group = g.uid ∧ Instr.acquires r.instr = true) ∧
    Meets .opfence fun s g _ => ∃ r ∈ s.replayed, r.group = g.uid ∧ Instr.fillsSpad r.instr = true := by
  let r (i : Instr) : Replayed := { group := 0, instr := i, src := tgrp [] [], mask := 1, header := 8, word := 12, record := none, flag := none }
  refine ⟨meets1 [] [] (by decide +kernel),
    meets { tst (tgrp [] []) with replayed := [r (.replay 8 4)] } _ _ rfl (by decide) (clean_tgrp [] []) (by decide +kernel),
    meets { tst (tgrp [] []) with replayed := [r (.sts .b32 4 2 0)] } _ _ rfl (by decide) (clean_tgrp [] []) (by decide +kernel)⟩

/-- HandlerTakes: the entry for USER can be read, that of a table at an address that is not mapped cannot, and a
code of 0x30 or more, or one whose bit is 0, is none for the handler. -/
theorem test_hyp_HandlerTakes : (∃ (s : State) (g : Machine.Group) (b : List Byte), Code.user.num < 0x30 ∧
      (s.ctxOf g).ccb.hmask.getLsbD Code.user.num = true ∧ g.handler = false ∧ (s.ctxOf g).ccb.sys = false ∧
      s.loadRecord { s.who g with replay := none } ((s.ctxOf g).ccb.htab.toNat + 8 * Code.user.num) 8 = .ok b) ∧
    (∃ (s : State) (g : Machine.Group), Code.user.num < 0x30 ∧
      (s.ctxOf g).ccb.hmask.getLsbD Code.user.num = true ∧ g.handler = false ∧ (s.ctxOf g).ccb.sys = false ∧
      okSat (s.loadRecord { s.who g with replay := none } ((s.ctxOf g).ccb.htab.toNat + 8 * Code.user.num) 8) (fun _ => true) = false) ∧
    ∃ code : Code, ¬ code.num < 0x30 := by
  have h : okSat ((tst (tgrp [] [])).loadRecord { (tst (tgrp [] [])).who (tgrp [] []) with replay := none }
    (((tst (tgrp [] [])).ctxOf (tgrp [] [])).ccb.htab.toNat + 8 * Code.user.num) 8) (fun _ => true) = true := by decide +kernel
  obtain ⟨b, hb, -⟩ := of_okSat h
  refine ⟨⟨tst (tgrp [] []), tgrp [] [], b, by decide +kernel, by decide +kernel, rfl, by decide +kernel, hb⟩,
    ⟨{ tst (tgrp [] []) with ctxs := [{ slot := 1, state := .live, ccb := { ptroot := 0x1000, htab := 0x7FFFFFFF0000, hmask := -1 } }] },
      tgrp [] [], by decide +kernel⟩, .notmapped, by decide +kernel⟩

/-- TrapRaisesUser: with a lane that is no helper, and with helper lanes only. -/
theorem test_hyp_TrapRaisesUser :
    (Meets (.trap 7) fun _ g c => maskOf ((lanesOf c.exec).filter fun l => !(g.lane l).helper) ≠ 0) ∧
    Meets (.trap 7) fun _ g c => maskOf ((lanesOf c.exec).filter fun l => !(g.lane l).helper) = 0 := by
  refine ⟨meets1 [] [] (by decide +kernel), ?_⟩
  let g : Machine.Group := { tgrp [] [] with lanes := [{ pc := 8, st := .runnable, helper := true }] }
  exact meets (tst g) g tcl rfl (by decide) (by unfold Clean; decide +kernel) (by decide +kernel)

/-- TrapEntersHandler and HandlerTakes: USER has a handler. -/
theorem test_hyp_TrapEntersHandler : ∃ g c k, (tst g).issue? = some (g, c) ∧ (tst g).handlerOf g .user ≠ 0 ∧
    ((tst g).ctxOf g).freeHslot = some k :=
  ⟨tgrp [] [], tcl, 0, rfl, by decide +kernel, by decide +kernel⟩

/-- TrapGoesToService: WINDOW has none. -/
theorem test_hyp_TrapGoesToService : ∃ g c, (tst g).issue? = some (g, c) ∧ (tst g).handlerOf g .window = 0 ∧
    (tst g).buffered ((tst g).clusterOf g) < 256 :=
  ⟨tgrp [] [], tcl, rfl, by decide +kernel, by decide +kernel⟩

/-- EretReturns: in handler state with a good resume address, and outside it. -/
theorem test_hyp_EretReturns : (Meets .eret fun s g c => g.handler = true ∧ s.handlerQueue = [] ∧
      targetsGood s g c.exec none false (fun l => (g.lane l).resume)) ∧
    Meets .eret fun _ g _ => g.handler = false := by
  refine ⟨?_, meets1 [] [] rfl⟩
  let g : Machine.Group := { tgrp [] [] with
    handler := true, hslot := some 0, lanes := [{ pc := 8, st := .runnable, resume := 0x208 }] }
  refine meets (tst g) g tcl rfl (by decide) (by unfold Clean; decide +kernel) ⟨rfl, rfl, ?_⟩
  unfold targetsGood; decide +kernel

/-- FaultRecordLayout: the largest slot, core, cluster and numbers. -/
theorem test_hyp_FaultRecordLayout : ∃ r : Record, r.slot = 63 ∧ r.core = 31 ∧ r.cluster = 7 ∧ r.bid = 2 ^ 32 - 1 ∧
    r.gid = 2 ^ 32 - 1 ∧ r.source = 255 ∧ r.level = 2 ^ 32 - 1 :=
  ⟨{ num := 0, code := .user, source := 255, slot := 63, core := 31, cluster := 7, bid := 2 ^ 32 - 1
     gid := 2 ^ 32 - 1, write := false, atomic := false, helper := false, waiters := 0, mask := 0, addr := 0
     header := 0, word := 0, aux := 0, arg := 0, level := 2 ^ 32 - 1, answer := 0, who := [], block := 0
     unit := false, ring := none }, rfl, rfl, rfl, rfl, rfl, rfl, rfl⟩

/-- LaunchMakesChildren: a record at an aligned address, in both numberings. -/
theorem test_hyp_Launch (ord : Bool) : Meets (if ord then .launchOrd 2 else .launch 2) fun s g c =>
    g.replay = false ∧ g.noHelpers c.exec ≠ 0 ∧
    (∀ l ∈ lanesOf (g.noHelpers c.exec), wellFormed (readV64 s g l 2) 64) ∧
    s.renderAt (s.slotOf g) (readV64 s g 0 2) = none ∧
    ∃ b, s.loadRecord (s.who g) (readV64 s g 0 2).toNat 64 = .ok b ∧ b.length = 64 := by
  refine meets1 [] [(2, 0x5400)] ⟨rfl, by decide +kernel, by unfold wellFormed; decide +kernel, rfl, ?_⟩
  have h : okSat ((tst (tgrp [] [(2, 0x5400)])).loadRecord ((tst (tgrp [] [(2, 0x5400)])).who (tgrp [] [(2, 0x5400)]))
    (readV64 (tst (tgrp [] [(2, 0x5400)])) (tgrp [] [(2, 0x5400)]) 0 2).toNat 64)
    (fun b => decide (b.length = 64)) = true := by decide +kernel
  obtain ⟨b, h1, h2⟩ := of_okSat h
  exact ⟨b, h1, by simpa using h2⟩

/-- LaunchMakesChildren: LAUNCH of that record may perform, and LAUNCHARG, and a replay. -/
theorem test_hyp_LaunchPerforms : (Meets (.launch 2) fun s g c => LanesReady s g c (.launch 2) (launchOp false 2)) ∧
    (Meets (.launch 2) fun s g c => g.replay = false ∧ maskOf ((lanesOf (g.noHelpers c.exec)).filter fun l =>
      !canonical (readV64 s g l 2) || decide ((readV64 s g l 2).toNat % 64 ≠ 0)) ≠ 0) ∧
    Meets (.launch 2) fun _ g _ => g.replay = true :=
  ⟨meets1 [] [(2, 0x5400)] ⟨by decide +kernel, by decide +kernel, rfl⟩,
    meets1 [] [(2, 0x5401)] (by decide +kernel),
    meets (tst { tgrp [] [] with replay := true }) _ _ rfl (by decide) (clean_tgrp [] []) rfl⟩

/-- LaunchMakesChildren: the record of a draw, launched from its own bin block, and a lane count of LAUNCH.ord in a
clause that goes on and in one that waits. -/
theorem test_hyp_LaunchRender : (∃ (s : State) (g : Machine.Group) (d : Draw) (b : Block),
      s.renderAt (s.slotOf g) (readV64 s g 0 2) = some d ∧ s.block? g.block = some b ∧ b.kind = .bin d.uid) ∧
    (∃ (s : State) (g : Machine.Group) (c : Clause), s.group? g.uid = some g ∧ g.clause = some c ∧ c.wait = none) ∧
    ∃ (s : State) (g : Machine.Group) (c : Clause), s.group? g.uid = some g ∧ g.clause = some c ∧ c.wait ≠ none :=
  ⟨⟨{ tst (tgrp [] [(2, 0x5400)]) with draws := [{ tdraw with recAt := 0x5400 }], blocks := [{ hostBlock 1 with kind := .bin 5 }] },
      tgrp [] [(2, 0x5400)], _, _, rfl, rfl, rfl⟩, ⟨tst (tgrp [] []), tgrp [] [], tcl, rfl, rfl, rfl⟩,
    ⟨tst { tgrp [] [] with clause := some { tcl with wait := some .answers } },
      { tgrp [] [] with clause := some { tcl with wait := some .answers } }, _, rfl, rfl, by decide⟩⟩

/-- The bytes of a task record. -/
def ttask : List Byte := natLe 8 0x208 ++ natLe 4 0x01041041 ++ natLe 4 1 ++ natLe 2 1 ++ List.replicate 46 0

/-- LaunchMakesChildren: a record that the scheduler takes, whatever width its kernel states. -/
theorem test_hyp_TaskTaken : ∃ (s : State) (w : Who) (b : List Byte), s.matchesOf w.slot 0 [] = [] ∧
    taskRefusal (s.ctx w.slot).ccb.prioCeil b (taskOf w.slot b) = none := by
  have h (w : Option (Fin 4)) : taskRefusal 0 ttask (match w with
      | some w => { parseTask ttask with width := 8 * 2 ^ w.val }
      | none => parseTask ttask) = none := by
    rcases w with _ | w
    · decide +kernel
    · revert w; decide +kernel
  exact ⟨tst (tgrp [] []), { cl := 0, slot := 1 }, ttask, by decide +kernel, h _⟩

/-- RouteQueues: a route that is full, one with an entry, one without, a number beyond 4,095, and a replay. -/
theorem test_hyp_RouteQueues :
    (Meets (.renq 3 4) fun s g c => g.noHelpers c.exec ≠ 0 ∧ (∃ d, s.routeDesc (s.who g) (readS s g 3).toNat = .ok d ∧
      (d.en && !d.bad && (appendLanes (s.who g) (readS s g 3).toNat d
        ((lanesOf (g.noHelpers c.exec)).map fun l => (l, readV64 s g l 4)) s).2.1.isEmpty) = true)) ∧
    (Meets (.rdeq 8 3) fun s g _ => ∃ q, s.routeDesc (s.who g) (readS s g 3).toNat = .ok q ∧
      (q.en && !q.bad && ((s.ctx (s.slotOf g)).route (readS s g 3).toNat q).waitEntry.isEmpty &&
        okSat (s.take (s.who g) (readS s g 3).toNat q) Option.isSome) = true) ∧
    (Meets (.rdeq 8 3) fun s g _ => ∃ q, s.routeDesc (s.who g) (readS s g 3).toNat = .ok q ∧
      (q.en && !q.bad && ((s.ctx (s.slotOf g)).route (readS s g 3).toNat q).count == 0) = true) ∧
    (Meets (.rdeq 8 3) fun s g _ => 4096 ≤ (readS s g 3).toNat) ∧
    Meets (.renq 3 4) fun s g _ => 4096 ≤ (readS s g 3).toNat :=
  ⟨meets1 [] [] ⟨by decide +kernel, of_okSat (by decide +kernel)⟩, meets1 [] [] (of_okSat (by decide +kernel)),
    meets1 [(3, 1)] [] (of_okSat (by decide +kernel)), meets1 [(3, 4096)] [] (by decide +kernel),
    meets1 [(3, 4096)] [] (by decide +kernel)⟩

/-- RouteQueues: a route that is disabled, one without space, which keeps a lane of RENQ, and both words in a replay. -/
theorem test_hyp_RouteStops :
    (Meets (.rdeq 8 3) fun s g _ => okSat (s.routeDesc (s.who g) (readS s g 3).toNat) (fun q => !q.en) = true) ∧
    (Meets (.renq 3 4) fun s g c => g.noHelpers c.exec ≠ 0 ∧ g.replay = false ∧
      okSat (s.routeDesc (s.who g) (readS s g 3).toNat) (fun q => !q.en) = true) ∧
    (Meets (.renq 3 4) fun s g c => g.noHelpers c.exec ≠ 0 ∧ c.partialDone = 0 ∧
      ∃ d, s.routeDesc (s.who g) (readS s g 3).toNat = .ok d ∧ (d.en && !d.bad &&
        (let x := (appendLanes (s.who g) (readS s g 3).toNat d
          ((lanesOf (g.noHelpers c.exec)).map fun l => (l, readV64 s g l 4)) s).2
         !x.1.isEmpty && x.2.isNone)) = true) ∧
    (Meets (.rdeq 8 3) fun _ g _ => g.replay = true) ∧ Meets (.renq 3 4) fun _ g _ => g.replay = true :=
  ⟨meets1 [(3, 3)] [] (by decide +kernel), meets1 [(3, 3)] [] (by decide +kernel),
    meets { tst (tgrp [] []) with ctxs := [{ slot := 1, state := .live, ccb := { ptroot := 0x1000, routeBase := 0x5000 }
                                             routes := [(0, { head := 0, tail := 0x4000000, waitEntry := [], waitSpace := [] })] }] }
      _ _ rfl (by decide) (clean_tgrp [] []) ⟨by decide +kernel, by decide, of_okSat (by decide +kernel)⟩,
    meets (tst { tgrp [] [] with replay := true }) _ _ rfl (by decide) (clean_tgrp [] []) rfl,
    meets (tst { tgrp [] [] with replay := true }) _ _ rfl (by decide) (clean_tgrp [] []) rfl⟩

/-- RouteQueues: the oldest entry of a route with one, a route with none, one whose ring has no translation, and a
route with space. -/
theorem test_hyp_RouteTake : let w : Who := { cl := 0, slot := 1 }
    let s (t : BitVec 32) : State := { tst (tgrp [] []) with ctxs := [{ slot := 1, state := .live, ccb := { ptroot := 0x1000, routeBase := 0x5000 }
                                                                        routes := [(0, { head := 0, tail := t, waitEntry := [], waitSpace := [] })] }] }
    let d (a : DWord) : RouteDesc := { en := true, pod := false, bad := false, ring := a, log2 := 4, head := 0, tail := 0 }
    let entry (a : DWord) := (s 1).loadGlobal w (a + BitVec.ofInt 64 0) 8 .read
    (((s 1).ctx 1).route 0 (d 0x6000)).count ≠ 0 ∧ (((s 0).ctx 1).route 0 (d 0x6000)).count = 0 ∧
    (((s 0).ctx 1).route 0 (d 0x6000)).count < 2 ^ 4 ∧ okSat (entry 0x6000) (fun _ => true) = true ∧
    okSat (entry 0x7FFFFFFF0000) (fun _ => true) = false := by
  decide +kernel

/-- The first path waits in park 5 of a route: for an entry, or for space. -/
def tpark (p : Park) (r : Nat) (space : Bool) : State :=
  { tst { tgrp [] [] with clause := none, lanes := [{ pc := 8, st := .parked p }] } with
    ctxs := [{ slot := 1, state := .live, ccb := { ptroot := 0x1000, routeBase := 0x5000 }
               routes := [(r, { head := 0, tail := if space then 0 else 1
                                waitEntry := if space then [] else [5], waitSpace := if space then [5] else [] })] }] }

/-- RouteWakes: a park that an entry waits for, and one that space waits for. -/
theorem test_hyp_RouteWakes : (∃ (s : State) (g : Machine.Group) (x : RouteCache), (s.ctx 1).routes.find? (fun e => e.1 == 0) = some (0, x) ∧
      x.waitEntry = [5] ∧ s.parkGroup 5 = some g ∧ s.parkFaulted g (g.parkMask 5) = false ∧
      ∃ q, s.routeDesc { s.who g with replay := none } 0 = .ok q ∧
        (q.en && !q.bad && okSat (s.take { s.who g with replay := none } 0 q) Option.isSome) = true) ∧
    ∃ (s : State) (g : Machine.Group) (x : RouteCache), (s.ctx 1).routes.find? (fun e => e.1 == 1) = some (1, x) ∧
      x.waitSpace = [5] ∧ s.parkGroup 5 = some g ∧ s.group? g.uid = some g ∧ s.parkFaulted g (g.parkMask 5) = false ∧
      ∃ q, s.routeDesc { s.who g with replay := none } 1 = .ok q ∧ (q.en && !q.bad &&
        (appendLanes { s.who g with replay := none } 1 q (g.parkLeft 5) s).2.1.isEmpty) = true :=
  ⟨⟨tpark (.route 0 5 8 0 0) 0 false, _, _, rfl, rfl, rfl, by decide +kernel, of_okSat (by decide +kernel)⟩,
    ⟨tpark (.routeSpace 1 5 (some 9) 0 0) 1 true, _, _, rfl, rfl, rfl, rfl, by decide +kernel, of_okSat (by decide +kernel)⟩⟩

/-- RouteWakes: enabling a route whose descriptor can be read, and a peer's entry for a route with POD. -/
theorem test_hyp_RouteEnable : (∃ d, ((tst (tgrp [] [])).writeDesc 1 1 true none).routeDesc { cl := 0, slot := 1 } 1 = .ok d ∧
      d.en = true) ∧
    ∃ d, (tst (tgrp [] [])).routeDesc { cl := 0, slot := 1 } 2 = .ok d ∧ (d.pod && d.en && !d.bad &&
      okSat ((tst (tgrp [] [])).append { cl := 0, slot := 1 } 2 d 77) Option.isSome) = true :=
  ⟨of_okSat (by decide +kernel), of_okSat (by decide +kernel)⟩

end Sys2Proof.Tests
end

