-- ==== Sys2Proof/Tests/WitnessCore.lean ====
section
/-! SUPPORT. Witnesses: for the statements about encoding, the step, registers and control, a concrete state
and operands that meet their hypotheses. -/

namespace Sys2Proof.Tests

set_option Elab.async false

open Sys2Proof.Machine Sys2Proof.Claims

set_option maxRecDepth 20000

/-- DecodeEncode and EncodeDecode. -/
theorem test_hyp_Encoding :
    Instr.wellFormed (.vmad 127 0 119 5) = true ∧ IsWord (.vmad 127 0 119 5) ∧
    decode 0x3002FF80 0 0 = .ok (.vadd 11 127 0) := by
  refine ⟨by decide, ?_, by decide⟩
  unfold IsWord; decide

/-- StepRunsDecoded: VADD, the next instruction after reset, at the host's placing. -/
theorem test_hyp_StepRunsDecoded : ∃ s g c, s = State.reset.withFetchWord 32 0x30028103 ∧ s.agenda = [] ∧
    s.nextWaiting = none ∧ s.turn = some 0 ∧ s.group? 0 = some g ∧ g.clause = some c ∧ c.wait = none ∧
    decode (c.buf.getD 0 0).toNat (c.buf.getD 1 0).toNat (c.buf.getD 2 0).toNat = .ok (.vadd 10 2 3) ∧
    (Instr.parks (.vadd 10 2 3) && (s.tick.setGroup g).owes 0 && decide (c.exec ≠ 0)) = false :=
  ⟨_, _, _, rfl, rfl, rfl, rfl, rfl, rfl, rfl, by decide +kernel, by decide +kernel⟩

/-- ClauseAdvances. -/
theorem test_hyp_ClauseAdvances : ∃ g c, (tst g).group? g.uid = some g ∧ g.clause = some c ∧ c.wait = none ∧
    c.again = false ∧ (tst g).replayOf g = none ∧ c.idx + 1 < c.count :=
  ⟨{ tgrp [] [] with clause := some { tcl with count := 2 } }, _, by decide +kernel, rfl, rfl, rfl, by decide +kernel,
    by decide⟩

/-- ClauseEnds. -/
theorem test_hyp_ClauseEnds : ∃ g c, (tst g).group? g.uid = some g ∧ g.clause = some c ∧ g.late = [] ∧
    c.deferred = [] ∧ g.gen = none ∧ g.joinStuck = false ∧ (tst g).turn = some g.uid :=
  ⟨tgrp [] [], _, by decide +kernel, rfl, rfl, rfl, rfl, by decide +kernel, rfl⟩

/-- A request of slot 1 on a ROD connection. -/
def trod : Req :=
  { slot := 1, conn := 3, tag := 9, stamp := 0 }

/-- StepPerformsEvents: an event; a request that waits for an unanswered DESTROY; one whose turn has come. -/
theorem test_hyp_StepPerformsEvents :
    (∃ s : State, s.nextWaiting = none ∧ s.agenda = .event .powerUp :: [] ∧ s.mustWait .powerUp = false) ∧
    (∃ (s : State) (q : Req), s.nextWaiting = none ∧ s.agenda = .event (.destroy q 0) :: [] ∧
      s.mustWait (.destroy q 0) = true) ∧
    ∃ (s : State) (q : Req), s.nextWaiting = some (.destroy q 0) :=
  ⟨⟨{ State.reset with agenda := [.event .powerUp] }, rfl, rfl, rfl⟩,
    ⟨{ State.reset with agenda := [.event (.destroy trod 0)], ctxs := [{ slot := 2, asked := some trod }] }, trod,
      by decide +kernel, rfl, by decide +kernel⟩,
    ⟨{ State.reset with waiting := [.destroy trod 0] }, trod, by decide +kernel⟩⟩

/-- MemoryStaysCanonical. -/
theorem test_hyp_MemoryStaysCanonical : ∃ s t : State, Memory.wf s.mem = true ∧ step s = .next t :=
  ⟨{ tst (tgrp [] []) with agenda := [.event .powerUp] }, _, by decide +kernel, rfl⟩

/-- SkippedClauseIdle. -/
theorem test_hyp_SkippedClauseIdle : ∃ g c, (tst g).issue? = some (g, c) ∧ c.exec = 0 ∧ IsWord .nop :=
  ⟨{ tgrp [] [] with clause := some { tcl with exec := 0 } }, _, rfl, rfl, by unfold IsWord; decide⟩

/-- PoisonedOperandHolds and PoisonRecorded: SADD reads a marked scalar. -/
theorem test_hyp_PoisonedOperandHolds : ∃ g c, (tst g).issue? = some (g, c) ∧ c.exec ≠ 0 ∧
    poisonMask (tst g) g c.exec (.sadd 3 1 2) ≠ 0 ∧ (tst g).buffered ((tst g).clusterOf g) < 256 :=
  ⟨{ tgrp [] [] with sPoison := [2] }, _, rfl, by decide, by decide +kernel, by decide +kernel⟩

/-- Every statement whose one hypothesis is that the instruction issues: it can, whatever the instruction
(ScalarArithmetic to CrossLane, Inert, Hypervectors, MSTAT and the frames). -/
theorem test_hyp_Issues (i : Instr) : ∃ s g c, Issues i s g c := ⟨_, _, _, issues_tst i [(1, 5)] [(2, 7)]⟩

/-- ScalarFrame, VectorFrame and PredicateFrame: instructions with one destination each. -/
theorem test_hyp_Frames : scalarDest (.sadd 127 0 127) = some 127 ∧ vectorDest (.fadd .f64 .rn 118 0 2) = some (118, 2) ∧
    predDest (.vcmpEqS32 15 0 1) = some 15 := by decide

/-- SpecialReads: the group's block, its partition on the core, a request for a level, and an open generator. -/
theorem test_hyp_SpecialReads : ∃ (s : State) (g : Machine.Group) (b : Block) (x : Generator), s.block? g.block = some b ∧
    b.cores.find? (fun e => e.1 == g.core) = some (g.core, 0) ∧ (s.ctx b.slot).ccb.perfReq < 8 ∧
    (s.cluster b.cluster).level < 8 ∧ g.gen = some x ∧ 1 ≤ x.words ∧ x.words ≤ 4 ∧ x.entries.length ≤ 4096 :=
  let x : Generator := { offset := 0, cap := 8, words := 4, thr := 8, label := 0x208, mode := .producer, entries := [], head := 0
                         batchN := 1, taken := false, batch := [] }
  ⟨tst { tgrp [] [] with gen := some x }, { tgrp [] [] with gen := some x }, hostBlock 1, x, by decide +kernel⟩

/-- VectorFile. -/
theorem test_hyp_VectorFile : 0 < (tgrp [] []).lanes.length := by decide

/-- FloatTables: a NaN, a finite operand below 0, and both orders of numbers and NaNs for each format. -/
theorem test_hyp_FloatTables : (∀ p : Prec, (Prec.fmt p).value (Prec.fmt p).nanBits = .nan) ∧
    (Fmt.f32.value 0xBF800000 = .fin true 0x800000 (-23)) ∧
    ∀ f ∈ [Fmt.f16, Fmt.bf16, Fmt.f32, Fmt.f64], f.nanBits < 2 ^ (1 + f.eb + f.fb) ∧ f.value f.nanBits = .nan ∧
      f.value f.one ≠ .nan ∧ (f.value 0).lt (f.value f.one) ∧ f.one < 2 ^ (1 + f.eb + f.fb) := by
  refine ⟨fun p => by cases p <;> decide +kernel, by decide +kernel, by decide +kernel⟩

/-! ### Control -/

/-- TransfersTaken, direct: 0x208 is 127 words from the word of the instruction, and its checks pass. -/
theorem test_hyp_DirectTransfers (i : Instr) : Meets i fun s g c =>
    targetsGood s g c.exec none false (fun _ => c.word + BitVec.ofInt 64 (4 * (127 : BitVec 14).toInt)) := by
  refine meets1 [] [] ?_
  unfold targetsGood
  decide +kernel

/-- TransfersTaken, indirect, and ERET: targets with the landing pads that CALLX, BRX, RET and handlers need. -/
theorem test_hyp_IndirectTransfers (i : Instr) (k : Fin 4) : Meets i fun s g c =>
    targetsGood s g c.exec (some k) true (fun l => readV64 s g l 4) := by
  refine meets1 [] [(4, BitVec.ofNat 32 (0x208 + 8 * k.val))] ?_
  revert k
  unfold targetsGood
  decide +kernel

/-- NullLinkFirst. -/
theorem test_hyp_NullLinkFirst : Meets (.ret 4) fun s g c =>
    maskOf ((lanesOf c.exec).filter fun l => readV64 s g l 4 = 0) ≠ 0 := meets1 [] [] (by decide +kernel)

/-- RejoinMasks: a mask with a live lane, one with none, and a group between clauses. -/
theorem test_hyp_RejoinMasks : (Meets (.join 7) fun _ g _ => g.kMask 7 &&& g.live ≠ 0) ∧
    (∃ s g c, Issues (.join 7) s g c ∧ g.kMask 7 &&& g.live = 0) ∧
    ∃ g, (tst g).group? g.uid = some g ∧ g.clause = none := by
  refine ⟨meets1 [] [] (by decide +kernel), ?_, { tgrp [] [] with clause := none }, rfl, rfl⟩
  let g := { tgrp [] [] with k := List.replicate 8 0 }
  exact ⟨tst g, g, tcl, ⟨rfl, by decide, poisonMask_clean (g := g) ⟨rfl, rfl, (clean_tgrp [] []).2.2⟩ _ _ _⟩, by decide +kernel⟩

/-- RejoinMasks: a group in which a lane waits at a JOIN by k3, its other live lane running, and one without such a
lane. -/
theorem test_hyp_JoinReady : ∃ g h : Machine.Group,
    (∃ x ∈ g.lanes, ∃ k a b, x.st = .join k 12 a b) ∧ (∀ x ∈ g.lanes, ∀ j a b, x.st = .join j 12 a b → j = 3) ∧
    (∃ l, mHas (g.kMask 3) l = true ∧ (g.lane l).live = true) ∧ ∀ x ∈ h.lanes, ¬ ∃ k a b, x.st = .join k 12 a b := by
  refine ⟨{ tgrp [] [] with k := List.replicate 8 3, lanes := [{ st := .join 3 12 8 0 }, { st := .runnable }] }, tgrp [] [],
    ⟨_, .head _, 3, 8, 0, rfl⟩, fun x hx j a b hj => ?_, ⟨1, by decide +kernel⟩, fun x hx => ?_⟩
  · simp at hx
    rcases hx with rfl | rfl <;> simp at hj
    exact hj.1.symm
  · simp [tgrp] at hx
    rcases hx with rfl | rfl <;> simp

/-- VectorFrame: every operation across the lanes writes some lanes, and VBFI one register. -/
theorem test_hyp_AcrossFrames : (acrossDest (tgrp [] []) tcl (.shflIdx 118 0 1) = some ([0], 118, 1, none)) ∧
    (acrossDest (tgrp [] []) tcl (.voteAny 14 3) = some ([0], 0, 0, some 14)) ∧
    (acrossDest (tgrp [] []) tcl (.matchAny 118 0) = some ([0], 118, 2, none)) ∧
    (acrossDest (tgrp [] []) tcl (.actmask 118) = some ([0], 118, 2, none)) ∧ vectorDest (.vbfi 119 0 1 2) = some (119, 1) :=
  ⟨rfl, rfl, rfl, rfl, rfl⟩

/-- FloatMeanings: finite values of both signs, a NaN and infinities, half-way values that overflow binary16, a square,
and powers of two, with the fields of a table that give each action. -/
theorem test_hyp_FloatMeanings : ratOf (Fmt.f32.value 0xBF800000) = some (-1) ∧ ratOf (Fmt.f64.value 0x3FF0000000000000) = some 1 ∧
    ratOf (Fmt.f32.value 0x41100000) = some (3 * 3) ∧ ratOf (Fmt.f32.value 0x40800000) = some (2 ^ (2 * (1 : Int))) ∧
    ratOf (Fmt.f32.value 0x477FF000) = some 65520 ∧ Fmt.f32.value 0x7FC00000 = .nan ∧ Fmt.f32.value 0xFF800000 = .inf true ∧
    ratOf (Fmt.f32.value 0x7F800000) = none ∧ Overflows .f16 .rn 65520 ∧ ¬ Overflows .f16 .rn 65519 ∧
    intType .s8 = some (8, true) ∧ intType .u64 = some (64, false) ∧ fmtOf .bf16 = some .bf16 ∧
    fmtOf (Narrow.f16f64).dst = some .f16 ∧ tableField 0x0024 .f16 = 1 ∧ tableField 0x0024 .bf16 = 2 ∧ tableField 0x0024 .f32 = 0 := by
  refine ⟨by decide +kernel, by decide +kernel, by decide +kernel, by decide +kernel, by decide +kernel, by decide +kernel,
    by decide +kernel, by decide +kernel, ?_, ?_, rfl, rfl, rfl, rfl, by decide, by decide, by decide⟩ <;>
    norm_num [Overflows, Fmt.f16, Fmt.bias]

/-- RejoinMasks: two lanes that wait at two JOINs, each for the other. -/
theorem test_hyp_JoinDead : ∃ (s : State) (g : Machine.Group), s.group? g.uid = some g ∧ g.lanes.length ≤ 64 ∧
    g.clause = none ∧ g.joinStuck = true ∧ s.handlerOf g .joindead = 0 ∧ s.buffered (s.clusterOf g) < 256 := by
  let g : Machine.Group := { tgrp [] [] with
    clause := none, k := List.replicate 8 3, lanes := [{ st := .join 0 12 8 0 }, { st := .join 1 16 8 1 }] }
  exact ⟨tst g, g, rfl, by decide +kernel⟩

end Sys2Proof.Tests
end

