-- ==== Sys2Proof/Tests/WitnessDevice.lean ====
section
/-! SUPPORT. States and operands that meet the hypotheses of the statements about contexts, issue, placement,
faults, the service's messages, errors, links and boot: `test_hyp_<part>` for the part of that name. -/

namespace Sys2Proof.Tests

set_option Elab.async false

open Sys2Proof.Machine Sys2Proof.Claims

/-- A group with these scalars and nothing else. -/
abbrev tg0 (sr : Regs) : Machine.Group := tgrp sr []

/-- The small machine with these contexts beside slot 1's. -/
def tctx (g : Machine.Group) (cs : List Ctx) (m : List Host.Cell) : State :=
  { tst g with ctxs := (tst g).ctxs ++ cs, mem := tmem ++ m }

/-- It issues any instruction. -/
theorem meetsC {i : Instr} {P : State → Machine.Group → Clause → Prop} (sr : Regs) (cs : List Ctx) (m : List Host.Cell)
    (h : P (tctx (tgrp sr []) cs m) (tgrp sr []) tcl) : Meets i P :=
  meets (tctx (tgrp sr []) cs m) (tgrp sr []) tcl rfl (by decide) (clean_tgrp sr []) h

/-! ### Watches and replays, privilege -/

/-- A replay that has run, with no entry to write and the smallest trace buffer. -/
def treplay : Replay :=
  { num := 3, group := 0, slot := 1, flag := none, dst := 8, recBytes := [], retain := [], traceAt := 0x10000, cap := 64
    cond := 0, trace := [], written := 0, ordinal := 0, lastAt := (0, 0), overlay := [], kernel := 0, lane := 0, block := none
    grid := none, status := some 5, record := none, dropped := false, mask := 1, word := 12, header := 8 }

/-- The machine of that replay. -/
def tran : State := { tst (tg0 []) with replays := [treplay] }

/-- WatchAndReplay: REPLAY_COMPLETE of that replay. -/
theorem test_hyp_ReplayComplete : tran.replay? 3 = some treplay ∧ tran.group? 0 = some (tg0 []) ∧ treplay.record = none ∧
    tran.replayRan treplay = true ∧ treplay.dropped = false ∧
    ∃ t k ps, State.writeTrace { tran.who (tg0 []) with replay := none } 0x10000
        ((treplay.trace.take treplay.fits).drop 0) 0 tran = (t, k, none) ∧
      (t.modReplay 3 fun x => { x with written := k }).storeRun { tran.who (tg0 []) with replay := none } 61 0x10004
        ((treplay.header_ k).map fun b => (b, false)) = .ok ps := by
  obtain ⟨ps, h, -⟩ := of_okSat (x := (tran.modReplay 3 fun x => { x with written := 0 }).storeRun
    { tran.who (tg0 []) with replay := none } 61 0x10004 ((treplay.header_ 0).map fun b => (b, false)))
    (p := fun _ => true) (by decide +kernel)
  exact ⟨rfl, rfl, rfl, rfl, rfl, tran, 0, ps, rfl, h⟩

/-- Privilege: a word of class 0xE, of each grade. -/
theorem test_hyp_Privilege : fld 0xE0200000 28 4 = 14 ∧ fld 0xE0200000 21 7 ≠ 0 ∧
    fld 0xE0000000 28 4 = 14 ∧ fld 0xE0000000 21 7 = 0 := by decide

/-! ### Contexts -/

/-- ContextInstructions: CTXSAVE of the last slot, CTXLOAD of a slot whose image is good. -/
theorem test_hyp_Ctxsave :
    (Meets (.ctxsave 8 4 6) fun s g _ => (readS s g 4).toNat = 63 ∧ (s.ctx 63).state = .live ∧
      (readS64 s g 6).toNat < 2 ^ 52 ∧ (readS64 s g 6).toNat % 4096 = 0 ∧
      someSat (s.takeToken (s.slotOf g)) (fun _ => true) = true) ∧
    Meets (.ctxload 8 4 6) fun s g _ => (readS s g 4).toNat = 63 ∧ (s.ctx 63).state = .free ∧
      (readS64 s g 6).toNat < 2 ^ 52 ∧ (readS64 s g 6).toNat % 4096 = 0 ∧
      s.imageBad 63 (Memory.reads s.mem (readS64 s g 6).toNat 256) = false ∧
      someSat (s.takeToken (s.slotOf g)) (fun _ => true) = true :=
  ⟨meetsC [(4, 63)] [{ slot := 63, state := .live }] [] (by decide +kernel),
    meetsC [(4, 63), (6, 0x20000)] [] [(0x20000, 63), (0x20006, 0x15)] (by decide +kernel)⟩

/-- ContextInstructions: OVTBL with a table entry that is good and one that is not; TLBINV, RESFENCE and PGATTR of
the last slot; CTXSAVE and CTXLOAD of slot 0. -/
theorem test_hyp_Ovtbl :
    (Meets (.ovtbl 4 6) fun s g _ => (readS s g 4).toNat = 63 ∧ (s.ctx 63).state = .live ∧
      ovtBad ((readS s g 6).toNat % 65536) = false) ∧
    (Meets (.ovtbl 4 6) fun s g _ => 63 < (readS s g 4).toNat) ∧
    (Meets (.tlbinv 8 4) fun s g _ => someSat (s.takeToken (s.slotOf g)) (fun _ => true) = true ∧
      canonical (readS64 s g 4) = true ∧ (readS64 s g 4).toNat % 65536 = 0 ∧ (readS s g 7).toNat = 63) ∧
    (Meets (.resfence 8 4) fun s g _ => someSat (s.takeToken (s.slotOf g)) (fun _ => true) = true ∧ (readS s g 4).toNat = 63) ∧
    (Meets (.pgattr 8 4) fun s g _ => someSat (s.takeToken (s.slotOf g)) (fun _ => true) = true ∧
      canonical (readS64 s g 4) = true ∧ (readS s g 6).toNat = 3 ∧ (readS s g 7).toNat = 63) ∧
    (Meets (.ctxsave 8 4 6) fun s g _ => (readS s g 4).toNat = 0) ∧ Meets (.ctxload 8 4 6) fun s g _ => (readS s g 4).toNat = 0 :=
  ⟨meetsC [(4, 63), (6, 0x15)] [{ slot := 63, state := .live }] [] (by decide +kernel), meetsC [(4, 64)] [] [] (by decide +kernel),
    meetsC [(7, 63)] [] [] (by decide +kernel), meetsC [(4, 63)] [] [] (by decide +kernel),
    meetsC [(6, 3), (7, 63)] [] [] (by decide +kernel), meetsC [] [] [] (by decide +kernel), meetsC [] [] [] (by decide +kernel)⟩

/-- ContextInstructions: each operand that TLBINV, RESFENCE and PGATTR may not name; CTXSAVE of a slot that is FREE,
CTXLOAD of one that is LIVE and from an image that is bad. -/
theorem test_hyp_PrivArgs :
    (Meets (.tlbinv 8 4) fun s g _ => canonical (readS64 s g 4) = false) ∧
    (Meets (.tlbinv 8 4) fun s g _ => (readS64 s g 4).toNat % 65536 ≠ 0) ∧
    (Meets (.tlbinv 8 4) fun s g _ => 63 < (readS s g 7).toNat) ∧ (Meets (.resfence 8 4) fun s g _ => 63 < (readS s g 4).toNat) ∧
    (Meets (.pgattr 8 4) fun s g _ => canonical (readS64 s g 4) = false) ∧ (Meets (.pgattr 8 4) fun s g _ => 3 < (readS s g 6).toNat) ∧
    (Meets (.pgattr 8 4) fun s g _ => 63 < (readS s g 7).toNat) ∧
    (Meets (.ctxsave 8 4 6) fun s g _ => (s.ctx (readS s g 4).toNat).state ≠ .live) ∧
    (Meets (.ctxload 8 4 6) fun s g _ => (s.ctx (readS s g 4).toNat).state ≠ .free) ∧
    Meets (.ctxload 8 4 6) fun s g _ => s.imageBad (readS s g 4).toNat (Memory.reads s.mem (readS64 s g 6).toNat 256) = true :=
  ⟨meetsC [(5, 0x1000000)] [] [] (by decide +kernel), meetsC [(4, 1)] [] [] (by decide +kernel),
    meetsC [(7, 64)] [] [] (by decide +kernel), meetsC [(4, 64)] [] [] (by decide +kernel),
    meetsC [(5, 0x1000000)] [] [] (by decide +kernel), meetsC [(6, 4)] [] [] (by decide +kernel),
    meetsC [(7, 64)] [] [] (by decide +kernel), meetsC [(4, 63)] [] [] (by decide +kernel),
    meetsC [(4, 63)] [{ slot := 63, state := .live }] [] (by decide +kernel), meetsC [(4, 63), (6, 0x20000)] [] [] (by decide +kernel)⟩

/-- ContextInstructions: PGATTR to plain of a last-level entry that is valid, and of an address whose tables end
above it. -/
theorem test_hyp_Pgattr : ∀ e ∈ [(0, true), (0x7FFFFFFF0000, false)], let s : State := tst (tg0 [])
    (decide ((s.walk 1 e.1).level ≤ 2) &&
      (Memory.read s.mem (leafSlot s.mem 1 (e.1 % 2 ^ 57) 4 (s.ctx 1).ccb.ptroot.toNat)).getLsbD 1) = e.2 := by
  decide +kernel

/-- ContextInstructions: each token operation under way; the page that PGATTR names has a leaf. -/
theorem test_hyp_TokenOps : (∃ (s : State) (d r : SReg) (g : Machine.Group), s.opOf 1 0 = some (.tlbinv d r, g)) ∧
    (∃ (s : State) (d r : SReg) (g : Machine.Group), s.opOf 1 0 = some (.resfence d r, g)) ∧
    ∃ (s : State) (d r : SReg) (g : Machine.Group), s.opOf 1 0 = some (.pgattr d r, g) ∧
      (match s.walk (readS s g (r.val + 3)).toNat (readS64 s g r.val).toNat with | .leaf _ => true | _ => false) = true :=
  ⟨⟨{ tst (tg0 []) with tokenOps := [(1, 0, .tlbinv 8 4, tg0 [])] }, 8, 4, tg0 [], rfl⟩,
    ⟨{ tst (tg0 []) with tokenOps := [(1, 0, .resfence 8 4, tg0 [])] }, 8, 4, tg0 [], rfl⟩,
    ⟨{ tst (tg0 []) with tokenOps := [(1, 0, .pgattr 8 4, tg0 [(7, 1)])] }, 8, 4, tg0 [(7, 1)], rfl, by decide +kernel⟩⟩

/-- ContextsMove: a slot that is SAVING, thrown away or with an image to write, with a block and without; one that is
LOADING an image of no block; a slot in neither state. -/
theorem test_hyp_ContextsMove :
    (∃ s : State, (s.ctx 2).state = .saving ∧ (s.ctx 2).saveAt = 0) ∧ (∃ s : State, (s.ctx 2).state ≠ .saving ∧ (s.ctx 2).state ≠ .loading) ∧
    (∃ s : State, (s.ctx 2).state = .saving ∧ (s.ctx 2).saveAt ≠ 0 ∧ ∃ b ∈ s.blocks, b.slot = 2) ∧
    (∃ s : State, (s.ctx 2).state = .saving ∧ (s.ctx 2).saveAt ≠ 0 ∧ (∀ b ∈ s.blocks, b.slot ≠ 2) ∧ s.pipeBusy 2 = false) ∧
    ∃ s : State, (s.ctx 2).state = .loading ∧ (s.ctx 2).saveTok = none ∧
      s.imageAt (s.ctx 2).saveAt.toNat = none ∧
      fieldOf (Memory.reads s.mem (s.ctx 2).saveAt.toNat 4096) 108 4 = 0 :=
  ⟨⟨{ State.reset with ctxs := [{ slot := 2, state := .saving }] }, by decide +kernel⟩, ⟨State.reset, by decide +kernel⟩,
    ⟨{ State.reset with ctxs := [{ slot := 2, state := .saving, saveAt := 4096 }], blocks := [hostBlock 2] }, by decide +kernel⟩,
    ⟨{ State.reset with ctxs := [{ slot := 2, state := .saving, saveAt := 4096 }] }, by decide +kernel⟩,
    ⟨{ State.reset with ctxs := [{ slot := 2, state := .loading, saveAt := 4096 }] }, by decide +kernel⟩⟩

/-- The bytes of a task record. -/
def ttaken : List Byte := natLe 8 0x208 ++ natLe 4 0x01041041 ++ natLe 4 1 ++ natLe 2 1 ++ List.replicate 46 0

/-- The scheduler takes it, whatever width its kernel states. -/
theorem ttaken_refused : taskRefusal 0 ttaken (taskOf 2 ttaken) = none := by
  have h (w : Option (Fin 4)) : taskRefusal 0 ttaken (match w with
      | some w => { parseTask ttaken with width := 8 * 2 ^ w.val }
      | none => parseTask ttaken) = none := by
    rcases w with _ | w
    · decide +kernel
    · revert w; decide +kernel
  exact h _

/-- ContextsMove: a save at address 0 with nothing left to stop; a slot whose fixed units still work; a load with its
token; an image of one task that the scheduler takes, and one of a block. -/
theorem test_hyp_ContextLoads :
    (∃ s : State, (s.ctx 2).state = .saving ∧ (s.ctx 2).saveAt = 0 ∧ (∀ b ∈ s.blocks, b.slot ≠ 2) ∧ s.pipeBusy 2 = false) ∧
    (∃ s : State, s.pipeBusy 1 = true) ∧
    (∃ s : State, (s.ctx 2).state = .loading ∧ (s.ctx 2).saveTok = some (0, 3)) ∧
    (∃ s : State, (s.ctx 2).state = .loading ∧ fieldOf (Memory.reads s.mem (s.ctx 2).saveAt.toNat 4096) 104 4 = 0 ∧
      fieldOf (Memory.reads s.mem (s.ctx 2).saveAt.toNat 4096) 108 4 = 1 ∧ s.imageAt (s.ctx 2).saveAt.toNat = none ∧
      Memory.reads s.mem ((s.ctx 2).saveAt.toNat + 4096) 64 = ttaken ∧
      taskRefusal (s.ctx 2).ccb.prioCeil ttaken (taskOf 2 ttaken) = none) ∧
    ∃ s : State, (s.ctx 2).state = .loading ∧ fieldOf (Memory.reads s.mem (s.ctx 2).saveAt.toNat 4096) 104 4 = 1 :=
  ⟨⟨{ State.reset with ctxs := [{ slot := 2, state := .saving }] }, by decide +kernel⟩,
    ⟨{ State.reset with draws := [{ tdraw with
        render := some { final := true, block := none, resolving := true, grids := [] } }] }, by decide +kernel⟩,
    ⟨{ State.reset with ctxs := [{ slot := 2, state := .loading, saveAt := 4096, saveTok := some (0, 3) }] }, by decide +kernel⟩,
    ⟨{ State.reset with
        ctxs := [{ slot := 2, state := .loading, saveAt := 0x4000 }]
        mem := [(0x406C, 1), (0x5000, 0x08), (0x5001, 0x02), (0x5008, 0x41), (0x5009, 0x10), (0x500A, 0x04), (0x500B, 0x01),
          (0x500C, 0x01), (0x5010, 0x01)] },
      by decide +kernel, by decide +kernel, by decide +kernel, by decide +kernel, by decide +kernel, ttaken_refused⟩,
    ⟨{ State.reset with ctxs := [{ slot := 2, state := .loading, saveAt := 0x4000 }], mem := [(0x4068, 1)] }, by decide +kernel⟩⟩

/-- ServiceInstructions: ADMIT of the last cluster with the greatest budgets, of a cluster that does not exist, with no
energy and with too much current; RASLOG at an address that does not exist, of an empty log and of one record; HALT. -/
theorem test_hyp_ServiceInstructions :
    (Meets (.admitCluster 4) fun s g _ => let v (k : Nat) : Nat := (readS s g (4 + k)).toNat
      v 0 = 7 ∧ v 1 = 7 ∧ v 2 = 65535 ∧ v 3 = 1000 ∧ s.tenantOn 7 = false) ∧
    (Meets (.admitCluster 4) fun s g _ => 7 < (readS s g 4).toNat) ∧
    (Meets (.admitCluster 4) fun s g _ => (readS s g 6).toNat = 0) ∧
    (Meets (.admitCluster 4) fun s g _ => (readS s g 7).toNat = 1001) ∧
    (Meets (.raslog 8 4) fun s g _ => 2 ^ 52 ≤ (readS64 s g 4).toNat) ∧
    (Meets (.raslog 8 4) fun s g _ => (readS64 s g 4).toNat < 2 ^ 52 ∧ s.ras = []) ∧
    (Meets (.raslog 8 4) fun s g _ => (readS64 s g 4).toNat < 2 ^ 52 ∧ s.rasDropped = 0 ∧ ∃ r rs, s.ras = r :: rs) ∧
    Meets .halt fun _ _ _ => True := by
  let r : Ras := { type := 1, unit := 0, slot := 0, count := 1, time := 0, paddr := 0, loc := 0, detail := 0 }
  exact ⟨meetsC [(4, 7), (5, 7), (6, 65535), (7, 1000)] [] [] (by decide +kernel), meetsC [(4, 8)] [] [] (by decide +kernel),
    meetsC [(4, 7), (5, 7)] [] [] (by decide +kernel), meetsC [(7, 1001)] [] [] (by decide +kernel),
    meetsC [(5, 2 ^ 20)] [] [] (by decide +kernel), meetsC [] [] [] (by decide +kernel),
    meets { tst (tg0 []) with ras := [r] } _ _ rfl (by decide) (clean_tgrp [] []) ⟨by decide +kernel, rfl, r, [], rfl⟩,
    meetsC [] [] [] trivial⟩

/-! ### Issue and placement -/

/-- A group between clauses at a slot of the line of code. -/
def tidle (pc : DWord) : Machine.Group :=
  { tgrp [] [] with clause := none, flags := -1, lastIssue := none, lanes := [{ pc := pc, st := .runnable }] }

/-- The machine with that group, its line's first byte of marks and the second byte of its first clause as given. -/
def tline (pc : DWord) (marks header : BitVec 8) : State :=
  { tst (tidle pc) with mem := tmem.map fun c => if c.1 = 0x200 then (c.1, marks) else if c.1 = 0x209 then (c.1, header) else c }

/-- The hypotheses of ClauseBegins that say that a path may begin a clause. -/
def begins (s : State) (g : Machine.Group) : Bool :=
  decide (s.group? 0 = some g) && decide (g.clause = none) && !s.stopped g && s.mayIssue g 0 && decide (s.taskOf 0 = none) &&
    g.late.isEmpty && decide (s.againOf 0 (g.issueSet 0) = none) && !g.serial

/-- What a fetching group's address is for. -/
abbrev tfetch (s : State) (g : Machine.Group) : Who := { s.who g with replay := none }

/-- ClauseBegins: from an unmarked slot; from a good clause that nothing holds back and that a set field does; from one
whose header is none. -/
theorem test_hyp_ClauseBegins :
    (∃ s g, begins s g = true ∧ decide (s.badTarget (tfetch s g) (g.lane 0).pc none = none) = true ∧
      okSat (s.nextMarked (tfetch s g) skipSlots (codeSlot (g.lane 0).pc)) (fun a => a == (g.lane 0).pc) = true ∧
      okSat (s.decodeClause (tfetch s g) g (s.sysGroup g) (s.taskOfGroup g) (g.lane 0).pc) (fun d => g.flags &&& d.needs == 0) = true) ∧
    (∃ s g, begins s g = true ∧
      okSat (s.nextMarked (tfetch s g) skipSlots (codeSlot (g.lane 0).pc)) (fun a => a == (g.lane 0).pc) = true ∧
      okSat (s.decodeClause (tfetch s g) g (s.sysGroup g) (s.taskOfGroup g) (g.lane 0).pc) (fun d => g.flags &&& d.needs != 0) = true) ∧
    (∃ (s : State) (g : Machine.Group), begins s g = true ∧ g.lastIssue = some 0 ∧
      okSat (s.nextMarked (tfetch s g) skipSlots (codeSlot (g.lane 0).pc)) (fun a => a == (g.lane 0).pc) = true ∧
      okSat (s.decodeClause (tfetch s g) g (s.sysGroup g) (s.taskOfGroup g) (g.lane 0).pc) (fun _ => true) = false) ∧
    ∃ (s : State) (g : Machine.Group), begins s g = true ∧ g.lastIssue = some 0 ∧
      okSat (s.nextMarked (tfetch s g) skipSlots (codeSlot (g.lane 0).pc)) (fun a => a != (g.lane 0).pc) = true := by
  let g : Machine.Group := { tidle 0x20C with lastIssue := some 0 }
  exact ⟨⟨tline 0x208 0xFF 1, tidle 0x208, by decide +kernel⟩, ⟨tline 0x208 0xFF 3, tidle 0x208, by decide +kernel⟩,
    ⟨{ tline 0x20C 0xFF 1 with groups := [g] }, g, by decide +kernel⟩,
    ⟨{ tline 0x20C 0xFD 1 with groups := [g] }, g, by decide +kernel⟩⟩

/-- GroupSteps: a set flag with nothing outstanding and a result, a flag that is clear, a path whose turn is over and
one whose turn is not, a group with a live helper lane that may
retire and one that may not. -/
theorem test_hyp_GroupSteps :
    (∃ (s : State) (g : Machine.Group), s.group? 0 = some g ∧ g.flag 11 = true ∧ s.outstanding 0 11 = false ∧ g.setting 11 = false ∧
      ∃ p ∈ g.pend, p.flag = 11 ∧ p.dst = .s 4 ∧ p.clob = false ∧ ∀ q ∈ g.pend, q.flag = 11 → q.dst = .s 4 → q = p) ∧
    (∃ (s : State) (g : Machine.Group), s.group? 0 = some g ∧ g.flag 11 = false ∧ g.fair < 1024 ∧ g.clause ≠ none) ∧
    (∃ (s : State) (g : Machine.Group), s.group? 0 = some g ∧ 1024 ≤ g.fair) ∧
    ∃ (s : State) (g : Machine.Group), s.group? 0 = some g ∧ g.noHelpers g.live = 0 ∧ g.live ≠ 0 ∧ g.flags = 0 ∧ g.clause = none ∧
      ∀ x ∈ g.lanes, x.frag = none := by
  let p : Pending := { flag := 11, dst := .s 4, word := 9 }
  let a : Machine.Group := { tgrp [] [] with flags := 0x800, pend := [p] }
  let b : Machine.Group := { tgrp [] [] with fair := 1024 }
  let c : Machine.Group := { tgrp [] [] with flags := 0, clause := none, lanes := [{ st := .runnable, helper := true }] }
  exact ⟨⟨tst a, a, rfl, by decide +kernel, by decide +kernel, by decide +kernel, by decide +kernel⟩,
    ⟨tst (tg0 []), tg0 [], rfl, by decide +kernel⟩, ⟨tst b, b, rfl, by decide +kernel⟩, ⟨tst c, c, rfl, by decide +kernel⟩⟩

/-- GroupSteps: results for a vector register, overwritten meanwhile, and for a hypervector register. -/
theorem test_hyp_Delivered : ∃ (s : State) (g : Machine.Group), s.group? 0 = some g ∧ g.flag 11 = true ∧ s.outstanding 0 11 = false ∧
    g.setting 11 = false ∧ (∃ p ∈ g.pend, p.flag = 11 ∧ p.dst = .v 0 391 ∧ p.clob = true ∧ 0 < g.lanes.length ∧
      ∀ q ∈ g.pend, q.flag = 11 → q.dst = .v 0 391 → q = p) ∧
    ∃ p ∈ g.pend, p.flag = 11 ∧ p.dst = .h 15 ∧ ∀ q ∈ g.pend, q.flag = 11 → q.dst = .h 15 → q = p := by
  let a : Machine.Group := { tgrp [] [] with
    flags := 0x800
    pend := [{ flag := 11, dst := .v 0 391, word := 9, clob := true }, { flag := 11, dst := .h 15, word := 0 }] }
  exact ⟨tst a, a, rfl, by decide +kernel⟩

/-- A task of one block of one thread. -/
def tplain : TaskRec := { hostTask with vregs := 8, sregs := 16, hcount := 0, ccount := 0, zcount := 0 }

/-- Its grid. -/
def tplainGrid : Grid :=
  { uid := 7, slot := 1, task := tplain, bytes := [], kind := .compute, name := 0, watch := [], dispatch := none, placed := 0
    done := 0, scalars := [], only := none, frags := [] }

/-- Partition 7 with that grid at the head of its highest queue, cluster 7 admitted to it with these budgets. -/
def tplace (energy current : Nat) (holds : List Nat) : State :=
  { State.reset with
    grids := [tplainGrid], ctxs := [{ slot := 1, state := .live, ccb := { part := 7 } }]
    queue := [{ part := 7, prio := 6, slot := 1, what := .grid 7 }]
    clusters := [(7, { part := 7, energyBudget := energy, currentBudget := current, left := energy, holds := holds })] }

/-- Placement: an entry that fits, one that a hold keeps out, a partition with an empty queue. -/
theorem test_hyp_Placement :
    (∃ (s : State) (e : QEntry) (n : TaskRec × Option (List Nat)), s.queueHead 7 = some e ∧ s.needOf e.what = some n ∧
      s.tileHeld e = false ∧ someSat (s.clusterFor none e n) (fun _ => true) = true) ∧
    (∃ (s : State) (e : QEntry) (n : TaskRec × Option (List Nat)), s.queueHead 7 = some e ∧ s.needOf e.what = some n ∧
      s.tileHeld e = false ∧ s.clusterFor none e n = none ∧ e.prio < 7) ∧
    ∃ s : State, s.queueHead 7 = none := by
  let e : QEntry := { part := 7, prio := 6, slot := 1, what := .grid 7 }
  exact ⟨⟨tplace 1000 1000 [], e, (tplain, none), rfl, rfl, rfl, by decide +kernel⟩,
    ⟨tplace 1000 1000 [0], e, (tplain, none), rfl, rfl, rfl, by decide +kernel⟩, ⟨State.reset, rfl⟩⟩

/-- A stopped block of one group, asked to stop for queue 7, with this many bytes of save area. -/
def tstop (size : Word) (pixel : Bool) : State :=
  let g : Machine.Group := { tgrp [] [] with clause := none, flags := 0, pixel := pixel }
  { tst g with preempting := [(0, .queue7)], parts := [(0, { saveSize := size })] }

/-- Placement: a stopped block whose record fits the area, and one whose record does not; a pixel group that the watchdog
has not stopped. -/
theorem test_hyp_BlockSave :
    (∃ (s : State) (b : Block), s.block? 0 = some b ∧ s.preempting.find? (fun p => p.1 == 0) = some (0, .queue7) ∧
      (s.groups.filter fun g => g.block == 0) ≠ [] ∧ (∀ g ∈ s.groups.filter fun g => g.block == 0, g.halted = true) ∧
      s.drained b = true ∧ recordSize b (s.groups.filter fun g => g.block == 0) (s.conts.filter fun c => c.block == 0) +
        (s.partOf (s.cluster b.cluster).part).used ≤ (s.partOf (s.cluster b.cluster).part).saveSize.toNat) ∧
    (∃ (s : State) (b : Block), s.block? 0 = some b ∧ s.preempting.find? (fun p => p.1 == 0) = some (0, .queue7) ∧
      (s.groups.filter fun g => g.block == 0) ≠ [] ∧ (∀ g ∈ s.groups.filter fun g => g.block == 0, g.halted = true) ∧
      s.drained b = true ∧ (s.partOf (s.cluster b.cluster).part).saveSize.toNat <
        recordSize b (s.groups.filter fun g => g.block == 0) (s.conts.filter fun c => c.block == 0) +
        (s.partOf (s.cluster b.cluster).part).used) ∧
    ∃ (s : State) (g : Machine.Group), s.group? 0 = some g ∧ g.pixel = true ∧ g.expired = false ∧
      ∃ p ∈ s.preempting, p.1 = g.block :=
  ⟨⟨tstop 0x40000000 false, hostBlock 1, rfl, rfl, by decide +kernel⟩, ⟨tstop 0 false, hostBlock 1, rfl, rfl, by decide +kernel⟩,
    ⟨tstop 0 true, _, rfl, rfl, rfl, _, .head _, rfl⟩⟩

/-- IntervalsAndHeads: no entry waits for a cluster's partition, and one whose charge the budget covers does. -/
theorem test_hyp_Boundary : (∃ s : State, s.queueHead (s.cluster 7).part = none) ∧
    ∃ (s : State) (e : QEntry) (need : TaskRec × Option (List Nat)), s.queueHead (s.cluster 7).part = some e ∧
      s.needOf e.what = some need ∧ (need.1.charges 1 1).1 ≤ (s.cluster 7).energyBudget :=
  ⟨⟨State.reset, rfl⟩, tplace 1000 1000 [], { part := 7, prio := 6, slot := 1, what := .grid 7 }, (tplain, none), rfl, rfl,
    by decide +kernel⟩

/-- IntervalsAndHeads: a head that runs, and one that does not. -/
theorem test_hyp_DisplayHeads :
    (∃ s : State, (s.head 3).ctl.getLsbD 0 = true ∧ (s.head 3).period ≠ 0) ∧ ∃ s : State, (s.head 3).period = 0 :=
  ⟨⟨{ State.reset with heads := [(3, { ctl := 1, period := 1 })] }, by decide +kernel⟩, ⟨State.reset, rfl⟩⟩

/-! ### Faults and requests -/

/-- A pending fault record of the group. -/
def trec : Record :=
  { num := 4, code := .notmapped, source := 2, slot := 1, core := 0, cluster := 0, bid := 0, gid := 0, write := false
    atomic := false, helper := false, waiters := 1, mask := 1, addr := 0, header := 8, word := 12, aux := 0, arg := 0, level := 0
    answer := 0, who := [(0, 1)], block := 0, unit := false, ring := none }

/-- FaultAnswers: a pending record of a resident group with the least and the greatest answer; no record; lanes parked for
it; a clause that waits for a place in the fault buffer, full and not. -/
theorem test_hyp_FaultAnswers :
    (∃ (s : State) (r : Record) (a : Word), s.records.find? (fun r => r.num == 4) = some r ∧ (a = 4 ∨ a = 1) ∧ a.toNat ≤ 4 ∧
      (∀ u ∈ r.groups, s.savedGroup u = false) ∧ r.draws = [] ∧ r.code ≠ .brk) ∧
    (∃ (s : State) (r : Record), s.records.find? (fun r => r.num == 4) = some r ∧
      (∀ u ∈ r.groups, s.savedGroup u = false) ∧ r.draws = [] ∧ r.code = .brk) ∧
    (∃ (s : State) (r : Record) (g : Machine.Group) (c : Clause), (∀ o ∈ s.lateOps, o.record ≠ some r.num) ∧
      (∀ x ∈ s.replayed, x.record ≠ some r.num) ∧ (∀ e ∈ s.engines, e.record ≠ some r.num) ∧ s.group? 0 = some g ∧
      0 ∈ r.groups ∧ g.clause = some c ∧ c.wait = some .answers) ∧
    (∃ g : Machine.Group, 0 < g.lanes.length ∧ (g.lane 0).st = .parked (.fault 4)) ∧
    (∃ (s : State) (g : Machine.Group), s.group? 0 = some g ∧ 256 ≤ s.buffered (s.clusterOf g)) ∧
    ∃ (s : State) (g : Machine.Group) (c : Clause), s.group? 0 = some g ∧ s.buffered (s.clusterOf g) < 256 ∧ g.clause = some c ∧
      c.wait = some .faultBuffer ∧ (∀ r ∈ s.replayed, r.group = 0 → r.record ≠ none) ∧
      ∀ e ∈ s.engines, e.group = 0 → e.record ≠ none := by
  let g : Machine.Group := { tgrp [] [] with clause := some { tcl with wait := some .faultBuffer } }
  let p : Machine.Group := { tgrp [] [] with lanes := [{ st := .parked (.fault 4) }] }
  let w : Machine.Group := { tgrp [] [] with clause := some { tcl with wait := some .answers } }
  exact ⟨⟨{ tst (tg0 []) with records := [trec] }, trec, 4, rfl, .inl rfl, by decide +kernel⟩,
    ⟨{ tst (tg0 []) with records := [{ trec with code := .brk }] }, { trec with code := .brk }, rfl, by decide +kernel⟩,
    ⟨{ tst w with records := [trec] }, trec, w, { tcl with wait := some .answers }, by decide +kernel, by decide +kernel,
      by decide +kernel, rfl, by decide +kernel, rfl, rfl⟩, ⟨p, by decide +kernel⟩,
    ⟨{ tst (tg0 []) with records := List.replicate 256 trec }, tg0 [], rfl, by decide +kernel⟩,
    ⟨tst g, g, { tcl with wait := some .faultBuffer }, rfl, by decide +kernel, rfl, rfl, by decide +kernel⟩⟩

/-- FaultAnswers: SKIP of a record whose lanes are parked, and of one whose group waits at its instruction; KILL and
RELAUNCH of a record of a resident group. -/
theorem test_hyp_Skips :
    (∃ (s : State) (r : Record) (g : Machine.Group), s.skipKills r = [] ∧ s.engineGroups r = [] ∧
      (∀ x ∈ s.replayed, x.record ≠ some r.num) ∧ (∀ x ∈ s.xalls, x.record ≠ some r.num) ∧ (r.who.map fun e => e.1).Nodup ∧
      (0, 1) ∈ r.who ∧ s.group? 0 = some g ∧ ∃ x ∈ g.lanes, x.st = .parked (.fault r.num)) ∧
    (∃ (s : State) (r : Record) (g : Machine.Group) (c : Clause), s.skipKills r = [] ∧ s.engineGroups r = [] ∧
      (∀ x ∈ s.replayed, x.record ≠ some r.num) ∧ (∀ x ∈ s.xalls, x.record ≠ some r.num) ∧ (0, 1) ∈ r.who ∧ s.group? 0 = some g ∧
      g.faulted r.num = false ∧ s.stalled r.num 0 = false ∧ g.clause = some c ∧ c.wait = some .answers ∧ c.exec &&& 1 ≠ 0) ∧
    ∃ (s : State) (r : Record) (g : Machine.Group) (b : Block), (s.groups.map fun x => x.uid).Nodup ∧ 0 ∈ r.groups ∧
      s.group? 0 = some g ∧ s.block? g.block = some b ∧ b.relaunches = 1 ∧ b.kind = .compute := by
  let p : Machine.Group := { tgrp [] [] with clause := none, lanes := [{ st := .parked (.fault 4) }] }
  let w : Machine.Group := { tgrp [] [] with clause := some { tcl with wait := some .answers } }
  let r : Record := { trec with source := 1, code := .user }
  exact ⟨⟨{ tst p with records := [r] }, r, p, by decide +kernel⟩,
    ⟨{ tst w with records := [r] }, r, w, { tcl with wait := some .answers }, by decide +kernel, by decide +kernel,
      by decide +kernel, by decide +kernel, by decide +kernel, rfl, by decide +kernel, by decide +kernel, rfl, by decide +kernel⟩,
    ⟨{ tst p with blocks := [{ hostBlock 1 with relaunches := 1 }] }, trec, p, { hostBlock 1 with relaunches := 1 }, by decide +kernel⟩⟩

/-- A request for slot 1 on connection 5. -/
def treq (bad : Bool) (slot : Slot) : Req := { conn := 5, tag := 1, slot := slot, stamp := 0, malformed := bad }

/-- The machine with a running service and slot 1 bound to a connection. -/
def tserve (g : Machine.Group) (conn : Option Nat) (debug : Bool) : State :=
  { tst g with
    running := some { offset := 0, length := 0, entry := 0 }
    ctxs := [{ slot := 1, state := .live, conn := conn, token := some 6,
               ccb := { ptroot := 0x1000, routeBase := 0x5000, debug := debug } }] }

/-- Served: slot 1 bound to the request's connection. -/
theorem served (g : Machine.Group) (debug : Bool) : Served (tserve g (some 5) debug) (treq false 1) :=
  ⟨by simp [tserve], rfl, by decide, by cases debug <;> exact (fun h => nomatch h), rfl⟩

/-- Requests: each way of a request that is refused; CREATE of a FREE slot with a good image, and of one that is not. -/
theorem test_hyp_RequestChecks :
    (∃ (q : Req) (s : State), s.running ≠ none ∧ q.bad = true) ∧
    (∃ (q : Req) (s : State), s.running ≠ none ∧ q.bad = false ∧ q.slot.val = 2 ∧ (s.ctx 2).state = .free) ∧
    (∃ (q : Req) (s : State), s.running ≠ none ∧ q.bad = false ∧ q.slot.val = 1 ∧ (s.ctx 1).state ≠ .free ∧
      (s.ctx 1).conn ≠ some q.conn) ∧
    (∃ (q : Req) (a : DWord) (s : State), s.running ≠ none ∧ q.bad = false ∧ q.slot.val = 63 ∧ (s.ctx 63).state = .free ∧
      a.toNat < 2 ^ 52 ∧ a.toNat % 4096 = 0 ∧ s.imageBad 63 (Memory.reads s.mem a.toNat 256) = false) ∧
    ∃ (q : Req) (s : State), Served s q ∧ (s.ctx q.slot.val).state = .live :=
  ⟨⟨treq true 1, tserve (tg0 []) none false, by decide +kernel⟩, ⟨treq false 2, tserve (tg0 []) none false, by decide +kernel⟩,
    ⟨treq false 1, tserve (tg0 []) none false, by decide +kernel⟩,
    ⟨treq false 63, 0x20000, { tserve (tg0 []) none false with mem := [(0x20000, 63), (0x20006, 0x15)] }, by decide +kernel⟩,
    ⟨treq false 1, _, served (tg0 []) false, rfl⟩⟩

/-- Requests: MAP of an entry of the slot's own tables, valid before and after and not, and of an entry with a reserved
bit set; UNMAP of a unit that has a leaf; RESIDENCY of the last level of an LOD resource; ENQUEUE on a route with room;
READ and WRITE of bytes that are mapped. -/
theorem test_hyp_MemoryRequests : let s := (tserve (tg0 []) (some 5) false).callHalted
    inTables s.mem 1 0x3030 4 0x1000 = true ∧ revalid s.mem (0x3000, 0) = false ∧ revalid s.mem (0x3000, 1) = true ∧
    s.barred 0 0x0FF000000000000F = false ∧ s.barred 0 0x0FF00000000000EF = true ∧
    (match s.walk 1 (vaUnit 0x10000 * 65536) with | .leaf _ => true | _ => false) = true ∧
    someSat (s.reqDesc 1 0x7000) (fun d => decide (d.levels = 1) &&
      someSat (s.setResident 1 d 1 0 false) (fun t => decide (t.outbox = s.outbox))) = true ∧
    decide ((State.enqueueAll 1 0 [7] 0 s).2 = (1, .ok)) = true ∧
    okSat (s.readRange (s.reqWho 1) 17 0x10000 16) (fun _ => true) = true ∧
    okSat (s.storeRun (s.reqWho 1) 2 0x10000 [((7 : Byte), false)]) (fun _ => true) = true := by
  decide +kernel

/-- OtherRequests: the context of a bound slot with DEBUG and without, in a partition with a cluster; a well-formed watch
specification; a slot with another bind token, and with this one and unbound. -/
theorem test_hyp_ServiceRequests :
    Served (tserve (tg0 []) (some 5) true) (treq false 1) ∧ Served (tserve (tg0 []) (some 5) false) (treq false 1) ∧
    (tserve (tg0 []) (some 5) true).clustersOf 0 ≠ [] ∧ (∃ x : List Byte, x.length = 64 ∧ specBad x = false) ∧
    (∃ (s : State) (t : DWord), (s.ctx 1).token ≠ some t) ∧ (∃ (s : State) (t : DWord), (s.ctx 1).token = some t ∧ (s.ctx 1).conn = none) ∧
    (∃ (s : State) (t : DWord), (s.ctx 1).token = some t ∧ (s.ctx 1).conn ≠ none) ∧
    (∃ s : State, s.ras = [] ∧ s.rasDropped = 0) ∧ ∃ s t : State, s.leaf = 32767 ∧ t.leaf = 32768 :=
  ⟨served _ true, served _ false, by decide +kernel, ⟨List.replicate 64 0, rfl, by decide +kernel⟩,
    ⟨tserve (tg0 []) none true, 5, by decide +kernel⟩, ⟨tserve (tg0 []) none true, 6, by decide +kernel⟩,
    ⟨tserve (tg0 []) (some 5) true, 6, by decide +kernel⟩,
    ⟨State.reset, rfl, rfl⟩, ⟨{ State.reset with leaf := 32767 }, { State.reset with leaf := 32768 }, rfl, rfl⟩⟩

/-- OtherRequests: the events that await an answer. -/
theorem test_hyp_EventAnswers :
    let s (a : Awaited) : State := { tserve (tg0 []) (some 5) false with awaited := [(3, 1, 9, a)], records := [trec] }
    ((s (.svc 0 1)).eventOf 1 9 = some (3, .svc 0 1)) ∧
    ((s (.fault 4)).eventOf 1 9 = some (3, .fault 4) ∧ (s (.fault 4)).records.find? (fun r => r.num == 4) = some trec) ∧
    (s (.brk 4)).eventOf 1 9 = some (3, .brk 4) ∧ trec ∈ (s (.brk 4)).records ∧ 0 ∈ trec.groups ∧
      (s (.brk 4)).group? 0 = some (tg0 []) := by
  decide +kernel

/-! ### Errors, links, boot -/

/-- Errors: three corrected errors of a block in the window; a page that is retired, and a table with room. -/
theorem test_hyp_Retirement :
    (∃ (s : State) (a t : Nat), (s.corrected.filter fun e =>
      decide (t ≤ e.2 + 600000000) && e.1 == a / 64 * 64).length = 3) ∧
    (∃ s : State, s.running ≠ none ∧ 65536 / 65536 ∈ s.retired) ∧
    ∃ (s : State) (tier : Nat × Nat), (s.retired.filter fun p => tierOf (p * 65536) == tier).length ≤ 4096 :=
  ⟨⟨{ State.reset with corrected := [(64, 1), (64, 2), (64, 3)] }, 70, 600000001, by decide +kernel⟩,
    ⟨{ tserve (tg0 []) none false with retired := [1] }, by decide +kernel⟩, State.reset, (0, 0), by decide +kernel⟩

/-- Errors: a group with a lane; a core with no error in the window and a block, one with an error in it and a block. -/
theorem test_hyp_Errors :
    (∃ (s : State) (g : Machine.Group), s.group? 0 = some g ∧ 7 < g.lanes.length) ∧
    (∃ (s : State) (b : Block), s.block? 0 = some b ∧ b.relaunches < 2 ∧ ∀ e ∈ (s.coreOf 7 31).errors, e + 1000000 < 5) ∧
    (∃ (s : State) (t : Nat), (∀ e ∈ (s.coreOf 7 31).errors, e + 1000000 < t) ∧ (s.coreOf 7 31).errors ≠ []) ∧
    ∃ (s : State) (t : Nat) (b : Block), (∃ e ∈ (s.coreOf 7 31).errors, t ≤ e + 1000000) ∧ b ∈ s.blocksOn 7 31 ∧
      s.block? b.uid = some b ∧ ∀ n, b.kind ≠ .replay n :=
  ⟨⟨tst (tg0 []), tg0 [], rfl, by decide +kernel⟩, ⟨tst (tg0 []), hostBlock 1, rfl, by decide +kernel⟩,
    ⟨{ State.reset with clusters := [(7, { cores := [(31, { errors := [5] })] })] }, 1000006, by decide +kernel⟩,
    ⟨{ tst { tg0 [] with core := 31 } with
        clusters := [(7, { cores := [(31, { errors := [5] })] })]
        blocks := [{ hostBlock 1 with cluster := 7, cores := [(31, 0)] }] }, 1000005,
      { hostBlock 1 with cluster := 7, cores := [(31, 0)] }, by decide +kernel, by decide +kernel, rfl, fun _ h => nomatch h⟩⟩

/-- IntervalsAndHeads and BackgroundAndRails: an engine that is hotter and has not switched; the last core's pool as
the next unit whose period ends; the rails settled and not. -/
theorem test_hyp_Rails :
    (∃ s : State, s.periods = [.pool 255, .telemetry]) ∧ (∃ s : State, (s.cluster 7).engineHot 31 = true ∧ (s.coreOf 7 31).switched = false) ∧
    (∃ s : State, s.sramRail = 800 ∧ (s.cluster 7).rail = 550) ∧ ∃ s : State, s.sramRail ≠ 800 ∧ ∀ n, n < 8 → (s.cluster n).rail = 0 :=
  ⟨⟨{ State.reset with periods := [.pool 255, .telemetry] }, rfl⟩,
    ⟨{ State.reset with clusters := [(7, { sensors := [(62, 13)] })] }, by decide +kernel⟩,
    ⟨{ State.reset with sramRail := 800, clusters := [(7, { rail := 550 })] }, by decide +kernel⟩, ⟨State.reset, by decide +kernel⟩⟩

/-- Links: training with the first port down, the second up and the third of another id, and with no port up; a peer's
store and atomic at the bounds of a tier; a head that runs and one that does not; an offset between two registers. -/
theorem test_hyp_Links :
    (let x : List (Option (Fin 144)) := [none, some 143, some 7]
     x[1]? = some (some 143) ∧ ∀ q, q < 1 → x[q]? = some none) ∧ (∀ e ∈ ([none] : List (Option (Fin 144))).take 18, e = none) ∧
    (∃ s : State, ¬ ((s.head 3).period = 0 ∨ (s.head 3).ctl.getLsbD 0 = false)) ∧ (State.reset.head 3).period = 0 ∧
    (let a : BitVec 17 := 0x20C
     (∀ h, h < 4 → ∀ k ∈ [0, 4, 8], a.toNat ≠ 0x40 * h + k) ∧ (∀ p, p < 8 → ∀ k ∈ [0, 4, 8], a.toNat ≠ 0x200 + 0x20 * p + k) ∧
       a.toNat ∉ [0x10000, 0x10008, 0x1000C]) ∧
    State.reset.peerRange 0 4 = true ∧ unmarked State.reset 0 4 := by
  refine ⟨by decide +kernel, by decide +kernel, ⟨{ State.reset with heads := [(3, { ctl := 1, period := 1 })] }, by decide +kernel⟩,
    rfl, by decide +kernel, by decide +kernel, ?_⟩
  unfold unmarked; decide +kernel

/-- Boot: flash that holds no image. Whether bytes verify as an image rests on the root key, whose hash is a free value. -/
theorem test_hyp_Boot : State.reset.afterReset.image 0 = none ∧ State.reset.afterReset.image 0x4000000 = none := by
  decide +kernel

end Sys2Proof.Tests
end

