-- ==== Sys2Proof/Tests/WitnessMemory.lean ====
section
/-! SUPPORT. Witnesses for the statements about loads, stores, atomics, copies, tokens and barriers: a concrete
state and operands that meet their hypotheses. -/

namespace Sys2Proof.Tests

set_option Elab.async false

open Sys2Proof.Machine Sys2Proof.Claims

set_option maxRecDepth 20000

/-- The leaf of GiB 0: plain memory of this device. -/
def tleaf : Leaf := { base := 0, log2 := 30, kind := .plain, write := true, exec := true, owner := 255, side := 0 }

/-- The leaf of GiB 1: bricks. -/
def tbrick : Leaf :=
  { base := 0x40000000, log2 := 30, kind := .brick, write := true, exec := true, owner := 255, side := 0 }

theorem unmarked_tst (g : Machine.Group) (pa n : Nat) : unmarked (tst g) pa n := fun _ _ => by
  simp [State.marked, State.codedMarks, tst, State.reset]

/-- LoadsDeliver, StoresPut, Atomics and SpecialLoads: the vector memory instructions may perform. The base s4 is
0x100 for plain memory; v6 is 0. -/
theorem test_hyp_LanesReady (z : LdSize) :
    (Meets (.ld z 8 4 0) fun s g c => LanesReady s g c (.ld z 8 4 0) (loadOp z (.base 4 0))) ∧
    (Meets (.lds z 8 4 0) fun s g c => LanesReady s g c (.lds z 8 4 0) (localLoadOp false z (.base 4 0))) ∧
    (Meets (.ldc z 8 4 0) fun s g c => LanesReady s g c (.ldc z 8 4 0) (localLoadOp true z (.base 4 0))) ∧
    (Meets (.stX z .none none 8 (.base 4 0)) fun s g c =>
      LanesReady s g c (.stX z .none none 8 (.base 4 0)) (storeOp z .none 8 (.base 4 0))) ∧
    (Meets (.stsX z .none none 8 (.base 4 0)) fun s g c =>
      LanesReady s g c (.stsX z .none none 8 (.base 4 0)) (localStoreOp false z .none 8 (.base 4 0))) ∧
    (Meets (.stcX z .none none 8 (.base 4 0)) fun s g c =>
      LanesReady s g c (.stcX z .none none 8 (.base 4 0)) (localStoreOp true z .none 8 (.base 4 0))) ∧
    (Meets (.atom .add .u32 .rlx .dev 8 (.base 4 0) 6) fun s g c =>
      LanesReady s g c (.atom .add .u32 .rlx .dev 8 (.base 4 0) 6) (atomOp .add .u32 (.base 4 0) 6 true)) ∧
    (Meets (.red .add .u32 .rlx .dev (.base 4 0) 6) fun s g c =>
      LanesReady s g c (.red .add .u32 .rlx .dev (.base 4 0) 6) (atomOp .add .u32 (.base 4 0) 6 false)) ∧
    (Meets (.atomx .add .u32 .rlx .dev 8 (.base 4 0) 6) fun s g c =>
      LanesReady s g c (.atomx .add .u32 .rlx .dev 8 (.base 4 0) 6) (atomOp .add .u32 (.base 4 0) 6 true)) ∧
    Meets (.atoms .add .u32 .rlx .core 8 (.base 4 0) 6) fun s g c =>
      LanesReady s g c (.atoms .add .u32 .rlx .core 8 (.base 4 0) 6) (atomSpadOp .add .u32 (.base 4 0) 6) := by
  refine ⟨meets1 [(4, 0x100)] [] ⟨?_, ?_, ?_⟩, meets1 [(4, 0x100)] [] ⟨?_, ?_, ?_⟩, meets1 [(4, 0x100)] [] ⟨?_, ?_, ?_⟩,
    meets1 [(4, 0x100)] [] ⟨?_, ?_, ?_⟩, meets1 [(4, 0x100)] [] ⟨?_, ?_, ?_⟩, meets1 [(4, 0x100)] [] ⟨?_, ?_, ?_⟩,
    meets1 [(4, 0x100)] [] ⟨?_, ?_, ?_⟩, meets1 [(4, 0x100)] [] ⟨?_, ?_, ?_⟩, meets1 [(4, 0x100)] [] ⟨?_, ?_, ?_⟩,
    meets1 [(4, 0x100)] [] ⟨?_, ?_, ?_⟩⟩
  all_goals cases z <;> decide +kernel

/-- LoadsDeliver: the scalar load, what a load of plain memory and of scratchpad reaches. -/
theorem test_hyp_LoadsDeliver :
    (Meets (.sld .b64 8 4 0) fun s g c => (∀ l ∈ lanesOf c.exec, s.blocked g (.sld .b64 8 4 0) l
        ((scalarLoadOp .b64 8 (.base 4 0)).span s g) = false) ∧
      ∃ x, (scalarLoadOp .b64 8 (.base 4 0)).run s g c.exec = .ok x ∧ x.words.length = 2) ∧
    (∃ g, (tst g).replayOf g = none ∧ wellFormed (globalAddr (tst g) g 0 16 (.base 4 0)) 16 ∧
      plainAt (tst g) g (globalAddr (tst g) g 0 16 (.base 4 0)) 16 .read 0x100 ∧ unmarked (tst g) 0x100 16) ∧
    ∃ (g : Machine.Group) (b : Block), (tst g).locate g false (localAddr (tst g) g 0 16 (.base 4 0)).toNat 16 = .ok (b.uid, 0x100) ∧
      (tst g).block? b.uid = some b ∧
      ∀ i, i < 16 → (tst g).inSerai b.uid (0x100 + i) = false ∧ b.spadPoison.contains (0x100 + i) = false := by
  refine ⟨meets1 [(4, 0x100)] [] ⟨by decide +kernel, ?_⟩, ⟨tgrp [(4, 0x100)] [], rfl, ?_, ⟨by decide +kernel, tleaf, by decide +kernel,
    rfl, by decide, rfl, by decide⟩, unmarked_tst _ _ _⟩, tgrp [(4, 0x100)] [], hostBlock 1, by decide +kernel, rfl,
    by decide +kernel⟩
  · have h : okSat ((scalarLoadOp .b64 8 (.base 4 0)).run (tst (tgrp [(4, 0x100)] [])) (tgrp [(4, 0x100)] []) tcl.exec)
      (fun x => decide (x.words.length = 2)) = true := by decide +kernel
    obtain ⟨x, h1, h2⟩ := of_okSat h
    exact ⟨x, h1, by simpa using h2⟩
  · unfold wellFormed; decide +kernel

/-- AddressChecks: an address that is not canonical, one that is not aligned, a broken entry, one not mapped, a page
that may not be written, and a scratchpad address past the block's part. -/
theorem test_hyp_AddressChecks : (∃ g, canonical (globalAddr (tst g) g 0 4 (.base 4 0)) = false) ∧
    (∃ g, canonical (globalAddr (tst g) g 0 4 (.base 4 0)) = true ∧ (globalAddr (tst g) g 0 4 (.base 4 0)).toNat % 4 ≠ 0) ∧
    (∃ g, wellFormed (globalAddr (tst g) g 0 4 (.base 4 0)) 4 ∧
      (tst g).lookup ((tst g).who g) (globalAddr (tst g) g 0 4 (.base 4 0)).toNat = .bad 2) ∧
    (∃ g, wellFormed (globalAddr (tst g) g 0 4 (.base 4 0)) 4 ∧
      (tst g).lookup ((tst g).who g) (globalAddr (tst g) g 0 4 (.base 4 0)).toNat = .invalid false 2) ∧
    (∃ g leaf, wellFormed (globalAddr (tst g) g 0 4 (.base 4 0)) 4 ∧
      (tst g).lookup ((tst g).who g) (globalAddr (tst g) g 0 4 (.base 4 0)).toNat = .leaf leaf ∧ leaf.write = false) ∧
    ∃ g b, (tst g).blockOf g = some b ∧ b.spadBad (localAddr (tst g) g 0 4 (.base 4 0)).toNat 4 = true := by
  unfold wellFormed
  exact ⟨⟨tgrp [(5, 0x02000000)] [], by decide +kernel⟩, ⟨tgrp [(4, 2)] [], by decide +kernel⟩,
    ⟨tgrp [(4, 0xC0000000)] [], by decide +kernel⟩, ⟨tgrp [(4, 0x40000000), (5, 1)] [], by decide +kernel⟩,
    ⟨tgrp [(4, 0x80000000)] [], { tleaf with base := 0x80000000, write := false }, by decide +kernel⟩,
    ⟨tgrp [(4, 32768)] [], hostBlock 1, rfl, by decide +kernel⟩⟩

/-- StoresPut: the scalar store, STBRK with the last registers it may use and past them, a store's page, and a helper
lane. -/
theorem test_hyp_StoresPut :
    (Meets (.sst .b64 8 4 0) fun s g c => (∀ l ∈ lanesOf c.exec, s.blocked g (.sst .b64 8 4 0) l
        ((scalarStoreOp .b64 .none 8 (.base 4 0)).span s g) = false) ∧
      okSat ((scalarStoreOp .b64 .none 8 (.base 4 0)).run s g c.exec) (fun x => decide (x.puts.length = 1)) = true) ∧
    (Meets (.stbrk .bf16 117 (.base 4 0)) fun s g c => 117 + ceilDiv (BrickTy.count .bf16) g.width ≤ 121 ∧
      (∀ l ∈ lanesOf c.exec, s.blocked g (.stbrk .bf16 117 (.base 4 0)) l
        ((brickStoreOp .bf16 117 (.base 4 0)).span s g) = false) ∧
      okSat ((brickStoreOp .bf16 117 (.base 4 0)).run s g c.exec) (fun x => decide (x.puts.length = 1)) = true) ∧
    (Meets (.stbrk .bf16 118 (.base 4 0)) fun _ g _ => 120 < 118 + ceilDiv (BrickTy.count .bf16) g.width) ∧
    (∃ g, LdSize.narrowOk .b16 .f16 ∧ wellFormed (globalAddr (tst g) g 0 2 (.base 4 0)) 2 ∧
      (tst g).reach ((tst g).who g) (globalAddr (tst g) g 0 2 (.base 4 0)).toNat 2 .write = .ok tleaf) ∧
    ∃ x : Lane, x.helper = true := by
  unfold wellFormed
  exact ⟨meets1 [(4, 0x100)] [] (by decide +kernel), meets1 [(4, 0x40000000)] [] (by decide +kernel),
    meets1 [] [] (by decide +kernel), ⟨tgrp [(4, 0x102)] [], by decide +kernel⟩, ⟨{ helper := true }, rfl⟩⟩

/-- StoresPut: a scalar store's page, a place in the scratchpad, a place in that of another block of the cluster in a
replay, a brick's page, and elements of which one is a NaN and elements that are all zeros. -/
theorem test_hyp_StoredBytes :
    (∃ g, LdSize.narrowOk .b16 .bf16 ∧ g.allHelpers 1 = false ∧ wellFormed (globalAddr (tst g) g 0 2 (.base 4 0)) 2 ∧
      (tst g).reach ((tst g).who g) (globalAddr (tst g) g 0 2 (.base 4 0)).toNat 2 .write = .ok tleaf) ∧
    (∃ g, (tst g).locate g false (localAddr (tst g) g 0 16 (.base 4 0)).toNat 16 = .ok (0, 0x100) ∧ g.replay = false) ∧
    (∃ (s : State) (g : Machine.Group), s.locate g true (localAddr s g 0 16 (.base 4 0)).toNat 16 = .ok (7, 0x100) ∧
      g.replay = true ∧ g.block = 0) ∧
    (∃ g, g.allHelpers 1 = false ∧ wellFormed (globalAddr (tst g) g 0 64 (.base 4 0)) 64 ∧
      (tst g).reach ((tst g).who g) (globalAddr (tst g) g 0 64 (.base 4 0)).toNat 64 .brickWrite = .ok tbrick) ∧
    (∃ ws : List Word, ws.length = BrickTy.count (.bfp 3) ∧ ∃ w ∈ ws, f32val w = .nan) ∧
    ∃ ws : List Word, ws.length = BrickTy.count .int8 ∧ ∀ w ∈ ws, w.toNat % 2 ^ 31 = 0 := by
  unfold wellFormed
  refine ⟨⟨tgrp [(4, 0x102)] [], by decide +kernel⟩, ⟨tgrp [(4, 0x100)] [], by decide +kernel⟩, ?_,
    ⟨tgrp [(4, 0x40000000)] [], by decide +kernel⟩, ⟨List.replicate (BrickTy.count (.bfp 3)) 0x7FC00000, List.length_replicate, 0x7FC00000, ?_, by decide +kernel⟩,
    ⟨List.replicate (BrickTy.count .int8) 0x80000000, List.length_replicate, fun w h => ?_⟩⟩
  rotate_left
  · exact List.mem_replicate.2 ⟨by decide, rfl⟩
  · rw [List.eq_of_mem_replicate h]; rfl
  let g : Machine.Group := { tgrp [(4, 0x00200100)] [] with replay := true }
  exact ⟨{ tst g with
    blocks := [hostBlock 1, { hostBlock 1 with uid := 7, bid := 1, cores := [(1, 0)] }] }, g, by decide +kernel⟩

/-- StoreFrame and ScratchStoreFrame: a store to plain memory, and a block. -/
theorem test_hyp_StoreFrames : (∃ p : Put, p.leaf.owner = 255 ∧ p.leaf.kind ≠ .compressed ∧ inDevice p.pa = false ∧
      0 < p.data.length ∧ ¬ footprint p 0x101) ∧ ∃ g b, (tst g).block? b.uid = some b := by
  refine ⟨⟨⟨tleaf, 0x100, [(7, false)]⟩, ?_⟩, tgrp [] [], hostBlock 1, rfl⟩
  unfold footprint; decide +kernel

/-- Atomics: an aligned address of plain memory. -/
theorem test_hyp_Atomics : ∃ g, (tst g).replayOf g = none ∧ wellFormed (globalAddr (tst g) g 0 4 (.base 4 0)) 4 ∧
    plainAt (tst g) g (globalAddr (tst g) g 0 4 (.base 4 0)) 4 .atomic 0x104 ∧ unmarked (tst g) 0x104 4 :=
  ⟨tgrp [(4, 0x104)] [], rfl, by unfold wellFormed; decide +kernel, ⟨by decide +kernel, tleaf, by decide +kernel, rfl, by decide, rfl,
    by decide⟩, unmarked_tst _ _ _⟩

/-- Atomics: an aligned 64-bit location of plain memory, one of the scratchpad, and a helper lane. -/
theorem test_hyp_AtomicPlaces : (∃ g, (tst g).replayOf g = none ∧ wellFormed (globalAddr (tst g) g 0 8 (.base 4 0)) 8 ∧
      plainAt (tst g) g (globalAddr (tst g) g 0 8 (.base 4 0)) 8 .atomic 0x108 ∧ unmarked (tst g) 0x108 8) ∧
    (∃ g, (tst g).locate g false (localAddr (tst g) g 0 8 (.base 4 0)).toNat 8 = .ok ((hostBlock 1).uid, 0x108) ∧
      (tst g).block? (hostBlock 1).uid = some (hostBlock 1) ∧
      ∀ i, i < 8 → (tst g).inSerai (hostBlock 1).uid (0x108 + i) = false ∧ (hostBlock 1).spadPoison.contains (0x108 + i) = false) ∧
    ∃ (g : Machine.Group), (atomOp .add .u32 (.base 4 0) 6 true).kind = .rmw 1 ∧ (g.lane 0).helper = true ∧
      okSat ((atomOp .add .u32 (.base 4 0) 6 true).run (tst g) g 0) (fun _ => true) = true :=
  ⟨⟨tgrp [(4, 0x108)] [], rfl, by unfold wellFormed; decide +kernel, ⟨by decide +kernel, tleaf, by decide +kernel, rfl, by decide,
      rfl, by decide⟩, unmarked_tst _ _ _⟩,
    ⟨tgrp [(4, 0x108)] [], by decide +kernel, rfl, by decide +kernel⟩,
    { tgrp [(4, 0x104)] [] with lanes := [{ pc := 8, st := .runnable, helper := true }] }, rfl, rfl, by decide +kernel⟩

/-- BrickLoads: a brick page; a BFP brick's kind and width. -/
theorem test_hyp_BrickLoads :
    (Meets (.ldbrk 8 (.base 4 0) 6) fun s g c => LanesReady s g c (.ldbrk 8 (.base 4 0) 6) (brickOp (.base 4 0) 6)) ∧
    (∃ g, (tst g).replayOf g = none ∧ wellFormed (globalAddr (tst g) g 0 64 (.base 4 0)) 64 ∧
      plainAt (tst g) g (globalAddr (tst g) g 0 64 (.base 4 0)) 64 .brickRead 0x40000000 ∧ unmarked (tst g) 0x40000000 64) ∧
    (∃ b : List Byte, brickKind b = 7) ∧
    ∃ b : List Byte, b.length = 64 ∧ brickKind b = 1 ∧ brickMw b = 6 ∧ brickE b = 254 := by
  refine ⟨meets1 [(4, 0x40000000)] [] ⟨by decide +kernel, by decide +kernel, by decide +kernel⟩,
    ⟨tgrp [(4, 0x40000000)] [], rfl, ?_, ⟨by decide +kernel, tbrick, by decide +kernel, rfl, by decide, rfl,
      by decide⟩, unmarked_tst _ _ _⟩, ⟨[0xE0], by decide +kernel⟩,
    ⟨0x38 :: 0xFE :: List.replicate 62 0, by decide +kernel⟩⟩
  unfold wellFormed; decide +kernel

/-- LodFallsBack: LDLOD, TEX and TEXG may perform; the wanted level absent and the next one resident; none resident. -/
theorem test_hyp_LodFallsBack :
    (Meets (.ldlod .b32 8 4 0) fun s g c =>
      LanesReady (s.modGroup g.uid unread) (unread g) c (.ldlod .b32 8 4 0) (lodOp 0 .b32 (.base 4 0))) ∧
    (Meets (.tex .level .b128 8 4 20) fun s g c =>
      LanesReady (s.modGroup g.uid unread) (unread g) c (.tex .level .b128 8 4 20) (texLaneOp .level .b128 4 20)) ∧
    (Meets (.texg 3 8 4 20) fun s g c =>
      LanesReady (s.modGroup g.uid unread) (unread g) c (.texg 3 8 4 20) (texgLaneOp 3 4 20)) ∧
    (∃ g, wellFormed (lodAddr (tst g) g 0 4 (.base 4 0)).1 64 ∧ (lodAddr (tst g) g 0 4 (.base 4 0)).2.toNat % 4 = 0 ∧
      okSat ((tst g).lodDesc g (lodAddr (tst g) g 0 4 (.base 4 0)).1) (fun d => decide (d.levels = 1) &&
        decide ((tst g).lodPage g d 0 0 = .absent) &&
        decide ((tst g).lodPage g d 1 0 = .present) &&
        okSat ((tst g).levelBytes g d 1 0 4) (fun b => decide (b.length = 4))) = true) ∧
    ∃ g, wellFormed (lodAddr (tst g) g 0 4 (.base 4 0)).1 64 ∧
      okSat ((tst g).lodDesc g (lodAddr (tst g) g 0 4 (.base 4 0)).1) (fun d => decide (d.levels = 0) &&
        decide ((tst g).lodPage g d 0 0 = .absent)) = true := by
  unfold wellFormed
  exact ⟨meets1 [(4, 0x7000)] [] ⟨by decide +kernel, by decide +kernel, by decide +kernel⟩,
    meets1 [(4, 0x7000)] [] ⟨by decide +kernel, by decide +kernel, by decide +kernel⟩,
    meets1 [(4, 0x7000)] [] ⟨by decide +kernel, by decide +kernel, by decide +kernel⟩,
    ⟨tgrp [(4, 0x7000)] [], by decide +kernel⟩, ⟨tgrp [(4, 0x7200)] [], by decide +kernel⟩⟩

/-- The descriptor that memory holds at 0x7000. -/
def tlod : LodDesc := parseLod (Memory.reads tmem 0x7000 96)

/-- The texels that a list of taps reads. -/
def ttexels (s : State) (g : Machine.Group) (d : LodDesc) (k : Nat) (ts : List (Option Nat)) : List (List Word) :=
  ts.map fun o => match o with
    | none => texelColor d.tfmt none
    | some x => match s.levelBytes g d k x (texelBytes d.tfmt) with
      | .ok b => texelColor d.tfmt (some b)
      | .error _ => []

theorem tapped_of {s : State} {g : Machine.Group} {d : LodDesc} {k : Nat} {ts : List (Option Nat)}
    (h : ∀ o ∈ ts, ∀ x ∈ o, okSat (s.levelBytes g d k x (texelBytes d.tfmt)) (fun _ => true) = true) :
    Tapped s g d k ts (ttexels s g d k ts) := by
  refine ⟨by simp [ttexels], fun n o hn => ?_⟩
  cases o with
  | none => simp [ttexels, hn]
  | some x =>
    obtain ⟨b, hb, -⟩ := of_okSat (h _ (List.mem_of_getElem? hn) x rfl)
    exact ⟨b, hb, by simp [ttexels, hn, hb]⟩

/-- LodFallsBack: a level past the wanted one that has its pages, for LDLOD, TEX and TEXG, and the texels there. -/
theorem test_hyp_Delivers : ∃ g, (tst g).lodDesc g 0x7000 = .ok tlod ∧ tlod.levels ≤ 15 ∧
    readS64 (tst g) g 4 = 0x7000 ∧ texLevel (tst g) g 0 .level tlod 20 = 0 ∧ levelOf (readV (tst g) g 0 22) tlod.levels = 0 ∧
    (let at_ (k : Nat) : Nat := tlod.mapOffset 0 0 k
     Delivers (tst g) g tlod 0 0 (fun k => [at_ k / 65536]) 1 false) ∧
    (let ts (k : Nat) : List (Option Nat) := (tlod.taps k 0 0).1
     let pages (k : Nat) : List Nat := tapPages (ts k)
     Delivers (tst g) g tlod 0 0 pages 1 false ∧
       ∃ cs, Tapped (missed (tst g) g tlod 0 0 (pages 0)).2 g tlod 1 (ts 1) cs) := by
  have low (j : Nat) (h : j < 1) : j = 0 := by omega
  refine ⟨tgrp [(4, 0x7000)] [], by decide +kernel, by decide +kernel, by decide +kernel, by decide +kernel, by decide +kernel,
    ⟨by decide, by decide +kernel, by decide +kernel, fun j _ h => ?_, ?_⟩,
    ⟨by decide, by decide +kernel, by decide +kernel, fun j _ h => ?_, ?_⟩, _, tapped_of ?_⟩
  · rw [low j h]; exact ⟨0, by decide +kernel, by decide +kernel⟩
  · refine ⟨nofun, fun ⟨j, _, h, p, hp, hm⟩ => absurd hm ?_⟩
    revert p; rw [low j h]; decide +kernel
  · rw [low j h]; exact ⟨0, by decide +kernel, by decide +kernel⟩
  · refine ⟨nofun, fun ⟨j, _, h, p, hp, hm⟩ => absurd hm ?_⟩
    revert p; rw [low j h]; decide +kernel
  · decide +kernel

/-- LodFallsBack: the feedback ring absent, and one with room, full, and one that cannot be read. -/
theorem test_hyp_Feedback :
    (∃ g, ((tst g).ctx ((tst g).slotOf g)).ccb.fring = 0) ∧
    (∃ (s : State) (g : Machine.Group), (s.ctx (s.slotOf g)).ccb.fring = 0x7800 ∧
      s.quietLoad (s.lodWho g) 0x7800 16 = some (List.replicate 16 0)) ∧
    (∃ (s : State) (g : Machine.Group), (s.ctx (s.slotOf g)).ccb.fring = 0x5020 ∧
      someSat (s.quietLoad (s.lodWho g) 0x5020 16) (fun h => decide ((BitVec.ofNat 32 (fieldOf h 4 4) -
        BitVec.ofNat 32 (fieldOf h 8 4) : Word).toNat = 2 ^ (fieldOf h 0 4 % 32))) = true) ∧
    ∃ (s : State) (g : Machine.Group), (s.ctx (s.slotOf g)).ccb.fring ≠ 0 ∧
      s.quietLoad (s.lodWho g) (s.ctx (s.slotOf g)).ccb.fring.toNat 16 = none := by
  let s (f : DWord) (m : List Host.Cell) : State := { tst (tgrp [] []) with
    mem := m, ctxs := [{ slot := 1, state := .live, ccb := { ptroot := 0x1000, fring := f } }] }
  exact ⟨⟨tgrp [] [], rfl⟩, ⟨s 0x7800 tmem, tgrp [] [], rfl, by decide +kernel⟩,
    ⟨s 0x5020 (tmem.filter (fun e => decide (e.1 < 0x5020)) ++ [(0x5024, 1)]), tgrp [] [], rfl, by decide +kernel⟩,
    s 0x140000000 tmem, tgrp [] [], by decide +kernel⟩

/-- TextureCoordinates: operands at the ends of the clauses. -/
theorem test_hyp_TextureCoordinates : f32val 0x7FC00000 = .nan ∧ f32val 0x7F800000 = .inf false ∧
    (texelShape 4).1 = 1 := by decide +kernel

/-! ### Copies, tokens, barriers -/

/-- CopiesLand: CPA, CPB of 16 bytes into scratchpad and out of it, FEMARK of a block's last line. -/
theorem test_hyp_CopiesStart :
    (Meets (.cpaB128 4 6 8) fun s g c => ∀ l ∈ lanesOf (g.noHelpers c.exec), copyFree s g (.cpaB128 4 6 8) 16 4 6 8 l ∧
      okSat (cpaLane s g 16 4 6 8 (g.noHelpers c.exec) l) (fun p => decide (p.n = 16)) = true) ∧
    (Meets (.cpb 4 6 8) fun s g c => g.allHelpers c.exec = false ∧ cpbArgs s g 4 6 8 = (false, 0x100, 0x40, 16) ∧
      wellFormed 0x100 16 ∧ (∃ b, s.blockOf g = some b ∧ 0x40 + 16 ≤ b.spadSize) ∧
      (∀ l ∈ lanesOf c.exec, s.blocked g (.cpb 4 6 8) l [{ addr := 0x100, n := 16, spad := none }] = false) ∧
      okSat (cpbStart (s.addPendingAll g.block [(0x40, 16)]) g ((g.copyOf c).withCpb false 0x100 0x40 16) false 0x100 0x40 16)
        (fun t => decide (t.caravans.length = 1)) = true) ∧
    (Meets (.cpb 6 4 8) fun s g c => cpbArgs s g 6 4 8 = (true, 0x100, 0x40, 16) ∧
      s.emptyLines [{ addr := 0x40, n := 16, spad := some g.block }] = [] ∧
      okSat (cpbStart s g ((g.copyOf c).withCpb true 0x100 0x40 16) true 0x100 0x40 16)
        (fun t => decide (t.caravans.length = 1)) = true) ∧
    (Meets (.cpb 6 4 8) fun s g _ => cpbArgs s g 6 4 8 = (true, 0x100, 0x40, 16) ∧
      s.emptyLines [{ addr := 0x40, n := 16, spad := some g.block }] ≠ []) ∧
    Meets (.femarkEmpty 4 6) fun s g _ => (readS s g 4).toNat % 128 = 0 ∧ (readS s g 6).toNat % 128 = 0 ∧
      ∃ k, s.blockOf g = some k ∧ (readS s g 4).toNat + (readS s g 6).toNat = k.spadSize := by
  unfold copyFree wellFormed
  exact ⟨meets1 [(4, 0x40), (6, 0x100)] [] (by decide +kernel),
    meets1 [(4, 0x40), (6, 0x100), (8, 16)] [] ⟨by decide +kernel, by decide +kernel, by decide +kernel, ⟨hostBlock 1, rfl, by decide +kernel⟩,
      by decide +kernel, by decide +kernel⟩,
    meets1 [(4, 0x40), (6, 0x100), (8, 0x80000010)] [] (by decide +kernel),
    meets { tst (tgrp [(4, 0x40), (6, 0x100), (8, 0x80000010)] []) with
      blocks := [(hostBlock 1).mark 0 128 false] } _ _ rfl (by decide) (clean_tgrp _ _) (by decide +kernel),
    meets1 [(4, 32640), (6, 128)] [] ⟨by decide +kernel, by decide +kernel, hostBlock 1, rfl, by decide +kernel⟩⟩

/-- A caravan of one part of 16 bytes for the block. -/
def tcaravan (out : Bool) : Caravan :=
  { num := 3, group := 0, block := 0, flag := some 0, out := out
    parts := [{ lane := 0, ga := 0x100, off := 0x40, n := 16, data := List.replicate 16 (some (5, false)) }]
    mask := 1, word := 12, header := 8, record := none }

/-- CopiesLand: a caravan in each direction, its part, and a clause that waits for a line that is full. -/
theorem test_hyp_CopiesLand :
    (∀ out, ∃ s : State, s.caravans.find? (fun k => k.num == 3) = some (tcaravan out) ∧ (tcaravan out).record = none ∧
      ∃ b, s.block? (tcaravan out).block = some b ∧ (∀ p ∈ (tcaravan out).parts, b.linesFull p.off p.n = true) ∧
        ∀ p ∈ (tcaravan out).parts, ∀ i ∈ linesMet p.off p.n, (b.line i).clob = []) ∧
    ∃ (s : State) (g : Machine.Group) (c : Clause), s.group? 0 = some g ∧ g.clause = some c ∧ c.wait = some (.line [(0, 3)]) ∧
      (∀ e ∈ [(0, 3)], s.lineFull e = true) ∧ ∀ e ∈ s.engines, e.group ≠ 0 := by
  refine ⟨fun out => ⟨{ tst (tgrp [] []) with caravans := [tcaravan out] }, rfl, rfl, hostBlock 1, rfl, ?_, ?_⟩,
    tst { tgrp [] [] with clause := some { tcl with wait := some (.line [(0, 3)]) } }, _, _, rfl, rfl, rfl,
    by decide +kernel, by decide⟩ <;> cases out <;> decide +kernel

/-- Tokens: PREFR of the largest range with a free token slot, with the slot taken, and its completion; TOKW of a
resolved, pending, older and newer token. -/
theorem test_hyp_Tokens :
    (Meets (.prefr 8 4 6) fun s g _ => (readS s g 6).toNat = 2 ^ 26 ∧ canonical (readS64 s g 4) = true ∧
      ((s.ctx (s.slotOf g)).token_ (s.ctx (s.slotOf g)).nextToken).resolved = true) ∧
    (∃ s : State, ∃ g : Machine.Group, s.tokenOps.find? (fun o => o.1 == (1 : Slot).val && o.2.1 == (0 : BitVec 8).toNat) =
      some (1, 0, .prefr 8 4 6, g)) ∧
    (Meets (.tokw 8 4) fun s g _ => ((s.ctxOf g).token_ ((readS s g 4).toNat % 256)).gen -
        BitVec.ofNat 24 ((readS s g 4).toNat / 256) = 0 ∧ ((s.ctxOf g).token_ ((readS s g 4).toNat % 256)).resolved = true) ∧
    (Meets (.tokw 8 4) fun s g _ => (((s.ctxOf g).token_ ((readS s g 4).toNat % 256)).gen -
        BitVec.ofNat 24 ((readS s g 4).toNat / 256)).toNat = 2 ^ 23) ∧
    Meets (.tokw 8 4) fun s g _ => 2 ^ 23 < (((s.ctxOf g).token_ ((readS s g 4).toNat % 256)).gen -
        BitVec.ofNat 24 ((readS s g 4).toNat / 256)).toNat :=
  ⟨meets1 [(6, 0x4000000)] [] (by decide +kernel),
    ⟨{ State.reset with tokenOps := [(1, 0, .prefr 8 4 6, tgrp [] [])] }, tgrp [] [], rfl⟩,
    meets1 [] [] (by decide +kernel), meets1 [(4, 0x80000000)] [] (by decide +kernel),
    meets1 [(4, 0x100)] [] (by decide +kernel)⟩

/-- Tokens: a slot whose token has not resolved. -/
theorem test_hyp_TokenPending : Meets (.prefr 8 4 6) fun s g _ =>
    ((s.ctx (s.slotOf g)).token_ (s.ctx (s.slotOf g)).nextToken).resolved = false ∧
    ((s.ctxOf g).token_ ((readS s g 4).toNat % 256)).resolved = false := by
  refine meets { tst (tgrp [] []) with ctxs := [{ slot := 1, state := .live, tokens := [(0, { resolved := false })] }] }
    _ _ rfl (by decide) (clean_tgrp [] []) (by decide +kernel)

/-- A continuation on the block barrier that has resolved. -/
def tcont : Cont :=
  { block := 0, gid := 0, width := 8, core := 0, role := 0, budget := 512, barrier := true, resolved := true
    token := 0, mask := 1, helpers := 0, label := 0x208, lanes := [], s := [], sPoison := [], pixel := false
    replay := false }

/-- Tokens: WAITC to a marked clause, and a continuation that may spawn. -/
theorem test_hyp_Continuations :
    (Meets (.waitcBarrier 127) fun s g c => s.badTarget { s.who g with replay := none } (c.target (127 : BitVec 14)) none = none) ∧
    ∃ (s : State) (k : Cont) (b : Block) (h : Nat), s.conts[0]? = some k ∧ s.block? k.block = some b ∧ s.contDue k b = true ∧
      s.vecUsed k.block k.core + maskCount k.mask * k.budget * 4 ≤ 32768 * partField b.task.partword 0 ∧
      (s.coreOf b.cluster k.core).fenced = false ∧ (∀ p ∈ s.preempting, p.1 ≠ b.uid) ∧
      findHw (s.occupants b.cluster k.core) b.slot k.width = some h :=
  ⟨meets1 [] [] (by decide +kernel),
    { tst (tgrp [] []) with conts := [tcont] }, tcont, hostBlock 1, 0, rfl, rfl, rfl, by decide +kernel, rfl, by decide,
    by decide +kernel⟩

/-- Barriers: a block all of whose lanes wait, one that has not arrived, and a phase barrier at the last 8 bytes of
the scratchpad with one arrival left. -/
theorem test_hyp_Barriers :
    (∃ (s : State) (b : Block), s.block? 0 = some b ∧ s.barrierReady b = true) ∧
    (∃ (s : State) (b : Block), s.block? 0 = some b ∧ s.barrierReady b = false) ∧
    (∃ s g c, Issues (.mbara 4) s g c ∧
      s.locate g false (readS s g 4).toNat 8 = .ok (g.block, (readS s g 4).toNat) ∧
      s.emptyLines [{ addr := (readS s g 4).toNat, n := 8, spad := some g.block }] = [] ∧
      okSat (s.phaseWord g (readS s g 4).toNat) (fun w => decide (w / 2 ^ 32 % 2 ^ 16 ≠ 0) && decide (w % 2 ^ 16 = 1)) = true) ∧
    ((0x0000000100000001 : BitVec 64).extractLsb' 32 16 ≠ 0 ∧ (0x0000000100000001 : BitVec 64).extractLsb' 0 16 ≠ 0) := by
  refine ⟨⟨tst { tgrp [] [] with clause := none, lanes := [{ st := .bar }] }, hostBlock 1, rfl, by decide +kernel⟩,
    ⟨tst (tgrp [] []), hostBlock 1, rfl, by decide +kernel⟩, ?_, by decide⟩
  let s : State := { tst (tgrp [(4, 32760)] []) with
    blocks := [{ hostBlock 1 with spad := [(32760, 1), (32764, 2)] }] }
  exact meets (P := fun s g _ => s.locate g false (readS s g 4).toNat 8 = .ok (g.block, (readS s g 4).toNat) ∧
      s.emptyLines [{ addr := (readS s g 4).toNat, n := 8, spad := some g.block }] = [] ∧
      okSat (s.phaseWord g (readS s g 4).toNat) (fun w => decide (w / 2 ^ 32 % 2 ^ 16 ≠ 0) && decide (w % 2 ^ 16 = 1)) = true)
    s (tgrp [(4, 32760)] []) tcl rfl (by decide) (clean_tgrp _ _) (by decide +kernel)

/-- Barriers: a phase word of a block's scratchpad, and a lane whose wait on it ends. -/
theorem test_hyp_Phase : ∃ (s : State) (g : Machine.Group) (b : Block), s.locate g false 32760 8 = .ok (b.uid, 32760) ∧
    s.block? b.uid = some b ∧ (∀ i, i < 8 → s.inSerai b.uid (32760 + i) = false ∧ b.spadPoison.contains (32760 + i) = false) ∧
    s.phaseDone g { st := .parked (.phase 32760 true) } = true := by
  let b : Block := { hostBlock 1 with spad := [(32760, 1), (32764, 2)] }
  exact ⟨{ tst (tgrp [] []) with blocks := [b] }, tgrp [] [], b, by decide +kernel, rfl, by decide +kernel, by decide +kernel⟩

/-! ### Collectives -/

/-- An XALL of two parties of which this device is the second. -/
def txall (begun mismatch : Bool) : Xall :=
  { group := 0, slot := 1, flag := some 0, dst := 0, coll := 0, seq := 9, src := 0x8000, dest := 0x9000, bytes := 256
    ids := [7, 3], rank := 1, seen := [(7, [7, 3], 256)], begun := begun, mismatch := mismatch, record := none }

/-- Collectives: a table entry that XALL takes, with the largest size. -/
theorem test_hyp_Xall : Meets (.xall 2 8) fun s g _ => (readS64 s g 8).toNat % 256 = 0 ∧ (readS s g 12).toNat = 2 ^ 26 ∧
    (readS s g 13).toNat = 63 ∧ readS s g 15 = 0 ∧ canonical (readS64 s g 8) = true ∧ canonical (readS64 s g 10) = true ∧
    okSat (s.loadRecord (s.who g) ((s.ctxOf g).ccb.collTab.toNat + 160 * 63) 160) (fun b => !collBad s.podId b) = true := by
  refine meets { tst (tgrp [(8, 0x8000), (10, 0x9000), (12, 0x4000000), (13, 63)] []) with
      podId := some 3
      mem := tmem ++ [(0x9F60, 2), (0x9F61, 1), (0x9F70, 7), (0x9F71, 3)] ++ (List.range 142).map fun k => (0x9F72 + k, 0xFF)
      ctxs := [{ slot := 1, state := .live, ccb := { ptroot := 0x1000, collTab := 0x7800 } }] }
    _ _ rfl (by decide) (clean_tgrp [(8, 0x8000), (10, 0x9000), (12, 0x4000000), (13, 63)] []) (by decide +kernel)

/-- Collectives: CFLUSH of a mapped range, and XALL in a replay. -/
theorem test_hyp_Cflush : (Meets (.cflush 4 6) fun s g c => (readS s g 6).toNat = 2 ^ 30 ∧ canonical (readS64 s g 4) = true ∧
      (∀ l ∈ lanesOf c.exec, s.blocked g (.cflush 4 6) l [{ addr := 0x100, n := 2 ^ 30, spad := none }] = false) ∧
      0 ∈ [0] ∧ s.lookup (s.who g) 0 = .leaf tleaf ∧ tleaf.owner = 255) ∧
    Meets (.xall 2 8) fun _ g _ => g.replay = true :=
  ⟨meets1 [(4, 0x100), (6, 0x40000000)] [] (by decide +kernel),
    meets (tst { tgrp [] [] with replay := true }) _ _ rfl (by decide) (clean_tgrp [] []) rfl⟩

/-- Collectives: a flit before its XALL and one after it; a transfer that can start, one that ends for a mismatch, and
one whose slices have come. -/
theorem test_hyp_XallMoves :
    (∃ (m : XallFlit) (s : State), ∀ x ∈ s.xalls, x.coll = m.coll → x.seq = m.seq → x.begun = true) ∧
    (∃ (m : XallFlit) (s : State) (x : Xall), x ∈ s.xalls ∧ x.coll = m.coll ∧ x.seq = m.seq ∧ x.begun = false) ∧
    (∃ (s : State) (x : Xall), s.xalls[0]? = some x ∧ x.begun = false ∧
      ∀ j id, x.ids[j]? = some id → j = x.rank ∨ ∃ y ∈ x.seen, y.1 = id) ∧
    (∃ (s : State) (x : Xall), s.xalls[0]? = some x ∧ x.begun = true ∧ x.record = none ∧ x.mismatch = true) ∧
    ∃ (s : State) (x : Xall), s.xalls[0]? = some x ∧ x.begun = true ∧ x.record = none ∧ x.mismatch = false ∧
      okSat (s.loadRecord { cl := x.cluster, slot := x.slot } x.src.toNat 512) (fun m =>
        let got (l : List (Nat × List Byte)) : Bool := ((List.range x.ids.length).mapM fun j =>
          s.sliceOf { x with slices := l } ((m.drop (x.rank * x.bytes)).take x.bytes) j).isSome
        got [(0, List.replicate 256 1)] && !got []) = true := by
  refine ⟨⟨⟨0, 9, 7, [7, 3], 256⟩, { State.reset with xalls := [txall true false] }, by decide +kernel⟩,
    ⟨⟨0, 9, 7, [7, 3], 256⟩, { State.reset with xalls := [txall false false] }, txall false false, by decide +kernel⟩,
    ⟨{ State.reset with xalls := [txall false false] }, txall false false, rfl, rfl, ?_⟩,
    ⟨{ State.reset with xalls := [txall true true] }, txall true true, rfl, rfl, rfl, rfl⟩,
    ⟨{ tst (tgrp [] []) with xalls := [txall true false] }, txall true false, rfl, rfl, rfl, rfl, by decide +kernel⟩⟩
  intro j id h
  rcases j with _ | _ | j
  · right; exact ⟨(7, [7, 3], 256), by decide, by simpa [txall] using h⟩
  · left; rfl
  · simp [txall] at h

/-- Collectives: a transfer whose slices have come, with the context's own tables and with those that a saved party's
transfer keeps (R258): what it reads and what it stores. -/
theorem test_hyp_XallLands (r : Option DWord) (hr : r = none ∨ r = some 0x1000) :
    let x : Xall := { txall true false with root := r, slices := [(0, List.replicate 256 1)] }
    let s : State := tst (tgrp [] [])
    okSat ((s.forXall x).loadRecord { cl := x.cluster, slot := x.slot } x.src.toNat 512) (fun m =>
      match (List.range x.ids.length).mapM (s.sliceOf x ((m.drop 256).take 256)) with
      | some slices => okSat ((s.forXall x).storeRun { cl := x.cluster, slot := x.slot } 513 x.dest.toNat
          (slices.flatten.map fun b => (b, false))) fun _ => true
      | none => false) = true := by
  rcases hr with rfl | rfl <;> decide +kernel

end Sys2Proof.Tests
end

