-- ==== Sys2Proof/Tests/WitnessUnits.lean ====
section
/-! SUPPORT. Witnesses for the statements about matrices, hypervectors, generators, traversal, graphics, work
graphs, watches and replays: a concrete state and operands that meet their hypotheses. -/

namespace Sys2Proof.Tests

set_option Elab.async false

open Sys2Proof.Machine Sys2Proof.Claims

set_option maxRecDepth 20000

/-- The engine's run comes to its end. -/
def ranOk (x : EngineOut) : Bool := match x with | .ok _ => true | _ => false

theorem of_ranOk {x : EngineOut} (h : ranOk x = true) : ∃ s, x = .ok s := by
  cases x with
  | ok s => exact ⟨s, rfl⟩
  | wait => cases h
  | fault => cases h

/-! ### Matrices and hypervectors -/

/-- MatrixRuns: MMA whose operands end at the last byte of the scratchpad, and the tile loads and stores. -/
theorem test_hyp_MatrixIssue :
    (Meets (.mma .f32 .whole 15 4 6) fun s g _ => regionsGood s g .f32 .whole 4 6 ∧
      (readS s g 4).toNat + matRows .whole * matPitch .f32 .whole ≤ 32768) ∧
    (Meets (.mldz .f16 3 4) fun s g c => wellFormed (readS64 s g 4) 128 ∧
      runFree s g c (.mldz .f16 3 4) (readS64 s g 4).toNat (4096 * tileSize .f16)) ∧
    (Meets (.mstz .f32 3 4) fun s g c => g.allHelpers c.exec = false ∧ wellFormed (readS64 s g 4) 128) ∧
    Meets (.mqnt .int8 3 4) fun s g c => g.allHelpers c.exec = false ∧ wellFormed (readS64 s g 4) 128 ∧
      runFree s g c (.mqnt .int8 3 4) (readS64 s g 4).toNat 8192 := by
  unfold regionsGood wellFormed runFree
  exact ⟨meets1 [(4, 0x1000)] [] (by decide +kernel), meets1 [(4, 0x8000)] [] (by decide +kernel),
    meets1 [(4, 0x8000)] [] (by decide +kernel), meets1 [(4, 0x8000)] [] (by decide +kernel)⟩

/-- MatrixRuns: an engine whose run of MMA comes to its end, on a tile that nothing uses. -/
theorem test_hyp_MatrixEnds : ∃ (s : State) (g : Machine.Group) (c : Clause) (t : Machine.Group) (s' : State),
    let i : Instr := .mma .f32 (.view 15) 15 4 6
    g.usesOf (Instr.tile i) = [] ∧ (engaged s g c i true).group? g.uid = some t ∧
      (engaged s g c i true).runMatrix t (s.engineOf g c i).src i 0 = .ok s' := by
  let s := tst (tgrp [] [])
  let g := tgrp [] []
  let i : Instr := .mma .f32 (.view 15) 15 4 6
  have h : someSat ((engaged s g tcl i true).group? g.uid) (fun t =>
    ranOk ((engaged s g tcl i true).runMatrix t (s.engineOf g tcl i).src i 0)) = true := by decide +kernel
  obtain ⟨t, ht, h⟩ := of_someSat h
  obtain ⟨s', h'⟩ := of_ranOk h
  exact ⟨s, g, tcl, t, s', by decide +kernel, ht, h'⟩

/-- MatrixRuns: operand regions whose rows can be read, for a tile without marks; a row on full lines with no mark. -/
theorem test_hyp_MatrixRows :
    (∃ (s : State) (g : Machine.Group), s.group? g.uid = some g ∧
      okSat (s.matRegion (s.who g) .f32 (.view 15) (.spad g.block 0) (matRows (.view 15))) (fun _ => true) = true ∧
      okSat (s.matRegion (s.who g) .f32 (.view 15) (.spad g.block 0x1000) (matRows (.view 15))) (fun _ => true) = true ∧
      g.tileBad 15 (matElems (.view 15)) = false) ∧
    ∃ (s : State) (b : Block), s.block? b.uid = some b ∧ (∀ i ∈ linesMet 0 (matPitch .f16 .deep), (b.line i).full = true) ∧
      ∀ i, i < matPitch .f16 .deep → s.inSerai b.uid (0 + i) = false ∧ b.spadPoison.contains (0 + i) = false :=
  ⟨⟨tst (tgrp [] []), tgrp [] [], rfl, by decide +kernel, by decide +kernel, by simp [Machine.Group.tileBad, tgrp, hostGroup]⟩,
    tst (tgrp [] []), hostBlock 1, rfl, by decide +kernel, by decide +kernel⟩

/-- MatrixRuns: an MLOOP of the most iterations on memory, and one of its iterations. -/
theorem test_hyp_Mloop :
    (Meets (.mloop .f16 .whole 2 4) fun s g _ => (loopArgs s g 4).bad = false ∧ (loopArgs s g 4).niter = 65535 ∧
      g.usesOf 2 = [] ∧
      s.loopBreach g (loopArgs s g 4).asp (loopArgs s g 4).abase (loopArgs s g 4).astep (loopArgs s g 4).niter
        (matRows .whole * matPitch .f16 .whole) = false ∧
      s.loopBreach g (loopArgs s g 4).bsp (loopArgs s g 4).bbase (loopArgs s g 4).bstep (loopArgs s g 4).niter
        (matRows .whole * matPitch .f16 .whole) = false) ∧
    ∃ (s : State) (g : Machine.Group) (e : Engine), s.group? 0 = some g ∧ e ∈ s.engines ∧ e.group = 0 ∧ e.record = none ∧
      e.instr = .mloop .f16 (.view 0) 2 4 ∧ e.spoiled = false ∧ (∀ x ∈ s.engines, x = e) ∧
      ∃ s', s.matStep g .f16 (.view 0) 2 (loopRegion g.block (loopArgs s e.src 4).asp (loopArgs s e.src 4).abase
          (loopArgs s e.src 4).astep e.done)
        (loopRegion g.block (loopArgs s e.src 4).bsp (loopArgs s e.src 4).bbase (loopArgs s e.src 4).bstep e.done)
        e.done = .ok s' := by
  refine ⟨meets1 [(8, 0xFFFF)] [] (by decide +kernel), ?_⟩
  let e : Engine := { group := 0, flag := some 0, instr := .mloop .f16 (.view 0) 2 4, src := tgrp [(8, 2)] [], done := 1
                      record := none, word := 12, header := 8 }
  exact ⟨{ tst (tgrp [(8, 2)] []) with engines := [e] }, tgrp [(8, 2)] [], e, rfl, List.mem_singleton.2 rfl, rfl, rfl, rfl, rfl,
    fun x hx => List.mem_singleton.1 hx, of_ranOk (by decide +kernel)⟩

/-- A world whose root page table entry is never-fault: every access is a hole and none faults. -/
def tnf : State :=
  { tst (tgrp [] []) with mem := [(0, 0x10)], ctxs := [{ slot := 1, state := .live }] }

/-- MatrixRuns: MZERO, MLDZ, MSTZ and MQNT of a tile with no marks. -/
theorem test_hyp_Tiles : (∃ g : Machine.Group, g.usesOf 15 = [] ∧ g.tileBad 15 (List.range 4096) = false) ∧
    okSat (tnf.loadRecord (tnf.who (tgrp [] [])) 0 (4096 * tileSize .f16)) (fun b => decide (b.length = 8192)) = true ∧
    (tnf.writeImage (tnf.who (tgrp [] [])) .brickWrite (mqntImage 0x0015 .int8 [] 0) 0).2 = none :=
  ⟨⟨tgrp [] [], rfl, by simp [Machine.Group.tileBad, tgrp, hostGroup]⟩, by decide +kernel, by decide +kernel⟩

/-- Hypervectors: HNEAR over the most vectors, HLD and HST at an aligned address. -/
theorem test_hyp_Hypervectors :
    (Meets (.hnear 4 0 8 6) fun s g _ => (readS s g 6).toNat = 8 ∧ 8 + 8 - 1 < ((s.blockOf g).map (·.task.hcount)).getD 0 ∧
      ∀ j, j < 8 → g.hBad (8 + j) = false) ∧
    (Meets (.hld 15 4 0x40) fun s g c => s.hyperHeld g c (.hld 15 4 0x40) 0x10000 = false ∧ wellFormed (readS64 s g 4 + BitVec.ofInt 64 (64 * (0x40 : BitVec 7).toInt)) 64 ∧
      okSat (s.loadRecord (s.who g) (readS64 s g 4 + BitVec.ofInt 64 (64 * (0x40 : BitVec 7).toInt)).toNat 1024)
        (fun b => decide (b.length = 1024)) = true) ∧
    Meets (.hst 15 4 1) fun s g c => g.allHelpers c.exec = false ∧ s.hyperHeld g c (.hst 15 4 1) 0x10040 = false ∧
      okSat (s.storeRun (s.who g) 1025 0x10040 ((natLe 1024 (readH s g 15).toNat).map fun x => (x, false)))
        (fun ps => decide (ps ≠ [])) = true := by
  unfold wellFormed
  exact ⟨meets1 [(6, 8)] [] (by decide +kernel), meets1 [(4, 0x11000)] [] (by decide +kernel),
    meets1 [(4, 0x10000)] [] (by decide +kernel)⟩

/-! ### Generators and re-packing -/

/-- A generator of four-word entries. -/
def tgen (mode : GenMode) (entries : List (List Word)) : Generator :=
  { offset := 0, cap := 8, words := 4, thr := 8, label := 0x208, mode := mode, entries := entries, head := 0, batchN := 1
    taken := false, batch := [] }

/-- GeneratorOpens: with an open generator, with a capacity of 0, and with the largest serai that a scratchpad of 32
KiB holds. -/
theorem test_hyp_GeneratorOpens :
    (Meets (.gopenW4 4 0 127) fun _ g _ => g.gen ≠ none) ∧
    (Meets (.gopenW4 4 0 127) fun s g _ => g.gen = none ∧ (readS s g 5).toNat = 0) ∧
    Meets (.gopenW4 4 8 127) fun s g c => g.gen = none ∧ (readS s g 5).toNat = 2048 ∧ 8 ≤ g.width ∧
      (readS s g 4).toNat % 16 = 0 ∧
      (∃ b, s.blockOf g = some b ∧ (readS s g 4).toNat + 4 * 4 * (readS s g 5).toNat ≤ b.spadSize) ∧
      (∀ l ∈ lanesOf g.live, (g.lane l).vbase + 256 ≤ g.budget) ∧
      s.badTarget { s.who g with replay := none } (c.target (127 : Word)) none = none :=
  ⟨meets (tst { tgrp [] [] with gen := some (tgen .producer []) }) _ _ rfl (by decide) (clean_tgrp [] []) (by decide +kernel),
    meets1 [] [] (by decide +kernel),
    meets1 [(5, 2048)] [] ⟨rfl, by decide +kernel, by decide +kernel, by decide +kernel, ⟨hostBlock 1, rfl, by decide +kernel⟩,
      by decide +kernel, by decide +kernel⟩⟩

/-- GeneratorPasses: each instruction in its mode, GYIELD from the last registers, and a threshold reached. -/
theorem test_hyp_GeneratorPasses :
    (Meets (.gyield 116) fun _ g c => g.gen = some (tgen .producer []) ∧ ∀ l ∈ lanesOf c.exec, l < g.lanes.length) ∧
    (Meets (.gtake 116) fun _ g _ => g.gen = some (tgen .consumer [[1, 2, 3, 4]]) ∧ g.replay = false) ∧
    (Meets .gback fun _ g _ => g.gen = some (tgen .consumer [])) ∧
    (Meets .gdone fun _ g _ => g.gen = some (tgen .producer [])) ∧
    (Meets .gback fun _ g _ => ∀ x, g.gen = some x → x.mode = .producer) ∧
    (Meets .gdone fun _ g _ => ∀ x, g.gen = some x → x.mode = .consumer) ∧
    (Meets .gclose fun _ g _ => g.gen = some (tgen .producer [])) ∧
    (Meets .gclose fun _ g _ => ∀ x, g.gen = some x → x.mode = .consumer ∨ x.entries ≠ []) ∧
    ∃ g : Machine.Group, g.gen = some { tgen .producer [[1, 2, 3, 4]] with thr := 1 } ∧
      1 ≤ ({ tgen .producer [[1, 2, 3, 4]] with thr := 1 } : Generator).entries.length := by
  refine ⟨?_, ?_, ?_, ?_, ?_, ?_, ?_, ?_, ⟨{ tgrp [] [] with gen := some { tgen .producer [[1, 2, 3, 4]] with thr := 1 } }, rfl, by decide⟩⟩
  · exact meets (tst { tgrp [] [] with gen := some (tgen .producer []) }) _ _ rfl (by decide) (clean_tgrp [] []) (by decide +kernel)
  · exact meets (tst { tgrp [] [] with gen := some (tgen .consumer [[1, 2, 3, 4]]) }) _ _ rfl (by decide) (clean_tgrp [] []) ⟨rfl, rfl⟩
  · exact meets (tst { tgrp [] [] with gen := some (tgen .consumer []) }) _ _ rfl (by decide) (clean_tgrp [] []) rfl
  · exact meets (tst { tgrp [] [] with gen := some (tgen .producer []) }) _ _ rfl (by decide) (clean_tgrp [] []) rfl
  · exact meets (tst { tgrp [] [] with gen := some (tgen .producer []) }) _ _ rfl (by decide) (clean_tgrp [] []) (fun x hx => by cases hx; rfl)
  · exact meets (tst { tgrp [] [] with gen := some (tgen .consumer []) }) _ _ rfl (by decide) (clean_tgrp [] []) (fun x hx => by cases hx; rfl)
  · exact meets (tst { tgrp [] [] with gen := some (tgen .producer []) }) _ _ rfl (by decide) (clean_tgrp [] []) rfl
  · refine meets (tst { tgrp [] [] with gen := some (tgen .consumer []) }) _ _ rfl (by decide) (clean_tgrp [] []) ?_
    intro x hx
    cases hx
    exact .inl rfl

/-- GeneratorOpens: each argument of GOPEN that GENARG names. -/
theorem test_hyp_GeneratorArgs : let no (i : Instr) (P : State → Machine.Group → Prop) : Prop := Meets i fun s g _ => g.gen = none ∧ P s g
    no (.gopenW4 4 0 127) (fun s g => 4096 < (readS s g 5).toNat) ∧ no (.gopenW4 4 8 127) (fun s g => (readS s g 5).toNat < 8) ∧
    no (.gopenW4 4 9 127) (fun _ g => g.width < 9) ∧ no (.gopenW4 4 0 127) (fun s g => (readS s g 4).toNat % 16 ≠ 0) ∧
    no (.gopenW4 4 0 127) (fun s g => ∃ b, s.blockOf g = some b ∧ b.spadSize < (readS s g 4).toNat + 4 * 4 * (readS s g 5).toNat) ∧
    no (.gopenW4 4 0 127) fun _ g => ∃ l ∈ lanesOf g.live, g.budget < (g.lane l).vbase + 256 := by
  refine ⟨meets1 [(5, 4097)] [] (by decide +kernel), meets1 [(5, 7)] [] (by decide +kernel), meets1 [] [] (by decide +kernel),
    meets1 [(4, 8), (5, 8)] [] (by decide +kernel), meets1 [(5, 2049)] [] ⟨rfl, hostBlock 1, rfl, by decide +kernel⟩, ?_⟩
  exact meets (tst { tgrp [] [] with lanes := [{ pc := 8, st := .runnable, vbase := 257 }] }) _ _ rfl (by decide)
    (by unfold Clean; decide +kernel) ⟨rfl, 0, by decide +kernel, by decide +kernel⟩

/-- GeneratorPasses: GYIELD of helper lanes alone, GYIELD and GTAKE in the other mode. -/
theorem test_hyp_GeneratorModes :
    (Meets (.gyield 116) fun _ g c => g.allHelpers c.exec = true) ∧
    (Meets (.gyield 116) fun _ g c => g.allHelpers c.exec = false ∧ ∀ x, g.gen = some x → x.mode = .consumer) ∧
    Meets (.gtake 116) fun _ g _ => ∀ x, g.gen = some x → x.mode = .producer := by
  refine ⟨?_, ?_, meets1 [] [] fun x hx => nomatch hx⟩
  · exact meets (tst { tgrp [] [] with lanes := [{ pc := 8, st := .runnable, helper := true }] }) _ _ rfl (by decide)
      (by unfold Clean; decide +kernel) (by decide +kernel)
  · exact meets (tst { tgrp [] [] with gen := some (tgen .consumer []) }) _ _ rfl (by decide) (clean_tgrp [] [])
      ⟨by decide +kernel, fun x hx => by cases hx; rfl⟩

/-- A pending fault record of cluster 0. -/
def tfull : Record :=
  { num := 0, code := .notmapped, source := 5, slot := 1, core := 0, cluster := 0, bid := 0, gid := 0
    write := false, atomic := false, helper := false, waiters := 0, mask := 0, addr := 0, header := 0
    word := 0, aux := 0, arg := 0, level := 0, answer := 0, who := [], block := 0, unit := true, ring := none }

/-- A group that waits at the REPACK of a word. -/
def twaits (uid role : Nat) : Machine.Group :=
  { tgrp [] [] with uid := uid, gid := uid, role := role, clause := none, flags := 0, lanes := [{ st := .repack 7 12 8 }] }

/-- RepackSorts: outside a generator, inside one, a core whose one group waits, one whose two groups wait with roles that
differ, and a core with a group that does not wait. -/
theorem test_hyp_RepackSorts :
    (Meets (.repack 5) fun _ g _ => g.gen = none) ∧
    (Meets (.repack 5) fun _ g _ => g.gen ≠ none) ∧
    (∃ s : State, let ps := byGid (s.groups.filter fun g => g.block == 0 && g.core == (0 : Fin 32).val)
      ps ≠ [] ∧ (∀ g ∈ ps, g.roleTrap = false) ∧ (∀ g ∈ ps, g.joinedRepack 12 = true) ∧ ∀ g ∈ ps, ∀ h ∈ ps, g.role = h.role) ∧
    (∃ s : State, let ps := byGid (s.groups.filter fun g => g.block == 0 && g.core == (0 : Fin 32).val)
      ps ≠ [] ∧ (∀ g ∈ ps, g.roleTrap = false) ∧ (∀ g ∈ ps, g.joinedRepack 12 = true) ∧ (∃ g ∈ ps, ∃ h ∈ ps, g.role ≠ h.role) ∧
        (ps.foldl (fun t g => t.bind fun s => s.repackRole g) (some s)).isSome = true) ∧
    (∃ s : State, let ps := byGid (s.groups.filter fun g => g.block == 0 && g.core == (0 : Fin 32).val); ∃ g ∈ ps, g.roleTrap = true) ∧
    (∃ (s : State) (g : Machine.Group), s.handlerOf g .repackrole = 0 ∧ 256 ≤ s.buffered (s.clusterOf g) ∧
      (g.lane (maskLowest g.live)).repackAt.isSome = true) ∧
    ∃ s : State, ∀ site, ∃ g ∈ s.groups, g.roleTrap = false ∧ g.block = 0 ∧ g.core = (0 : Fin 32).val ∧ g.joinedRepack site = false :=
  ⟨meets1 [] [] rfl,
    meets (tst { tgrp [] [] with gen := some (tgen .producer []) }) _ _ rfl (by decide) (clean_tgrp [] []) (by decide +kernel),
    ⟨tst (twaits 0 0), by decide +kernel⟩, ⟨{ tst (twaits 0 0) with groups := [twaits 0 0, twaits 1 1] }, by decide +kernel⟩,
    ⟨tst { twaits 0 0 with roleTrap := true }, by decide +kernel⟩,
    ⟨{ tst (twaits 0 0) with records := List.replicate 256 tfull, ctxs := [] }, twaits 0 0, by decide +kernel⟩,
    tst (tgrp [] []), fun _ => ⟨tgrp [] [], .head _, rfl, rfl, rfl, rfl⟩⟩

/-! ### Traversal -/

/-- A walk with a candidate in range and no descriptor read. -/
def twalk : Walk :=
  { ray := List.replicate 8 0, descAt := 0, desc := none, stack := [], tmax := 0x3F800000, hit := none
    cand := some (.tri 0x3F000000 0 0 9), name := 0, watch := [] }

/-- A descriptor of nodes of which those of format 0 are of kind 1 and those of format 1 of none. -/
def tdesc (base : DWord) : TravDesc := { nodeBase := base, root := 0, flags := 0, theta2 := 0, fmt := 1 }

/-- Traversal: TRAVS with a closed walk, a candidate that TRAVC commits at the bound of its range, a lane without a
walk, and a full stack. -/
theorem test_hyp_Traversal :
    (Meets (.travs 8) fun s g c => s.travLong g c.exec = [] ∧ LanesReady s g c (.travs 8) travOp) ∧
    (∃ g : Machine.Group, (g.lane 0).walk = some twalk ∧ f32cond .le twalk.tmin 0x3F800000 = true ∧
      f32cond .le 0x3F800000 twalk.tmax = true ∧ f32cond .le 0x40000000 twalk.tmax = false ∧
      ∀ d, twalk.desc = some d → d.flags.getLsbD 0 = false) ∧
    (∃ g : Machine.Group, (g.lane 0).walk = none) ∧ (∃ w : Walk, w.stack.length = 64) ∧
    (∃ (s : State) (g : Machine.Group) (d : TravDesc), d.kind 0x20000000 = 0 ∧
      okSat (s.travLoad g 0 (d.node 0x20000000) 1) (fun m => !mbBad m) = true) ∧
    (∃ (s : State) (g : Machine.Group) (d : TravDesc), 1 ≤ d.kind 0 ∧ d.kind 0 ≤ 2 ∧
      okSat (s.travLoad g 0 (d.node 0) 2) (fun m => !mbBad m) = true) ∧
    (∃ (s : State) (g : Machine.Group) (d : TravDesc), okSat (s.travLoad g 0 (d.node 0x20000000) 1) (fun _ => true) = false) ∧
    f32cond .gt 0x40000000 twalk.tmax = true :=
  ⟨meets1 [] [] ⟨by decide +kernel, by decide +kernel, by decide +kernel, by decide +kernel⟩,
    ⟨{ tgrp [] [] with lanes := [{ walk := some twalk }] }, by decide +kernel, by decide +kernel, by decide +kernel, by decide +kernel,
      by intro d h; cases h⟩,
    ⟨tgrp [] [], rfl⟩, ⟨{ twalk with stack := List.replicate 64 (0, none) }, by decide⟩,
    ⟨tst (tgrp [] []), tgrp [] [], tdesc 0x10000, by decide +kernel⟩,
    ⟨tst (tgrp [] []), tgrp [] [], tdesc 0x10000, by decide +kernel⟩,
    ⟨tst (tgrp [] []), tgrp [] [], tdesc 0x140000000, by decide +kernel⟩, by decide +kernel⟩

/-! ### Graphics and work graphs -/

/-- The small machine with a draw, its group in a block of a kind. -/
def tpipe (k : BlockKind) (sr ve : Regs) : State :=
  { tst (tgrp sr ve) with draws := [tdraw], blocks := [{ hostBlock 1 with kind := k }] }

/-- GraphicsWords: DRAW of no primitive with a state block that is good, and one that is not; kernels that declare the
least can be placed. -/
theorem test_hyp_Draw : (Meets (.draw 8 4 6) fun s g c => g.replay = false ∧ g.allHelpers c.exec = false ∧
      wellFormed (readS64 s g 4) 256 ∧ (readS s g 6).toNat = 0 ∧
      okSat (s.loadRecord (s.who g) (readS64 s g 4).toNat 256) (fun sb => decide (sb = tsb) && !sbBad sb) = true) ∧
    (Meets (.draw 8 4 6) fun s g c => g.replay = false ∧ g.allHelpers c.exec = false ∧
      wellFormed (readS64 s g 4) 256 ∧
      okSat (s.loadRecord (s.who g) (readS64 s g 4).toNat 256) (fun sb => sbBad sb) = true) ∧
    ((∀ k, Config.kernelPool 1 k = (0, 0) ∧ Config.kernelWidth 1 k = none) → drawUnplaceable 1 tsb 0 0 = false) := by
  unfold wellFormed
  refine ⟨meets1 [(4, 0x8000)] [] (by decide +kernel), meets1 [(4, 0x8100)] [] (by decide +kernel), fun h => ?_⟩
  simp only [drawUnplaceable, vertexTask, binTask, pixelTask, rasterTask, pipeTask, pixelWidth, (h _).1, (h _).2]
  decide +kernel

/-- GraphicsWords: VXEMIT of index 255 and PRIMEMIT of the draw's last primitive of a block. -/
theorem test_hyp_VertexWords :
    (Meets (.vxemit 4 116) fun s g c => g.noHelpers c.exec ≠ 0 ∧ (s.vertexDraw g).isSome = true ∧
      (∀ l ∈ lanesOf (g.noHelpers c.exec), (readV s g l 4).toNat = 255) ∧ spanPoison g (g.noHelpers c.exec) 116 4 = 0 ∧
      116 + sbNat tdraw.sb 41 1 = 120) ∧
    Meets (.primemit 4 6) fun s g c => g.noHelpers c.exec ≠ 0 ∧ (s.vertexDraw g).isSome = true ∧
      ∀ l ∈ lanesOf (g.noHelpers c.exec), (readV s g l 4).toNat / 2 ^ 24 % 2 ^ 7 = 0 ∧
        64 * 0 ≤ (readV s g l 6).toNat ∧ (readV s g l 6).toNat < min 64 tdraw.nprims :=
  ⟨meets (tpipe (.vertex 5) [] [(4, 255)]) (tgrp [] [(4, 255)]) tcl rfl (by decide) (clean_tgrp _ _) (by decide +kernel),
    meets (tpipe (.vertex 5) [] [(4, 0x80020100), (6, 63)]) (tgrp [] [(4, 0x80020100), (6, 63)]) tcl rfl (by decide)
      (clean_tgrp _ _) (by decide +kernel)⟩

/-- GraphicsWords: PXOUT, DEPW and DISCARD in a pixel block, and outside one. -/
theorem test_hyp_PixelWords (i : Instr) :
    (Meets i fun s g c => g.noHelpers c.exec ≠ 0 ∧ ∃ sb, s.pixelSb g = some sb ∧ (sbFlag sb 1 && sbFlag sb 2) = true) ∧
    (Meets i fun s g _ => ∃ sb, s.pixelSb g = some sb ∧ (!sbFlag sb 1 && !sbFlag sb 2) = true) ∧
    Meets i fun s g c => g.noHelpers c.exec ≠ 0 ∧ s.vertexDraw g = none ∧ s.pixelSb g = none :=
  ⟨meets (tpipe (.pixel 5) [] []) (tgrp [] []) tcl rfl (by decide) (clean_tgrp _ _) ⟨by decide +kernel, of_someSat (by decide +kernel)⟩,
    meets { tpipe (.pixel 5) [] [] with draws := [{ tdraw with sb := [] }] } (tgrp [] []) tcl rfl (by decide) (clean_tgrp _ _)
      (of_someSat (by decide +kernel)),
    meets1 [] [] (by decide +kernel)⟩

/-- GraphicsWords: WREC to the second port of node 0, and LINSET of the largest value. -/
theorem test_hyp_RecordWords :
    (Meets (.wrec 4 2 6) fun s g c => g.replay = false ∧ g.noHelpers c.exec ≠ 0 ∧ c.partialDone = 0 ∧
      okSat (s.nodeDesc (s.who g) ((readS s g 4).toNat / 4 % 2 ^ 14)) (fun d => decide ((readS s g 4).toNat % 4 < d.ports) &&
        decide (d.ports ≤ 4) && decide (0 < d.words) && decide (d.words ≤ 8) && decide (6 + d.words ≤ 120) &&
        decide (spanPoison g (g.noHelpers c.exec) 6 d.words = 0)) = true ∧
      (sendRecords (fun l => {
        slot := s.slotOf g, node := (readS s g 4).toNat / 4 % 2 ^ 14, tag := readV s g l 2, port := (readS s g 4).toNat % 4
        words := (List.range 1).map fun j => readV s g l (6 + j)
        name := (g.lane l).lin, watch := (g.lane l).watch, spilled := false }) (lanesOf (g.noHelpers c.exec)) s).2 = []) ∧
    Meets (.linset 2) fun s g c => ∀ l ∈ lanesOf c.exec, (readV s g l 2).toNat < 2 ^ 12 :=
  ⟨meets1 [(4, 1)] [] (by decide +kernel), meets1 [] [(2, 4095)] (by decide +kernel)⟩

/-- PipelineSteps: a step of a job that does not wait: with a fault, without one and nothing changed, and with a
change. -/
theorem test_hyp_FixedSteps : ∃ (s : State) (d : Draw), s.drawWaits d .bin = false ∧
    (∃ (f : Draw → Fixed State) (e : FaultAt) (k : Nat), (f (d.forJob .bin)).run 0 = .error (e, k)) ∧
    (∃ (f : Draw → Fixed State) (k : Nat), (f (d.forJob .bin)).run 0 = .ok (s, k)) ∧
    ∃ (f : Draw → Fixed State) (t : State) (k : Nat), (f (d.forJob .bin)).run 0 = .ok (t, k) ∧ t ≠ s :=
  ⟨{ State.reset with draws := [tdraw] }, tdraw, rfl, ⟨fun _ => throw ({ code := .notmapped, addr := 0 }, 0), _, _, rfl⟩,
    ⟨fun _ => pure _, _, rfl⟩, ⟨fun _ => pure State.reset, _, _, rfl, by decide +kernel⟩⟩

/-- A pipeline step that comes to its end. -/
def fixedOk {α : Type} (x : Fixed α) : Bool := okSat (x.run 0) fun _ => true

/-- A fragment that its kernel has discarded. -/
def tfrag : Frag :=
  { draw := 5, prim := { number := 3, verts := [], culled := false }, x := 0, y := 0, depth := 0, colors := [], depw := none
    helper0 := false, discarded := true, quadCov := 1, quadHelp := 0, name := 0, watch := [], resolve := false }

/-- PipelineSteps: a draw whose record waits, one at its bin stage, a partial and a final render that are due, a
render under way, and a fragment that retires. -/
theorem test_hyp_PipelineSteps :
    (∃ (s : State) (d : Draw), s.draw? 5 = some d ∧ s.drawWaits d .bin = true ∧ s.drawWaits d .render = true) ∧
    (∃ (s : State) (d : Draw), s.draw? 5 = some d ∧ s.drawWaits d .bin = false ∧ (∀ g, d.grid = some g → s.gridDone g = true) ∧
      s.drawHeld d = false ∧ d.stage = .bin ∧ d.requests = [] ∧ d.render = none ∧ sbNat d.sb 16 8 ≠ 0) ∧
    (∃ (s : State) (d : Draw), s.draw? 5 = some d ∧ s.drawWaits d .render = false ∧ d.render = none ∧ s.mayRender d = true ∧
      s.drawHeld d = false ∧ d.cut ≠ some 1 ∧ d.requests ≠ []) ∧
    (∃ (s : State) (d : Draw), s.draw? 5 = some d ∧ s.drawWaits d .render = false ∧ d.render = none ∧ s.mayRender d = true ∧
      s.drawHeld d = false ∧ d.cut ≠ some 1 ∧ d.stage = .rendering ∧ d.requests = []) ∧
    (∃ (s : State) (d : Draw) (r : Render), s.draw? 5 = some d ∧ s.drawWaits d .render = false ∧ d.render = some r) ∧
    ∃ (s : State) (g : Machine.Group) (f : Frag) (d : Draw), s.group? 0 = some g ∧ (g.lane 0).frag = some f ∧
      (g.lane 0).fragPending = true ∧ s.replayOf g = none ∧ s.draw? f.draw = some d ∧ s.drawWaits d (.retire 0 0 3) = false ∧
      d.earlier f = false ∧ d.cut ≠ some 2 ∧ fixedOk ((s.flushCulled d.uid).retireFrag (d.forJob (.retire 0 0 3)) f
        (g.lane 0).lods) = true := by
  let r : Record := { tfull with
                      draws := [(5, { job := 0, nth := 0, addr := 9, write := false }), (5, { job := 1, nth := 0, addr := 9, write := false })] }
  let d1 : Draw := { tdraw with stage := .bin }
  let d2 : Draw := { tdraw with requests := [none] }
  let d3 : Draw := { tdraw with stage := .rendering }
  let v : Render := { final := true, block := none, resolving := false, grids := [] }
  let d4 : Draw := { tdraw with render := some v }
  let d5 : Draw := { tdraw with stage := .rendering, pending := [(0, 0, 3)] }
  let g : Machine.Group := { tgrp [] [] with lanes := [{ frag := some tfrag }] }
  exact ⟨⟨{ State.reset with draws := [tdraw], records := [r] }, tdraw, rfl, by decide +kernel⟩,
    ⟨{ State.reset with draws := [d1] }, d1, rfl, rfl, by decide +kernel⟩,
    ⟨{ State.reset with draws := [d2] }, d2, rfl, rfl, rfl, by decide +kernel, by decide +kernel, by decide, by decide +kernel⟩,
    ⟨{ State.reset with draws := [d3] }, d3, rfl, rfl, rfl, by decide +kernel, by decide +kernel, by decide, rfl, rfl⟩,
    ⟨{ State.reset with draws := [d4] }, d4, v, rfl, rfl, rfl⟩,
    ⟨{ tst g with draws := [d5] }, g, tfrag, d5, rfl, rfl, by decide +kernel, by decide +kernel, rfl, rfl, by decide +kernel,
      by decide, by decide +kernel⟩⟩

/-- PipelineSteps: node 0 has a record at each of its ports, and its task record can be read. -/
theorem test_hyp_NodeFire : ∃ s : State,
    okSat (s.nodeDesc { cl := s.storeOf 1 0 7, slot := 1 } 0) (fun d => someSat
      (firstRecords (s.cluster (s.storeOf 1 0 7)).store 1 0 7 (List.range (min 4 d.ports))) (fun rs => decide (rs.length = 2)) &&
      someSat (s.quietLoad { cl := s.storeOf 1 0 7, slot := 1 } d.task.toNat 64) (fun b => decide (b.length = 64))) = true := by
  let r (p : Nat) : NodeRec := { slot := 1, node := 0, tag := 7, port := p, words := [1], name := 0, watch := [], spilled := false }
  exact ⟨(tst (tgrp [] [])).modCluster 7 fun c => { c with store := [r 1, r 0] }, by decide +kernel⟩

/-! ### Watches and replays -/

/-- WatchAndReplay: WATCH of the last comparator, both words without DEBUG, and both in a replay. -/
theorem test_hyp_Watch :
    (Meets (.watch 6 4) fun s g c => g.replay = false ∧ g.allHelpers c.exec = false ∧ (s.ctxOf g).ccb.debug = true ∧
      (readS s g 6).toNat = 15 ∧ wellFormed (readS64 s g 4) 64 ∧
      okSat (s.loadRecord (s.who g) (readS64 s g 4).toNat 64) (fun b => !specBad b) = true) ∧
    (Meets (.watch 6 4) fun s g c => g.replay = false ∧ g.allHelpers c.exec = false ∧ (s.ctxOf g).ccb.debug = false) ∧
    Meets (.replay 8 4) fun _ g _ => g.replay = true := by
  unfold wellFormed
  exact ⟨meets (tdbg (tgrp [(4, 0x10000), (6, 15)] [])) _ _ rfl (by decide) (clean_tgrp [(4, 0x10000), (6, 15)] []) (by decide +kernel),
    meets1 [] [] (by decide +kernel),
    meets (tst { tgrp [] [] with replay := true }) _ _ rfl (by decide) (clean_tgrp [] []) rfl⟩

/-- WatchAndReplay: REPLAY with the smallest trace, of a record that names nothing. -/
theorem test_hyp_Replay : Meets (.replay 8 4) fun s g c => g.replay = false ∧ g.allHelpers c.exec = false ∧
    (s.ctxOf g).ccb.debug = true ∧ wellFormed (readS64 s g 4) 64 ∧ wellFormed (readS64 s g 6) 64 ∧
    (∀ l ∈ lanesOf c.exec, s.blocked g (.replay 8 4) l [{ addr := (readS64 s g 4).toNat, n := 64, spad := none },
      { addr := (readS64 s g 6).toNat, n := 4, spad := none }] = false) ∧
    okSat (s.loadRecord (s.who g) (readS64 s g 6).toNat 4) (fun h => decide (leNat h = 64)) = true ∧
    okSat (s.loadRecord (s.who g) (readS64 s g 4).toNat 64) (fun b => ((lanesOf c.exec).all fun l =>
      !s.blocked g (.replay 8 4) l (s.lookupSpans (s.who g) b)) && match s.lookupRecord (s.who g) b with
      | .notFound => true | _ => false) = true := by
  unfold wellFormed
  exact meets { tdbg (tgrp [(4, 0x10000), (6, 0x10040)] []) with mem := tmem ++ [(0x10040, 64)] } _ _ rfl (by decide)
    (clean_tgrp [(4, 0x10000), (6, 0x10040)] []) (by decide +kernel)

end Sys2Proof.Tests
end

