-- ==== Sys2Proof/Tests/Words.lean ====
section
/-! SUPPORT. Every instruction that has a word, decoded from a word written out from the encoding
tables of 06 (R125-R147): class in [31:28], opcode in [27:21], operands as the tables place them, XM
and XI words as R128 lays them out. -/

namespace Sys2Proof.Tests

set_option Elab.async false

set_option maxRecDepth 20000

/-- Class 0x0 (R132). -/
theorem test_wordsScalar_1 :
    decodeWords [0x0016536B] = .ok (.sadd 89 38 107) ∧
    decodeWords [0x002D25F6] = .ok (.ssub 52 75 118) ∧
    decodeWords [0x00486A65] = .ok (.smul 33 84 101) ∧
    decodeWords [0x006BB9BC] = .ok (.smulh 46 115 60) ∧
    decodeWords [0x0096536B] = .ok (.smulhU 89 38 107) ∧
    decodeWords [0x00AD25F6] = .ok (.sand 52 75 118) ∧
    decodeWords [0x00C86A65] = .ok (.sor 33 84 101) ∧
    decodeWords [0x00EBB9BC] = .ok (.sxor 46 115 60) ∧
    decodeWords [0x0116536B] = .ok (.sshl 89 38 107) ∧
    decodeWords [0x012D25F6] = .ok (.sshr 52 75 118) ∧
    decodeWords [0x01486A65] = .ok (.ssar 33 84 101) ∧
    decodeWords [0x016BB9BC] = .ok (.smin 46 115 60) ∧
    decodeWords [0x0196536B] = .ok (.smax 89 38 107) ∧
    decodeWords [0x01AD25F6] = .ok (.sminu 52 75 118) ∧
    decodeWords [0x01C86A65] = .ok (.smaxu 33 84 101) ∧
    decodeWords [0x020BB980] = .ok (.sclz 46 115) := by decide

/-- Class 0x0 (R132). -/
theorem test_wordsScalar_2 :
    decodeWords [0x022F2C80] = .ok (.spop 60 89) ∧
    decodeWords [0x0249B580] = .ok (.smov 38 107) ∧
    decodeWords [0x040D25F6] = .ok (.scmpEq 52 75 118) ∧
    decodeWords [0x04286A65] = .ok (.scmpNe 33 84 101) ∧
    decodeWords [0x044BB9BC] = .ok (.scmpLt 46 115 60) ∧
    decodeWords [0x0476536B] = .ok (.scmpLe 89 38 107) ∧
    decodeWords [0x048D25F6] = .ok (.scmpGt 52 75 118) ∧
    decodeWords [0x04A86A65] = .ok (.scmpGe 33 84 101) ∧
    decodeWords [0x04CBB9BC] = .ok (.scmpLtu 46 115 60) ∧
    decodeWords [0x04F6536B] = .ok (.scmpLeu 89 38 107) ∧
    decodeWords [0x050D25F6] = .ok (.scmpGtu 52 75 118) ∧
    decodeWords [0x05286A65] = .ok (.scmpGeu 33 84 101) ∧
    decodeWords [0x01F6536B, 0x68000000] = .ok (.ssel 89 38 107 52) := by decide

/-- Class 0x1 (R133). -/
theorem test_wordsImmediate :
    decodeWords [0x100BBC3D] = .ok (.smovi 46 0x3C3D) ∧
    decodeWords [0x103CDE7D] = .ok (.saddiShort 115 60 0x7D) ∧
    decodeWords [0x1118800A] = .ok (.srdS 98 .energy) ∧
    decodeWords [0x11388000] = .ok (.srdV 98 .lin) ∧
    decodeWords [0x115AC00E] = .ok (.swr 107 .vbase) ∧
    decodeWords [0x12003FC0] = .ok (.swin 0x3FC0) ∧
    decodeWords [0x12202AA8] = .ok (.vwin 0x2AA8) ∧
    decodeWords [0x10565300, 0xFFFFFF80] = .ok (.saddiXi 89 38 0xFFFFFF80) ∧
    decodeWords [0x10764000, 0x12345678] = .ok (.slit 89 0x12345678) := by decide

/-- Class 0x2 (R134). -/
theorem test_wordsControl_1 :
    decodeWords [0x20175C3D] = .ok (.bra 11 0x15C3D) ∧
    decodeWords [0x2032FC3D] = .ok (.brs 75 0x3C3D) ∧
    decodeWords [0x205DBC3D] = .ok (.brsZ 118 0x3C3D) ∧
    decodeWords [0x207A5C3D] = .ok (.jmp 0x1A5C3D) ∧
    decodeWords [0x20801000] = .ok (.brx 32) ∧
    decodeWords [0x20B53C3D] = .ok (.call 84 0x3C3D) ∧
    decodeWords [0x20D91700] = .ok (.callx 100 46) ∧
    decodeWords [0x20E03900] = .ok (.ret 114) ∧
    decodeWords [0x21000002] = .ok (.lpad 2) ∧
    decodeWords [0x21214000] = .ok (.kset 5) ∧
    decodeWords [0x21400180] = .ok (.join 3) ∧
    decodeWords [0x21600000] = .ok (.exitLanes) ∧
    decodeWords [0x21803C3D] = .ok (.trap 0x3C3D) ∧
    decodeWords [0x21A03C3D] = .ok (.brk 0x3C3D) ∧
    decodeWords [0x21C00000] = .ok (.nop) ∧
    decodeWords [0x21E03580] = .ok (.perf 107) := by decide

/-- Class 0x2 (R134). -/
theorem test_wordsControl_2 :
    decodeWords [0x22001A00] = .ok (.launch 52) ∧
    decodeWords [0x22202500] = .ok (.launchOrd 74) ∧
    decodeWords [0x22403B20] = .ok (.renq 118 32) ∧
    decodeWords [0x22753280] = .ok (.rdeq 84 101) ∧
    decodeWords [0x22803C3D] = .ok (.svc 0x3C3D) := by decide

/-- Class 0x3 (R135). -/
theorem test_wordsVector_1 :
    decodeWords [0x300BB9BC] = .ok (.vadd 46 115 60) ∧
    decodeWords [0x3036536B] = .ok (.vsub 89 38 107) ∧
    decodeWords [0x304D25F6] = .ok (.vmul 52 75 118) ∧
    decodeWords [0x30686A65] = .ok (.vmulhS32 33 84 101) ∧
    decodeWords [0x308BB9BC] = .ok (.vmulhU32 46 115 60) ∧
    decodeWords [0x30F6536B] = .ok (.vand 89 38 107) ∧
    decodeWords [0x310D25F6] = .ok (.vor 52 75 118) ∧
    decodeWords [0x31286A65] = .ok (.vxor 33 84 101) ∧
    decodeWords [0x314BB9BC] = .ok (.vshl 46 115 60) ∧
    decodeWords [0x3176536B] = .ok (.vshr 89 38 107) ∧
    decodeWords [0x318D25F6] = .ok (.vsar 52 75 118) ∧
    decodeWords [0x31A86A65] = .ok (.vminS32 33 84 101) ∧
    decodeWords [0x31CBB9BC] = .ok (.vminU32 46 115 60) ∧
    decodeWords [0x31F6536B] = .ok (.vmaxS32 89 38 107) ∧
    decodeWords [0x320D25F6] = .ok (.vmaxU32 52 75 118) ∧
    decodeWords [0x32286A00] = .ok (.vabs 33 84) := by decide

/-- Class 0x3 (R135). -/
theorem test_wordsVector_2 :
    decodeWords [0x32595700] = .ok (.vclz 101 46) ∧
    decodeWords [0x327CDE00] = .ok (.vpop 115 60) ∧
    decodeWords [0x33165300] = .ok (.vmov 89 38) ∧
    decodeWords [0x333AFC3D] = .ok (.vmovi 107 0x3C3D) ∧
    decodeWords [0x3402E5F6] = .ok (.vcmpEqS32 11 75 118) ∧
    decodeWords [0x34236A65] = .ok (.vcmpNeS32 13 84 101) ∧
    decodeWords [0x3442F9BC] = .ok (.vcmpLtS32 11 115 60) ∧
    decodeWords [0x3463536B] = .ok (.vcmpLeS32 13 38 107) ∧
    decodeWords [0x3482E5F6] = .ok (.vcmpGtS32 11 75 118) ∧
    decodeWords [0x34A36A65] = .ok (.vcmpGeS32 13 84 101) ∧
    decodeWords [0x3502F9BC] = .ok (.vcmpEqU32 11 115 60) ∧
    decodeWords [0x3523536B] = .ok (.vcmpNeU32 13 38 107) ∧
    decodeWords [0x3542E5F6] = .ok (.vcmpLtU32 11 75 118) ∧
    decodeWords [0x35636A65] = .ok (.vcmpLeU32 13 84 101) ∧
    decodeWords [0x3582F9BC] = .ok (.vcmpGtU32 11 115 60) ∧
    decodeWords [0x35A3536B] = .ok (.vcmpGeU32 13 38 107) := by decide

/-- Class 0x3 (R135). -/
theorem test_wordsVector_3 :
    decodeWords [0x30B6536B, 0x68000000] = .ok (.vmad 89 38 107 52) ∧
    decodeWords [0x30D6536B, 0x1A000000] = .ok (.vaddc 89 38 107 13) ∧
    decodeWords [0x3296536B, 0x68000000] = .ok (.vbfeS32 89 38 107 52) ∧
    decodeWords [0x32A9ACB4, 0xD6000000] = .ok (.vbfeU32 38 89 52 107) ∧
    decodeWords [0x32DADA59, 0x4C000000] = .ok (.vbfi 107 52 89 38) ∧
    decodeWords [0x32F6536B, 0x0C000000] = .ok (.vsel 89 38 107 6) ∧
    decodeWords [0x33564000, 0xDEADBEEF] = .ok (.vlit 89 0xDEADBEEF) := by decide

/-- Class 0x4 (R136). -/
theorem test_wordsFloat :
    decodeWords [0x400D2576] = .ok (.fadd .f64 .rn 52 74 118) ∧
    decodeWords [0x42A86A65] = .ok (.fsub .f32 .rz 33 84 101) ∧
    decodeWords [0x454BB9BC] = .ok (.fmul .f16x2 .ru 46 115 60) ∧
    decodeWords [0x4996536B] = .ok (.fmin .bf16x2 89 38 107) ∧
    decodeWords [0x4A0D2576] = .ok (.fmax .f64 52 74 118) ∧
    decodeWords [0x4F686A65] = .ok (.fdot2 .f16 .rd 33 84 101) ∧
    decodeWords [0x46D6536B, 0x68000000] = .ok (.ffma .f32 .ru 89 38 107 52) ∧
    decodeWords [0x4D02536B, 0x0000C000] = .ok (.fcmp .f16x2 .le 9 38 107) ∧
    decodeWords [0x4C82536B, 0x00018000] = .ok (.fcmp .f32 .un 9 38 107) := by decide

/-- Class 0x5 (R137). -/
theorem test_wordsConvert :
    decodeWords [0x520BB980] = .ok (.frcp .f32 .rn 46 115) ∧
    decodeWords [0x532F2C00] = .ok (.frsq .f64 60 88) ∧
    decodeWords [0x5449B580] = .ok (.fsqrt .f32 .rz 38 107) ∧
    decodeWords [0x55AD2576] = .ok (.fdiv .f64 .ru 52 74 118) ∧
    decodeWords [0x56086A00] = .ok (.fexp2 .f32 33 84) ∧
    decodeWords [0x57391700] = .ok (.flog2 .f64 100 46) ∧
    decodeWords [0x581CDE00] = .ok (.fsin .f32 115 60) ∧
    decodeWords [0x59361300] = .ok (.fcos .f64 88 38) ∧
    decodeWords [0x5ADADA00] = .ok (.fround .f32 .rd 107 52) ∧
    decodeWords [0x5B32BB00] = .ok (.ffract .f64 74 118) ∧
    decodeWords [0x5C086A00] = .ok (.fclass .f32 33 84) ∧
    decodeWords [0x50D65300, 0x00001240] = .ok (.cvt .u32 .f64 .rd 89 38) ∧
    decodeWords [0x51565300, 0x00001E00] = .ok (.cvtn .bf16f32 .rz 89 38) := by decide

/-- Class 0x6 (R138). -/
theorem test_wordsCrossLane_1 :
    decodeWords [0x60195700] = .ok (.qswapH 101 46) ∧
    decodeWords [0x603CDE00] = .ok (.qswapV 115 60) ∧
    decodeWords [0x60565300] = .ok (.qswapD 89 38) ∧
    decodeWords [0x607ADA00] = .ok (.ddxFine 107 52) ∧
    decodeWords [0x6092FB00] = .ok (.ddxCoarse 75 118) ∧
    decodeWords [0x60A86A00] = .ok (.ddyFine 33 84) ∧
    decodeWords [0x60D95700] = .ok (.ddyCoarse 101 46) ∧
    decodeWords [0x611CDE59] = .ok (.shflIdx 115 60 89) ∧
    decodeWords [0x6129B5B4] = .ok (.shflUp 38 107 52) ∧
    decodeWords [0x6152FB21] = .ok (.shflDown 75 118 33) ∧
    decodeWords [0x617532AE] = .ok (.shflXor 84 101 46) ∧
    decodeWords [0x61814500] = .ok (.voteAny 5 10) ∧
    decodeWords [0x61A34300] = .ok (.voteAll 13 6) ∧
    decodeWords [0x61DA8580] = .ok (.voteBallot 106 11) ∧
    decodeWords [0x61F2BB00] = .ok (.matchAny 74 118) ∧
    decodeWords [0x62480000] = .ok (.actmask 32) := by decide

/-- Class 0x6 (R138). -/
theorem test_wordsCrossLane_2 :
    decodeWords [0x62618000] = .ok (.ishelp 6) ∧
    decodeWords [0x63024585] = .ok (.pand 9 11 5) ∧
    decodeWords [0x63228686] = .ok (.por 10 13 6) ∧
    decodeWords [0x63424585] = .ok (.pxor 9 11 5) ∧
    decodeWords [0x63628680] = .ok (.pnot 10 13) ∧
    decodeWords [0x63818480] = .ok (.pmov 6 9) ∧
    decodeWords [0x62161300, 0x00082400] = .ok (.reduce .add .f64 .ru 88 38) ∧
    decodeWords [0x62365300, 0x00015000] = .ok (.scan .xor .u32 .rn 89 38) := by decide

/-- Class 0x7 (R139). -/
theorem test_wordsLoads :
    decodeWords [0x700BB97D] = .ok (.ld .b8 46 114 0x7D) ∧
    decodeWords [0x724F2CFD] = .ok (.lds .b16 60 89 0x7D) ∧
    decodeWords [0x7489B5FD] = .ok (.ldc .b32 38 107 0x7D) ∧
    decodeWords [0x76CD257D] = .ok (.sld .b64 52 74 0x7D) ∧
    decodeWords [0x78C4907D] = .ok (.ldlod .b64 18 32 0x7D) ∧
    decodeWords [0x70A20A02, 0x00000018] = .ok (.ldX .b32 none 8 (.idx 20 2 true none)) ∧
    decodeWords [0x70A24A02, 0x0000001C, 0x00000100] = .ok (.ldX .b32 none 9 (.idx 20 2 true (some 256))) ∧
    decodeWords [0x70F6937F, 0x00D00020] = .ok (.ldX .b64 (some .dev) 90 (.vbase 38 0x7F)) ∧
    decodeWords [0x73B653C1, 0x00000000] = .ok (.ldsX .s16 none 89 (.base 39 0x41)) ∧
    decodeWords [0x74B65380, 0x00900004, 0xFFFFFFF0] = .ok (.ldcX .b32 (some .clu) 89 (.baseXi 39 0xFFFFFFF0)) ∧
    decodeWords [0x77361305, 0x00000000] = .ok (.sldX .b128 none 88 (.base 38 5)) ∧
    decodeWords [0x78F69300, 0x0002C024, 0x00000040] = .ok (.ldlodX 11 .b64 90 (.vbaseXi 38 64)) ∧
    decodeWords [0x7AB65307, 0x68000000] = .ok (.ldbrk 89 (.base 38 7) 52) ∧
    decodeWords [0x7D361300, 0xC8008000] = .ok (.tex .bias .b128 88 38 100) ∧
    decodeWords [0x7F365300, 0xC800C000] = .ok (.texg 3 89 38 100) := by decide

/-- Class 0x8 (R140). -/
theorem test_wordsStores :
    decodeWords [0x8115327D] = .ok (.st .b128 84 100 0x7D) ∧
    decodeWords [0x834BB9FD] = .ok (.sts .s8 46 115 0x7D) ∧
    decodeWords [0x858F2CFD] = .ok (.stc .s16 60 89 0x7D) ∧
    decodeWords [0x8609B57D] = .ok (.sst .b8 38 106 0x7D) ∧
    decodeWords [0x80765305, 0x00001800] = .ok (.stX .b16 .f16 none 89 (.base 38 5)) ∧
    decodeWords [0x82B65385, 0x00600000] = .ok (.stsX .b32 .none (some .core) 89 (.base 39 5)) ∧
    decodeWords [0x853613A1, 0x00000010] = .ok (.stcX .b128 .none none 88 (.idx 39 33 false none)) ∧
    decodeWords [0x86F61300, 0x01200004, 0x00000008] = .ok (.sstX .b64 .none (some .pod) 88 (.baseXi 38 8)) ∧
    decodeWords [0x88365303, 0x00002940] = .ok (.stbrk (.bfp 5) 89 (.base 38 3)) ∧
    decodeWords [0x8AB65305, 0x68F1D000] = .ok (.atom .cas .u32 .ar .dev 89 (.base 38 5) 52) ∧
    decodeWords [0x8CF69385, 0x68504C00] = .ok (.atoms .min .s64 .acq .core 90 (.base 39 5) 52) ∧
    decodeWords [0x8E201305, 0x6AA02000] = .ok (.red .add .f32 .rel .clu (.base 38 5) 53) ∧
    decodeWords [0x8F769305, 0x69019400] = .ok (.atomx .exch .u64 .rlx .pod 90 (.base 38 5) 52) := by decide

/-- Class 0x9 (R141). -/
theorem test_wordsSync_1 :
    decodeWords [0x900D2576] = .ok (.cpaB32 52 74 118) ∧
    decodeWords [0x90286A65] = .ok (.cpaB64 33 84 101) ∧
    decodeWords [0x904BB93C] = .ok (.cpaB128 46 114 60) ∧
    decodeWords [0x9096536B] = .ok (.cpb 89 38 107) ∧
    decodeWords [0x910D2576] = .ok (.prefr 52 74 118) ∧
    decodeWords [0x91286A00] = .ok (.tokw 33 84) ∧
    decodeWords [0x914032AE] = .ok (.femarkFull 101 46) ∧
    decodeWords [0x916039BC] = .ok (.femarkEmpty 115 60) ∧
    decodeWords [0x91967C3D] = .ok (.waitcToken 89 0x3C3D) ∧
    decodeWords [0x91A03C3D] = .ok (.waitcBarrier 0x3C3D) ∧
    decodeWords [0x91C00000] = .ok (.bar) ∧
    decodeWords [0x92001300] = .ok (.mbara 38) ∧
    decodeWords [0x922035B4] = .ok (.mbarw 107 52) ∧
    decodeWords [0x92400000] = .ok (.fenceAcq .grp) ∧
    decodeWords [0x92600001] = .ok (.fenceRel .core) ∧
    decodeWords [0x92800002] = .ok (.fenceSc .clu) := by decide

/-- Class 0x9 (R141). -/
theorem test_wordsSync_2 :
    decodeWords [0x92A00000] = .ok (.opfence) ∧
    decodeWords [0x92D2BB00] = .ok (.xall 74 118) ∧
    decodeWords [0x92E01054] = .ok (.cflush 32 84) := by decide

/-- Class 0xA (R142). -/
theorem test_wordsMatrix :
    decodeWords [0xA0424000] = .ok (.mzero 9) ∧
    decodeWords [0xA062F906] = .ok (.mldz .f16 11 114) ∧
    decodeWords [0xA082AC08] = .ok (.mstz .f32 10 88) ∧
    decodeWords [0xA0C98480] = .ok (.mstat 38 9) ∧
    decodeWords [0xA002536B, 0x00009980] = .ok (.mma .f16 .deep 9 38 107) ∧
    decodeWords [0xA0225300, 0x00006A80] = .ok (.mloop .bfp .whole 9 38) ∧
    decodeWords [0xA0A25300, 0x00002900] = .ok (.mqnt (.bfp 4) 9 38) := by decide

/-- Class 0xB (R143). -/
theorem test_wordsHypervector :
    decodeWords [0xB002E57D] = .ok (.hld 11 74 0x7D) ∧
    decodeWords [0xB022907D] = .ok (.hst 10 32 0x7D) ∧
    decodeWords [0xB0418480] = .ok (.hmov 6 9) ∧
    decodeWords [0xB062C28A] = .ok (.hbind 11 5 10) ∧
    decodeWords [0xB083436B] = .ok (.hperm 13 6 107) ∧
    decodeWords [0xB0A08280] = .ok (.hbund 2 5) ∧
    decodeWords [0xB0C28100] = .ok (.hthr 10 2) ∧
    decodeWords [0xB0E08000] = .ok (.hclrc 2) ∧
    decodeWords [0xB1194585] = .ok (.hham 101 11 5) ∧
    decodeWords [0xB1400500] = .ok (.htie 10) ∧
    decodeWords [0xB163536B] = .ok (.hbit 13 38 107) ∧
    decodeWords [0xB1298486, 0x68000000] = .ok (.hnear 38 9 6 52) := by decide

/-- Class 0xC (R144). -/
theorem test_wordsGenerators :
    decodeWords [0xC0801A00] = .ok (.gyield 52) ∧
    decodeWords [0xC0B2C000] = .ok (.gtake 75) ∧
    decodeWords [0xC0C00000] = .ok (.gback) ∧
    decodeWords [0xC0E00000] = .ok (.gdone) ∧
    decodeWords [0xC1000000] = .ok (.gclose) ∧
    decodeWords [0xC1203B00] = .ok (.repack 118) ∧
    decodeWords [0xC1403454] = .ok (.travb 104 84) ∧
    decodeWords [0xC1794000] = .ok (.travs 101) ∧
    decodeWords [0xC1801700] = .ok (.travc 46) ∧
    decodeWords [0xC1A00000] = .ok (.trave) ∧
    decodeWords [0xC0098028, 0xFFFFFFC0] = .ok (.gopenW1 38 40 0xFFFFFFC0) ∧
    decodeWords [0xC0298029, 0xFFFFFFC1] = .ok (.gopenW2 38 41 0xFFFFFFC1) ∧
    decodeWords [0xC049802A, 0xFFFFFFC2] = .ok (.gopenW3 38 42 0xFFFFFFC2) ∧
    decodeWords [0xC069802B, 0xFFFFFFC3] = .ok (.gopenW4 38 43 0xFFFFFFC3) := by decide

/-- Class 0xD (R145). -/
theorem test_wordsGraphics :
    decodeWords [0xD01CDE59] = .ok (.draw 115 60 89) ∧
    decodeWords [0xD020136B] = .ok (.vxemit 38 107) ∧
    decodeWords [0xD0401A4B] = .ok (.primemit 52 75) ∧
    decodeWords [0xD060D080] = .ok (.pxout 3 33) ∧
    decodeWords [0xD0800000] = .ok (.discard) ∧
    decodeWords [0xD0A02A00] = .ok (.depw 84) ∧
    decodeWords [0xD0D95773] = .ok (.wrec 101 46 115) ∧
    decodeWords [0xD0E01E00] = .ok (.linset 60) ∧
    decodeWords [0xD1002CA6] = .ok (.watch 89 38) ∧
    decodeWords [0xD13A9A00] = .ok (.replay 106 52) := by decide

/-- Class 0xE (R146). -/
theorem test_wordsPrivileged :
    decodeWords [0xE0000000] = .ok (.eret) ∧
    decodeWords [0xE032FB20] = .ok (.ctxsave 75 118 32) ∧
    decodeWords [0xE05532AE] = .ok (.ctxload 84 101 46) ∧
    decodeWords [0xE06039BC] = .ok (.ovtbl 115 60) ∧
    decodeWords [0xE0961300] = .ok (.tlbinv 88 38) ∧
    decodeWords [0xE0BADA00] = .ok (.resfence 107 52) ∧
    decodeWords [0xE0D2BB00] = .ok (.pgattr 74 118) ∧
    decodeWords [0xE0E01000] = .ok (.admitCluster 32) ∧
    decodeWords [0xE1153200] = .ok (.raslog 84 100) ∧
    decodeWords [0xE1200000] = .ok (.halt) := by decide

/-- Class 0xF (R147). -/
theorem test_wordsHint :
    decodeWords [0xFFA5C3F1] = .ok (.hint 0xA5C3F1) := by decide

end Sys2Proof.Tests
end

section
/-! The tables of clusters, cores, heads and partitions: what a read returns after an update, and what a run of
updates leaves alone. -/

namespace Sys2Proof.Proofs

open Sys2Proof.Machine Sys2Proof.Laws

variable {s : State} {n m k : Nat}

@[simp] theorem cluster_modCluster_same (f : ClusterState → ClusterState) :
    (s.modCluster n f).cluster n = f (s.cluster n) := tget_tset_same _ _ _ _

@[simp] theorem cluster_modCluster_ne (f : ClusterState → ClusterState) (h : m ≠ n) :
    (s.modCluster n f).cluster m = s.cluster m := tget_tset_ne _ _ _ h

@[simp] theorem coreOf_modCore_same (f : CoreState → CoreState) :
    (s.modCore n k f).coreOf n k = f (s.coreOf n k) := by
  simp [State.coreOf, State.modCore]

@[simp] theorem head_modHead_same (f : Head → Head) : (s.modHead n f).head n = f (s.head n) :=
  tget_tset_same _ _ _ _

@[simp] theorem head_modHead_ne (f : Head → Head) (h : m ≠ n) : (s.modHead n f).head m = s.head m :=
  tget_tset_ne _ _ _ h

@[simp] theorem partOf_modPart_same (f : PartState → PartState) : (s.modPart n f).partOf n = f (s.partOf n) :=
  tget_tset_same _ _ _ _

/-- A run of updates, each of which leaves a view of the state alone, leaves that view alone. -/
theorem foldl_keeps {α β : Type} (view : State → α) (op : State → β → State)
    (h : ∀ s x, view (op s x) = view s) (l : List β) (s : State) : view (l.foldl op s) = view s := by
  induction l generalizing s with
  | nil => rfl
  | cons x l ih => rw [List.foldl_cons, ih, h]

/-- Updates of distinct clusters do not meet: each listed one is updated once, and no other. -/
theorem cluster_foldl_modCluster (f : ClusterState → ClusterState) {l : List Nat} (hl : l.Nodup) (s : State) :
    (l.foldl (fun s n => s.modCluster n f) s).cluster m = if m ∈ l then f (s.cluster m) else s.cluster m := by
  induction l generalizing s with
  | nil => rfl
  | cons n l ih =>
    obtain ⟨hn, hl⟩ := List.nodup_cons.mp hl
    rw [List.foldl_cons, ih hl]
    by_cases hm : m = n
    · subst hm; simp [hn]
    · simp [hm]

end Sys2Proof.Proofs
end

section
/-! Heat, background work and rails (R7, R10, R397, R398, R401). -/

namespace Sys2Proof.Proofs

open Sys2Proof.Machine Sys2Proof.Laws Sys2Proof.Claims

variable {s : State}

/-! ### The steps -/

theorem exec_thermalSample (c : Fin 8) (r : List (Nat × Nat)) :
    exec (.thermalSample c r) s = execThermalSample c r s := rfl

theorem exec_engineSwitch (c : Fin 8) (k : Fin 32) : exec (.engineSwitch c k) s = execEngineSwitch c k s := rfl

theorem exec_governorPeriod : exec .governorPeriod s = execGovernorPeriod s := rfl

theorem exec_patrolScrub (u : ScrubUnit) : exec (.patrolScrub u) s = execPatrolScrub u s := rfl

theorem exec_powerUp : exec .powerUp s = execPowerUp s := rfl

theorem exec_powerDown : exec .powerDown s = execPowerDown s := rfl

/-! ### Heat and background work -/

/-- Sensors are a table of readings, an unlisted one 0. -/
theorem reading_eq_tget (c : ClusterState) (i : Nat) : c.reading i = tget 0 c.sensors i := by
  unfold ClusterState.reading
  induction c.sensors with
  | nil => rfl
  | cons e t ih =>
    rw [List.find?_cons, tget]
    cases h : e.1 == i with
    | true => rw [if_pos (beq_iff_eq.mp h)]; rfl
    | false => rw [if_neg (beq_eq_false_iff_ne.mp h)]; exact ih

theorem thermalSample_reading (c : Fin 8) (i v : Nat) :
    Answers (exec (.thermalSample c [(i, v)]) s) fun t => (t.cluster c.val).reading i = v ∧
      (∀ k, k ≠ i → (t.cluster c.val).reading k = (s.cluster c.val).reading k) ∧ t.mem = s.mem := by
  rw [exec_thermalSample]
  refine ⟨_, rfl, ?_, fun k hk => ?_, rfl⟩
  · simp [reading_eq_tget, tget_tput_same]
  · simp [reading_eq_tget, tget_tput_ne _ _ _ hk]

theorem engineSwitch_engine (c : Fin 8) (k : Fin 32) :
    Answers (exec (.engineSwitch c k) s) fun t => t.mem = s.mem ∧ t.groups = s.groups ∧
      (t.coreOf c.val k.val).engine =
        if (s.cluster c.val).engineHot k.val = true ∧ (s.coreOf c.val k.val).switched = false then
          !(s.coreOf c.val k.val).engine else (s.coreOf c.val k.val).engine := by
  rw [exec_engineSwitch]
  unfold execEngineSwitch
  by_cases h : (s.cluster c.val).engineHot k.val = true ∧ (s.coreOf c.val k.val).switched = false
  · rw [if_pos (by simpa using h), if_pos h]
    exact ⟨_, rfl, rfl, rfl, by rw [coreOf_modCore_same]⟩
  · rw [if_neg (by simpa using h), if_neg h]
    exact ⟨s, rfl, rfl, rfl, rfl⟩

/-- The start of a period changes the unit's budget and, for a core, its engines' alternation. -/
theorem startPeriod_frame (u : ScrubUnit) : (s.startPeriod u).mem = s.mem ∧ (s.startPeriod u).groups = s.groups ∧
    (s.startPeriod u).periods = s.periods ∧
    (s.startPeriod u).scrubbed = tset 0 s.scrubbed (scrubBudget u).1 0 := by
  cases u <;> exact ⟨rfl, rfl, rfl, rfl⟩

theorem startPeriod_pool_switched (k : Nat) :
    ((s.startPeriod (.pool k)).coreOf (k / 32) (k % 32)).switched = false := by
  unfold State.startPeriod
  dsimp only
  rw [coreOf_modCore_same]

theorem governorPeriod_first {u : ScrubUnit} {us : List ScrubUnit} (h : s.periods = u :: us) :
    Answers (exec .governorPeriod s) fun t => t.mem = s.mem ∧ t.groups = s.groups ∧ t.periods = us ∧
      tget 0 t.scrubbed (scrubBudget u).1 = 0 ∧
      (∀ k, k ≠ (scrubBudget u).1 → tget 0 t.scrubbed k = tget 0 s.scrubbed k) ∧
      (∀ k, u = .pool k → (t.coreOf (k / 32) (k % 32)).switched = false) := by
  have he : exec .governorPeriod s = .next ({ s with periods := us }.startPeriod u) := by
    rw [exec_governorPeriod, execGovernorPeriod, h]
  obtain ⟨hmem, hgroups, hperiods, hscrubbed⟩ := startPeriod_frame (s := { s with periods := us }) u
  refine ⟨_, he, hmem, hgroups, hperiods, ?_, fun k hk => ?_, ?_⟩
  · rw [hscrubbed, tget_tset_same]
  · rw [hscrubbed, tget_tset_ne _ _ _ hk]
  · rintro k rfl
    exact startPeriod_pool_switched k

theorem patrolScrub_budget (u : ScrubUnit) :
    Answers (exec (.patrolScrub u) s) fun t => { t with scrubbed := [] } = { s with scrubbed := [] } ∧
      (tget 0 s.scrubbed (scrubBudget u).1 ≤ (scrubBudget u).2 →
        tget 0 t.scrubbed (scrubBudget u).1 ≤ (scrubBudget u).2) := by
  rw [exec_patrolScrub]
  unfold execPatrolScrub
  dsimp only
  split
  case isTrue hroom =>
    refine ⟨_, rfl, rfl, fun _ => ?_⟩
    rw [tget_tset_same]
    exact hroom
  case isFalse => exact ⟨s, rfl, rfl, id⟩

theorem background : Background :=
  ⟨fun c i v _ => thermalSample_reading c i v, fun c k _ => engineSwitch_engine c k,
    fun s h => by rw [exec_governorPeriod, execGovernorPeriod, h], fun _ _ _ h => governorPeriod_first h,
    fun u _ => patrolScrub_budget u⟩

/-! ### Rails -/

/-- A run of updates of the logic rails of clusters 0 to 7. -/
def setRails (f : ClusterState → Nat) (s : State) : State :=
  (List.range 8).foldl (fun s n => s.modCluster n fun c => { c with rail := f c }) s

theorem setRails_cluster (f : ClusterState → Nat) {n : Nat} (hn : n < 8) :
    (setRails f s).cluster n = { s.cluster n with rail := f (s.cluster n) } := by
  rw [setRails, cluster_foldl_modCluster _ List.nodup_range, if_pos (List.mem_range.mpr hn)]

theorem setRails_mem (f : ClusterState → Nat) : (setRails f s).mem = s.mem :=
  foldl_keeps State.mem (fun s n => s.modCluster n fun c => { c with rail := f c }) (fun _ _ => rfl) _ s

theorem setRails_sramRail (f : ClusterState → Nat) : (setRails f s).sramRail = s.sramRail :=
  foldl_keeps State.sramRail (fun s n => s.modCluster n fun c => { c with rail := f c }) (fun _ _ => rfl) _ s

theorem powerUp_unsettled (h : s.sramRail ≠ 800) : exec .powerUp s = .next { s with sramRail := 800 } := by
  rw [exec_powerUp, execPowerUp]
  exact if_pos h

theorem powerUp_settled (h : s.sramRail = 800) : exec .powerUp s = .next (setRails (fun c => railOf c.level) s) := by
  rw [exec_powerUp, execPowerUp]
  exact if_neg (not_not_intro h)

theorem powerDown_logic (h : ∃ n, n < 8 ∧ (s.cluster n).rail ≠ 0) :
    exec .powerDown s = .next (setRails (fun _ => 0) s) := by
  rw [exec_powerDown, execPowerDown]
  exact if_pos (by simpa using h)

theorem powerDown_sram (h : ∀ n, n < 8 → (s.cluster n).rail = 0) : exec .powerDown s = .next { s with sramRail := 0 } := by
  rw [exec_powerDown, execPowerDown]
  exact if_neg (by simpa using h)

theorem powerUp_order : Answers (exec .powerUp s) fun t => t.sramRail = 800 ∧ t.mem = s.mem ∧
    (s.sramRail ≠ 800 → t.clusters = s.clusters) ∧
    (s.sramRail = 800 → ∀ n, n < 8 → (t.cluster n).rail = railOf (t.cluster n).level) := by
  by_cases h : s.sramRail = 800
  · refine ⟨_, powerUp_settled h, ?_, setRails_mem _, fun hn => absurd h hn, fun _ n hn => ?_⟩
    · rw [setRails_sramRail, h]
    · rw [setRails_cluster _ hn]
  · exact ⟨_, powerUp_unsettled h, rfl, rfl, fun _ => rfl, fun he => absurd he h⟩

theorem powerDown_order : Answers (exec .powerDown s) fun t => t.mem = s.mem ∧ (∀ n, n < 8 → (t.cluster n).rail = 0) ∧
    ((∃ n, n < 8 ∧ (s.cluster n).rail ≠ 0) → t.sramRail = s.sramRail) ∧
    ((∀ n, n < 8 → (s.cluster n).rail = 0) → t.sramRail = 0) := by
  by_cases h : ∃ n, n < 8 ∧ (s.cluster n).rail ≠ 0
  · refine ⟨_, powerDown_logic h, setRails_mem _, fun n hn => ?_, fun _ => setRails_sramRail _, fun hz => ?_⟩
    · rw [setRails_cluster _ hn]
    · obtain ⟨n, hn, hr⟩ := h
      exact absurd (hz n hn) hr
  · have hz : ∀ n, n < 8 → (s.cluster n).rail = 0 := by simpa using h
    exact ⟨_, powerDown_sram hz, rfl, hz, fun he => absurd he h, fun _ => rfl⟩

theorem rails : Rails := fun _ => ⟨powerUp_order, powerDown_order⟩

end Sys2Proof.Proofs
end

section
/-! Links, peers and the registers of the device pages (R72, R393, R394, R415, R417, R418, R423). -/

namespace Sys2Proof.Proofs

open Sys2Proof.Machine Sys2Proof.Laws Sys2Proof.Claims

variable {s : State}

/-! ### The steps -/

theorem exec_linkTraining (x : List (Option (Fin 144))) : exec (.linkTraining x) s = execLinkTraining x s := rfl

theorem exec_portDown (p : Fin 18) : exec (.portDown p) s = execPortDown p s := rfl

theorem exec_peerRequest (p : PeerFlit) : exec (.peerRequest p) s = execPeerRequest p s := rfl

theorem exec_registerWrite (a : BitVec 17) (v : Word) :
    exec (.registerWrite a v) s = .next (s.regWrite a.toNat v) := rfl

/-! ### Ports -/

/-- The bits of TOMUP are the ports that are up (R415, R418). -/
theorem setPorts_tomup (up : Nat → Bool) {i : Nat} (hi : i < 18) :
    (s.setPorts ((List.range 18).filter up)).tomup.getLsbD i = up i := by
  have hbits : (((List.range 18).filter up).map (2 ^ ·)).sum.bitIndices = (List.range 18).filter up :=
    Nat.bitIndices_sum_map_two_pow (List.Pairwise.sortedLT (List.pairwise_lt_range.filter _))
  have hmem : (((List.range 18).filter up).map (2 ^ ·)).sum.testBit i = true ↔ up i = true := by
    rw [← Nat.mem_bitIndices, hbits, List.mem_filter, List.mem_range]
    exact and_iff_right hi
  unfold State.setPorts
  rw [BitVec.getLsbD_ofNat, Bool.eq_iff_iff.mpr hmem]
  simp [show i < 32 by omega]

theorem setPorts_lost (up : List Nat) : (s.setPorts up).lost = if up = [] then List.range 144 else s.lost := rfl

/-! ### Training -/

/-- The first number of a range that is mapped to something gives the result of the search. -/
theorem findSome?_range_first {α : Type} {f : Nat → Option α} {a : α} {n p : Nat} (hp : p < n) (ha : f p = some a)
    (hq : ∀ q, q < p → f q = none) : (List.range n).findSome? f = some a := by
  induction n with
  | zero => omega
  | succ n ih =>
    rw [List.range_succ, List.findSome?_append]
    by_cases h : p < n
    · rw [ih h]; rfl
    · obtain rfl : p = n := by omega
      rw [List.findSome?_eq_none_iff.mpr fun q h => hq q (List.mem_range.mp h)]
      simp [ha]

/-- The id that the switch of a port assigned. -/
def idAt (x : List (Option (Fin 144))) (i : Nat) : Option Nat := (x.getD i none).map fun id => id.val

theorem idAt_eq_some {x : List (Option (Fin 144))} {i : Nat} {id : Fin 144} :
    idAt x i = some id.val ↔ x[i]? = some (some id) := by
  unfold idAt
  rw [List.getD_eq_getElem?_getD]
  rcases x[i]? with _ | _ | j <;> simp [Fin.ext_iff]

theorem idAt_eq_none {x : List (Option (Fin 144))} {i : Nat} : idAt x i = none ↔ ∀ id, x[i]? ≠ some (some id) := by
  unfold idAt
  rw [List.getD_eq_getElem?_getD]
  rcases x[i]? with _ | _ | j <;> simp

/-- What training finds, in terms of the ids by port. -/
theorem trained_eq (x : List (Option (Fin 144))) : trained x =
    ((List.range 18).findSome? (idAt x)).elim (none, []) fun id =>
      (some id, (List.range 18).filter fun p => idAt x p == some id) := by
  have hfirst : ((List.range 18).map (idAt x)).findSome? (fun i => i) = (List.range 18).findSome? (idAt x) := by
    rw [List.findSome?_map]; rfl
  have hport : ∀ id p, p ∈ List.range 18 →
      (((List.range 18).map (idAt x)).getD p none == some id) = (idAt x p == some id) := fun id p hp => by
    simp [List.mem_range.mp hp]
  unfold trained
  simp only [← idAt.eq_def, hfirst]
  cases (List.range 18).findSome? (idAt x) with
  | none => rfl
  | some id => exact congrArg (some id, ·) (List.filter_congr (hport id))

theorem trained_first {x : List (Option (Fin 144))} {p : Nat} {id : Fin 144} (hp : p < 18)
    (hx : x[p]? = some (some id)) (hq : ∀ q, q < p → x[q]? = some none) :
    trained x = (some id.val, (List.range 18).filter fun i => decide (x[i]? = some (some id))) := by
  have hnone : ∀ q, q < p → idAt x q = none := fun q h => idAt_eq_none.mpr fun i => by rw [hq q h]; simp
  have hup : ∀ i, (idAt x i == some id.val) = decide (x[i]? = some (some id)) := fun i => by
    rw [Bool.eq_iff_iff, beq_iff_eq, decide_eq_true_eq, idAt_eq_some]
  rw [trained_eq, findSome?_range_first hp (idAt_eq_some.mpr hx) hnone]
  simp only [Option.elim, hup]

theorem trained_none {x : List (Option (Fin 144))} (h : ∀ e ∈ x.take 18, e = none) : trained x = (none, []) := by
  have hnone : ∀ p ∈ List.range 18, idAt x p = none := fun p hp => idAt_eq_none.mpr fun id hid => by
    have hmem : some id ∈ x.take 18 :=
      List.mem_of_getElem? ((List.getElem?_take_of_lt (List.mem_range.mp hp)).trans hid)
    cases h _ hmem
  rw [trained_eq, List.findSome?_eq_none_iff.mpr hnone]
  rfl

theorem linkTraining_id {x : List (Option (Fin 144))} {p : Nat} {id : Fin 144} (hp : p < 18)
    (hx : x[p]? = some (some id)) (hq : ∀ q, q < p → x[q]? = some none) :
    Answers (exec (.linkTraining x) s) fun t => t.podId = some id.val ∧ t.lost = [] ∧ t.mem = s.mem ∧
      (∀ i, i < 18 → t.tomup.getLsbD i = decide (x[i]? = some (some id))) ∧
      t.bringup0 = (s.bringup0 &&& 0x00FFFFFF) ||| BitVec.ofNat 32 (2 ^ 24 * id.val) := by
  rw [exec_linkTraining, execLinkTraining, trained_first hp hx hq]
  refine ⟨_, rfl, rfl, ?_, rfl, fun i hi => setPorts_tomup _ hi, rfl⟩
  have hup : p ∈ (List.range 18).filter fun i => decide (x[i]? = some (some id)) :=
    List.mem_filter.mpr ⟨List.mem_range.mpr hp, decide_eq_true hx⟩
  exact (setPorts_lost _).trans (if_neg (List.ne_nil_of_mem hup))

theorem linkTraining_none {x : List (Option (Fin 144))} (h : ∀ e ∈ x.take 18, e = none) :
    Answers (exec (.linkTraining x) s) fun t =>
      t.podId = none ∧ t.tomup = 0 ∧ t.lost = List.range 144 ∧ t.mem = s.mem := by
  rw [exec_linkTraining, execLinkTraining, trained_none h]
  exact ⟨_, rfl, rfl, rfl, by rw [setPorts_lost, if_pos rfl], rfl⟩

theorem portDown_tomup (p : Fin 18) : Answers (exec (.portDown p) s) fun t => t.mem = s.mem ∧
    (∀ i, i < 18 → t.tomup.getLsbD i = (s.tomup.getLsbD i && i != p.val)) ∧
    ((∀ i, i < 18 → i ≠ p.val → s.tomup.getLsbD i = false) → t.lost = List.range 144) := by
  rw [exec_portDown, execPortDown]
  refine ⟨_, rfl, rfl, fun i hi => setPorts_tomup _ hi, fun h => ?_⟩
  have hup : ((List.range 18).filter fun i => s.tomup.getLsbD i && i != p.val) = [] :=
    List.filter_eq_nil_iff.mpr fun i hi => by
      by_cases hp : i = p.val
      · simp [hp]
      · simp [h i (List.mem_range.mp hi) hp]
  rw [hup, setPorts_lost, if_pos rfl]

/-! ### Peers -/

theorem mbPlain_mbClean (bs : List Byte) : mbPlain (mbClean bs) = bs := by
  simp [mbPlain, mbClean, Function.comp_def]

/-- A physical write of unmarked bytes, byte by byte. -/
theorem physWrite_clean_read (pa a : Nat) (bs : List Byte) : Memory.read (s.physWrite pa (mbClean bs)).mem a =
    if pa ≤ a ∧ a < pa + bs.length then bs.getD (a - pa) 0 else Memory.read s.mem a := by
  rw [physWrite_mem, mbPlain_mbClean]
  split
  case isTrue h =>
    obtain ⟨i, rfl⟩ := Nat.exists_eq_add_of_le h.1
    have hi : i < bs.length := by omega
    rw [memory_read_writes_at _ _ _ _ hi, Nat.add_sub_cancel_left, List.getD_eq_getElem _ _ hi]
  case isFalse h => exact memory_read_writes_outside _ _ _ _ (by omega)

theorem natLe_getD (n v : Nat) {i : Nat} (h : i < n) : (natLe n v).getD i 0 = BitVec.ofNat 8 (v / 256 ^ i) := by
  induction n generalizing v i with
  | zero => omega
  | succ n ih =>
    cases i with
    | zero =>
      apply BitVec.eq_of_toNat_eq
      simp [natLe]
    | succ i => rw [natLe, List.getD_cons_succ, ih _ (by omega), Nat.div_div_eq_div_mul, ← Nat.pow_succ']

theorem toNat_append_byte {n : Nat} (x : BitVec n) (b : Byte) : (x ++ b).toNat = b.toNat + 256 * x.toNat := by
  rw [BitVec.toNat_append, ← Nat.shiftLeft_add_eq_or_of_lt b.isLt, Nat.shiftLeft_eq]
  omega

theorem word4_toNat (m : List Host.Cell) (a : Nat) : (word4 m a).toNat = leNat (Memory.reads m a 4) := by
  have h : (word4 m a).toNat = _ := toNat_append_byte _ (Memory.read m a)
  rw [h, toNat_append_byte, toNat_append_byte]
  rfl

theorem peerStore_bytes {pa : DWord} {data : List Byte} (h : s.peerRange pa.toNat data.length = true) :
    Answers (exec (.peerRequest (.store pa data)) s) fun t => ∀ a, Memory.read t.mem a =
      if pa.toNat ≤ a ∧ a < pa.toNat + data.length then data.getD (a - pa.toNat) 0 else Memory.read s.mem a := by
  have he : exec (.peerRequest (.store pa data)) s = .next (s.physWrite pa.toNat (mbClean data)) := if_pos h
  exact ⟨_, he, fun a => physWrite_clean_read _ _ _⟩

/-- A peer's 32-bit atomic add on four unmarked bytes that it reaches (R72, R239). -/
theorem exec_peerAdd {pa : DWord} (x y : DWord) (hr : s.peerRange pa.toNat 4 = true) (ha : pa.toNat % 4 = 0)
    (hm : unmarked s pa.toNat 4) : exec (.peerRequest (.rmw .add .u32 pa x y)) s =
      .next (s.physWrite pa.toNat (mbClean (natLe 4 ((word4 s.mem pa.toNat + x.setWidth 32).toNat)))) := by
  have hbad : ((List.range 4).any fun i => s.marked (pa.toNat + i)) = false :=
    List.any_eq_false.mpr fun i hi => by rw [hm i (List.mem_range.mp hi)]; simp
  have hsum : (word4 s.mem pa.toNat + x.setWidth 32).toNat =
      atomNew .add .u32 (leNat (Memory.reads s.mem pa.toNat 4)) (x.toNat % 2 ^ (8 * 4)) (y.toNat % 2 ^ (8 * 4)) := by
    rw [BitVec.toNat_add, word4_toNat, BitVec.toNat_setWidth]
    rfl
  rw [hsum]
  refine if_neg ?_
  simp only [AtomTy.regs, Nat.mul_one, hr, ha, hbad]
  decide

theorem peerAdd_bytes {pa : DWord} (x y : DWord) (hr : s.peerRange pa.toNat 4 = true) (ha : pa.toNat % 4 = 0)
    (hm : unmarked s pa.toNat 4) : Answers (exec (.peerRequest (.rmw .add .u32 pa x y)) s) fun t => ∀ a, a < 4 →
      Memory.read t.mem (pa.toNat + a) = (word4 s.mem pa.toNat + x.setWidth 32).extractLsb' (8 * a) 8 := by
  refine ⟨_, exec_peerAdd x y hr ha hm, fun a h => ?_⟩
  rw [physWrite_clean_read, if_pos (by simpa using h), Nat.add_sub_cancel_left, natLe_getD _ _ h, BitVec.extractLsb',
    Nat.shiftRight_eq_div_pow, Nat.pow_mul]

/-! ### Device registers -/

/-- An offset of the scheduler page's first part is a register of one head (R394). -/
theorem head_offset {h k : Nat} (hh : h < 4) (hk : k < 0x40) :
    0x40 * h + k < 0x100 ∧ (0x40 * h + k) / 0x40 = h ∧ (0x40 * h + k) % 0x40 = k := by omega

/-- An offset of its second part is a register of one partition (R393). -/
theorem part_offset {p k : Nat} (hp : p < 8) (hk : k < 0x20) : ¬ 0x200 + 0x20 * p + k < 0x100 ∧
    (0x200 ≤ 0x200 + 0x20 * p + k ∧ 0x200 + 0x20 * p + k < 0x300) ∧ (0x200 + 0x20 * p + k - 0x200) / 0x20 = p ∧
    (0x200 + 0x20 * p + k - 0x200) % 0x20 = k := by omega

/-- No frame runs on a head, so it has no deadline (R394). -/
def idle (x : Head) : Prop := x.period = 0 ∨ x.ctl.getLsbD 0 = false

theorem regWrite_headCtl {h : Nat} (hh : h < 4) (v : Word) : s.regWrite (0x40 * h) v = s.writeHeadCtl h v := by
  obtain ⟨hlt, hdiv, hmod⟩ := head_offset (k := 0) hh (by decide)
  rw [Nat.add_zero] at hlt hdiv hmod
  simp only [State.regWrite, hlt, hdiv, hmod, if_true]

theorem regWrite_framePeriod {h : Nat} (hh : h < 4) (v : Word) : s.regWrite (0x40 * h + 4) v =
    s.modHead h fun x => if x.period == 0 || x.ctl.getLsbD 0 == false then { x with period := v, newPeriod := none }
      else { x with newPeriod := some v } := by
  obtain ⟨hlt, hdiv, hmod⟩ := head_offset (k := 4) hh (by decide)
  simp only [State.regWrite, hlt, hdiv, hmod, if_true]

theorem regWrite_leadTime {h : Nat} (hh : h < 4) (v : Word) : s.regWrite (0x40 * h + 8) v =
    s.modHead h fun x => if x.period == 0 || x.ctl.getLsbD 0 == false then { x with lead := v, newLead := none }
      else { x with newLead := some v } := by
  obtain ⟨hlt, hdiv, hmod⟩ := head_offset (k := 8) hh (by decide)
  simp only [State.regWrite, hlt, hdiv, hmod, if_true]

theorem regWrite_saveBaseLow {p : Nat} (hp : p < 8) (v : Word) : s.regWrite (0x200 + 0x20 * p) v =
    s.modPart p fun x => { x with saveBase := pair64 v (hi32 x.saveBase) } := by
  obtain ⟨hge, hin, hdiv, hmod⟩ := part_offset (k := 0) hp (by decide)
  rw [Nat.add_zero] at hge hin hdiv hmod
  simp only [State.regWrite, hge, hin, hdiv, hmod, if_false, if_true, and_self]

theorem regWrite_saveBaseHigh {p : Nat} (hp : p < 8) (v : Word) : s.regWrite (0x200 + 0x20 * p + 4) v =
    s.modPart p fun x => { x with saveBase := pair64 (lo32 x.saveBase) (v &&& 0xFFFFF) } := by
  obtain ⟨hge, hin, hdiv, hmod⟩ := part_offset (k := 4) hp (by decide)
  simp only [State.regWrite, hge, hin, hdiv, hmod, if_false, if_true, and_self]

theorem regWrite_saveSize {p : Nat} (hp : p < 8) (v : Word) : s.regWrite (0x200 + 0x20 * p + 8) v =
    s.modPart p fun x => { x with saveSize := v } := by
  obtain ⟨hge, hin, hdiv, hmod⟩ := part_offset (k := 8) hp (by decide)
  simp only [State.regWrite, hge, hin, hdiv, hmod, if_false, if_true, and_self]

/-- An offset that no register lies at (R393, R394, R415). -/
theorem regWrite_other {off : Nat} (v : Word) (hhead : ∀ h, h < 4 → ∀ k ∈ [0, 4, 8], off ≠ 0x40 * h + k)
    (hpart : ∀ p, p < 8 → ∀ k ∈ [0, 4, 8], off ≠ 0x200 + 0x20 * p + k) (hway : off ∉ [0x10000, 0x10008, 0x1000C]) :
    s.regWrite off v = s := by
  have hdiv := Nat.div_add_mod off 0x40
  have hpdiv := Nat.div_add_mod (off - 0x200) 0x20
  unfold State.regWrite
  split
  case isTrue hlt =>
    have hh : off / 0x40 < 4 := by omega
    dsimp only
    split
    case h_1 h => exact absurd (hhead _ hh 0 (by simp)) (by omega)
    case h_2 h => exact absurd (hhead _ hh 4 (by simp)) (by omega)
    case h_3 h => exact absurd (hhead _ hh 8 (by simp)) (by omega)
    case h_4 => rfl
  case isFalse =>
    split
    case isTrue hin =>
      have hp : (off - 0x200) / 0x20 < 8 := by omega
      dsimp only
      split
      case h_1 h => exact absurd (hpart _ hp 0 (by simp)) (by omega)
      case h_2 h => exact absurd (hpart _ hp 4 (by simp)) (by omega)
      case h_3 h => exact absurd (hpart _ hp 8 (by simp)) (by omega)
      case h_4 => rfl
    case isFalse =>
      split
      case h_1 => simp at hway
      case h_2 => simp at hway
      case h_3 => simp at hway
      case h_4 => rfl

theorem exec_registerWrite_ofNat {n : Nat} (hn : n < 2 ^ 17) (v : Word) :
    exec (.registerWrite (BitVec.ofNat 17 n) v) s = .next (s.regWrite n v) := by
  rw [exec_registerWrite, BitVec.toNat_ofNat, Nat.mod_eq_of_lt hn]

theorem extractLsb'_low (d : DWord) : d.extractLsb' 0 32 = lo32 d := rfl

theorem extractLsb'_high (d : DWord) : d.extractLsb' 32 32 = hi32 d := by
  rw [BitVec.extractLsb', Nat.shiftRight_eq_div_pow]; rfl

theorem headCtl_write (h : Fin 4) (v : Word) :
    Answers (exec (.registerWrite (BitVec.ofNat 17 (0x40 * h.val)) v) s) fun t =>
      (t.head h.val).ctl = v &&& 0x00FF3F03 ∧ t.mem = s.mem := by
  refine ⟨_, exec_registerWrite_ofNat (by omega) v, ?_, regWrite_mem _ _ _⟩
  rw [regWrite_headCtl h.isLt, State.writeHeadCtl, head_modHead_same]

/-- A head's register takes the value at once when the head is idle, and keeps it for the next deadline otherwise. -/
theorem headDeadline_write {off : Nat} (hoff : off < 2 ^ 17) {h : Nat} {v : Word} {now later : Head → Head}
    (hw : s.regWrite off v = s.modHead h fun x =>
      if x.period == 0 || x.ctl.getLsbD 0 == false then now x else later x) :
    Answers (exec (.registerWrite (BitVec.ofNat 17 off) v) s) fun t => t.mem = s.mem ∧
      (∀ k, k ≠ h → t.head k = s.head k) ∧ (idle (s.head h) → t.head h = now (s.head h)) ∧
      (¬ idle (s.head h) → t.head h = later (s.head h)) := by
  refine ⟨_, exec_registerWrite_ofNat hoff v, regWrite_mem _ _ _, fun k hk => ?_, fun hi => ?_, fun hi => ?_⟩
  · rw [hw, head_modHead_ne _ hk]
  · rw [hw, head_modHead_same, if_pos (by simpa [idle] using hi)]
  · rw [hw, head_modHead_same, if_neg (by simpa [idle] using hi)]

theorem saveBaseLow_write (p : Fin 8) (v : Word) :
    Answers (exec (.registerWrite (BitVec.ofNat 17 (0x200 + 0x20 * p.val)) v) s) fun t => t.mem = s.mem ∧
      (t.partOf p.val).saveBase.extractLsb' 0 32 = v ∧
      (t.partOf p.val).saveBase.extractLsb' 32 32 = (s.partOf p.val).saveBase.extractLsb' 32 32 := by
  refine ⟨_, exec_registerWrite_ofNat (by omega) v, regWrite_mem _ _ _, ?_⟩
  rw [regWrite_saveBaseLow p.isLt, partOf_modPart_same]
  simp only [extractLsb'_low, extractLsb'_high, lo32_pair64, hi32_pair64, and_self]

theorem saveBaseHigh_write (p : Fin 8) (v : Word) :
    Answers (exec (.registerWrite (BitVec.ofNat 17 (0x204 + 0x20 * p.val)) v) s) fun t => t.mem = s.mem ∧
      (t.partOf p.val).saveBase.extractLsb' 0 32 = (s.partOf p.val).saveBase.extractLsb' 0 32 ∧
      (t.partOf p.val).saveBase.extractLsb' 32 32 = v &&& 0xFFFFF := by
  refine ⟨_, exec_registerWrite_ofNat (by omega) v, regWrite_mem _ _ _, ?_⟩
  rw [show 0x204 + 0x20 * p.val = 0x200 + 0x20 * p.val + 4 by omega, regWrite_saveBaseHigh p.isLt, partOf_modPart_same]
  simp only [extractLsb'_low, extractLsb'_high, lo32_pair64, hi32_pair64, and_self]

theorem saveSize_write (p : Fin 8) (v : Word) :
    Answers (exec (.registerWrite (BitVec.ofNat 17 (0x208 + 0x20 * p.val)) v) s) fun t => t.mem = s.mem ∧
      t.partOf p.val = { s.partOf p.val with saveSize := v } := by
  refine ⟨_, exec_registerWrite_ofNat (by omega) v, regWrite_mem _ _ _, ?_⟩
  rw [show 0x208 + 0x20 * p.val = 0x200 + 0x20 * p.val + 8 by omega, regWrite_saveSize p.isLt, partOf_modPart_same]

theorem routeCtl_write (v : Word) : Answers (exec (.registerWrite 0x10000 v) s) fun t => t.mem = s.mem ∧
    t.agenda = .route (v.toNat % 64) (v.toNat / 64 % 4096) (v.getLsbD 31) :: s.agenda ∧ t.busyRoutes ≠ [] :=
  ⟨_, rfl, rfl, rfl, List.concat_ne_nil _ _⟩

theorem frbaseLow_write (v : Word) : Answers (exec (.registerWrite 0x10008 v) s) fun t => t.mem = s.mem ∧
    t.frbase.extractLsb' 0 32 = v &&& 0xFFFFF000 ∧ t.frbase.extractLsb' 32 32 = s.frbase.extractLsb' 32 32 := by
  have he : exec (.registerWrite 0x10008 v) s =
      .next { s with frbase := pair64 (v &&& 0xFFFFF000) (hi32 s.frbase) } := rfl
  refine ⟨_, he, rfl, ?_⟩
  simp only [extractLsb'_low, extractLsb'_high, lo32_pair64, hi32_pair64, and_self]

theorem frbaseHigh_write (v : Word) : Answers (exec (.registerWrite 0x1000C v) s) fun t => t.mem = s.mem ∧
    t.frbase.extractLsb' 0 32 = s.frbase.extractLsb' 0 32 ∧ t.frbase.extractLsb' 32 32 = v &&& 0xFFFFF := by
  have he : exec (.registerWrite 0x1000C v) s =
      .next { s with frbase := pair64 (lo32 s.frbase) (v &&& 0xFFFFF) } := rfl
  refine ⟨_, he, rfl, ?_⟩
  simp only [extractLsb'_low, extractLsb'_high, lo32_pair64, hi32_pair64, and_self]

theorem links : Links :=
  ⟨fun _ _ _ _ hp hx hq => linkTraining_id hp hx hq, fun _ _ h => linkTraining_none h, fun p _ => portDown_tomup p,
    fun _ _ _ h => peerStore_bytes h, fun _ _ _ => rfl, fun _ x y _ hr ha hm => peerAdd_bytes x y hr ha hm,
    fun h v _ => headCtl_write h v,
    fun h v _ => ⟨headDeadline_write (by omega) (regWrite_framePeriod h.isLt v),
      headDeadline_write (by omega) (regWrite_leadTime h.isLt v)⟩,
    fun p v _ => ⟨saveBaseLow_write p v, saveBaseHigh_write p v, saveSize_write p v⟩, fun v _ => routeCtl_write v,
    fun v _ => ⟨frbaseLow_write v, frbaseHigh_write v⟩,
    fun a v s hh hp hw => by rw [exec_registerWrite, regWrite_other v hh hp hw]⟩

end Sys2Proof.Proofs
end

section
/-! Boot (R11, R419, R420, R422, R423): what a reset keeps, what the placement of a block leaves alone, and the
service's eight blocks. -/

namespace Sys2Proof.Proofs

open Sys2Proof.Machine Sys2Proof.Laws Sys2Proof.Claims

variable {s t : State} {u n : Nat} {entry : DWord}

theorem exec_boot (b : BringUp) : exec (.boot b) s = execBoot b s := rfl

/-! ### What starting the service leaves alone -/

/-- The part of the state that the start of the service leaves as it is. -/
structure Kept where
  mem : List Host.Cell
  flash : List Host.Cell
  fuses : Nat
  leaf : Nat
  lpok : Word
  running : Option Firmware

/-- That part of a state. -/
def kept (s : State) : Kept := ⟨s.mem, s.flash, s.fuses, s.leaf, s.lpok, s.running⟩

/-- The groups, blocks and grids of the machine. -/
def work (s : State) : List Machine.Group × List Block × List Grid := (s.groups, s.blocks, s.grids)

theorem afterReset_kept (s : State) : kept s.afterReset = ⟨s.mem, s.flash, s.fuses, s.leaf, 0, none⟩ := by
  unfold State.afterReset
  dsimp only
  split
  · rfl
  · exact foldl_keeps kept (fun t n => t.modCluster n fun c => { c with rail := railOf c.level }) (fun _ _ => rfl) _ _

theorem afterReset_work (s : State) : work s.afterReset = ([], [], []) := by
  unfold State.afterReset
  dsimp only
  split
  · rfl
  · exact foldl_keeps work (fun t n => t.modCluster n fun c => { c with rail := railOf c.level }) (fun _ _ => rfl) _ _

theorem settlePaths_kept (s : State) (u : Nat) : kept (s.settlePaths u) = kept s := by
  unfold State.settlePaths
  split <;> rfl

theorem newGroups_kept (s : State) (b : Block) (gr : Grid) (gids : List (Nat × Nat × Nat)) :
    kept (s.newGroups b gr gids) = kept s := by
  unfold State.newGroups
  refine foldl_keeps kept _ (fun s e => ?_) _ s
  exact settlePaths_kept _ _

theorem dispatch_kept (s : State) (gr : Grid) : kept (s.dispatch gr) = kept s := by
  unfold State.dispatch
  split <;> rfl

theorem placeBlock_kept (s : State) (g bid r cl : Nat) (sp : Spots) : kept (s.placeBlock g bid r cl sp) = kept s := by
  unfold State.placeBlock
  split
  case h_1 => rfl
  case h_2 gr _ =>
    have hd := dispatch_kept s gr
    generalize s.dispatch gr = d at hd ⊢
    rw [← hd]
    refine (newGroups_kept _ _ _ _).trans ?_
    dsimp only
    split <;> rfl

/-! ### Slot 0 -/

theorem ctx_slot (s : State) (slot : Nat) : (s.ctx slot).slot = slot := by
  unfold State.ctx
  cases h : s.ctxs.find? fun c => c.slot == slot with
  | none => rfl
  | some c => simpa using List.find?_some h

theorem ctx_setCtx_same (s : State) (c : Ctx) : (s.setCtx c).ctx c.slot = c := by
  have hfind : ∀ l : List Ctx, (putCtx c l).find? (fun x => x.slot == c.slot) = some c := by
    intro l
    induction l with
    | nil => simp [putCtx]
    | cons x xs ih =>
      rw [putCtx]
      split
      · simp
      · split
        · simp
        · rename_i hne
          rw [List.find?_cons_of_neg (by simpa using Ne.symm hne), ih]
  show ((putCtx c s.ctxs).find? _).getD _ = c
  rw [hfind, Option.getD_some]

/-- The context of a slot as it is LIVE with SYS (R343, R344). -/
def LiveSys (s : State) (slot : Nat) : Prop := (s.ctx slot).state = .live ∧ (s.ctx slot).ccb.sys = true

theorem LiveSys.of_ctxs {slot : Nat} (h : LiveSys s slot) (he : t.ctxs = s.ctxs) : LiveSys t slot := by
  unfold LiveSys State.ctx at *
  rwa [he]

theorem LiveSys.modGrid {slot : Nat} {f : Grid → Grid} (h : LiveSys s slot) : LiveSys (s.modGrid u f) slot :=
  h.of_ctxs rfl

/-- A change of a context that leaves its state and its SYS bit alone. -/
theorem LiveSys.modCtx {slot : Nat} {f : Ctx → Ctx} (h : LiveSys s slot) (hslot : ∀ c, (f c).slot = c.slot)
    (hstate : ∀ c, (f c).state = c.state) (hsys : ∀ c, (f c).ccb.sys = c.ccb.sys) : LiveSys (s.modCtx slot f) slot := by
  have hctx : (s.modCtx slot f).ctx slot = f (s.ctx slot) := by
    have hset := ctx_setCtx_same s (f (s.ctx slot))
    rwa [hslot, ctx_slot, ← state_modCtx_eq] at hset
  unfold LiveSys
  rw [hctx, hstate, hsys]
  exact h

/-! ### One block of the service -/

/-- The grid's task is the service's, of slot 0 (R343, R422). -/
structure ServiceGrid (entry : DWord) (gr : Grid) : Prop where
  slot : gr.slot = 0
  kind : gr.kind = .compute
  only : gr.only = none
  task : gr.task = firmwareTask entry

/-- Where a group stands and its lanes. -/
def seatOf (g : Machine.Group) : Nat × Nat × List Lane := (g.block, g.core, g.lanes)

/-- The first `n` blocks of the service stand, one on each of the Waystation's first cores, and their lanes begin at
the image's ENTRY. -/
structure Started (entry : DWord) (u n : Nat) (s : State) : Prop where
  grid : ∃ gr, s.grid? u = some gr ∧ ServiceGrid entry gr
  blocks : (s.blocks.map fun b => (b.slot, b.cluster, b.cores.map fun c => c.1)) =
    (List.range n).map fun k => (0, 8, [k])
  length : s.groups.length = n
  seats : ∀ q ∈ s.groups.map seatOf, (∃ b ∈ s.blocks, b.uid = q.1) ∧ q.2.1 < n ∧
    ∀ x ∈ q.2.2, x.st = .runnable → x.pc = entry
  slot0 : LiveSys s 0

theorem seat_groups (s : State) (g : Machine.Group) :
    (s.seat g).groups.map seatOf = s.groups.map seatOf ++ [seatOf g] := by
  unfold State.seat State.settlePaths
  dsimp only
  split
  · simp [seatOf]
  · rw [List.map_map, List.map_congr_left (g := seatOf), List.map_append]
    · rfl
    · intro x _
      simp only [Function.comp_apply]
      split <;> rfl

/-- A seat changes the groups only. -/
theorem seat_frame (s : State) (g : Machine.Group) :
    (s.seat g).blocks = s.blocks ∧ (s.seat g).grids = s.grids ∧ (s.seat g).ctxs = s.ctxs := by
  unfold State.seat State.settlePaths
  dsimp only
  split <;> exact ⟨rfl, rfl, rfl⟩

/-- A lane of a compute grid that runs begins at the task's kernel (R14, R53). -/
theorem newLane_pc {gr : Grid} (hk : gr.kind = .compute) (t : TaskRec) (bid gid l : Nat)
    (h : (s.newLane gr t bid gid l).st = .runnable) : (s.newLane gr t bid gid l).pc = t.kaddr := by
  unfold State.newLane at h ⊢
  rw [hk] at h ⊢
  dsimp only at h ⊢
  split at h
  · rw [if_pos ‹_›]; rfl
  · cases h

theorem newGroup_seatOf (b : Block) (gr : Grid) (u gid core hw : Nat) : seatOf (s.newGroup b gr u gid core hw) =
    (b.uid, core, (List.range b.task.width).map fun l => s.newLane gr b.task b.bid gid l) := rfl

theorem firmwareTask_places (entry : DWord) (k : Nat) : placesOf (firmwareTask entry) [(k, 0, [0])] = [(0, k, 0)] := by
  simp [placesOf, firmwareTask, TaskRec.gidsOn, TaskRec.groups, TaskRec.perCore, ceilDiv]

theorem grid?_modGrid_same {gr : Grid} {f : Grid → Grid} (hf : ∀ g, (f g).uid = g.uid) (h : s.grid? u = some gr) :
    (s.modGrid u f).grid? u = some (f gr) := by
  unfold State.modGrid State.grid? at *
  dsimp only
  revert h
  induction s.grids with
  | nil => simp
  | cons g gs ih =>
    intro h
    rw [List.map_cons, List.find?_cons]
    rw [List.find?_cons] at h
    by_cases hg : g.uid = u
    · rw [beq_iff_eq.mpr hg] at h
      obtain rfl := Option.some.inj h
      simp [hg, hf]
    · rw [beq_eq_false_iff_ne.mpr hg] at h
      rw [if_neg hg, beq_eq_false_iff_ne.mpr hg]
      exact ih h

/-- A grid admitted with a dispatch number is the service's as before, and slot 0 stays as it is (R315). -/
theorem dispatch_service {gr : Grid} (h : s.grid? u = some gr) (hg : ServiceGrid entry gr) (hc : LiveSys s 0) :
    (s.dispatch gr).groups = s.groups ∧ (s.dispatch gr).blocks = s.blocks ∧ LiveSys (s.dispatch gr) 0 ∧
      ∃ gr', (s.dispatch gr).grid? u = some gr' ∧ ServiceGrid entry gr' := by
  have huid : gr.uid = u := by simpa using List.find?_some h
  unfold State.dispatch
  rw [hg.slot, huid]
  split
  · exact ⟨rfl, rfl, hc, gr, h, hg⟩
  · refine ⟨rfl, rfl, LiveSys.modGrid (hc.modCtx ?_ ?_ ?_), _, grid?_modGrid_same (fun _ => rfl) h,
      hg.slot, hg.kind, hg.only, hg.task⟩
    all_goals exact fun _ => rfl

/-- A block of the service takes its place as one group on the Waystation core `k`. -/
theorem placeBlock_service {gr : Grid} (h : s.grid? u = some gr) (hg : ServiceGrid entry gr) (hc : LiveSys s 0)
    (k : Nat) : ∃ (b : Block) (gr' : Grid) (v : Nat) (t : State),
      s.placeBlock u k 0 8 [(k, 0, [0])] = t.seat (t.newGroup b gr' v 0 k 0) ∧
      (∃ x, t.grid? u = some x ∧ ServiceGrid entry x) ∧ LiveSys t 0 ∧ gr'.kind = .compute ∧
      t.groups = s.groups ∧ t.blocks = s.blocks ++ [b] ∧
      (b.slot, b.cluster, b.cores.map fun c => c.1) = (0, 8, [k]) ∧ b.task = firmwareTask entry := by
  obtain ⟨hgroups, hblocks, hlive, gr', hgr', hg'⟩ := dispatch_service h hg hc
  obtain ⟨hslot, hkind, honly, htask⟩ := hg'
  unfold State.placeBlock
  rw [h]
  dsimp only
  generalize s.dispatch gr = d at *
  rw [hgr', Option.getD_some, hkind, htask, firmwareTask_places]
  unfold State.newGroups
  rw [honly]
  refine ⟨_, gr', _, _, rfl, ⟨_, grid?_modGrid_same (f := fun x => { x with homes := insertNat 8 x.homes }) (fun _ => rfl) hgr',
    hslot, hkind, honly, htask⟩, hlive.of_ctxs rfl, hkind, hgroups, ?_, ?_, rfl⟩
  · rw [← hblocks]; rfl
  · rw [hslot]; rfl

theorem started_placeBlock (h : Started entry u n s) :
    Started entry u (n + 1) (s.placeBlock u n 0 8 [(n, 0, [0])]) := by
  obtain ⟨⟨gr, hgr, hsvc⟩, hblocks, hlength, hseats, hslot0⟩ := h
  obtain ⟨b, gr', v, t, he, hgrid, hlive, hkind, hg, hb, hplace, htask⟩ := placeBlock_service hgr hsvc hslot0 n
  obtain ⟨hfb, hfg, hfc⟩ := seat_frame t (t.newGroup b gr' v 0 n 0)
  have hs := seat_groups t (t.newGroup b gr' v 0 n 0)
  rw [hg, newGroup_seatOf] at hs
  rw [he]
  generalize t.seat (t.newGroup b gr' v 0 n 0) = r at *
  refine ⟨?_, ?_, ?_, ?_, hlive.of_ctxs hfc⟩
  · unfold State.grid? at *
    rwa [hfg]
  · rw [hfb, hb, List.map_append, hblocks, List.range_succ, List.map_append, List.map_singleton, hplace]
    rfl
  · simpa [hlength] using congrArg List.length hs
  · rw [hs, hfb, hb]
    refine List.forall_mem_append.mpr ⟨fun q hq => ?_, List.forall_mem_singleton.mpr ⟨⟨b, by simp, rfl⟩, by simp, ?_⟩⟩
    · obtain ⟨⟨y, hy, hyu⟩, hcore, hpc⟩ := hseats q hq
      exact ⟨⟨y, List.mem_append_left _ hy, hyu⟩, by omega, hpc⟩
    · intro x hx hst
      obtain ⟨l, -, rfl⟩ := List.mem_map.mp hx
      rw [newLane_pc hkind _ _ _ _ hst, htask]
      rfl

/-! ### The service on the Waystation -/

/-- A predicate that each step of a run carries to the next number holds at the end of the run. -/
theorem foldl_range_induction {α : Type} {P : Nat → α → Prop} {op : α → Nat → α} {a : α} (h0 : P 0 a)
    (hstep : ∀ n a, P n a → P (n + 1) (op a n)) (n : Nat) : P n ((List.range n).foldl op a) := by
  induction n with
  | zero => exact h0
  | succ n ih =>
    rw [List.range_succ, List.foldl_append]
    exact hstep n _ ih

/-- Slot 0 as the boot sequence creates it (R343, R422). -/
def serviceCtx : Ctx := { slot := 0, state := .live, ccb := { sys := true, ptroot := Config.bootPtroot } }

/-- The grid of the service's blocks. -/
def serviceGrid (u : Nat) (f : Firmware) : Grid :=
  { mkGrid u 0 [] (firmwareTask (Config.payloadAt + BitVec.ofNat 64 f.entry)) .compute 0 [] with placed := 8 }

/-- The state in which the first block of the service is placed. -/
def serviceReady (s : State) (f : Firmware) : State :=
  { s.setCtx serviceCtx with fresh := s.fresh + 1, running := some f, grids := s.grids ++ [serviceGrid s.fresh f] }

theorem startService_eq (s : State) (f : Firmware) : s.startService f =
    (List.range 8).foldl (fun t k => t.placeBlock s.fresh k 0 8 [(k, 0, [0])]) (serviceReady s f) := rfl

theorem startService_kept (s : State) (f : Firmware) :
    kept (s.startService f) = { kept s with running := some f } := by
  rw [startService_eq, foldl_keeps kept _ fun s _ => placeBlock_kept s _ _ _ _ _]
  rfl

theorem serviceReady_started (f : Firmware) (hw : work s = ([], [], [])) :
    Started (Config.payloadAt + BitVec.ofNat 64 f.entry) s.fresh 0 (serviceReady s f) := by
  obtain ⟨hgroups, hblocks, hgrids⟩ : s.groups = [] ∧ s.blocks = [] ∧ s.grids = [] := by simpa [work] using hw
  have hg : (serviceReady s f).groups = [] := hgroups
  have hb : (serviceReady s f).blocks = [] := hblocks
  have hgrid : (serviceReady s f).grid? s.fresh = some (serviceGrid s.fresh f) := by
    simp [State.grid?, serviceReady, hgrids, serviceGrid, mkGrid]
  have hctx : (serviceReady s f).ctx 0 = serviceCtx := ctx_setCtx_same s serviceCtx
  refine ⟨⟨_, hgrid, rfl, rfl, rfl, rfl⟩, by simp [hb], by simp [hg], by simp [hg], ?_⟩
  unfold LiveSys
  rw [hctx]
  exact ⟨rfl, rfl⟩

theorem startService_started (f : Firmware) (hw : work s = ([], [], [])) :
    Started (Config.payloadAt + BitVec.ofNat 64 f.entry) s.fresh 8 (s.startService f) := by
  rw [startService_eq]
  exact foldl_range_induction (serviceReady_started f hw) (fun _ _ h => started_placeBlock h) 8

/-- A listed number names a block of the list. -/
theorem block?_of_mem {v : Nat} (h : ∃ b ∈ s.blocks, b.uid = v) : ∃ b ∈ s.blocks, s.block? v = some b := by
  obtain ⟨b, hb, hu⟩ := h
  cases hf : s.block? v with
  | none => exact absurd (List.find?_eq_none.mp hf b hb) (by simp [hu])
  | some x => exact ⟨x, List.mem_of_find?_eq_some hf, rfl⟩

theorem onWaystation_of_started {f : Firmware} (h : Started (Config.payloadAt + BitVec.ofNat 64 f.entry) u 8 s) :
    OnWaystation s f := by
  refine ⟨h.blocks, h.length, fun g hg => ?_⟩
  obtain ⟨hblock, hcore, hpc⟩ := h.seats (seatOf g) (List.mem_map_of_mem hg)
  refine ⟨?_, hcore, hpc⟩
  obtain ⟨b, hb, hfind⟩ := block?_of_mem (v := g.block) hblock
  have hplace := List.mem_map_of_mem (f := fun b : Block => (b.slot, b.cluster, b.cores.map fun c => c.1)) hb
  rw [h.blocks] at hplace
  obtain ⟨k, -, hk⟩ := List.mem_map.mp hplace
  have hcluster : b.cluster = 8 := (congrArg (fun q => q.2.1) hk).symm
  unfold State.clusterOf
  rw [hfind, Option.map_some, Option.getD_some, hcluster]

/-! ### Boot -/

/-- The state between the reset and the start of the service: what bring-up has found (R422, R423). -/
def broughtUp (b : BringUp) (f : Firmware) (sec : Nat) (s : State) : State :=
  ({ s with
      bringup0 := bringupWord b (decide (f.offset ≠ 0)), lpok := b.lpddr, failed := ~~~ b.lpddr ++ ~~~ b.hbm
      fuses := max s.fuses (min 64 sec) }.setPod (trained b.ids).1).setPorts (trained b.ids).2

theorem broughtUp_work (b : BringUp) (f : Firmware) (sec : Nat) : work (broughtUp b f sec s) = work s := rfl

theorem broughtUp_kept (b : BringUp) (f : Firmware) (sec : Nat) : kept (broughtUp b f sec s) =
    { kept s with lpok := b.lpddr, fuses := max s.fuses (min 64 sec) } := rfl

theorem exec_boot_none (b : BringUp) (hA : s.afterReset.image 0 = none) (hB : s.afterReset.image 0x4000000 = none) :
    exec (.boot b) s = .next s.afterReset := by
  rw [exec_boot, execBoot]
  dsimp only
  rw [hA, hB]
  rfl

theorem exec_boot_image (b : BringUp) {f : Firmware} {sec : Nat}
    (h : (s.afterReset.image 0 <|> s.afterReset.image 0x4000000) = some (f, sec)) :
    exec (.boot b) s = .next ((broughtUp b f sec s.afterReset).startService f) := by
  rw [exec_boot, execBoot]
  dsimp only
  rw [h]
  rfl

theorem image_offset {a : Nat} {f : Firmware} {sec : Nat} (h : s.image a = some (f, sec)) : f.offset = a := by
  unfold State.image at h
  dsimp only at h
  split at h
  · cases h
  · split at h
    · cases h; rfl
    · cases h

/-- The machine after a boot from an image. -/
theorem boot_image (b : BringUp) {f : Firmware} {sec : Nat}
    (h : (s.afterReset.image 0 <|> s.afterReset.image 0x4000000) = some (f, sec)) :
    Answers (exec (.boot b) s) fun t =>
      kept t = ⟨s.mem, s.flash, max s.fuses (min 64 sec), s.leaf, b.lpddr, some f⟩ ∧ LiveSys t 0 ∧ OnWaystation t f := by
  have hstarted := startService_started (s := broughtUp b f sec s.afterReset) f (by rw [broughtUp_work, afterReset_work])
  refine ⟨_, exec_boot_image b h, ?_, hstarted.slot0, onWaystation_of_started hstarted⟩
  have hk := afterReset_kept s
  have hf : s.afterReset.fuses = s.fuses := congrArg Kept.fuses hk
  rw [startService_kept, broughtUp_kept, hk, hf]

theorem boot : Boot := by
  intro b s
  refine ⟨fun hA hB => ⟨exec_boot_none b hA hB, congrArg Kept.running (afterReset_kept s),
    congrArg Prod.fst (afterReset_work s)⟩, fun f sec hA => ?_, fun f sec hA hB => ?_⟩
  · obtain ⟨t, he, hkept, ⟨hlive, hsys⟩, hway⟩ := boot_image b (f := f) (sec := sec) (by rw [hA]; rfl)
    simp only [kept, Kept.mk.injEq] at hkept
    obtain ⟨hmem, hflash, hfuses, hleaf, hlpok, hrun⟩ := hkept
    exact ⟨t, he, hrun, image_offset hA, hfuses, hmem, hflash, hleaf, hlive, hsys, hlpok, hway⟩
  · obtain ⟨t, he, hkept, ⟨-, hsys⟩, hway⟩ := boot_image b (f := f) (sec := sec) (by rw [hA, hB]; rfl)
    simp only [kept, Kept.mk.injEq] at hkept
    obtain ⟨hmem, -, -, -, -, hrun⟩ := hkept
    exact ⟨t, he, hrun, image_offset hB, hmem, hsys, hway⟩

end Sys2Proof.Proofs
end

section
/-! The two statements about the device at a glance. -/

namespace Sys2Proof.Proofs

/-- Settles O57: each step of heat and background work by its own case, and the order of the rails from
`setRails`, the one update that both logic-rail steps make. -/
theorem backgroundAndRails : Obligations.BackgroundAndRails := ⟨background, rails⟩

/-- Settles O58: `Links` by the registers, ports and peers one by one; `Boot` by induction on the service's blocks,
with `Started` as what holds after the first `n` of them. -/
theorem linksAndBoot : Obligations.LinksAndBoot := ⟨links, boot⟩

end Sys2Proof.Proofs
end

section
/-! The register files of a group (R30, R107, R112, R194): what a read gives after a write. -/

namespace Sys2Proof.Proofs

open Sys2Proof.Machine Sys2Proof.Laws Sys2Proof.Claims

variable {s : State} {g : Machine.Group} {l k r q : Nat} {w : Word} {b : Bool}

theorem slotOf_writeV : s.slotOf (g.writeV l r w) = s.slotOf g := by
  unfold State.slotOf
  rw [group_writeV_block]

theorem pendT_clobber {d : Dst} : (g.clobber d).pendT l r = g.pendT l r := by
  unfold Machine.Group.pendT Machine.Group.clobber
  rw [List.any_map]
  congr 1
  funext p
  simp only [Function.comp]
  split <;> rfl

theorem pendV_writeV : (g.writeV l r w).pendV k q = g.pendV k q := by
  unfold Machine.Group.writeV
  split <;> exact pendV_clobber

theorem pendT_writeV : (g.writeV l r w).pendT k q = g.pendT k q := by
  unfold Machine.Group.writeV
  split <;> exact pendT_clobber

/-- A write moves no lane's window. -/
theorem vbase_writeV : ((g.writeV l r w).lane k).vbase = (g.lane k).vbase := by
  unfold Machine.Group.writeV
  split <;>
  · rw [lane_clobber]
    by_cases hk : k = l
    · subst hk
      unfold Machine.Group.modLane Machine.Group.lane
      rw [List.getD_eq_getElem?_getD, List.getD_eq_getElem?_getD, List.getElem?_modify_eq]
      cases g.lanes[k]? <;> rfl
    · rw [lane_modLane_ne hk]

theorem vIdx_writeV : ((g.writeV l r w).lane k).vIdx q = (g.lane k).vIdx q := by
  unfold Lane.vIdx
  rw [vbase_writeV]

theorem scalarFile : ScalarFile := by
  intro s g d r w
  by_cases hp : g.pendS (g.sbase + r) = true
  · rw [if_pos hp]
    unfold readS
    rw [pendS_writeS, sbase_writeS, if_pos hp]
    rfl
  · rw [if_neg hp]
    split
    · subst r
      exact readS_writeS_same (by simpa using hp)
    · exact readS_writeS_ne ‹_›

/-- A register of the allocation, where nothing is pending for it, is what its lane's table holds. -/
theorem readV_register (hr : r < 120) (hp : g.pendV k ((g.lane k).vIdx r) = false) :
    readV s g k r = tget 0 (g.lane k).v ((g.lane k).vIdx r) := by
  unfold readV
  simp only [hr, hp, if_true, Bool.false_eq_true, if_false]

/-- A clause temporary, where nothing is pending for it, is what its lane has written in the clause. -/
theorem readV_temp (hr : ¬ r < 120) (hp : g.pendT k r = false) : readV s g k r =
    (((g.lane k).t.find? fun e => e.1 == r).map (·.2)).getD (s.undef (s.slotOf g) .vreg (vPlace k (392 + r))) := by
  unfold readV
  simp only [hr, hp, Bool.false_eq_true, if_false]
  cases (g.lane k).t.find? fun e => e.1 == r <;> rfl

/-- A register whose result is pending reads a value that nothing fixes. -/
theorem readV_pending (hp : (if r < 120 then g.pendV k ((g.lane k).vIdx r) else g.pendT k r) = true) : readV s g k r =
    s.undef (s.slotOf g) .vreg (vPlace k (if r < 120 then (g.lane k).vIdx r else 392 + r)) := by
  unfold readV
  split at hp <;> simp only [*, if_true, if_false]

theorem readV_writeV_other (h : ¬ (k = l ∧ q = r)) (hl : l < g.lanes.length)
    (hp : (if q < 120 then g.pendV k ((g.lane k).vIdx q) else g.pendT k q) = false) :
    readV s (g.writeV l r w) k q = readV s g k q := by
  by_cases hk : k = l
  · subst hk
    have hq : q ≠ r := fun e => h ⟨rfl, e⟩
    split at hp
    case isTrue h120 =>
      rw [readV_register h120 hp, readV_register h120 (by rwa [pendV_writeV, vIdx_writeV]), vIdx_writeV]
      by_cases hr : r < 120
      · rw [lane_writeV_same hl hr]
        exact tget_tset_ne _ _ _ (by unfold Lane.vIdx; omega)
      · rw [lane_writeV_temp hl hr]
    case isFalse h120 =>
      rw [readV_temp h120 hp, readV_temp h120 (by rwa [pendT_writeV]), slotOf_writeV]
      by_cases hr : r < 120
      · rw [lane_writeV_same hl hr]
      · rw [lane_writeV_temp hl hr]
        have hfind : ((g.lane k).t.filter fun e => decide (e.1 ≠ r)).find? (fun e => e.1 == q) =
            (g.lane k).t.find? fun e => e.1 == q := by
          rw [List.find?_filter]
          congr 1
          funext e
          by_cases he : e.1 = q
          · simp [he, hq]
          · simp [he]
        rw [List.find?_cons_of_neg (by simpa using Ne.symm hq), hfind]
  · unfold readV
    simp only [lane_writeV_ne hk, pendV_writeV, pendT_writeV, slotOf_writeV]

theorem readV_writeV (hl : l < g.lanes.length) : readV s (g.writeV l r w) k q =
    if (if q < 120 then g.pendV k ((g.lane k).vIdx q) else g.pendT k q) then
      s.undef (s.slotOf g) .vreg (vPlace k (if q < 120 then (g.lane k).vIdx q else 392 + q))
    else if k = l ∧ q = r then w else readV s g k q := by
  by_cases hp : (if q < 120 then g.pendV k ((g.lane k).vIdx q) else g.pendT k q) = true
  · rw [if_pos hp, readV_pending (by rwa [vIdx_writeV, pendV_writeV, pendT_writeV]), slotOf_writeV, vIdx_writeV]
  · rw [if_neg hp]
    rw [Bool.not_eq_true] at hp
    by_cases h : k = l ∧ q = r
    · rw [if_pos h]
      obtain ⟨rfl, rfl⟩ := h
      by_cases hq : q < 120
      · rw [if_pos hq] at hp
        exact readV_writeV_same hl hq hp
      · rw [if_neg hq] at hp
        rw [readV_temp hq (by rwa [pendT_writeV]), lane_writeV_temp hl hq, List.find?_cons_of_pos (by simp)]
        rfl
    · rw [if_neg h]
      exact readV_writeV_other h hl hp

theorem vHalf_writeV (hl : l < g.lanes.length) {x : Nat} (hx : x < 2) :
    (g.writeV l r w).vHalf k q x = if k = l ∧ q = r then false else g.vHalf k q x := by
  unfold Machine.Group.vHalf
  rw [vIdx_writeV]
  by_cases hq : q < 120
  · by_cases hk : k = l
    · subst hk
      by_cases hr : r < 120
      · rw [lane_writeV_same hl hr]
        by_cases h : q = r
        · subst h
          simp only [and_self, if_true, Bool.and_eq_false_iff, List.contains_eq_mem, decide_eq_false_iff_not,
            List.mem_filter, not_and]
          exact .inr fun _ => by simp; omega
        · have hne : (2 * (g.lane k).vIdx q + x) / 2 ≠ (g.lane k).vIdx r := by unfold Lane.vIdx; omega
          rw [if_neg (fun e : k = k ∧ q = r => h e.2), List.contains_eq_mem, List.contains_eq_mem]
          congr 1
          simp [List.mem_filter, hne]
      · rw [lane_writeV_temp hl hr, if_neg (fun e : k = k ∧ q = r => hr (e.2 ▸ hq))]
    · rw [lane_writeV_ne hk, if_neg (fun e => hk e.1)]
  · simp [hq]

theorem vBad_writeV (hl : l < g.lanes.length) :
    (g.writeV l r w).vBad k q = if k = l ∧ q = r then false else g.vBad k q := by
  unfold Machine.Group.vBad
  rw [vHalf_writeV hl (by decide), vHalf_writeV hl (by decide)]
  split <;> rfl

theorem pred_writeP {p : Nat} (hl : l < g.lanes.length) (hp : p < 16) : ((g.writeP l p b).lane k).pred q =
    if q = 15 then true else if k = l ∧ q = p then b else (g.lane k).pred q := by
  by_cases hq : q = 15
  · rw [if_pos hq, hq, pred_fifteen]
  · rw [if_neg hq]
    by_cases hk : k = l
    · subst hk
      by_cases h : q = p
      · subst h
        rw [if_pos ⟨rfl, rfl⟩]
        exact pred_writeP_same hl (by omega)
      · rw [if_neg (fun e => h e.2)]
        exact pred_writeP_ne hl h
    · rw [if_neg (fun e => hk e.1)]
      unfold Machine.Group.writeP
      split
      · rfl
      · rw [lane_modLane_ne hk]

theorem vectorFile : VectorFile := by
  intro s g l k d r p q w b hl
  simp only [Fin.ext_iff]
  exact ⟨readV_writeV hl, vBad_writeV hl, pred_writeP hl p.isLt⟩

/-- Settles O17: each file by what one read gives after one write. -/
theorem registerFiles : Obligations.RegisterFiles := ⟨scalarFile, vectorFile⟩

end Sys2Proof.Proofs
end

section
/-! A step (R4, R27, R152, R373, R414): the instruction of the clause in flight, or what the agenda names. -/

namespace Sys2Proof.Proofs

open Sys2Proof.Machine Sys2Proof.Laws Sys2Proof.Claims

variable {s : State} {g : Machine.Group} {c : Clause} {i : Instr} {u : Nat}

/-- What a step answers after an instruction or a step of the device: the next state once `f` has followed it. -/
def andThen (o : Host.Outcome State Fault Refusal) (f : State → State) : Host.Outcome State Fault Refusal :=
  match o with
  | .next t => .next (f t)
  | o => o

theorem step_instr {n : Nat} {t : State} (h : s.tick.nextMove = .instr i n g c t) :
    step s = andThen (exec i t) fun t' => (t'.finishInstr g c i n).drawn (t.slotOf g) := by
  unfold step
  rw [h]
  rfl

theorem step_event {t : State} (h : s.tick.nextMove = .event i t) :
    step s = andThen (exec i t) fun t' => t.drawnBy (t.drawsFor i) t' := by
  unfold step
  rw [h]
  rfl

theorem step_device {t : State} (h : s.tick.nextMove = .device t) : step s = .next t.deviceTurn := by
  unfold step
  rw [h]

theorem tick_nextWaiting : s.tick.nextWaiting = s.nextWaiting := rfl

/-- With nothing in the agenda, what moves next is the clause in flight of the group whose turn it is. -/
theorem nextMove_turn (hw : s.nextWaiting = none) (ha : s.agenda = []) (ht : s.turn = some u) :
    s.nextMove = s.issueMove u := by
  unfold State.nextMove
  rw [hw, ha, ht]

theorem nextMove_waiting (h : s.nextWaiting = some i) :
    s.nextMove = .event i { s with waiting := s.waiting.erase i } := by
  unfold State.nextMove
  rw [h]

theorem nextMove_event {rest : List Act} (hw : s.nextWaiting = none) (ha : s.agenda = .event i :: rest) :
    s.nextMove = ({ s with agenda := rest } : State).eventMove i := by
  unfold State.nextMove
  rw [hw, ha]

/-- A clause in flight that nothing holds issues the instruction that its words decode to. -/
theorem issueMove_instr {n : Nat} (ht : s.turn = some u) (hg : s.group? u = some g) (hc : g.clause = some c)
    (hw : c.wait = none) (hi : c.instr = some (i, n))
    (hp : (Instr.parks i && (s.setGroup g).owes u && decide (c.exec ≠ 0)) = false) :
    s.issueMove u = .instr i n g c (s.setGroup g) := by
  have hc' : ({ c with wait := none } : Clause) = c := by rw [← hw]
  have hg' : ({ g with clause := some c } : Machine.Group) = g := by rw [← hc]
  have hs' : ({ s.setGroup g with turn := some u } : State) = s.setGroup g := by
    rw [← ht]
    rfl
  unfold State.issueMove
  rw [hg]
  dsimp only
  rw [hc]
  dsimp only
  rw [hw]
  simp only [Bool.false_eq_true, if_false, hc', hg', hs', hi, hp]

theorem stepRunsDecoded : StepRunsDecoded := by
  intro s u g c i w x y ha hn ht hg hc hw hw0 hx hy hd hp
  subst hw0 hx hy
  have hi : c.instr = some (i, wordCount (c.buf.getD 0 0).toNat (c.buf.getD 1 0).toNat) := by
    unfold Clause.instr
    dsimp only
    rw [hd]
  rw [step_instr ((nextMove_turn (s := s.tick) hn ha ht).trans (issueMove_instr ht hg hc hw hi hp))]
  rfl

/-- A step of the device that the agenda names happens, unless it is a request that must wait. -/
theorem eventMove_go (h : s.mustWait i = false) : s.eventMove i = .event i s := if_neg (by simp [h])

theorem eventMove_wait (h : s.mustWait i = true) : s.eventMove i = .device { s with waiting := s.waiting ++ [i] } :=
  if_pos h

theorem stepPerformsEvents : StepPerformsEvents := by
  refine ⟨fun s i rest hn ha => ?_, fun s i hn => step_event (nextMove_waiting (s := s.tick) hn), fun s q a => rfl⟩
  have hmove := nextMove_event (s := s.tick) hn ha
  exact ⟨fun h => step_event (hmove.trans (eventMove_go h)), fun h => step_device (hmove.trans (eventMove_wait h))⟩

/-- Settles O5: what moves next decides the step, and each hypothesis says what moves next. -/
theorem stepRuns : Obligations.StepRuns := ⟨stepRunsDecoded, stepPerformsEvents⟩

end Sys2Proof.Proofs
end

section
/-! What a call of the service changes in the groups (R356): halted lanes are noted as called, and nothing else. The
records, events and log entries of a step change the groups in no other way. -/

namespace Sys2Proof.Proofs

open Sys2Proof.Machine Sys2Proof.Laws Sys2Proof.Claims

variable {s t x : State} {g : Machine.Group} {u v n : Nat} {r : Record}

/-- A group but for what a call of the service does to its lanes. -/
def calledGroup (g : Machine.Group) : Machine.Group := { g with lanes := g.lanes.map called }

theorem calledGroup_fields {y : Machine.Group} (h : calledGroup y = calledGroup g) :
    y.clause = g.clause ∧ y.lanes.map called = g.lanes.map called ∧ y.s = g.s ∧ y.flags = g.flags ∧ y.pend = g.pend :=
  ⟨(congrArg Machine.Group.clause h :), (congrArg Machine.Group.lanes h :), (congrArg Machine.Group.s h :),
    (congrArg Machine.Group.flags h :), (congrArg Machine.Group.pend h :)⟩

/-- The groups of two states are the same as a view shows them. -/
def SameBut (view : Machine.Group → Machine.Group) (s t : State) : Prop := t.groups.map view = s.groups.map view

/-- The groups of two states are the same but for what a call of the service does to lanes. -/
abbrev SameCalled (s t : State) : Prop := SameBut calledGroup s t

theorem laneState_called_called (y : LaneState) : y.called.called = y.called := by
  unfold LaneState.called
  split <;> split <;> simp_all

theorem called_called (y : Lane) : called (called y) = called y := by
  simp only [called, laneState_called_called]

section
variable {view view' : Machine.Group → Machine.Group}

theorem SameBut.refl (view : Machine.Group → Machine.Group) (s : State) : SameBut view s s := rfl

theorem SameBut.trans (h : SameBut view s t) (k : SameBut view t x) : SameBut view s x := Eq.trans k h

theorem SameBut.of_groups (h : t.groups = s.groups) : SameBut view s t := by
  unfold SameBut
  rw [h]

/-- What a finer view shows to be the same, a coarser one does. -/
theorem SameBut.mono (hc : ∀ g, view' (view g) = view' g) (h : SameBut view s t) : SameBut view' s t := by
  unfold SameBut at h ⊢
  have := congrArg (List.map view') h
  simpa only [List.map_map, Function.comp_def, hc] using this

theorem SameBut.foldl {α : Type} {f : State → α → State} (h : ∀ t a, SameBut view t (f t a)) (l : List α) (s : State) :
    SameBut view s (l.foldl f s) := by
  induction l generalizing s with
  | nil => exact .refl view s
  | cons a l ih => exact (h s a).trans (ih (f s a))

/-- A group found by its number is the same group as the view shows it. -/
theorem SameBut.group (hu : ∀ g, (view g).uid = g.uid) (h : SameBut view s t) (v : Nat) :
    (t.group? v).map view = (s.group? v).map view := by
  have find (gs : List Machine.Group) :
      (gs.find? fun g => g.uid == v).map view = (gs.map view).find? fun g => g.uid == v := by
    rw [List.find?_map]
    congr 2
    funext g
    simp [hu]
  unfold State.group?
  rw [find, find, show t.groups.map view = _ from h]

theorem SameBut.some_group (hu : ∀ g, (view g).uid = g.uid) (h : SameBut view s t) (hg : s.group? v = some g) :
    ∃ y, t.group? v = some y ∧ view y = view g := by
  have := h.group hu v
  rw [hg, Option.map_some] at this
  exact Option.map_eq_some_iff.mp this

end

/-- A group found by its number is the same group but for the called lanes. -/
theorem SameCalled.group (h : SameCalled s t) (v : Nat) :
    (t.group? v).map calledGroup = (s.group? v).map calledGroup :=
  SameBut.group (view := calledGroup) (fun _ => rfl) h v

theorem SameCalled.some_group (h : SameCalled s t) (hg : s.group? v = some g) :
    ∃ y, t.group? v = some y ∧ calledGroup y = calledGroup g :=
  SameBut.some_group (view := calledGroup) (fun _ => rfl) h hg

theorem callHalted_sameCalled (s : State) : SameCalled s s.callHalted := by
  have lane (y : Lane) : called { y with st := y.st.called, prodSt := y.prodSt.called } = called y := called_called y
  have one (g : Machine.Group) : calledGroup { g with lanes := g.lanes.map called } = calledGroup g := by
    simp only [calledGroup, List.map_map]
    congr 1
    exact List.map_congr_left fun y _ => lane y
  unfold SameCalled SameBut State.callHalted
  simp only [List.map_map]
  exact List.map_congr_left fun g _ => one g

/-! ### Physical writes -/

theorem setMark_frame (s : State) (pa : Nat) (b : Bool) :
    ∃ p k, s.setMark pa b = { s with memPoison := p, codedPoison := k } := by
  have code (j : Nat) : ∃ p k, s.uncode j = { s with memPoison := p, codedPoison := k } := by
    unfold State.uncode
    split
    · exact ⟨s.memPoison, s.codedPoison, rfl⟩
    · exact ⟨_, _, rfl⟩
  obtain ⟨p, k, h⟩ := code (pa / 64)
  unfold State.setMark
  rw [h]
  cases b <;> exact ⟨_, _, rfl⟩

/-- A physical write changes memory and its marks, and no other field. -/
theorem physWrite_frame (s : State) (pa : Nat) (bs : MBytes) :
    ∃ m p k, s.physWrite pa bs = { s with mem := m, memPoison := p, codedPoison := k } := by
  induction bs generalizing s pa with
  | nil => exact ⟨s.mem, s.memPoison, s.codedPoison, rfl⟩
  | cons x bs ih =>
    obtain ⟨b, m⟩ := x
    obtain ⟨p, k, h⟩ := setMark_frame { s with mem := Memory.write s.mem pa b } pa m
    obtain ⟨m', p', k', h'⟩ := ih (({ s with mem := Memory.write s.mem pa b } : State).setMark pa m) (pa + 1)
    exact ⟨m', p', k', by rw [State.physWrite, h', h]⟩

theorem physWrite_records (s : State) (pa : Nat) (bs : MBytes) : (s.physWrite pa bs).records = s.records := by
  obtain ⟨m, p, k, h⟩ := physWrite_frame s pa bs
  rw [h]

/-! ### Records and events -/

theorem modCtx_groups (s : State) (slot : Nat) (f : Ctx → Ctx) : (s.modCtx slot f).groups = s.groups := rfl

theorem mirror_groups (s : State) : s.mirror.groups = s.groups := by
  unfold State.mirror
  split
  · rfl
  · split
    · rfl
    · dsimp only
      rw [physWrite_groups]
      dsimp only
      rw [physWrite_groups]

theorem enterRecord_groups {fresh : Bool} (h : s.enterRecord r = some (n, fresh, t)) : t.groups = s.groups := by
  unfold State.enterRecord at h
  dsimp only at h
  split at h
  · cases h
    split
    · exact physWrite_groups ..
    · rfl
  · split at h
    · cases h
    · cases h
      rw [mirror_groups]

theorem sendEvent_sameCalled (s : State) (slot op : Nat) (payload : List Byte) (aw : Option Awaited) :
    SameCalled s (s.sendEvent slot op payload aw) := by
  have call : SameCalled s (if op = 0x41 ∨ op = 0x42 ∨ op = 0x43 then s.callHalted else s) := by
    split
    · exact callHalted_sameCalled s
    · exact .refl _ s
  refine call.trans (.of_groups ?_)
  unfold State.sendEvent
  dsimp only
  generalize (if op = 0x41 ∨ op = 0x42 ∨ op = 0x43 then s.callHalted else s) = t
  cases aw <;> dsimp only <;> (repeat' split) <;> rfl

theorem countLogic_groups (s : State) (r : Record) : (s.countLogic r).groups = s.groups := by
  unfold State.countLogic
  split <;> rfl

theorem fileRecord_sameCalled (h : s.fileRecord r = some (n, t)) : SameCalled s t := by
  unfold State.fileRecord at h
  split at h
  · cases h
  · next m fresh x hx =>
    cases h
    refine (SameBut.of_groups (enterRecord_groups hx)).trans (.trans ?_ (.of_groups (countLogic_groups _ _)))
    split
    · exact sendEvent_sameCalled ..
    · exact .refl ..

/-! ### The RAS log and the write-back -/

theorem putRas_sameCalled (s : State) (r : Ras) : SameCalled s (s.putRas r) :=
  (callHalted_sameCalled s).trans (.of_groups rfl)

theorem reportDrops_sameCalled (s : State) (a b : Nat) : SameCalled s (s.reportDrops a b) := by
  unfold State.reportDrops
  split
  · exact putRas_sameCalled { s with rasDropped := 0 } _
  · exact .refl _ s

theorem logRas_sameCalled (s : State) (r : Ras) : SameCalled s (s.logRas r) := by
  refine (reportDrops_sameCalled { s with rasClock := max s.rasClock r.time } r.unit r.time).trans ?_
  unfold State.logRas
  dsimp only
  split
  · exact putRas_sameCalled _ r
  · split
    · exact putRas_sameCalled { State.reportDrops _ _ _ with ras := _ } r
    · exact .of_groups rfl

theorem attrMismatch_sameCalled (s : State) (a b c d e f : Nat) : SameCalled s (s.attrMismatch a b c d e f) :=
  logRas_sameCalled s _

theorem writeBack_sameCalled (s : State) (p : Fill → Bool) : SameCalled s (s.writeBack p) := by
  unfold State.writeBack
  refine (SameBut.foldl (fun t f => ?_) (s.fills.filter p) s).trans (.of_groups rfl)
  split
  · split
    · exact attrMismatch_sameCalled ..
    · exact .refl _ t
  · exact .refl _ t

end Sys2Proof.Proofs
end

section
/-! The clause in flight moves past an executed instruction, and ends after its last one (R27, R30, R116, R119). -/

namespace Sys2Proof.Proofs

open Sys2Proof.Machine Sys2Proof.Laws Sys2Proof.Claims

variable {s t : State} {g g0 g' : Machine.Group} {c c0 : Clause} {i : Instr} {u n : Nat}

/-! ### Moving past an instruction -/

/-- An issue cycle of the running path changes the fairness count of its group alone. -/
theorem fairTick_eq (s : State) (g : Machine.Group) (c : Clause) : ∃ n, s.fairTick g c = { g with fair := n } := by
  unfold State.fairTick
  dsimp only
  generalize (if g.serial = true then (_ : Bool) else _) = other
  cases other
  · exact ⟨g.fair, rfl⟩
  · exact ⟨_, rfl⟩

theorem group?_fairTick (h : t.group? u = some g) :
    ∃ n, (t.modGroup u fun g => t.fairTick g c0).group? u = some { g with fair := n } := by
  obtain ⟨n, hn⟩ := fairTick_eq t g c0
  refine ⟨n, hn ▸ group?_modGroup_same (fun x => ?_) h⟩
  obtain ⟨k, hk⟩ := fairTick_eq t x c0
  rw [hk]

theorem traceInstr_ordinary (h : s.replayOf g0 = none) : s.traceInstr g0 c i = s := by
  unfold State.traceInstr
  rw [h]

theorem drain_sameCalled (s : State) (b : Bool) (p : Fill → Bool) :
    SameCalled s (if b = true then s.writeBack p else s) := by
  split
  · exact writeBack_sameCalled s p
  · exact .refl _ s

/-- What follows an instruction that leaves others of its clause and neither waits nor repeats. -/
theorem finishInstr_next (h : t.group? g0.uid = some g) (hc : g.clause = some c) (hw : c.wait = none)
    (ha : c.again = false) (hr : t.replayOf g0 = none) (hn : c.idx + 1 < c.count) :
    ∃ x, SameCalled (t.modGroup g0.uid fun g => t.fairTick g c0) x ∧
      t.finishInstr g0 c0 i n = x.modGroup g0.uid fun g => g.modClause fun c => c.advance n := by
  obtain ⟨k, hk⟩ := group?_fairTick (c0 := c0) h
  refine ⟨_, drain_sameCalled _ (Instr.drains i && decide (c0.exec ≠ 0)) fun f =>
    f.cluster == (t.modGroup g0.uid fun g => t.fairTick g c0).clusterOf g0, ?_⟩
  unfold State.finishInstr
  simp only [hk, Option.bind_some, hc, hw, Option.isSome_none, Bool.false_eq_true, if_false, ha, if_pos hn]
  rw [traceInstr_ordinary (show (t.modGroup _ _).replayOf g0 = none from hr)]

theorem clauseAdvances : ClauseAdvances := by
  intro t g0 g c0 c i n h hc hw ha hr hn
  obtain ⟨x, hx, he⟩ := finishInstr_next (c0 := c0) (i := i) (n := n) h hc hw ha hr hn
  obtain ⟨k, hk⟩ := group?_fairTick (c0 := c0) h
  obtain ⟨y, hy, hyg⟩ := hx.some_group hk
  obtain ⟨hyc, hyl, hys, hyf, hyp⟩ := calledGroup_fields hyg
  refine ⟨y.modClause fun c => c.advance n, ?_, ?_, hyl, hys, hyf, hyp⟩
  · rw [he]
    exact group?_modGroup_same (fun _ => rfl) hy
  · simp only [Machine.Group.modClause, hyc, hc, Option.map_some, Clause.advance]

/-! ### Joins

Whether a group is stuck at its JOINs depends on where its lanes wait and on the k registers. -/

theorem lane_st (g : Machine.Group) (l : Nat) : (g.lane l).st = (g.lanes.map fun x => x.st).getD l .exited := by
  unfold Machine.Group.lane
  simp only [List.getD_eq_getElem?_getD, List.getElem?_map]
  cases g.lanes[l]? <;> rfl

/-- The lanes of two groups wait at the same places. -/
def SameWaits (g g' : Machine.Group) : Prop := (g'.lanes.map fun x => x.st) = g.lanes.map fun x => x.st

theorem SameWaits.st (h : SameWaits g g') (l : Nat) : (g'.lane l).st = (g.lane l).st := by
  rw [lane_st, lane_st, show (g'.lanes.map fun x => x.st) = _ from h]

theorem SameWaits.length (h : SameWaits g g') : g'.lanes.length = g.lanes.length := by
  simpa using congrArg List.length h

/-- What is asked of the state of a lane is asked of the same lanes. -/
theorem SameWaits.find (h : SameWaits g g') (p : LaneState → Bool) :
    (g'.lanes.find? fun x => p x.st).map (fun x => x.st) = (g.lanes.find? fun x => p x.st).map fun x => x.st := by
  have (xs : List Lane) : (xs.find? fun x => p x.st).map (fun x => x.st) = (xs.map fun x => x.st).find? p := by
    rw [List.find?_map]; rfl
  rw [this, this, show (g'.lanes.map fun x => x.st) = _ from h]

theorem SameWaits.live (h : SameWaits g g') : g'.live = g.live := by
  unfold Machine.Group.live Machine.Group.maskWhere Lane.live
  simp only [h.length, h.st]

/-- A lane's state names the JOIN at an address. -/
def joinsThere (site : DWord) : LaneState → Bool
  | .join _ a _ _ => a == site
  | _ => false

theorem joinsAt_eq (x : Lane) (site : DWord) : x.joinsAt site = joinsThere site x.st := rfl

/-- The rejoin register that a lane's state names. -/
def joinReg : LaneState → Option KReg
  | .join k _ _ _ => some k
  | _ => none

theorem joinReady_eq (g : Machine.Group) (site : DWord) : g.joinReady site =
    match ((g.lanes.find? fun x => joinsThere site x.st).map fun x => x.st).bind joinReg with
    | none => false
    | some k => (lanesOf (g.kMask k.val)).all fun l => !(g.lane l).live || (g.lane l).joinsAt site := by
  unfold Machine.Group.joinReady
  simp only [joinsAt_eq]
  cases h : g.lanes.find? fun x => joinsThere site x.st with
  | none => rfl
  | some x =>
    simp only [Option.map_some, Option.bind_some]
    cases x.st <;> rfl

theorem SameWaits.joinReady (h : SameWaits g g') (hk : g'.k = g.k) (site : DWord) :
    g'.joinReady site = g.joinReady site := by
  rw [joinReady_eq, joinReady_eq, h.find]
  simp only [Machine.Group.kMask, hk, Lane.live, joinsAt_eq, h.st]

theorem SameWaits.joinSites (h : SameWaits g g') : g'.joinSites = g.joinSites := by
  have (x : Machine.Group) : x.joinSites =
      ((x.lanes.map fun x => x.st).filterMap fun y => match y with | .join _ a _ _ => some a | _ => none).dedup := by
    unfold Machine.Group.joinSites
    rw [List.filterMap_map]
    rfl
  rw [this, this, show (g'.lanes.map fun x => x.st) = _ from h]

theorem SameWaits.joinStuck (h : SameWaits g g') (hk : g'.k = g.k) : g'.joinStuck = g.joinStuck := by
  unfold Machine.Group.joinStuck
  simp only [h.live, h.joinSites, h.joinReady hk, h.st]

/-! ### The end of a clause -/

theorem clearUntied_eq (s : State) (g : Machine.Group) (f : Option (Fin 12)) :
    ∃ x, s.clearUntied g f = { g with flags := x } := by
  unfold State.clearUntied
  cases f with
  | none => exact ⟨g.flags, rfl⟩
  | some f =>
    dsimp only
    split
    · exact ⟨g.flags, rfl⟩
    · exact ⟨_, rfl⟩

/-- The flags of a clause that nothing is tied to are all that changes as they clear. -/
theorem clearUntied_both (s : State) (g : Machine.Group) (f f' : Option (Fin 12)) :
    ∃ x, s.clearUntied (s.clearUntied g f) f' = { g with flags := x } := by
  obtain ⟨a, ha⟩ := clearUntied_eq s g f
  obtain ⟨b, hb⟩ := clearUntied_eq s { g with flags := a } f'
  exact ⟨b, by rw [ha, hb]⟩

theorem deliverLate_none {n : Nat} (h : s.group? u = some g) (hl : g.late = []) : s.deliverLate u n = s := by
  cases n with
  | zero => rfl
  | succ n =>
    unfold State.deliverLate
    simp [h, Machine.Group.dueLate, hl]

theorem settleGen_none (h : s.group? u = some g) (hg : g.gen = none) : s.settleGen u = s := by
  unfold State.settleGen
  simp [h, hg]

theorem joinDead_free (h : s.group? u = some g) (hj : g.joinStuck = false) : s.joinDead u = s := by
  unfold State.joinDead
  simp only [h, hj, Bool.false_eq_true, and_false, if_false]
  split <;> rfl

theorem group?_map (f : Machine.Group → Machine.Group) (hf : ∀ g, (f g).uid = g.uid) :
    ({ s with groups := s.groups.map f } : State).group? u = (s.group? u).map f := by
  unfold State.group?
  dsimp only
  rw [List.find?_map]
  congr 2
  funext g
  simp [hf]

/-- At a clause boundary nothing of a group changes with the paths but whether it is in serial mode (R25). -/
theorem settlePaths_group (h : s.group? u = some g) :
    ∃ b, (s.settlePaths u).group? u = some { g with serial := b } := by
  unfold State.settlePaths
  simp only [h]
  rw [group?_map _ (fun g => by split <;> rfl), h, Option.map_some]
  split
  · exact ⟨_, rfl⟩
  · exact ⟨g.serial, rfl⟩

theorem settlePaths_turn_mem : (s.settlePaths u).turn = s.turn ∧ (s.settlePaths u).mem = s.mem := by
  unfold State.settlePaths
  split <;> exact ⟨rfl, rfl⟩

/-- The group that leaves its clause, before flags and late faults are settled. -/
def leaving (g : Machine.Group) (c : Clause) : Machine.Group := (g.leaveClause c).endTurn c.path

theorem leaving_late (hl : g.late = []) (hd : c.deferred = []) : (leaving g c).late = [] := by
  change g.late ++ c.deferred.map _ = []
  rw [hl, hd]
  rfl

/-- The lanes that a clause leaves: those it has not sent elsewhere stand at the next one, and no temporary is left. -/
theorem lane_leaving {l : Nat} (h : l < g.lanes.length) :
    (leaving g c).lane l = if mHas c.path l then { g.lane l with
      pc := if mHas (c.path &&& ~~~ c.moved) l && (g.lane l).live then c.nextAt else (g.lane l).pc, t := [] }
      else g.lane l :=
  lane_modLanes h

theorem leaving_waits : SameWaits g (leaving g c) := by
  unfold SameWaits leaving Machine.Group.leaveClause Machine.Group.endTurn Machine.Group.modLanes
  refine List.ext_getElem (by simp) fun l h _ => ?_
  simp only [List.getElem_map, List.getElem_mapIdx]
  split <;> rfl

theorem mHas_diff {a b : Mask} {l : Nat} : mHas (a &&& ~~~ b) l = (mHas a l && !mHas b l) := by
  unfold mHas
  rw [BitVec.getLsbD_and, BitVec.getLsbD_not]
  by_cases h : l < 64
  · simp [h]
  · simp [BitVec.getLsbD_of_ge a l (by omega)]

/-- A group that has left its clause, with its flags and its mode settled. -/
def left (g : Machine.Group) (c : Clause) (f : BitVec 12) (b : Bool) : Machine.Group :=
  { leaving g c with flags := f, late := [], serial := b }

/-- The state in which a group has left its clause and the turn is free. -/
def leftBy (t : State) (g : Machine.Group) (c : Clause) (f : BitVec 12) : State :=
  { t.setGroup { leaving g c with flags := f, late := [] } with
    turn := if t.turn = some g.uid then none else t.turn }

/-- A clause with no fault left to deliver, of a group with no generator that is not stuck at its JOINs, ends: its
group leaves it, and the turn is free. -/
theorem endClause_plain (h : t.group? g.uid = some g) (hc : g.clause = some c) (hl : g.late = [])
    (hd : c.deferred = []) (hg : g.gen = none) (hj : g.joinStuck = false) :
    ∃ f b, t.endClause g.uid = (leftBy t g c f).settlePaths g.uid ∧
      (t.endClause g.uid).group? g.uid = some (left g c f b) := by
  obtain ⟨f, hf⟩ := clearUntied_both t (leaving g c) c.setA c.setB
  have h1 : (leftBy t g c f).group? g.uid = some { leaving g c with flags := f, late := [] } :=
    group?_setGroup_same (s := t) (g := { leaving g c with flags := f, late := [] }) h
  obtain ⟨b, h2⟩ := settlePaths_group h1
  have stuck : (left g c f b).joinStuck = false := (leaving_waits.joinStuck (g' := left g c f b) rfl).trans hj
  have ends : t.endClause g.uid = (leftBy t g c f).settlePaths g.uid := by
    unfold leaving at hf
    unfold State.endClause
    simp only [h, hc, hf]
    simp only [show ((g.leaveClause c).endTurn c.path).late = [] from leaving_late hl hd, List.map_nil, List.filter_nil]
    change (((leftBy t g c f).deliverLate g.uid _).settleGen g.uid |>.settlePaths g.uid).joinDead g.uid = _
    rw [deliverLate_none h1 rfl, settleGen_none h1 hg, joinDead_free h2 stuck]
  exact ⟨f, b, ends, ends ▸ h2⟩

theorem clauseEnds : ClauseEnds := by
  intro t g c h hc hl hd hg hj ht
  obtain ⟨f, b, hx, hgroup⟩ := endClause_plain h hc hl hd hg hj
  obtain ⟨hturn, hmem⟩ := settlePaths_turn_mem (s := leftBy t g c f) (u := g.uid)
  refine ⟨?_, ?_, left g c f b, hgroup, rfl, rfl, rfl, fun l hl => ?_⟩
  · rw [hx, hturn]
    exact if_pos ht
  · rw [hx, hmem]
    rfl
  · have lane : (left g c f b).lane l = _ := lane_leaving (c := c) hl
    rw [lane, mHas_diff]
    cases hp : mHas c.path l <;> simp

/-- Settles O4: a next instruction, then a next clause. -/
theorem clauseProgress : Obligations.ClauseProgress := ⟨clauseAdvances, clauseEnds⟩

end Sys2Proof.Proofs
end

section
/-! What every meaning answers (R27, R28), and what an instruction word does with no executing lane or with a poison
mark on an operand (R29, R158, R194). -/

namespace Sys2Proof.Proofs

open Sys2Proof.Machine Sys2Proof.Laws Sys2Proof.Claims

variable {s t : State} {g : Machine.Group} {c : Clause} {i : Instr} {f : FaultAt} {m : Mask} {r : Record} {n : Nat}

/-! ### Words and steps of the device -/

/-- A meaning of an instruction word acts on the clause in flight; the constructors with no encoding are the steps of
the device. -/
theorem exec_word (h : IsWord i) (s : State) : ∃ f, exec i s = issue i s f := by
  cases i
  all_goals try exact absurd rfl h
  all_goals exact ⟨_, rfl⟩

/-- A step of the device answers a next state in every branch; those named have more than one. -/
theorem exec_device (h : encode i = []) (s : State) : ∃ t, exec i s = .next t := by
  cases i
  all_goals try exact absurd h (List.cons_ne_nil _ _)
  all_goals try exact ⟨_, rfl⟩
  all_goals
    simp only [exec, execClauseBegin, execFlagClear, execFairnessTimer, execJoinRelease, execGroupRetire, execRepackComplete, 
      execRouteEntryWake, execRouteSpaceWake, execCaravanLand, execContinuationSpawn, execTokenResolve, 
      execBarrierResolve, execMloopIteration, execEngineSwitch, execXallRegistration, execXallStart, 
      execXallComplete, execBlockSave, execPixelWatchdog, execBinStage, execPartialRender, execFinalRender, 
      execFragmentRetire, execNodeFire, execReplayComplete, execLeadTime, execDeadline, execGovernorPeriod, 
      execPatrolScrub, execUncorrectableError, execLogicError, execFaultBufferRetry, execFaultAnswer, 
      execContextSaveComplete, execContextLoadComplete, execTlbinvComplete, execResfenceComplete, 
      execPgattrComplete, execCreate, execBootstatus, execRouteEnable, execPeerRequest, execPeerEnqueue, 
      execBoot, execPowerDown, execPowerUp]
    (repeat' split) <;> exact ⟨_, rfl⟩

theorem exec_answers (i : Instr) (s : State) :
    (∃ t, exec i s = .next t) ∨ (exec i s = .fault .noIssue ∧ IsWord i ∧ s.issue? = none) := by
  by_cases h : encode i = []
  · exact .inl (exec_device h s)
  · obtain ⟨f, hf⟩ := exec_word h s
    rw [hf]
    rcases issue_cases (rfl : issue i s f = _) with ⟨hn, ho⟩ | ⟨g, c, -, ⟨-, ho⟩ | ⟨-, -, ho⟩ | ⟨-, -, ho⟩⟩
    · exact .inr ⟨ho, h, hn⟩
    · exact .inl ⟨_, ho⟩
    · exact .inl ⟨_, ho⟩
    · exact .inl ⟨_, ho⟩

/-- What follows a meaning adds no other answer. -/
theorem andThen_exec (i : Instr) (s : State) (f : State → State) :
    (∃ t, andThen (exec i s) f = .next t) ∨ andThen (exec i s) f = .fault .noIssue := by
  rcases exec_answers i s with ⟨t, ht⟩ | ⟨ht, -⟩
  · exact .inl ⟨f t, by rw [ht]; rfl⟩
  · exact .inr (by rw [ht]; rfl)

theorem step_answers (s : State) : (∃ t, step s = .next t) ∨ step s = .fault .noIssue := by
  cases h : s.tick.nextMove with
  | event i t => exact step_event h ▸ andThen_exec i t _
  | instr i n g c t => exact step_instr h ▸ andThen_exec i t _
  | stuck => exact .inr (by unfold step; rw [h])
  | device t => exact .inl ⟨_, step_device h⟩

/-- Settles O6: by the constructors, words issuing and steps of the device answering a next state. -/
theorem nothingRefused : Obligations.NothingRefused := ⟨exec_answers, step_answers⟩

/-! ### A fault on which an instruction waits whole -/

theorem skippedClauseIdle : SkippedClauseIdle := by
  intro i s g c hi h hx
  obtain ⟨f, hf⟩ := exec_word hi s
  rw [hf, issue_idle h hx]

/-- A group but for its clause in flight and for what a call of the service does to its lanes. -/
def outsideClause (g : Machine.Group) : Machine.Group := { g with clause := none, lanes := g.lanes.map called }

theorem outsideClause_calledGroup (g : Machine.Group) : outsideClause (calledGroup g) = outsideClause g := by
  simp only [outsideClause, calledGroup, List.map_map]
  congr 1
  exact List.map_congr_left fun y _ => called_called y

theorem SameCalled.outsideClause (h : SameCalled s t) (v : Nat) :
    (t.group? v).map outsideClause = (s.group? v).map outsideClause := by
  have := congrArg (Option.map Proofs.outsideClause) (h.group v)
  simpa only [Option.map_map, Function.comp_def, outsideClause_calledGroup] using this

theorem holdClause_outsideClause (s : State) (u : Nat) (w : Wait) (v : Nat) :
    ((s.holdClause u w).group? v).map outsideClause = (s.group? v).map outsideClause := by
  rw [state_holdClause_eq, group?_modGroup s u v (fun g => g.modClause fun c => { c with wait := some w }) fun _ => rfl]
  split
  · next h =>
    rw [h, Option.map_map]
    rfl
  · rfl

/-- A fault on which an instruction waits whole changes no group but that its clause waits and that halted lanes are
called (R356, R367). -/
theorem holdFault_outsideClause (s : State) (g : Machine.Group) (c : Clause) (f : FaultAt) (m : Mask) (v : Nat) :
    ((s.holdFault g c f m).group? v).map outsideClause = (s.group? v).map outsideClause := by
  unfold State.holdFault
  split
  · exact holdClause_outsideClause ..
  · next n t ht =>
    exact (holdClause_outsideClause ..).trans ((fileRecord_sameCalled ht).outsideClause v)

theorem poisonedOperandHolds : PoisonedOperandHolds := by
  intro i s g c hi h hx hp
  obtain ⟨f, hf⟩ := exec_word hi s
  rw [hf, issue_poisoned h hx hp]
  exact ⟨rfl, _, rfl, fun v => holdFault_outsideClause ..⟩

/-! ### The record of a poisoned operand -/

/-- The fault ring shows a record and is all that a mirrored record changes (R416). -/
theorem mem_mirror_records (h : r ∈ s.records) : ∃ k, { r with ring := k } ∈ s.mirror.records := by
  unfold State.mirror
  split
  · exact ⟨r.ring, h⟩
  · next x hx =>
    split
    · exact ⟨r.ring, h⟩
    · refine ⟨if r.num = x.num then some s.ringPut.toNat else r.ring, ?_⟩
      rw [physWrite_records]
      dsimp only
      rw [physWrite_records]
      refine List.mem_map.mpr ⟨r, h, ?_⟩
      split <;> rfl

/-- Mirroring a record writes to memory and to the records, and moves PUT. -/
theorem mirror_frame (s : State) : ∃ m p k rs j,
    s.mirror = { s with mem := m, memPoison := p, codedPoison := k, records := rs, ringPut := j } := by
  unfold State.mirror
  split
  · exact ⟨_, _, _, _, _, rfl⟩
  · next x hx =>
    split
    · exact ⟨_, _, _, _, _, rfl⟩
    · dsimp only
      obtain ⟨m, p, k, h⟩ := physWrite_frame s (s.ringEntry s.ringPut.toNat) (mbClean x.bytes)
      rw [h]
      obtain ⟨m', p', k', h'⟩ := physWrite_frame { s with
        mem := m, memPoison := p, codedPoison := k, ringPut := s.ringPut + 1,
        records := s.records.map fun (y : Record) => if y.num = x.num then { y with ring := some s.ringPut.toNat } else y }
        (s.frbase.toNat + 4) (mbClean (natLe 4 (s.ringPut + 1).toNat))
      exact ⟨_, _, _, _, _, h'⟩

theorem sendEvent_records (s : State) (slot op : Nat) (p : List Byte) (aw : Option Awaited) :
    (s.sendEvent slot op p aw).records = s.records := by
  have call : (if op = 0x41 ∨ op = 0x42 ∨ op = 0x43 then s.callHalted else s).records = s.records := by split <;> rfl
  unfold State.sendEvent
  dsimp only
  generalize (if op = 0x41 ∨ op = 0x42 ∨ op = 0x43 then s.callHalted else s) = q at call ⊢
  rw [← call]
  cases aw <;> dsimp only <;> (repeat' split) <;> rfl

/-- A record as it stands in the fault buffer: with its number and its places there and in the fault ring. -/
def entered (r : Record) (n k : Nat) (j : Option Nat) : Record := { r with num := n, index := k, ring := j }

/-- With room in its fault buffer a record that joins no other is entered. -/
theorem enterRecord_new (hu : r.unit = false) (hb : s.buffered r.cluster < 256) :
    ∃ t, s.enterRecord r = some (s.fresh, true, t) ∧ (∃ k j, entered r s.fresh k j ∈ t.records) ∧
      t.fresh = s.fresh + 1 ∧ t.awaited = s.awaited := by
  have room : ¬ 256 ≤ s.buffered r.cluster := by omega
  have there : { r with num := s.fresh, index := s.freePlace r.cluster } ∈
      s.records ++ [{ r with num := s.fresh, index := s.freePlace r.cluster }] := by simp
  obtain ⟨j, hj⟩ := mem_mirror_records (s := { s with
    fresh := s.fresh + 1, records := s.records ++ [{ r with num := s.fresh, index := s.freePlace r.cluster }] }) there
  obtain ⟨m, p, k, rs, i, hm⟩ := mirror_frame { s with
    fresh := s.fresh + 1, records := s.records ++ [{ r with num := s.fresh, index := s.freePlace r.cluster }] }
  refine ⟨_, ?_, ⟨_, j, hj⟩, by rw [hm], by rw [hm]⟩
  unfold State.enterRecord
  simp only [hu, Bool.false_eq_true, if_false, if_neg room]

/-- Such a record that is a logic error of its core is followed by LOGIC_ERROR (R376, R402). -/
theorem fileRecord_logic (hu : r.unit = false) (hl : r.logic = true) (hb : s.buffered r.cluster < 256) :
    ∃ t, s.fileRecord r = some (s.fresh, t) ∧
      (∃ k j, entered r s.fresh k j ∈ t.records) ∧
      ∃ time, t.agenda.head? = some (.logic r.cluster r.core r.block time) := by
  obtain ⟨t, ht, ⟨k, j, hm⟩, -⟩ := enterRecord_new hu hb
  have counted (t : State) : t.countLogic r =
      { t with agenda := .logic r.cluster r.core r.block t.rasTime :: t.agenda } := by
    unfold State.countLogic
    rw [if_pos hl]
  refine ⟨(t.sendEvent r.slot 0x42 r.bytes (some (.fault s.fresh))).countLogic r, ?_, ⟨k, j, ?_⟩, ?_⟩
  · unfold State.fileRecord
    rw [ht]
    rfl
  · rw [counted]
    exact (sendEvent_records ..).symm ▸ hm
  · rw [counted]
    exact ⟨_, rfl⟩

theorem poisonRecorded : PoisonRecorded := by
  intro s g c m src hb
  obtain ⟨t, ht, ⟨k, j, hm⟩, time, ha⟩ := fileRecord_logic
    (r := s.recordOf g { code := .poison, source := src, pool := true } m c.header c.word) rfl rfl hb
  have held : s.holdFault g c { code := .poison, source := src, pool := true } m = t.holdClause g.uid .answers := by
    unfold State.holdFault
    rw [ht]
  dsimp only
  rw [held]
  exact ⟨⟨_, hm, rfl, rfl, rfl, rfl, rfl, rfl, rfl⟩, time, ha⟩

/-- Settles O8: skipped clauses, held instructions, and the record. -/
theorem poisonAndSkips : Obligations.PoisonAndSkips := ⟨skippedClauseIdle, poisonedOperandHolds, poisonRecorded⟩

end Sys2Proof.Proofs
end

section
/-! Transfers of control (R170-R174) and rejoin masks (R22, R23, R177, R178). -/

namespace Sys2Proof.Proofs

open Sys2Proof.Machine Sys2Proof.Laws Sys2Proof.Claims

variable {s t : State} {g g' : Machine.Group} {c : Clause} {i : Instr} {m : Mask} {r : Record} {n l : Nat}
  {f : Machine.Group → Clause → State}

/-- An instruction that issues acts. -/
theorem issues_next (h : Issues i s g c) : issue i s f = .next (f g c) := issue_next h.inFlight h.lanes h.clean

theorem issues_group (h : Issues i s g c) : s.group? g.uid = some g := (issue?_some h.inFlight).2.1

theorem issues_clause (h : Issues i s g c) : g.clause = some c := (issue?_some h.inFlight).2.2

/-! ### Transfers -/

theorem transfer_eq_goTo (g : Machine.Group) (m : Mask) (t : Nat → DWord) : g.transfer m t = goTo g m t := rfl

/-- Lanes leave the clause for an address and change otherwise. -/
theorem transfer_modLanes (g : Machine.Group) (m : Mask) (t : Nat → DWord) (f : Nat → Lane → Lane) :
    (g.transfer m t).modLanes m f = { g with
      lanes := g.lanes.mapIdx fun l x => if mHas m l then f l { x with pc := t l } else x
      clause := g.clause.map fun c => { c with moved := c.moved ||| m } } := by
  simp only [Machine.Group.transfer, Machine.Group.modLanes, Machine.Group.modClause, List.mapIdx_mapIdx]
  congr 1
  congr 1
  funext l x
  by_cases h : mHas m l <;> simp [h]

/-- The lanes of a list of targets are good when those of the mask are. -/
theorem checked_targetsGood {pad : Option (Fin 4)} {link : Bool} {t : Nat → DWord} {k : State}
    (h : targetsGood s g m pad link t) : s.checked g c pad link ((lanesOf m).map fun l => (l, t l)) k = k := by
  refine checked_good fun e he => ?_
  obtain ⟨l, hl, rfl⟩ := List.mem_map.mp he
  exact h l hl

theorem direct_taken {w : Nat} {o : BitVec w} (h : targetsGood s g m none false fun _ => c.target o) :
    direct s g c o m = s.setGroup (goTo g m fun _ => c.target o) :=
  checked_targetsGood h

/-- A direct transfer is taken by the lanes it is for when their target is good. -/
theorem takes_of_direct {w : Nat} {o : BitVec w} {m : State → Machine.Group → Clause → Mask}
    (h : ∀ s, exec i s = issue i s fun g c => direct s g c o (m s g c)) : takes i o.toInt m := by
  intro s g c hi _ ht
  rw [h, issues_next hi]
  exact congrArg _ (direct_taken ht)

/-- An indirect transfer is taken by every executing lane when the targets are good. -/
theorem pairOf_taken {pad : Option (Fin 4)} {v : Nat} {k : State}
    (h : targetsGood s g c.exec pad true fun l => readV64 s g l v) : s.checked g c pad true (pairOf s g c v) k = k :=
  checked_targetsGood h

theorem link_eq_linked (g : Machine.Group) (c : Clause) (r : VReg) : g.link c r.val = linked g c r := by
  unfold Machine.Group.link linked eachLane
  rw [extractLsb'_high]
  rfl

theorem transfersTaken : TransfersTaken := by
  refine ⟨fun p o => takes_of_direct fun s => rfl, fun a o => ?_, fun a o => takes_of_direct fun s => rfl,
    fun o => takes_of_direct fun s => rfl, ?_, ?_, ?_, ?_⟩
  · refine takes_of_direct fun s => ?_
    change issue _ _ _ = _
    simp only [ne_eq, ite_not]
  · intro r o s g c hi _ ht
    rw [← link_eq_linked]
    exact (issues_next hi).trans (congrArg _ (checked_targetsGood ht))
  · intro r t s g c hi ht
    rw [← link_eq_linked]
    exact (issues_next hi).trans (congrArg _ (pairOf_taken ht))
  · intro t s g c hi ht
    exact (issues_next hi).trans (congrArg _ (pairOf_taken ht))
  · intro r s g c hi ht
    exact (issues_next hi).trans (congrArg _ (pairOf_taken ht))

/-! ### Masks of lanes -/

theorem mHas_lt (h : mHas m l = true) : l < 64 := by
  by_contra hl
  have : mHas m l = false := BitVec.getLsbD_of_ge _ _ (by omega)
  rw [this] at h
  cases h

theorem mHas_or (a b : Mask) (l : Nat) : mHas (a ||| b) l = (mHas a l || mHas b l) := BitVec.getLsbD_or

/-- The lanes of a mask made from a list are those of the list that a mask has room for. -/
theorem mHas_maskOf_iff (ls : List Nat) (k : Nat) : mHas (maskOf ls) k = true ↔ k < 64 ∧ k ∈ ls := by
  have one (a : Nat) : mHas (maskOne a) k = true ↔ k < 64 ∧ k = a := by
    by_cases ha : a < 64
    · rw [mHas_maskOne _ _ ha, decide_eq_true_iff]
      omega
    · have zero : maskOne a = 0 :=
        BitVec.eq_of_toNat_eq (by
          rw [maskOne, BitVec.toNat_ofNat]
          exact Nat.mod_eq_zero_of_dvd (Nat.pow_dvd_pow 2 (by omega)))
      have none : mHas 0 k = false := by simp [mHas]
      rw [zero, none]
      exact ⟨fun h => absurd h (by simp), fun h => absurd h (by omega)⟩
  have all (m : Mask) : mHas (ls.foldl (fun m l => m ||| maskOne l) m) k = true ↔
      mHas m k = true ∨ k < 64 ∧ k ∈ ls := by
    induction ls generalizing m with
    | nil => simp
    | cons a ls ih =>
      rw [List.foldl_cons, ih, mHas_or, Bool.or_eq_true, one, List.mem_cons]
      tauto
  rw [maskOf, all]
  simp [mHas]

theorem mHas_maskWhere_iff {p : Lane → Bool} :
    mHas (g.maskWhere p) l = true ↔ l < 64 ∧ l < g.lanes.length ∧ p (g.lane l) = true := by
  unfold Machine.Group.maskWhere
  rw [mHas_maskOf_iff, List.mem_filter, List.mem_range]

theorem mHas_maskWhere {p : Lane → Bool} (h : g.lanes.length ≤ 64) :
    mHas (g.maskWhere p) l = true ↔ l < g.lanes.length ∧ p (g.lane l) = true := by
  rw [mHas_maskWhere_iff]
  exact ⟨fun hl => hl.2, fun hl => ⟨by have := hl.1; omega, hl⟩⟩

theorem lane_mem (h : l < g.lanes.length) : g.lane l ∈ g.lanes := by
  unfold Machine.Group.lane
  rw [List.getD_eq_getElem _ _ h]
  exact List.getElem_mem h

theorem mem_lane {x : Lane} (h : x ∈ g.lanes) : ∃ l, l < g.lanes.length ∧ g.lane l = x := by
  obtain ⟨l, hl, rfl⟩ := List.getElem_of_mem h
  exact ⟨l, hl, by unfold Machine.Group.lane; rw [List.getD_eq_getElem _ _ hl]⟩

/-- A lane that has not exited is one of its group. -/
theorem lane_live_lt (h : (g.lane l).live = true) : l < g.lanes.length := by
  by_contra hl
  unfold Machine.Group.lane at h
  rw [List.getD_eq_default _ _ (by omega)] at h
  cases h

theorem maskLowest_mem (h : m ≠ 0) : maskLowest m ∈ lanesOf m := by
  unfold maskLowest
  cases hl : lanesOf m with
  | nil => exact absurd hl (lanesOf_ne_nil h)
  | cons a as => simp

/-! ### Waiting at a JOIN -/

/-- Where a lane waits and as which arrival. -/
theorem joinsAt_iff {x : Lane} {a : DWord} : x.joinsAt a = true ↔ ∃ k h n, x.st = .join k a h n := by
  unfold Lane.joinsAt
  split
  · next k b h n hs => simp [hs]
  · next hs =>
    refine ⟨fun h => absurd h (by simp), fun ⟨k, h, n, he⟩ => absurd he (hs k a h n)⟩

theorem arrival_iff {x : Lane} {n : Nat} : x.arrival = some n ↔ ∃ k a h, x.st = .join k a h n := by
  unfold Lane.arrival
  split
  · next k b h n hs => simp [hs]
  · next hs =>
    refine ⟨fun h => absurd h (by simp), fun ⟨k, a, h, he⟩ => absurd he (hs k a h n)⟩

theorem joinReady_nobody {a : DWord} (h : ∀ x ∈ g.lanes, ¬ ∃ k h n, x.st = .join k a h n) :
    g.joinReady a = false := by
  have : (g.lanes.find? fun x => x.joinsAt a) = none :=
    List.find?_eq_none.mpr fun x hx => mt joinsAt_iff.mp (h x hx)
  unfold Machine.Group.joinReady
  rw [this]

/-- A JOIN at which lanes wait by one k register is released once every live lane that it names waits there. -/
theorem joinReady_iff {a : DWord} {k : KReg} (h : ∃ x ∈ g.lanes, ∃ k h n, x.st = .join k a h n)
    (hk : ∀ x ∈ g.lanes, ∀ j h n, x.st = .join j a h n → j = k) :
    g.joinReady a = true ↔
      ∀ l, mHas (g.kMask k.val) l → (g.lane l).live = true → ∃ k h n, (g.lane l).st = .join k a h n := by
  obtain ⟨y, hy, hw⟩ := h
  obtain ⟨x, hx⟩ := Option.isSome_iff_exists.mp
    (List.find?_isSome.mpr ⟨y, hy, joinsAt_iff.mpr hw⟩ : (g.lanes.find? fun x : Lane => x.joinsAt a).isSome = true)
  obtain ⟨j, b, e, hs⟩ := joinsAt_iff.mp (List.find?_some (p := fun x : Lane => x.joinsAt a) hx)
  have hj := hk x (List.mem_of_find?_eq_some hx) j b e hs
  unfold Machine.Group.joinReady
  rw [hx]
  dsimp only
  rw [hs, hj]
  simp only [List.all_eq_true, mem_lanesOf, Bool.or_eq_true, Bool.not_eq_eq_eq_not, Bool.not_true, joinsAt_iff]
  constructor
  · intro h l hl hv
    exact (h l ⟨mHas_lt hl, hl⟩).resolve_left (by simp [hv])
  · intro h l ⟨_, hl⟩
    cases hv : (g.lane l).live with
    | false => exact .inl rfl
    | true => exact .inr (h l hl hv)

theorem joinStuck_eq (g : Machine.Group) : g.joinStuck = (decide (g.live ≠ 0) &&
    ((lanesOf g.live).all fun l => (g.lane l).arrival.isSome) && !(g.joinSites.any fun a => g.joinReady a)) := by
  unfold Machine.Group.joinStuck Lane.arrival
  congr 3
  funext l
  cases (g.lane l).st <;> rfl

theorem joinDead_idle (h : s.group? g.uid = some g) (hj : g.joinStuck = false ∨ g.clause ≠ none) :
    s.joinDead g.uid = s := by
  rcases hj with hj | hj
  · exact joinDead_free h hj
  · have : ¬ (g.clause.isNone = true ∧ g.joinStuck = true) := fun hn => hj (Option.isNone_iff_eq_none.mp hn.1)
    unfold State.joinDead
    simp only [h, if_neg this]
    split <;> rfl

/-! ### JOINDEAD -/

/-- The lanes of the path that arrived last have the greatest arrival of the group. -/
theorem lastJoined_spec (hw : g.lanes.length ≤ 64) (hs : g.joinStuck = true) :
    ∃ n, g.lastJoined ≠ 0 ∧ ∀ l ∈ lanesOf g.lastJoined, (g.lane l).arrival = some n ∧
      ∀ k, k < g.lanes.length → ∀ i, (g.lane k).arrival = some i → i ≤ n := by
  rw [joinStuck_eq, Bool.and_eq_true, Bool.and_eq_true, decide_eq_true_iff] at hs
  obtain ⟨⟨hlive, hall⟩, -⟩ := hs
  have hlow := maskLowest_mem hlive
  obtain ⟨i, hi⟩ := Option.isSome_iff_exists.mp (List.all_eq_true.mp hall _ hlow)
  have hlt := ((mHas_maskWhere hw).mp (mem_lanesOf.mp hlow).2).1
  have hmem : i ∈ g.lanes.filterMap Lane.arrival := List.mem_filterMap.mpr ⟨_, lane_mem hlt, hi⟩
  cases hmax : (g.lanes.filterMap Lane.arrival).max? with
  | none => rw [List.max?_eq_none_iff.mp hmax] at hmem; cases hmem
  | some n =>
    obtain ⟨hn, hle⟩ := List.max?_eq_some_iff.mp hmax
    obtain ⟨x, hx, hxn⟩ := List.mem_filterMap.mp hn
    obtain ⟨l, hl, rfl⟩ := mem_lane hx
    have last : g.lastJoined = g.maskWhere fun x => x.arrival == some n := by
      unfold Machine.Group.lastJoined
      rw [hmax]
    have there : mHas g.lastJoined l = true := by
      rw [last, mHas_maskWhere hw]
      exact ⟨hl, by simp [hxn]⟩
    refine ⟨n, fun h0 => ?_, fun k hk => ⟨?_, fun j hj a ha => ?_⟩⟩
    · rw [h0] at there
      simp [mHas] at there
    · have := (mem_lanesOf.mp hk).2
      rw [last, mHas_maskWhere hw] at this
      simpa using this.2
    · exact hle a (List.mem_filterMap.mpr ⟨_, lane_mem hj, ha⟩)

/-- A fault with no handler is the service's: its lanes wait at its record. -/
theorem deliver_service {pc skip : Nat → DWord} (hh : s.handlerOf g r.code = 0) (hf : s.fileRecord r = some (n, t)) :
    s.deliver g r m pc skip = some (some n, t.modGroup g.uid fun g => g.parkFault m n pc skip) := by
  unfold State.deliver
  rw [if_neg (not_not_intro hh), hf]

theorem countLogic_records (s : State) (r : Record) : (s.countLogic r).records = s.records := by
  unfold State.countLogic
  split <;> rfl

/-- A record that joins no other is filed with the next number. -/
theorem fileRecord_new (hu : r.unit = false) (hb : s.buffered r.cluster < 256) :
    ∃ t, s.fileRecord r = some (s.fresh, t) ∧ ∃ k j, entered r s.fresh k j ∈ t.records := by
  obtain ⟨t, ht, ⟨k, j, hm⟩, -⟩ := enterRecord_new hu hb
  refine ⟨(t.sendEvent r.slot 0x42 r.bytes (some (.fault s.fresh))).countLogic r, ?_, k, j, ?_⟩
  · unfold State.fileRecord
    rw [ht]
    rfl
  · rw [countLogic_records, sendEvent_records]
    exact hm

/-- JOINDEAD is raised for the lanes of the path that arrived last, at the JOIN where they wait (R23). -/
theorem joinDead_raises (h : s.group? g.uid = some g) (hw : g.lanes.length ≤ 64) (hc : g.clause = none)
    (hs : g.joinStuck = true) (hh : s.handlerOf g .joindead = 0) (hb : s.buffered (s.clusterOf g) < 256) :
    ∃ n site header, (∀ l ∈ lanesOf g.lastJoined, (g.lane l).arrival = some n ∧ ∀ k, k < g.lanes.length →
      ∀ i, (g.lane k).arrival = some i → i ≤ n) ∧
      (∃ k, (g.lane (maskLowest g.lastJoined)).st = .join k site header n) ∧
      ∃ r ∈ (s.joinDead g.uid).records, r.num = s.fresh ∧ r.code = .joindead ∧ r.mask = g.lastJoined ∧
        r.header = header ∧ r.word = site ∧ r.answer = 0 := by
  obtain ⟨n, hne, hlast⟩ := lastJoined_spec hw hs
  obtain ⟨k, site, header, hst⟩ := arrival_iff.mp (hlast _ (maskLowest_mem hne)).1
  obtain ⟨t, ht, i, j, hm⟩ := fileRecord_new
    (r := s.recordOf g { code := .joindead } g.lastJoined header site) rfl hb
  have raised : entered (s.recordOf g { code := .joindead } g.lastJoined header site) s.fresh i j ∈
      (s.joinDead g.uid).records := by
    unfold State.joinDead
    simp only [h, hst, hc, hs, Option.isNone_none, and_self, if_true, deliver_service hh ht]
    exact hm
  exact ⟨n, site, header, hlast, ⟨k, hst⟩, _, raised, rfl, rfl, rfl, rfl, rfl, rfl⟩

theorem rejoinMasks : RejoinMasks := by
  refine ⟨fun k s g c hi => issues_next hi, fun k s g c hi hk => ?_, fun k s g c hi hk => ?_, fun s g a h hc =>
    ⟨?_, fun x a => joinsAt_iff, fun g a => ⟨joinReady_nobody, fun k => joinReady_iff⟩, fun s g => joinDead_idle,
      joinStuck_eq, fun s g => joinDead_raises⟩⟩
  · refine (issues_next hi).trans ?_
    dsimp only
    rw [if_neg hk, transfer_modLanes]
  · refine (issues_next hi).trans ?_
    dsimp only
    rw [if_pos hk]
  · change execJoinRelease g.uid a s = _
    have free : g.clause.isNone = true := by rw [hc]; rfl
    unfold execJoinRelease
    simp only [h, free, true_and]
    rfl

/-- Settles O22: transfers by their form, then each rejoin operation. -/
theorem controlTransfers : Obligations.ControlTransfers := ⟨transfersTaken, rejoinMasks⟩

end Sys2Proof.Proofs
end

section
/-! What the stores of the device change in the groups: halted lanes are called where a record is made (R356, R379),
and matrix results whose operands are in use become Undefined (R76). -/

namespace Sys2Proof.Proofs

open Sys2Proof.Machine Sys2Proof.Laws Sys2Proof.Claims

variable {s t : State} {g : Machine.Group} {w : Who} {n : Nat}

/-- A group but for what a call of the service does to its lanes and but for its matrix tiles. -/
def spoiledGroup (g : Machine.Group) : Machine.Group := { g with lanes := g.lanes.map called, z := [], zPoison := [] }

/-- The groups of two states are the same but for called lanes and for matrix tiles. -/
abbrev SameSpoiled (s t : State) : Prop := SameBut spoiledGroup s t

theorem SameCalled.spoiled (h : SameCalled s t) : SameSpoiled s t := by
  refine SameBut.mono (fun g => ?_) h
  simp only [spoiledGroup, calledGroup, List.map_map]
  congr 1
  exact List.map_congr_left fun y _ => called_called y

theorem SameSpoiled.some_group {v : Nat} (h : SameSpoiled s t) (hg : s.group? v = some g) :
    ∃ y, t.group? v = some y ∧ spoiledGroup y = spoiledGroup g :=
  SameBut.some_group (view := spoiledGroup) (fun _ => rfl) h hg

/-! ### The use of a page -/

theorem staleUse_sameCalled (s : State) (w : Who) (va : Nat) (l : Leaf) : SameCalled s (s.staleUse w va l) := by
  unfold State.staleUse
  split
  · split
    · exact .refl ..
    · exact attrMismatch_sameCalled ..
  · exact .refl ..

theorem cacheLeaf_groups (s : State) (w : Who) (va : Nat) (l : Leaf) : (s.cacheLeaf w va l).groups = s.groups := by
  unfold State.cacheLeaf
  split <;> rfl

theorem fillLine_groups (s : State) (w : Who) (va : Nat) (l : Leaf) : (s.fillLine w va l).groups = s.groups := by
  unfold State.fillLine
  split <;> rfl

theorem touch_sameCalled (s : State) (w : Who) (va : Nat) (d : Bool) : SameCalled s (s.touch w va d) := by
  unfold State.touch
  split
  · next l _ =>
    refine (staleUse_sameCalled s w va l).trans (.of_groups ?_)
    cases d
    · exact cacheLeaf_groups ..
    · exact (fillLine_groups ..).trans (cacheLeaf_groups ..)
  · exact .refl ..

/-! ### Stores -/

theorem spoilTile_spoiled (s : State) (g : Machine.Group) (z : Nat) (es : List Nat) :
    spoiledGroup (g.spoilTile s z es) = spoiledGroup g := rfl

theorem spoilWhere_sameSpoiled (s : State) (p : Machine.Group → MatUse → Bool) : SameSpoiled s (s.spoilWhere p) := by
  have tiles (us : List MatUse) (g : Machine.Group) :
      spoiledGroup (us.foldl (fun y u => y.spoilTile s u.tile u.elems) g) = spoiledGroup g := by
    induction us generalizing g with
    | nil => rfl
    | cons u us ih => exact (ih _).trans (spoilTile_spoiled s g u.tile u.elems)
  unfold State.spoilWhere
  split
  · change List.map spoiledGroup (s.groups.map _) = _
    rw [List.map_map]
    exact List.map_congr_left fun g _ => tiles _ g
  · exact .refl ..

theorem regWrite_groups (s : State) (off : Nat) (v : Word) : (s.regWrite off v).groups = s.groups := by
  unfold State.regWrite State.writeHeadCtl State.modHead State.modPart
  split
  · split <;> rfl
  · split <;> split <;> rfl

theorem recode_groups (s : State) (p : Put) (all : List Put) : (s.recode p all).groups = s.groups := by
  unfold State.recode
  dsimp only
  rw [physWrite_groups]
  dsimp only
  rw [physWrite_groups]

theorem putAll_groups (all ps : List Put) (done : List Nat) (s : State) : (s.putAll all ps done).groups = s.groups := by
  induction ps generalizing s done with
  | nil => rfl
  | cons p ps ih =>
    unfold State.putAll
    split
    · exact ih ..
    · split
      · exact (ih ..).trans (regWrite_groups ..)
      · split
        · split
          · exact ih ..
          · exact (ih ..).trans (recode_groups ..)
        · exact (ih ..).trans (physWrite_groups ..)

theorem perform_sameSpoiled (s : State) (w : Who) (ps : List Put) : SameSpoiled s (s.perform w ps) := by
  unfold State.perform
  split
  · exact .of_groups rfl
  · exact (SameBut.of_groups (putAll_groups ps ps [] s)).trans
      ((SameBut.foldl (fun t p => (touch_sameCalled t w p.va true).spoiled) ps _).trans
        (SameBut.foldl (fun t p => spoilWhere_sameSpoiled t _) ps _))

theorem quietStore_sameSpoiled {va : Nat} {bs : List Byte} (h : s.quietStore w va bs = some t) : SameSpoiled s t := by
  unfold State.quietStore at h
  split at h
  · cases h
    exact perform_sameSpoiled ..
  · cases h

/-! ### Watch records -/

theorem ringRecord_sameSpoiled (s : State) (w : Who) (n : Nat) (k : Comparator) (r : WatchRec) :
    SameSpoiled s (s.ringRecord w n k r) := by
  have store (o : Option State) (ho : ∀ t, o = some t → SameSpoiled s t) (va : Nat) (bs : List Byte) (t : State)
      (h : (o.bind fun s => s.quietStore w va bs) = some t) : SameSpoiled s t := by
    obtain ⟨x, hx, ht⟩ := Option.bind_eq_some_iff.mp h
    exact (ho x hx).trans (quietStore_sameSpoiled ht)
  unfold State.ringRecord
  dsimp only
  cases s.quietLoad w k.ring.toNat 64 with
  | none => exact .refl ..
  | some h =>
    dsimp only
    generalize hs : Option.bind (Option.bind _ _) _ = o
    cases o with
    | none => exact .refl ..
    | some t =>
      refine store _ (fun y hy => store _ (fun z hz => ?_) _ _ y hy) _ _ t hs
      cases hr : r.retain with
      | none =>
        rw [hr] at hz
        cases hz
        exact .refl ..
      | some f =>
        rw [hr] at hz
        exact quietStore_sameSpoiled hz

theorem watchRecord_sameSpoiled (s : State) (w : Who) (hits : List WatchHit) (r : WatchRec) :
    SameSpoiled s (s.watchRecord w hits r) := by
  unfold State.watchRecord
  refine SameBut.foldl (fun t h => ?_) hits s
  dsimp only
  split
  · exact ringRecord_sameSpoiled ..
  · exact .refl ..

theorem threadExit_sameSpoiled (s : State) (g : Machine.Group) (x : Lane) : SameSpoiled s (s.threadExit g x) := by
  unfold State.threadExit
  split
  · exact .refl ..
  · exact watchRecord_sameSpoiled ..

end Sys2Proof.Proofs
end

section
/-! What has no effect, exits, and the instructions that park a path (R18, R154, R179, R182-R185, R356). -/

namespace Sys2Proof.Proofs

open Sys2Proof.Machine Sys2Proof.Laws Sys2Proof.Claims

variable {s t : State} {g y : Machine.Group} {c : Clause} {i : Instr} {m : Mask} {r : Record} {n l : Nat}

/-! ### No effect -/

theorem inert : Inert := by
  refine ⟨?_, fun s g c hi => ⟨fun hn => ?_, fun hw => ?_⟩, fun x s g c hi hd => ?_⟩
  · rintro i (rfl | ⟨h, rfl⟩ | ⟨k, rfl⟩ | ⟨w, rfl⟩ | ⟨w, rfl⟩ | ⟨w, rfl⟩) s g c hi <;> exact issues_next hi
  · refine (issues_next hi).trans (congrArg _ (if_neg ?_))
    simpa [List.any_eq_true] using hn
  · refine (issues_next hi).trans (congrArg _ (if_pos ?_))
    simpa [List.any_eq_true] using hw
  · exact (issues_next hi).trans (congrArg _ (if_pos (.inr hd)))

/-! ### Lanes as a call leaves them -/

theorem called_lane (h : y.lanes.map called = g.lanes.map called) (l : Nat) : called (y.lane l) = called (g.lane l) := by
  have at_ (x : Machine.Group) : called (x.lane l) = (x.lanes.map called).getD l (called {}) := by
    unfold Machine.Group.lane
    simp only [List.getD_eq_getElem?_getD, List.getElem?_map]
    cases x.lanes[l]? <;> rfl
  rw [at_, at_, h]

theorem called_exited (x : Lane) : (called x).st = .exited ↔ x.st = .exited := by
  unfold called LaneState.called
  dsimp only
  split <;> simp_all

theorem called_live (x : Lane) : (called x).live = x.live := by
  unfold Lane.live
  exact decide_eq_decide.mpr (not_congr (called_exited x))

theorem live_of_called {x z : Lane} (h : called x = called z) : x.live = z.live := by
  rw [← called_live x, h, called_live]

theorem exited_of_called {x z : Lane} (h : called x = called z) (hz : z.st = .exited) : x.st = .exited :=
  (called_exited x).mp (h ▸ (called_exited z).mpr hz)

theorem helper_of_called {x z : Lane} (h : called x = called z) : x.helper = z.helper :=
  (congrArg Lane.helper h :)

theorem lane_modLanes_other {f : Nat → Lane → Lane} (h : mHas m l = false) : (g.modLanes m f).lane l = g.lane l := by
  by_cases hl : l < g.lanes.length
  · rw [lane_modLanes hl, if_neg (by simp [h])]
  · unfold Machine.Group.lane
    rw [List.getD_eq_default _ _ (by simpa using hl), List.getD_eq_default _ _ (by omega)]

/-! ### Exit -/

theorem lane_exit_same (hl : l < g.lanes.length) (h : mHas m l = true) : ((g.exit m).lane l).st = .exited := by
  have : (g.exit m).lane l = _ := lane_modLanes (f := fun _ x => { x with st := .exited }) hl
  rw [this, if_pos h]

theorem lane_exit_other (h : mHas m l = false) : (g.exit m).lane l = g.lane l :=
  lane_modLanes_other (f := fun _ x => { x with st := .exited }) h

theorem lane_exit_exited (hl : l < g.lanes.length) (h : (g.lane l).st = .exited) : ((g.exit m).lane l).st = .exited := by
  cases hm : mHas m l with
  | true => exact lane_exit_same hl hm
  | false => rw [lane_exit_other hm, h]

theorem length_exit : (g.exit m).lanes.length = g.lanes.length := length_modLanes

/-- Lanes that exit leave every k register and lose the results that wait for them (R179). -/
theorem exit_clears (h : mHas m l = true) : (∀ k, k ∈ (g.exit m).k → mHas k l = false) ∧
    ∀ p ∈ (g.exit m).pend, ∀ r, p.dst ≠ .v l r ∧ p.dst ≠ .t l r := by
  refine ⟨fun k hk => ?_, fun p hp r => ?_⟩
  · obtain ⟨k', -, rfl⟩ := List.mem_map.mp (show k ∈ g.k.map fun k => k &&& ~~~ m from hk)
    rw [mHas_diff, h, Bool.not_true, Bool.and_false]
  · have := (List.mem_filter.mp (show p ∈ g.pend.filter _ from hp)).2
    constructor <;> intro hd <;> simp [hd, h] at this

/-- What leaves with a second group of lanes leaves no k register with more lanes and no result more. -/
theorem exit_keeps_clear (hk : ∀ k, k ∈ g.k → mHas k l = false) (hp : ∀ p ∈ g.pend, ∀ r, p.dst ≠ .v l r ∧ p.dst ≠ .t l r) :
    (∀ k, k ∈ (g.exit m).k → mHas k l = false) ∧ ∀ p ∈ (g.exit m).pend, ∀ r, p.dst ≠ .v l r ∧ p.dst ≠ .t l r := by
  refine ⟨fun k h => ?_, fun p h => hp p (List.mem_filter.mp (show p ∈ g.pend.filter _ from h)).1⟩
  obtain ⟨k', hk', rfl⟩ := List.mem_map.mp (show k ∈ g.k.map fun k => k &&& ~~~ m from h)
  rw [mHas_diff, hk k' hk', Bool.false_and]

/-- Only helper lanes leave with their quad (R18). -/
theorem orphans_helper (h : mHas g.orphans l = true) : (g.lane l).helper = true := by
  unfold Machine.Group.orphans at h
  rw [mHas_maskOf_iff, List.mem_filter, mem_lanesOf] at h
  obtain ⟨-, ⟨-, hh⟩, -⟩ := h
  unfold Machine.Group.helpers at hh
  have : mHas (g.maskWhere fun l => l.helper) l = true := by
    unfold mHas at hh ⊢
    rw [BitVec.getLsbD_and, Bool.and_eq_true] at hh
    exact hh.2
  exact (mHas_maskWhere_iff.mp this).2.2

theorem mHas_and (a b : Mask) (l : Nat) : mHas (a &&& b) l = (mHas a l && mHas b l) := BitVec.getLsbD_and

theorem mHas_live (hl : l < g.lanes.length) (h : l < 64) : mHas g.live l = (g.lane l).live := by
  have : mHas g.live l = true ↔ (g.lane l).live = true := by
    unfold Machine.Group.live
    rw [mHas_maskWhere_iff]
    simp [hl, h]
  cases hm : mHas g.live l <;> cases hv : (g.lane l).live <;> simp_all

/-- Lanes exit; what their records change of the group are called lanes and matrix tiles. -/
theorem exitLanes_group (h : s.group? g.uid = some g) : ∃ y, spoiledGroup y = spoiledGroup g ∧
    (s.exitLanes g.uid m).group? g.uid =
      some ((y.exit (m &&& g.live)).exit (y.exit (m &&& g.live)).orphans) := by
  obtain ⟨y, hy, hs⟩ := SameSpoiled.some_group (SameBut.foldl (fun t l => threadExit_sameSpoiled t g (g.lane l))
    (lanesOf (g.noHelpers (m &&& g.live))) s) h
  refine ⟨y, hs, ?_⟩
  unfold State.exitLanes
  rw [h]
  exact group?_modGroup_same
    (f := fun g' => (g'.exit (m &&& g.live)).exit (g'.exit (m &&& g.live)).orphans) (fun _ => rfl) hy

/-- The executing lanes have exited; of the others only helper lanes may have. -/
theorem exited_lanes (hy : y.lanes.map called = g.lanes.map called) :
    let z := (y.exit (m &&& g.live)).exit (y.exit (m &&& g.live)).orphans
    (∀ l, l < g.lanes.length → mHas m l → (z.lane l).st = .exited ∧
      ((g.lane l).live → ∀ k, k ∈ z.k → mHas k l = false) ∧
      ((g.lane l).live → ∀ p ∈ z.pend, ∀ r, p.dst ≠ .v l r ∧ p.dst ≠ .t l r)) ∧
    ∀ l, mHas m l = false → (g.lane l).helper = false → called (z.lane l) = called (g.lane l) := by
  have len : y.lanes.length = g.lanes.length := by simpa using congrArg List.length hy
  refine ⟨fun l hl hm => ?_, fun l hm hh => ?_⟩
  · have live := mHas_live hl (mHas_lt hm)
    have out : (g.lane l).live → mHas (m &&& g.live) l = true := fun hv => by rw [mHas_and, hm, live, hv]; rfl
    refine ⟨lane_exit_exited (by rw [length_exit, len]; exact hl) ?_, fun hv => ?_, fun hv => ?_⟩
    · cases hv : (g.lane l).live with
      | true => exact lane_exit_same (len ▸ hl) (out hv)
      | false =>
        exact lane_exit_exited (len ▸ hl) (exited_of_called (called_lane hy l) (by simpa [Lane.live] using hv))
    · exact (exit_keeps_clear (exit_clears (out hv)).1 (exit_clears (out hv)).2).1
    · exact (exit_keeps_clear (exit_clears (out hv)).1 (exit_clears (out hv)).2).2
  · have out : mHas (m &&& g.live) l = false := by rw [mHas_and, hm, Bool.false_and]
    have orphan : mHas (y.exit (m &&& g.live)).orphans l = false := by
      by_contra ho
      have := orphans_helper (Bool.eq_true_of_not_eq_false ho)
      rw [lane_exit_other out, helper_of_called (called_lane hy l), hh] at this
      cases this
    rw [lane_exit_other orphan, lane_exit_other out, called_lane hy l]

theorem exitLanes : ExitLanes := by
  intro s g c hi
  have hg := group?_setGroup_same (x := g) (g := g.modClause fun x => { x with moved := x.moved ||| c.exec })
    (by exact issues_group hi)
  obtain ⟨y, hy, hgroup⟩ := exitLanes_group (m := c.exec) hg
  have hl : y.lanes.map called = g.lanes.map called := (congrArg Machine.Group.lanes hy :)
  have hs : y.s = g.s := (congrArg Machine.Group.s hy :)
  have hf : y.flags = g.flags := (congrArg Machine.Group.flags hy :)
  obtain ⟨hin, hout⟩ := exited_lanes (m := c.exec) hl
  refine ⟨_, issues_next hi, _, hgroup, hs, hf, ?_, hin, hout⟩
  rw [length_exit, length_exit]
  simpa using congrArg List.length hl

/-! ### Parks -/

/-- A path that parks at the next clause. -/
theorem parkNext_eq (g : Machine.Group) (c : Clause) (m : Mask) (p : Park) : g.parkNext c m p = { g with
    lanes := g.lanes.mapIdx fun l x => if mHas m l then { x with pc := c.nextAt, st := .parked p } else x
    clause := g.clause.map fun c' => { c' with moved := c'.moved ||| m } } :=
  transfer_modLanes ..

/-- An event that awaits an answer does so under the next number. -/
theorem sendEvent_awaited (s : State) (slot op : Nat) (p : List Byte) (a : Awaited) :
    ∃ tag, (s.sendEvent slot op p (some a)).awaited = s.awaited ++ [(s.fresh, slot, tag, a)] := by
  have call : (if op = 0x41 ∨ op = 0x42 ∨ op = 0x43 then s.callHalted else s).awaited = s.awaited ∧
      (if op = 0x41 ∨ op = 0x42 ∨ op = 0x43 then s.callHalted else s).fresh = s.fresh := by split <;> exact ⟨rfl, rfl⟩
  unfold State.sendEvent
  dsimp only
  generalize (if op = 0x41 ∨ op = 0x42 ∨ op = 0x43 then s.callHalted else s) = q at call ⊢
  rw [← call.1, ← call.2]
  (repeat' split) <;> exact ⟨_, rfl⟩

/-- A breakpoint that stops its path files BREAK and sends it to the service. -/
theorem brk_stops {x : BitVec 14} (hi : Issues (.brk x) s g c) (hd : (s.ctxOf g).ccb.debug = true)
    (hm : g.noHelpers c.exec ≠ 0)
    (ht : s.enterRecord (s.recordOf g { code := .brk, aux := x.setWidth 32 } (g.noHelpers c.exec) c.header c.word) =
      some (n, true, t)) :
    exec (.brk x) s = .next ((t.modGroup g.uid fun y => y.parkNext c c.exec (.brk n)).sendEvent (s.slotOf g) 0x43
      (breakBytes s g c x (g.noHelpers c.exec)) (some (.brk n))) := by
  refine (issues_next hi).trans ?_
  dsimp only
  rw [if_neg (not_or.mpr ⟨hm, by simp [hd]⟩), ht]

theorem modCtx_ctx (s : State) (k : Nat) (f : Ctx → Ctx) (hf : ∀ c, (f c).slot = c.slot) :
    (s.modCtx k f).ctx k = f (s.ctx k) := by
  have hk : (f (s.ctx k)).slot = k := by rw [hf, ctx_slot]
  have := ctx_setCtx_same s (f (s.ctx k))
  rwa [hk] at this

theorem parks : Parks := by
  refine ⟨fun x s g c hi hr => ?_, fun x s g c hi hr hd hm hb => ?_, fun s g c hi => ?_, fun a s g c hi hr => ?_⟩
  · refine (issues_next hi).trans ?_
    dsimp only
    rw [if_neg (by simp [hr]), parkNext_eq]
    rfl
  · obtain ⟨t, ht, ⟨k, j, hrec⟩, hfresh, haw⟩ := enterRecord_new
      (r := s.recordOf g { code := .brk, aux := x.setWidth 32 } (g.noHelpers c.exec) c.header c.word) rfl hb
    let parking (y : Machine.Group) : Machine.Group := y.parkNext c c.exec (.brk s.fresh)
    obtain ⟨tag, htag⟩ := sendEvent_awaited (t.modGroup g.uid parking) (s.slotOf g) 0x43
      (breakBytes s g c x (g.noHelpers c.exec)) (.brk s.fresh)
    obtain ⟨y, hy, hyg⟩ := (sendEvent_sameCalled (t.modGroup g.uid parking) (s.slotOf g) 0x43
      (breakBytes s g c x (g.noHelpers c.exec)) (some (.brk s.fresh))).some_group
      (group?_modGroup_same (f := parking) (fun _ => rfl) ((show t.group? g.uid = some g by
        unfold State.group?
        rw [enterRecord_groups ht]
        exact issues_group hi)))
    have lanes : y.lanes.map called = (parking g).lanes.map called := (congrArg Machine.Group.lanes hyg :)
    have filed : entered (s.recordOf g { code := .brk, aux := x.setWidth 32 } (g.noHelpers c.exec) c.header c.word)
        s.fresh k j ∈ ((t.modGroup g.uid parking).sendEvent (s.slotOf g) 0x43 (breakBytes s g c x (g.noHelpers c.exec))
          (some (.brk s.fresh))).records := by
      rw [sendEvent_records]
      exact hrec
    refine ⟨_, brk_stops hi hd hm ht, ⟨_, filed, rfl, rfl, rfl, rfl, rfl, rfl⟩,
      ⟨tag, ?_⟩, y, hy, ?_, (congrArg Machine.Group.s hyg :), (congrArg Machine.Group.svcarg hyg :)⟩
    · rw [htag]
      exact congrArg₂ _ haw (by rw [← hfresh]; rfl)
    · rw [lanes, show parking g = _ from parkNext_eq ..]
  · refine (issues_next hi).trans ?_
    dsimp only
    rw [parkNext_eq]
  · refine ⟨_, issues_next hi, ?_⟩
    dsimp only
    rw [if_neg (by simp [hr])]
    refine ⟨?_, rfl, rfl⟩
    exact congrArg (fun c => c.ccb.perfReq) (modCtx_ctx s (s.slotOf g)
      (fun c => { c with ccb := { c.ccb with perfReq := min 7 (readS s g a.val).toNat } }) fun _ => rfl)

/-- Settles O23: what is inert, what exits, and what parks. -/
theorem exitsAndParks : Obligations.ExitsAndParks := ⟨inert, exitLanes, parks⟩

end Sys2Proof.Proofs
end

section
/-! Flags clear with their results (R28, R30, R112), the fairness timer (R24), and the retirement of a group (R180). -/

namespace Sys2Proof.Proofs

open Sys2Proof.Machine Sys2Proof.Laws Sys2Proof.Claims

variable {s t : State} {g y : Machine.Group} {p : Pending} {ps : List Pending} {f h : Fin 12} {l r u : Nat}

/-! ### Reading what a fold has written -/

section
variable {α β V : Type} {op : α → β → α} {read : α → V} {Ok : α → Prop} {hits : β → Prop}

/-- What no element of a list writes, the fold over the list leaves. -/
theorem foldl_read_other (hok : ∀ a b, Ok a → Ok (op a b)) (hr : ∀ a b, Ok a → ¬ hits b → read (op a b) = read a)
    (bs : List β) {a : α} (ha : Ok a) (hb : ∀ b ∈ bs, ¬ hits b) : read (bs.foldl op a) = read a := by
  induction bs generalizing a with
  | nil => rfl
  | cons b bs ih =>
    rw [List.foldl_cons, ih (hok a b ha) fun x hx => hb x (List.mem_cons_of_mem b hx),
      hr a b ha (hb b List.mem_cons_self)]

/-- What one element of a list alone writes is read after the fold over the list. -/
theorem foldl_read_only (hok : ∀ a b, Ok a → Ok (op a b)) (hr : ∀ a b, Ok a → ¬ hits b → read (op a b) = read a)
    {b : β} {v : V} (hw : ∀ a, Ok a → read (op a b) = v) (bs : List β) {a : α} (ha : Ok a) (hb : b ∈ bs)
    (hu : ∀ x ∈ bs, hits x → x = b) : read (bs.foldl op a) = v := by
  induction bs generalizing a with
  | nil => cases hb
  | cons x xs ih =>
    rw [List.foldl_cons]
    by_cases hx : b ∈ xs
    · exact ih (hok a x ha) hx fun z hz => hu z (List.mem_cons_of_mem x hz)
    · have hbx : b = x := (List.mem_cons.mp hb).resolve_right hx
      rw [foldl_read_other hok hr xs (hok a x ha) fun z hz hh => hx (hu z (List.mem_cons_of_mem x hz) hh ▸ hz), ← hbx]
      exact hw a ha

end

/-! ### A result that is delivered -/

/-- The word that a result leaves: Undefined when its register was written meanwhile (R112). -/
def dueWord (s : State) (slot : Nat) (p : Pending) (k : Spot) (a : Nat) : Word :=
  if p.clob then s.undef slot k a else p.word

/-- What stays of a group as results are delivered. -/
structure Settling (g y : Machine.Group) : Prop where
  uid : y.uid = g.uid
  block : y.block = g.block
  flags : y.flags = g.flags
  length : y.lanes.length = g.lanes.length
  pend : y.pend.map (fun p => p.flag) = g.pend.map fun p => p.flag

theorem Settling.refl (g : Machine.Group) : Settling g g := ⟨rfl, rfl, rfl, rfl, rfl⟩

theorem clobber_flags (g : Machine.Group) (d : Dst) :
    (g.clobber d).pend.map (fun p => p.flag) = g.pend.map fun p => p.flag := by
  unfold Machine.Group.clobber
  rw [List.map_map]
  refine List.map_congr_left fun p _ => ?_
  simp only [Function.comp]
  split <;> rfl

theorem Settling.deliver (h : Settling g y) (p : Pending) : Settling g (y.deliver s p) := by
  obtain ⟨huid, hblock, hflags, hlen, hpend⟩ := h
  unfold Machine.Group.deliver
  cases p.dst with
  | v l r => exact ⟨huid, hblock, hflags, by simpa [Machine.Group.clobber] using hlen, (clobber_flags _ _).trans hpend⟩
  | t l r => exact ⟨huid, hblock, hflags, hlen, hpend⟩
  | s r => exact ⟨huid, hblock, hflags, hlen, (clobber_flags _ _).trans hpend⟩
  | h r => exact ⟨huid, hblock, hflags, hlen, (clobber_flags _ _).trans hpend⟩

theorem Settling.foldl (h : Settling g y) (ps : List Pending) :
    Settling g (ps.foldl (fun y p => y.deliver s p) y) := by
  induction ps generalizing y with
  | nil => exact h
  | cons p ps ih => exact ih (h.deliver p)

theorem Settling.slotOf (h : Settling g y) : s.slotOf y = s.slotOf g := by
  unfold State.slotOf
  rw [h.block]

theorem deliver_s (y : Machine.Group) (p : Pending) (r : Nat) : tget 0 (y.deliver s p).s r =
    if p.dst = .s r then dueWord s (s.slotOf y) p .sreg r else tget 0 y.s r := by
  unfold Machine.Group.deliver
  cases hd : p.dst with
  | s q =>
    change tget 0 (tset 0 y.s q _) r = _
    rw [tget_tset]
    by_cases hq : r = q
    · subst hq
      simp [dueWord]
    · rw [if_neg hq, if_neg (by simpa using Ne.symm hq)]
  | v l q => rfl
  | t l q => rfl
  | h q => rfl

theorem deliver_h (y : Machine.Group) (p : Pending) (r : Nat) : tget 0 (y.deliver s p).h r =
    if p.dst = .h r then if p.clob then s.undefHyper (s.slotOf y) .hreg r else p.hyper else tget 0 y.h r := by
  unfold Machine.Group.deliver
  cases hd : p.dst with
  | h q =>
    change tget 0 (tset 0 y.h q _) r = _
    rw [tget_tset]
    by_cases hq : r = q
    · subst hq
      simp
    · rw [if_neg hq, if_neg (by simpa using Ne.symm hq)]
  | v l q => rfl
  | t l q => rfl
  | s q => rfl

theorem deliver_v (y : Machine.Group) (p : Pending) (l r : Nat) (hl : l < y.lanes.length) :
    tget 0 ((y.deliver s p).lane l).v r =
      if p.dst = .v l r then dueWord s (s.slotOf y) p .vreg (vPlace l r) else tget 0 (y.lane l).v r := by
  unfold Machine.Group.deliver
  cases hd : p.dst with
  | v k q =>
    dsimp only
    rw [lane_clobber]
    by_cases hk : l = k
    · subst hk
      rw [lane_modLane_same hl]
      dsimp only
      rw [tget_tset]
      by_cases hq : r = q
      · subst hq
        simp [dueWord]
      · rw [if_neg hq, if_neg (by simpa using Ne.symm hq)]
    · rw [lane_modLane_ne hk, if_neg (by simp [Ne.symm hk])]
  | s q => rfl
  | t k q => rfl
  | h q => rfl

theorem deliver_temps (y : Machine.Group) (p : Pending) (l : Nat) : ((y.deliver s p).lane l).t = (y.lane l).t := by
  unfold Machine.Group.deliver
  cases p.dst with
  | v k q =>
    dsimp only
    rw [lane_clobber]
    by_cases hk : l = k
    · subst hk
      by_cases hl : l < y.lanes.length
      · rw [lane_modLane_same hl]
      · unfold Machine.Group.lane
        rw [List.getD_eq_default _ _ (by simpa using hl), List.getD_eq_default _ _ (by omega)]
    · rw [lane_modLane_ne hk]
  | s q => rfl
  | t k q => rfl
  | h q => rfl

theorem lane_none (hl : ¬ l < g.lanes.length) : g.lane l = {} := by
  unfold Machine.Group.lane
  rw [List.getD_eq_default _ _ (by omega)]

/-! ### FLAG_CLEAR -/

/-- The results of a flag. -/
def dueOf (g : Machine.Group) (f : Fin 12) : List Pending := g.pend.filter fun p => p.flag == f

theorem mem_dueOf : p ∈ dueOf g f ↔ p ∈ g.pend ∧ p.flag = f := by
  simp [dueOf]

/-- The group as its flag clears, with the results still to come. -/
def releasing (g : Machine.Group) (f : Fin 12) : Machine.Group :=
  { g with pend := g.pend.filter (fun p => p.flag != f), uses := g.uses.filter fun u => u.flag != f }

/-- The group with the results of the flag delivered. -/
def delivered (s : State) (g : Machine.Group) (f : Fin 12) : Machine.Group :=
  (dueOf g f).foldl (fun y p => y.deliver s p) (releasing g f)

theorem settleFlag_eq (s : State) (g : Machine.Group) (f : Fin 12) :
    s.settleFlag g f = (delivered s g f).clearFlag f := rfl

theorem delivered_settling : Settling (releasing g f) (delivered s g f) := (Settling.refl _).foldl _

theorem delivered_pend (h : p ∈ (delivered s g f).pend) : p.flag ≠ f := by
  have hm : p.flag ∈ (releasing g f).pend.map fun p => p.flag := by
    rw [← (delivered_settling (s := s) (g := g) (f := f)).pend]
    exact List.mem_map_of_mem h
  obtain ⟨q, hq, he⟩ := List.mem_map.mp hm
  rw [← he]
  simpa using (List.mem_filter.mp (show q ∈ g.pend.filter _ from hq)).2

/-- A place of the group reads what the only result of the flag for it leaves, and is as before when there is none. -/
def DeliversTo {V : Type} (s : State) (g : Machine.Group) (f : Fin 12) (read : Machine.Group → V) (d : Dst)
    (val : Pending → V) : Prop :=
  (∀ p ∈ g.pend, p.flag = f → (∀ q ∈ g.pend, q.flag = f → q.dst = p.dst → q = p) → p.dst = d →
    read (delivered s g f) = val p) ∧
  ((∀ p ∈ g.pend, p.flag = f → p.dst ≠ d) → read (delivered s g f) = read (releasing g f))

theorem deliversTo {V : Type} {read : Machine.Group → V} {d : Dst} {val : Pending → V}
    (hr : ∀ y p, Settling (releasing g f) y → read (y.deliver s p) = if p.dst = d then val p else read y) :
    DeliversTo s g f read d val := by
  have hok : ∀ y p, Settling (releasing g f) y → Settling (releasing g f) (y.deliver s p) := fun y p hy => hy.deliver p
  have other : ∀ (y : Machine.Group) (p : Pending), Settling (releasing g f) y → ¬ p.dst = d →
      read (y.deliver s p) = read y := fun y p hy hn => by rw [hr y p hy, if_neg hn]
  refine ⟨fun p hp hf hu hd => ?_, fun hn => ?_⟩
  · refine foldl_read_only hok other (fun y hy => ?_) _ (.refl _) (mem_dueOf.mpr ⟨hp, hf⟩) fun q hq hqd => ?_
    · rw [hr y p hy, if_pos hd]
    · exact hu q (mem_dueOf.mp hq).1 (mem_dueOf.mp hq).2 (hqd.trans hd.symm)
  · exact foldl_read_other hok other _ (.refl _) fun q hq => hn q (mem_dueOf.mp hq).1 (mem_dueOf.mp hq).2

theorem slotOf_settling (h : Settling (releasing g f) y) : s.slotOf y = s.slotOf g := h.slotOf

theorem delivered_s (s : State) (g : Machine.Group) (f : Fin 12) (r : Nat) :
    DeliversTo s g f (fun y => tget 0 y.s r) (.s r) fun p => dueWord s (s.slotOf g) p .sreg r :=
  deliversTo fun y p hy => by rw [deliver_s, slotOf_settling hy]

theorem delivered_h (s : State) (g : Machine.Group) (f : Fin 12) (r : Nat) :
    DeliversTo s g f (fun y => tget 0 y.h r) (.h r) fun p =>
      if p.clob then s.undefHyper (s.slotOf g) .hreg r else p.hyper :=
  deliversTo fun y p hy => by rw [deliver_h, slotOf_settling hy]

theorem delivered_v (s : State) (g : Machine.Group) (f : Fin 12) (l r : Nat) (hl : l < g.lanes.length) :
    DeliversTo s g f (fun y => tget 0 (y.lane l).v r) (.v l r) fun p => dueWord s (s.slotOf g) p .vreg (vPlace l r) :=
  deliversTo fun y p hy => by rw [deliver_v y p l r (hy.length ▸ hl), slotOf_settling hy]

theorem delivered_temps (l : Nat) : ((delivered s g f).lane l).t = (g.lane l).t := by
  have (ps : List Pending) (y : Machine.Group) :
      ((ps.foldl (fun y p => y.deliver s p) y).lane l).t = (y.lane l).t := by
    induction ps generalizing y with
    | nil => rfl
    | cons p ps ih => exact (ih _).trans (deliver_temps y p l)
  exact this (dueOf g f) (releasing g f)

theorem delivered_lane_none (hl : ¬ l < g.lanes.length) : (delivered s g f).lane l = g.lane l := by
  rw [lane_none hl, lane_none]
  exact fun h => hl (delivered_settling.length ▸ h)

theorem execFlagClear_set (hg : s.group? u = some g) (hf : g.flag f = true) (ho : s.outstanding u f = false)
    (hs : g.setting f = false) : exec (.flagClear u f) s = .next (s.setGroup ((delivered s g f).clearFlag f)) := by
  change execFlagClear u f s = _
  unfold execFlagClear
  simp only [hg, hf, ho, hs, Bool.not_false, and_self, if_true]
  rfl

theorem execFlagClear_idle (hg : s.group? u = some g)
    (h : g.flag f = false ∨ s.outstanding u f = true ∨ g.setting f = true) : exec (.flagClear u f) s = .next s := by
  change execFlagClear u f s = _
  unfold execFlagClear
  rw [hg]
  exact if_neg (by rcases h with h | h | h <;> simp [h])

/-- Replacing a group changes no other one and no byte of memory. -/
theorem setGroup_onlyGroup (s : State) (y : Machine.Group) : OnlyGroup s (s.setGroup y) y.uid :=
  ⟨rfl, fun _ hv => group?_setGroup_ne hv, fun _ => rfl⟩

theorem flagClear_delivers (hg : s.group? u = some g) (hf : g.flag f = true) (ho : s.outstanding u f = false)
    (hs : g.setting f = false) : Answers (exec (.flagClear u f) s) fun t => OnlyGroup s t u ∧
      After t u fun g' => g'.flag f = false ∧ (∀ p ∈ g'.pend, p.flag ≠ f) ∧ (∀ h, h ≠ f → g'.flag h = g.flag h) ∧
        (∀ p ∈ g.pend, p.flag = f → (∀ q ∈ g.pend, q.flag = f → q.dst = p.dst → q = p) →
          (∀ r, p.dst = .s r → tget 0 g'.s r = if p.clob then s.undef (s.slotOf g) .sreg r else p.word) ∧
          (∀ l r, p.dst = .v l r → l < g.lanes.length → tget 0 (g'.lane l).v r =
            if p.clob then s.undef (s.slotOf g) .vreg (vPlace l r) else p.word) ∧
          ∀ r, p.dst = .h r → tget 0 g'.h r = if p.clob then s.undefHyper (s.slotOf g) .hreg r else p.hyper) ∧
        (∀ r, (∀ p ∈ g.pend, p.flag = f → p.dst ≠ .s r) → tget 0 g'.s r = tget 0 g.s r) ∧
        (∀ r, (∀ p ∈ g.pend, p.flag = f → p.dst ≠ .h r) → tget 0 g'.h r = tget 0 g.h r) ∧
        ∀ l, (g'.lane l).t = (g.lane l).t ∧
          ∀ r, (∀ p ∈ g.pend, p.flag = f → p.dst ≠ .v l r) → tget 0 (g'.lane l).v r = tget 0 (g.lane l).v r := by
  have settled := delivered_settling (s := s) (g := g) (f := f)
  have uid : (delivered s g f).uid = u := settled.uid.trans (group?_uid hg :)
  have flags (h : Fin 12) : (delivered s g f).flag h = g.flag h := by
    unfold Machine.Group.flag
    rw [settled.flags]
    rfl
  have only := setGroup_onlyGroup s ((delivered s g f).clearFlag f)
  rw [show ((delivered s g f).clearFlag f).uid = u from uid] at only
  refine ⟨_, execFlagClear_set hg hf ho hs, only, (delivered s g f).clearFlag f, ?_, ?_,
    fun p hp => delivered_pend (s := s) (g := g) hp, fun h hh => ?_, fun p hp hpf hu => ⟨fun r => ?_, fun l r hd hl => ?_, fun r => ?_⟩,
    fun r => (delivered_s s g f r).2, fun r => (delivered_h s g f r).2, fun l => ⟨delivered_temps l, fun r hn => ?_⟩⟩
  · have := group?_setGroup_same (s := s) (g := (delivered s g f).clearFlag f) (x := g)
      (by rw [show ((delivered s g f).clearFlag f).uid = u from uid]; exact hg)
    rwa [show ((delivered s g f).clearFlag f).uid = u from uid] at this
  · rw [flag_clearFlag]
    simp
  · rw [flag_clearFlag, flags]
    simp [hh]
  · exact (delivered_s s g f r).1 p hp hpf hu
  · exact (delivered_v s g f l r hl).1 p hp hpf hu hd
  · exact (delivered_h s g f r).1 p hp hpf hu
  · by_cases hl : l < g.lanes.length
    · exact (delivered_v s g f l r hl).2 hn
    · exact congrArg (fun x : Lane => tget 0 x.v r) (delivered_lane_none hl)

/-! ### Fairness and retirement -/

theorem fairnessTimer_steps (hg : s.group? u = some g) :
    (g.fair < 1024 → exec (.fairnessTimer u) s = .next s) ∧
    (1024 ≤ g.fair → exec (.fairnessTimer u) s = .next (s.setGroup { g with fair := 0, yieldPc := some g.lastPc })) := by
  change (_ → execFairnessTimer u s = _) ∧ (_ → execFairnessTimer u s = _)
  unfold execFairnessTimer
  rw [hg]
  exact ⟨fun h => if_pos h, fun h => if_neg (by omega)⟩

theorem groupRetire_idle (hg : s.group? u = some g) (h : g.noHelpers g.live ≠ 0 ∨ g.flags ≠ 0 ∨ g.clause ≠ none) :
    exec (.groupRetire u) s = .next s := by
  change execGroupRetire u s = _
  unfold execGroupRetire
  rw [hg]
  refine if_neg fun ⟨hs, hq, hc⟩ => ?_
  unfold Machine.Group.spent at hs
  unfold Machine.Group.quiet at hq
  rcases h with h | h | h
  · exact h (by simpa using hs)
  · exact h (by simpa using hq)
  · exact h (by simpa using hc)

/-- Lanes none of which writes a record exit, and nothing else happens. -/
theorem exitLanes_helpers (hg : s.group? u = some g) (hn : g.noHelpers g.live = 0) :
    s.exitLanes u g.live = s.modGroup u fun y => (y.exit g.live).exit (y.exit g.live).orphans := by
  have self : g.live &&& g.live = g.live := BitVec.and_self
  unfold State.exitLanes
  rw [hg]
  dsimp only
  rw [self, hn, lanesOf_zero]
  rfl

theorem exit_frags (h : ∀ x ∈ g.lanes, x.frag = none) (m : Mask) : ∀ x ∈ (g.exit m).lanes, x.frag = none := by
  intro x hx
  obtain ⟨l, hl, rfl⟩ := List.getElem_of_mem
    (show x ∈ g.lanes.mapIdx fun l x => if mHas m l then { x with st := .exited } else x from hx)
  rw [List.length_mapIdx] at hl
  rw [List.getElem_mapIdx]
  have := h _ (List.getElem_mem hl)
  split <;> exact this

theorem group?_dropGroup (s : State) (g : Machine.Group) : (s.dropGroup g).group? g.uid = none := by
  unfold State.group?
  refine List.find?_eq_none.mpr fun x hx => ?_
  have := (List.mem_filter.mp (show x ∈ List.filter _ _ from hx)).2
  simpa using this

theorem finishBlock_groups_mem (s : State) (b : Nat) :
    (s.finishBlock b).groups = s.groups ∧ (s.finishBlock b).mem = s.mem := by
  unfold State.finishBlock
  split
  · exact ⟨rfl, rfl⟩
  · split
    · exact ⟨rfl, rfl⟩
    · dsimp only
      unfold State.openGate
      split <;> split <;> exact ⟨rfl, rfl⟩

theorem groupRetire_retires (hg : s.group? u = some g) (hn : g.noHelpers g.live = 0) (hf : g.flags = 0)
    (hc : g.clause = none) (hx : ∀ x ∈ g.lanes, x.frag = none) :
    Answers (exec (.groupRetire u) s) fun t => t.group? u = none ∧ t.mem = s.mem := by
  let y := (g.exit g.live).exit (g.exit g.live).orphans
  have hy : (s.exitLanes u g.live).group? u = some y := by
    rw [exitLanes_helpers hg hn]
    exact group?_modGroup_same (f := fun y => (y.exit g.live).exit (y.exit g.live).orphans) (fun _ => rfl) hg
  have frags : y.lanes.any Lane.fragPending = false := by
    refine List.any_eq_false.mpr fun x hm => ?_
    have := exit_frags (exit_frags hx g.live) _ x hm
    simp [Lane.fragPending, this]
  have ready : g.spent ∧ g.quiet ∧ g.clause.isNone := by
    simp [Machine.Group.spent, Machine.Group.quiet, hn, hf, hc]
  have run : exec (.groupRetire u) s = .next (((s.exitLanes u g.live).dropGroup y).finishBlock y.block) := by
    change execGroupRetire u s = _
    unfold execGroupRetire
    simp only [hg, if_pos ready, hy, frags, Bool.false_eq_true, if_false]
  obtain ⟨hgroups, hmem⟩ := finishBlock_groups_mem ((s.exitLanes u g.live).dropGroup y) y.block
  refine ⟨_, run, ?_, ?_⟩
  · unfold State.group?
    rw [hgroups]
    have := group?_dropGroup (s.exitLanes u g.live) y
    rwa [show y.uid = u from (group?_uid hg :)] at this
  · rw [hmem, exitLanes_helpers hg hn]
    rfl

/-- Settles O50: flags by what each delivery writes, then the timer and the retirement. -/
theorem groupSteps : Obligations.GroupSteps :=
  ⟨fun _ _ _ _ => flagClear_delivers, fun _ _ _ _ => execFlagClear_idle, fun _ _ _ => fairnessTimer_steps,
    fun _ _ _ => groupRetire_retires, fun _ _ _ => groupRetire_idle⟩

end Sys2Proof.Proofs
end

section
/-! CLAUSE_BEGIN (R28, R29, R152): a path decodes its clause whole and begins it once its flags are clear. -/

namespace Sys2Proof.Proofs

open Sys2Proof.Machine Sys2Proof.Laws Sys2Proof.Claims

variable {s t : State} {g y : Machine.Group} {m : Mask} {d : Decoded} {l u k : Nat}

/-- The lanes of a path whose guard reads 1. -/
theorem mHas_guarded : mHas (g.guarded m d) k = (mHas m k && ((g.lane k).pred d.pred != d.neg)) := by
  have : mHas (g.guarded m d) k = true ↔ mHas m k = true ∧ ((g.lane k).pred d.pred != d.neg) = true := by
    unfold Machine.Group.guarded
    rw [mHas_maskOf_iff, List.mem_filter, mem_lanesOf]
    exact ⟨fun h => ⟨h.2.1.2, h.2.2⟩, fun h => ⟨mHas_lt h.1, ⟨mHas_lt h.1, h.1⟩, h.2⟩⟩
  rw [Bool.eq_iff_iff, this, Bool.and_eq_true]

/-- The guard looks at the predicates of the lanes alone. -/
theorem guarded_congr (h : ∀ l, (y.lane l).preds = (g.lane l).preds) (m : Mask) (d : Decoded) :
    y.guarded m d = g.guarded m d := by
  unfold Machine.Group.guarded Lane.pred
  simp only [h]

/-! ### The clause that begins -/

theorem pinLine_groups_mem (s : State) (w : Who) (a b : DWord) :
    (s.pinLine w a b).groups = s.groups ∧ (s.pinLine w a b).mem = s.mem := by
  unfold State.pinLine
  dsimp only
  split
  · split <;> exact ⟨rfl, rfl⟩
  · exact ⟨rfl, rfl⟩

/-- The state as a clause begins, but for its group: its lines are pinned and its page is used. -/
def fetched (s : State) (g : Machine.Group) (d : Decoded) : State :=
  ((clauseLines d.clause).foldl (fun t a => t.pinLine { s.newId.2.who g with replay := none }
    (t.taskOfGroup g).kaddr a) s.newId.2).touch { s.newId.2.who g with replay := none } d.clause.header.toNat false

theorem fetched_mem (s : State) (g : Machine.Group) (d : Decoded) : (fetched s g d).mem = s.mem := by
  have (as : List DWord) (t : State) : (as.foldl (fun t a => t.pinLine { s.newId.2.who g with replay := none }
      (t.taskOfGroup g).kaddr a) t).mem = t.mem := by
    induction as generalizing t with
    | nil => rfl
    | cons a as ih => exact (ih _).trans (pinLine_groups_mem ..).2
  exact (touch_mem ..).trans (this _ _)

theorem fetched_sameCalled (s : State) (g : Machine.Group) (d : Decoded) : SameCalled s (fetched s g d) :=
  (SameBut.of_groups rfl : SameCalled s s.newId.2).trans
    ((SameBut.foldl (fun t a => .of_groups (pinLine_groups_mem t _ _ a).1) _ _).trans (touch_sameCalled ..))

/-- A group as a clause begins, before the clause is its own: its flags are set, its temporaries empty. -/
def readied (y : Machine.Group) (m : Mask) (d : Decoded) (n : Nat) : Machine.Group :=
  (((y.setOpt d.clause.setA).setOpt d.clause.setB).modLanes m fun _ x => { x with t := [] }).issuedOn
    (onPortA ((d.clause.buf.headD 0).toNat)) n

theorem setOpt_lanes (f : Option (Fin 12)) : (y.setOpt f).lanes = y.lanes := by
  cases f <;> rfl

theorem readied_uid {n : Nat} : (readied y m d n).uid = y.uid := by
  unfold readied Machine.Group.issuedOn Machine.Group.setOpt
  split <;> cases d.clause.setA <;> cases d.clause.setB <;> rfl

theorem issuedOn_lane {b : Bool} {n : Nat} : (y.issuedOn b n).lane l = y.lane l := by
  unfold Machine.Group.issuedOn
  split <;> rfl

theorem readied_preds {n : Nat} (l : Nat) : ((readied y m d n).lane l).preds = (y.lane l).preds := by
  have set : ((y.setOpt d.clause.setA).setOpt d.clause.setB).lane l = y.lane l := by
    unfold Machine.Group.lane
    rw [setOpt_lanes, setOpt_lanes]
  unfold readied
  rw [issuedOn_lane]
  by_cases hl : l < ((y.setOpt d.clause.setA).setOpt d.clause.setB).lanes.length
  · rw [lane_modLanes hl, set]
    split <;> rfl
  · rw [lane_none hl] at set
    rw [lane_none (by simpa using hl), set]

/-- A group as a clause of a path begins. -/
def begun (y : Machine.Group) (m : Mask) (d : Decoded) (n : Nat) (same : Bool) : Machine.Group :=
  { readied y m d n with
    clause := some { d.clause with path := m, exec := (readied y m d n).guarded m d }
    yieldPc := none, fair := if same then (readied y m d n).fair else 0, serialLane := none }

theorem startClause_eq (hs : g.serial = false) : s.startClause g m d =
    { (fetched s g d).modGroup g.uid (fun y => begun y m d s.fresh (g.lastPc == d.clause.header)) with
      turn := some g.uid } := by
  unfold State.startClause
  simp only [hs, Bool.false_eq_true, if_false, Bool.not_false, Bool.true_or, Bool.and_true]
  rfl

/-- A clause begins with the executing lanes those whose guard reads 1. -/
theorem startClause_begins (hg : s.group? u = some g) (hs : g.serial = false) :
    (s.startClause g m d).turn = some g.uid ∧ (s.startClause g m d).mem = s.mem ∧
      After (s.startClause g m d) u fun g' =>
        g'.clause = some { d.clause with path := m, exec := g.guarded m d } := by
  obtain ⟨y, hy, hyg⟩ := (fetched_sameCalled s g d).some_group hg
  have lanes : y.lanes.map called = g.lanes.map called := (calledGroup_fields hyg).2.1
  have guards : (readied y m d s.fresh).guarded m d = g.guarded m d :=
    guarded_congr (fun l => (readied_preds l).trans (congrArg Lane.preds (called_lane lanes l) :)) m d
  rw [startClause_eq hs]
  refine ⟨rfl, fetched_mem s g d, begun y m d s.fresh (g.lastPc == d.clause.header), ?_, ?_⟩
  · have hu := group?_uid hg
    subst hu
    exact group?_modGroup_same (f := fun y => begun y m d s.fresh (g.lastPc == d.clause.header))
      (fun y => readied_uid) hy
  · rw [← guards]
    rfl

/-! ### CLAUSE_BEGIN -/

/-- What a runnable path with nothing to do first does: it goes on to its clause, stops, or begins it. -/
def beginAt (s : State) (g : Machine.Group) (l : Nat) (w : Who) (pc : DWord) : State :=
  match s.nextMarked w skipSlots (codeSlot pc) with
  | .error e => s.stopPath g (g.issueSet l) pc e
  | .ok a =>
    if a ≠ pc then s.setGroup (g.modLanes (g.issueSet l) fun _ x => { x with pc := a })
    else match s.decodeClause w g (s.sysGroup g) (s.taskOfGroup g) pc with
      | .error e => s.stopPath g (g.issueSet l) pc e
      | .ok d => if g.flags &&& d.needs ≠ 0 then s else s.startClause g (g.issueSet l) d

theorem execClauseBegin_path (hg : s.group? u = some g) (hc : g.clause = none) (hp : s.stopped g = false)
    (hi : s.mayIssue g l = true) (ht : s.taskOf u = none) (hd : ∀ d ∈ g.dueLate, d.mask &&& g.issueSet l = 0)
    (ha : s.againOf u (g.issueSet l) = none) (hs : g.serial = false)
    (he : g.lastIssue = none → s.badTarget { s.who g with replay := none } (g.lane l).pc none = none) :
    exec (.clauseBegin u l) s = .next (beginAt s g l { s.who g with replay := none } (g.lane l).pc) := by
  have late : (g.dueLate.any fun d => decide (d.mask &&& g.issueSet l ≠ 0)) = false := by
    refine List.any_eq_false.mpr fun d hm => ?_
    simp [hd d hm]
  have entry : (if g.lastIssue.isNone = true then s.badTarget { s.who g with replay := none } (g.lane l).pc none
      else none) = none := by
    split
    · next h => exact he (by simpa using h)
    · rfl
  have free : (g.clause.isSome || s.stopped g || !s.mayIssue g l) = false := by simp [hc, hp, hi]
  change execClauseBegin u l s = _
  unfold execClauseBegin beginAt
  simp only [hg, free, ht, late, ha, entry, hs, Bool.false_eq_true, if_false, Bool.false_and]
  cases s.nextMarked { s.who g with replay := none } skipSlots (codeSlot (g.lane l).pc) with
  | error e => rfl
  | ok a =>
    dsimp only
    split
    · rfl
    · cases s.decodeClause { s.who g with replay := none } g (s.sysGroup g) (s.taskOfGroup g) (g.lane l).pc with
      | error e => rfl
      | ok d =>
        dsimp only
        split <;> rfl

/-- Settles O49: the next marked slot, the decoding, the flags. -/
theorem clauseBegins : Obligations.ClauseBegins := by
  intro u l s g hg hc hp hi ht hd ha hs w pc he
  have run : exec (.clauseBegin u l) s = .next (beginAt s g l w pc) := execClauseBegin_path hg hc hp hi ht hd ha hs he
  rw [run]
  refine ⟨fun a hm hne => ?_, fun hm => ⟨fun e hde => ?_, fun d hde => ⟨fun hf => ?_, fun hf => ⟨?_, ?_⟩⟩⟩⟩
  · unfold beginAt
    simp only [hm, if_pos hne]
  · unfold beginAt
    simp only [hm, ne_eq, not_true_eq_false, if_false, hde]
  · unfold beginAt
    simp only [hm, ne_eq, not_true_eq_false, if_false, hde, if_pos hf]
  · unfold beginAt
    simp only [hm, ne_eq, not_true_eq_false, if_false, hde, hf]
  · obtain ⟨hturn, hmem, g', hgroup, hclause⟩ := startClause_begins (m := g.issueSet l) (d := d) hg hs
    exact ⟨_, rfl, hturn, hmem, g', hgroup, hclause, fun k _ => mHas_guarded⟩

end Sys2Proof.Proofs
end

section
/-! LAUNCH and LAUNCH.ord (03 R187, 02 R37): one clause of O26 fails where two groups have one number. -/

namespace Sys2Proof.Proofs

open Sys2Proof.Machine Sys2Proof.Laws Sys2Proof.Claims

/-- A clause in flight that does not wait. -/
def issuingClause : Clause :=
  { header := 0, word := 0, buf := [], idx := 0, count := 1, setA := none, setB := none, tie := 0, path := 0
    exec := 0, moved := 0, partialDone := 0, after := 0, nextAt := 0, wait := none, deferred := [] }

/-- Group number 0 under a GID, its clause in flight. -/
def twin (gid : Nat) : Machine.Group :=
  { uid := 0, block := 0, gid := gid, width := 8, lanes := [], clause := some issuingClause }

/-- Two groups of one number, which differ in their GID. -/
def twinState : State := { groups := [twin 0, twin 1] }

/-- `countOrd` changes each group of the number by itself. -/
theorem countOrd_twinState_gids : (twinState.countOrd 0 0).groups.map (·.gid) = [0, 1] := by decide

/-- Setting a group of number 0 replaces both. -/
theorem setGroup_twinState_gids {g : Machine.Group} (h : g.uid = 0) :
    (twinState.setGroup g).groups.map (·.gid) = [g.gid, g.gid] := by
  simp [State.setGroup, twinState, twin, h]

/-- Refutes O26: its clause about `countOrd` says that the state is that with the named group replaced, for every
state. Where two groups have one number (no run forms such a state), `countOrd` changes each of them by itself,
and the replacement makes the second a copy of the first. -/
theorem not_launchMakesChildren : ¬ Obligations.LaunchMakesChildren := by
  unfold Obligations.LaunchMakesChildren
  intro h
  obtain ⟨-, counts, -⟩ := h 0 false
  have equal := (counts twinState (twin 0) (twin 0) issuingClause 0 rfl rfl).1 rfl
  have gids := congrArg (fun s => s.groups.map (·.gid)) equal
  rw [setGroup_twinState_gids rfl] at gids
  exact absurd (countOrd_twinState_gids.symm.trans gids) (by decide)

end Sys2Proof.Proofs
end

section
/-! Routes (07 R188 to R191, 02 R35, 22 R415): the route cache, RENQ and RDEQ, and their wakes, for O27. -/

namespace Sys2Proof.Proofs

open Sys2Proof.Machine Sys2Proof.Laws Sys2Proof.Claims

variable {s t : State} {g y : Machine.Group} {c : Clause} {w : Who} {m : Mask} {d : RouteDesc} {x : RouteCache}
  {k n r l : Nat}

/-! ### The route cache -/

theorem find?_putRoute (r : Nat) (x : RouteCache) (es : Table RouteCache) :
    (putRoute r x es).find? (fun e => e.1 == r) = some (r, x) := by
  induction es with
  | nil => simp [putRoute]
  | cons e es ih =>
    obtain ⟨k, y⟩ := e
    unfold putRoute
    by_cases hlt : r < k
    · simp [hlt]
    by_cases heq : r = k
    · simp [heq]
    · simp [hlt, heq, Ne.symm heq, ih]

theorem setRoute_ctx (s : State) (k r : Nat) (x : RouteCache) :
    (s.setRoute k r x).ctx k = { s.ctx k with routes := putRoute r x (s.ctx k).routes } :=
  modCtx_ctx s k _ fun _ => rfl

theorem find?_setRoute (s : State) (k r : Nat) (x : RouteCache) :
    ((s.setRoute k r x).ctx k).routes.find? (fun e => e.1 == r) = some (r, x) := by
  rw [setRoute_ctx]
  exact find?_putRoute ..

theorem route_setRoute (s : State) (k r : Nat) (x : RouteCache) (d : RouteDesc) :
    ((s.setRoute k r x).ctx k).route r d = x := by
  rw [Ctx.route, find?_setRoute]
  rfl

/-! ### Appending and taking -/

theorem present_groups (s : State) (slot r : Nat) (e : DWord) : (s.present slot r e).groups = s.groups := by
  unfold State.present
  dsimp only
  (repeat' split) <;> rfl

theorem append_full {e : DWord} (h : 2 ^ d.log2 ≤ ((s.ctx w.slot).route r d).count) :
    s.append w r d e = .ok none := if_pos h

theorem append_stores {e : DWord} {ps : List Put} (h : ((s.ctx w.slot).route r d).count < 2 ^ d.log2)
    (hp : s.storeGlobal { w with replay := none } (d.entryAt ((s.ctx w.slot).route r d).tail) (natLe 8 e.toNat) .write =
      .ok ps) :
    s.append w r d e = .ok (some ((s.perform { w with replay := none } ps).setRoute w.slot r
      { (s.ctx w.slot).route r d with tail := ((s.ctx w.slot).route r d).tail + 1 })) := by
  unfold State.append
  dsimp only
  rw [if_neg (by omega), hp]

theorem append_sameSpoiled {e : DWord} (h : s.append w r d e = .ok (some t)) : SameSpoiled s t := by
  unfold State.append at h
  dsimp only at h
  split at h
  · cases h
  split at h
  · cases h
  · cases h
    exact (perform_sameSpoiled ..).trans (.of_groups rfl)

theorem appendLanes_sameSpoiled (es : List (Nat × DWord)) (s : State) :
    SameSpoiled s (appendLanes w r d es s).1 := by
  induction es generalizing s with
  | nil => exact .refl ..
  | cons e es ih =>
    obtain ⟨l, e⟩ := e
    unfold appendLanes
    split
    · next t ht => exact ((append_sameSpoiled ht).trans (.of_groups (present_groups ..))).trans (ih _)
    · exact .refl ..
    · exact .refl ..

theorem take_empty (h : ((s.ctx w.slot).route r d).count = 0) : s.take w r d = .ok none := if_pos h

theorem take_loads {bs : List Byte} (h : ((s.ctx w.slot).route r d).count ≠ 0)
    (hl : s.loadGlobal { w with replay := none } (d.entryAt ((s.ctx w.slot).route r d).head) 8 .read = .ok bs) :
    s.take w r d = .ok (some (BitVec.ofNat 64 (leNat bs),
      s.setRoute w.slot r { (s.ctx w.slot).route r d with head := ((s.ctx w.slot).route r d).head + 1 })) := by
  unfold State.take
  dsimp only
  rw [if_neg h, hl]

theorem take_fails {f : FaultAt} (h : ((s.ctx w.slot).route r d).count ≠ 0)
    (hl : s.loadGlobal { w with replay := none } (d.entryAt ((s.ctx w.slot).route r d).head) 8 .read = .error f) :
    s.take w r d = .error f := by
  unfold State.take
  dsimp only
  rw [if_neg h, hl]

/-! ### RENQ and RDEQ on a route that can take them -/

variable {a : SReg} {v : VReg} {e : DWord}

/-- The route that a register names can be used: its number is in range, and its descriptor is enabled and sound. -/
structure RouteOpen (s : State) (g : Machine.Group) (a : SReg) (d : RouteDesc) : Prop where
  replay : g.replay = false
  number : (readS s g a.val).toNat < 4096
  desc : s.routeDesc (s.who g) (readS s g a.val).toNat = .ok d
  enabled : d.en = true
  sound : d.bad = false

/-- The entries that RENQ appends, by lane. -/
def renqEntries (s : State) (g : Machine.Group) (c : Clause) (v : VReg) : List (Nat × DWord) :=
  (lanesOf (g.noHelpers c.exec)).map fun l => (l, readV64 s g l v.val)

/-- The lanes of a path park for space under a fresh number, each with the entry it has left. -/
def parkSpace (t : State) (slot : Nat) (g : Machine.Group) (c : Clause) (n : Nat) (d : RouteDesc)
    (left : List (Nat × DWord)) : State :=
  let x := (t.ctx slot).route n d
  ((t.newId.2).setRoute slot n { x with waitSpace := x.waitSpace ++ [t.fresh] }).modGroup g.uid fun y =>
    (y.transfer c.exec fun _ => c.nextAt).modLanes c.exec fun l z =>
      { z with st := .parked (.routeSpace n t.fresh ((left.find? fun p => p.1 == l).map (·.2)) c.header c.word) }

/-- What RENQ does once it has appended: nothing more, or the fault that the first lane left has met, or the park. -/
def renqEnd (i : Instr) (s : State) (g : Machine.Group) (c : Clause) (n : Nat) (d : RouteDesc) :
    State × List (Nat × DWord) × Option FaultAt → State
  | (t, [], _) => t
  | (t, left, some f) =>
    let m := maskOf (left.map (·.1))
    (t.modGroup g.uid fun x => x.modClause fun c => { c with partialDone := c.exec &&& ~~~ m }).routeFault g c i f m
  | (t, left, none) => parkSpace t (s.slotOf g) g c n d left

theorem renq_appends (hi : Issues (.renq a v) s g c) (hm : g.noHelpers c.exec ≠ 0) (ho : RouteOpen s g a d)
    (hp : c.partialDone = 0) :
    exec (.renq a v) s = .next (renqEnd (.renq a v) s g c (readS s g a.val).toNat d
      (appendLanes (s.who g) (readS s g a.val).toNat d (renqEntries s g c v) s)) := by
  have go : ¬ (g.replay = true ∨ g.noHelpers c.exec = 0) := not_or.mpr ⟨by simp [ho.replay], hm⟩
  have room := Nat.not_le.mpr ho.number
  have use : ¬ (!d.en || d.bad) = true := by simp [ho.enabled, ho.sound]
  have all : g.noHelpers c.exec &&& ~~~ c.partialDone = g.noHelpers c.exec := by
    rw [hp]; exact BitVec.and_allOnes
  refine (issues_next hi).trans ?_
  dsimp only
  simp only [if_neg go, if_neg room, ho.desc, if_neg use, all, renqEntries]
  generalize appendLanes _ _ d _ s = o
  obtain ⟨t, _ | ⟨x, left⟩, _ | f⟩ := o <;> rfl

/-- A path parks for an entry under a fresh number, behind those that wait. -/
def parkEntry (s : State) (g : Machine.Group) (c : Clause) (n : Nat) (q : RouteDesc) (a : SReg) : State :=
  let x := (s.ctx (s.slotOf g)).route n q
  ((s.newId.2).setRoute (s.slotOf g) n { x with waitEntry := x.waitEntry ++ [s.fresh] }).modGroup g.uid fun y =>
    y.parkNext c c.exec (.route n s.fresh (y.sbase + a.val) c.header c.word)

section
variable {b : SReg} (hi : Issues (.rdeq b a) s g c) (ho : RouteOpen s g a d)
include hi ho

theorem rdeq_takes (hw : ((s.ctx (s.slotOf g)).route (readS s g a.val).toNat d).waitEntry = [])
    (ht : s.take (s.who g) (readS s g a.val).toNat d = .ok (some (e, t))) :
    exec (.rdeq b a) s = .next (t.modGroup g.uid fun y => y.writeS64 b.val e) := by
  have go : ¬ g.replay = true := by simp [ho.replay]
  have room := Nat.not_le.mpr ho.number
  have use : ¬ (!d.en || d.bad) = true := by simp [ho.enabled, ho.sound]
  refine (issues_next hi).trans ?_
  dsimp only
  simp only [if_neg go, if_neg room, ho.desc, if_neg use, ht]
  exact congrArg _ (if_neg (not_not.mpr hw))

theorem rdeq_parks (hc : ((s.ctx (s.slotOf g)).route (readS s g a.val).toNat d).count = 0) :
    exec (.rdeq b a) s = .next (parkEntry s g c (readS s g a.val).toNat d b) := by
  have go : ¬ g.replay = true := by simp [ho.replay]
  have room := Nat.not_le.mpr ho.number
  have use : ¬ (!d.en || d.bad) = true := by simp [ho.enabled, ho.sound]
  have none : s.take (s.who g) (readS s g a.val).toNat d = .ok none := take_empty hc
  refine (issues_next hi).trans ?_
  dsimp only
  simp only [if_neg go, if_neg room, ho.desc, if_neg use, none]
  exact congrArg _ (ite_self _)

end

/-! ### ROUTE -/

theorem renq_traps (hi : Issues (.renq a v) s g c) (hr : g.replay = false) (hm : g.noHelpers c.exec ≠ 0)
    (hn : 4096 ≤ (readS s g a.val).toNat ∨
      ∃ d, s.routeDesc (s.who g) (readS s g a.val).toNat = .ok d ∧ (d.en = false ∨ d.bad = true)) :
    exec (.renq a v) s = .next (s.trapAt g c (.renq a v) { code := .route } (g.noHelpers c.exec)) := by
  have go : ¬ (g.replay = true ∨ g.noHelpers c.exec = 0) := not_or.mpr ⟨by simp [hr], hm⟩
  refine (issues_next hi).trans ?_
  dsimp only
  rw [if_neg go]
  by_cases room : 4096 ≤ (readS s g a.val).toNat
  · rw [if_pos room]
  · obtain ⟨d, hd, hu⟩ := hn.resolve_left room
    rw [if_neg room, hd]
    exact congrArg _ (if_pos (by simpa using hu))

theorem rdeq_traps {b : SReg} (hi : Issues (.rdeq b a) s g c) (hr : g.replay = false)
    (hn : 4096 ≤ (readS s g a.val).toNat ∨
      ∃ d, s.routeDesc (s.who g) (readS s g a.val).toNat = .ok d ∧ (d.en = false ∨ d.bad = true)) :
    exec (.rdeq b a) s = .next (s.trapAt g c (.rdeq b a) { code := .route } c.exec) := by
  refine (issues_next hi).trans ?_
  dsimp only
  rw [if_neg (by simp [hr])]
  by_cases room : 4096 ≤ (readS s g a.val).toNat
  · rw [if_pos room]; rfl
  · obtain ⟨d, hd, hu⟩ := hn.resolve_left room
    rw [if_neg room, hd]
    exact congrArg _ (if_pos (by simpa using hu))

/-! ### What the parks leave -/

/-- A lane that its instruction sends elsewhere and changes. -/
theorem lane_transfer_modLanes {pc : Nat → DWord} {f : Nat → Lane → Lane} (hl : l < y.lanes.length)
    (hm : mHas m l = true) : ((y.transfer m pc).modLanes m f).lane l = f l { y.lane l with pc := pc l } := by
  have sent : (y.transfer m pc).lane l = { y.lane l with pc := pc l } := (lane_modLanes hl).trans (if_pos hm)
  have length : l < (y.transfer m pc).lanes.length := by rw [Group.transfer]; exact length_modLanes.symm ▸ hl
  rw [lane_modLanes length, if_pos hm, sent]

theorem parkSpace_leaves {slot : Nat} {left : List (Nat × DWord)} (hg : t.group? g.uid = some y) :
    (∃ q, ((parkSpace t slot g c n d left).ctx slot).routes.find? (fun e => e.1 == n) = some (n, q) ∧
      q.waitSpace = ((t.ctx slot).route n d).waitSpace ++ [t.fresh]) ∧
    After (parkSpace t slot g c n d left) g.uid fun g' => ∀ l, l < y.lanes.length → mHas c.exec l = true →
      (g'.lane l).pc = c.nextAt ∧ (g'.lane l).st =
        .parked (.routeSpace n t.fresh ((left.find? fun p => p.1 == l).map (·.2)) c.header c.word) := by
  refine ⟨⟨_, find?_setRoute .., rfl⟩, _, group?_modGroup_same (fun _ => rfl) hg, fun l hl hm => ?_⟩
  rw [lane_transfer_modLanes hl hm]
  exact ⟨rfl, rfl⟩

theorem parkEntry_leaves {b : SReg} (hg : s.group? g.uid = some g) :
    (∃ q, ((parkEntry s g c n d b).ctx (s.slotOf g)).routes.find? (fun e => e.1 == n) = some (n, q) ∧
      q.waitEntry = ((s.ctx (s.slotOf g)).route n d).waitEntry ++ [s.fresh]) ∧
    After (parkEntry s g c n d b) g.uid fun g' => ∀ l, l < g.lanes.length → mHas c.exec l = true →
      (g'.lane l).pc = c.nextAt ∧ (g'.lane l).st = .parked (.route n s.fresh (g.sbase + b.val) c.header c.word) := by
  refine ⟨⟨_, find?_setRoute .., rfl⟩, _, group?_modGroup_same (fun _ => rfl) hg, fun l hl hm => ?_⟩
  rw [Group.parkNext, lane_transfer_modLanes hl hm]
  exact ⟨rfl, rfl⟩

theorem SameSpoiled.length (h : spoiledGroup y = spoiledGroup g) : y.lanes.length = g.lanes.length := by
  simpa [spoiledGroup] using congrArg (fun z : Machine.Group => z.lanes.length) h

theorem routeQueues : RouteQueues := by
  refine ⟨?_, ?_, fun s w r d e => append_full, fun s w r d e h ps => append_stores h, fun x => rfl,
    fun s k r x d => ⟨route_setRoute .., rfl, rfl⟩,
    fun s w r d => ⟨take_empty, fun bs => take_loads, fun f => take_fails⟩, ?_, ?_, ?_, ?_, ?_, ?_, ?_, ?_⟩
  · intro a v s g c d t f hi hr hm hn hd hen hbad hp h
    rw [renq_appends hi hm ⟨hr, hn, hd, hen, hbad⟩ hp, renqEntries, h]
    rfl
  · intro a v s g c d t x left hi hr hm hn hd hen hbad hp h
    obtain ⟨y, hy, hs⟩ := (appendLanes_sameSpoiled (w := s.who g) (r := (readS s g a.val).toNat) (d := d)
      (renqEntries s g c v) s).some_group (issues_group hi)
    rw [renqEntries, h] at hy
    obtain ⟨parked, after⟩ := parkSpace_leaves (c := c) (slot := s.slotOf g) (n := (readS s g a.val).toNat) (d := d)
      (left := x :: left) hy
    rw [renq_appends hi hm ⟨hr, hn, hd, hen, hbad⟩ hp, renqEntries, h]
    exact ⟨_, rfl, rfl, parked, SameSpoiled.length hs ▸ after⟩
  · intro b a s g c d e t hi hr hn hd hen hbad hw ht
    rw [rdeq_takes hi ⟨hr, hn, hd, hen, hbad⟩ hw ht]
    simp only [extractLsb'_high]
    rfl
  · intro b a s g c d hi hr hn hd hen hbad hc
    obtain ⟨parked, y, hy, after⟩ := parkEntry_leaves (c := c) (n := (readS s g a.val).toNat) (d := d) (b := b)
      (issues_group hi)
    exact ⟨_, rdeq_parks hi ⟨hr, hn, hd, hen, hbad⟩ hc, rfl, parked, y, hy,
      fun l hl hm => ⟨(after l hl hm).1, _, _, (after l hl hm).2⟩⟩
  · intro b a s g c hi hr
    exact (issues_next hi).trans (congrArg _ (if_pos hr))
  · intro a v s g c hi hr
    exact (issues_next hi).trans (congrArg _ (if_pos (.inl hr)))
  · exact fun b a s g c d hi hr _ hd hu => rdeq_traps hi hr (.inr ⟨d, hd, hu⟩)
  · exact fun a v s g c d hi hr hm _ hd hu => renq_traps hi hr hm (.inr ⟨d, hd, hu⟩)
  · exact fun b a s g c hi hr hn => rdeq_traps hi hr (.inl hn)
  · exact fun a v s g c hi hr hm hn => renq_traps hi hr hm (.inl hn)

/-! ### Wakes -/

variable {q : RouteDesc} {slot : Slot} {ks : List Nat} {b : BitVec 12}

/-- The route that a wake looks at: its cache entry, and the group of a park that no unanswered record holds. -/
structure Wakes (s : State) (slot : Slot) (b : BitVec 12) (k : Nat) (x : RouteCache) (g : Machine.Group)
    (q : RouteDesc) : Prop where
  cached : (s.ctx slot.val).routes.find? (fun e => e.1 == b.toNat) = some (b.toNat, x)
  group : s.parkGroup k = some g
  answered : s.parkFaulted g (g.parkMask k) = false
  desc : s.routeDesc { s.who g with replay := none } b.toNat = .ok q
  enabled : q.en = true
  sound : q.bad = false

theorem parkMask_of_lanes {z : Machine.Group} (h : z.lanes = y.lanes) (k : Nat) : z.parkMask k = y.parkMask k := by
  simp only [Group.parkMask, Group.maskWhere, Machine.Group.lane, h]

theorem routeEntryWake_takes {e : DWord} (hw : Wakes s slot b k x g q) (hx : x.waitEntry = k :: ks)
    (ht : s.take { s.who g with replay := none } b.toNat q = .ok (some (e, t))) :
    exec (.routeEntryWake slot b) s = .next ((t.modCtx slot.val fun c => c.unpark [k]).setGroup
      (((g.putS (g.parkDst k) (lo32 e)).putS (g.parkDst k + 1) (hi32 e)).modLanes (g.parkMask k) fun _ x =>
        { x with st := .runnable })) := by
  show execRouteEntryWake slot b s = _
  unfold execRouteEntryWake
  dsimp only
  have mask : ((g.putS (g.parkDst k) (lo32 e)).putS (g.parkDst k + 1) (hi32 e)).parkMask k = g.parkMask k :=
    parkMask_of_lanes rfl k
  simp [hw.cached, hx, hw.group, hw.answered, hw.desc, hw.enabled, hw.sound, ht, Group.wakePark, mask]

/-- The lanes of a park, but those left, note that they have appended. -/
def appendedLanes (t : State) (u k : Nat) (left : List Nat) : State :=
  t.modGroup u fun y => y.modLanes (y.parkMask k) fun l z =>
    if left.contains l then z else { z with st := z.st.appended }

theorem routeSpaceWake_appends {f : Option FaultAt} (hw : Wakes s slot b k x g q) (hx : x.waitSpace = k :: ks)
    (ht : appendLanes { s.who g with replay := none } b.toNat q (g.parkLeft k) s = (t, [], f)) :
    exec (.routeSpaceWake slot b) s = .next
      (((appendedLanes t g.uid k []).modCtx slot.val fun c => c.unpark [k]).modGroup g.uid fun y => y.wakePark k) := by
  show execRouteSpaceWake slot b s = _
  unfold execRouteSpaceWake
  dsimp only
  simp [hw.cached, hx, hw.group, hw.answered, hw.desc, hw.enabled, hw.sound, ht, appendedLanes]

/-- A park that `parkMask` looks for. -/
def parkedUnder (k : Nat) : LaneState → Bool
  | .parked (.route _ n _ _ _) | .parked (.routeSpace _ n _ _ _) => n == k
  | _ => false

theorem mHas_parkMask : mHas (g.parkMask k) l = true ↔
    l < 64 ∧ l < g.lanes.length ∧ parkedUnder k (g.lane l).st = true := mHas_maskWhere_iff

theorem parkedUnder_called (x : LaneState) : parkedUnder k x.called = parkedUnder k x := by
  unfold LaneState.called
  split <;> rfl

theorem parkedUnder_appended (x : LaneState) : parkedUnder k x.appended = parkedUnder k x := by
  unfold LaneState.appended
  split <;> rfl

theorem parkedUnder_of_called {x z : Lane} (h : called x = called z) : parkedUnder k x.st = parkedUnder k z.st := by
  have st : x.st.called = z.st.called := congrArg Lane.st h
  rw [← parkedUnder_called, st, parkedUnder_called]

theorem pc_of_called {x z : Lane} (h : called x = called z) : x.pc = z.pc := (congrArg Lane.pc h :)

/-- A park's lanes that have appended their entries and go on. -/
theorem wakes_lane (h : mHas (y.parkMask k) l = true) :
    let z := y.modLanes (y.parkMask k) fun _ z => { z with st := z.st.appended }
    ((z.wakePark k).lane l).st = .runnable ∧ ((z.wakePark k).lane l).pc = (y.lane l).pc := by
  intro z
  obtain ⟨h64, hl, hp⟩ := mHas_parkMask.mp h
  have hz : l < z.lanes.length := length_modLanes.symm ▸ hl
  have lane : z.lane l = { y.lane l with st := (y.lane l).st.appended } := (lane_modLanes hl).trans (if_pos h)
  have still : mHas (z.parkMask k) l = true :=
    mHas_parkMask.mpr ⟨h64, hz, by rw [lane]; exact (parkedUnder_appended _).trans hp⟩
  rw [Group.wakePark, lane_modLanes hz, if_pos still, lane]
  exact ⟨rfl, rfl⟩

theorem unpark_waitSpace {c : Ctx} {e : Nat × RouteCache} (h : e ∈ (c.unpark [k]).routes) : k ∉ e.2.waitSpace := by
  obtain ⟨_, _, rfl⟩ := List.mem_map.mp h
  simp

theorem routeSpaceWake_leaves {f : Option FaultAt} (hw : Wakes s slot b k x g q) (hx : x.waitSpace = k :: ks)
    (hg : s.group? g.uid = some g)
    (ht : appendLanes { s.who g with replay := none } b.toNat q (g.parkLeft k) s = (t, [], f)) :
    Answers (exec (.routeSpaceWake slot b) s) fun t' => t'.mem = t.mem ∧
      (∀ e ∈ (t'.ctx slot.val).routes, k ∉ e.2.waitSpace) ∧
      After t' g.uid fun g' => ∀ l ∈ lanesOf (g.parkMask k), (g'.lane l).st = .runnable ∧
        (g'.lane l).pc = (g.lane l).pc := by
  obtain ⟨y, hy, hs⟩ := (appendLanes_sameSpoiled (w := { s.who g with replay := none }) (r := b.toNat) (d := q)
    (g.parkLeft k) s).some_group hg
  rw [ht] at hy
  have lanes : y.lanes.map called = g.lanes.map called := congrArg (fun z : Machine.Group => z.lanes) hs
  have ctx := modCtx_ctx (appendedLanes t g.uid k []) slot.val (fun c => c.unpark [k]) fun _ => rfl
  refine ⟨_, routeSpaceWake_appends hw hx ht, rfl, fun e he => ?_, _,
    group?_modGroup_same (fun _ => rfl) (group?_modGroup_same (s := t) (fun _ => rfl) hy), fun l hl => ?_⟩
  · exact unpark_waitSpace (congrArg Ctx.routes ctx ▸ he)
  · obtain ⟨h64, hlen, hp⟩ := mHas_parkMask.mp (mem_lanesOf.mp hl).2
    have mine := called_lane lanes l
    have held : mHas (y.parkMask k) l = true :=
      mHas_parkMask.mpr ⟨h64, SameSpoiled.length hs ▸ hlen, (parkedUnder_of_called mine).trans hp⟩
    obtain ⟨st, pc⟩ := wakes_lane held
    exact ⟨st, pc.trans (pc_of_called mine)⟩

theorem peerEnqueue_appends {e : DWord} (hd : s.routeDesc { cl := 0, slot := slot.val } b.toNat = .ok q)
    (hc : (s.ctx slot.val).state ≠ .free) (hp : q.pod = true) (he : q.en = true) (hb : q.bad = false)
    (ha : s.append { cl := 0, slot := slot.val } b.toNat q e = .ok (some t)) :
    exec (.peerEnqueue slot b e) s = .next t := by
  have number : ¬ 4096 ≤ b.toNat := by omega
  show execPeerEnqueue slot b e s = _
  unfold execPeerEnqueue State.enqueue1
  simp only [hd]
  rw [if_neg (by simp [hc, hp])]
  simp [number, he, hb, ha]

theorem routeWakes : RouteWakes := by
  refine ⟨?_, ?_, ?_, fun _ _ _ => rfl, fun slot b s => ⟨_, rfl, by simp, fun e he => by simp [he]⟩,
    fun slot b e s d t hd hc hp he hb => peerEnqueue_appends hd hc hp he hb⟩
  · intro slot b s x k ks g q e t hx hk hg ha hd he hb ht
    rw [routeEntryWake_takes ⟨hx, hg, ha, hd, he, hb⟩ hk ht, extractLsb'_high]
    rfl
  · intro slot b s x k ks g q t f hx hk hg hu ha hd he hb ht
    exact routeSpaceWake_leaves ⟨hx, hg, ha, hd, he, hb⟩ hk hu ht
  · intro slot b s d t hd
    show execRouteEnable slot b s = _
    unfold execRouteEnable
    simp only [t] at hd
    simp only [hd, t]

/-- Settles O27: what RENQ and RDEQ do follows from the route cache's rules (`find?_putRoute`), and a wake's lanes
are those of the park, which appending only calls. -/
theorem routes : Obligations.Routes := ⟨routeQueues, routeWakes⟩

end Sys2Proof.Proofs
end

section
/-! The stores and STBRK (09 R235 to R237, 04 R92, R93): which bytes they put where, for O30. -/

namespace Sys2Proof.Proofs

open Sys2Proof.Machine Sys2Proof.Laws Sys2Proof.Claims

variable {s t : State} {g : Machine.Group} {c : Clause} {i : Instr} {o : LaneOp} {k n : Nat} {z : LdSize}
  {w : StNarrow}

/-! ### Performing -/

/-- Lane accesses that are ready perform in the executing lanes. -/
theorem runLanes_ready (h : LanesReady s g c i o) : runLanes s g c i o = performed s g c i o := by
  obtain ⟨free, full, good⟩ := h
  have held : s.heldBack g i o (acting g c o) = false := by
    rw [State.heldBack, Bool.and_eq_false_iff, List.any_eq_false]
    exact .inr fun l hl => by simp [free l hl]
  have lines : (if o.waits then s.emptyLines ((acting g c o).flatMap fun l => o.span s g l) else []) = [] := by
    split
    · exact full ‹_›
    · rfl
  unfold acting at held lines
  unfold ran at good
  unfold runLanes
  simp only [held, lines, good, Bool.false_eq_true, if_false]
  rfl

theorem performs_of_issueLanes (h : ∀ s, exec i s = issueLanes i s o) : Performs i o := fun s _ _ hi hr =>
  (h s).trans ((issues_next hi).trans (congrArg _ (runLanes_ready hr)))

theorem performsOnce_of_issueGroupOp {o : GroupOp} (h : ∀ s, exec i s = issueGroupOp i s o) : PerformsOnce i o :=
  fun s _ _ _ hi hb hx => (h s).trans ((issues_next hi).trans (congrArg _ (runGroupOp_performed hb hx)))

/-! ### The bytes of words -/

theorem ofNat_div_eq_extractLsb' {m : Nat} (x : BitVec m) (j : Nat) :
    BitVec.ofNat 8 (x.toNat / 256 ^ j) = x.extractLsb' (8 * j) 8 := by
  rw [BitVec.extractLsb', Nat.shiftRight_eq_div_pow, pow_mul]
  rfl

theorem natLe_getElem? {v : Nat} (h : k < n) : (natLe n v)[k]? = some (BitVec.ofNat 8 (v / 256 ^ k)) := by
  have hk : k < (natLe n v).length := by simpa using h
  rw [← natLe_getD n v h, List.getD_eq_getElem?_getD, List.getElem?_eq_getElem hk]
  rfl

theorem bytesOf_length (ws : List Word) : (bytesOf ws).length = 4 * ws.length := by
  induction ws with
  | nil => rfl
  | cons w ws ih => rw [bytesOf, List.length_append, natLe_length, ih, List.length_cons]; omega

theorem bytesOf_getElem? (ws : List Word) (k : Nat) :
    (bytesOf ws)[k]? = ws[k / 4]?.map fun w => w.extractLsb' (8 * (k % 4)) 8 := by
  induction ws generalizing k with
  | nil => simp [bytesOf]
  | cons w ws ih =>
    rw [bytesOf]
    by_cases hk : k < 4
    · rw [List.getElem?_append_left (by simpa using hk), natLe_getElem? hk, ofNat_div_eq_extractLsb',
        Nat.div_eq_of_lt hk, Nat.mod_eq_of_lt hk]
      rfl
    · obtain ⟨j, rfl⟩ := Nat.exists_eq_add_of_le (Nat.le_of_not_lt hk)
      rw [List.getElem?_append_right (by simp), natLe_length, Nat.add_sub_cancel_left, ih,
        show (4 + j) / 4 = j / 4 + 1 by omega, Nat.add_mod_left, List.getElem?_cons_succ]

theorem bytes_le_words (z : LdSize) : z.bytes ≤ 4 * z.words := by cases z <;> decide

theorem natLe_two_getElem? {v : Nat} (h : k < 2) :
    (natLe 2 v)[k]? = some ((BitVec.ofNat 16 v).extractLsb' (8 * k) 8) := by
  rw [natLe_getElem? h, BitVec.extractLsb', BitVec.toNat_ofNat, Nat.shiftRight_eq_div_pow, pow_mul]
  congr 1
  apply BitVec.eq_of_toNat_eq
  rw [BitVec.toNat_ofNat, BitVec.toNat_ofNat]
  obtain rfl | rfl : k = 0 ∨ k = 1 := by omega
  · omega
  · omega

/-- The bytes that a store makes of consecutive registers are those it is said to write. -/
theorem storeBytes_stored {ovt : BitVec 16} (src : Nat → Word) (h : z.narrowOk w = true) :
    StoredBytes ovt z w src (storeBytes ovt z w ((List.range z.words).map src)) := by
  have narrow : w ≠ .none → z.bytes = 2 := fun hw => by
    have := of_decide_eq_true h
    rw [this.resolve_left hw]
    rfl
  have first : ((List.range z.words).map src).headD 0 = src 0 := by cases z <;> rfl
  refine ⟨?_, ?_, ?_, ?_⟩
  · cases w with
    | none =>
      rw [storeBytes, List.length_take, bytesOf_length, List.length_map, List.length_range]
      exact Nat.min_eq_left (bytes_le_words z)
    | f16 => rw [storeBytes, natLe_length, narrow (by decide)]
    | bf16 => rw [storeBytes, natLe_length, narrow (by decide)]
  · rintro rfl k hk
    have hw : k / 4 < z.words := by have := bytes_le_words z; omega
    rw [storeBytes, List.getElem?_take_of_lt hk, bytesOf_getElem?, List.getElem?_map, List.getElem?_range hw]
    rfl
  · rintro rfl k hk
    rw [storeBytes, natLe_two_getElem? hk, first]
  · rintro rfl k hk
    rw [storeBytes, natLe_two_getElem? hk, first]

/-! ### Where the bytes go -/

theorem checkForm_good {a : DWord} {b : Bool} (h : wellFormed a n) : checkForm a n b = .ok () := by
  unfold checkForm
  rw [if_neg (by simp [h.1]), if_neg (by simp [h.2])]

theorem storeGlobal_puts {v : Who} {a : DWord} {bytes : List Byte} {need : Need} {leaf : Leaf}
    (hl : bytes.length = n) (ha : wellFormed a n) (hr : s.reach v a.toNat n need = .ok leaf) :
    s.storeGlobal v a bytes need = .ok [⟨leaf, a.toNat, clean bytes⟩] := by
  subst hl
  have length : (mbClean bytes).length = bytes.length := List.length_map ..
  unfold State.storeGlobal State.checkStore
  rw [checkForm_good ha]
  simp only [length, hr]
  rfl

theorem locate_own {u off : Nat} {d : VReg} {m : MemX} {l : Nat} {cluster : Bool}
    (h : s.locate g cluster (localAddr s g l z.bytes m).toNat z.bytes = .ok (u, off))
    (ho : g.replay = false ∨ u = g.block) :
    (localStoreOp cluster z w d m).run s g l =
      .ok { state := s.spadStore u off (clean (storeBytes (s.ovtOf g) z w (readVs s g l d.val z.words))) } := by
  unfold localStoreOp
  simp only [h]
  rw [if_neg]
  · rfl
  · rintro ⟨hr, hu⟩
    exact ho.elim (fun h => by simp [h] at hr) hu

theorem locate_other {u off : Nat} {d : VReg} {m : MemX} {l : Nat} {cluster : Bool}
    (h : s.locate g cluster (localAddr s g l z.bytes m).toNat z.bytes = .ok (u, off))
    (hr : g.replay = true) (hu : u ≠ g.block) :
    (localStoreOp cluster z w d m).run s g l = .ok { state := s.condition g 6 } := by
  unfold localStoreOp
  simp only [h]
  exact if_pos ⟨hr, hu⟩

/-! ### Bricks -/

theorem packBits_nil (m lo : Nat) : packBits m lo [] = 0 := rfl

theorem natLe_zero (n : Nat) : natLe n 0 = List.replicate n 0 := by
  induction n with
  | zero => rfl
  | succ n ih => rw [natLe, Nat.zero_div, ih]; rfl

/-- A brick with no mantissa: the header's two bytes, then zeros (R86). -/
theorem pack_nil {q : QFmt} {e : Nat} (hq : 32 * q.kind + 4 * q.mw < 256) (he : e < 256) :
    q.pack e [] = BitVec.ofNat 8 (32 * q.kind + 4 * q.mw) :: BitVec.ofNat 8 e :: List.replicate 62 0 := by
  have header : q.kind * 32 + q.mw * 4 + e * 256 + packBits q.bits 16 [] = 32 * q.kind + 4 * q.mw + 256 * e := by
    rw [packBits_nil]; omega
  have low : (32 * q.kind + 4 * q.mw + 256 * e) % 256 = 32 * q.kind + 4 * q.mw := by omega
  have next : (32 * q.kind + 4 * q.mw + 256 * e) / 256 = e := by omega
  have rest : e / 256 = 0 := by omega
  rw [QFmt.pack, header, natLe, natLe, low, next, rest, natLe_zero, Nat.mod_eq_of_lt he]

theorem pack_length (q : QFmt) (e : Nat) (ms : List Int) : (q.pack e ms).length = 64 := natLe_length ..

theorem quantise_length (q : QFmt) (a : Nat) (ws : List Word) : (quantise q a ws).length = 64 := by
  unfold quantise
  dsimp only
  (repeat' split) <;> exact pack_length ..

theorem take_padded {ws : List Word} (h : ws.length = n) : (ws ++ List.replicate n 0).take n = ws := by
  rw [← h, List.take_left]

/-- An element that is NaN makes the brick NaN (R92). -/
theorem quantise_nan {q : QFmt} {a : Nat} {ws : List Word} (hl : ws.length = q.count)
    (h : ∃ x ∈ ws, f32val x = .nan) : quantise q a ws = q.pack 255 [] := by
  obtain ⟨x, hx, hn⟩ := h
  unfold quantise
  rw [take_padded hl]
  exact if_pos (List.any_eq_true.mpr ⟨x, hx, by rw [hn]; rfl⟩)

/-- A word of zero magnitude. -/
structure ZeroWord (x : Word) : Prop where
  exponent : expField x = 0
  nan : (f32val x).isNan = false
  units : f32units x = 0

theorem zeroWord_of_magnitude {x : Word} (h : x.toNat % 2 ^ 31 = 0) : ZeroWord x := by
  have exponent : x.toNat / 2 ^ 23 % 256 = 0 := by omega
  have fraction : x.toNat % 2 ^ 23 = 0 := by omega
  have value : ∃ b, f32val x = .fin b 0 Fmt.f32.qmin := by
    have e : x.toNat / 2 ^ Fmt.f32.fb % 2 ^ Fmt.f32.eb = 0 := exponent
    have f : x.toNat % 2 ^ Fmt.f32.fb = 0 := fraction
    unfold f32val Fmt.value
    simp only [e, f]
    exact ⟨_, rfl⟩
  obtain ⟨b, hb⟩ := value
  refine ⟨exponent, by rw [hb]; rfl, ?_⟩
  unfold f32units
  rw [hb]
  cases b <;> decide

/-- Elements that are all zero make the brick zero (R92). -/
theorem quantise_zero {q : QFmt} {a : Nat} {ws : List Word} (hl : ws.length = q.count)
    (h : ∀ x ∈ ws, ZeroWord x) : quantise q a ws = q.pack 0 [] := by
  unfold quantise
  dsimp only
  rw [take_padded hl]
  have clip : ws.map (fun w => if a = 0 ∧ expField w = 255 then
      BitVec.ofNat 32 (w.toNat / 2 ^ 31 * 2 ^ 31 + 0x7F7FFFFF) else w) = ws := by
    rw [List.map_congr_left fun x hx => if_neg (by simp [(h x hx).exponent])]
    exact List.map_id ws
  have nan : ws.any (fun w => (f32val w).isNan) = false :=
    List.any_eq_false.mpr fun x hx => by simp [(h x hx).nan]
  have finite : ws.any (fun w => expField w == 255) = false :=
    List.any_eq_false.mpr fun x hx => by simp [(h x hx).exponent]
  have zero : (ws.map f32units).all (fun x => x == 0) = true :=
    List.all_eq_true.mpr fun y hy => by
      obtain ⟨x, hx, rfl⟩ := List.mem_map.mp hy
      simp [(h x hx).units]
  rw [nan, clip, finite, zero]
  rfl

/-- The elements of a brick in the formats of R93, after the two bytes of its header. -/
def floatElements (ovt : BitVec 16) (f : Fmt) (ws : List Word) : List Byte :=
  (ws.map fun x => natLe 2 (narrowBits ovt .f32 f .rn x.toNat)).flatten

theorem floatElements_length (ovt : BitVec 16) (f : Fmt) (ws : List Word) :
    (floatElements ovt f ws).length = 2 * ws.length := by
  induction ws with
  | nil => rfl
  | cons x ws ih =>
    rw [floatElements, List.map_cons, List.flatten_cons, List.length_append, natLe_length, ← floatElements, ih,
      List.length_cons]
    omega

theorem floatElements_take {ovt : BitVec 16} {f : Fmt} (ws : List Word) (h : n < ws.length) :
    ((floatElements ovt f ws).drop (2 * n)).take 2 = natLe 2 (narrowBits ovt .f32 f .rn (ws.getD n 0).toNat) := by
  induction ws generalizing n with
  | nil => cases h
  | cons x ws ih =>
    rw [floatElements, List.map_cons, List.flatten_cons, ← floatElements]
    cases n with
    | zero => rfl
    | succ n =>
      rw [show 2 * (n + 1) = (natLe 2 (narrowBits ovt .f32 f .rn x.toNat)).length + 2 * n by rw [natLe_length]; omega,
        List.drop_length_add_append, ih (by simpa using h)]
      rfl

theorem leNat_natLe_mod (n v : Nat) : leNat (natLe n v) = v % 256 ^ n := by
  induction n generalizing v with
  | zero => rw [pow_zero, Nat.mod_one]; rfl
  | succ n ih =>
    have byte : v % 256 % 2 ^ 8 = v % 256 := Nat.mod_mod ..
    rw [natLe, leNat, ih, BitVec.toNat_ofNat, byte, pow_succ' 256, Nat.mod_mul]

/-- A brick of 31 elements of 16 bits: its KIND, its E and its elements (R86, R93). -/
theorem floatBrick_fields {ovt : BitVec 16} {f : Fmt} {kind : Nat} {ws : List Word} (hk : kind < 8)
    (hl : ws.length = 31) : let b := floatBrick ovt kind f ws
    b.length = 64 ∧ brickKind b = kind ∧ brickE b = 127 ∧ ∀ n, n < 31 → BitVec.ofNat 16 (fieldOf b (2 + 2 * n) 2) =
      BitVec.ofNat 16 (narrowBits ovt .f32 f .rn (ws.getD n 0).toNat) := by
  intro b
  have parts : b = BitVec.ofNat 8 (kind * 32 % 256) :: 127 :: floatElements ovt f ws := by
    show floatBrick ovt kind f ws = _
    unfold floatBrick
    rw [take_padded hl]
    rfl
  refine ⟨?_, ?_, ?_, fun n hn => ?_⟩
  · rw [parts, List.length_cons, List.length_cons, floatElements_length, hl]
  · rw [parts]
    show (BitVec.ofNat 8 (kind * 32 % 256)).toNat / 32 = kind
    rw [BitVec.toNat_ofNat]
    omega
  · rw [parts]
    rfl
  · rw [parts, fieldOf, Nat.add_comm 2, List.drop_succ_cons, List.drop_succ_cons, floatElements_take ws (hl ▸ hn),
      leNat_natLe_mod]
    apply BitVec.eq_of_toNat_eq
    rw [BitVec.toNat_ofNat, BitVec.toNat_ofNat]
    exact Nat.mod_mod _ _

/-- The bricks of one scale: a NaN makes the brick NaN, and elements that are all zero make it zero (R92). -/
theorem quantise_marks {q : QFmt} {a : Nat} {ws : List Word} (hq : 32 * q.kind + 4 * q.mw < 256)
    (hl : ws.length = q.count) :
    (quantise q a ws).length = 64 ∧
    ((∃ x ∈ ws, f32val x = .nan) → quantise q a ws =
      BitVec.ofNat 8 (32 * q.kind + 4 * q.mw) :: BitVec.ofNat 8 255 :: List.replicate 62 0) ∧
    ((∀ x ∈ ws, x.toNat % 2 ^ 31 = 0) → quantise q a ws =
      BitVec.ofNat 8 (32 * q.kind + 4 * q.mw) :: BitVec.ofNat 8 0 :: List.replicate 62 0) :=
  ⟨quantise_length .., fun h => (quantise_nan hl h).trans (pack_nil hq (by decide)),
    fun h => (quantise_zero hl fun x hx => zeroWord_of_magnitude (h x hx)).trans (pack_nil hq (by decide))⟩

theorem brickOf_length (ovt : BitVec 16) {k : BrickTy} {ws : List Word} (h : ws.length = k.count) :
    (brickOf ovt k ws).length = 64 := by
  cases k with
  | bfp m => exact quantise_length ..
  | int8 => exact quantise_length ..
  | f16 => exact (floatBrick_fields (by decide) h).1
  | bf16 => exact (floatBrick_fields (by decide) h).1

/-- The elements that STBRK reads. -/
theorem brickInputs_eq (s : State) (g : Machine.Group) (e : Mask) (n a : Nat) : brickInputs s g e n a =
    (List.range n).map fun n => if mHas e (n % g.width) ∧ (g.lane (n % g.width)).helper = false then
      readV s g (n % g.width) (a + n / g.width) else 0 :=
  List.map_congr_left fun k _ => by simp

/-- Settles O30: a store's bytes are those of its words (`storeBytes_stored`), which the access puts at its address
(`storeGlobal_puts`), and a brick follows its format (`quantise_marks`, `floatBrick_fields`). -/
theorem storesPut : Obligations.StoresPut := by
  refine ⟨fun z w q d b o m => ?_, fun z w q d b o m => ?_, ?_, ?_, ?_, ?_, ?_, ?_, ?_, ?_, ?_⟩
  · exact ⟨performs_of_issueLanes fun _ => rfl, performs_of_issueLanes fun _ => rfl,
      performs_of_issueLanes fun _ => rfl, performs_of_issueLanes fun _ => rfl,
      performs_of_issueLanes fun _ => rfl, performs_of_issueLanes fun _ => rfl⟩
  · exact ⟨performsOnce_of_issueGroupOp fun _ => rfl, performsOnce_of_issueGroupOp fun _ => rfl⟩
  · intro k a m s g c x hi hn hb hx
    refine (issues_next hi).trans (congrArg _ ?_)
    rw [if_neg (Nat.not_lt.mpr hn), runGroupOp_performed hb hx]
    rfl
  · intro k a m s g c hi hn
    exact (issues_next hi).trans (congrArg _ (if_pos hn))
  · intro s g h
    rw [State.ovtOf, h]
    rfl
  · intro z w d m s g l leaf hz ha hr
    have stored := storeBytes_stored (ovt := s.ovtOf g) (fun k => readV s g l (d.val + k)) hz
    refine ⟨_, stored, ?_⟩
    unfold storeOp
    simp only [readVs, storeGlobal_puts stored.size ha hr]
  · intro z w d m s g e leaf hz he ha hr
    have stored := storeBytes_stored (ovt := s.ovtOf g) (fun k => readS s g (d.val + k)) hz
    refine ⟨_, stored, ?_⟩
    unfold scalarStoreOp
    simp only [he, readSs, scalarAddr, storeGlobal_puts stored.size ha hr]
    rfl
  · intro cluster z w d m s g l u off hz hl
    exact ⟨fun ho => ⟨_, storeBytes_stored _ hz, locate_own hl ho⟩, fun hr hu => locate_other hl hr hu⟩
  · intro k a m s g e leaf he ha hr inputs
    have length : (brickOf (s.ovtOf g) k inputs).length = 64 :=
      brickOf_length _ (by rw [List.length_map, List.length_range])
    unfold brickStoreOp
    simp only [he, scalarAddr, brickInputs_eq]
    rw [storeGlobal_puts length ha hr]
    rfl
  · intro ovt k ws hl b whole mark
    refine ⟨brickOf_length ovt hl, ?_⟩
    cases k with
    | bfp m =>
      have marks := quantise_marks (q := .bfp (m.val + 2)) (a := ovt.toNat / 64 % 4) (by simp [QFmt.bfp]; omega) hl
      exact ⟨marks.2.1, marks.2.2, nofun, nofun⟩
    | int8 =>
      have marks := quantise_marks (q := .int8) (a := ovt.toNat / 64 % 4) (by decide) hl
      exact ⟨marks.2.1, marks.2.2, nofun, nofun⟩
    | f16 => exact ⟨fun _ => trivial, fun _ => trivial, fun _ => (floatBrick_fields (by decide) hl).2, nofun⟩
    | bf16 => exact ⟨fun _ => trivial, fun _ => trivial, nofun, fun _ => (floatBrick_fields (by decide) hl).2⟩
  · intro o s g l hk hh
    rw [LaneOp.at, if_pos hh, hk]

end Sys2Proof.Proofs
end

section
/-! Generators (02 R38 to R43, 10 R274 to R276): opening, yields, passes and their mode traps, for O40. -/

namespace Sys2Proof.Proofs

open Sys2Proof.Machine Sys2Proof.Laws Sys2Proof.Claims

variable {s t : State} {g y : Machine.Group} {c : Clause} {i : Instr} {x : Generator} {l n : Nat}

/-! ### GOPEN -/

section
variable {p : SReg} {thr : Fin 65} {o : Word}

/-- The threshold that GOPEN asks for: 0 is the width (R38). -/
def threshold (g : Machine.Group) (thr : Fin 65) : Nat := if thr.val = 0 then g.width else thr.val

/-- The arguments of GOPEN that the spec refuses (R144, R275). -/
def genargs (s : State) (g : Machine.Group) (p : SReg) (thr : Fin 65) (n : Nat) : Prop :=
  (readS s g (p.val + 1)).toNat < 1 ∨ 4096 < (readS s g (p.val + 1)).toNat ∨
    (readS s g (p.val + 1)).toNat < threshold g thr ∨ g.width < threshold g thr ∨
    (readS s g p.val).toNat % 16 ≠ 0 ∨
    ((s.blockOf g).map (·.spadSize)).getD 0 < (readS s g p.val).toNat + 4 * n * (readS s g (p.val + 1)).toNat ∨
    ((lanesOf g.live).any fun l => decide (g.budget < (g.lane l).vbase + 256)) = true

theorem gopen_nests (hi : Issues i s g c) (hg : g.gen ≠ none) : gopen i p thr o n s = .next (s.trap g c i .gennest) :=
  (issues_next hi).trans (congrArg _ (if_pos (Option.isSome_iff_ne_none.mpr hg)))

theorem gopen_refuses (hi : Issues i s g c) (hg : g.gen = none) (ha : genargs s g p thr n) :
    gopen i p thr o n s = .next (s.trap g c i .genarg) := by
  refine (issues_next hi).trans (congrArg _ ?_)
  rw [if_neg (by simp [hg])]
  exact if_pos ha

/-- The group that has opened its generator. -/
def opened (s : State) (g : Machine.Group) (p : SReg) (thr : Fin 65) (label : DWord) (n : Nat) : Machine.Group :=
  { g.modLanes g.live fun _ x => { x with gdone := false, consBase := x.vbase + 128, prodBase := x.vbase } with
    gen := some { offset := (readS s g p.val).toNat, cap := (readS s g (p.val + 1)).toNat, words := n
                  thr := threshold g thr, label := label, mode := .producer, entries := [], head := 0
                  batchN := 0, taken := false, batch := [] } }

theorem gopen_opens (hi : Issues i s g c) (hg : g.gen = none) (ha : ¬ genargs s g p thr n)
    (ht : s.badTarget { s.who g with replay := none } (c.target o) none = none) :
    gopen i p thr o n s = .next (s.setGroup (opened s g p thr (c.target o) n)) := by
  refine (issues_next hi).trans (congrArg _ ?_)
  rw [if_neg (by simp [hg])]
  refine (if_neg ha).trans ?_
  rw [ht]
  rfl

theorem mem_live_lt (h : l ∈ lanesOf g.live) : l < g.lanes.length :=
  (mHas_maskWhere_iff.mp (mem_lanesOf.mp h).2).2.1

theorem opened_lane {label : DWord} (h : l ∈ lanesOf g.live) :
    ((opened s g p thr label n).lane l).consBase = (g.lane l).vbase + 128 ∧
      ((opened s g p thr label n).lane l).gdone = false := by
  have lane : (opened s g p thr label n).lane l =
      { g.lane l with gdone := false, consBase := (g.lane l).vbase + 128, prodBase := (g.lane l).vbase } :=
    (lane_modLanes (mem_live_lt h)).trans (if_pos (mem_lanesOf.mp h).2)
  rw [lane]
  exact ⟨rfl, rfl⟩

end

theorem generatorOpens : GeneratorOpens := by
  intro p thr o opens
  have all (i : Instr) (n : Nat) (he : ∀ s, exec i s = gopen i p thr o n s) : opens i n := by
    intro s g c hi off cap thr'
    refine ⟨fun hg => (he s).trans (gopen_nests hi hg), fun hg ha => (he s).trans (gopen_refuses hi hg ?_),
      fun hg h1 h2 h3 h4 h5 h6 h7 ht => ⟨_, (he s).trans (gopen_opens hi hg ?_ ht), setGroup_onlyGroup .., _,
        group?_setGroup_same (x := g) (issues_group hi), ⟨_, rfl, rfl, rfl, rfl, rfl, rfl, rfl, rfl⟩,
        fun l hl => opened_lane hl⟩⟩
    · rcases ha with h | h | h | h | h | ⟨b, hb, h⟩ | ⟨l, hl, h⟩
      · exact .inl (by omega)
      · exact .inr (.inl h)
      · exact .inr (.inr (.inl h))
      · exact .inr (.inr (.inr (.inl h)))
      · exact .inr (.inr (.inr (.inr (.inl h))))
      · exact .inr (.inr (.inr (.inr (.inr (.inl (by rw [hb]; exact h))))))
      · exact .inr (.inr (.inr (.inr (.inr (.inr (List.any_eq_true.mpr ⟨l, hl, by simpa using h⟩))))))
    · obtain ⟨b, hb, room⟩ := h6
      rintro (h | h | h | h | h | h | h)
      · exact absurd h (by omega)
      · exact absurd h (by omega)
      · exact absurd h (Nat.not_lt.mpr h3)
      · exact absurd h (Nat.not_lt.mpr h4)
      · exact h h5
      · rw [hb] at h
        exact absurd h (Nat.not_lt.mpr room)
      · obtain ⟨l, hl, h⟩ := List.any_eq_true.mp h
        exact absurd (of_decide_eq_true h) (Nat.not_lt.mpr (h7 l hl))
  exact ⟨all _ 1 fun _ => rfl, all _ 2 fun _ => rfl, all _ 3 fun _ => rfl, all _ 4 fun _ => rfl⟩

/-! ### GYIELD -/

/-- Lanes yield in order. -/
def yields (g : Machine.Group) (ws : Nat → List Word) (ls : List Nat) : Machine.Group :=
  ls.foldl (fun g l => g.yieldLane l (ws l)) g

theorem yieldLane_appends {w : List Word} (hg : g.gen = some x) (hs : x.entries.length < x.cap) :
    g.yieldLane l w = { g with gen := some { x with entries := x.entries ++ [w] } } := by
  rw [Group.yieldLane, hg]
  exact if_pos hs

theorem yieldLane_waits {w : List Word} (hg : g.gen = some x) (hs : x.cap ≤ x.entries.length) :
    g.yieldLane l w = g.modLane l fun y => { y with st := .pendingYield w } := by
  rw [Group.yieldLane, hg]
  exact if_neg (Nat.not_lt.mpr hs)

/-- What lanes that yield in order leave: the entries as far as there is space, and the lanes after it waiting. -/
structure Yielded (g : Machine.Group) (x : Generator) (ws : Nat → List Word) (ls : List Nat) (y : Machine.Group) :
    Prop where
  uid : y.uid = g.uid
  gen : y.gen = some { x with entries := (x.entries ++ ls.map ws).take x.cap }
  lane : ∀ k, y.lane k = if k ∈ ls.drop (x.cap - x.entries.length) then { g.lane k with st := .pendingYield (ws k) }
    else g.lane k

theorem yields_yielded {ws : Nat → List Word} (ls : List Nat) (hg : g.gen = some x) (hs : x.entries.length ≤ x.cap)
    (hl : ∀ l ∈ ls, l < g.lanes.length) : Yielded g x ws ls (yields g ws ls) := by
  induction ls generalizing g x with
  | nil =>
    refine ⟨rfl, ?_, fun k => ?_⟩
    · rw [List.map_nil, List.append_nil, List.take_of_length_le hs]
      exact hg
    · rw [List.drop_nil, if_neg List.not_mem_nil]
      rfl
  | cons l ls ih =>
    rw [yields, List.foldl_cons, ← yields]
    by_cases room : x.entries.length < x.cap
    · rw [yieldLane_appends hg room]
      have rest := ih (g := { g with gen := some { x with entries := x.entries ++ [ws l] } })
        (x := { x with entries := x.entries ++ [ws l] }) rfl (by rw [List.length_append]; exact room)
        fun k hk => hl k (List.mem_cons_of_mem _ hk)
      refine ⟨rest.uid, ?_, fun k => ?_⟩
      · rw [rest.gen, List.append_assoc]
        rfl
      · rw [rest.lane, List.length_append, show x.cap - x.entries.length =
          x.cap - (x.entries.length + [ws l].length) + 1 by rw [List.length_singleton]; omega, List.drop_succ_cons]
        rfl
    · have full : x.entries.length = x.cap := by omega
      have mine := hl l List.mem_cons_self
      rw [yieldLane_waits hg full.ge]
      have rest := ih (g := g.modLane l fun y => { y with st := .pendingYield (ws l) }) (x := x) hg hs
        fun k hk => length_modLane.symm ▸ hl k (List.mem_cons_of_mem _ hk)
      refine ⟨rest.uid, ?_, fun k => ?_⟩
      · rw [rest.gen, List.take_append_of_le_length full.ge, List.take_append_of_le_length full.ge]
      · rw [rest.lane, full, Nat.sub_self, List.drop_zero, List.drop_zero]
        by_cases hk : k = l
        · subst hk
          rw [lane_modLane_same mine, if_pos List.mem_cons_self]
          split <;> rfl
        · rw [lane_modLane_ne hk]
          simp only [List.mem_cons, hk, false_or]

theorem lanesOf_nodup (m : Mask) : (lanesOf m).Nodup := List.Nodup.filter _ List.nodup_range

theorem lane_transfer {m : Mask} {pc : Nat → DWord} (hl : l < g.lanes.length) :
    (g.transfer m pc).lane l = if mHas m l then { g.lane l with pc := pc l } else g.lane l := lane_modLanes hl

theorem gyield_helpers {a : VReg} (hi : Issues (.gyield a) s g c) (hh : g.allHelpers c.exec = true) :
    exec (.gyield a) s = .next (s.setGroup (g.transfer c.exec fun _ => c.nextAt)) :=
  (issues_next hi).trans (congrArg _ (if_pos hh))

/-- GYIELD in producer mode is its lanes' yields after their transfer. -/
theorem gyield_yields {a : VReg} (hi : Issues (.gyield a) s g c) (hg : g.gen = some x) (hm : x.mode = .producer)
    (ha : a.val + x.words ≤ 120) :
    exec (.gyield a) s = .next (s.setGroup (yields (g.transfer c.exec fun _ => c.nextAt)
      (fun l => (List.range x.words).map fun k => readV s g l (a.val + k)) (lanesOf (g.noHelpers c.exec)))) := by
  by_cases hh : g.allHelpers c.exec = true
  · have none : lanesOf (g.noHelpers c.exec) = [] := of_decide_eq_true hh ▸ lanesOf_zero
    rw [gyield_helpers hi hh, none]
    rfl
  · refine (issues_next hi).trans (congrArg _ ?_)
    rw [if_neg hh, hg]
    refine (if_neg (not_not.mpr hm)).trans ?_
    rw [if_neg (Nat.not_lt.mpr ha)]
    rfl

theorem noHelpers_subset {m : Mask} (h : l ∈ lanesOf (g.noHelpers m)) : l ∈ lanesOf m := by
  obtain ⟨h64, hm⟩ := mem_lanesOf.mp h
  rw [Group.noHelpers, mHas_diff] at hm
  exact mem_lanesOf.mpr ⟨h64, by simpa using (Bool.and_eq_true_iff.mp hm).1⟩

theorem gyield_leaves {a : VReg} (hi : Issues (.gyield a) s g c) (hg : g.gen = some x) (hm : x.mode = .producer)
    (ha : a.val + x.words ≤ 120) (hs : x.entries.length ≤ x.cap) (hl : ∀ l ∈ lanesOf c.exec, l < g.lanes.length) :
    let ls := lanesOf (g.noHelpers c.exec)
    let ws (l : Nat) : List Word := (List.range x.words).map fun k => readV s g l (a.val + k)
    Answers (exec (.gyield a) s) fun t => OnlyGroup s t g.uid ∧ After t g.uid fun g' =>
      g'.gen = some { x with entries := (x.entries ++ ls.map ws).take x.cap } ∧
      (∀ l ∈ ls.drop (x.cap - x.entries.length), (g'.lane l).st = .pendingYield (ws l)) ∧
      (∀ l ∈ ls.take (x.cap - x.entries.length), (g'.lane l).st = (g.lane l).st) ∧
      ∀ l ∈ lanesOf c.exec, (g'.lane l).pc = c.nextAt := by
  intro ls ws
  have inside (l : Nat) (h : l ∈ ls) : l < g.lanes.length := hl l (noHelpers_subset h)
  have sent : (g.transfer c.exec fun _ => c.nextAt).lanes.length = g.lanes.length := by
    rw [Group.transfer]; exact length_modLanes
  obtain ⟨uid, gen, lane⟩ := yields_yielded (g := g.transfer c.exec fun _ => c.nextAt) (x := x) (ws := ws) ls hg hs
    fun l h => sent.symm ▸ inside l h
  have at_ (l : Nat) (h : l ∈ lanesOf c.exec) :
      (g.transfer c.exec fun _ => c.nextAt).lane l = { g.lane l with pc := c.nextAt } :=
    (lane_transfer (hl l h)).trans (if_pos (mem_lanesOf.mp h).2)
  have own : (yields (g.transfer c.exec fun _ => c.nextAt) ws ls).uid = g.uid := uid
  refine ⟨_, gyield_yields hi hg hm ha, own ▸ setGroup_onlyGroup .., _,
    own ▸ group?_setGroup_same (x := g) (own.symm ▸ issues_group hi), gen, fun l h => ?_, fun l h => ?_, fun l h => ?_⟩
  · rw [lane, if_pos h]
  · have apart : l ∉ ls.drop (x.cap - x.entries.length) :=
      fun k => List.disjoint_take_drop (lanesOf_nodup _) le_rfl h k
    rw [lane, if_neg apart, at_ l (noHelpers_subset (List.mem_of_mem_take h))]
  · rw [lane]
    split <;> rw [at_ l h]

/-! ### Passes and the end -/

theorem takeBatch_batch (x : Generator) :
    x.takeBatch.batch = if x.taken then x.batch else x.entries.take x.batchN := by
  unfold Generator.takeBatch
  split <;> rfl

/-- Lanes get their entries of a batch. -/
def giveEntries (g : Machine.Group) (d : VReg) (batch : List (List Word)) (ls : List Nat) : Machine.Group :=
  ls.foldl (fun g' l => match (g.lane l).entry with
    | some j => g'.writeVs l d.val (batch.getD j [])
    | none => g') g

theorem gtake_takes {d : VReg} (hi : Issues (.gtake d) s g c) (hg : g.gen = some x) (hm : x.mode = .consumer)
    (hd : d.val + x.words ≤ 120) (hr : g.replay = false) :
    exec (.gtake d) s = .next (s.setGroup
      { giveEntries g d x.takeBatch.batch (lanesOf c.exec) with gen := some x.takeBatch }) := by
  refine (issues_next hi).trans (congrArg _ ?_)
  rw [hg]
  refine (if_neg (not_not.mpr hm)).trans ?_
  rw [if_neg (Nat.not_lt.mpr hd), if_neg (by simp [hr])]
  rfl

theorem gclose_ends (hi : Issues .gclose s g c) (hg : g.gen = some x) (hm : x.mode = .producer) (he : x.entries = []) :
    Answers (exec .gclose s) fun t => OnlyGroup s t g.uid ∧ After t g.uid fun g' => g'.gen = none ∧
      ∀ y ∈ g'.lanes, y.gdone = false ∧ y.st ≠ .gdone := by
  have closes : exec .gclose s = .next (s.setGroup
      { g.releaseDone with gen := none, lanes := g.releaseDone.lanes.map fun y => { y with gdone := false } }) := by
    refine (issues_next hi).trans (congrArg _ ?_)
    rw [hg]
    exact if_pos ⟨hm, he⟩
  refine ⟨_, closes, setGroup_onlyGroup .., _, group?_setGroup_same (x := g) (issues_group hi), rfl, fun y hy => ?_⟩
  obtain ⟨z, hz, rfl⟩ := List.mem_map.mp hy
  obtain ⟨v, -, rfl⟩ := List.mem_map.mp hz
  refine ⟨rfl, ?_⟩
  dsimp only
  split
  · exact LaneState.noConfusion
  · assumption

/-! ### The pass that a yield makes due -/

theorem findIdx_of_nodup {ls : List Nat} (h : ls.Nodup) {j : Nat} (hj : ls[j]? = some l) :
    ls.findIdx (fun k => k == l) = j := by
  obtain ⟨short, rfl⟩ := List.getElem?_eq_some_iff.mp hj
  exact h.idxOf_getElem j short

theorem settleGen_starts (hg : g.gen = some x) (hm : x.mode = .producer) (ht : x.thr ≤ x.entries.length) :
    g.settleGen = g.beginPass x true := by
  have due : g.passDue x = true := by simp [Group.passDue, ht]
  rw [Group.settleGen, hg]
  simp only [hm, Group.producerTurn, due, if_true]

theorem beginPass_lane {j : Nat} (hj : (lanesOf g.live)[j]? = some l) : (g.beginPass x true).lane l =
    { g.lane l with
      pc := x.label, vbase := (g.lane l).consBase, prodPc := (g.lane l).pc, prodSt := (g.lane l).st
      prodBase := (g.lane l).vbase
      st := if j < x.entries.length then .runnable else .passDone
      entry := if j < x.entries.length then some j else none } := by
  have mem := List.mem_of_getElem? hj
  have place := findIdx_of_nodup (lanesOf_nodup g.live) hj
  have short : j < (lanesOf g.live).length := (List.getElem?_eq_some_iff.mp hj).1
  refine ((lane_modLanes (mem_live_lt mem)).trans (if_pos (mem_lanesOf.mp mem).2)).trans ?_
  simp only [place, if_true]
  by_cases h : j < x.entries.length
  · simp [h, short]
  · simp [h]

/-! ### GENMODE -/

theorem gyield_traps {a : VReg} (hi : Issues (.gyield a) s g c) (hh : g.allHelpers c.exec = false)
    (hx : ∀ x, g.gen = some x → x.mode = .consumer) :
    exec (.gyield a) s = .next (s.trap g c (.gyield a) .genmode) := by
  refine (issues_next hi).trans (congrArg _ ?_)
  rw [if_neg (by simp [hh])]
  cases hg : g.gen with
  | none => rfl
  | some x => exact if_pos (by rw [hx x hg]; decide)

theorem gtake_traps {d : VReg} (hi : Issues (.gtake d) s g c) (hx : ∀ x, g.gen = some x → x.mode = .producer) :
    exec (.gtake d) s = .next (s.trap g c (.gtake d) .genmode) := by
  refine (issues_next hi).trans (congrArg _ ?_)
  cases hg : g.gen with
  | none => rfl
  | some x => exact if_pos (by rw [hx x hg]; decide)

theorem gback_traps (hi : Issues .gback s g c) (hx : ∀ x, g.gen = some x → x.mode = .producer) :
    exec .gback s = .next (s.trap g c .gback .genmode) := by
  refine (issues_next hi).trans (congrArg _ ?_)
  cases hg : g.gen with
  | none => rfl
  | some x => exact if_neg (by rw [hx x hg]; decide)

theorem gdone_traps (hi : Issues .gdone s g c) (hx : ∀ x, g.gen = some x → x.mode = .consumer) :
    exec .gdone s = .next (s.trap g c .gdone .genmode) := by
  refine (issues_next hi).trans (congrArg _ ?_)
  cases hg : g.gen with
  | none => rfl
  | some x => exact if_neg (by rw [hx x hg]; decide)

theorem gclose_traps (hi : Issues .gclose s g c)
    (hx : ∀ x, g.gen = some x → x.mode = .consumer ∨ x.entries ≠ []) :
    exec .gclose s = .next (s.trap g c .gclose .genmode) := by
  refine (issues_next hi).trans (congrArg _ ?_)
  cases hg : g.gen with
  | none => rfl
  | some x =>
    refine if_neg ?_
    rintro ⟨hm, he⟩
    exact (hx x hg).elim (fun h => by simp [h] at hm) fun h => h he

theorem generatorPasses : GeneratorPasses := by
  refine ⟨fun a s g c x hi hg hm ha hs hl => gyield_leaves hi hg hm ha hs hl, ?_, ?_, ?_,
    fun s g c x hi hg hm he => gclose_ends hi hg hm he,
    fun a d s g c => ⟨gyield_traps, gyield_helpers, gtake_traps, gback_traps, gdone_traps, gclose_traps⟩, ?_⟩
  · intro d s g c x hi hg hm hd hr
    rw [gtake_takes hi hg hm hd hr, takeBatch_batch]
    rfl
  · intro s g c x hi hg hm
    refine (issues_next hi).trans (congrArg _ ?_)
    rw [hg]
    exact if_pos hm
  · intro s g c x hi hg hm
    refine (issues_next hi).trans (congrArg _ ?_)
    rw [hg]
    exact if_pos hm
  · intro g x hg hm ht h0 live
    rw [settleGen_starts hg hm ht]
    refine ⟨⟨_, rfl, rfl, rfl, rfl⟩, fun j l hj => ?_⟩
    rw [beginPass_lane hj]
    exact ⟨rfl, rfl, rfl, fun h => ⟨if_pos h, if_pos h⟩, fun h => if_neg (Nat.not_lt.mpr h)⟩

/-- Settles O40: lanes yield in order while there is space (`yields_yielded`), and a due pass gives the first lanes
the batch (`beginPass_lane`). -/
theorem generators : Obligations.Generators := ⟨generatorOpens, generatorPasses⟩

end Sys2Proof.Proofs
end

section
/-! REPACK (02 R44 to R46, 10 R277, 16 R337, R338): parking by key, the stable sort and the filling, for O41. -/

namespace Sys2Proof.Proofs

open Sys2Proof.Machine Sys2Proof.Laws Sys2Proof.Claims

variable {s t : State} {g : Machine.Group} {ps : List Machine.Group} {c : Clause} {r : Record} {k b n l : Nat}
  {site : DWord}

/-! ### Parking -/

theorem condition_frame (s : State) (g : Machine.Group) (n : Nat) :
    ∃ rs, s.condition g n = { s with replays := rs } := by
  unfold State.condition
  split <;> exact ⟨_, rfl⟩

theorem repack_parks {v : VReg} (hi : Issues (.repack v) s g c) (hg : g.gen = none) :
    exec (.repack v) s = .next ((if g.replay then s.condition g 6 else s).setGroup
      ((g.transfer c.exec fun _ => c.nextAt).modLanes c.exec fun l x =>
        { x with st := .repack ((readV s g l v.val).toNat % 65536) c.word c.header })) := by
  refine (issues_next hi).trans (congrArg _ ?_)
  rw [if_neg (by simp [hg])]
  cases g.replay with
  | false => rfl
  | true =>
    obtain ⟨rs, h⟩ := condition_frame s g 6
    simp only [h, if_true]
    rfl

theorem repack_traps {v : VReg} (hi : Issues (.repack v) s g c) (hg : g.gen ≠ none) :
    exec (.repack v) s = .next (s.trap g c (.repack v) .repackgen) :=
  (issues_next hi).trans (congrArg _ (if_pos (Option.isSome_iff_ne_none.mpr hg)))

/-! ### Completion -/

/-- The participants of a REPACK: the groups of a block on a core, in ascending GID. -/
abbrev participants (s : State) (b : Nat) (c : Fin 32) : List Machine.Group :=
  byGid (s.groups.filter fun g => g.block == b && g.core == c.val)

/-- The words at which lanes of groups wait. -/
abbrev repackSites (ps : List Machine.Group) : List DWord :=
  ps.flatMap fun g => g.lanes.filterMap fun x => x.repackAt.map (·.1)

theorem repackAt_live {x : Lane} {a : DWord} (h : x.repackAt.map (·.1) = some a) : x.live = true := by
  refine decide_eq_true fun exited => ?_
  rw [Lane.repackAt, exited] at h
  cases h

theorem joinedRepack_lane (h : g.joinedRepack site = true) (hl : l ∈ lanesOf g.live) :
    (g.lane l).repackAt.map (·.1) = some site := by
  obtain ⟨-, all⟩ := Bool.and_eq_true_iff.mp h
  exact eq_of_beq (List.all_eq_true.mp all l hl)

theorem joinedRepack_live (h : g.joinedRepack site = true) : g.live ≠ 0 := by
  obtain ⟨some, -⟩ := Bool.and_eq_true_iff.mp h
  exact of_decide_eq_true (Bool.and_eq_true_iff.mp some).1

/-- Of a group that has joined the REPACK at a word, the first lane that waits at a REPACK waits there: a lane that
waits is live, so that one in a mask's 64 lanes has joined, and there is one. -/
theorem joinedRepack_sites (h : g.joinedRepack site = true) :
    (g.lanes.filterMap fun x => x.repackAt.map (·.1)).head? = some site := by
  have lowest := maskLowest_mem (joinedRepack_live h)
  have waits := joinedRepack_lane h lowest
  have inside := mem_live_lt lowest
  rw [List.head?_filterMap]
  cases found : g.lanes.findSome? fun x => x.repackAt.map (·.1) with
  | none =>
    have := List.findSome?_eq_none_iff.mp found _ (lane_mem inside)
    rw [waits] at this
    cases this
  | some a =>
    obtain ⟨before, x, after, lanes, hx, earlier⟩ := List.findSome?_eq_some_iff.mp found
    have first : g.lane before.length = x := by simp [Machine.Group.lane, lanes]
    have place : before.length < 64 := by
      by_contra far
      have low : maskLowest g.live < before.length := by have := (mem_lanesOf.mp lowest).1; omega
      have mem : g.lane (maskLowest g.live) ∈ before := by
        simp [Machine.Group.lane, lanes, List.getElem?_append_left low, List.getElem?_eq_getElem low]
      rw [earlier _ mem] at waits
      cases waits
    have joined : before.length ∈ lanesOf g.live := mem_lanesOf.mpr ⟨place,
      mHas_maskWhere_iff.mpr ⟨place, by simp [lanes], first ▸ repackAt_live hx⟩⟩
    rw [← hx, ← first, joinedRepack_lane h joined]

/-- Where every participant has joined the REPACK at a word, that word is the first found. -/
theorem repackSites_head (hp : ps ≠ []) (h : ∀ g ∈ ps, g.joinedRepack site = true) :
    (repackSites ps).head? = some site := by
  obtain ⟨g, gs, rfl⟩ := List.exists_cons_of_ne_nil hp
  rw [repackSites, List.flatMap_cons, List.head?_append, joinedRepack_sites (h g List.mem_cons_self)]
  rfl

theorem roles_agree (hp : ps ≠ []) (h : ∀ g ∈ ps, ∀ h ∈ ps, g.role = h.role) :
    (ps.map (·.role)).dedup.length = 1 := by
  obtain ⟨g, gs, rfl⟩ := List.exists_cons_of_ne_nil hp
  have same : (g :: gs).map (·.role) = List.replicate (g :: gs).length g.role :=
    List.eq_replicate_iff.mpr ⟨List.length_map .., fun r hr => by
      obtain ⟨y, hy, rfl⟩ := List.mem_map.mp hr
      exact h y hy g List.mem_cons_self⟩
  rw [same, List.replicate_dedup (by simp)]
  rfl

theorem roles_differ (h : ∃ g ∈ ps, ∃ h ∈ ps, g.role ≠ h.role) : (ps.map (·.role)).dedup.length ≠ 1 := by
  obtain ⟨g, hg, y, hy, hne⟩ := h
  intro one
  obtain ⟨r, hr⟩ := List.length_eq_one_iff.mp one
  have mine (z : Machine.Group) (hz : z ∈ ps) : z.role = r := by
    have mem := List.mem_dedup.mpr (List.mem_map_of_mem (f := (·.role)) hz)
    rwa [hr, List.mem_singleton] at mem
  exact hne ((mine g hg).trans (mine y hy).symm)

/-- The groups of a completed REPACK take their survivors, and those without any retire. -/
def fillGroups (s : State) (b : Nat) (ps : List Machine.Group) : State :=
  let placed := placeSurvivors ps (survivors ps) ps
  placed.foldl (fun s e => if e.2 ≠ [] then (s.setGroup e.1).followItem b e
    else (s.dropGroup e.1).finishBlock e.1.block) (s.moveLateOps placed)

section
variable {core : Fin 32}

theorem repackComplete_waiting (h : ∃ g ∈ participants s b core, g.roleTrap = true) :
    exec (.repackComplete b core) s = .next (s.trapRoles ((participants s b core).filter fun g => g.roleTrap)) :=
  if_pos (List.any_eq_true.mpr h)

variable (hr : ∀ g ∈ participants s b core, g.roleTrap = false)
include hr

theorem repackComplete_idle (h : ∀ site, ∃ g ∈ participants s b core, g.joinedRepack site = false) :
    exec (.repackComplete b core) s = .next s := by
  have quiet : ¬ ((participants s b core).any fun g => g.roleTrap) = true := by simpa using hr
  show execRepackComplete b core s = _
  unfold execRepackComplete
  dsimp only
  rw [if_neg quiet]
  split
  · rfl
  · next site _ =>
    obtain ⟨g, hg, hj⟩ := h site
    exact if_pos (List.all_eq_false.mpr ⟨g, hg, by simp [hj]⟩)

theorem repackComplete_joined (hp : participants s b core ≠ [])
    (hj : ∀ g ∈ participants s b core, g.joinedRepack site = true) :
    exec (.repackComplete b core) s = .next (if ((participants s b core).map (·.role)).dedup.length ≠ 1 then
      s.trapRoles (participants s b core) else fillGroups s b (participants s b core)) := by
  have quiet : ¬ ((participants s b core).any fun g => g.roleTrap) = true := by simpa using hr
  have joined : ¬ ((participants s b core).all fun g => g.joinedRepack site) = false := by
    simpa using hj
  show execRepackComplete b core s = _
  unfold execRepackComplete
  dsimp only
  rw [if_neg quiet, repackSites_head hp hj]
  dsimp only
  rw [if_neg joined]
  exact (apply_ite _ _ _ _).symm

end

/-! ### REPACKROLE -/

theorem fileRecord_full (hu : r.unit = false) (hb : 256 ≤ s.buffered r.cluster) : s.fileRecord r = none := by
  have enter : s.enterRecord r = none := by
    unfold State.enterRecord
    simp only [hu, Bool.false_eq_true, if_false]
    exact if_pos hb
  rw [State.fileRecord, enter]

theorem deliver_full {m : Mask} {pc skip : Nat → DWord} (hh : s.handlerOf g r.code = 0)
    (hf : s.fileRecord r = none) : s.deliver g r m pc skip = none := by
  rw [State.deliver, if_neg (not_not.mpr hh), hf]

theorem repackRole_full (hh : s.handlerOf g .repackrole = 0) (hb : 256 ≤ s.buffered (s.clusterOf g))
    (ha : (g.lane (maskLowest g.live)).repackAt.isSome = true) : s.repackRole g = none := by
  obtain ⟨⟨site, header⟩, place⟩ := Option.isSome_iff_exists.mp ha
  rw [State.repackRole, place]
  dsimp only
  rw [deliver_full hh (fileRecord_full rfl hb)]
  rfl

/-! ### The stable sort -/

/-- The order of survivors with the place each has before the sort: by key, and of one key by place. -/
def Before (a b : Survivor × Nat) : Prop := a.1.key < b.1.key ∨ (a.1.key = b.1.key ∧ a.2 < b.2)

/-- `insertSurvivor` on survivors with their places. -/
def insertPlaced (x : Survivor × Nat) : List (Survivor × Nat) → List (Survivor × Nat)
  | [] => [x]
  | y :: ys => if x.1.key < y.1.key then x :: y :: ys else y :: insertPlaced x ys

theorem map_insertPlaced (x : Survivor × Nat) (ys : List (Survivor × Nat)) :
    (insertPlaced x ys).map (·.1) = insertSurvivor x.1 (ys.map (·.1)) := by
  induction ys with
  | nil => rfl
  | cons y ys ih =>
    rw [insertPlaced, List.map_cons, insertSurvivor]
    split
    · rfl
    · rw [List.map_cons, ih]

theorem insertPlaced_perm (x : Survivor × Nat) (ys : List (Survivor × Nat)) : (insertPlaced x ys).Perm (x :: ys) := by
  induction ys with
  | nil => exact .refl _
  | cons y ys ih =>
    rw [insertPlaced]
    split
    · exact .refl _
    · exact (ih.cons y).trans (.swap ..)

/-- Inserting one of a later place keeps the order. -/
theorem insertPlaced_sorted {x : Survivor × Nat} {ys : List (Survivor × Nat)} (h : ys.Pairwise Before)
    (hx : ∀ y ∈ ys, y.2 < x.2) : (insertPlaced x ys).Pairwise Before := by
  induction ys with
  | nil => exact List.pairwise_singleton ..
  | cons y ys ih =>
    obtain ⟨first, rest⟩ := List.pairwise_cons.mp h
    rw [insertPlaced]
    split
    · next less =>
      refine List.pairwise_cons.mpr ⟨fun z hz => ?_, h⟩
      rcases List.mem_cons.mp hz with rfl | hz
      · exact .inl less
      · rcases first z hz with h | ⟨h, -⟩
        · exact .inl (less.trans h)
        · exact .inl (h ▸ less)
    · next notLess =>
      refine List.pairwise_cons.mpr ⟨fun z hz => ?_, ih rest fun z hz => hx z (List.mem_cons_of_mem _ hz)⟩
      rcases List.mem_cons.mp ((insertPlaced_perm x ys).mem_iff.mp hz) with rfl | hz
      · rcases (Nat.le_of_not_lt notLess).lt_or_eq with h | h
        · exact .inl h
        · exact .inr ⟨h, hx y List.mem_cons_self⟩
      · exact first z hz

/-- Inserting survivors in the order of their places sorts them stably. -/
theorem foldl_insertPlaced (xs : List Survivor) : ∀ (n : Nat) (acc : List (Survivor × Nat)), acc.Pairwise Before →
    (∀ y ∈ acc, y.2 < n) → ∃ ys : List (Survivor × Nat), ys.Perm (acc ++ xs.zipIdx n) ∧ ys.Pairwise Before ∧
      xs.foldl (fun acc x => insertSurvivor x acc) (acc.map (·.1)) = ys.map (·.1) := by
  induction xs with
  | nil => exact fun n acc ha _ => ⟨acc, by simp, ha, rfl⟩
  | cons x xs ih =>
    intro n acc ha hn
    have later : ∀ y ∈ insertPlaced (x, n) acc, y.2 < n + 1 := fun y hy => by
      rcases List.mem_cons.mp ((insertPlaced_perm _ _).mem_iff.mp hy) with rfl | hy
      · exact Nat.lt_succ_self n
      · exact (hn y hy).trans (Nat.lt_succ_self n)
    obtain ⟨ys, perm, sorted, same⟩ := ih (n + 1) _ (insertPlaced_sorted ha hn) later
    refine ⟨ys, perm.trans ?_, sorted, ?_⟩
    · rw [List.zipIdx_cons]
      exact ((insertPlaced_perm _ _).append_right _).trans List.perm_middle.symm
    · rw [List.foldl_cons, ← same, map_insertPlaced]

/-- The lanes that wait at a REPACK, in the order of their groups. -/
def waitingLanes (gs : List Machine.Group) : List Survivor :=
  gs.flatMap fun g => g.lanes.zipIdx.filterMap fun x => x.1.repackKey.map fun k =>
    { uid := g.uid, from_ := x.2, key := k, lane := { x.1 with st := .runnable } }

theorem survivors_sorted (gs : List Machine.Group) : ∃ xs : List (Survivor × Nat),
    xs.Perm (waitingLanes gs).zipIdx ∧ xs.Pairwise Before ∧ survivors gs = xs.map (·.1) := by
  have fold : survivors gs = (waitingLanes gs).foldl (fun acc x => insertSurvivor x acc) [] := by
    unfold survivors waitingLanes
    rfl
  obtain ⟨xs, perm, sorted, same⟩ := foldl_insertPlaced (waitingLanes gs) 0 [] .nil fun _ h => absurd h List.not_mem_nil
  exact ⟨xs, perm, sorted, fold.trans same⟩

/-! ### The filling -/

/-- What a group holds once it has taken its survivors. -/
theorem placeSurvivors_get {all : List Machine.Group} {w : Nat} (gs : List Machine.Group) (hw : ∀ g ∈ gs, g.width = w)
    (xs : List Survivor) (i : Nat) {e : Machine.Group × List Survivor}
    (h : (placeSurvivors all xs gs)[i]? = some e) :
    e.2 = (xs.drop (w * i)).take w ∧ (e.2.map fun x => x.lane).isPrefixOf e.1.lanes = true ∧
      e.1.lanes.length = w ∧ e.1.k = List.replicate 8 e.1.live ∧ ∃ g, gs[i]? = some g ∧ e.1.gid = g.gid := by
  induction gs generalizing xs i with
  | nil => cases h
  | cons g gs ih =>
    have width : g.width = w := hw g List.mem_cons_self
    unfold placeSurvivors at h
    cases i with
    | zero =>
      cases h
      refine ⟨?_, List.isPrefixOf_iff_prefix.mpr ⟨_, rfl⟩, ?_, rfl, g, rfl, rfl⟩
      · rw [Nat.mul_zero, List.drop_zero, width]
      · have := List.length_take_le g.width xs
        simp only [List.length_append, List.length_map, List.length_replicate]
        omega
    | succ i =>
      obtain ⟨taken, rest⟩ := ih (fun y hy => hw y (List.mem_cons_of_mem _ hy)) (xs.drop g.width) i h
      refine ⟨?_, rest⟩
      rw [taken, List.drop_drop, width, Nat.mul_succ, Nat.add_comm]

/-- Settles O41: the word found is that at which all have joined (`repackSites_head`), insertion in lane order sorts
stably (`foldl_insertPlaced`), and the groups take the survivors a width at a time (`placeSurvivors_get`). -/
theorem repackSorts : Obligations.RepackSorts := by
  refine ⟨fun k s g c hi hg => repack_parks hi hg, fun k s g c hi hg => repack_traps hi hg, ?_, ?_, ?_,
    survivors_sorted, fun all xs gs w hw i e h => placeSurvivors_get gs hw xs i h⟩
  · intro b core site s ps hp hr hj
    rw [repackComplete_joined hr hp hj]
    exact ⟨fun same => congrArg _ (if_neg (not_not.mpr (roles_agree hp same))),
      fun differ => congrArg _ (if_pos (roles_differ differ))⟩
  · intro s g ps
    refine ⟨fun h => ?_, fun t h => ?_, rfl, repackRole_full⟩
    · rw [State.trapRoles, List.foldl_cons, h]
      rfl
    · rw [State.trapRoles, List.foldl_cons, h]
      rfl
  · intro b core s ps
    exact ⟨repackComplete_waiting, repackComplete_idle⟩

end Sys2Proof.Proofs
end

section
/-! Memory stays canonical (log entry 10): accesses, records of the watch unit, the ends of groups and blocks. An
operation that writes no byte has a lemma `_mem`, one that may write has a lemma `_wf`. -/

namespace Sys2Proof.Proofs

open Sys2Proof.Machine Sys2Proof.Laws

variable {s : State}

/-! ### Runs of updates -/

/-- A run of updates, each of which keeps the canonical form, keeps it. -/
theorem foldl_wf {α : Type} {op : State → α → State}
    (hop : ∀ s x, Memory.wf s.mem = true → Memory.wf (op s x).mem = true) (l : List α) {s : State}
    (h : Memory.wf s.mem = true) : Memory.wf (l.foldl op s).mem = true := by
  induction l generalizing s with
  | nil => exact h
  | cons x l ih => exact ih (hop s x h)

/-! ### Choices -/

theorem wf_of_mem {t : State} (ht : t.mem = s.mem) (h : Memory.wf s.mem = true) : Memory.wf t.mem = true :=
  (congrArg Memory.wf ht).trans h

theorem ite_mem {p : Prop} [Decidable p] {a b : State} {m : List Host.Cell} (ha : a.mem = m) (hb : b.mem = m) :
    (if p then a else b).mem = m := by
  split
  · exact ha
  · exact hb

theorem ite_wf {p : Prop} [Decidable p] {a b : State} (ha : Memory.wf a.mem = true) (hb : Memory.wf b.mem = true) :
    Memory.wf (if p then a else b).mem = true := by
  split
  · exact ha
  · exact hb

/-! ### State -/

theorem drawnIf_wf {t : State} (c : Nat) (h : Memory.wf t.mem = true) : Memory.wf (s.drawnIf c t).mem = true := by
  unfold State.drawnIf
  split
  case isTrue same => rw [← same]; exact h
  case isFalse => exact h

@[simp] theorem spadSpoil_mem (b off n : Nat) : (s.spadSpoil b off n).mem = s.mem := spoilWhere_mem _ _

@[simp] theorem landSpoil_mem (b off n : Nat) : (s.landSpoil b off n).mem = s.mem := spoilWhere_mem _ _

/-! ### Accesses -/

@[simp] theorem writeBack_mem (p : Fill → Bool) : (s.writeBack p).mem = s.mem := by
  refine foldl_keeps State.mem _ (fun t f => ?_) _ s
  split
  · split
    · exact attrMismatch_mem _ _ _ _ _ _ _
    · rfl
  · rfl

@[simp] theorem touchRun_mem (w : Who) (a n : Nat) : (s.touchRun w a n).mem = s.mem :=
  foldl_keeps State.mem _ (fun _ _ => touch_mem _ _ _ _) _ s

/-- A store to scratchpad writes no byte of global memory (R61). -/
@[simp] theorem spadStore_mem (b off : Nat) (m : MBytes) : (s.spadStore b off m).mem = s.mem := by
  unfold State.spadStore
  dsimp only
  rw [spadSpoil_mem]
  split <;> rfl

@[simp] theorem landPart_mem (b : Nat) (p : Part) : (s.landPart b p).mem = s.mem := landSpoil_mem _ _ _

/-! ### Events, records and faults -/

theorem trap_wf (g : Machine.Group) (c : Clause) (i : Instr) (k : Code) (h : Memory.wf s.mem = true) :
    Memory.wf (s.trap g c i k).mem = true := trapAt_wf _ _ _ _ _ h

/-! ### Lineage -/

@[simp] theorem patchTrace_mem (g : Machine.Group) (a : DWord) (l cls r : Nat) (v : Word) :
    (s.patchTrace g a l cls r v).mem = s.mem := by
  unfold State.patchTrace
  split
  · split <;> rfl
  · rfl

/-- What a chain of quiet writes comes to, if they can all be made. -/
theorem bind_wf {o : Option State} {f : State → Option State} (ho : ∀ t, o = some t → Memory.wf t.mem = true)
    (hf : ∀ t u, f t = some u → Memory.wf t.mem = true → Memory.wf u.mem = true) :
    ∀ u, o.bind f = some u → Memory.wf u.mem = true := fun u hu => by
  obtain ⟨t, ht, hu⟩ := Option.bind_eq_some_iff.mp hu
  exact hf t u hu (ho t ht)

theorem getD_wf {o : Option State} {d : State} (ho : ∀ t, o = some t → Memory.wf t.mem = true)
    (hd : Memory.wf d.mem = true) : Memory.wf (o.getD d).mem = true := by
  cases o with
  | none => exact hd
  | some t => exact ho t rfl

theorem ringRecord_wf (w : Who) (n : Nat) (k : Comparator) (r : WatchRec) (h : Memory.wf s.mem = true) :
    Memory.wf (s.ringRecord w n k r).mem = true := by
  unfold State.ringRecord
  dsimp only
  cases s.quietLoad w k.ring.toNat 64 with
  | none => exact h
  | some b =>
    refine getD_wf (bind_wf (bind_wf (fun t ht => ?_) fun _ _ hq => quietStore_wf hq) fun _ _ hq => quietStore_wf hq) h
    cases hr : r.retain with
    | none => simp only [hr, Option.some.injEq] at ht; exact ht ▸ h
    | some f => simp only [hr] at ht; exact quietStore_wf ht h

theorem watchRecord_wf (w : Who) (hits : List WatchHit) (r : WatchRec) (h : Memory.wf s.mem = true) :
    Memory.wf (s.watchRecord w hits r).mem = true := by
  refine foldl_wf (fun s x h => ?_) _ h
  dsimp only
  split
  · exact ringRecord_wf _ _ _ _ h
  · exact h

theorem threadExit_wf (g : Machine.Group) (x : Lane) (h : Memory.wf s.mem = true) :
    Memory.wf (s.threadExit g x).mem = true := by
  unfold State.threadExit
  split
  · exact h
  · exact watchRecord_wf _ _ _ h

theorem rayEnd_wf (g : Machine.Group) (x : Walk) (w : Word) (h : Memory.wf s.mem = true) :
    Memory.wf (s.rayEnd g x w).mem = true := watchRecord_wf _ _ _ h

/-! ### The ends of lanes, groups and blocks -/

theorem exitLanes_wf (u : Nat) (m : Mask) (h : Memory.wf s.mem = true) : Memory.wf (s.exitLanes u m).mem = true := by
  unfold State.exitLanes
  split
  · exact h
  · exact foldl_wf (fun _ _ h => threadExit_wf _ _ h) _ h

@[simp] theorem failTask_mem (n : Nat) : (s.failTask n).mem = s.mem := by
  unfold State.failTask
  split <;> rfl

@[simp] theorem retireGrids_mem : s.retireGrids.mem = s.mem := rfl

@[simp] theorem openGate_mem (cl slot : Nat) : (s.openGate cl slot).mem = s.mem := by
  unfold State.openGate
  split <;> rfl

@[simp] theorem finishBlock_mem (b : Nat) : (s.finishBlock b).mem = s.mem := by
  unfold State.finishBlock
  split
  · rfl
  · split
    · rfl
    · exact (openGate_mem _ _).trans (by split <;> rfl)

@[simp] theorem dropGroup_mem (g : Machine.Group) : (s.dropGroup g).mem = s.mem := rfl

@[simp] theorem scrapOne_mem (b : Block) : (s.scrapOne b).mem = s.mem :=
  (openGate_mem _ _).trans (foldl_keeps State.mem _ (fun _ _ => dropGroup_mem _) _ _)

@[simp] theorem scrap_mem (b : Block) : (s.scrap b).mem = s.mem :=
  (scrapOne_mem _).trans (foldl_keeps State.mem _ (fun _ _ => scrapOne_mem _) _ _)

@[simp] theorem dropFrags_mem (b : Block) : (s.dropFrags b).mem = s.mem := by
  unfold State.dropFrags
  split <;> rfl

@[simp] theorem kill_mem (b : Nat) (k : Kill) (bs : List Byte) : (s.kill b k bs).mem = s.mem := by
  unfold State.kill
  split
  · rfl
  · cases k with
    | free => exact scrap_mem _
    | final => simp
    | counted =>
      dsimp only
      split
      · exact scrap_mem _
      · simp

@[simp] theorem settlePaths_mem (u : Nat) : (s.settlePaths u).mem = s.mem := by
  unfold State.settlePaths
  split <;> rfl

theorem takeTask_wf (w : Who) (bs : List Byte) (n : Name) (hits : List WatchHit) (h : Memory.wf s.mem = true) :
    Memory.wf (s.takeTask w bs n hits).2.mem = true := by
  unfold State.takeTask
  dsimp only
  split
  · rw [sendEvent_mem]; exact watchRecord_wf _ _ _ h
  · exact watchRecord_wf _ _ _ h

end Sys2Proof.Proofs
end

section
/-! Memory stays canonical: the outcome of an instruction word, memory instances, transfers of control, launches. -/

namespace Sys2Proof.Proofs

open Sys2Proof.Machine Sys2Proof.Laws

variable {s : State}

/-! ### Outcomes -/

/-- The next state of an outcome, if it has one, holds memory in its canonical form. -/
def KeepsForm (o : Host.Outcome State Fault Refusal) : Prop := ∀ t, o = .next t → Memory.wf t.mem = true

theorem keepsForm_next {t : State} (h : Memory.wf t.mem = true) : KeepsForm (.next t) := fun _ e => by
  cases e; exact h

theorem issue_keepsForm {i : Instr} {f : Machine.Group → Clause → State} (h : Memory.wf s.mem = true)
    (hf : ∀ g c, Memory.wf (f g c).mem = true) : KeepsForm (issue i s f) := fun _ e => issue_wf e h hf

theorem issueGroup_keepsForm {i : Instr} {f : Machine.Group → Clause → Machine.Group} (h : Memory.wf s.mem = true) :
    KeepsForm (issueGroup i s f) := issue_keepsForm h fun _ _ => h

theorem issueLanes_keepsForm {i : Instr} {o : LaneOp} (ho : LaneOp.Keeps o) (h : Memory.wf s.mem = true) :
    KeepsForm (issueLanes i s o) := issue_keepsForm h fun g c => runLanes_wf g c i ho h

/-! ### Group-level accesses -/

/-- What a group-level access leaves in memory. -/
def GroupKeeps (o : GroupOp) : Prop :=
  ∀ s g e x, o.run s g e = .ok x → Memory.wf s.mem = true → Memory.wf x.state.mem = true

theorem runGroupOp_wf {o : GroupOp} (ho : GroupKeeps o) (g : Machine.Group) (c : Clause) (i : Instr)
    (h : Memory.wf s.mem = true) : Memory.wf (runGroupOp s g c i o).mem = true := by
  unfold runGroupOp
  split
  · exact h
  · split
    · exact perform_wf _ _ (ho _ _ _ _ ‹_› h)
    · dsimp only
      split
      · exact getD_wf (fun t ht => park_wf ht h) h
      · exact h

theorem issueGroupOp_keepsForm {i : Instr} {o : GroupOp} (ho : GroupKeeps o) (h : Memory.wf s.mem = true) :
    KeepsForm (issueGroupOp i s o) := issue_keepsForm h fun g c => runGroupOp_wf ho g c i h

/-! ### Loads and stores -/

theorem loadOp_keeps (z : LdSize) (m : MemX) : LaneOp.Keeps (loadOp z m) := fun s g l x hx h => by
  unfold loadOp at hx
  dsimp only at hx
  split at hx
  · cases hx; rw [touch_mem]; exact h
  · cases hx

theorem localLoadOp_keeps (cl : Bool) (z : LdSize) (m : MemX) : LaneOp.Keeps (localLoadOp cl z m) :=
    fun s g l x hx h => by
  unfold localLoadOp at hx
  dsimp only at hx
  split at hx
  · cases hx
  · split at hx
    · cases hx
    · cases hx; exact h

theorem scalarLoadOp_keeps (z : LdSize) (d : SReg) (m : MemX) : GroupKeeps (scalarLoadOp z d m) := fun s g e x hx h => by
  unfold scalarLoadOp at hx
  dsimp only at hx
  split at hx
  · cases hx; rw [touch_mem]; exact h
  · split at hx
    · cases hx; exact h
    · cases hx

theorem brickOp_keeps (m : MemX) (c : VReg) : LaneOp.Keeps (brickOp m c) := fun s g l x hx h => by
  unfold brickOp at hx
  dsimp only at hx
  split at hx
  · cases hx
  · split at hx
    · cases hx
    · cases hx; rw [touch_mem]; exact h

theorem storeOp_keeps (z : LdSize) (w : StNarrow) (d : VReg) (m : MemX) : LaneOp.Keeps (storeOp z w d m) :=
    fun s g l x hx h => by
  unfold storeOp at hx
  dsimp only at hx
  split at hx
  · cases hx; exact h
  · cases hx

@[simp] theorem condition_mem (g : Machine.Group) (n : Nat) : (s.condition g n).mem = s.mem := by
  unfold State.condition
  split <;> rfl

theorem localStoreOp_keeps (cl : Bool) (z : LdSize) (w : StNarrow) (d : VReg) (m : MemX) :
    LaneOp.Keeps (localStoreOp cl z w d m) := fun s g l x hx h => by
  unfold localStoreOp at hx
  dsimp only at hx
  split at hx
  · cases hx
  · split at hx
    · cases hx; rw [condition_mem]; exact h
    · cases hx; rw [spadStore_mem]; exact h

theorem scalarStoreOp_keeps (z : LdSize) (w : StNarrow) (d : SReg) (m : MemX) : GroupKeeps (scalarStoreOp z w d m) :=
    fun s g e x hx h => by
  unfold scalarStoreOp at hx
  dsimp only at hx
  split at hx
  · cases hx; exact h
  · split at hx
    · cases hx; exact h
    · cases hx

theorem brickStoreOp_keeps (k : BrickTy) (a : VReg) (m : MemX) : GroupKeeps (brickStoreOp k a m) :=
    fun s g e x hx h => by
  unfold brickStoreOp at hx
  dsimp only at hx
  split at hx
  · cases hx; exact h
  · split at hx
    · cases hx; exact h
    · cases hx

theorem atomOp_keeps (o : AtomOp) (t : AtomTy) (m : MemX) (c : VReg) (b : Bool) : LaneOp.Keeps (atomOp o t m c b) :=
    fun s g l x hx h => by
  unfold atomOp at hx
  dsimp only at hx
  split at hx
  · cases hx
  · split at hx
    · cases hx
    · cases hx; exact perform_wf _ _ h

theorem atomSpadOp_keeps (o : AtomOp) (t : AtomTy) (m : MemX) (c : VReg) : LaneOp.Keeps (atomSpadOp o t m c) :=
    fun s g l x hx h => by
  unfold atomSpadOp at hx
  dsimp only at hx
  split at hx
  · cases hx
  · split at hx
    · cases hx
    · cases hx; rw [spadStore_mem]; exact h

theorem execStbrk_keepsForm (k : BrickTy) (a : VReg) (m : MemX) (h : Memory.wf s.mem = true) :
    KeepsForm (execStbrk k a m s) := issue_keepsForm h fun g c => by
  split
  · exact trap_wf _ _ _ _ h
  · exact runGroupOp_wf (brickStoreOp_keeps _ _ _) _ _ _ h

/-! ### Special registers and operations across lanes -/

@[simp] theorem afterSpecial_mem (g : Machine.Group) (n : SpecReg) : (s.afterSpecial g n).mem = s.mem := by
  unfold State.afterSpecial
  split <;> rfl

theorem execSwr_keepsForm (a : SReg) (n : SpecReg) (h : Memory.wf s.mem = true) : KeepsForm (execSwr a n s) :=
  issue_keepsForm h fun g c => by
    dsimp only
    split
    · split
      · exact trap_wf _ _ _ _ h
      · exact h
    · split
      · exact trap_wf _ _ _ _ h
      · exact h
    · exact h
    · exact h

theorem execSwin_keepsForm (i : BitVec 14) (h : Memory.wf s.mem = true) : KeepsForm (execSwin i s) :=
  issue_keepsForm h fun g c => by
    dsimp only
    split
    · exact trap_wf _ _ _ _ h
    · exact h

theorem execVwin_keepsForm (i : BitVec 14) (h : Memory.wf s.mem = true) : KeepsForm (execVwin i s) :=
  issue_keepsForm h fun g c => by
    dsimp only
    split
    · exact trap_wf _ _ _ _ h
    · exact h

@[simp] theorem groupWide_mem (g : Machine.Group) (m : Mask) : (s.groupWide g m).mem = s.mem := by
  unfold State.groupWide
  split
  · split
    · exact condition_mem _ _
    · rfl
  · rfl

@[simp] theorem shflNote_mem (g : Machine.Group) (c : Clause) (b : VReg) (m : ShflMode) :
    (s.shflNote g c b m).mem = s.mem := by
  unfold State.shflNote
  split
  · rfl
  · exact ite_mem (condition_mem _ _) rfl

theorem shuffle_keepsForm {i : Instr} {m : ShflMode} {d a b : VReg} (h : Memory.wf s.mem = true) :
    KeepsForm (shuffle i m d a b s) := issue_keepsForm h fun g c => by
  rw [state_setGroup_mem, shflNote_mem]; exact h

/-! ### Levels of detail and textures -/

theorem ringOverflow_wf (w : Who) (r : Nat) (h : Memory.wf s.mem = true) :
    Memory.wf (s.ringOverflow w r).mem = true := by
  unfold State.ringOverflow
  split
  · exact h
  · exact getD_wf (fun _ ht => quietStore_wf ht h) h

theorem logMiss_wf (g : Machine.Group) (d : LodDesc) (l p : Nat) (n : Name) (h : Memory.wf s.mem = true) :
    Memory.wf (s.logMiss g d l p n).2.mem = true := by
  unfold State.logMiss
  dsimp only
  split
  · exact h
  · split
    · exact ringOverflow_wf _ _ h
    · split
      · exact ringOverflow_wf _ _ h
      · split
        · exact ringOverflow_wf _ _ h
        · next hq =>
          have kept := bind_wf (fun _ ht => quietStore_wf ht h) (fun _ _ hu ht => quietStore_wf hu ht) _ hq
          exact kept

theorem logMisses_wf (g : Machine.Group) (d : LodDesc) (l : Nat) (n : Name) (t : LodStatus) (ps : List Nat)
    (h : Memory.wf s.mem = true) : Memory.wf (s.logMisses g d l n t ps).2.mem = true := by
  unfold State.logMisses
  induction ps generalizing s t with
  | nil => exact h
  | cons p ps ih => exact ih _ (logMiss_wf g d l p n h)

theorem keepPages_mem (g : Machine.Group) (d : LodDesc) (l : Nat) (ps : List Nat) :
    (ps.foldl (fun s p => s.keepPage g d l p) s).mem = s.mem :=
  foldl_keeps State.mem (fun s p => s.keepPage g d l p) (fun _ _ => rfl) ps s

theorem lodChain_wf (g : Machine.Group) (d : LodDesc) (n : Name) (wanted : Nat) (pages : Nat → List Nat) (fuel l : Nat)
    (t : LodStatus) (h : Memory.wf s.mem = true) :
    Memory.wf (s.lodChain g d n wanted pages fuel l t).2.2.mem = true := by
  induction fuel generalizing s l t with
  | zero => exact h
  | succ fuel ih =>
    have kept := (congrArg Memory.wf (keepPages_mem (s := s) g d l (pages l))).trans h
    unfold State.lodChain
    split
    · exact h
    · dsimp only
      split
      · exact kept
      · apply ih
        split
        · exact logMisses_wf _ _ _ _ _ _ kept
        · exact kept

@[simp] theorem noteLod_mem (g : Machine.Group) (l : Nat) (ws : List Word) (st : Word) :
    (s.noteLod g l ws st).mem = s.mem := by
  unfold State.noteLod
  dsimp only
  split
  · rfl
  · split <;> rfl

theorem lodLoad_wf {g : Machine.Group} {l n wanted : Nat} {d : LodDesc} {pages : Nat → List Nat}
    {read : State → Nat → Except FaultAt (List Word)} {x : LaneOut}
    (hx : s.lodLoad g l n wanted d pages read = .ok x) (h : Memory.wf s.mem = true) : Memory.wf x.state.mem = true := by
  have chain := lodChain_wf g d (g.lane l).lin wanted pages 17 wanted {} h
  unfold State.lodLoad at hx
  dsimp only at hx
  split at hx
  · cases hx; rw [noteLod_mem]; exact chain
  · split at hx
    · cases hx
    · cases hx
      rw [noteLod_mem, foldl_keeps State.mem _ fun _ _ => touch_mem _ _ _ _]
      exact chain

theorem lodOp_keeps (n : Nat) (z : LodSize) (m : MemX) : LaneOp.Keeps (lodOp n z m) := fun s g l x hx h => by
  unfold lodOp at hx
  dsimp only at hx
  split at hx
  · cases hx
  · split at hx
    · cases hx
    · split at hx
      · cases hx
      · exact lodLoad_wf hx h

theorem texOp_keeps (n t c : Nat) (f : State → Machine.Group → Nat → LodDesc → Nat)
    (pick : List (List Word) → Word → Word → List Word) : LaneOp.Keeps (texOp n t c f pick) := fun s g l x hx h => by
  unfold texOp at hx
  dsimp only at hx
  split at hx
  · cases hx
  · split at hx
    · cases hx
    · exact lodLoad_wf hx h

theorem issueLod_keepsForm {i : Instr} {o : LaneOp} (ho : LaneOp.Keeps o) (h : Memory.wf s.mem = true) :
    KeepsForm (issueLod i s o) := issue_keepsForm h fun _ c => runLanes_wf _ c i ho h

/-! ### Transfers of control -/

theorem direct_wf {n : Nat} (g : Machine.Group) (c : Clause) (o : BitVec n) (m : Mask) (h : Memory.wf s.mem = true) :
    Memory.wf (direct s g c o m).mem = true := checked_wf _ _ _ _ _ h h

theorem execJoinRelease_keepsForm (u : Nat) (a : DWord) (h : Memory.wf s.mem = true) :
    KeepsForm (execJoinRelease u a s) := by
  unfold execJoinRelease
  split
  · exact keepsForm_next h
  · refine keepsForm_next ?_
    split <;> exact h

theorem joinDead_wf (u : Nat) (h : Memory.wf s.mem = true) : Memory.wf (s.joinDead u).mem = true := by
  unfold State.joinDead
  split
  · exact h
  · dsimp only
    split
    · split
      · split
        · exact h
        · rw [onRetry_mem]; exact deliver_wf ‹_› h
      · exact h
    · exact h

theorem execExitLanes_keepsForm (h : Memory.wf s.mem = true) : KeepsForm (execExitLanes s) :=
  issue_keepsForm h fun _ _ => exitLanes_wf _ _ h

theorem execTrap_keepsForm (x : BitVec 14) (h : Memory.wf s.mem = true) : KeepsForm (execTrap x s) :=
  issue_keepsForm h fun g c => by
    dsimp only
    split
    · exact h
    · exact trapAt_wf _ _ _ _ _ h

theorem execBrk_keepsForm (x : BitVec 14) (h : Memory.wf s.mem = true) : KeepsForm (execBrk x s) :=
  issue_keepsForm h fun g c => by
    dsimp only
    split
    · exact h
    · split
      · exact h
      · next hr => rw [sendEvent_mem, state_modGroup_mem]; exact enterRecord_wf hr h

theorem execSvc_keepsForm (x : BitVec 14) (h : Memory.wf s.mem = true) : KeepsForm (execSvc x s) :=
  issue_keepsForm h fun g c => by
    dsimp only
    split
    · exact h
    · rw [sendEvent_mem]; exact h

theorem execPerf_keepsForm (a : SReg) (h : Memory.wf s.mem = true) : KeepsForm (execPerf a s) :=
  issue_keepsForm h fun g c => by split <;> exact h

/-! ### Launches -/

theorem askRender_wf (g : Machine.Group) (x : Lane) (d : Draw) (n : Name) (h : Memory.wf s.mem = true) :
    Memory.wf (s.askRender g x d n).mem = true := by
  unfold State.askRender
  exact ite_wf h (takeTask_wf _ _ _ _ h)

theorem launchOp_keeps (ord : Bool) (v : VReg) : LaneOp.Keeps (launchOp ord v) := fun s g l x hx h => by
  have counted : Memory.wf (if ord = true then s else s.modBlock g.block fun b =>
      { b with launchSeq := (b.launchSeq + 1) % 2 ^ 32 }).mem = true := by split <;> exact h
  unfold launchOp at hx
  dsimp only at hx
  split at hx
  · cases hx; exact askRender_wf _ _ _ _ counted
  · split at hx
    · cases hx
    · cases hx; exact takeTask_wf _ _ _ _ counted

theorem launch_keepsForm {i : Instr} {ord : Bool} {v : VReg} (h : Memory.wf s.mem = true) :
    KeepsForm (launch i ord v s) := issue_keepsForm h fun g c => by
  dsimp only
  split
  · exact h
  · split
    · exact trapAt_wf _ _ _ _ _ h
    · split <;> exact runLanes_wf _ _ _ (launchOp_keeps _ _) h

end Sys2Proof.Proofs
end

section
/-! Memory stays canonical: routes, copies and full bits. -/

namespace Sys2Proof.Proofs

open Sys2Proof.Machine Sys2Proof.Laws

variable {s : State}

/-! ### Routes -/

@[simp] theorem present_mem (slot r : Nat) (e : DWord) : (s.present slot r e).mem = s.mem := by
  unfold State.present
  split
  · rfl
  · exact ite_mem rfl rfl

theorem append_wf {t : State} {w : Who} {r : Nat} {d : RouteDesc} {e : DWord} (ht : s.append w r d e = .ok (some t))
    (h : Memory.wf s.mem = true) : Memory.wf t.mem = true := by
  unfold State.append at ht
  dsimp only at ht
  split at ht
  · cases ht
  · split at ht
    · cases ht
    · cases ht; exact perform_wf (s := s) _ _ h

theorem take_mem {t : State} {w : Who} {r : Nat} {d : RouteDesc} {e : DWord} (ht : s.take w r d = .ok (some (e, t))) :
    t.mem = s.mem := by
  unfold State.take at ht
  dsimp only at ht
  split at ht
  · cases ht
  · split at ht
    · cases ht
    · cases ht; rfl

theorem routeFault_wf (g : Machine.Group) (c : Clause) (i : Instr) (f : FaultAt) (m : Mask)
    (h : Memory.wf s.mem = true) : Memory.wf (s.routeFault g c i f m).mem = true := by
  unfold State.routeFault
  exact ite_wf (holdFault_wf _ _ _ _ h) h

theorem appendLanes_wf (w : Who) (r : Nat) (d : RouteDesc) (es : List (Nat × DWord)) (h : Memory.wf s.mem = true) :
    Memory.wf (appendLanes w r d es s).1.mem = true := by
  induction es generalizing s with
  | nil => exact h
  | cons e es ih =>
    unfold appendLanes
    split
    · next ht => exact ih (by rw [present_mem]; exact append_wf ht h)
    · exact h
    · exact h

theorem execRenq_keepsForm (r : SReg) (e : VReg) (h : Memory.wf s.mem = true) : KeepsForm (execRenq r e s) :=
  issue_keepsForm h fun g c => by
    dsimp only
    split
    · exact h
    · split
      · exact trapAt_wf _ _ _ _ _ h
      · split
        · exact routeFault_wf _ _ _ _ _ h
        · next d _ =>
          split
          · exact trapAt_wf _ _ _ _ _ h
          · have appended := appendLanes_wf (s.who g) (readS s g r.val).toNat d
              ((lanesOf (g.noHelpers c.exec &&& ~~~ c.partialDone)).map fun l => (l, readV64 s g l e.val)) h
            split <;> simp only [*] at appended
            · exact appended
            · exact routeFault_wf _ _ _ _ _ appended
            · exact appended

theorem execRdeq_keepsForm (d r : SReg) (h : Memory.wf s.mem = true) : KeepsForm (execRdeq d r s) :=
  issue_keepsForm h fun g c => by
    dsimp only
    split
    · exact h
    · split
      · exact trap_wf _ _ _ _ h
      · split
        · exact routeFault_wf _ _ _ _ _ h
        · split
          · exact trap_wf _ _ _ _ h
          · split
            · exact h
            · split
              · exact routeFault_wf _ _ _ _ _ h
              · exact h
              · next ht => exact (wf_of_mem (take_mem ht) h :)

theorem parkFail_wf (g : Machine.Group) (k : Nat) (f : FaultAt) (h : Memory.wf s.mem = true) :
    Memory.wf (s.parkFail g k f).mem = true := by
  unfold State.parkFail
  dsimp only
  split
  · split
    · exact fileRecord_wf ‹_› h
    · exact h
  · split
    · next hd => rw [modCtx_mem, onRetry_mem]; exact deliver_wf hd h
    · exact h

theorem execRouteEntryWake_keepsForm (c : Slot) (r : BitVec 12) (h : Memory.wf s.mem = true) :
    KeepsForm (execRouteEntryWake c r s) := by
  unfold execRouteEntryWake
  dsimp only
  split
  · split
    · exact keepsForm_next h
    · split
      · exact keepsForm_next h
      · split
        · exact keepsForm_next h
        · split
          · exact keepsForm_next (parkFail_wf _ _ _ h)
          · split
            · exact keepsForm_next h
            · split
              · exact keepsForm_next (parkFail_wf _ _ _ h)
              · split
                · exact keepsForm_next (parkFail_wf _ _ _ h)
                · exact keepsForm_next h
                · next ht => exact keepsForm_next (wf_of_mem (take_mem ht) h :)
  · exact keepsForm_next h

theorem execRouteSpaceWake_keepsForm (c : Slot) (r : BitVec 12) (h : Memory.wf s.mem = true) :
    KeepsForm (execRouteSpaceWake c r s) := by
  unfold execRouteSpaceWake
  dsimp only
  split
  · split
    · exact keepsForm_next h
    · split
      · exact keepsForm_next h
      · split
        · exact keepsForm_next h
        · split
          · exact keepsForm_next (parkFail_wf _ _ _ h)
          · split
            · exact keepsForm_next h
            · split
              · exact keepsForm_next (parkFail_wf _ _ _ h)
              · split
                · exact keepsForm_next (appendLanes_wf _ _ _ _ h)
                · split
                  · exact keepsForm_next (appendLanes_wf _ _ _ _ h)
                  · exact keepsForm_next (parkFail_wf _ _ _ (appendLanes_wf _ _ _ _ h))
  · exact keepsForm_next h

theorem writeDesc_wf (slot r : Nat) (en : Bool) (c : Option (Word × Word)) (h : Memory.wf s.mem = true) :
    Memory.wf (s.writeDesc slot r en c).mem = true := by
  unfold State.writeDesc
  dsimp only
  split
  · exact h
  · have enabled := fun w a bs => getD_wf (fun _ ht => quietStore_wf (w := w) (va := a) (bs := bs) ht h) h
    split
    · exact enabled _ _ _
    · exact getD_wf (fun _ ht => quietStore_wf ht (enabled _ _ _)) (enabled _ _ _)

theorem execRouteEnable_keepsForm (c : Slot) (r : BitVec 12) (h : Memory.wf s.mem = true) :
    KeepsForm (execRouteEnable c r s) := by
  have written := writeDesc_wf c.val r.toNat true none h
  unfold execRouteEnable
  dsimp only
  split
  · exact keepsForm_next written
  · exact keepsForm_next written

theorem enqueue1_wf {t : State} {slot r : Nat} {e : DWord} (ht : s.enqueue1 slot r e = .ok t)
    (h : Memory.wf s.mem = true) : Memory.wf t.mem = true := by
  unfold State.enqueue1 at ht
  dsimp only at ht
  split at ht
  · cases ht
  · split at ht
    · cases ht
    · split at ht
      · cases ht
      · split at ht
        · cases ht
        · cases ht
        · cases ht; exact append_wf ‹_› h

theorem execPeerEnqueue_keepsForm (c : Slot) (r : BitVec 12) (e : DWord) (h : Memory.wf s.mem = true) :
    KeepsForm (execPeerEnqueue c r e s) := by
  unfold execPeerEnqueue
  split
  · exact keepsForm_next h
  · split
    · exact keepsForm_next h
    · split
      · exact keepsForm_next (enqueue1_wf ‹_› h)
      · exact keepsForm_next h

/-! ### Copies -/

@[simp] theorem late_mem (g : Machine.Group) (i : Instr) (f : FaultAt) : (s.late g i f).mem = s.mem := by
  unfold State.late
  split <;> rfl

@[simp] theorem addCaravans_mem (k : CopyOf) (out : Bool) (ps : List Part) : (s.addCaravans k out ps).mem = s.mem := by
  refine foldl_keeps State.mem _ (fun _ _ => ?_) _ s
  rfl

theorem settleCpa_wf {t : State} {g : Machine.Group} {c : Clause} {i : Instr} {sz : Nat} {a gl : SReg} {x : VReg}
    {fs : List (Nat × FaultAt)} (ht : settleCpa s g c i sz a gl x fs = some t) (h : Memory.wf s.mem = true) :
    Memory.wf t.mem = true := by
  unfold settleCpa at ht
  split at ht
  · cases ht; exact h
  · dsimp only at ht
    split at ht
    · exact park_wf ht h
    · cases ht; exact h

/-- A chain of steps that can each fail, from a state in canonical form. -/
theorem foldl_bind_wf {α : Type} {f : State → α → Option State}
    (hf : ∀ x t u, f t x = some u → Memory.wf t.mem = true → Memory.wf u.mem = true) (xs : List α) {o : Option State}
    (ho : ∀ t, o = some t → Memory.wf t.mem = true) :
    ∀ t, xs.foldl (fun (o : Option State) x => o.bind fun s => f s x) o = some t → Memory.wf t.mem = true := by
  induction xs generalizing o with
  | nil => exact ho
  | cons x xs ih => exact ih (bind_wf ho (hf x))

theorem cpa_keepsForm {i : Instr} {sz : Nat} {a gl : SReg} {x : VReg} (h : Memory.wf s.mem = true) :
    KeepsForm (cpa i sz a gl x s) := issue_keepsForm h fun g c => by
  dsimp only
  split
  · exact h
  · have touched : ∀ ps : List Part, Memory.wf (ps.foldl (fun s p => s.touch (s.who g) p.ga false) s).mem = true :=
      fun ps => by rw [foldl_keeps State.mem _ fun _ _ => touch_mem _ _ _ _]; exact h
    refine getD_wf (foldl_bind_wf (fun _ _ _ ht => settleCpa_wf ht) _ fun t ht => ?_) (touched _)
    cases ht
    rw [addCaravans_mem]
    exact touched _

theorem cpbStart_mem {t : State} {g : Machine.Group} {k : CopyOf} {out : Bool} {ga off n : Nat}
    (ht : cpbStart s g k out ga off n = .ok t) : t.mem = s.mem := by
  unfold cpbStart at ht
  dsimp only at ht
  split at ht
  · split at ht
    · cases ht
    · cases ht; exact addCaravans_mem _ _ _
  · split at ht
    · cases ht
    · cases ht; rw [addCaravans_mem, touchRun_mem]

theorem execCpb_keepsForm (d a n : SReg) (h : Memory.wf s.mem = true) : KeepsForm (execCpb d a n s) :=
  issue_keepsForm h fun g c => by
    have late := fun i f => wf_of_mem (late_mem g i f) h
    have pending : ∀ p : Prop, ∀ [Decidable p] xs, Memory.wf (if p then s else s.addPendingAll g.block xs).mem = true :=
      fun p _ xs => ite_wf h h
    refine ite_wf h (ite_wf (trap_wf _ _ _ _ h) (ite_wf (late _ _) (ite_wf (late _ _) (ite_wf h (ite_wf h ?_)))))
    dsimp only
    generalize hr : cpbStart _ _ _ _ _ _ _ = r
    cases r with
    | ok t => exact wf_of_mem (cpbStart_mem hr) (pending _ _)
    | error f => exact getD_wf (fun _ ht => park_wf ht (pending _ _)) h

theorem landOut_wf (k : Caravan) (h : Memory.wf s.mem = true) : Memory.wf (s.landOut k).mem = true := by
  unfold State.landOut
  split
  · dsimp only
    split
    · exact perform_wf (s := s) _ _ h
    · split
      · exact h
      · next hf => exact (fileRecord_wf hf h :)
  · exact h

theorem execCaravanLand_keepsForm (n : Nat) (h : Memory.wf s.mem = true) : KeepsForm (execCaravanLand n s) := by
  unfold execCaravanLand
  split
  · exact keepsForm_next h
  · split
    · exact keepsForm_next h
    · split
      · dsimp only
        split
        · split
          · exact keepsForm_next (landOut_wf _ h)
          · exact keepsForm_next h
        · exact keepsForm_next h
      · refine keepsForm_next ?_
        dsimp only
        rw [foldl_keeps State.mem _ fun _ _ => landPart_mem _ _]
        exact h

theorem femark_keepsForm {i : Instr} {a b : SReg} {full : Bool} (h : Memory.wf s.mem = true) :
    KeepsForm (femark i a b full s) := issue_keepsForm h fun g c => by
  exact ite_wf (by rw [late_mem]; exact h) h

end Sys2Proof.Proofs
end

section
/-! Memory stays canonical: tokens, continuations, barriers and collectives. -/

namespace Sys2Proof.Proofs

open Sys2Proof.Machine Sys2Proof.Laws

variable {s : State}

theorem ite_keepsForm {p : Prop} [Decidable p] {a b : Host.Outcome State Fault Refusal} (ha : KeepsForm a)
    (hb : KeepsForm b) : KeepsForm (if p then a else b) := by
  split
  · exact ha
  · exact hb

theorem late_wf (g : Machine.Group) (i : Instr) (f : FaultAt) (h : Memory.wf s.mem = true) :
    Memory.wf (s.late g i f).mem = true := wf_of_mem (late_mem g i f) h

/-! ### Tokens -/

theorem takeToken_mem {t : State} {c k : Nat} {w : Word} (ht : s.takeToken c = some (k, w, t)) : t.mem = s.mem := by
  unfold State.takeToken at ht
  dsimp only at ht
  split at ht
  · cases ht
  · cases ht; rfl

@[simp] theorem resolveToken_mem (c k : Nat) (b : Bool) : (s.resolveToken c k b).mem = s.mem := rfl

@[simp] theorem startToken_mem (g : Machine.Group) (i : Instr) (d : SReg) : (s.startToken g i d).mem = s.mem := by
  unfold State.startToken
  split
  · rfl
  · next ht => exact (takeToken_mem ht :)

theorem execPrefr_keepsForm (d a b : SReg) (h : Memory.wf s.mem = true) : KeepsForm (execPrefr d a b s) :=
  issue_keepsForm h fun g c => by
    refine ite_wf (trap_wf _ _ _ _ h) (ite_wf (late_wf _ _ _ h) (ite_wf ?_ (wf_of_mem (startToken_mem _ _ _) h)))
    split
    · exact h
    · next ht => exact (wf_of_mem (takeToken_mem ht) h :)

theorem execTokenResolve_keepsForm (c : Slot) (t : BitVec 8) (h : Memory.wf s.mem = true) :
    KeepsForm (execTokenResolve c t s) := by
  unfold execTokenResolve
  split
  · refine keepsForm_next ?_
    rw [resolveToken_mem, touchRun_mem]
    exact h
  · exact keepsForm_next h

theorem execTokw_keepsForm (d a : SReg) (h : Memory.wf s.mem = true) : KeepsForm (execTokw d a s) :=
  issue_keepsForm h fun g c => by
    dsimp only
    split
    · exact trap_wf _ _ _ _ h
    · exact h
    · exact h

/-- A label that cannot be reached faults (R148, R149). -/
theorem badLabel_wf (g : Machine.Group) (c : Clause) (f : FaultAt) (k : Code) (m : Mask) (a : Nat)
    (h : Memory.wf s.mem = true) :
    Memory.wf (if k.resolvable then s.holdFault g c f m else s.controlFault g c k m a).mem = true :=
  ite_wf (holdFault_wf _ _ _ _ h) (controlFault_wf _ _ _ _ _ h)

theorem waitc_keepsForm {i : Instr} {o : BitVec 14} {t : Option SReg} (h : Memory.wf s.mem = true) :
    KeepsForm (waitc i o t s) := issue_keepsForm h fun g c => by
  dsimp only
  split
  · exact badLabel_wf _ _ _ _ _ _ h
  · exact exitLanes_wf _ _ h

/-! ### Barriers -/

theorem phaseAccess_keepsForm {i : Instr} {b : SReg} {k : Machine.Group → Clause → Nat → Nat → State}
    (h : Memory.wf s.mem = true) (hk : ∀ g c off w, Memory.wf (k g c off w).mem = true) :
    KeepsForm (phaseAccess i b s k) := issue_keepsForm h fun g c => by
  dsimp only
  split
  · exact late_wf _ _ _ h
  · refine ite_wf h ?_
    split
    · exact holdFault_wf _ _ _ _ h
    · exact hk _ _ _ _

theorem execMbara_keepsForm (b : SReg) (h : Memory.wf s.mem = true) : KeepsForm (execMbara b s) :=
  phaseAccess_keepsForm h fun _ _ _ _ => ite_wf (trap_wf _ _ _ _ h) (wf_of_mem (spadStore_mem _ _ _) h)

theorem execMbarw_keepsForm (b p : SReg) (h : Memory.wf s.mem = true) : KeepsForm (execMbarw b p s) :=
  phaseAccess_keepsForm h fun _ _ _ _ => ite_wf h h

theorem execBarrierResolve_keepsForm (b : Nat) (h : Memory.wf s.mem = true) : KeepsForm (execBarrierResolve b s) := by
  unfold execBarrierResolve
  split
  · exact keepsForm_next h
  · exact ite_keepsForm (keepsForm_next h) (keepsForm_next h)

@[simp] theorem flushLines_mem (lo n : Nat) : (s.flushLines lo n).mem = s.mem := writeBack_mem _

theorem execCflush_keepsForm (a b : SReg) (h : Memory.wf s.mem = true) : KeepsForm (execCflush a b s) :=
  issue_keepsForm h fun g c => by
    refine ite_wf (trap_wf _ _ _ _ h) (ite_wf (late_wf _ _ _ h) (ite_wf h (foldl_wf (fun t u ht => ?_) _ h)))
    split
    · exact ht
    · exact wf_of_mem (flushLines_mem _ _) ht

/-! ### Collectives -/

theorem execXall_keepsForm (d a : SReg) (h : Memory.wf s.mem = true) : KeepsForm (execXall d a s) :=
  issue_keepsForm h fun g c => by
    refine ite_wf h (ite_wf (trap_wf _ _ _ _ h) (ite_wf (late_wf _ _ _ h) (ite_wf (late_wf _ _ _ h) ?_)))
    split
    · exact holdFault_wf _ _ _ _ h
    · exact ite_wf (trap_wf _ _ _ _ h) (wf_of_mem (touchRun_mem _ _ _) h)

theorem landXall_wf (w : Who) (x : Xall) (ps : List Put) (h : Memory.wf s.mem = true) :
    Memory.wf (s.landXall w x ps).mem = true := by
  unfold State.landXall
  split
  · exact perform_wf _ _ (wf_of_mem (touchRun_mem _ _ _) h)
  · rw [foldl_globSpoil_mem]
    exact putAll_wf _ _ _ h

theorem runXall_wf {t : State} {x : Xall} (ht : s.runXall x = some (.ok t)) (h : Memory.wf s.mem = true) :
    Memory.wf t.mem = true := by
  unfold State.runXall at ht
  dsimp only at ht
  split at ht
  · cases ht
  · split at ht
    · cases ht
    · split at ht
      · cases ht
      · cases ht; exact landXall_wf _ _ _ h

theorem execXallComplete_keepsForm (n : Nat) (got : List (Nat × List Byte)) (h : Memory.wf s.mem = true) :
    KeepsForm (execXallComplete n got s) := by
  unfold execXallComplete
  split
  · exact keepsForm_next h
  · refine ite_keepsForm (keepsForm_next h) (ite_keepsForm (keepsForm_next h) (ite_keepsForm (keepsForm_next h) ?_))
    split
    · exact keepsForm_next h
    · next ht => exact keepsForm_next (runXall_wf ht h :)
    · split
      · exact keepsForm_next h
      · next hf => exact keepsForm_next (fileRecord_wf hf h :)

theorem execXallRegistration_keepsForm (m : XallFlit) (h : Memory.wf s.mem = true) :
    KeepsForm (execXallRegistration m s) := ite_keepsForm (keepsForm_next h) (keepsForm_next h)

theorem execXallStart_keepsForm (n : Nat) (h : Memory.wf s.mem = true) : KeepsForm (execXallStart n s) := by
  unfold execXallStart
  split
  · exact keepsForm_next h
  · exact ite_keepsForm (keepsForm_next h) (keepsForm_next h)

end Sys2Proof.Proofs
end

section
/-! Memory stays canonical: the engines for matrices and hypervectors, generators, REPACK. -/

namespace Sys2Proof.Proofs

open Sys2Proof.Machine Sys2Proof.Laws

variable {s : State}

/-! ### Matrices -/

@[simp] theorem touchRegion_mem (w : Who) (n : Nat) (r : Region) : (s.touchRegion w n r).mem = s.mem := by
  cases r with
  | spad => rfl
  | glob => exact touchRun_mem _ _ _

/-- What a run of the engine leaves in memory. -/
def EngineKeeps : EngineOut → Prop
  | .ok t | .fault t _ _ => Memory.wf t.mem = true
  | .wait => True

theorem matStep_keeps (g : Machine.Group) (t : MatTy) (h : MatShape) (z : Nat) (a b : Region) (n : Nat)
    (hs : Memory.wf s.mem = true) : EngineKeeps (s.matStep g t h z a b n) := by
  unfold State.matStep
  dsimp only
  split
  · trivial
  · exact hs
  · split
    · trivial
    · exact hs
    · split
      · exact hs
      · exact wf_of_mem ((touchRegion_mem _ _ _).trans (touchRegion_mem _ _ _)) hs

theorem writeImage_wf (w : Who) (need : Need) (ps : List (Nat × List Byte)) (n : Nat) (h : Memory.wf s.mem = true) :
    Memory.wf (s.writeImage w need ps n).1.mem = true := by
  induction ps generalizing s n with
  | nil => exact h
  | cons p ps ih =>
    unfold State.writeImage
    dsimp only
    generalize (if need = .write then _ else _ : Except FaultAt (List Put)) = r
    cases r with
    | error f => exact h
    | ok qs => exact ih _ (perform_wf _ _ h)

theorem runImage_keeps (g src : Machine.Group) (z : Nat) (need : Need) (img : List (Nat × List Byte)) (n : Nat)
    (h : Memory.wf s.mem = true) : EngineKeeps (s.runImage g src z need img n) := by
  have written := writeImage_wf (s.who g) need (img.drop n) n h
  unfold State.runImage
  split
  · exact h
  · split <;> simp only [*] at written <;> exact written

theorem runMatrix_keeps (g src : Machine.Group) (i : Instr) (n : Nat) (h : Memory.wf s.mem = true) :
    EngineKeeps (s.runMatrix g src i n) := by
  unfold State.runMatrix
  dsimp only
  split
  · exact matStep_keeps _ _ _ _ _ _ _ h
  · exact matStep_keeps _ _ _ _ _ _ _ h
  · split
    · split
      · exact h
      · exact h
    · exact wf_of_mem (touchRun_mem _ _ _) h
  · exact h
  · exact runImage_keeps _ _ _ _ _ _ h
  · exact runImage_keeps _ _ _ _ _ _ h
  · exact h

theorem runEngine_keeps (g : Machine.Group) (e : Engine) (h : Memory.wf s.mem = true) :
    EngineKeeps (s.runEngine g e) := by
  unfold State.runEngine
  dsimp only
  generalize hr : State.runMatrix _ _ _ _ _ = r
  have ran : EngineKeeps r := hr ▸ runMatrix_keeps _ _ _ _ h
  cases r with
  | ok t => exact ite_wf ran ran
  | wait => trivial
  | fault t f n => exact ran

theorem stopEngine_wf (g : Machine.Group) (e : Engine) (f : FaultAt) (n : Nat) (h : Memory.wf s.mem = true) :
    Memory.wf (s.stopEngine g e f n).mem = true := by
  unfold State.stopEngine
  refine ite_wf h ?_
  split
  · exact h
  · next hf => exact (fileRecord_wf hf h :)

theorem driveEngine_wf (e : Engine) (h : Memory.wf s.mem = true) : Memory.wf (s.driveEngine e).mem = true := by
  unfold State.driveEngine
  split
  · exact h
  · next g _ =>
    have ran := runEngine_keeps g e h
    split <;> simp only [*] at ran
    · exact ran
    · exact h
    · exact stopEngine_wf _ _ _ _ ran

theorem spoilOld_wf (u z : Nat) (old : List MatUse) (h : Memory.wf s.mem = true) :
    Memory.wf (s.spoilOld u z old).mem = true := by
  unfold State.spoilOld
  dsimp only
  split
  · exact h
  · refine foldl_wf (fun t x ht => ?_) _ h
    split
    · exact ht
    · exact ite_wf ht (getD_wf (fun _ hq => quietStore_wf hq ht) ht)

theorem issueMatrix_wf (g : Machine.Group) (c : Clause) (i : Instr) (b : Bool) (h : Memory.wf s.mem = true) :
    Memory.wf (s.issueMatrix g c i b).mem = true := ite_wf h (spoilOld_wf _ _ _ h)

theorem startMatrix_wf (g : Machine.Group) (c : Clause) (i : Instr) (b : Bool) (h : Memory.wf s.mem = true) :
    Memory.wf (s.startMatrix g c i b).mem = true := driveEngine_wf _ (issueMatrix_wf _ _ _ _ h)

theorem execMma_keepsForm (t : MatTy) (k : MatShape) (z : ZReg) (a b : SReg) (h : Memory.wf s.mem = true) :
    KeepsForm (execMma t k z a b s) :=
  issue_keepsForm h fun _ _ => ite_wf (trap_wf _ _ _ _ h) (startMatrix_wf _ _ _ _ h)

theorem execMloop_keepsForm (t : MatTy) (k : MatShape) (z : ZReg) (p : SReg) (h : Memory.wf s.mem = true) :
    KeepsForm (execMloop t k z p s) :=
  issue_keepsForm h fun _ _ =>
    ite_wf (trap_wf _ _ _ _ h) (ite_wf (trap_wf _ _ _ _ h) (issueMatrix_wf _ _ _ _ h))

theorem execMloopIteration_keepsForm (u : Nat) (z : ZReg) (h : Memory.wf s.mem = true) :
    KeepsForm (execMloopIteration u z s) := by
  unfold execMloopIteration
  dsimp only
  split
  · next e g _ _ =>
    have ran := runEngine_keeps g e h
    split
    · split <;> simp only [*] at ran
      · exact keepsForm_next h
      · exact keepsForm_next ran
      · exact keepsForm_next (stopEngine_wf _ _ _ _ ran)
    · exact keepsForm_next h
  · exact keepsForm_next h

theorem execMzero_keepsForm (z : ZReg) (h : Memory.wf s.mem = true) : KeepsForm (execMzero z s) :=
  issue_keepsForm h fun _ _ => startMatrix_wf _ _ _ _ h

theorem tileImage_keepsForm {i : Instr} {a : SReg} {w o : Bool} {n : Nat} {k : Machine.Group → Clause → State}
    (h : Memory.wf s.mem = true) (hk : ∀ g c, Memory.wf (k g c).mem = true) : KeepsForm (tileImage i a w o n s k) :=
  issue_keepsForm h fun _ _ =>
    ite_wf h (ite_wf h (ite_wf (late_wf _ _ _ h) (ite_wf (late_wf _ _ _ h) (hk _ _))))

theorem execFullBitWake_keepsForm (u : Nat) (h : Memory.wf s.mem = true) : KeepsForm (execFullBitWake u s) := by
  unfold execFullBitWake
  extract_lets woken waiting slot
  have kept : Memory.wf woken.mem = true := by
    simp only [woken]
    split
    · split
      · exact ite_wf h h
      · exact h
    · exact h
  exact keepsForm_next (ite_wf kept (drawnIf_wf _ (foldl_wf (fun _ _ ht => driveEngine_wf _ ht) _ kept)))

/-! ### Hypervectors -/

theorem hyperFault_wf (g owed : Machine.Group) (c : Clause) (i : Instr) (a : DWord) (f : FaultAt)
    (h : Memory.wf s.mem = true) : Memory.wf (s.hyperFault g owed c i a f).mem = true :=
  ite_wf (getD_wf (fun _ ht => park_wf ht h) h) (late_wf _ _ _ h)

theorem execHld_keepsForm (d : HReg) (b : SReg) (o : BitVec 7) (h : Memory.wf s.mem = true) :
    KeepsForm (execHld d b o s) := issue_keepsForm h fun g c => by
  refine ite_wf (late_wf _ _ _ h) (ite_wf (late_wf _ _ _ h) (ite_wf h ?_))
  split
  · exact wf_of_mem (touchRun_mem _ _ _) h
  · exact ite_wf h (hyperFault_wf _ _ _ _ _ _ h)

theorem execHst_keepsForm (r : HReg) (b : SReg) (o : BitVec 7) (h : Memory.wf s.mem = true) :
    KeepsForm (execHst r b o s) := issue_keepsForm h fun g c => by
  refine ite_wf h (ite_wf (late_wf _ _ _ h) (ite_wf (late_wf _ _ _ h) (ite_wf h ?_)))
  split
  · exact perform_wf _ _ h
  · exact hyperFault_wf _ _ _ _ _ _ h

theorem redoHyper_wf {t : State} {r : Replayed} (ht : s.redoHyper r = .ok t) (h : Memory.wf s.mem = true) :
    Memory.wf t.mem = true := by
  unfold State.redoHyper at ht
  dsimp only at ht
  split at ht
  · split at ht
    · cases ht; exact wf_of_mem (touchRun_mem _ _ _) h
    · cases ht
  · split at ht
    · cases ht; exact perform_wf _ _ h
    · cases ht
  · cases ht; exact h

theorem execHnear_keepsForm (d : SReg) (a b : HReg) (n : SReg) (h : Memory.wf s.mem = true) :
    KeepsForm (execHnear d a b n s) :=
  issue_keepsForm h fun _ _ => ite_wf (trap_wf _ _ _ _ h) (ite_wf (holdFault_wf _ _ _ _ h) h)

/-! ### Generators -/

@[simp] theorem repark_mem (u : Nat) : (s.repark u).mem = s.mem := by
  unfold State.repark
  split
  · rfl
  · refine foldl_keeps State.mem _ (fun t x => ?_) _ s
    split <;> rfl

@[simp] theorem settleGen_mem (u : Nat) : (s.settleGen u).mem = s.mem := by
  unfold State.settleGen
  split
  · rfl
  · exact ite_mem rfl (repark_mem _)

theorem gopen_keepsForm {i : Instr} {p : SReg} {t : Fin 65} {o : Word} {n : Nat} (h : Memory.wf s.mem = true) :
    KeepsForm (gopen i p t o n s) := issue_keepsForm h fun g c => by
  refine ite_wf (trap_wf _ _ _ _ h) (ite_wf (trap_wf _ _ _ _ h) ?_)
  split
  · exact badLabel_wf _ _ _ _ _ _ h
  · exact h

theorem execGyield_keepsForm (a : VReg) (h : Memory.wf s.mem = true) : KeepsForm (execGyield a s) :=
  issue_keepsForm h fun g c => by
    refine ite_wf h ?_
    split
    · exact trap_wf _ _ _ _ h
    · exact ite_wf (trap_wf _ _ _ _ h) (ite_wf (trap_wf _ _ _ _ h) h)

theorem condition_ite_wf {p : Prop} [Decidable p] (g : Machine.Group) (n : Nat) (h : Memory.wf s.mem = true) :
    Memory.wf (if p then s.condition g n else s).mem = true := ite_wf (wf_of_mem (condition_mem _ _) h) h

theorem execGtake_keepsForm (d : VReg) (h : Memory.wf s.mem = true) : KeepsForm (execGtake d s) :=
  issue_keepsForm h fun g c => by
    dsimp only
    split
    · exact trap_wf _ _ _ _ h
    · exact ite_wf (trap_wf _ _ _ _ h) (ite_wf (trap_wf _ _ _ _ h) (condition_ite_wf _ _ h))

theorem execGback_keepsForm (h : Memory.wf s.mem = true) : KeepsForm (execGback s) :=
  issue_keepsForm h fun g c => by
    split
    · exact ite_wf h (trap_wf _ _ _ _ h)
    · exact trap_wf _ _ _ _ h

theorem execGdone_keepsForm (h : Memory.wf s.mem = true) : KeepsForm (execGdone s) :=
  issue_keepsForm h fun g c => by
    split
    · exact ite_wf h (trap_wf _ _ _ _ h)
    · exact trap_wf _ _ _ _ h

theorem execGclose_keepsForm (h : Memory.wf s.mem = true) : KeepsForm (execGclose s) :=
  issue_keepsForm h fun g c => by
    split
    · exact ite_wf h (trap_wf _ _ _ _ h)
    · exact trap_wf _ _ _ _ h

/-! ### REPACK -/

theorem execRepack_keepsForm (k : VReg) (h : Memory.wf s.mem = true) : KeepsForm (execRepack k s) :=
  issue_keepsForm h fun _ _ => ite_wf (trap_wf _ _ _ _ h) (condition_ite_wf _ _ h)

theorem repackRole_wf {t : State} {g : Machine.Group} (ht : s.repackRole g = some t) (h : Memory.wf s.mem = true) :
    Memory.wf t.mem = true := by
  unfold State.repackRole at ht
  split at ht
  · cases ht; exact h
  · obtain ⟨⟨n, u⟩, hd, rfl⟩ := Option.map_eq_some_iff.mp ht
    exact wf_of_mem (onRetry_mem _ _ _ _ _) (deliver_wf hd h)

theorem trapRoles_wf (ps : List Machine.Group) (h : Memory.wf s.mem = true) : Memory.wf (s.trapRoles ps).mem = true := by
  refine foldl_wf (fun t g ht => ?_) _ h
  split
  · next hr =>
    have kept := repackRole_wf hr ht
    exact ite_wf kept kept
  · exact ht

theorem execRepackComplete_keepsForm (b : Nat) (c : Fin 32) (h : Memory.wf s.mem = true) :
    KeepsForm (execRepackComplete b c s) := by
  refine ite_keepsForm (keepsForm_next (trapRoles_wf _ h)) ?_
  split
  · exact keepsForm_next h
  · refine ite_keepsForm (keepsForm_next h) (ite_keepsForm (keepsForm_next (trapRoles_wf _ h)) (keepsForm_next ?_))
    refine foldl_wf (fun t e ht => ?_) _ h
    exact ite_wf ht (wf_of_mem (finishBlock_mem _) ht)

end Sys2Proof.Proofs
end

section
/-! Memory stays canonical: traversal, graphics, WATCH and REPLAY, the privileged words. -/

namespace Sys2Proof.Proofs

open Sys2Proof.Machine Sys2Proof.Laws

variable {s : State}

/-! ### Traversal -/

theorem closeWalk_wf (g : Machine.Group) (w : Walk) (k : Nat) (h : Memory.wf s.mem = true) :
    Memory.wf (s.closeWalk g w k).state.mem = true := rayEnd_wf _ _ _ h

@[simp] theorem nodePoison_mem (g : Machine.Group) (a : DWord) : (s.nodePoison g a).mem = s.mem := by
  unfold State.nodePoison
  dsimp only
  exact logRas_mem _ _

/-- What a round of a walk leaves in memory, when it ends the lane's TRAVS. -/
def WalkKeeps (r : TravOut ⊕ Walk) : Prop := ∀ o, r = .inl o → Memory.wf o.state.mem = true

theorem walkKeeps_inl {o : TravOut} (h : Memory.wf o.state.mem = true) : WalkKeeps (.inl o) := fun _ e => by
  cases e; exact h

theorem walkKeeps_inr (w : Walk) : WalkKeeps (.inr w) := fun _ e => by cases e

theorem ite_walkKeeps {p : Prop} [Decidable p] {a b : TravOut ⊕ Walk} (ha : WalkKeeps a) (hb : WalkKeeps b) :
    WalkKeeps (if p then a else b) := by
  split
  · exact ha
  · exact hb

theorem visit_push_keeps (g : Machine.Group) (w : Walk) (ps : List (Word × Option Word)) (h : Memory.wf s.mem = true) :
    WalkKeeps (match w.pushAll ps with
      | (true, w) => .inr w
      | (false, w) => .inl (s.closeWalk g w 5)) := by
  split
  · exact walkKeeps_inr _
  · exact walkKeeps_inl (closeWalk_wf _ _ _ h)

theorem visit_keeps (g : Machine.Group) (w : Walk) (d : TravDesc) (r : Word) (k : Nat) (b : List Byte)
    (h : Memory.wf s.mem = true) : WalkKeeps (s.visit g w d r k b) := by
  unfold State.visit
  split
  · exact visit_push_keeps _ _ _ h
  · exact visit_push_keeps _ _ _ h
  · split
    · exact walkKeeps_inr _
    · exact ite_walkKeeps (ite_walkKeeps (walkKeeps_inl (closeWalk_wf _ _ _ h)) (walkKeeps_inr _)) (walkKeeps_inl h)
  · exact walkKeeps_inl h
  · exact ite_walkKeeps (walkKeeps_inl h) (visit_push_keeps _ _ _ h)

@[simp] theorem touchNode_mem (g : Machine.Group) (a : Option (Nat × Nat)) : (s.touchNode g a).mem = s.mem := by
  cases a with
  | none => rfl
  | some a => exact touchRun_mem _ _ _

/-- A round of a walk, or one lane's TRAVS, keeps the canonical form if it raises no fault. -/
def RoundKeeps (r : Except FaultAt (TravOut ⊕ Walk)) : Prop := ∀ x, r = .ok x → WalkKeeps x

theorem roundKeeps_ok {x : TravOut ⊕ Walk} (h : WalkKeeps x) : RoundKeeps (.ok x) := fun _ e => by cases e; exact h

theorem roundKeeps_error (f : FaultAt) : RoundKeeps (.error f) := fun _ e => by cases e

theorem ite_roundKeeps {p : Prop} [Decidable p] {a b : Except FaultAt (TravOut ⊕ Walk)} (ha : RoundKeeps a)
    (hb : RoundKeeps b) : RoundKeeps (if p then a else b) := by
  split
  · exact ha
  · exact hb

theorem travNext_keeps (g : Machine.Group) (l : Nat) (d : TravDesc) (w : Walk) (h : Memory.wf s.mem = true) :
    RoundKeeps (s.travNext g l d w).2 := by
  unfold State.travNext
  split
  · exact roundKeeps_ok (walkKeeps_inl (closeWalk_wf _ _ _ h))
  · dsimp only
    rw [apply_ite Prod.snd]
    refine ite_roundKeeps (roundKeeps_ok (walkKeeps_inr _)) ?_
    dsimp only
    generalize s.travLoad g l _ _ = node
    cases node with
    | error f => exact roundKeeps_error f
    | ok m =>
      exact ite_roundKeeps (roundKeeps_ok (walkKeeps_inl (closeWalk_wf _ _ _ (wf_of_mem (nodePoison_mem _ _) h))))
        (ite_roundKeeps (roundKeeps_ok (walkKeeps_inl (closeWalk_wf _ _ _ h)))
          (roundKeeps_ok (visit_keeps _ _ _ _ _ _ h)))

theorem travLoop_keeps (g : Machine.Group) (l : Nat) (d : TravDesc) (n : Nat) (w : Walk) (h : Memory.wf s.mem = true) :
    RoundKeeps (s.travLoop g l d n w) := by
  induction n generalizing w with
  | zero => exact roundKeeps_ok (walkKeeps_inr _)
  | succ n ih =>
    have round := travNext_keeps g l d w h
    unfold State.travLoop
    split <;> simp only [*] at round
    · exact roundKeeps_error _
    · exact roundKeeps_ok (walkKeeps_inl (wf_of_mem (touchNode_mem _ _) (round _ rfl _ rfl)))
    · exact ih _

theorem travStep_keeps (g : Machine.Group) (l : Nat) (h : Memory.wf s.mem = true) : RoundKeeps (s.travStep g l) := by
  unfold State.travStep
  split
  · exact roundKeeps_ok (walkKeeps_inl h)
  · split
    · exact roundKeeps_error _
    · exact travLoop_keeps _ _ _ _ _ h

theorem travOp_keeps : LaneOp.Keeps travOp := fun s g l x hx h => by
  have lane := travStep_keeps g l h
  unfold travOp at hx
  dsimp only at hx
  split at hx <;> simp only [*] at lane
  · cases hx
  · cases hx; exact lane _ rfl _ rfl
  · cases hx; exact h

theorem execTravs_keepsForm (d : VReg) (h : Memory.wf s.mem = true) : KeepsForm (execTravs d s) :=
  issue_keepsForm h fun _ _ => ite_wf (runLanes_wf _ _ _ travOp_keeps h) h

theorem travCommit_wf (g : Machine.Group) (l : Nat) (t : Word) (h : Memory.wf s.mem = true) :
    Memory.wf (s.travCommit g l t).mem = true := by
  unfold State.travCommit
  dsimp only
  split
  · exact h
  · split
    · exact h
    · exact ite_wf (ite_wf (closeWalk_wf _ _ _ h) h) h

theorem execTravc_keepsForm (t : VReg) (h : Memory.wf s.mem = true) : KeepsForm (execTravc t s) :=
  issue_keepsForm h fun _ _ => foldl_wf (fun _ _ ht => travCommit_wf _ _ _ ht) _ h

theorem execTrave_keepsForm (h : Memory.wf s.mem = true) : KeepsForm (execTrave s) :=
  issue_keepsForm h fun _ _ => foldl_wf (fun _ _ ht => by
    split
    · exact ht
    · exact closeWalk_wf _ _ _ ht) _ h

/-! ### Graphics words -/

theorem startDraw_wf (g : Machine.Group) (c : Clause) (a : DWord) (b : List Byte) (n : Nat)
    (h : Memory.wf s.mem = true) : Memory.wf (s.startDraw g c a b n).2.mem = true := by
  unfold State.startDraw
  dsimp only
  split
  · exact watchRecord_wf _ _ _ h
  · exact watchRecord_wf _ _ _ h

theorem execDraw_keepsForm (d a n : SReg) (h : Memory.wf s.mem = true) : KeepsForm (execDraw d a n s) :=
  issue_keepsForm h fun _ _ => by
    refine ite_wf h (ite_wf (trap_wf _ _ _ _ h) (ite_wf (late_wf _ _ _ h) ?_))
    split
    · exact holdFault_wf _ _ _ _ h
    · exact ite_wf (trap_wf _ _ _ _ h) (startDraw_wf _ _ _ _ _ h)

theorem pixelStage_keepsForm {i : Instr} {m : Machine.Group → Clause → Mask}
    {k : Machine.Group → Clause → List Byte → State} (h : Memory.wf s.mem = true)
    (hk : ∀ g c b, Memory.wf (k g c b).mem = true) : KeepsForm (pixelStage i s m k) :=
  issue_keepsForm h fun g c => by
    refine ite_wf h ?_
    split
    · exact trapAt_wf _ _ _ _ _ h
    · exact hk _ _ _

theorem execVxemit_keepsForm (v a : VReg) (h : Memory.wf s.mem = true) : KeepsForm (execVxemit v a s) :=
  issue_keepsForm h fun g c => by
    refine ite_wf h ?_
    split
    · exact trapAt_wf _ _ _ _ _ h
    · exact ite_wf (trapAt_wf _ _ _ _ _ h) (ite_wf (holdFault_wf _ _ _ _ h) h)

theorem execPrimemit_keepsForm (v p : VReg) (h : Memory.wf s.mem = true) : KeepsForm (execPrimemit v p s) :=
  issue_keepsForm h fun g c => by
    refine ite_wf h ?_
    split
    · exact trapAt_wf _ _ _ _ _ h
    · exact ite_wf (trapAt_wf _ _ _ _ _ h) h

theorem execPxout_keepsForm (n : Fin 8) (a : VReg) (h : Memory.wf s.mem = true) : KeepsForm (execPxout n a s) :=
  pixelStage_keepsForm h fun _ _ _ => ite_wf h h

theorem execDepw_keepsForm (a : VReg) (h : Memory.wf s.mem = true) : KeepsForm (execDepw a s) :=
  pixelStage_keepsForm h fun _ _ _ => ite_wf (trapAt_wf _ _ _ _ _ h) h

theorem execDiscard_keepsForm (h : Memory.wf s.mem = true) : KeepsForm (execDiscard s) :=
  pixelStage_keepsForm h fun _ _ _ => ite_wf (trap_wf _ _ _ _ h) (exitLanes_wf _ _ h)

theorem execLinset_keepsForm (a : VReg) (h : Memory.wf s.mem = true) : KeepsForm (execLinset a s) :=
  issue_keepsForm h fun _ _ => ite_wf (trap_wf _ _ _ _ h) h

theorem storeRoom_mem {t : State} {cl : Nat} (ht : s.storeRoom cl = some t) : t.mem = s.mem := by
  unfold State.storeRoom at ht
  dsimp only at ht
  split at ht
  · cases ht; rfl
  · split at ht
    · cases ht; rfl
    · split at ht <;> cases ht
      rfl

theorem storeRecord_mem {t : State} {r : NodeRec} (ht : s.storeRecord r = some t) : t.mem = s.mem := by
  obtain ⟨u, hu, rfl⟩ := Option.map_eq_some_iff.mp ht
  exact (storeRoom_mem hu :)

@[simp] theorem sendRecords_mem (mk : Nat → NodeRec) (ls : List Nat) : (sendRecords mk ls s).1.mem = s.mem := by
  induction ls generalizing s with
  | nil => rfl
  | cons l ls ih =>
    unfold sendRecords
    split
    · next ht => exact ih.trans (storeRecord_mem ht)
    · rfl

theorem execWrec_keepsForm (n : SReg) (t a : VReg) (h : Memory.wf s.mem = true) : KeepsForm (execWrec n t a s) :=
  issue_keepsForm h fun g c => by
    refine ite_wf h ?_
    split
    · exact ite_wf (holdFault_wf _ _ _ _ h) (late_wf _ _ _ h)
    · refine ite_wf (trapAt_wf _ _ _ _ _ h) (ite_wf (holdFault_wf _ _ _ _ h) ?_)
      dsimp only
      split
      · next hs => exact wf_of_mem ((congrArg (fun p => p.1.mem) hs).symm.trans (sendRecords_mem _ _)) h
      · next hs => exact (wf_of_mem ((congrArg (fun p => p.1.mem) hs).symm.trans (sendRecords_mem _ _)) h :)

/-! ### WATCH and REPLAY -/

theorem arm_wf (w : Who) (n : Nat) (b : List Byte) (h : Memory.wf s.mem = true) :
    Memory.wf (s.arm w n b).mem = true := by
  refine ite_wf ?_ (getD_wf (fun _ ht => quietStore_wf ht ?_) ?_) <;> exact h

theorem execWatch_keepsForm (n a : SReg) (h : Memory.wf s.mem = true) : KeepsForm (execWatch n a s) :=
  issue_keepsForm h fun g c => by
    refine ite_wf h (ite_wf (trap_wf _ _ _ _ h) (ite_wf (trap_wf _ _ _ _ h) (ite_wf (late_wf _ _ _ h) ?_)))
    split
    · exact holdFault_wf _ _ _ _ h
    · exact ite_wf (trap_wf _ _ _ _ h) (arm_wf _ _ _ h)

@[simp] theorem startReplay_mem (g : Machine.Group) (c : Clause) (i : Instr) (d : SReg) (ta : DWord) (cap : Nat)
    (b : List Byte) (found : Option (List Byte)) (st : Option Nat) :
    (s.startReplay g c i d ta cap b found st).mem = s.mem := by
  unfold State.startReplay
  dsimp only
  split <;> rfl

theorem startReplay_wf (g : Machine.Group) (c : Clause) (i : Instr) (d : SReg) (ta : DWord) (cap : Nat)
    (b : List Byte) (found : Option (List Byte)) (st : Option Nat) (h : Memory.wf s.mem = true) :
    Memory.wf (s.startReplay g c i d ta cap b found st).mem = true := wf_of_mem (startReplay_mem _ _ _ _ _ _ _ _ _) h

theorem execReplay_keepsForm (d a : SReg) (h : Memory.wf s.mem = true) : KeepsForm (execReplay d a s) :=
  issue_keepsForm h fun g c => by
    refine ite_wf h (ite_wf (trap_wf _ _ _ _ h) (ite_wf (trap_wf _ _ _ _ h) (ite_wf h
      (ite_wf (late_wf _ _ _ h) (ite_wf (late_wf _ _ _ h) ?_)))))
    split
    · exact holdFault_wf _ _ _ _ h
    · exact holdFault_wf _ _ _ _ h
    · refine ite_wf h (ite_wf (trap_wf _ _ _ _ h) ?_)
      split
      · exact holdFault_wf _ _ _ _ h
      · exact startReplay_wf _ _ _ _ _ _ _ _ _ h
      · exact startReplay_wf _ _ _ _ _ _ _ _ _ h
      · exact startReplay_wf _ _ _ _ _ _ _ _ _ h

/-! ### Privileged words -/

theorem popHandler_wf (c : Nat) (h : Memory.wf s.mem = true) : Memory.wf (s.popHandler c).mem = true := by
  unfold State.popHandler
  dsimp only
  split
  · exact getD_wf (fun _ ht => enterHandler_wf ht h) h
  · exact h

theorem execEret_keepsForm (h : Memory.wf s.mem = true) : KeepsForm (execEret s) :=
  issue_keepsForm h fun _ _ =>
    ite_wf (trap_wf _ _ _ _ h) (checked_wf _ _ _ _ _ h (popHandler_wf _ h))

theorem withToken_wf (g : Machine.Group) (i : Instr) (d : SReg) {k : Nat → State → State}
    (h : Memory.wf s.mem = true) (hk : ∀ n t, Memory.wf t.mem = true → Memory.wf (k n t).mem = true) :
    Memory.wf (s.withToken g i d k).mem = true := by
  unfold State.withToken
  split
  · exact h
  · next ht => exact hk _ _ (wf_of_mem (takeToken_mem ht) h :)

theorem execCtxsave_keepsForm (d c a : SReg) (h : Memory.wf s.mem = true) : KeepsForm (execCtxsave d c a s) :=
  issue_keepsForm h fun _ _ => ite_wf (trap_wf _ _ _ _ h) (withToken_wf _ _ _ h fun _ _ ht => ht)

theorem execCtxload_keepsForm (d c a : SReg) (h : Memory.wf s.mem = true) : KeepsForm (execCtxload d c a s) :=
  issue_keepsForm h fun _ _ => ite_wf (trap_wf _ _ _ _ h) (withToken_wf _ _ _ h fun _ _ ht => ht)

theorem execOvtbl_keepsForm (c v : SReg) (h : Memory.wf s.mem = true) : KeepsForm (execOvtbl c v s) :=
  issue_keepsForm h fun _ _ => ite_wf (trap_wf _ _ _ _ h) h

theorem execTlbinv_keepsForm (d r : SReg) (h : Memory.wf s.mem = true) : KeepsForm (execTlbinv d r s) :=
  issue_keepsForm h fun _ _ => ite_wf (trap_wf _ _ _ _ h) (withToken_wf _ _ _ h fun _ _ ht => ht)

theorem execResfence_keepsForm (d c : SReg) (h : Memory.wf s.mem = true) : KeepsForm (execResfence d c s) :=
  issue_keepsForm h fun _ _ => ite_wf (trap_wf _ _ _ _ h) (withToken_wf _ _ _ h fun _ _ ht => ht)

theorem execPgattr_keepsForm (d r : SReg) (h : Memory.wf s.mem = true) : KeepsForm (execPgattr d r s) :=
  issue_keepsForm h fun _ _ => ite_wf (trap_wf _ _ _ _ h) (withToken_wf _ _ _ h fun _ _ ht => ht)

theorem execTlbinvComplete_keepsForm (c : Slot) (t : BitVec 8) (h : Memory.wf s.mem = true) :
    KeepsForm (execTlbinvComplete c t s) := by
  unfold execTlbinvComplete
  split
  · exact keepsForm_next h
  · exact keepsForm_next h

theorem execResfenceComplete_keepsForm (c : Slot) (t : BitVec 8) (h : Memory.wf s.mem = true) :
    KeepsForm (execResfenceComplete c t s) := by
  unfold execResfenceComplete
  split
  · exact keepsForm_next (foldl_wf (op := fun s n => s.modCluster n fun k => { k with filter := [] }) (fun _ _ ht => ht) _ h)
  · exact keepsForm_next h

theorem rekind_wf (a k : Nat) (h : Memory.wf s.mem = true) : Memory.wf (s.rekind a k).mem = true :=
  have kind := physWrite_wf _ _ h
  ite_wf kind (physWrite_wf _ _ kind)

theorem execPgattrComplete_keepsForm (c : Slot) (t : BitVec 8) (h : Memory.wf s.mem = true) :
    KeepsForm (execPgattrComplete c t s) := by
  unfold execPgattrComplete
  have finish : ∀ (t : State) (k : Nat) (b : Bool), Memory.wf t.mem = true →
      KeepsForm (.next ((t.endOp c.val k).resolveToken c.val k b)) := fun _ _ _ ht => keepsForm_next ht
  split
  · exact ite_keepsForm (finish _ _ _ (rekind_wf _ _ h)) (finish _ _ _ h)
  · exact keepsForm_next h

@[simp] theorem moveCluster_mem (n p : Nat) : (s.moveCluster n p).mem = s.mem := writeBack_mem _

theorem execAdmitCluster_keepsForm (r : SReg) (h : Memory.wf s.mem = true) : KeepsForm (execAdmitCluster r s) :=
  issue_keepsForm h fun _ _ => by
    refine ite_wf (trap_wf _ _ _ _ h) ?_
    dsimp only
    rw [state_modCluster_mem]
    exact ite_wf (wf_of_mem (moveCluster_mem _ _) h) h

@[simp] theorem reportDrops_mem (u n : Nat) : (s.reportDrops u n).mem = s.mem := by
  unfold State.reportDrops
  split <;> rfl

theorem popRas_mem {t : State} {r : Ras} (ht : s.popRas = some (r, t)) : t.mem = s.mem := by
  unfold State.popRas at ht
  split at ht
  · cases ht
  · cases ht; exact reportDrops_mem _ _

theorem execRaslog_keepsForm (d a : SReg) (h : Memory.wf s.mem = true) : KeepsForm (execRaslog d a s) :=
  issue_keepsForm h fun _ _ => by
    refine ite_wf (trap_wf _ _ _ _ h) ?_
    split
    · exact h
    · next ht =>
      have popped := wf_of_mem (popRas_mem ht) h
      rw [state_modGroup_mem]
      exact physWrite_wf _ _ popped

end Sys2Proof.Proofs
end

section
/-! Memory stays canonical: clauses, service kernels, placement and saving of blocks, contexts. -/

namespace Sys2Proof.Proofs

open Sys2Proof.Machine Sys2Proof.Laws

variable {s : State}

theorem foldl_mem {α : Type} {op : State → α → State} (hop : ∀ s x, (op s x).mem = s.mem) (l : List α) (s : State) :
    (l.foldl op s).mem = s.mem := foldl_keeps State.mem op hop l s

/-! ### Flags and groups -/

theorem execFlagClear_keepsForm (u : Nat) (f : Fin 12) (h : Memory.wf s.mem = true) :
    KeepsForm (execFlagClear u f s) := by
  unfold execFlagClear
  split
  · exact keepsForm_next h
  · exact ite_keepsForm (keepsForm_next h) (keepsForm_next h)

theorem execGroupRetire_keepsForm (u : Nat) (h : Memory.wf s.mem = true) : KeepsForm (execGroupRetire u s) := by
  unfold execGroupRetire
  split
  · exact keepsForm_next h
  · next g _ =>
    have left := exitLanes_wf u g.live h
    refine ite_keepsForm ?_ (keepsForm_next h)
    dsimp only
    split
    · exact keepsForm_next left
    · exact ite_keepsForm (keepsForm_next left) (keepsForm_next (wf_of_mem (finishBlock_mem _) left))

/-! ### Clauses -/

theorem stopPath_wf (g : Machine.Group) (m : Mask) (a : DWord) (e : ClauseStop) (h : Memory.wf s.mem = true) :
    Memory.wf (s.stopPath g m a e).mem = true := getD_wf (fun _ ht => raise_wf ht h) h

theorem deliverLate_wf (u n : Nat) (h : Memory.wf s.mem = true) : Memory.wf (s.deliverLate u n).mem = true := by
  induction n generalizing s with
  | zero => exact h
  | succ n ih =>
    unfold State.deliverLate
    split
    · exact h
    · split
      · exact h
      · split
        · exact h
        · dsimp only
          split
          · exact h
          · next ht => exact ih (deliver_wf ht h :)

@[simp] theorem pinLine_mem (w : Who) (k a : DWord) : (s.pinLine w k a).mem = s.mem := by
  unfold State.pinLine
  split
  · exact ite_mem rfl rfl
  · rfl

@[simp] theorem startClause_mem (g : Machine.Group) (m : Mask) (d : Decoded) : (s.startClause g m d).mem = s.mem := by
  unfold State.startClause
  dsimp only
  have begun : ∀ (t : State) (w : Who) (v : Nat), t.mem = s.mem → (((clauseLines d.clause).foldl (fun s a =>
      s.pinLine w (s.taskOfGroup g).kaddr a) t).touch w v false).mem = s.mem := fun t w v ht =>
    (touch_mem _ _ _ _).trans ((foldl_mem (fun s a => pinLine_mem w _ a) _ t).trans ht)
  refine ite_mem ?_ ?_
  · exact begun _ _ _ rfl
  · exact begun _ _ _ rfl

@[simp] theorem startAgain_mem (g : Machine.Group) (o : LateOp) (c : Clause) (ts : List (Nat × Regs)) (m : Mask) :
    (s.startAgain g o c ts m).mem = s.mem := by
  unfold State.startAgain
  dsimp only
  split <;> rfl

theorem serviceFault_wf (g : Machine.Group) (m : Mask) (pc : DWord) (f : FaultAt) (h : Memory.wf s.mem = true) :
    Memory.wf (s.serviceFault g m pc f).mem = true := by
  unfold State.serviceFault
  split
  · exact h
  · next ht => exact (fileRecord_wf ht h :)

theorem taskDone_wf (t : ServiceTask) (st : Status) (b : List Byte) (h : Memory.wf s.mem = true) :
    Memory.wf (s.taskDone t st b).mem = true := wf_of_mem (respond_mem _ _ _ _ _) h

theorem serviceReplay_wf (t : ServiceTask) (g : Machine.Group) (m : Mask) (pc ra ta : DWord)
    (h : Memory.wf s.mem = true) : Memory.wf (s.serviceReplay t g m pc ra ta).mem = true := by
  have begun : ∀ c b (found : Option (List Byte)) st,
      Memory.wf (((s.setGroup (g.setFlag 0)).startReplay (g.setFlag 0) (serviceClause pc m) (.replay 0 2) 0 ta c b found
        st).exitLanes g.uid m).mem = true := fun _ _ _ _ => exitLanes_wf _ _ (startReplay_wf _ _ _ _ _ _ _ _ _ h)
  unfold State.serviceReplay
  dsimp only
  split
  · exact serviceFault_wf _ _ _ _ h
  · exact serviceFault_wf _ _ _ _ h
  · refine ite_wf (exitLanes_wf _ _ (taskDone_wf _ _ _ h)) ?_
    split
    · exact serviceFault_wf _ _ _ _ h
    · exact begun _ _ _ _
    · exact begun _ _ _ _
    · exact begun _ _ _ _

theorem runService_wf (t : ServiceTask) (g : Machine.Group) (m : Mask) (pc : DWord) (h : Memory.wf s.mem = true) :
    Memory.wf (s.runService t g m pc).mem = true := by
  unfold State.runService
  split
  · exact exitLanes_wf _ _ (taskDone_wf _ _ _ (arm_wf _ _ _ h))
  · exact serviceReplay_wf _ _ _ _ _ _ h

theorem execClauseBegin_keepsForm (u l : Nat) (h : Memory.wf s.mem = true) : KeepsForm (execClauseBegin u l s) := by
  unfold execClauseBegin
  split
  · exact keepsForm_next h
  · refine ite_keepsForm (keepsForm_next h) ?_
    extract_lets m pc src w entry
    clear_value entry
    split
    · exact keepsForm_next (runService_wf _ _ _ _ h)
    · refine ite_keepsForm (keepsForm_next (deliverLate_wf _ _ h)) ?_
      split
      · exact keepsForm_next (wf_of_mem (startAgain_mem _ _ _ _ _) h)
      · cases entry with
        | some e => exact keepsForm_next (stopPath_wf _ _ _ _ h)
        | none =>
          dsimp only
          split
          · exact keepsForm_next (stopPath_wf _ _ _ _ h)
          · refine ite_keepsForm (keepsForm_next h) ?_
            split
            · exact keepsForm_next (stopPath_wf _ _ _ _ h)
            · exact ite_keepsForm (keepsForm_next h) (keepsForm_next (wf_of_mem (startClause_mem _ _ _) h))

@[simp] theorem traceInstr_mem (g : Machine.Group) (c : Clause) (i : Instr) : (s.traceInstr g c i).mem = s.mem := by
  unfold State.traceInstr
  split
  · exact ite_mem rfl rfl
  · rfl

theorem endClause_wf (u : Nat) (h : Memory.wf s.mem = true) : Memory.wf (s.endClause u).mem = true := by
  unfold State.endClause
  split
  · exact h
  · split
    · exact h
    · exact joinDead_wf _ (wf_of_mem ((settlePaths_mem _).trans (settleGen_mem _)) (deliverLate_wf _ _ h))

theorem finishInstr_wf (g : Machine.Group) (c : Clause) (i : Instr) (n : Nat) (h : Memory.wf s.mem = true) :
    Memory.wf (s.finishInstr g c i n).mem = true := by
  unfold State.finishInstr
  dsimp only
  split
  · exact h
  · refine ite_wf h (ite_wf h ?_)
    have traced : Memory.wf ((s.modGroup g.uid fun x => s.fairTick x c).traceInstr g c i).mem = true :=
      wf_of_mem (traceInstr_mem _ _ _) h
    generalize (s.modGroup g.uid fun x => s.fairTick x c).traceInstr g c i = t at traced ⊢
    have drained : ∀ {p : Prop} [Decidable p] f, Memory.wf (if p then t.writeBack f else t).mem = true := fun _ =>
      ite_wf (wf_of_mem (writeBack_mem _) traced) traced
    exact ite_wf (drained _) (endClause_wf _ (drained _))

theorem execFairnessTimer_keepsForm (u : Nat) (h : Memory.wf s.mem = true) : KeepsForm (execFairnessTimer u s) := by
  unfold execFairnessTimer
  split
  · exact keepsForm_next h
  · exact ite_keepsForm (keepsForm_next h) (keepsForm_next h)

/-! ### Placement -/

@[simp] theorem xallsIn_mem (v : Saved) (b : List Byte) : (s.xallsIn v b).mem = s.mem := by
  unfold State.xallsIn
  dsimp only
  refine foldl_mem (fun _ _ => ?_) _ s
  exact ite_mem rfl (ite_mem rfl rfl)

@[simp] theorem seat_mem (g : Machine.Group) : (s.seat g).mem = s.mem := settlePaths_mem _

@[simp] theorem newGroups_mem (b : Block) (gr : Grid) (l : List (Nat × Nat × Nat)) : (s.newGroups b gr l).mem = s.mem := by
  refine foldl_mem (fun _ _ => ?_) _ s
  exact seat_mem _

@[simp] theorem dispatch_mem (gr : Grid) : (s.dispatch gr).mem = s.mem := ite_mem rfl rfl

@[simp] theorem placeBlock_mem (g bid r cl : Nat) (sp : Spots) : (s.placeBlock g bid r cl sp).mem = s.mem := by
  unfold State.placeBlock
  split
  · rfl
  · dsimp only
    rw [newGroups_mem]
    split <;> exact dispatch_mem _

@[simp] theorem restore_mem (b : Saved) (cl : Nat) (sp : Spots) : (s.restore b cl sp).mem = s.mem := by
  have seated := foldl_mem (fun s g => seat_mem (s := s) g)
  have parked := foldl_mem (fun (s : State) (g : Machine.Group) => repark_mem (s := s) g.uid)
  have joined := foldl_mem (fun (s : State) (x : Xall) =>
    (rfl : (s.register { x with cluster := cl, core := b.coreAt sp x.core }).mem = s.mem))
  exact (parked _ _).trans ((joined _ _).trans (seated _ _))

@[simp] theorem placeEntry_mem (e : QEntry) (cl : Nat) (sp : Spots) : (s.placeEntry e cl sp).mem = s.mem := by
  unfold State.placeEntry
  split
  · dsimp only
    rw [placeBlock_mem]
    exact ite_mem rfl rfl
  · exact placeBlock_mem _ _ _ _ _
  · exact restore_mem _ _ _

@[simp] theorem preempt_mem (bs : List Block) (w : Preempt) : (s.preempt bs w).mem = s.mem := by
  refine foldl_mem (fun _ _ => ?_) _ _
  rfl

@[simp] theorem displace_mem (e : QEntry) (n : TaskRec × Option (List Nat)) : (s.displace e n).mem = s.mem := by
  unfold State.displace
  refine ite_mem rfl ?_
  dsimp only
  split
  · rfl
  · split
    · exact preempt_mem _ _
    · rfl

@[simp] theorem placeHead_mem (edge : Option Nat) (p : Nat) : (s.placeHead edge p).mem = s.mem := by
  unfold State.placeHead
  split
  · rfl
  · split
    · rfl
    · refine ite_mem rfl ?_
      split
      · exact placeEntry_mem _ _ _
      · exact ite_mem (displace_mem _ _) rfl

/-! ### Saving blocks -/

@[simp] theorem removeSaved_mem (v : Saved) : (s.removeSaved v).mem = s.mem := by
  refine (foldl_mem (op := State.withdraw) (fun _ _ => rfl) _ _).trans (foldl_mem (fun _ _ => ?_) _ s)
  rfl

@[simp] theorem countArea_mem (p : Nat) : (s.countArea p).mem = s.mem := ite_mem rfl rfl

theorem writeArea_wf (p : Nat) (h : Memory.wf s.mem = true) : Memory.wf (s.writeArea p).mem = true :=
  wf_of_mem (countArea_mem _) (physWrite_wf _ _ h)

theorem execBlockSave_keepsForm (b : Nat) (h : Memory.wf s.mem = true) : KeepsForm (execBlockSave b s) := by
  unfold execBlockSave
  split
  · refine ite_keepsForm (keepsForm_next h) ?_
    have removed : ∀ v e, Memory.wf ((s.removeSaved v).requeue e).mem = true := fun _ _ => wf_of_mem (removeSaved_mem _) h
    refine ite_keepsForm (keepsForm_next (wf_of_mem (openGate_mem _ _) (removed _ _)))
      (ite_keepsForm (keepsForm_next (wf_of_mem (openGate_mem _ _) (writeArea_wf _ (removed _ _)))) ?_)
    exact keepsForm_next (wf_of_mem (openGate_mem _ _) (ite_wf (wf_of_mem (kill_mem _ _ _) h) h))
  · exact keepsForm_next h

theorem execPixelWatchdog_keepsForm (u : Nat) (h : Memory.wf s.mem = true) : KeepsForm (execPixelWatchdog u s) := by
  unfold execPixelWatchdog
  split
  · exact keepsForm_next h
  · exact ite_keepsForm (keepsForm_next h) (keepsForm_next h)

theorem execContinuationSpawn_keepsForm (n : Nat) (h : Memory.wf s.mem = true) :
    KeepsForm (execContinuationSpawn n s) := by
  unfold execContinuationSpawn
  split
  · exact keepsForm_next h
  · split
    · exact keepsForm_next h
    · refine ite_keepsForm (keepsForm_next h) ?_
      split
      · exact keepsForm_next h
      · exact keepsForm_next (wf_of_mem (seat_mem _) h)

/-! ### Control intervals and display heads -/

@[simp] theorem boundary_mem (n : Nat) : (s.boundary n).mem = s.mem := by
  unfold State.boundary
  dsimp only
  split
  · rfl
  · exact ite_mem (placeHead_mem _ _) rfl

theorem execControlInterval_keepsForm (cl : Fin 8) (m : List (Nat × Nat)) (h : Memory.wf s.mem = true) :
    KeepsForm (execControlInterval cl m s) := by
  have metered := wf_of_mem (foldl_mem (fun s e => (rfl : (State.meter s cl.val e.1 e.2).mem = s.mem)) m s) h
  refine keepsForm_next (wf_of_mem (boundary_mem _) (ite_wf ?_ ?_))
  · exact wf_of_mem (logRas_mem _ _) metered
  · exact metered

theorem execLeadTime_keepsForm (i : Fin 4) (h : Memory.wf s.mem = true) : KeepsForm (execLeadTime i s) := by
  refine ite_keepsForm (keepsForm_next h) ?_
  refine keepsForm_next (wf_of_mem (preempt_mem _ _) ?_)
  refine wf_of_mem (foldl_mem ?_ _ _) ?_
  · exact fun _ _ => rfl
  split
  · next ht => exact enqueue1_wf ht h
  · exact h

theorem execDeadline_keepsForm (i : Fin 4) (h : Memory.wf s.mem = true) : KeepsForm (execDeadline i s) :=
  ite_keepsForm (keepsForm_next h) (keepsForm_next h)

/-! ### Contexts -/

theorem flushRoutes_wf (c : Nat) (h : Memory.wf s.mem = true) : Memory.wf (s.flushRoutes c).mem = true :=
  foldl_wf (fun _ _ ht => by
    split
    · exact writeDesc_wf _ _ _ _ ht
    · exact ht) _ h

@[simp] theorem dropContext_mem (c : Nat) : (s.dropContext c).mem = s.mem := by
  unfold State.dropContext
  dsimp only
  refine (foldl_mem (fun _ _ => countArea_mem _) _ _).trans ?_
  dsimp only
  refine (foldl_mem (fun _ _ => ?_) _ _).trans (foldl_mem (fun _ _ => scrap_mem _) _ s)
  rfl

theorem execContextSaveComplete_keepsForm (c : Slot) (h : Memory.wf s.mem = true) :
    KeepsForm (execContextSaveComplete c s) := by
  unfold execContextSaveComplete
  extract_lets n x done
  have finished : ∀ t : State, Memory.wf t.mem = true → KeepsForm (.next (done t)) := fun t ht => by
    have dropped := wf_of_mem (dropContext_mem (s := t) n) ht
    refine keepsForm_next ?_
    dsimp only [done]
    have paid : ∀ o : Option (Nat × Nat), Memory.wf (match o with
        | some (k, m) => (t.dropContext n).resolveToken k m false
        | none => t.dropContext n).mem = true := fun o => by
      cases o with
      | none => exact dropped
      | some p => rw [resolveToken_mem]; exact dropped
    cases x.asked with
    | none => exact paid _
    | some q => rw [respond_mem]; exact paid _
  refine ite_keepsForm (keepsForm_next h) (ite_keepsForm (keepsForm_next h) (ite_keepsForm ?_ ?_))
  · exact finished _ (flushRoutes_wf _ h)
  · refine finished _ ?_
    dsimp only
    exact physWrite_wf _ _ (flushRoutes_wf _ h)

@[simp] theorem loadBlocks_mem (c p : Nat) (bs : List (List Byte)) (vs : List Saved) :
    (s.loadBlocks c p bs vs).mem = s.mem := by
  induction bs generalizing s vs with
  | nil => rfl
  | cons b bs ih =>
    unfold State.loadBlocks
    dsimp only
    refine (ih _).trans ?_
    split
    · exact xallsIn_mem _ _
    · rfl

theorem loadTasks_wf (c p : Nat) (bs : List (List Byte)) (gs : List Grid) (h : Memory.wf s.mem = true) :
    Memory.wf (s.loadTasks c p bs gs).mem = true := by
  induction bs generalizing s gs with
  | nil => exact h
  | cons b bs ih =>
    unfold State.loadTasks
    refine ih _ ?_
    split
    · exact h
    · exact takeTask_wf _ _ _ _ h

theorem loadImage_wf (c : Nat) (im : SavedImage) (ts bs : List (List Byte)) (h : Memory.wf s.mem = true) :
    Memory.wf (s.loadImage c im ts bs).mem = true := by
  refine wf_of_mem (loadBlocks_mem _ _ _ _) (loadTasks_wf _ _ _ _ (foldl_wf (fun t e ht => ?_) _ ?_))
  · exact getD_wf (fun _ hu => wf_of_mem (storeRecord_mem hu) ht) ht
  · exact h

theorem execContextLoadComplete_keepsForm (c : Slot) (h : Memory.wf s.mem = true) :
    KeepsForm (execContextLoadComplete c s) := by
  refine ite_keepsForm (keepsForm_next h) ?_
  dsimp only
  have loaded : ∀ (t : State) (o : Option (Nat × Nat)), Memory.wf t.mem = true →
      Memory.wf (match o with
        | some (k, n) => t.resolveToken k n false
        | none => t).mem = true := fun t o ht => by
    split <;> exact ht
  split
  · exact keepsForm_next (wf_of_mem (respond_mem _ _ _ _ _) (loaded _ _ (loadImage_wf _ _ _ _ h)))
  · exact keepsForm_next (loaded _ _ (loadImage_wf _ _ _ _ h))

end Sys2Proof.Proofs
end

section
/-! Memory stays canonical: fixed units, renders, retirement of fragments, the end of a replay. -/

namespace Sys2Proof.Proofs

open Sys2Proof.Machine Sys2Proof.Laws

variable {s : State}

/-! ### The work of fixed units -/

/-- What a step of a fixed unit leaves, when no fault stops it. -/
def Leaves {α : Type} (m : Fixed α) (P : α → Prop) : Prop := ∀ k x, m k = .ok x → P x.1

section
variable {α β : Type} {P : α → Prop} {Q : β → Prop}

theorem leaves_pure {x : α} (h : P x) : Leaves (pure x) P := fun _ _ e => by cases e; exact h

theorem leaves_true (m : Fixed α) : Leaves m fun _ => True := fun _ _ _ => trivial

theorem leaves_bind {m : Fixed α} {f : α → Fixed β} (hm : Leaves m P) (hf : ∀ x, P x → Leaves (f x) Q) :
    Leaves (m >>= f) Q := fun k x hx => by
  change (m k >>= fun y => f y.1 y.2) = .ok x at hx
  cases hk : m k with
  | error e => rw [hk] at hx; cases hx
  | ok y => rw [hk] at hx; exact hf y.1 (hm k y hk) y.2 x hx

/-- A step goes on whatever its first part, which changes no state, has read. -/
theorem leaves_read {m : Fixed α} {f : α → Fixed β} (hf : ∀ x, Leaves (f x) Q) : Leaves (m >>= f) Q :=
  leaves_bind (leaves_true m) fun x _ => hf x

theorem leaves_ite {c : Prop} [Decidable c] {a b : Fixed α} (ha : Leaves a P) (hb : Leaves b P) :
    Leaves (if c then a else b) P := by
  split
  · exact ha
  · exact hb

theorem leaves_foldlM {f : α → β → Fixed α} (hf : ∀ x y, P x → Leaves (f x y) P) (l : List β) {x : α} (hx : P x) :
    Leaves (l.foldlM f x) P := by
  induction l generalizing x with
  | nil => exact leaves_pure hx
  | cons y l ih => rw [List.foldlM_cons]; exact leaves_bind (hf x y hx) fun z hz => ih hz

end

/-- A state whose memory is in its canonical form. -/
def Formed (s : State) : Prop := Memory.wf s.mem = true

theorem formed_of_mem {t : State} (ht : t.mem = s.mem) (h : Formed s) : Formed t := wf_of_mem ht h

theorem fixWrite_leaves (d : Draw) (a : Nat) (b : List Byte) (h : Formed s) : Leaves (s.fixWrite d a b) Formed :=
    fun k x hx => by
  unfold State.fixWrite at hx
  split at hx
  · cases hx; exact h
  · split at hx
    · cases hx; exact perform_wf _ _ h
    · cases hx

theorem fixedFault_wf (d : Draw) (j : FixedJob) (f : FaultAt) (n : Nat) (h : Memory.wf s.mem = true) :
    Memory.wf (s.fixedFault d j f n).mem = true := by
  unfold State.fixedFault
  dsimp only
  split
  · next ht => exact fileRecord_wf ht h
  · exact h

theorem fixedStep_wf (d : Draw) (j : FixedJob) {f : Draw → Fixed State} (hf : ∀ d, Leaves (f d) Formed)
    (h : Memory.wf s.mem = true) : Memory.wf (s.fixedStep d j f).mem = true := by
  unfold State.fixedStep
  refine ite_wf h ?_
  split
  · exact fixedFault_wf _ _ _ _ h
  · next ht => exact ite_wf h (hf _ _ _ ht)

/-! ### The bin stage -/

@[simp] theorem dropDraw_mem (u : Nat) : (s.dropDraw u).mem = s.mem := rfl

theorem clearHeads_leaves (d : Draw) (h : Formed s) : Leaves (s.clearHeads d) Formed :=
  leaves_foldlM (fun _ _ ht => fixWrite_leaves _ _ _ ht) _ h

theorem initParams_leaves (d : Draw) (h : Formed s) : Leaves (s.initParams d) Formed :=
  leaves_bind (fixWrite_leaves _ _ _ h) fun _ ht => clearHeads_leaves _ ht

theorem setupPrim_wf (d : Draw) (n : Nat) (h : Memory.wf s.mem = true) : Memory.wf (s.setupPrim d n).mem = true := by
  unfold State.setupPrim
  dsimp only
  refine ite_wf h ?_
  rw [state_modDraw_mem]
  exact ite_wf (watchRecord_wf _ _ _ h) h

theorem setupPrims_wf (d : Draw) (h : Memory.wf s.mem = true) : Memory.wf (s.setupPrims d).mem = true :=
  foldl_wf (fun _ _ ht => setupPrim_wf _ _ ht) _ h

/-- Whether a tile takes the entry or not, memory keeps its form. -/
theorem binTile_leaves (d : Draw) (p t : Nat) (h : Formed s) :
    Leaves (s.binTile d p t) fun o => ∀ u, o = some u → Formed u :=
  leaves_read fun _ => leaves_read fun _ => leaves_ite (leaves_pure fun _ e => by cases e) (leaves_read fun _ =>
    leaves_bind (fixWrite_leaves _ _ _ h) fun _ h => leaves_bind (fixWrite_leaves _ _ _ h) fun _ h =>
      leaves_bind (fixWrite_leaves _ _ _ h) fun _ h => leaves_pure fun _ e => by cases e; exact h)

theorem binTiles_leaves (d : Draw) (p : Nat) (ts : List Nat) (h : Formed s) :
    Leaves (State.binTiles d p ts s) fun x => Formed x.1 := by
  induction ts generalizing s with
  | nil => exact leaves_pure h
  | cons t ts ih =>
    unfold State.binTiles
    refine leaves_bind (binTile_leaves d p t h) fun o ho => ?_
    cases o with
    | none => exact leaves_pure h
    | some u => exact ih (ho u rfl)

theorem binPrims_leaves (d : Draw) (ps : List (Nat × List Nat)) (h : Formed s) :
    Leaves (State.binPrims d ps s) fun x => Formed x.1 := by
  induction ps generalizing s with
  | nil => exact leaves_pure h
  | cons p ps ih =>
    obtain ⟨p, ts⟩ := p
    unfold State.binPrims
    refine leaves_bind (binTiles_leaves d p ts h) fun x hx => ?_
    obtain ⟨t, left⟩ := x
    cases left with
    | nil => exact ih hx
    | cons _ _ => exact leaves_pure hx

theorem binStep_leaves (d : Draw) (h : Formed s) : Leaves (s.binStep d) Formed := by
  unfold State.binStep
  extract_lets ready default_ stage t
  refine leaves_ite (leaves_pure h) ?_
  have ht : Formed t := by
    simp only [t]
    split <;> exact h
  split
  · exact leaves_pure ht
  · exact leaves_bind (initParams_leaves _ ht) fun _ hu => leaves_pure (setupPrims_wf _ hu)
  · refine leaves_ite (leaves_pure ht) (leaves_ite (leaves_pure ht) (leaves_ite ?_
      (leaves_ite (leaves_pure ht) (leaves_pure ht))))
    refine leaves_bind (binPrims_leaves _ _ ht) fun x hx => ?_
    obtain ⟨u, left⟩ := x
    cases left <;> exact leaves_pure hx

theorem execBinStage_keepsForm (w : Nat) (h : Memory.wf s.mem = true) : KeepsForm (execBinStage w s) := by
  unfold execBinStage
  split
  · exact keepsForm_next h
  · exact keepsForm_next (fixedStep_wf _ _ (fun _ => binStep_leaves _ h) h)

/-! ### Rasterisation and resolve -/

theorem visPrim_leaves (d : Draw) (t : Nat) (p : Prim) (h : Formed s) : Leaves (s.visPrim d t p) Formed :=
  leaves_foldlM (fun _ _ ht => leaves_ite (leaves_pure ht) (leaves_read fun _ =>
    leaves_ite (fixWrite_leaves _ _ _ ht) (leaves_pure ht))) _ h

theorem rastered_prim_leaves (d : Draw) (t n : Nat) (acc : Rastered × List Frag) (h : Formed acc.1.state) :
    Leaves (Rastered.prim d t acc n) fun x => Formed x.1.state :=
  leaves_ite (leaves_ite (leaves_bind (visPrim_leaves _ _ _ h) fun _ ht => leaves_pure ht) (leaves_pure h))
    (leaves_read fun _ => leaves_pure h)

theorem rastered_tile_leaves (d : Draw) (cap t : Nat) (r : Rastered) (h : Formed r.state) :
    Leaves (Rastered.tile d cap r t) fun x => Formed x.state :=
  leaves_read fun _ => leaves_bind (leaves_foldlM (P := fun x : Rastered × List Frag => Formed x.1.state)
    (fun _ _ ht => rastered_prim_leaves _ _ _ _ ht) _ h) fun _ hx => leaves_pure hx

@[simp] theorem launchPixels_mem (d : Draw) (bs : List (List (Option Frag))) : (s.launchPixels d bs).2.mem = s.mem := by
  unfold State.launchPixels
  split <;> rfl

theorem fragRecord_wf (d : Draw) (f : Frag) (ls : List LodLoad) (r : Nat) (p : Bool) (w : Word)
    (b a : Nat → List Byte) (h : Memory.wf s.mem = true) : Memory.wf (s.fragRecord d f ls r p w b a).mem = true :=
  watchRecord_wf _ _ _ h

theorem culledRecord_wf (d : Draw) (c : Culled) (h : Memory.wf s.mem = true) :
    Memory.wf (s.culledRecord d c).mem = true := fragRecord_wf _ _ _ _ _ _ _ _ h

theorem flushCulled_wf (u : Nat) (h : Memory.wf s.mem = true) : Memory.wf (s.flushCulled u).mem = true := by
  unfold State.flushCulled
  split
  · exact h
  · exact foldl_wf (fun _ _ ht => culledRecord_wf _ _ ht) _ h

theorem foldl_launchSoft_mem (d : Draw) (ns : List Nat) (acc : List Nat × State) :
    (ns.foldl (fun (acc : List Nat × State) n =>
      let (h, s) := acc.2.launchSoft d n
      (acc.1 ++ h, s)) acc).2.mem = acc.2.mem := by
  induction ns generalizing acc with
  | nil => rfl
  | cons n ns ih => exact ih _

theorem startRender_leaves (d : Draw) (f : Bool) (h : Formed s) : Leaves (s.startRender d f) Formed := by
  refine leaves_read fun _ => leaves_bind (leaves_foldlM (P := fun r : Rastered => Formed r.state)
    (fun _ _ ht => rastered_tile_leaves _ _ _ _ ht) _ h) fun r hr => leaves_pure (flushCulled_wf _ ?_)
  rw [state_modDraw_mem]
  exact wf_of_mem ((foldl_launchSoft_mem _ _ _).trans (launchPixels_mem _ _)) hr

theorem resolveTile_leaves (d : Draw) (acc : State × List (List (Option Frag))) (t : Nat) (h : Formed acc.1) :
    Leaves (State.resolveTile d acc t) fun x => Formed x.1 := by
  unfold State.resolveTile
  dsimp only
  refine leaves_bind (P := fun x : State × List (Option Frag) => Formed x.1) (leaves_foldlM (fun x k hx => ?_) _ h)
    fun x hx => leaves_pure hx
  exact leaves_ite (leaves_pure hx) (leaves_read fun _ => leaves_ite (leaves_pure hx) (leaves_ite
    (leaves_bind (fixWrite_leaves _ _ _ hx) fun _ ht => leaves_pure ht) (leaves_pure hx)))

theorem startResolve_leaves (d : Draw) (r : Render) (h : Formed s) : Leaves (s.startResolve d r) Formed :=
  leaves_ite (leaves_pure h) (leaves_bind (leaves_foldlM (P := fun x : State × List (List (Option Frag)) => Formed x.1)
    (fun _ _ ht => resolveTile_leaves _ _ _ ht) _ h) fun _ hx => leaves_pure
      (formed_of_mem (launchPixels_mem _ _) hx :))

@[simp] theorem arrive_mem (b : Option Nat) : (s.arrive b).mem = s.mem := by
  cases b <;> rfl

theorem endRender_leaves (d : Draw) (r : Render) (h : Formed s) : Leaves (s.endRender d r) Formed :=
  leaves_bind (fixWrite_leaves _ _ _ h) fun _ h => leaves_bind (clearHeads_leaves _ h) fun _ h =>
    leaves_ite (leaves_pure h) (leaves_read fun _ => leaves_bind (fixWrite_leaves _ _ _ h) fun _ h =>
      leaves_pure (formed_of_mem ((arrive_mem _).trans (writeBack_mem _)) h))

theorem dropGridList_mem (us : List Nat) : (us.foldl State.dropGrid s).mem = s.mem :=
  foldl_mem (op := State.dropGrid) (fun _ _ => rfl) _ s

theorem goRender_leaves (d : Draw) (r : Render) (h : Formed s) : Leaves (s.goRender d r) Formed := by
  have gone : Formed ((r.grids.foldl State.dropGrid s).flushCulled d.uid) :=
    flushCulled_wf _ (wf_of_mem (dropGridList_mem _) h)
  refine leaves_ite (leaves_pure h) (leaves_ite (endRender_leaves _ _ gone)
    (leaves_bind (startResolve_leaves _ _ gone) fun t ht => ?_))
  split
  · exact leaves_ite (leaves_pure ht) (endRender_leaves _ _ ht)
  · exact leaves_pure ht

@[simp] theorem passRender_mem (d : Draw) (f : Bool) : (s.passRender d f).mem = s.mem := ite_mem rfl (arrive_mem _)

theorem renderStep_leaves (f : Bool) (due : Draw → Bool) (d : Draw) (h : Formed s) :
    Leaves (s.renderStep f due d) Formed := by
  unfold State.renderStep
  split
  · exact leaves_ite (goRender_leaves _ _ h) (leaves_pure h)
  · exact leaves_ite (leaves_pure h) (leaves_ite (leaves_pure (formed_of_mem (passRender_mem _ _) h))
      (startRender_leaves _ _ h))

theorem execPartialRender_keepsForm (w : Nat) (h : Memory.wf s.mem = true) : KeepsForm (execPartialRender w s) := by
  unfold execPartialRender
  split
  · exact keepsForm_next h
  · exact keepsForm_next (fixedStep_wf _ _ (fun _ => renderStep_leaves _ _ _ h) h)

theorem execFinalRender_keepsForm (w : Nat) (h : Memory.wf s.mem = true) : KeepsForm (execFinalRender w s) := by
  unfold execFinalRender
  split
  · exact keepsForm_next h
  · exact keepsForm_next (fixedStep_wf _ _ (fun _ => renderStep_leaves _ _ _ h) h)

/-! ### Retirement of fragments -/

theorem storeDepth_leaves (d : Draw) (f : Frag) (h : Formed s) : Leaves (s.storeDepth d f) Formed :=
  leaves_bind (fixWrite_leaves _ _ _ h) fun _ h => leaves_ite (leaves_pure h)
    (leaves_read fun _ => fixWrite_leaves _ _ _ h)

theorem retireFrag_leaves (d : Draw) (f : Frag) (ls : List LodLoad) (h : Formed s) :
    Leaves (s.retireFrag d f ls) Formed := by
  unfold State.retireFrag
  extract_lets watched ovt rest
  have kept : ∀ z, Leaves (rest z) Formed := fun z => by
    dsimp only [rest]
    refine leaves_read fun ts => ?_
    have written : ∀ (t : State) (out : Nat → Bool) (c : Bool) (pass : Bool) (after : Nat → List Byte) (r : Nat)
        (w : Nat) (bs : List Byte), Formed t → Leaves (do
          let t ← ((List.range (sbNtgt d.sb)).filter out).foldlM
            (fun s n => s.fixWrite d (sbPixAt d.sb n f.x f.y) (after n)) t
          let t := t.fragRecord d f ls r pass z (tget [] ts) after
          if c then t.fixWrite d w bs else return t) Formed := fun t out c pass after r w bs ht =>
      leaves_bind (leaves_foldlM (fun _ _ hu => fixWrite_leaves _ _ _ hu) _ ht) fun u hu =>
        have recorded := fragRecord_wf _ _ _ _ _ _ _ _ hu
        leaves_ite (fixWrite_leaves _ _ _ recorded) (leaves_pure recorded)
    exact leaves_ite (leaves_bind (storeDepth_leaves _ _ h) fun _ ht => written _ _ _ _ _ _ _ _ ht)
      (leaves_bind (leaves_pure h) fun _ ht => written _ _ _ _ _ _ _ _ ht)
  exact leaves_ite (leaves_read fun _ => kept _) (leaves_read fun _ => kept _)

theorem passFrag_wf (d : Draw) (u l : Nat) (f : Frag) (h : Memory.wf s.mem = true) :
    Memory.wf (s.passFrag d u l f).mem = true := flushCulled_wf _ h

theorem execFragmentRetire_keepsForm (u l : Nat) (h : Memory.wf s.mem = true) :
    KeepsForm (execFragmentRetire u l s) := by
  unfold execFragmentRetire
  split
  · exact keepsForm_next h
  · dsimp only
    split
    · exact keepsForm_next h
    · refine ite_keepsForm (keepsForm_next h) ?_
      split
      · exact keepsForm_next h
      · split
        · exact keepsForm_next h
        · refine ite_keepsForm (keepsForm_next h) (ite_keepsForm (keepsForm_next (passFrag_wf _ _ _ _ h))
            (keepsForm_next (fixedStep_wf _ _ (fun _ => ?_) h)))
          exact leaves_bind (retireFrag_leaves _ _ _ (flushCulled_wf _ h)) fun _ ht => leaves_pure (passFrag_wf _ _ _ _ ht)

/-! ### Answers to fixed-unit faults -/

@[simp] theorem skipFixed_mem (r : Record) : (s.skipFixed r).mem = s.mem := by
  refine foldl_mem (fun _ _ => ?_) _ s
  rfl

@[simp] theorem dropGrids_mem (us : List Nat) : (s.dropGrids us).mem = s.mem :=
  foldl_mem (op := State.scrap) (fun _ _ => scrap_mem _) _ s

theorem killDraw_wf (u j : Nat) (h : Memory.wf s.mem = true) : Memory.wf (s.killDraw u j).mem = true := by
  unfold State.killDraw
  split
  · exact h
  · refine ite_wf (wf_of_mem (dropGrids_mem _) h) (ite_wf h ?_)
    split
    · exact h
    · have flushed : ∀ t : State, Memory.wf t.mem = true → ∀ us f,
          Memory.wf (((t.dropGrids us).modDraw u f).flushCulled u).mem = true := fun _ ht _ _ =>
        flushCulled_wf _ (by rw [state_modDraw_mem, dropGrids_mem]; exact ht)
      refine ite_wf (wf_of_mem (dropDraw_mem _) (flushed _ ?_ _ _)) (wf_of_mem (arrive_mem _) (flushed _ ?_ _ _))
      · exact h
      · exact h

/-! ### Work graphs and the end of a replay -/

theorem execNodeFire_keepsForm (c : Slot) (n : Nat) (t : Word) (h : Memory.wf s.mem = true) :
    KeepsForm (execNodeFire c n t s) := by
  unfold execNodeFire
  dsimp only
  split
  · exact keepsForm_next h
  · split
    · next r rs b _ _ =>
      have taken := takeTask_wf (s := s.modCluster (s.storeOf c.val n t) fun k =>
        { k with store := (r :: rs).foldl (fun l x => l.erase x) k.store })
        { cl := s.storeOf c.val n t, slot := c.val } b
        (nameMake c.val (nameFrame r.name) 4 (nameDisp r.name) 0 (nameUnit r.name) t.toNat) r.watch h
      split
      · exact keepsForm_next taken
      · exact keepsForm_next taken
    · exact keepsForm_next h

theorem writeTrace_wf (w : Who) (a k : Nat) (es : List (List Word)) (h : Memory.wf s.mem = true) :
    Memory.wf (State.writeTrace w a es k s).1.mem = true := by
  induction es generalizing s k with
  | nil => exact h
  | cons e es ih =>
    unfold State.writeTrace
    split
    · exact h
    · exact ih _ (perform_wf _ _ h)

theorem endReplay_wf (r : Replay) (n : Nat) (h : Memory.wf s.mem = true) : Memory.wf (s.endReplay r n).mem = true := by
  unfold State.endReplay
  dsimp only
  split <;> split <;> exact h

theorem traceFault_wf (g : Machine.Group) (r : Replay) (f : FaultAt) (h : Memory.wf s.mem = true) :
    Memory.wf (s.traceFault g r f).mem = true := by
  unfold State.traceFault
  split
  · next ht => exact (fileRecord_wf ht h :)
  · exact h

theorem execReplayComplete_keepsForm (n : Nat) (h : Memory.wf s.mem = true) : KeepsForm (execReplayComplete n s) := by
  unfold execReplayComplete
  split
  · exact keepsForm_next h
  · split
    · exact keepsForm_next h
    · refine ite_keepsForm (keepsForm_next h) ?_
      extract_lets src w es
      have written := fun a k => writeTrace_wf w a k es h
      dsimp only
      split
      · exact keepsForm_next (traceFault_wf _ _ _ (written _ _))
      · split
        · exact keepsForm_next (endReplay_wf _ _ (perform_wf _ _ (written _ _)))
        · exact ite_keepsForm (keepsForm_next (endReplay_wf _ _ (written _ _))) (keepsForm_next (traceFault_wf _ _ _ (written _ _)))

end Sys2Proof.Proofs
end

section
/-! Memory stays canonical: answers to fault records, service messages, errors and the retirement of pages. -/

namespace Sys2Proof.Proofs

open Sys2Proof.Machine Sys2Proof.Laws

variable {s : State}

/-! ### Replayed accesses -/

theorem texLaneOp_keeps (u : TexMode) (z : LodSize) (t : SReg) (c : VReg) : LaneOp.Keeps (texLaneOp u z t c) :=
  texOp_keeps _ _ _ _ _

theorem texgLaneOp_keeps (n : Fin 4) (t : SReg) (c : VReg) : LaneOp.Keeps (texgLaneOp n t c) :=
  texOp_keeps _ _ _ _ _

theorem laneOp_keeps {i : Instr} {o : LaneOp} (ho : Instr.laneOp i = some o) : LaneOp.Keeps o := by
  unfold Instr.laneOp at ho
  split at ho
  case h_1 | h_2 => obtain rfl := Option.some.inj ho; exact loadOp_keeps _ _
  case h_3 | h_4 | h_5 | h_6 => obtain rfl := Option.some.inj ho; exact localLoadOp_keeps _ _ _
  case h_7 => obtain rfl := Option.some.inj ho; exact brickOp_keeps _ _
  case h_8 | h_9 => obtain rfl := Option.some.inj ho; exact lodOp_keeps _ _ _
  case h_10 => obtain rfl := Option.some.inj ho; exact texLaneOp_keeps _ _ _ _
  case h_11 => obtain rfl := Option.some.inj ho; exact texgLaneOp_keeps _ _ _
  case h_12 | h_13 => obtain rfl := Option.some.inj ho; exact storeOp_keeps _ _ _ _
  case h_14 | h_15 | h_16 | h_17 => obtain rfl := Option.some.inj ho; exact localStoreOp_keeps _ _ _ _ _
  case h_18 | h_19 | h_20 => obtain rfl := Option.some.inj ho; exact atomOp_keeps _ _ _ _ _
  case h_21 => obtain rfl := Option.some.inj ho; exact atomSpadOp_keeps _ _ _ _
  case h_22 | h_23 => obtain rfl := Option.some.inj ho; exact launchOp_keeps _ _
  case h_24 => obtain rfl := Option.some.inj ho; exact travOp_keeps
  case h_25 => cases ho

theorem groupOp_keeps {i : Instr} {o : GroupOp} (ho : Instr.groupOp i = some o) : GroupKeeps o := by
  unfold Instr.groupOp at ho
  split at ho
  case h_1 | h_2 => cases ho; exact scalarLoadOp_keeps _ _ _
  case h_3 | h_4 => cases ho; exact scalarStoreOp_keeps _ _ _ _
  case h_5 => cases ho; exact brickStoreOp_keeps _ _ _
  case h_6 => cases ho

@[simp] theorem retrace_mem (r : Replayed) : (s.retrace r).mem = s.mem := by
  unfold State.retrace
  split
  · exact ite_mem rfl (foldl_mem (fun _ _ => patchTrace_mem _ _ _ _ _ _) _ s)
  · rfl

@[simp] theorem landLost_mem (r : Replayed) : (s.landLost r).mem = s.mem :=
  foldl_mem (fun _ _ => landPart_mem _ _) _ s

theorem refault_wf (r : Replayed) (f : FaultAt) (ls : List Nat) (h : Memory.wf s.mem = true) :
    Memory.wf (s.refault r f ls).mem = true := by
  unfold State.refault
  dsimp only
  split
  · exact h
  · split
    · split
      · exact h
      · next ht => exact (fileRecord_wf ht h :)
    · rw [state_modGroup_mem]
      exact wf_of_mem (landLost_mem _) h

theorem refaults_wf (r : Replayed) (fs : List (Nat × FaultAt)) (h : Memory.wf s.mem = true) :
    Memory.wf (s.refaults r fs).mem = true := foldl_wf (fun _ _ ht => by
  split
  · exact ht
  · exact refault_wf _ _ _ ht) _ h

@[simp] theorem shareSeen_mem (r : Replayed) (v : LodSeen) : (s.shareSeen r v).mem = s.mem := rfl

theorem redoLanes_wf (r : Replayed) {o : LaneOp} (ho : LaneOp.Keeps o) (h : Memory.wf s.mem = true) :
    Memory.wf (s.redoLanes r o).mem = true := by
  unfold State.redoLanes
  dsimp only
  refine refaults_wf _ _ (wf_of_mem (retrace_mem _) ?_)
  rw [state_modGroup_mem, shareSeen_mem]
  exact perform_wf _ _ (foldl_lane_wf ho _ _ _ h)

theorem redoTravs_wf (r : Replayed) (h : Memory.wf s.mem = true) : Memory.wf (s.redoTravs r).mem = true := by
  unfold State.redoTravs
  split
  · exact redoLanes_wf _ travOp_keeps h
  · exact h

theorem redoGroup_wf (r : Replayed) {o : GroupOp} (ho : GroupKeeps o) (h : Memory.wf s.mem = true) :
    Memory.wf (s.redoGroup r o).mem = true := by
  unfold State.redoGroup
  split
  · next hx =>
    dsimp only
    rw [retrace_mem, state_modGroup_mem]
    exact perform_wf _ _ (ho _ _ _ _ hx h)
  · exact refault_wf _ _ _ h

theorem redoCpa_wf (r : Replayed) (n : Nat) (a gl : SReg) (x : VReg) (h : Memory.wf s.mem = true) :
    Memory.wf (s.redoCpa r n a gl x).mem = true := refaults_wf _ _ (wf_of_mem (addCaravans_mem _ _ _) h)

theorem redoCpb_wf (r : Replayed) (d a n : SReg) (h : Memory.wf s.mem = true) :
    Memory.wf (s.redoCpb r d a n).mem = true := by
  unfold State.redoCpb
  dsimp only
  split
  · next ht => exact wf_of_mem (cpbStart_mem ht) h
  · exact refault_wf _ _ _ h

theorem redoHld_wf (r : Replayed) (h : Memory.wf s.mem = true) : Memory.wf (s.redoHld r).mem = true := by
  unfold State.redoHld
  split
  · next ht => exact redoHyper_wf ht h
  · exact refault_wf _ _ _ h

theorem redo_wf (r : Replayed) (h : Memory.wf s.mem = true) : Memory.wf (s.redo r).mem = true := by
  unfold State.redo
  split
  · exact redoHld_wf _ h
  · exact redoHld_wf _ h
  · exact redoTravs_wf _ h
  · exact redoCpa_wf _ _ _ _ _ h
  · exact redoCpa_wf _ _ _ _ _ h
  · exact redoCpa_wf _ _ _ _ _ h
  · exact redoCpb_wf _ _ _ _ h
  · split
    · next ho => exact redoLanes_wf _ (laneOp_keeps ho) h
    · next ho => exact redoGroup_wf _ (groupOp_keeps ho) h
    · exact h

theorem redoEngine_wf (e : Engine) (h : Memory.wf s.mem = true) : Memory.wf (s.redoEngine e).mem = true := by
  unfold State.redoEngine
  split
  · exact h
  · exact driveEngine_wf _ h

/-! ### Answers -/

@[simp] theorem wakeAnswered_mem (us : List Nat) : (s.wakeAnswered us).mem = s.mem := by
  refine foldl_mem (fun _ _ => ?_) _ s
  rfl

theorem resumeWork_wf (n : Nat) (h : Memory.wf s.mem = true) : Memory.wf (s.resumeWork n).mem = true :=
  foldl_wf (fun _ _ ht => redoEngine_wf _ ht) _ (foldl_wf (fun _ _ ht => redo_wf _ ht) _ h)

theorem lateAgain_wf (o : LateOp) (h : Memory.wf s.mem = true) : Memory.wf (s.lateAgain o).mem = true := by
  unfold State.lateAgain
  split
  · refine redo_wf _ ?_
    split <;> exact h
  · exact h
  · exact wf_of_mem (repark_mem _) h

theorem retryLanes_wf (r : Record) (h : Memory.wf s.mem = true) : Memory.wf (s.retryLanes r).mem = true := by
  refine foldl_wf (fun _ _ ht => lateAgain_wf _ ht) _ (foldl_wf ?_ _ h)
  exact fun _ _ ht => ht

theorem retry_wf (r : Record) (h : Memory.wf s.mem = true) : Memory.wf (s.retry r).mem = true :=
  wf_of_mem (wakeAnswered_mem _) (resumeWork_wf _ (retryLanes_wf _ h))

@[simp] theorem killGroups_mem (r : Record) (us : List Nat) (k : Kill) : (s.killGroups r us k).mem = s.mem := by
  refine foldl_mem (fun t u => ?_) _ s
  split
  · rfl
  · exact kill_mem _ _ _

@[simp] theorem passOver_mem (g : Machine.Group) (c : Clause) (m : Mask) : (s.passOver g c m).mem = s.mem := rfl

@[simp] theorem skipGroup_mem (n u : Nat) (m : Mask) : (s.skipGroup n u m).mem = s.mem := by
  unfold State.skipGroup
  split
  · rfl
  · refine ite_mem rfl (ite_mem rfl ?_)
    split
    · refine ite_mem (passOver_mem _ _ _) (foldl_mem ?_ _ s)
      exact fun _ _ => rfl
    · refine foldl_mem ?_ _ s
      exact fun _ _ => rfl

@[simp] theorem endXalls_mem (n k : Nat) : (State.endXalls n k s).mem = s.mem := by
  induction k generalizing s with
  | zero => rfl
  | succ k ih =>
    unfold State.endXalls
    split
    · rfl
    · split
      · rfl
      · exact ih

@[simp] theorem dropWork_mem (n : Nat) : (s.dropWork n).mem = s.mem :=
  (endXalls_mem _ _).trans (foldl_mem (op := State.landLost) (fun _ _ => landLost_mem _) _ _)

@[simp] theorem skip_mem (r : Record) : (s.skip r).mem = s.mem := by
  unfold State.skip
  dsimp only
  refine (wakeAnswered_mem _).trans ((dropWork_mem _).trans ((foldl_mem ?_ _ _).trans
    ((killGroups_mem _ _ _).trans (killGroups_mem _ _ _))))
  exact fun _ _ => skipGroup_mem _ _ _

@[simp] theorem releaseBreak_mem (n : Nat) : (s.releaseBreak n).mem = s.mem := by
  unfold State.releaseBreak
  dsimp only
  refine foldl_mem ?_ _ s
  exact fun _ _ => rfl

theorem answerFixed_wf (r : Record) (a : Nat) (h : Memory.wf s.mem = true) : Memory.wf (s.answerFixed r a).mem = true :=
  ite_wf h (ite_wf (wf_of_mem (skipFixed_mem _) h) (foldl_wf (fun _ _ ht => killDraw_wf _ _ ht) _ h))

theorem act_wf (r : Record) (a : Nat) (h : Memory.wf s.mem = true) : Memory.wf (s.act r a).mem = true := by
  have fixed := answerFixed_wf r a h
  exact ite_wf (wf_of_mem (killGroups_mem _ _ _) fixed) (ite_wf (wf_of_mem (releaseBreak_mem _) fixed)
    (ite_wf (retry_wf _ fixed) (wf_of_mem (skip_mem _) fixed)))

theorem answer_wf (r : Record) (a : Nat) (h : Memory.wf s.mem = true) : Memory.wf (s.answer r a).mem = true :=
  ite_wf (act_wf _ _ h) (ite_wf h (act_wf _ _ h))

theorem execFaultAnswer_keepsForm (n : Nat) (a : Word) (h : Memory.wf s.mem = true) :
    KeepsForm (execFaultAnswer n a s) := by
  unfold execFaultAnswer
  split
  · exact keepsForm_next h
  · exact ite_keepsForm (keepsForm_next h) (keepsForm_next (mirror_wf (answer_wf _ _ h)))

theorem execFaultBufferRetry_keepsForm (u : Nat) (h : Memory.wf s.mem = true) :
    KeepsForm (execFaultBufferRetry u s) := by
  unfold execFaultBufferRetry
  split
  · exact keepsForm_next h
  · refine ite_keepsForm (keepsForm_next h) (keepsForm_next ?_)
    exact foldl_wf (fun _ _ ht => redoEngine_wf _ ht) _ (foldl_wf (fun _ _ ht => redo_wf _ ht) _ h)

/-! ### Service messages -/

theorem serve_wf (q : Req) (n : Nat) (b : Bool) {k : Ctx → State → State} (h : Memory.wf s.mem = true)
    (hk : ∀ c t, Memory.wf t.mem = true → Memory.wf (k c t).mem = true) : Memory.wf (s.serve q n b k).mem = true :=
  ite_wf h (ite_wf h (ite_wf h (ite_wf h (hk _ _ h))))

theorem execCreate_keepsForm (q : Req) (a : DWord) (h : Memory.wf s.mem = true) : KeepsForm (execCreate q a s) :=
  ite_keepsForm (keepsForm_next h) (ite_keepsForm (keepsForm_next h) (ite_keepsForm (keepsForm_next h)
    (ite_keepsForm (keepsForm_next h) (keepsForm_next h))))

theorem execDestroy_keepsForm (q : Req) (a : DWord) (h : Memory.wf s.mem = true) : KeepsForm (execDestroy q a s) :=
  keepsForm_next (serve_wf _ _ _ h fun _ _ ht => ite_wf ht (ite_wf ht ht))

theorem execMapPages_keepsForm (q : Req) (x : List (DWord × Name)) (h : Memory.wf s.mem = true) :
    KeepsForm (execMapPages q x s) :=
  keepsForm_next (serve_wf _ _ _ h fun c t ht => by
    dsimp only
    refine ite_wf ht ?_
    rw [respond_mem]
    exact foldl_wf (fun _ _ hu => physWrite_wf _ _ hu) _ ht)

theorem unmapUnit_wf (c u : Nat) (h : Memory.wf s.mem = true) : Memory.wf (s.unmapUnit c u).mem = true := by
  unfold State.unmapUnit
  split
  · exact physWrite_wf _ _ h
  · exact h

theorem execUnmapPages_keepsForm (q : Req) (a : DWord) (n : Word) (h : Memory.wf s.mem = true) :
    KeepsForm (execUnmapPages q a n s) :=
  keepsForm_next (serve_wf _ _ _ h fun c t ht => by
    dsimp only
    refine ite_wf ht ?_
    rw [respond_mem]
    exact foldl_wf (fun _ _ hu => unmapUnit_wf _ _ hu) _ ht)

theorem setResident_wf {t : State} {c l p : Nat} {d : LodDesc} {b : Bool} (ht : s.setResident c d l p b = some t)
    (h : Memory.wf s.mem = true) : Memory.wf t.mem = true := by
  unfold State.setResident at ht
  dsimp only at ht
  split at ht
  · cases ht
  · split at ht
    · cases ht
    · exact quietStore_wf ht h

theorem execResidency_keepsForm (q : Req) (a : DWord) (l v : Byte) (p : Word) (h : Memory.wf s.mem = true) :
    KeepsForm (execResidency q a l v p s) :=
  keepsForm_next (serve_wf _ _ _ h fun c t ht => by
    dsimp only
    split
    · exact ht
    · refine ite_wf ht ?_
      split
      · exact ht
      · next hu =>
        rw [respond_mem]
        refine foldl_wf ?_ _ (setResident_wf hu ht)
        exact fun _ _ hv => hv)

theorem enqueueAll_wf (c r n : Nat) (es : List DWord) (h : Memory.wf s.mem = true) :
    Memory.wf (State.enqueueAll c r es n s).1.mem = true := by
  induction es generalizing s n with
  | nil => exact h
  | cons e es ih =>
    unfold State.enqueueAll
    split
    · next ht => exact ih _ (enqueue1_wf ht h)
    · exact h
    · exact h
    · exact h

theorem execEnqueue_keepsForm (q : Req) (r : Word) (x : List DWord) (h : Memory.wf s.mem = true) :
    KeepsForm (execEnqueue q r x s) :=
  keepsForm_next (serve_wf _ _ _ h fun _ _ ht => ite_wf ht (enqueueAll_wf _ _ _ _ ht))

theorem execReadMem_keepsForm (q : Req) (a : DWord) (n : Word) (h : Memory.wf s.mem = true) :
    KeepsForm (execReadMem q a n s) :=
  keepsForm_next (serve_wf _ _ _ h fun _ _ ht => by
    refine ite_wf ht ?_
    split
    · exact ht
    · exact ht)

theorem execWriteMem_keepsForm (q : Req) (a : DWord) (x : List Byte) (h : Memory.wf s.mem = true) :
    KeepsForm (execWriteMem q a x s) :=
  keepsForm_next (serve_wf _ _ _ h fun _ _ ht => by
    refine ite_wf ht ?_
    split
    · rw [respond_mem]; exact perform_wf _ _ ht
    · exact ht)

theorem launchService_wf (q : Req) (j : Job) (h : Memory.wf s.mem = true) :
    Memory.wf (s.launchService q j).mem = true := watchRecord_wf _ _ _ h

theorem askService_wf (q : Req) (j : Job) (b : Bool) (h : Memory.wf s.mem = true) :
    Memory.wf (s.askService q j b).mem = true :=
  serve_wf _ _ _ h fun _ _ ht => ite_wf ht (ite_wf ht (ite_wf ht (launchService_wf _ _ ht)))

@[simp] theorem popRasN_mem (n : Nat) : (State.popRasN n s).2.mem = s.mem := by
  induction n generalizing s with
  | zero => rfl
  | succ n ih =>
    unfold State.popRasN
    split
    · rfl
    · next ht => exact ih.trans (popRas_mem ht)

theorem execRaslogRequest_keepsForm (q : Req) (h : Memory.wf s.mem = true) : KeepsForm (execRaslogRequest q s) :=
  keepsForm_next (serve_wf _ _ _ h fun _ t ht => wf_of_mem (popRasN_mem (s := t) 32) ht)

theorem execAttest_keepsForm (q : Req) (x : List Byte) (h : Memory.wf s.mem = true) : KeepsForm (execAttest q x s) :=
  keepsForm_next (serve_wf _ _ _ h fun _ _ ht => ite_wf ht (ite_wf ht ht))

theorem execBootstatus_keepsForm (q : Req) (h : Memory.wf s.mem = true) : KeepsForm (execBootstatus q s) :=
  ite_keepsForm (keepsForm_next (serve_wf _ _ _ h fun _ _ ht => ht))
    (ite_keepsForm (keepsForm_next h) (keepsForm_next h))

theorem execSvcanswer_keepsForm (q : Req) (t a : Word) (h : Memory.wf s.mem = true) :
    KeepsForm (execSvcanswer q t a s) :=
  keepsForm_next (serve_wf _ _ _ h fun _ _ ht => by
    split
    · exact ht
    · exact ht)

theorem execFaultanswer_keepsForm (q : Req) (t a : Word) (h : Memory.wf s.mem = true) :
    KeepsForm (execFaultanswer q t a s) :=
  keepsForm_next (serve_wf _ _ _ h fun _ _ ht => by
    split
    · split
      · exact ite_wf ht (wf_of_mem (respond_mem _ _ _ _ _) (mirror_wf (answer_wf _ _ ht)))
      · exact ht
    · exact ht)

theorem execResume_keepsForm (q : Req) (t : Word) (h : Memory.wf s.mem = true) : KeepsForm (execResume q t s) :=
  keepsForm_next (serve_wf _ _ _ h fun _ _ ht => by
    split
    · exact wf_of_mem ((respond_mem _ _ _ _ _).trans (releaseBreak_mem _)) ht
    · exact ht)

theorem execBindSlot_keepsForm (q : Req) (t : DWord) (h : Memory.wf s.mem = true) : KeepsForm (execBindSlot q t s) :=
  keepsForm_next (serve_wf _ _ _ h fun _ _ ht => ite_wf ht (ite_wf ht ht))

/-! ### Errors -/

theorem execEngineSwitch_keepsForm (c : Fin 8) (k : Fin 32) (h : Memory.wf s.mem = true) :
    KeepsForm (execEngineSwitch c k s) := ite_keepsForm (keepsForm_next h) (keepsForm_next h)

theorem execGovernorPeriod_keepsForm (h : Memory.wf s.mem = true) : KeepsForm (execGovernorPeriod s) := by
  unfold execGovernorPeriod
  split
  · exact keepsForm_next h
  · refine keepsForm_next ?_
    unfold State.startPeriod
    dsimp only
    split <;> exact h

theorem execPatrolScrub_keepsForm (u : ScrubUnit) (h : Memory.wf s.mem = true) : KeepsForm (execPatrolScrub u s) :=
  ite_keepsForm (keepsForm_next h) (keepsForm_next h)

@[simp] theorem askRetire_mem (n t a : Nat) : (s.askRetire n t a).mem = s.mem := logRas_mem s _

theorem execCorrectedError_keepsForm (a t : Nat) (h : Memory.wf s.mem = true) : KeepsForm (execCorrectedError a t s) := by
  have logged : ∀ r c, Memory.wf (State.logRas { s with corrected := c } r).mem = true := fun _ _ =>
    wf_of_mem (logRas_mem _ _) h
  exact keepsForm_next (ite_wf (wf_of_mem (askRetire_mem _ _ _) (logged _ _)) (logged _ _))

@[simp] theorem latent_mem (u t : Nat) (f : Machine.Group → Machine.Group) : (s.latent u t f).mem = s.mem := by
  unfold State.latent
  split
  · rfl
  · exact logRas_mem _ _

theorem execUncorrectableError_keepsForm (e : ErrorSite) (t : Nat) (h : Memory.wf s.mem = true) :
    KeepsForm (execUncorrectableError e t s) := by
  cases e with
  | vreg | sreg | tile | hyper => exact keepsForm_next (wf_of_mem (latent_mem _ _ _) h)
  | spad b off =>
    unfold execUncorrectableError
    dsimp only
    split
    · exact keepsForm_next h
    · exact keepsForm_next (wf_of_mem (logRas_mem _ _) h)
  | memory pa slice =>
    have marked : Memory.wf ((List.range 64).foldl (fun s i => s.setMark (pa / 64 * 64 + i) true) s).mem = true :=
      wf_of_mem (foldl_mem (fun _ _ => setMark_mem _ _ _) _ s) h
    cases slice with
    | some c => exact keepsForm_next (wf_of_mem (logRas_mem _ _) marked)
    | none => exact keepsForm_next (wf_of_mem ((askRetire_mem _ _ _).trans (logRas_mem _ _)) marked)

theorem execLogicError_keepsForm (c : Fin 8) (k : Fin 32) (b : Option Nat) (t : Nat) (h : Memory.wf s.mem = true) :
    KeepsForm (execLogicError c k b t s) := by
  refine ite_keepsForm (keepsForm_next ?_) (keepsForm_next ?_)
  · cases b with
    | none => exact wf_of_mem (logRas_mem _ _) h
    | some u => exact wf_of_mem ((kill_mem _ _ _).trans (logRas_mem _ _)) h
  · exact wf_of_mem ((foldl_mem (fun _ _ => kill_mem _ _ _) _ _).trans (logRas_mem _ _)) h

/-! ### Retirement of pages -/

theorem moveLeaf_wf (a pa : Nat) (h : Memory.wf s.mem = true) : Memory.wf (s.moveLeaf a pa).mem = true :=
  physWrite_wf _ _ h

theorem copyPage_wf (old new n : Nat) (h : Memory.wf s.mem = true) : Memory.wf (s.copyPage old new n).mem = true := by
  refine wf_of_mem (foldl_mem ?_ _ _) (foldl_wf ?_ _ h)
  · exact fun _ _ => setMark_mem _ _ _
  · exact fun _ _ ht => memory_write_wf _ _ ht

theorem repoint_wf (x : Mapped) (f : Nat → Nat) (h : Memory.wf s.mem = true) : Memory.wf (s.repoint x f).mem = true := by
  refine foldl_wf ?_ _ (foldl_wf ?_ _ h)
  · exact fun _ _ ht => ite_wf (physWrite_wf _ _ ht) ht
  · exact fun _ _ ht => ite_wf ht (moveLeaf_wf _ _ ht)

theorem retirePage_wf (a t : Nat) (h : Memory.wf s.mem = true) : Memory.wf (s.retirePage a t).mem = true := by
  unfold State.retirePage
  dsimp only
  refine ite_wf h ?_
  split
  · exact h
  · refine wf_of_mem (logRas_mem _ _) (foldl_wf (fun _ _ ht => answer_wf _ _ ht) _ (repoint_wf _ _ (copyPage_wf _ _ _ ?_)))
    exact wf_of_mem (writeBack_mem _) h

end Sys2Proof.Proofs
end

section
/-! Memory stays canonical: links, boot, the step of the device, and with them every step. -/

namespace Sys2Proof.Proofs

open Sys2Proof.Machine Sys2Proof.Laws

variable {s : State}

/-! ### Rails, links and boot -/

theorem execPowerUp_keepsForm (h : Memory.wf s.mem = true) : KeepsForm (execPowerUp s) := by
  refine ite_keepsForm (keepsForm_next h) (keepsForm_next (foldl_wf ?_ _ h))
  exact fun _ _ ht => ht

theorem execPowerDown_keepsForm (h : Memory.wf s.mem = true) : KeepsForm (execPowerDown s) := by
  refine ite_keepsForm (keepsForm_next (foldl_wf ?_ _ h)) (keepsForm_next h)
  exact fun _ _ ht => ht

theorem execPeerRequest_keepsForm (p : PeerFlit) (h : Memory.wf s.mem = true) : KeepsForm (execPeerRequest p s) := by
  cases p with
  | load => exact keepsForm_next h
  | store => exact ite_keepsForm (keepsForm_next (physWrite_wf _ _ h)) (keepsForm_next h)
  | rmw => exact ite_keepsForm (keepsForm_next h) (keepsForm_next (physWrite_wf _ _ h))

@[simp] theorem afterReset_mem : s.afterReset.mem = s.mem := by
  unfold State.afterReset
  dsimp only
  refine ite_mem rfl (foldl_mem ?_ _ _)
  exact fun _ _ => rfl

@[simp] theorem startService_mem (f : Firmware) : (s.startService f).mem = s.mem := by
  unfold State.startService
  dsimp only
  refine (foldl_mem ?_ _ _).trans rfl
  exact fun _ _ => placeBlock_mem _ _ _ _ _

theorem execBoot_keepsForm (b : BringUp) (h : Memory.wf s.mem = true) : KeepsForm (execBoot b s) := by
  have reset := wf_of_mem afterReset_mem h
  unfold execBoot
  dsimp only
  split
  · exact keepsForm_next reset
  · exact keepsForm_next (wf_of_mem (startService_mem _) reset)

/-! ### Every instruction word and every step of the agenda -/

theorem exec_keepsForm (i : Instr) (h : Memory.wf s.mem = true) : KeepsForm (exec i s) := by
  cases i with
  | sadd | ssub | smul | smulh | smulhU | sand | sor | sxor | sshl | sshr | ssar | smin | smax | sminu | smaxu
  | scmpEq | scmpNe | scmpLt | scmpLe | scmpGt | scmpGe | scmpLtu | scmpLeu | scmpGtu | scmpGeu | sclz | spop
  | smov | saddiShort | saddiXi | ssel | smovi | slit | kset | join | vaddc | vbfi | vsel | vmovi | vlit | ffma
  | fcmp | fdot2 | cvt | cvtn | fdiv | fclass | qswapH | qswapV | qswapD | ddxFine | ddxCoarse | ddyFine
  | ddyCoarse | ishelp | bar | mstat | hmov | hbind | hperm | hbund | hthr | hclrc | hham | htie | hbit | travb
  | halt | vadd | vsub | vmul | vmulhS32 | vmulhU32 | vand | vor | vxor | vshl | vshr | vsar | vminS32
  | vminU32 | vmaxS32 | vmaxU32 | vmad | vbfeS32 | vbfeU32 | vabs | vclz | vpop | vmov | vcmpEqS32 | vcmpNeS32
  | vcmpLtS32 | vcmpLeS32 | vcmpGtS32 | vcmpGeS32 | vcmpEqU32 | vcmpNeU32 | vcmpLtU32 | vcmpLeU32 | vcmpGtU32
  | vcmpGeU32 | fadd | fsub | fmul | fmin | fmax | frcp | frsq | fsqrt | fexp2 | flog2 | fsin | fcos | fround
  | ffract | pand | por | pxor | pnot | pmov =>
    exact issueGroup_keepsForm h
  | srdS | srdV => exact issue_keepsForm h fun _ _ => wf_of_mem (afterSpecial_mem _ _) h
  | bra | brs | brsZ | jmp => exact issue_keepsForm h fun _ _ => direct_wf _ _ _ _ h
  | brx | call | callx | ret => exact issue_keepsForm h fun _ _ => checked_wf _ _ _ _ _ h h
  | lpad | nop | hint | fenceAcq | fenceRel | fenceSc => exact issue_keepsForm h fun _ _ => h
  | opfence => exact issue_keepsForm h fun _ _ => ite_wf h h
  | launch | launchOrd => exact launch_keepsForm h
  | shflIdx | shflUp | shflDown | shflXor => exact shuffle_keepsForm h
  | voteAny | voteAll | voteBallot | matchAny | reduce | scan | actmask =>
    exact issue_keepsForm h fun _ _ => wf_of_mem (groupWide_mem _ _) h
  | ld | ldX => exact issueLanes_keepsForm (loadOp_keeps _ _) h
  | lds | ldsX | ldc | ldcX => exact issueLanes_keepsForm (localLoadOp_keeps _ _ _) h
  | ldbrk => exact issueLanes_keepsForm (brickOp_keeps _ _) h
  | st | stX => exact issueLanes_keepsForm (storeOp_keeps _ _ _ _) h
  | sts | stsX | stc | stcX => exact issueLanes_keepsForm (localStoreOp_keeps _ _ _ _ _) h
  | atom | red | atomx => exact issueLanes_keepsForm (atomOp_keeps _ _ _ _ _) h
  | atoms => exact issueLanes_keepsForm (atomSpadOp_keeps _ _ _ _) h
  | sld | sldX => exact issueGroupOp_keepsForm (scalarLoadOp_keeps _ _ _) h
  | sst | sstX => exact issueGroupOp_keepsForm (scalarStoreOp_keeps _ _ _ _) h
  | ldlod | ldlodX => exact issueLod_keepsForm (lodOp_keeps _ _ _) h
  | tex => exact issueLod_keepsForm (texLaneOp_keeps _ _ _ _) h
  | texg => exact issueLod_keepsForm (texgLaneOp_keeps _ _ _) h
  | cpaB32 | cpaB64 | cpaB128 => exact cpa_keepsForm h
  | femarkFull | femarkEmpty => exact femark_keepsForm h
  | waitcToken | waitcBarrier => exact waitc_keepsForm h
  | mldz | mstz | mqnt => exact tileImage_keepsForm h fun _ _ => startMatrix_wf _ _ _ _ h
  | gopenW1 | gopenW2 | gopenW3 | gopenW4 => exact gopen_keepsForm h
  | phaseBarrierWake | haltWake | thermalSample | uePacketRefused | connectionClose
  | routeWritebackDone | headctlWrite | peerLost | portDown | linkTraining =>
    exact keepsForm_next h
  | routeDisable => exact keepsForm_next (writeDesc_wf _ _ _ _ h)
  | registerWrite => exact keepsForm_next (wf_of_mem (regWrite_mem _ _ _) h)
  | blockPlacement => exact keepsForm_next (wf_of_mem (placeHead_mem _ _) h)
  | telemetry => exact keepsForm_next (serve_wf _ _ _ h fun _ _ ht => ht)
  | watchRequest | replayRequest => exact keepsForm_next (askService_wf _ _ _ h)
  | swr => exact execSwr_keepsForm _ _ h
  | swin => exact execSwin_keepsForm _ h
  | vwin => exact execVwin_keepsForm _ h
  | exitLanes => exact execExitLanes_keepsForm h
  | trap => exact execTrap_keepsForm _ h
  | brk => exact execBrk_keepsForm _ h
  | perf => exact execPerf_keepsForm _ h
  | renq => exact execRenq_keepsForm _ _ h
  | rdeq => exact execRdeq_keepsForm _ _ h
  | svc => exact execSvc_keepsForm _ h
  | stbrk => exact execStbrk_keepsForm _ _ _ h
  | cpb => exact execCpb_keepsForm _ _ _ h
  | prefr => exact execPrefr_keepsForm _ _ _ h
  | tokw => exact execTokw_keepsForm _ _ h
  | mbara => exact execMbara_keepsForm _ h
  | mbarw => exact execMbarw_keepsForm _ _ h
  | xall => exact execXall_keepsForm _ _ h
  | cflush => exact execCflush_keepsForm _ _ h
  | mma => exact execMma_keepsForm _ _ _ _ _ h
  | mloop => exact execMloop_keepsForm _ _ _ _ h
  | mzero => exact execMzero_keepsForm _ h
  | hld => exact execHld_keepsForm _ _ _ h
  | hst => exact execHst_keepsForm _ _ _ h
  | hnear => exact execHnear_keepsForm _ _ _ _ h
  | gyield => exact execGyield_keepsForm _ h
  | gtake => exact execGtake_keepsForm _ h
  | gback => exact execGback_keepsForm h
  | gdone => exact execGdone_keepsForm h
  | gclose => exact execGclose_keepsForm h
  | repack => exact execRepack_keepsForm _ h
  | travs => exact execTravs_keepsForm _ h
  | travc => exact execTravc_keepsForm _ h
  | trave => exact execTrave_keepsForm h
  | draw => exact execDraw_keepsForm _ _ _ h
  | vxemit => exact execVxemit_keepsForm _ _ h
  | primemit => exact execPrimemit_keepsForm _ _ h
  | pxout => exact execPxout_keepsForm _ _ h
  | discard => exact execDiscard_keepsForm h
  | depw => exact execDepw_keepsForm _ h
  | wrec => exact execWrec_keepsForm _ _ _ h
  | linset => exact execLinset_keepsForm _ h
  | watch => exact execWatch_keepsForm _ _ h
  | replay => exact execReplay_keepsForm _ _ h
  | eret => exact execEret_keepsForm h
  | ctxsave => exact execCtxsave_keepsForm _ _ _ h
  | ctxload => exact execCtxload_keepsForm _ _ _ h
  | ovtbl => exact execOvtbl_keepsForm _ _ h
  | tlbinv => exact execTlbinv_keepsForm _ _ h
  | resfence => exact execResfence_keepsForm _ _ h
  | pgattr => exact execPgattr_keepsForm _ _ h
  | admitCluster => exact execAdmitCluster_keepsForm _ h
  | raslog => exact execRaslog_keepsForm _ _ h
  | clauseBegin => exact execClauseBegin_keepsForm _ _ h
  | flagClear => exact execFlagClear_keepsForm _ _ h
  | fairnessTimer => exact execFairnessTimer_keepsForm _ h
  | joinRelease => exact execJoinRelease_keepsForm _ _ h
  | groupRetire => exact execGroupRetire_keepsForm _ h
  | repackComplete => exact execRepackComplete_keepsForm _ _ h
  | routeEntryWake => exact execRouteEntryWake_keepsForm _ _ h
  | routeSpaceWake => exact execRouteSpaceWake_keepsForm _ _ h
  | caravanLand => exact execCaravanLand_keepsForm _ h
  | fullBitWake => exact execFullBitWake_keepsForm _ h
  | continuationSpawn => exact execContinuationSpawn_keepsForm _ h
  | tokenResolve => exact execTokenResolve_keepsForm _ _ h
  | barrierResolve => exact execBarrierResolve_keepsForm _ h
  | mloopIteration => exact execMloopIteration_keepsForm _ _ h
  | engineSwitch => exact execEngineSwitch_keepsForm _ _ h
  | xallRegistration => exact execXallRegistration_keepsForm _ h
  | xallStart => exact execXallStart_keepsForm _ h
  | xallComplete => exact execXallComplete_keepsForm _ _ h
  | blockSave => exact execBlockSave_keepsForm _ h
  | pixelWatchdog => exact execPixelWatchdog_keepsForm _ h
  | binStage => exact execBinStage_keepsForm _ h
  | partialRender => exact execPartialRender_keepsForm _ h
  | finalRender => exact execFinalRender_keepsForm _ h
  | fragmentRetire => exact execFragmentRetire_keepsForm _ _ h
  | nodeFire => exact execNodeFire_keepsForm _ _ _ h
  | replayComplete => exact execReplayComplete_keepsForm _ h
  | leadTime => exact execLeadTime_keepsForm _ h
  | deadline => exact execDeadline_keepsForm _ h
  | controlInterval => exact execControlInterval_keepsForm _ _ h
  | governorPeriod => exact execGovernorPeriod_keepsForm h
  | patrolScrub => exact execPatrolScrub_keepsForm _ h
  | correctedError => exact execCorrectedError_keepsForm _ _ h
  | uncorrectableError => exact execUncorrectableError_keepsForm _ _ h
  | logicError => exact execLogicError_keepsForm _ _ _ _ h
  | faultBufferRetry => exact execFaultBufferRetry_keepsForm _ h
  | faultAnswer => exact execFaultAnswer_keepsForm _ _ h
  | contextSaveComplete => exact execContextSaveComplete_keepsForm _ h
  | contextLoadComplete => exact execContextLoadComplete_keepsForm _ h
  | tlbinvComplete => exact execTlbinvComplete_keepsForm _ _ h
  | resfenceComplete => exact execResfenceComplete_keepsForm _ _ h
  | pgattrComplete => exact execPgattrComplete_keepsForm _ _ h
  | create => exact execCreate_keepsForm _ _ h
  | destroy => exact execDestroy_keepsForm _ _ h
  | mapPages => exact execMapPages_keepsForm _ _ h
  | unmapPages => exact execUnmapPages_keepsForm _ _ _ h
  | residency => exact execResidency_keepsForm _ _ _ _ _ h
  | enqueue => exact execEnqueue_keepsForm _ _ _ h
  | readMem => exact execReadMem_keepsForm _ _ _ h
  | writeMem => exact execWriteMem_keepsForm _ _ _ h
  | raslogRequest => exact execRaslogRequest_keepsForm _ h
  | attest => exact execAttest_keepsForm _ _ h
  | bootstatus => exact execBootstatus_keepsForm _ h
  | svcanswer => exact execSvcanswer_keepsForm _ _ _ h
  | faultanswer => exact execFaultanswer_keepsForm _ _ _ h
  | resume => exact execResume_keepsForm _ _ h
  | bindSlot => exact execBindSlot_keepsForm _ _ h
  | routeEnable => exact execRouteEnable_keepsForm _ _ h
  | peerEnqueue => exact execPeerEnqueue_keepsForm _ _ _ h
  | boot => exact execBoot_keepsForm _ h
  | peerRequest => exact execPeerRequest_keepsForm _ h
  | powerDown => exact execPowerDown_keepsForm h
  | powerUp => exact execPowerUp_keepsForm h

/-! ### The device's own steps -/

/-- Steps of the device that keep memory in its canonical form. -/
def StepsKeep (l : DeviceSteps) : Prop := ∀ e ∈ l, ∀ s : State, Memory.wf s.mem = true → KeepsForm (e.2 s)

theorem stepsKeep_append {a b : DeviceSteps} (ha : StepsKeep a) (hb : StepsKeep b) : StepsKeep (a ++ b) := fun e he =>
  (List.mem_append.mp he).elim (ha e) (hb e)

theorem stepsKeep_nil : StepsKeep [] := fun _ he => by cases he

theorem stepsKeep_flatMap {α : Type} {l : List α} {f : α → DeviceSteps} (hf : ∀ x, StepsKeep (f x)) :
    StepsKeep (l.flatMap f) := fun e he => by
  obtain ⟨x, _, hx⟩ := List.mem_flatMap.mp he
  exact hf x e hx

theorem stepsKeep_map {α : Type} {l : List α} {f : α → Option Nat × DeviceStep}
    (hf : ∀ x, ∀ s : State, Memory.wf s.mem = true → KeepsForm ((f x).2 s)) : StepsKeep (l.map f) := fun e he => by
  obtain ⟨x, _, rfl⟩ := List.mem_map.mp he
  exact hf x

/-- A list of steps, each of which keeps the canonical form. -/
def AllKeep (fs : List DeviceStep) : Prop := ∀ f ∈ fs, ∀ s : State, Memory.wf s.mem = true → KeepsForm (f s)

theorem allKeep_nil : AllKeep [] := fun _ hf => by cases hf

theorem allKeep_cons {f : DeviceStep} {fs : List DeviceStep}
    (hf : ∀ s : State, Memory.wf s.mem = true → KeepsForm (f s)) (hfs : AllKeep fs) : AllKeep (f :: fs) := fun e he => by
  obtain rfl | he := List.mem_cons.mp he
  · exact hf
  · exact hfs e he

theorem allKeep_append {a b : List DeviceStep} (ha : AllKeep a) (hb : AllKeep b) : AllKeep (a ++ b) := fun e he =>
  (List.mem_append.mp he).elim (ha e) (hb e)

theorem allKeep_map {α : Type} {l : List α} {f : α → DeviceStep}
    (hf : ∀ x, ∀ s : State, Memory.wf s.mem = true → KeepsForm (f x s)) : AllKeep (l.map f) := fun e he => by
  obtain ⟨x, _, rfl⟩ := List.mem_map.mp he
  exact hf x

theorem allKeep_flatMap {α : Type} {l : List α} {f : α → List DeviceStep} (hf : ∀ x, AllKeep (f x)) :
    AllKeep (l.flatMap f) := fun e he => by
  obtain ⟨x, _, hx⟩ := List.mem_flatMap.mp he
  exact hf x e hx

theorem stepsFor_keep {k : Nat} {fs : List DeviceStep} (h : AllKeep fs) : StepsKeep (stepsFor k fs) := fun e he => by
  obtain ⟨f, hf, rfl⟩ := List.mem_map.mp he
  exact h f hf

theorem plainSteps_keep {fs : List DeviceStep} (h : AllKeep fs) : StepsKeep (plainSteps fs) := fun e he => by
  obtain ⟨f, hf, rfl⟩ := List.mem_map.mp he
  exact h f hf

theorem resumeClause_keepsForm (u : Nat) (h : Memory.wf s.mem = true) : KeepsForm (resumeClause u s) := by
  unfold resumeClause
  split
  · exact keepsForm_next h
  · exact ite_keepsForm (keepsForm_next h) (keepsForm_next h)

theorem answerSteps_keep : StepsKeep s.answerSteps :=
  stepsKeep_append (stepsKeep_flatMap fun _ => stepsFor_keep (allKeep_cons (fun _ h => execFaultAnswer_keepsForm _ _ h)
    (allKeep_cons (fun _ h => execFaultAnswer_keepsForm _ _ h) allKeep_nil)))
    (plainSteps_keep (allKeep_cons (fun _ h => keepsForm_next (mirror_wf h)) allKeep_nil))

theorem groupSteps_keep (g : Machine.Group) : StepsKeep (s.groupSteps g) :=
  stepsFor_keep (allKeep_append (allKeep_append (allKeep_append (allKeep_map fun _ _ h => execFlagClear_keepsForm _ _ h)
    (allKeep_cons (fun _ h => execFullBitWake_keepsForm _ h) (allKeep_cons (fun _ h => execFaultBufferRetry_keepsForm _ h)
      (allKeep_cons (fun _ h => keepsForm_next h) (allKeep_cons (fun _ h => keepsForm_next h) allKeep_nil)))))
    (allKeep_map fun _ _ h => execJoinRelease_keepsForm _ _ h))
    (allKeep_cons (fun _ h => keepsForm_next (joinDead_wf _ h))
      (allKeep_cons (fun _ h => execFairnessTimer_keepsForm _ h) allKeep_nil)))

theorem engineSteps_keep : StepsKeep s.engineSteps := by
  refine stepsKeep_append (stepsKeep_append (stepsKeep_map fun _ _ h => execCaravanLand_keepsForm _ h) ?_)
    (stepsKeep_flatMap fun _ => stepsFor_keep (allKeep_cons (fun _ h => execXallStart_keepsForm _ h)
      (allKeep_cons (fun _ h => execXallComplete_keepsForm _ _ h) allKeep_nil)))
  intro x hx
  obtain ⟨e, _, he⟩ := List.mem_filterMap.mp hx
  split at he <;> cases he
  exact fun _ h => execMloopIteration_keepsForm _ _ h

theorem ctxSteps_keep (c : Ctx) : StepsKeep (ctxSteps c) := by
  unfold ctxSteps
  split
  · exact stepsFor_keep (allKeep_append (allKeep_flatMap fun _ => allKeep_cons
      (fun _ h => execRouteEntryWake_keepsForm _ _ h) (allKeep_cons (fun _ h => execRouteSpaceWake_keepsForm _ _ h)
        allKeep_nil)) (allKeep_cons (fun _ h => keepsForm_next (popHandler_wf _ h))
      (allKeep_cons (fun _ h => execContextSaveComplete_keepsForm _ h)
        (allKeep_cons (fun _ h => execContextLoadComplete_keepsForm _ h) allKeep_nil))))
  · exact stepsKeep_nil

theorem tokenSteps_keep (c t : Nat) : StepsKeep (tokenSteps c t) := by
  unfold tokenSteps
  split
  · exact stepsFor_keep (allKeep_cons (fun _ h => execTokenResolve_keepsForm _ _ h)
      (allKeep_cons (fun _ h => execTlbinvComplete_keepsForm _ _ h) (allKeep_cons
        (fun _ h => execResfenceComplete_keepsForm _ _ h) (allKeep_cons (fun _ h => execPgattrComplete_keepsForm _ _ h)
          allKeep_nil))))
  · exact stepsKeep_nil

theorem busySteps_keep (c r : Nat) : StepsKeep (busySteps c r) := by
  unfold busySteps
  split
  · exact plainSteps_keep (allKeep_cons (fun _ h => keepsForm_next h) allKeep_nil)
  · exact stepsKeep_nil

theorem blockSteps_keep : StepsKeep s.blockSteps :=
  stepsKeep_append (stepsKeep_flatMap fun _ => stepsFor_keep (allKeep_cons (fun _ h => execBarrierResolve_keepsForm _ h)
    (allKeep_map fun _ _ h => execRepackComplete_keepsForm _ _ h)))
    (plainSteps_keep (allKeep_map fun _ _ h => execContinuationSpawn_keepsForm _ h))

theorem pipeSteps_keep : StepsKeep s.pipeSteps := by
  refine stepsKeep_append (stepsKeep_append (stepsKeep_append (stepsKeep_flatMap fun _ => stepsFor_keep
    (allKeep_cons (fun _ h => execBinStage_keepsForm _ h) (allKeep_cons (fun _ h => execPartialRender_keepsForm _ h)
      (allKeep_cons (fun _ h => execFinalRender_keepsForm _ h) allKeep_nil))))
    (stepsKeep_flatMap fun _ => stepsFor_keep (allKeep_map fun _ _ h => execFragmentRetire_keepsForm _ _ h)))
    (stepsKeep_flatMap fun _ => stepsKeep_flatMap fun r => ?_))
    (stepsKeep_flatMap fun _ => stepsFor_keep (allKeep_cons (fun _ h => execReplayComplete_keepsForm _ h) allKeep_nil))
  split
  · exact stepsFor_keep (allKeep_cons (fun _ h => execNodeFire_keepsForm _ _ _ h) allKeep_nil)
  · exact stepsKeep_nil

theorem scheduleSteps_keep : StepsKeep s.scheduleSteps :=
  plainSteps_keep (allKeep_append (allKeep_append (allKeep_map fun _ _ h => execBlockSave_keepsForm _ h)
    (allKeep_map fun _ _ h => keepsForm_next (wf_of_mem (placeHead_mem _ _) h)))
    (allKeep_cons (fun _ h => keepsForm_next (wf_of_mem (placeHead_mem _ _) h))
      (allKeep_map fun _ _ h => execGroupRetire_keepsForm _ h)))

theorem dueSteps_keep : StepsKeep s.dueSteps :=
  stepsKeep_append (stepsKeep_append (stepsKeep_append (stepsKeep_append (stepsKeep_append (stepsKeep_append
    (stepsKeep_append (stepsKeep_append (stepsKeep_append answerSteps_keep
      (plainSteps_keep (allKeep_map fun _ _ h => resumeClause_keepsForm _ h)))
      (stepsKeep_flatMap fun _ => groupSteps_keep _)) engineSteps_keep)
    (stepsKeep_flatMap fun _ => busySteps_keep _ _)) (stepsKeep_flatMap ctxSteps_keep))
    (stepsKeep_flatMap fun _ => tokenSteps_keep _ _)) blockSteps_keep) pipeSteps_keep) scheduleSteps_keep

theorem portSteps_keep (xs : List (Machine.Group × Nat)) (p : Nat) : StepsKeep (s.portSteps xs p) :=
  stepsKeep_map fun _ _ h => execClauseBegin_keepsForm _ _ h

theorem firstOf_wf {l : DeviceSteps} (hl : StepsKeep l) (h : Memory.wf s.mem = true) :
    ∀ t, s.firstOf l = some t → Memory.wf t.mem = true := by
  induction l with
  | nil => intro t ht; cases ht
  | cons e l ih =>
    obtain ⟨k, f⟩ := e
    have rest := ih fun e he => hl e (List.mem_cons_of_mem _ he)
    have here := hl (k, f) List.mem_cons_self s h
    intro t ht
    unfold State.firstOf at ht
    split at ht
    · next u hu =>
      split at ht
      · exact rest t ht
      · obtain rfl := Option.some.inj ht
        cases k <;> exact here u hu
    · exact rest t ht

theorem firstBegin_wf (xs : List (Machine.Group × Nat)) (ps : List Nat) (h : Memory.wf s.mem = true) :
    ∀ t, s.firstBegin xs ps = some t → Memory.wf t.mem = true := by
  induction ps with
  | nil => intro t ht; cases ht
  | cons p ps ih =>
    intro t ht
    unfold State.firstBegin at ht
    split at ht
    · next hu => cases ht; exact firstOf_wf (portSteps_keep _ _) h _ hu
    · exact ih t ht

theorem deviceTurn_wf (h : Memory.wf s.mem = true) : Memory.wf s.deviceTurn.mem = true :=
  getD_wf (fun t ht => by
    unfold State.moved at ht
    split at ht
    · next hu => cases ht; exact firstOf_wf dueSteps_keep h _ hu
    · exact firstBegin_wf _ _ h t ht) h

/-! ### What moves next -/

/-- The state from which a move goes on holds memory in its canonical form. -/
def MoveKeeps : Move → Prop
  | .event _ t | .instr _ _ _ _ t | .device t => Memory.wf t.mem = true
  | .stuck => True

theorem ite_moveKeeps {p : Prop} [Decidable p] {a b : Move} (ha : MoveKeeps a) (hb : MoveKeeps b) :
    MoveKeeps (if p then a else b) := by
  split
  · exact ha
  · exact hb

theorem issueMove_keeps (u : Nat) (h : Memory.wf s.mem = true) : MoveKeeps (s.issueMove u) := by
  unfold State.issueMove
  split
  · exact h
  · split
    · exact h
    · refine ite_moveKeeps h ?_
      dsimp only
      split
      · trivial
      · exact ite_moveKeeps h h

theorem routeMove_wf (c r : Nat) (b : Bool) (h : Memory.wf s.mem = true) : Memory.wf (s.routeMove c r b).mem = true := by
  unfold State.routeMove
  split
  · next hc =>
    have kept : KeepsForm (if b then execRouteEnable ⟨c, hc⟩ (BitVec.ofNat 12 r) s
        else execRouteDisable ⟨c, hc⟩ (BitVec.ofNat 12 r) s) :=
      ite_keepsForm (execRouteEnable_keepsForm _ _ h) (keepsForm_next (writeDesc_wf _ _ _ _ h))
    split
    · next ht => exact kept _ ht
    · exact h
  · exact h

theorem logicMove_wf (cl k b t : Nat) (h : Memory.wf s.mem = true) : Memory.wf (s.logicMove cl k b t).mem = true := by
  unfold State.logicMove
  split
  · split
    · next ht => exact execLogicError_keepsForm _ _ _ _ h _ ht
    · exact h
  · exact h

theorem eventMove_keeps (i : Instr) (h : Memory.wf s.mem = true) : MoveKeeps (s.eventMove i) := by
  unfold State.eventMove
  split
  · exact h
  · exact h

theorem nextMove_keeps (h : Memory.wf s.mem = true) : MoveKeeps s.nextMove := by
  unfold State.nextMove
  split
  · exact h
  · split
    · exact eventMove_keeps _ h
    · exact issueMove_keeps _ h
    · exact routeMove_wf _ _ _ h
    · exact logicMove_wf _ _ _ _ h
    · exact retirePage_wf _ _ h
    · split
      · exact issueMove_keeps _ h
      · exact h

theorem drawnBy_wf {t : State} (k : Option Nat) (h : Memory.wf t.mem = true) : Memory.wf (s.drawnBy k t).mem = true := by
  cases k with
  | none => exact h
  | some n => exact drawnIf_wf _ h

/-- Every step from a state in canonical form leads to one. -/
theorem step_keepsForm (h : Memory.wf s.mem = true) : KeepsForm (step s) := by
  have move := nextMove_keeps (s := s.tick) h
  unfold step
  split <;> simp only [*] at move
  · split
    · next ht => exact keepsForm_next (drawnBy_wf _ (exec_keepsForm _ move _ ht))
    · next ho => exact fun t e => absurd e (ho t)
  · split
    · next ht => exact keepsForm_next (finishInstr_wf _ _ _ _ (exec_keepsForm _ move _ ht))
    · next ho => exact fun t e => absurd e (ho t)
  · exact fun _ e => by cases e
  · exact keepsForm_next (deviceTurn_wf move)

/-- Settles O7: whatever moves next, an instruction word, a step of the agenda or a step of the device, changes memory
by physical writes only, and each of these keeps the canonical form. -/
theorem memoryStaysCanonical : Obligations.MemoryStaysCanonical := fun _ t h ht => step_keepsForm h t ht

end Sys2Proof.Proofs
end

section
/-! What the loads deliver, and how an address is formed and checked (09 R228, R229; 03 R54-R57; 06 R130). -/

namespace Sys2Proof.Proofs

open Sys2Proof.Machine Sys2Proof.Laws Sys2Proof.Claims

variable {s : State} {g : Machine.Group} {n l pa : Nat} {z : LdSize} {a : DWord}

/-! ### The words of bytes -/

theorem reads_eq_map (m : List Host.Cell) (a n : Nat) :
    Memory.reads m a n = (List.range n).map fun i => Memory.read m (a + i) := by
  induction n generalizing a with
  | zero => rfl
  | succ n ih =>
    rw [Memory.reads, ih, List.range_succ_eq_map, List.map_cons, List.map_map]
    refine congrArg _ (List.map_congr_left fun i _ => ?_)
    exact congrArg (Memory.read m) (by omega)

theorem ofNat_leNat_one (w : Nat) (x : Byte) : BitVec.ofNat w (leNat [x]) = x.setWidth w :=
  BitVec.ofNat_toNat w x

theorem ofNat_leNat_two (w : Nat) (x y : Byte) : BitVec.ofNat w (leNat [x, y]) = (y ++ x).setWidth w := by
  rw [← BitVec.ofNat_toNat w (y ++ x), toNat_append_byte]
  rfl

theorem ofNat_leNat_reads (m : List Host.Cell) (a : Nat) : BitVec.ofNat 32 (leNat (Memory.reads m a 4)) = word4 m a := by
  rw [← word4_toNat, BitVec.ofNat_toNat, BitVec.setWidth_eq]

/-- The destination words of a run of memory are those that a load of its size delivers (R229). -/
theorem extend_reads (m : List Host.Cell) (a : Nat) (z : LdSize) : z.extend (Memory.reads m a z.bytes) = loaded m a z := by
  cases z with
  | b8 => exact congrArg (fun w => [w]) (ofNat_leNat_one 32 _)
  | s8 => exact congrArg (fun b : Byte => [b.signExtend 32]) ((ofNat_leNat_one 8 _).trans (BitVec.setWidth_eq _))
  | b16 => exact congrArg (fun w => [w]) (ofNat_leNat_two 32 _ _)
  | s16 =>
    exact congrArg (fun h : BitVec 16 => [h.signExtend 32]) ((ofNat_leNat_two 16 _ _).trans (BitVec.setWidth_eq _))
  | b32 => exact congrArg (fun w => [w]) (ofNat_leNat_reads m a)
  | b64 => exact congrArg₂ (fun v w => [v, w]) (ofNat_leNat_reads m a) (ofNat_leNat_reads m (a + 4))
  | b128 =>
    show [_, _, _, _] = [_, _, _, _]
    rw [← ofNat_leNat_reads m a, ← ofNat_leNat_reads m (a + 4), ← ofNat_leNat_reads m (a + 8),
      ← ofNat_leNat_reads m (a + 12)]
    rfl

/-! ### Unmarked bytes -/

/-- A run of bytes without marks. -/
theorem mbBad_map {f : Nat → Byte} {p : Nat → Bool} (h : ∀ i, i < n → p i = false) :
    mbBad ((List.range n).map fun i => (f i, p i)) = false := by
  rw [mbBad, List.any_map, List.any_eq_false]
  intro i hi
  simp [h i (List.mem_range.mp hi)]

theorem mbPlain_map (f : Nat → Byte) (p : Nat → Bool) :
    mbPlain ((List.range n).map fun i => (f i, p i)) = (List.range n).map f := by
  rw [mbPlain, List.map_map]
  rfl

/-! ### Plain memory -/

theorem fetchBytes_plain {need : Need} (hg : s.replayOf g = none) (hp : plainAt s g a n need pa) :
    s.fetchBytes (s.who g) a.toNat n need =
      .ok ((List.range n).map fun i => (Memory.read s.mem (pa + i), s.marked (pa + i))) := by
  obtain ⟨served, leaf, reached, owner, kind, rfl, device⟩ := hp
  have alone : (s.who g).replay = none := by rw [State.who, hg]; rfl
  have page : s.pageBytes leaf a.toNat n = (List.range n).map fun i =>
      (Memory.read s.mem (leaf.base + a.toNat % 2 ^ leaf.log2 + i), s.marked (leaf.base + a.toNat % 2 ^ leaf.log2 + i)) := by
    unfold State.pageBytes
    simp only [owner, device, kind, ne_eq, not_true_eq_false, Bool.false_eq_true, if_false]
  unfold State.fetchBytes
  rw [show s.served (s.who g).slot a.toNat n = none from served]
  simp only [reached, page, alone]
  rfl

/-- A load from plain memory that no mark spoils (R224, R225). -/
theorem loadGlobal_plain {need : Need} (hg : s.replayOf g = none) (ha : wellFormed a n) (hp : plainAt s g a n need pa)
    (hm : unmarked s pa n) : s.loadGlobal (s.who g) a n need = .ok (Memory.reads s.mem pa n) := by
  unfold State.loadGlobal State.loadMarked
  rw [checkForm_good ha]
  simp only [fetchBytes_plain hg hp, mbBad_map hm, mbPlain_map, reads_eq_map]
  rfl

theorem loadOp_plain {m : MemX} (hg : s.replayOf g = none) (ha : wellFormed (globalAddr s g l z.bytes m) z.bytes)
    (hp : plainAt s g (globalAddr s g l z.bytes m) z.bytes .read pa) (hm : unmarked s pa z.bytes) :
    (loadOp z m).run s g l = .ok { state := s.touch (s.who g) (globalAddr s g l z.bytes m).toNat false
                                   words := loaded s.mem pa z } := by
  unfold loadOp
  simp only [loadGlobal_plain hg ha hp hm, extend_reads]

theorem scalarLoadOp_plain {m : MemX} {d : SReg} {e : Mask} (hg : s.replayOf g = none)
    (ha : wellFormed (globalAddr s g 0 z.bytes m) z.bytes)
    (hp : plainAt s g (globalAddr s g 0 z.bytes m) z.bytes .read pa) (hm : unmarked s pa z.bytes) :
    (scalarLoadOp z d m).run s g e = .ok { state := s.touch (s.who g) (globalAddr s g 0 z.bytes m).toNat false
                                           words := loaded s.mem pa z } := by
  unfold scalarLoadOp
  simp only [scalarAddr, loadGlobal_plain hg ha hp hm, extend_reads]

/-! ### Scratchpad -/

/-- A load from scratchpad bytes that are neither a serai's nor marked. -/
theorem loadSpad_plain {b : Block} {off : Nat} (hb : s.block? b.uid = some b)
    (h : ∀ i, i < n → s.inSerai b.uid (off + i) = false ∧ b.spadPoison.contains (off + i) = false) :
    s.loadSpad b.uid off n = .ok (Memory.reads b.spad off n) := by
  have bytes : s.spadBytes b off n = (List.range n).map fun i =>
      (Memory.read b.spad (off + i), b.spadPoison.contains (off + i)) :=
    List.map_congr_left fun i hi => by rw [(h i (List.mem_range.mp hi)).1]; rfl
  unfold State.loadSpad
  rw [hb]
  simp only [bytes, mbBad_map fun i hi => (h i hi).2, mbPlain_map, reads_eq_map]
  rfl

theorem localLoadOp_plain {m : MemX} {cluster : Bool} {b : Block} {off : Nat}
    (hl : s.locate g cluster (localAddr s g l z.bytes m).toNat z.bytes = .ok (b.uid, off)) (hb : s.block? b.uid = some b)
    (h : ∀ i, i < z.bytes → s.inSerai b.uid (off + i) = false ∧ b.spadPoison.contains (off + i) = false) :
    (localLoadOp cluster z m).run s g l = .ok { state := s, words := loaded b.spad off z } := by
  unfold localLoadOp
  simp only [hl, loadSpad_plain hb h, extend_reads]

/-- Settles O28: a load of plain memory or of scratchpad fetches the bytes as they stand (`loadGlobal_plain`,
`loadSpad_plain`), and its words are theirs (`extend_reads`). -/
theorem loadsDeliver : Obligations.LoadsDeliver := by
  refine ⟨fun z q d b o m => ?_, fun z q d b o m => ?_, ?_, ?_, ?_⟩
  · exact ⟨performs_of_issueLanes fun _ => rfl, performs_of_issueLanes fun _ => rfl,
      performs_of_issueLanes fun _ => rfl, performs_of_issueLanes fun _ => rfl,
      performs_of_issueLanes fun _ => rfl, performs_of_issueLanes fun _ => rfl⟩
  · exact ⟨performsOnce_of_issueGroupOp fun _ => rfl, performsOnce_of_issueGroupOp fun _ => rfl⟩
  · exact fun z m s g l pa hg ha hp hm => loadOp_plain hg ha hp hm
  · exact fun z d m s g e pa hg ha hp hm => scalarLoadOp_plain hg ha hp hm
  · exact fun z m cluster s g l b off hl hb h => localLoadOp_plain hl hb h

/-! ### Addresses -/

theorem addr64_eq (a : DWord) (x : Int) : addr64 a x = BitVec.ofInt 64 (a.toNat + x) := by
  rw [addr64, BitVec.ofInt_add, BitVec.ofInt_natCast, BitVec.ofNat_toNat, BitVec.setWidth_eq]

theorem addr32_eq (a : Word) (x : Int) : addr32 a x = BitVec.ofInt 32 (a.toNat + x) := by
  rw [addr32, BitVec.ofInt_add, BitVec.ofInt_natCast, BitVec.ofNat_toNat, BitVec.setWidth_eq]

theorem globalAddr_eq (m : MemX) : globalAddr s g l n m =
    BitVec.ofInt 64 ((m.base64 s g l).toNat + m.index s g l n + m.offset n) := by
  rw [globalAddr, addr64_eq, Int.add_assoc]

theorem localAddr_eq (m : MemX) : localAddr s g l n m =
    BitVec.ofInt 32 ((m.base32 s g l).toNat + m.index s g l n + m.offset n) := by
  rw [localAddr, addr32_eq, Int.add_assoc]

theorem addressFormed : AddressFormed := by
  intro s g l n b a i o x sc S V I
  refine ⟨?_, ?_, ?_, ?_, ?_, ?_, ?_, ?_, ?_, ?_, ?_, ?_⟩
  all_goals
    simp only [globalAddr_eq, localAddr_eq, MemX.index, MemX.offset, Int.add_zero]
    rfl

/-! ### Checks -/

theorem checkForm_form {b : Bool} (h : canonical a = false) :
    checkForm a n b = .error { code := .addrform, addr := a.toNat, write := b } := by
  unfold checkForm
  rw [if_pos (by simp [h])]

theorem checkForm_align {b : Bool} (h : canonical a = true) (ha : a.toNat % n ≠ 0) :
    checkForm a n b = .error { code := .align, addr := a.toNat, write := b } := by
  unfold checkForm
  rw [if_neg (by simp [h]), if_pos ha]

/-- A fault of an access of a lane at an address. -/
def FaultsWith {α : Type} (o : Except FaultAt α) (code : Code) (a : DWord) : Prop :=
  ∃ f, o = .error f ∧ f.code = code ∧ f.addr = a.toNat

theorem loadOp_faults {m : MemX} {code : Code}
    (h : FaultsWith (s.loadMarked (s.who g) (globalAddr s g l z.bytes m) z.bytes .read) code (globalAddr s g l z.bytes m)) :
    FaultsWith ((loadOp z m).run s g l) code (globalAddr s g l z.bytes m) := by
  obtain ⟨f, hf, hc, ha⟩ := h
  refine ⟨f, ?_, hc, ha⟩
  unfold loadOp State.loadGlobal
  simp only [hf]

theorem storeOp_faults {w : StNarrow} {d : VReg} {m : MemX} {code : Code}
    (h : ∀ bs : List Byte, bs.length = z.bytes →
      FaultsWith (s.storeGlobal (s.who g) (globalAddr s g l z.bytes m) bs .write) code (globalAddr s g l z.bytes m))
    (hz : z.narrowOk w = true) : FaultsWith ((storeOp z w d m).run s g l) code (globalAddr s g l z.bytes m) := by
  have stored := storeBytes_stored (ovt := s.ovtOf g) (fun k => readV s g l (d.val + k)) hz
  obtain ⟨f, hf, hc, ha⟩ := h _ stored.size
  refine ⟨f, ?_, hc, ha⟩
  unfold storeOp
  simp only [readVs, hf]

/-- A form that fails fails the load, and the store that it would be (R224). -/
theorem faults_of_form {code : Code} {v : Who} (h : ∀ b, FaultsWith (checkForm a n b) code a) :
    FaultsWith (s.loadMarked v a n .read) code a ∧
      ∀ bs : List Byte, bs.length = n → FaultsWith (s.storeGlobal v a bs .write) code a := by
  constructor
  · obtain ⟨f, hf, rest⟩ := h (Need.writes .read)
    refine ⟨f, ?_, rest⟩
    unfold State.loadMarked
    rw [hf]
  · rintro bs rfl
    obtain ⟨f, hf, rest⟩ := h true
    refine ⟨f, ?_, rest⟩
    unfold State.storeGlobal
    rw [hf]

theorem loadMarked_bad {v : Who} {code : Code} {lv : Nat} (ha : wellFormed a n) (hs : s.served v.slot a.toNat n = none)
    (hr : s.reach v a.toNat n .read = .bad code lv) : FaultsWith (s.loadMarked v a n .read) code a := by
  refine ⟨{ code := code, addr := a.toNat, level := lv, write := false, atomic := false }, ?_, rfl, rfl⟩
  unfold State.loadMarked State.fetchBytes
  rw [checkForm_good ha]
  simp only [hs, hr]
  rfl

theorem storeGlobal_bad {v : Who} {code : Code} {lv : Nat} (ha : wellFormed a n)
    (hr : s.reach v a.toNat n .write = .bad code lv) (bs : List Byte) (hl : bs.length = n) :
    FaultsWith (s.storeGlobal v a bs .write) code a := by
  subst hl
  have length : (mbClean bs).length = bs.length := List.length_map ..
  refine ⟨{ code := code, addr := a.toNat, level := lv, write := true }, ?_, rfl, rfl⟩
  unfold State.storeGlobal State.checkStore
  rw [checkForm_good ha]
  simp only [length, hr]

theorem reach_of_bad {v : Who} {va lv : Nat} {need : Need} (h : s.lookup v va = .bad lv) :
    s.reach v va n need = .bad .ptformat lv := by
  unfold State.reach
  rw [h]

theorem reach_of_invalid {v : Who} {va lv : Nat} {need : Need} (h : s.lookup v va = .invalid false lv) :
    s.reach v va n need = .bad .notmapped lv := by
  unfold State.reach
  rw [h]
  rfl

theorem reach_of_protected {v : Who} {va : Nat} {leaf : Leaf} (h : s.lookup v va = .leaf leaf)
    (hw : leaf.write = false) : s.reach v va n .write = .bad .writeprot leaf.level := by
  unfold State.reach
  rw [h]
  simp only [hw]
  rfl

theorem localLoadOp_spadrange {m : MemX} {b : Block} (hb : s.blockOf g = some b)
    (h : b.spadBad (localAddr s g l z.bytes m).toNat z.bytes = true) :
    (localLoadOp false z m).run s g l = .error { code := .spadrange, addr := (localAddr s g l z.bytes m).toNat } := by
  have located : s.locate g false (localAddr s g l z.bytes m).toNat z.bytes =
      .error { code := .spadrange, addr := (localAddr s g l z.bytes m).toNat } := by
    unfold State.locate
    rw [if_neg (by decide), hb]
    exact if_pos h
  unfold localLoadOp
  simp only [located]

theorem addressChecks : AddressChecks := by
  intro s g l z w d m a at_ both
  have faults : ∀ code, FaultsWith (s.loadMarked (s.who g) a z.bytes .read) code a ∧ (∀ bs : List Byte,
      bs.length = z.bytes → FaultsWith (s.storeGlobal (s.who g) a bs .write) code a) → both code :=
    fun code h => ⟨loadOp_faults h.1, storeOp_faults h.2⟩
  refine ⟨fun h => faults _ (faults_of_form fun b => ⟨_, checkForm_form h, rfl, rfl⟩),
    fun h ha => faults _ (faults_of_form fun b => ⟨_, checkForm_align h ha, rfl, rfl⟩), fun ha hs => ⟨?_, ?_, ?_⟩, ?_⟩
  · exact fun lv h => faults _ ⟨loadMarked_bad ha hs (reach_of_bad h), storeGlobal_bad ha (reach_of_bad h)⟩
  · exact fun lv h => faults _ ⟨loadMarked_bad ha hs (reach_of_invalid h), storeGlobal_bad ha (reach_of_invalid h)⟩
  · exact fun leaf h hw hz => storeOp_faults (storeGlobal_bad ha (reach_of_protected h hw)) hz
  · exact fun b hb h => ⟨_, localLoadOp_spadrange hb h, rfl⟩

/-- Settles O29: an address is its base, index and offset added modulo 2^64 or 2^32 (`globalAddr_eq`, `localAddr_eq`),
and its form is checked before its translation, that before its permission. -/
theorem addresses : Obligations.Addresses := ⟨addressFormed, addressChecks⟩

end Sys2Proof.Proofs
end

section
/-! Stores (O31): what performing them leaves as it was, and the bytes and marks they leave. -/

namespace Sys2Proof.Proofs

open Sys2Proof.Machine Sys2Proof.Laws Sys2Proof.Claims

variable {s t : State}

/-! ### Poison marks of physical memory -/

@[simp] theorem mem_insertNat {n k : Nat} {l : List Nat} : k ∈ insertNat n l ↔ k = n ∨ k ∈ l := by
  induction l with
  | nil => simp [insertNat]
  | cons j l ih =>
    rw [insertNat]
    split
    · simp
    · split
      · next h => subst h; simp
      · simp only [List.mem_cons, ih]; tauto

theorem mem_foldl_insertNat {f : Nat → Nat} {k : Nat} {is l : List Nat} :
    k ∈ is.foldl (fun l i => insertNat (f i) l) l ↔ k ∈ l ∨ ∃ i ∈ is, k = f i := by
  induction is generalizing l with
  | nil => simp
  | cons i is ih =>
    rw [List.foldl_cons, ih, mem_insertNat]
    simp only [List.mem_cons, exists_eq_or_imp]
    tauto

theorem codedMarks_uncode (b blk : Nat) :
    (s.uncode blk).codedMarks b = if b = blk then [] else s.codedMarks b := by
  unfold State.uncode
  split
  case isTrue h =>
    split
    · next hb => rw [hb, h]
    · rfl
  case isFalse h =>
    simp only [State.codedMarks, List.filter_filter]
    split
    · next hb => subst hb; simp
    · next hb =>
      refine List.filter_congr fun a _ => ?_
      by_cases ha : a / 64 = b <;> simp [ha, hb]

/-- The marks of a block's decoded bytes are those of its code, so that spelling them out changes none. -/
@[simp] theorem marked_uncode (blk a : Nat) : (s.uncode blk).marked a = s.marked a := by
  unfold State.marked
  rw [codedMarks_uncode]
  unfold State.uncode
  split
  case isTrue h =>
    by_cases ha : a / 64 = blk
    · subst ha; simp [h]
    · simp [ha]
  case isFalse h =>
    rw [Bool.eq_iff_iff]
    by_cases ha : a / 64 = blk
    · subst ha
      simp only [List.contains_iff_mem, mem_foldl_insertNat, List.mem_range, if_pos, h, Bool.or_eq_true,
        Bool.and_eq_true, decide_eq_true_eq, ne_eq, not_true_eq_false, and_false, or_false, not_false_eq_true, and_true]
      exact or_congr_right ⟨fun ⟨i, hi, e⟩ => by omega, fun hi => ⟨a % 64, hi, by omega⟩⟩
    · simp only [List.contains_iff_mem, mem_foldl_insertNat, List.mem_range, if_neg ha, Bool.or_eq_true]
      refine or_congr_left (or_iff_left ?_)
      rintro ⟨i, hi, e⟩
      omega

/-- Setting a byte's mark changes no other byte's. -/
theorem marked_setMark (pa a : Nat) (m : Bool) : (s.setMark pa m).marked a = if a = pa then m else s.marked a := by
  have hcoded := codedMarks_uncode (s := s) (pa / 64) (pa / 64)
  have hmark := marked_uncode (s := s) (pa / 64) a
  unfold State.setMark
  generalize s.uncode (pa / 64) = u at hcoded hmark
  rw [← hmark, Bool.eq_iff_iff]
  have hc : ∀ p, ({ u with memPoison := p } : State).codedMarks = u.codedMarks := fun _ => rfl
  by_cases ha : a = pa
  · subst ha
    cases m <;> simp [State.marked, hc, hcoded]
  · cases m <;> simp [State.marked, hc, ha]

/-- A physical write brings each of its bytes the mark it carries, and changes no other mark. -/
theorem marked_physWrite (pa a : Nat) (bs : MBytes) : (s.physWrite pa bs).marked a =
    if pa ≤ a ∧ a < pa + bs.length then (bs.getD (a - pa) (0, false)).2 else s.marked a := by
  induction bs generalizing s pa with
  | nil => rw [if_neg (by simp)]; rfl
  | cons x bs ih =>
    obtain ⟨b, m⟩ := x
    have hw : ({ s with mem := Memory.write s.mem pa b } : State).marked a = s.marked a := rfl
    rw [State.physWrite, ih, marked_setMark, hw]
    by_cases ha : a = pa
    · subst ha; simp
    · obtain h | h := Nat.lt_or_gt_of_ne ha
      · simp [ha, show ¬ pa ≤ a by omega, show ¬ pa + 1 ≤ a by omega]
      · obtain ⟨i, rfl⟩ : ∃ i, a = pa + 1 + i := ⟨a - (pa + 1), by omega⟩
        simp [ha, show pa + 1 + i - pa = i + 1 by omega, show pa ≤ pa + 1 + i by omega,
          show pa + 1 + i < pa + (bs.length + 1) ↔ i < bs.length by omega]

/-- What physical memory holds at an address: the byte and its mark. -/
def physCell (s : State) (a : Nat) : Byte × Bool := (Memory.read s.mem a, s.marked a)

theorem cell_physWrite (pa : Nat) (bs : MBytes) {i : Nat} (hi : i < bs.length) :
    bs[i]? = some (physCell (s.physWrite pa bs) (pa + i)) := by
  have hp : i < (mbPlain bs).length := by simpa [mbPlain] using hi
  unfold physCell
  rw [marked_physWrite, physWrite_mem, memory_read_writes_at _ _ _ _ hp,
    if_pos ⟨by omega, by omega⟩, List.getElem?_eq_getElem hi]
  simp [mbPlain, hi]

/-! ### What a store leaves as it was -/

/-- The parts of a state that no store to memory changes: the contexts and the blocks. -/
abbrev keptByStores (s : State) : List Ctx × List Block := (s.ctxs, s.blocks)

/-- The parts of a state that the use of a page leaves as they were. -/
abbrev keptByTouch (s : State) : List Host.Cell × List Nat × List Nat × List Ctx × List Block :=
  (s.mem, s.memPoison, s.codedPoison, s.ctxs, s.blocks)

theorem keptByTouch_logRas (r : Ras) : keptByTouch (s.logRas r) = keptByTouch s := by
  unfold State.logRas State.reportDrops
  dsimp only
  repeat' split
  all_goals rfl

theorem keptByTouch_touch (w : Who) (va : Nat) (d : Bool) : keptByTouch (s.touch w va d) = keptByTouch s := by
  have stale (l : Leaf) : keptByTouch (s.staleUse w va l) = keptByTouch s := by
    unfold State.staleUse
    split
    · split
      · rfl
      · exact keptByTouch_logRas _
    · rfl
  have cache (t : State) (l : Leaf) : keptByTouch (t.cacheLeaf w va l) = keptByTouch t := by
    unfold State.cacheLeaf; split <;> rfl
  have fill (t : State) (l : Leaf) : keptByTouch (t.fillLine w va l) = keptByTouch t := by
    unfold State.fillLine; split <;> rfl
  unfold State.touch
  split
  · next l _ =>
    cases d
    · exact (cache _ l).trans (stale l)
    · exact (fill _ l).trans ((cache _ l).trans (stale l))
  · rfl

theorem keptByTouch_spoilWhere (p : Machine.Group → MatUse → Bool) :
    keptByTouch (s.spoilWhere p) = keptByTouch s := by
  unfold State.spoilWhere
  split <;> rfl

theorem keptByTouch_globSpoil (w : Who) (pa n : Nat) : keptByTouch (s.globSpoil w pa n) = keptByTouch s :=
  keptByTouch_spoilWhere _

/-- Outside a replay, what memory holds after the stores is what putting their bytes there leaves. -/
theorem keptByTouch_perform {w : Who} (hw : w.replay = none) (ps : List Put) :
    keptByTouch (s.perform w ps) = keptByTouch (s.putAll ps ps []) := by
  unfold State.perform
  rw [hw]
  dsimp only
  rw [foldl_keeps keptByTouch (fun t (p : Put) => t.globSpoil w p.pa p.data.length) fun _ _ => keptByTouch_globSpoil ..,
    foldl_keeps keptByTouch (fun t (p : Put) => t.touch w p.va true) fun _ _ => keptByTouch_touch ..]

theorem cell_of_keptByTouch (h : keptByTouch t = keptByTouch s) (a : Nat) : physCell t a = physCell s a := by
  obtain ⟨hm, hp, hc, -, -⟩ := by simpa only [keptByTouch, Prod.mk.injEq] using h
  simp only [physCell, State.marked, State.codedMarks, hm, hp, hc]
  rfl

theorem keptByStores_regWrite (off : Nat) (v : Word) : keptByStores (s.regWrite off v) = keptByStores s := by
  unfold State.regWrite State.writeHeadCtl State.modHead State.modPart
  split
  · split <;> rfl
  · split <;> split <;> rfl

theorem keptByStores_physWrite (pa : Nat) (bs : MBytes) : keptByStores (s.physWrite pa bs) = keptByStores s := by
  obtain ⟨m, p, k, h⟩ := physWrite_frame s pa bs
  rw [h]

theorem keptByStores_codedPoison (k : List Nat) : keptByStores { s with codedPoison := k } = keptByStores s := rfl

theorem keptByStores_recode (p : Put) (all : List Put) : keptByStores (s.recode p all) = keptByStores s := by
  unfold State.recode
  dsimp only
  rw [keptByStores_physWrite, keptByStores_codedPoison, keptByStores_physWrite, keptByStores_codedPoison]

/-! ### The footprint of a store -/

/-- What one store of a list does to memory; `done` names the compressed blocks already coded. -/
def putOne (s : State) (all : List Put) (p : Put) (done : List Nat) : State :=
  if p.leaf.owner ≠ 255 then s
  else if inDevice p.pa then s.regWrite (devOffset p.pa) (BitVec.ofNat 32 (leNat (mbPlain p.data)))
  else if p.leaf.kind = .compressed then if done.contains (p.pa / 64) then s else s.recode p all
  else s.physWrite p.pa p.data

/-- The compressed blocks coded once a store of a list has been performed. -/
def codedAfter (p : Put) (done : List Nat) : List Nat :=
  if p.leaf.owner ≠ 255 then done
  else if inDevice p.pa then done
  else if p.leaf.kind = .compressed then if done.contains (p.pa / 64) then done else p.pa / 64 :: done
  else done

theorem putAll_cons (all ps : List Put) (p : Put) (done : List Nat) :
    s.putAll all (p :: ps) done = (putOne s all p done).putAll all ps (codedAfter p done) := by
  rw [State.putAll, putOne, codedAfter]
  repeat' split
  all_goals rfl

theorem putAll_append (all ps qs : List Put) (done : List Nat) : ∃ done',
    s.putAll all (ps ++ qs) done = (s.putAll all ps done).putAll all qs done' := by
  induction ps generalizing s done with
  | nil => exact ⟨done, rfl⟩
  | cons p ps ih =>
    rw [List.cons_append, putAll_cons, putAll_cons]
    exact ih _

/-- Coding a block again changes its code and its side-table entry (R97). -/
theorem recode_read_outside (p : Put) (all : List Put) {a : Nat}
    (hcode : ¬ (p.pa / 64 * 64 ≤ a ∧ a < p.pa / 64 * 64 + 16))
    (hside : ¬ (p.leaf.side + 2 * ((p.pa - p.leaf.base) / 64) ≤ a ∧
      a < p.leaf.side + 2 * ((p.pa - p.leaf.base) / 64) + 2)) :
    Memory.read (s.recode p all).mem a = Memory.read s.mem a := by
  unfold State.recode
  dsimp only
  rw [physWrite_read_outside _ _ _ _ (by simp [mbClean]; omega),
    physWrite_read_outside _ _ _ _ (by simp [mbClean]; omega)]

theorem putOne_read_outside (all : List Put) (p : Put) (done : List Nat) {a : Nat} (h : ¬ footprint p a) :
    Memory.read (putOne s all p done).mem a = Memory.read s.mem a := by
  unfold putOne
  split
  · rfl
  · next ho =>
    split
    · rw [regWrite_mem]
    · next hd =>
      have hf : ¬ _ := fun x => h ⟨not_not.mp ho, by simpa using hd, x⟩
      split
      · next hk =>
        split
        · rfl
        · rw [if_pos hk, not_or] at hf
          exact recode_read_outside p all hf.1 hf.2
      · next hk =>
        rw [if_neg hk] at hf
        exact physWrite_read_outside _ _ _ _ (by omega)

theorem putAll_read_outside (all ps : List Put) (done : List Nat) {a : Nat} (h : ∀ p ∈ ps, ¬ footprint p a) :
    Memory.read (s.putAll all ps done).mem a = Memory.read s.mem a := by
  induction ps generalizing s done with
  | nil => rfl
  | cons p ps ih =>
    rw [List.forall_mem_cons] at h
    rw [putAll_cons, ih _ h.2, putOne_read_outside all p done h.1]

theorem keptByStores_putOne (all : List Put) (p : Put) (done : List Nat) :
    keptByStores (putOne s all p done) = keptByStores s := by
  unfold putOne
  split
  · rfl
  · split
    · exact keptByStores_regWrite _ _
    · split
      · split
        · rfl
        · exact keptByStores_recode _ _
      · exact keptByStores_physWrite _ _

theorem keptByStores_putAll (all ps : List Put) (done : List Nat) :
    keptByStores (s.putAll all ps done) = keptByStores s := by
  induction ps generalizing s done with
  | nil => rfl
  | cons p ps ih => rw [putAll_cons, ih, keptByStores_putOne]

theorem keptByStores_perform (w : Who) (ps : List Put) : keptByStores (s.perform w ps) = keptByStores s := by
  cases hw : w.replay with
  | none =>
    have h := keptByTouch_perform (s := s) hw ps
    simp only [keptByTouch, Prod.mk.injEq] at h
    rw [← keptByStores_putAll ps ps [] (s := s)]
    exact Prod.ext h.2.2.2.1 h.2.2.2.2
  | some n => unfold State.perform; rw [hw]; rfl

theorem perform_read_outside {w : Who} {ps : List Put} {a : Nat}
    (h : ∀ p ∈ ps, w.replay = none → ¬ footprint p a) :
    Memory.read (s.perform w ps).mem a = Memory.read s.mem a := by
  cases hw : w.replay with
  | none =>
    rw [(Prod.mk.inj (keptByTouch_perform hw ps)).1]
    exact putAll_read_outside ps ps [] fun p hp => h p hp hw
  | some n => rw [perform_replay_mem ps hw]

/-- The last store to plain memory reads back (R77). -/
theorem perform_last {w : Who} (hw : w.replay = none) (qs : List Put) (p : Put) (ho : p.leaf.owner = 255)
    (hk : p.leaf.kind ≠ .compressed) (hd : inDevice p.pa = false) {i : Nat} (hi : i < p.data.length) :
    p.data[i]? = some (physCell (s.perform w (qs ++ [p])) (p.pa + i)) := by
  rw [cell_of_keptByTouch (keptByTouch_perform hw (qs ++ [p]))]
  obtain ⟨done, h⟩ := putAll_append (s := s) (qs ++ [p]) qs [p] []
  rw [h, putAll_cons, putOne, if_neg (not_not.mpr ho), hd, if_neg Bool.false_ne_true, if_neg hk]
  exact cell_physWrite _ _ hi

theorem storeFrame : StoreFrame := fun s w ps => by
  have hkept := keptByStores_perform (s := s) w ps
  refine ⟨fun a => perform_read_outside, congrArg Prod.fst hkept, congrArg Prod.snd hkept, ?_⟩
  rintro qs p i rfl hw ho hk hd hi
  exact perform_last hw qs p ho hk hd hi

/-! ### Stores to scratchpad -/

/-- The block of a number after a change that keeps the numbers of blocks. -/
theorem block?_modBlock {u : Nat} {f : Block → Block} (hf : ∀ b, (f b).uid = b.uid) (v : Nat) :
    (s.modBlock u f).block? v = (s.block? v).map fun b => if b.uid = u then f b else b := by
  simp only [State.block?, State.modBlock, List.find?_map]
  congr 2
  funext b
  simp only [Function.comp_apply]
  split <;> simp [hf]

theorem spadWrite_uid (b : Block) (off : Nat) (m : MBytes) : (b.spadWrite off m).uid = b.uid := by
  induction m generalizing b off with
  | nil => rfl
  | cons x m ih => rw [Block.spadWrite, ih]

theorem spadWrite_lines (b : Block) (off : Nat) (m : MBytes) : (b.spadWrite off m).lines = b.lines := by
  induction m generalizing b off with
  | nil => rfl
  | cons x m ih => rw [Block.spadWrite, ih]

theorem spadWrite_spad (b : Block) (off : Nat) (m : MBytes) :
    (b.spadWrite off m).spad = Memory.writes b.spad off (mbPlain m) := by
  induction m generalizing b off with
  | nil => rfl
  | cons x m ih => rw [Block.spadWrite, ih]; rfl

theorem line_modLine (b : Block) (i j : Nat) (f : SpadLine → SpadLine) :
    (b.modLine i f).line j = if j = i then f (b.line i) else b.line j := by
  rw [Block.line, Block.modLine, tget_tset]
  rfl

/-- The lines of a block after the stored bytes with a copy pending are noted (R61). -/
def noted (b : Block) (off : Nat) (hit : List Nat) : Block :=
  hit.foldl (fun b i => b.modLine ((off + i) / 128) fun l => { l with clob := insertNat (off + i) l.clob }) b

theorem noted_uid (b : Block) (off : Nat) (hit : List Nat) : (noted b off hit).uid = b.uid := by
  induction hit generalizing b with
  | nil => rfl
  | cons i hit ih => exact ih _

theorem noted_spad (b : Block) (off : Nat) (hit : List Nat) : (noted b off hit).spad = b.spad := by
  induction hit generalizing b with
  | nil => rfl
  | cons i hit ih => exact ih _

theorem noted_full (b : Block) (off : Nat) (hit : List Nat) (j : Nat) :
    ((noted b off hit).line j).full = (b.line j).full := by
  induction hit generalizing b with
  | nil => rfl
  | cons i hit ih =>
    refine (ih _).trans ?_
    rw [line_modLine]
    split
    · next h => rw [h]
    · rfl

/-- A block after a store to its scratchpad. -/
def storedBlock (s : State) (off : Nat) (m : MBytes) (b : Block) : Block :=
  noted (b.spadWrite off m) off ((List.range m.length).filter fun i => s.copyPending b.uid (off + i))

theorem blocks_spoilWhere (p : Machine.Group → MatUse → Bool) : (s.spoilWhere p).blocks = s.blocks :=
  congrArg (·.2.2.2.2) (keptByTouch_spoilWhere p)

theorem block?_spadStore (u off v : Nat) (m : MBytes) : (s.spadStore u off m).block? v =
    (s.block? v).map fun b => if b.uid = u then storedBlock s off m b else b := by
  have hblocks : (s.spadStore u off m).blocks = (s.modBlock u (storedBlock s off m)).blocks := by
    unfold State.spadStore State.spadSpoil
    dsimp only
    rw [blocks_spoilWhere]
    split
    all_goals
      refine List.map_congr_left fun b _ => ?_
      split
      · next h => rw [storedBlock, h]; rfl
      · rfl
  rw [← block?_modBlock fun b => by rw [storedBlock, noted_uid, spadWrite_uid]]
  exact congrArg (List.find? _) hblocks

theorem storedBlock_read (off o : Nat) (bytes : List Byte) (b : Block) :
    Memory.read (storedBlock s off (mbClean bytes) b).spad o =
      if off ≤ o ∧ o < off + bytes.length then bytes.getD (o - off) 0 else Memory.read b.spad o := by
  rw [storedBlock, noted_spad, spadWrite_spad, mbPlain_mbClean]
  split
  case isTrue h =>
    obtain ⟨i, rfl⟩ := Nat.exists_eq_add_of_le h.1
    have hi : i < bytes.length := by omega
    rw [memory_read_writes_at _ _ _ _ hi, Nat.add_sub_cancel_left, List.getD_eq_getElem _ _ hi]
  case isFalse h => exact memory_read_writes_outside _ _ _ _ (by omega)

/-- A store to scratchpad changes no full bit (R61). -/
theorem storedBlock_full (off : Nat) (m : MBytes) (b : Block) (i : Nat) :
    ((storedBlock s off m b).line i).full = (b.line i).full := by
  rw [storedBlock, noted_full, Block.line, spadWrite_lines, Block.line]

theorem scratchStoreFrame : ScratchStoreFrame := fun s b off bytes hb => by
  refine ⟨spadStore_mem _ _ _, storedBlock s off (mbClean bytes) b, ?_, fun o => storedBlock_read off o bytes b,
    storedBlock_full off _ b, fun v hv => ?_⟩
  · change (s.spadStore b.uid off (mbClean bytes)).block? b.uid = _
    rw [block?_spadStore, hb, Option.map_some, if_pos rfl]
  · rw [block?_spadStore]
    cases hx : s.block? v with
    | none => rfl
    | some x =>
      have hu : x.uid = v := by simpa using List.find?_some hx
      rw [Option.map_some, if_neg (hu.trans_ne hv)]

/-- Settles O31, by the frame of each kind of store, followed through the list of stores. -/
theorem storeFrames : Obligations.StoreFrames := ⟨storeFrame, scratchStoreFrame⟩

end Sys2Proof.Proofs
end

section
/-! Atomics (O32): what one lane's leaves at its location and returns (09 R239; 03 R77). -/

namespace Sys2Proof.Proofs

open Sys2Proof.Machine Sys2Proof.Laws Sys2Proof.Claims

variable {s : State} {g : Machine.Group} {l pa : Nat} {o : AtomOp} {t : AtomTy} {c : VReg}

/-! ### The operands and the location -/

theorem leNat_bytesOf_one (x : Word) : leNat (bytesOf [x]) = x.toNat := by
  rw [bytesOf, bytesOf, List.append_nil, leNat_natLe_mod, Nat.mod_eq_of_lt (by have := x.isLt; omega)]

theorem leNat_append (xs ys : List Byte) : leNat (xs ++ ys) = leNat xs + 256 ^ xs.length * leNat ys := by
  induction xs with
  | nil => simp [leNat]
  | cons x xs ih => rw [List.cons_append, leNat, leNat, ih, List.length_cons, Nat.pow_succ]; ring

theorem leNat_bytesOf_two (x y : Word) : leNat (bytesOf [x, y]) = (pair64 x y).toNat := by
  rw [bytesOf, leNat_append, leNat_bytesOf_one, leNat_natLe_mod, natLe_length, pair64, BitVec.toNat_ofNat]
  have := x.isLt
  have := y.isLt
  omega

/-- The operand of an atomic is the register's value, or the pair's (R238). -/
theorem leNat_bytesOf_readVs (r : Nat) : leNat (bytesOf (readVs s g l r t.regs)) =
    if t.is64 then (readV64 s g l r).toNat else (readV s g l r).toNat := by
  cases t
  case s64 | u64 => exact leNat_bytesOf_two _ _
  all_goals exact leNat_bytesOf_one _

/-- The value at a location is that of the words a load of its size delivers. -/
theorem leNat_reads_atom (m : List Host.Cell) (a : Nat) : leNat (Memory.reads m a (4 * t.regs)) =
    ((loaded m a (atomSize t)).getD 1 0).toNat * 2 ^ 32 + ((loaded m a (atomSize t)).getD 0 0).toNat := by
  have two : leNat (Memory.reads m a 8) = (word4 m (a + 4)).toNat * 2 ^ 32 + (word4 m a).toNat := by
    rw [word4_toNat, word4_toNat]
    refine (leNat_append (Memory.reads m a 4) (Memory.reads m (a + 4) 4)).trans ?_
    rw [show (Memory.reads m a 4).length = 4 from rfl]
    omega
  have one : leNat (Memory.reads m a 4) = (0 : Word).toNat * 2 ^ 32 + (word4 m a).toNat := by
    rw [word4_toNat]; exact (Nat.zero_add _).symm
  cases t
  case s64 | u64 => exact two
  all_goals exact one

/-- The result of an atomic is what a load of its location delivers (R239). -/
theorem wordsOf_reads_atom (m : List Host.Cell) (a : Nat) :
    wordsOf t.regs (Memory.reads m a (4 * t.regs)) = loaded m a (atomSize t) := by
  rw [← extend_reads]
  cases t <;> rfl

/-- The byte at a place of a stored value is that of the value's low 64 bits. -/
theorem natLe_getD_atom (v : Nat) {i : Nat} (hi : i < 4 * t.regs) :
    (natLe (4 * t.regs) v).getD i 0 = (BitVec.ofNat 64 v).extractLsb' (8 * i) 8 := by
  have hi8 : i < 8 := by cases t <;> simp [AtomTy.regs] at hi <;> omega
  rw [natLe_getD _ _ hi]
  apply BitVec.eq_of_getLsbD_eq
  intro k hk
  rw [BitVec.getLsbD_extractLsb', BitVec.getLsbD_ofNat, BitVec.getLsbD_ofNat, show 256 = 2 ^ 8 from rfl, ← pow_mul,
    Nat.testBit_div_two_pow, Nat.add_comm]
  have h64 : 8 * i + k < 64 := by omega
  simp [hk, h64]

/-- What an atomic leaves, from the bytes at its location. -/
theorem atomDone_eq (m : List Host.Cell) (a : Nat) : atomDone s g l o t c (loaded m a (atomSize t)) =
    BitVec.ofNat 64 (atomNew o t (leNat (Memory.reads m a (4 * t.regs))) (atomArgs s g l t c).1
      (atomArgs s g l t c).2) := by
  unfold atomDone atomArgs
  simp only [leNat_reads_atom, leNat_bytesOf_readVs]

/-! ### One lane -/

/-- A single store to plain memory puts its bytes there and changes no other byte. -/
theorem perform_plain_read {w : Who} {leaf : Leaf} {va : Nat} {bs : List Byte} (hw : w.replay = none)
    (ho : leaf.owner = 255) (hk : leaf.kind ≠ .compressed) (hpa : pa = leaf.base + va % 2 ^ leaf.log2)
    (hd : inDevice pa = false) (a : Nat) : Memory.read (s.perform w [⟨leaf, va, clean bs⟩]).mem a =
      if pa ≤ a ∧ a < pa + bs.length then bs.getD (a - pa) 0 else Memory.read s.mem a := by
  subst hpa
  rw [(Prod.mk.inj (keptByTouch_perform hw _)).1, putAll_cons, State.putAll, putOne, if_neg (not_not.mpr ho), Put.pa, hd,
    if_neg Bool.false_ne_true, if_neg hk]
  exact physWrite_clean_read _ _ _

theorem atomOp_plain {result : Bool} {m : MemX} (hg : s.replayOf g = none)
    (ha : wellFormed (globalAddr s g l (4 * t.regs) m) (4 * t.regs))
    (hp : plainAt s g (globalAddr s g l (4 * t.regs) m) (4 * t.regs) .atomic pa) (hm : unmarked s pa (4 * t.regs)) :
    ∃ ps, (atomOp o t m c result).run s g l = .ok
        { state := s.perform (s.who g) ps, words := if result then loaded s.mem pa (atomSize t) else [] } ∧
      ∀ a, Memory.read (s.perform (s.who g) ps).mem a = if pa ≤ a ∧ a < pa + 4 * t.regs then
        (atomDone s g l o t c (loaded s.mem pa (atomSize t))).extractLsb' (8 * (a - pa)) 8
        else Memory.read s.mem a := by
  have hload := loadGlobal_plain hg ha hp hm
  obtain ⟨served, leaf, reached, owner, kind, hpa, device⟩ := hp
  have alone : (s.who g).replay = none := by rw [State.who, hg]; rfl
  have hstore := fun v => storeGlobal_puts (bytes := natLe (4 * t.regs) v) (natLe_length _ _) ha reached
  let new := atomNew o t (leNat (Memory.reads s.mem pa (4 * t.regs))) (atomArgs s g l t c).1 (atomArgs s g l t c).2
  refine ⟨[⟨leaf, (globalAddr s g l (4 * t.regs) m).toNat, clean (natLe (4 * t.regs) new)⟩], ?_, fun a => ?_⟩
  · unfold atomOp
    simp only [hload, hstore, wordsOf_reads_atom]
    rfl
  · rw [atomDone_eq, perform_plain_read alone owner kind hpa device, natLe_length]
    refine if_ctx_congr Iff.rfl (fun h => ?_) fun _ => rfl
    exact natLe_getD_atom _ (by omega)

/-- The bytes of a value in memory order. -/
theorem natLe_atom (v : Nat) : natLe (4 * t.regs) v =
    (List.range (4 * t.regs)).map fun k => (BitVec.ofNat 64 v).extractLsb' (8 * k) 8 := by
  refine List.ext_getElem (by simp) fun i hi _ => ?_
  rw [natLe_length] at hi
  rw [List.getElem_map, List.getElem_range, ← natLe_getD_atom v hi, List.getD_eq_getElem]

theorem atomSpadOp_plain {m : MemX} {b : Block} {off : Nat}
    (hl : s.locate g false (localAddr s g l (4 * t.regs) m).toNat (4 * t.regs) = .ok (b.uid, off))
    (hb : s.block? b.uid = some b)
    (h : ∀ i, i < 4 * t.regs → s.inSerai b.uid (off + i) = false ∧ b.spadPoison.contains (off + i) = false) :
    (atomSpadOp o t m c).run s g l = .ok
      { state := s.spadStore b.uid off (clean ((List.range (4 * t.regs)).map fun k =>
          (atomDone s g l o t c (loaded b.spad off (atomSize t))).extractLsb' (8 * k) 8))
        words := loaded b.spad off (atomSize t) } := by
  unfold atomSpadOp
  simp only [hl, loadSpad_plain hb h, wordsOf_reads_atom, atomDone_eq, natLe_atom]
  rfl

/-- A helper lane's atomic writes nothing, and its result is Undefined (R18). -/
theorem rmw_helper {p : LaneOp} {k : Nat} {x : LaneOut} (hk : p.kind = .rmw k) (hl : (g.lane l).helper = true)
    (hx : p.run s g l = .ok x) : p.at s g l =
      .ok { state := s, words := (List.range k).map fun i => s.undef (s.slotOf g) .result (8 * l + i) } := by
  unfold LaneOp.at
  rw [if_pos hl]
  simp only [hk, hx]

/-! ### New values -/

section
variable {n : Nat} (old x y : BitVec n)

theorem ofNat_add_mod : BitVec.ofNat n ((old.toNat + x.toNat) % 2 ^ n) = old + x := by
  rw [← BitVec.toNat_add, BitVec.ofNat_toNat, BitVec.setWidth_eq]

theorem ofNat_ite {p : Prop} [Decidable p] :
    BitVec.ofNat n (if p then x.toNat else y.toNat) = if p then x else y := by
  split <;> rw [BitVec.ofNat_toNat, BitVec.setWidth_eq]

theorem ofNat_min : BitVec.ofNat n (min old.toNat x.toNat) = if old.toNat ≤ x.toNat then old else x := by
  rw [Nat.min_def, ofNat_ite]

theorem ofNat_max : BitVec.ofNat n (max old.toNat x.toNat) = if old.toNat ≤ x.toNat then x else old := by
  rw [Nat.max_def, ofNat_ite]

theorem ofNat_cas : BitVec.ofNat n (if old.toNat = x.toNat then y.toNat else old.toNat) = if old = x then y else old := by
  rw [ofNat_ite]
  exact if_congr BitVec.toNat_inj rfl rfl

theorem ofNat_toNat_self : BitVec.ofNat n x.toNat = x := by rw [BitVec.ofNat_toNat, BitVec.setWidth_eq]

theorem ofNat_and : BitVec.ofNat n (old.toNat &&& x.toNat) = old &&& x := by
  rw [← BitVec.toNat_and, ofNat_toNat_self]

theorem ofNat_or : BitVec.ofNat n (old.toNat ||| x.toNat) = old ||| x := by
  rw [← BitVec.toNat_or, ofNat_toNat_self]

theorem ofNat_xor : BitVec.ofNat n (old.toNat ^^^ x.toNat) = old ^^^ x := by
  rw [← BitVec.toNat_xor, ofNat_toNat_self]

theorem ofNat_signed {p q : BitVec n} : BitVec.ofNat n (if (BitVec.ofNat n old.toNat).toInt ≤ (BitVec.ofNat n x.toNat).toInt
    then p.toNat else q.toNat) = if old.toInt ≤ x.toInt then p else q := by
  rw [ofNat_ite, ofNat_toNat_self, ofNat_toNat_self]

end

/-- The new values of the operations that compare no signs, for an integer type. -/
theorem atomNew_word (old x y : Word) (ht : t = .s32 ∨ t = .u32) :
    BitVec.ofNat 32 (atomNew .add t old.toNat x.toNat y.toNat) = old + x ∧
    BitVec.ofNat 32 (atomNew .and t old.toNat x.toNat y.toNat) = old &&& x ∧
    BitVec.ofNat 32 (atomNew .or t old.toNat x.toNat y.toNat) = old ||| x ∧
    BitVec.ofNat 32 (atomNew .xor t old.toNat x.toNat y.toNat) = old ^^^ x ∧
    BitVec.ofNat 32 (atomNew .exch t old.toNat x.toNat y.toNat) = x ∧
    BitVec.ofNat 32 (atomNew .cas t old.toNat x.toNat y.toNat) = if old = x then y else old := by
  refine ⟨?_, ofNat_and old x, ofNat_or old x, ofNat_xor old x, ofNat_toNat_self x, ofNat_cas old x y⟩
  obtain rfl | rfl := ht <;> exact ofNat_add_mod old x

/-- The new values of the operations that compare no signs, for a 64-bit type. -/
theorem atomNew_pair (old x y : DWord) (ht : t = .s64 ∨ t = .u64) :
    BitVec.ofNat 64 (atomNew .add t old.toNat x.toNat y.toNat) = old + x ∧
    BitVec.ofNat 64 (atomNew .and t old.toNat x.toNat y.toNat) = old &&& x ∧
    BitVec.ofNat 64 (atomNew .or t old.toNat x.toNat y.toNat) = old ||| x ∧
    BitVec.ofNat 64 (atomNew .xor t old.toNat x.toNat y.toNat) = old ^^^ x ∧
    BitVec.ofNat 64 (atomNew .exch t old.toNat x.toNat y.toNat) = x ∧
    BitVec.ofNat 64 (atomNew .cas t old.toNat x.toNat y.toNat) = if old = x then y else old := by
  refine ⟨?_, ofNat_and old x, ofNat_or old x, ofNat_xor old x, ofNat_toNat_self x, ofNat_cas old x y⟩
  obtain rfl | rfl := ht <;> exact ofNat_add_mod old x

/-- Settles O32: an atomic reads its location as a load does (`loadGlobal_plain`, `loadSpad_plain`), and its new value
is the one store that it makes (`atomOp_plain`, `atomSpadOp_plain`). -/
theorem atomics : Obligations.Atomics := by
  refine ⟨fun o t q w d m c => ?_, fun o t result m c s g l pa hg ha hp hm => atomOp_plain hg ha hp hm,
    fun o t m c s g l b off hl hb h => atomSpadOp_plain hl hb h, fun p k s g l x hk hl hx => rmw_helper hk hl hx, ?_, ?_⟩
  · exact ⟨performs_of_issueLanes fun _ => rfl, performs_of_issueLanes fun _ => rfl,
      performs_of_issueLanes fun _ => rfl, performs_of_issueLanes fun _ => rfl⟩
  · exact fun old x y => ⟨fun t ht => atomNew_word old x y ht, ofNat_signed old x, ofNat_signed old x, ofNat_min old x,
      ofNat_max old x, rfl, rfl, rfl, ofNat_toNat_self x, ofNat_cas old x y⟩
  · exact fun old x y => ⟨fun t ht => atomNew_pair old x y ht, ofNat_signed old x, ofNat_signed old x, ofNat_min old x,
      ofNat_max old x⟩

end Sys2Proof.Proofs
end

section
/-! Tokens and continuations (O35) (09 R244-R247; 03 R64). -/

namespace Sys2Proof.Proofs

open Sys2Proof.Machine Sys2Proof.Laws Sys2Proof.Claims

variable {s : State} {g : Machine.Group} {c : Clause}

/-! ### Taking a token -/

theorem takeToken_resolved {slot : Nat} (h : ((s.ctx slot).token_ (s.ctx slot).nextToken).resolved = true) :
    ∃ t', s.takeToken slot = some ((s.ctx slot).nextToken, tokenWord (s.ctx slot).nextToken
      (((s.ctx slot).token_ (s.ctx slot).nextToken).gen + 1), t') ∧ t'.slotOf g = s.slotOf g := by
  unfold State.takeToken
  simp only [h]
  exact ⟨_, rfl, rfl⟩

theorem takeToken_unresolved {slot : Nat} (h : ((s.ctx slot).token_ (s.ctx slot).nextToken).resolved = false) :
    s.takeToken slot = none := by
  unfold State.takeToken
  simp only [h]
  rfl

/-- A prefetch that passes its checks and has bytes to fetch begins (R244). -/
theorem exec_prefr {d a b : SReg} (hi : Issues (.prefr d a b) s g c) (hn : (readS s g b.val).toNat ≤ 2 ^ 26)
    (h0 : readS s g b.val ≠ 0) (ha : canonical (readS64 s g a.val) = true) :
    exec (.prefr d a b) s = .next (s.startToken g (.prefr d a b) d) := by
  refine (issues_next hi).trans (congrArg _ ?_)
  have hpos : ¬ (readS s g b.val).toNat = 0 := fun h => h0 (BitVec.eq_of_toNat_eq h)
  rw [if_neg (Nat.not_lt.mpr hn), ha, if_neg (by decide), if_neg hpos]

theorem exec_tokenResolve {k : Slot} {t : BitVec 8} {d a b : SReg}
    (h : s.tokenOps.find? (fun o => o.1 == k.val && o.2.1 == t.toNat) = some (k.val, t.toNat, .prefr d a b, g)) :
    let s' : State := { s with tokenOps := s.tokenOps.filter fun o => !(o.1 == k.val && o.2.1 == t.toNat) }
    let w : Who := { s.who g with slot := k.val }
    exec (.tokenResolve k t) s = .next ((s'.touchRun w (readS64 s g a.val).toNat (readS s g b.val).toNat).resolveToken
      k.val t.toNat (s.skips w (readS64 s g a.val).toNat (readS s g b.val).toNat)) := by
  change execTokenResolve k t s = _
  unfold execTokenResolve
  rw [h]
  rfl

/-! ### Waiting for a token -/

/-- What TOKW does with what its token says (R246). -/
def tokwDone (s : State) (g : Machine.Group) (c : Clause) (d a : SReg) : TokenState → State
  | .newer => s.trap g c (.tokw d a) .memarg
  | .done st => s.setGroup (g.writeS d.val st)
  | .pending => s.setGroup (g.parkNext c c.exec (.token (readS s g a.val) (g.sbase + d.val)))

theorem exec_tokw {d a : SReg} (hi : Issues (.tokw d a) s g c) :
    exec (.tokw d a) s = .next (tokwDone s g c d a ((s.ctxOf g).tokenState (readS s g a.val))) := by
  refine (issues_next hi).trans (congrArg _ ?_)
  dsimp only
  cases (s.ctxOf g).tokenState (readS s g a.val) <;> rfl

section
variable {k : Ctx} {t : Word} {x : Token} {age : BitVec 24} (hx : x = k.token_ (t.toNat % 256))
  (hage : age = x.gen - BitVec.ofNat 24 (t.toNat / 256))
include hx hage

theorem tokenState_resolved (h0 : age = 0) (hr : x.resolved = true) :
    k.tokenState t = .done (if x.skipped then 1 else 0) := by
  subst hx hage
  unfold Ctx.tokenState
  dsimp only
  rw [if_pos h0, if_pos hr]

theorem tokenState_pending (h0 : age = 0) (hr : x.resolved = false) : k.tokenState t = .pending := by
  subst hx hage
  unfold Ctx.tokenState
  dsimp only
  rw [if_pos h0, hr]
  rfl

theorem tokenState_older (h0 : age ≠ 0) (hr : age.toNat ≤ 2 ^ 23) : k.tokenState t = .done 2 := by
  subst hx hage
  unfold Ctx.tokenState
  dsimp only
  rw [if_neg h0, if_pos hr]

theorem tokenState_newer (hr : 2 ^ 23 < age.toNat) : k.tokenState t = .newer := by
  have h0 : age ≠ 0 := fun h => by rw [h] at hr; exact absurd hr (by decide)
  subst hx hage
  unfold Ctx.tokenState
  dsimp only
  rw [if_neg h0, if_neg (Nat.not_le.mpr hr)]

end

/-! ### Continuations -/

/-- A WAITC whose label is good registers its continuation and ends its lanes (R247). -/
theorem waitc_good {i : Instr} {o : BitVec 14} {t : Option SReg} (hi : Issues i s g c)
    (hb : s.badTarget { s.who g with replay := none } (c.target o) none = none) : waitc i o t s = .next
      ((({ s with conts := s.conts ++ [g.cont s c.exec (c.target o) (t.map fun r => readS s g r.val)] } : State).setGroup
        (g.modClause fun x => { x with moved := x.moved ||| c.exec })).exitLanes g.uid c.exec) := by
  refine (issues_next hi).trans (congrArg _ ?_)
  simp only [hb]

theorem mem_map_serial {l : List Machine.Group} (p : Machine.Group → Prop) [DecidablePred p] (b : Bool) (h : g ∈ l) :
    ∃ b', { g with serial := b' } ∈ l.map fun x => if p x then { x with serial := b } else x := by
  have hm := List.mem_map_of_mem (f := fun x => if p x then { x with serial := b } else x) h
  by_cases hp : p g
  · exact ⟨b, by simpa only [if_pos hp] using hm⟩
  · exact ⟨g.serial, by simpa only [if_neg hp] using hm⟩

/-- At a clause boundary a group changes in no more than whether its paths are in serial mode (R25). -/
theorem settlePaths_has_group {u : Nat} (h : g ∈ s.groups) : ∃ b, { g with serial := b } ∈ (s.settlePaths u).groups := by
  unfold State.settlePaths
  split
  · exact ⟨g.serial, h⟩
  · exact mem_map_serial _ _ h

/-- A group takes its seat as it is, but for the lanes of its issue slot and the mode of its paths (R15, R25). -/
theorem seat_has_group (s : State) (g : Machine.Group) :
    ∃ at_ b, { g with slotLane := at_, serial := b } ∈ (s.seat g).groups := by
  unfold State.seat
  dsimp only
  generalize _ * g.width = at_
  have last : { g with slotLane := at_ } ∈ s.groups ++ [{ g with slotLane := at_ }] :=
    List.mem_append_right _ (List.mem_singleton_self _)
  exact ⟨at_, settlePaths_has_group (s := { s with groups := s.groups ++ [{ g with slotLane := at_ }] }) last⟩

theorem seat_conts (s : State) (g : Machine.Group) : (s.seat g).conts = s.conts := by
  unfold State.seat State.settlePaths
  dsimp only
  split <;> rfl

theorem lane_contGroup {k : Cont} {u hw l : Nat} (hl : l < k.width) (hm : mHas k.mask l) :
    (k.group u hw).lane l = { k.lanes.getD l {} with st := .runnable, pc := k.label } := by
  unfold Machine.Group.lane Cont.group
  simp [hl, hm]

theorem continuationSpawn_spawns {n h : Nat} {k : Cont} {b : Block} (hk : s.conts[n]? = some k)
    (hb : s.block? k.block = some b) (hdue : s.contDue k b = true)
    (hroom : s.vecUsed k.block k.core + maskCount k.mask * k.budget * 4 ≤ 32768 * partField b.task.partword 0)
    (hf : (s.coreOf b.cluster k.core).fenced = false) (hp : ∀ p ∈ s.preempting, p.1 ≠ b.uid)
    (hw : findHw (s.occupants b.cluster k.core) b.slot k.width = some h) : exec (.continuationSpawn n) s =
      .next (({ s.newId.2 with conts := s.conts.eraseIdx n } : State).seat (k.group s.newId.1 h)) := by
  have stays : (s.preempting.any fun p => p.1 == b.uid) = false :=
    List.any_eq_false.mpr fun p hmem => by simpa using hp p hmem
  change execContinuationSpawn n s = _
  unfold execContinuationSpawn
  simp only [hk, hb, hdue, hroom, hf, stays, hw]
  rfl

/-- Settles O35: each of PREFR, TOKEN_RESOLVE, TOKW, WAITC and CONTINUATION_SPAWN has one lemma that says what it
answers; what a token says follows from its age (`tokenState_resolved` and the three after it). -/
theorem tokens : Obligations.Tokens := by
  refine ⟨fun d a b s g c hi hn h0 ha => ⟨fun hr => ?_, fun hr => ?_⟩, fun k t s d a b g h => exec_tokenResolve h,
    fun d a s g c hi => ⟨?_, ?_, ?_, ?_⟩, fun t o s g c barrier => ?_, ?_⟩
  · obtain ⟨t', ht, hslot⟩ := takeToken_resolved (g := g) hr
    refine ⟨_, _, t', ht, rfl, rfl, ?_⟩
    rw [exec_prefr hi hn h0 ha, State.startToken, ht]
    dsimp only
    rw [hslot]
  · rw [exec_prefr hi hn h0 ha, State.startToken, takeToken_unresolved hr]
  · exact fun h0 hr => by rw [exec_tokw hi, tokenState_resolved rfl rfl h0 hr]; rfl
  · exact fun h0 hr => by rw [exec_tokw hi, tokenState_pending rfl rfl h0 hr]; rfl
  · exact fun h0 hr => by rw [exec_tokw hi, tokenState_older rfl rfl h0 hr]; rfl
  · exact fun hr => by rw [exec_tokw hi, tokenState_newer rfl rfl hr]; rfl
  · cases barrier with
    | true => exact fun hi hb => waitc_good (t := none) hi hb
    | false => exact fun hi hb => waitc_good (t := some t) hi hb
  · intro n s k b h hk hb hdue hroom hf hp hw
    refine ⟨_, continuationSpawn_spawns hk hb hdue hroom hf hp hw, ?_, ?_, ?_, seat_mem _⟩
    · obtain ⟨at_, m, hm⟩ := seat_has_group ({ s.newId.2 with conts := s.conts.eraseIdx n }) (k.group s.newId.1 h)
      exact ⟨_, hm, rfl⟩
    · exact fun l hl hm => by rw [lane_contGroup hl hm]
    · exact seat_conts _ _

end Sys2Proof.Proofs
end

section
/-! Copies (O34): FULL_BIT_WAKE of a group for which no engine works draws no Undefined values (03 R61, R62). -/

namespace Sys2Proof.Proofs

open Sys2Proof.Machine Sys2Proof.Laws Sys2Proof.Claims

variable {s : State} {g : Machine.Group} {c : Clause} {u : Nat} {ls : List (Nat × Nat)}

/-- A clause whose lines are full goes on, and with no engine at work for its group that is all (R61). -/
theorem exec_fullBitWake (hg : s.group? u = some g) (hc : g.clause = some c) (hw : c.wait = some (.line ls))
    (hfull : ∀ e ∈ ls, s.lineFull e = true) (he : ∀ e ∈ s.engines, e.group ≠ u) :
    exec (.fullBitWake u) s = .next (s.wakeClause u) := by
  change execFullBitWake u s = _
  unfold execFullBitWake
  simp only [hg, Option.bind_some, hc, hw, List.all_eq_true.mpr hfull, if_true]
  exact congrArg _ (if_pos (List.isEmpty_iff.mpr (List.filter_eq_nil_iff.mpr fun e hmem => by simp [he e hmem])))

/-- Drawing a context's Undefined values counts up, so that it shows outside the groups. -/
theorem not_onlyGroup_drawn {t : State} {k : Nat} (h : t.undefCtrs = s.undefCtrs) : ¬ OnlyGroup (s.drawn k) t u := by
  rintro ⟨rest, -, -⟩
  have counters : t.undefCtrs = tset 0 s.undefCtrs k (tget 0 s.undefCtrs k + 1) :=
    congrArg (fun x : State => x.undefCtrs) rest
  have counter := congrArg (fun x => tget 0 x k) (h.symm.trans counters)
  rw [tget_tset_same] at counter
  omega

/-- A clause in flight that waits for line 3 of its block. -/
def waitingClause : Clause := { issuingClause with wait := some (.line [(0, 3)]) }

/-- Its group. -/
def waitingGroup : Machine.Group := { hostGroup [] with clause := some waitingClause }

/-- The machine with that group; the line is full. -/
def waitingState : State := { State.reset with groups := [waitingGroup], blocks := [hostBlock 1] }

/-- Refutes O34: its last clause says that FULL_BIT_WAKE of a group without an engine draws Undefined values of the
group's context (`s.drawn`). The model draws them only for the engines that it drives; in `waitingState`, where there
is none, the clause goes on and the counter stays as it was. -/
theorem not_copiesLand : ¬ Obligations.CopiesLand := by
  rintro ⟨-, -, -, -, -, -, -, -, wakes⟩
  have group : waitingState.group? 0 = some waitingGroup := rfl
  have full : ∀ e ∈ [(0, 3)], waitingState.lineFull e = true := by decide
  have idle : ∀ e ∈ waitingState.engines, e.group ≠ 0 := List.forall_mem_nil _
  obtain ⟨t, ht, only, -⟩ := wakes 0 waitingState waitingGroup waitingClause [(0, 3)] group rfl rfl full idle
  rw [exec_fullBitWake group rfl rfl full idle] at ht
  cases ht
  have drawsNone : (waitingState.wakeClause 0).undefCtrs = waitingState.undefCtrs := rfl
  exact not_onlyGroup_drawn drawsNone only

end Sys2Proof.Proofs
end

section
/-! The state at reset (O59), and operations across the lanes (O20): which lanes take part, and from which lane each
takes its value (08 R212, R214 to R220; 12 R325). -/

namespace Sys2Proof.Proofs

open Sys2Proof.Machine Sys2Proof.Laws Sys2Proof.Claims

/-- Settles O59: reset is the state of the default values. -/
theorem resetState : Obligations.ResetState :=
  ⟨rfl, rfl, rfl, rfl, fun _ => ⟨rfl, rfl⟩, fun _ => ⟨rfl, rfl, rfl, rfl, rfl⟩, fun _ => rfl, rfl⟩

variable {s : State} {g : Machine.Group} {c : Clause}

/-! ### Quads and shuffles -/

/-- The lane read in a quad is the one named where it takes part (R214). -/
theorem pick_eq (hc : g.clause = some c) (l k : Nat) : g.pick l k = if mHas c.exec k then k else l := by
  unfold Machine.Group.pick Machine.Group.takesPart
  rw [hc]

theorem exchange_eq (d a : VReg) {src src' : Nat → Nat} (h : ∀ l, src l = src' l) :
    exchange s g c d a src = eachLane g c fun g' l => g'.writeV l d.val (readV s g (src' l) a.val) := by
  rw [show src = src' from funext h, exchange]

/-- A derivative subtracts the values of two lanes of the quad (R215). -/
theorem derive_eq (hc : g.clause = some c) (d a : VReg) (dy coarse : Bool) {hi lo : Nat → Nat}
    (hlo : ∀ l, (if coarse then 4 * (l / 4) else if dy then 4 * (l / 4) + l % 2
      else 4 * (l / 4) + 2 * (l / 2 % 2)) = lo l)
    (hhi : ∀ l, (lo l + if dy then 2 else 1) = hi l) :
    derive_ s g c d a dy coarse = eachLane g c fun g' l => g'.writeV l d.val
      (f32sub (readV s g (if mHas c.exec (hi l) then hi l else l) a.val)
        (readV s g (if mHas c.exec (lo l) then lo l else l) a.val)) := by
  unfold derive_ Machine.Group.diffLanes
  simp only [hlo, hhi, pick_eq hc]

/-- The lane that a shuffle names, as an integer: up and down may leave the group. -/
def shflSource (m : ShflMode) (l n : Nat) : Int :=
  match m with
  | .idx => n | .up => (l : Int) - n | .down => l + n | .xor => (l ^^^ n : Nat)

theorem shflLane_eq (hc : g.clause = some c) (m : ShflMode) (l : Nat) (b : Word) :
    g.shflLane m l b =
      if 0 ≤ shflSource m l b.toNat ∧ shflSource m l b.toNat < g.width ∧ mHas c.exec (shflSource m l b.toNat).toNat
      then (shflSource m l b.toNat).toNat else l := by
  have inside (k : Nat) (x : Int) (h : x = k) : (if k < g.width ∧ g.takesPart k then k else l) =
      if 0 ≤ x ∧ x < g.width ∧ mHas c.exec x.toNat then x.toNat else l := by
    subst h
    unfold Machine.Group.takesPart
    simp [hc]
  unfold Machine.Group.shflLane
  cases m with
  | idx => exact inside _ _ rfl
  | down => exact inside _ _ rfl
  | xor => exact inside _ _ rfl
  | up =>
    by_cases h : b.toNat ≤ l
    · simp only [if_pos h]
      exact inside _ _ (Int.ofNat_sub h).symm
    · have outside : shflSource .up l b.toNat < 0 := by rw [shflSource]; omega
      simp only [if_neg h]
      exact (if_neg fun k => absurd k.1 (not_le.mpr outside)).symm

theorem shflNote_eq (b : VReg) (m : ShflMode) : s.shflNote g c b m =
    noting s g fun r => mHas c.exec r.lane && !inReach g r (shflSource m r.lane (readV s g r.lane b.val).toNat) := by
  unfold State.shflNote noting inReach
  cases s.replayOf g with
  | none => rfl
  | some r => cases m <;> rfl

/-- A shuffle gives each executing lane the register of the lane it names, where that lane takes part (R216). -/
theorem shuffle_gives {i : Instr} {m : ShflMode} {d a b : VReg} (h : ∀ s, exec i s = shuffle i m d a b s) :
    Gives i fun s g c =>
      let k (l : Nat) : Int := shflSource m l (readV s g l b.val).toNat
      (noting s g fun r => mHas c.exec r.lane && !inReach g r (k r.lane)).setGroup
        (eachLane g c fun g' l => g'.writeV l d.val (readV s g
          (if 0 ≤ k l ∧ k l < g.width ∧ mHas c.exec (k l).toNat then (k l).toNat else l) a.val)) := by
  intro s g c hi
  rw [h, shuffle, issues_next hi, shflNote_eq, exchange_eq d a fun l => shflLane_eq (issues_clause hi) m l _]

theorem crossLaneResults : CrossLaneResults := by
  intro d a b
  refine ⟨fun s g c hi => ?_, fun s g c hi => ?_, fun s g c hi => ?_, fun s g c hi => ?_, fun s g c hi => ?_,
    fun s g c hi => ?_, fun s g c hi => ?_, fun i src hm => ?_⟩
  case refine_8 =>
    simp only [List.mem_cons, List.not_mem_nil, or_false, Prod.mk.injEq] at hm
    obtain ⟨rfl, rfl⟩ | ⟨rfl, rfl⟩ | ⟨rfl, rfl⟩ | ⟨rfl, rfl⟩ := hm
    · exact shuffle_gives (m := .idx) fun _ => rfl
    · exact shuffle_gives (m := .up) fun _ => rfl
    · exact shuffle_gives (m := .down) fun _ => rfl
    · exact shuffle_gives (m := .xor) fun _ => rfl
  all_goals
    refine (issues_next hi).trans (congrArg (fun x => Host.Outcome.next (s.setGroup x)) ?_)
    have hc := issues_clause hi
  · exact exchange_eq d a fun l => pick_eq hc l _
  · exact exchange_eq d a fun l => pick_eq hc l _
  · exact exchange_eq d a fun l => pick_eq hc l _
  · exact derive_eq hc d a false false (fun l => by simp; omega) fun l => rfl
  · exact derive_eq hc d a false true (fun l => Nat.mul_comm ..) fun l => rfl
  · exact derive_eq hc d a true false (fun l => by simp; omega) fun l => rfl
  · exact derive_eq hc d a true true (fun l => Nat.mul_comm ..) fun l => rfl

/-! ### Operations over the participants -/

/-- The participants of a group-wide operation, in lane order: the executing lanes that are no helpers (R212). -/
theorem lanesOf_voters (g : Machine.Group) (c : Clause) :
    lanesOf (g.voters c) = (lanesOf c.exec).filter fun l => !(g.lane l).helper := by
  unfold lanesOf
  rw [List.filter_filter]
  refine List.filter_congr fun l hl => ?_
  have helper : mHas (g.maskWhere fun x => x.helper) l = (g.lane l).helper := by
    refine Bool.eq_iff_iff.mpr (mHas_maskWhere_iff.trans ⟨fun h => h.2.2, fun h => ⟨List.mem_range.mp hl, ?_, h⟩⟩)
    by_contra out
    rw [Machine.Group.lane, List.getD_eq_default _ _ (Nat.le_of_not_lt out)] at h
    cases h
  change mHas (g.noHelpers c.exec) l = (!(g.lane l).helper && mHas c.exec l)
  rw [Machine.Group.noHelpers, Machine.Group.helpers, mHas_diff, mHas_and, helper]
  cases mHas c.exec l <;> cases (g.lane l).helper <;> rfl

theorem maskOf_lanesOf (m : Mask) : maskOf (lanesOf m) = m := by
  refine BitVec.eq_of_getLsbD_eq fun l hl => Bool.eq_iff_iff.mpr ?_
  exact (mHas_maskOf_iff (lanesOf m) l).trans (by rw [mem_lanesOf]; exact ⟨fun h => h.2.2, fun h => ⟨hl, hl, h⟩⟩)

theorem contains_lanesOf (m : Mask) (l : Nat) : (lanesOf m).contains l = mHas m l := by
  rw [List.contains_eq_mem, Bool.eq_iff_iff, decide_eq_true_iff, mem_lanesOf]
  exact ⟨fun h => h.2, fun h => ⟨mHas_lt h, h⟩⟩

/-- In a replay a group-wide operation notes that the item's lane takes part (R325). -/
theorem groupWide_eq (m : Mask) : s.groupWide g m = noting s g fun r => (lanesOf m).contains r.lane := by
  simp only [contains_lanesOf]
  rfl

theorem groupWideResults : GroupWideResults := by
  intro d p v a o t r
  refine ⟨?_, ?_, ?_, ?_, ?_, ?_, ?_⟩
  all_goals
    refine fun s g c hi => (issues_next hi).trans (congrArg _ ?_)
    simp only [groupWide_eq, ← lanesOf_voters, maskOf_lanesOf]
  case refine_4 => rfl

/-- Settles O20: exchanges by the lane each form names, group-wide operations by their participants. -/
theorem crossLane : Obligations.CrossLane := ⟨crossLaneResults, groupWideResults⟩

end Sys2Proof.Proofs
end

section
/-! Rounding in rational numbers (04 R82 to R85, R99, R100): the value of a format's bits, one rounding, and the
largest magnitude that a format has room for. -/

namespace Sys2Proof.Proofs

open Sys2Proof.Machine Sys2Proof.Laws Sys2Proof.Claims

/-! ### Numbers as rationals -/

/-- The sign of a number as a factor. -/
def signQ (neg : Bool) : ℚ := if neg then -1 else 1

@[simp] theorem signQ_false : signQ false = 1 := rfl
@[simp] theorem signQ_true : signQ true = -1 := rfl

theorem signQ_not (neg : Bool) : signQ (!neg) = -signQ neg := by cases neg <;> simp

theorem signQ_xor (x y : Bool) : signQ (xor x y) = signQ x * signQ y := by cases x <;> cases y <;> simp

theorem abs_signQ_mul (neg : Bool) {y : ℚ} (hy : 0 ≤ y) : |signQ neg * y| = y := by
  cases neg <;> simp [abs_of_nonneg hy]

theorem ratOf_fin (neg : Bool) (m : Nat) (e : Int) : ratOf (.fin neg m e) = some (signQ neg * (m * 2 ^ e)) :=
  congrArg some (mul_assoc ..)

/-- A number with a rational value is finite. -/
theorem eq_fin_of_ratOf {a : Machine.Num} {x : ℚ} (h : ratOf a = some x) :
    ∃ neg m e, a = .fin neg m e ∧ x = signQ neg * (m * 2 ^ e) := by
  cases a with
  | nan => cases h
  | inf neg => cases h
  | fin neg m e => exact ⟨neg, m, e, rfl, (Option.some.inj ((ratOf_fin neg m e).symm.trans h)).symm⟩

/-- A power of two whose exponent is brought to a natural number by another. -/
theorem two_zpow_toNat {e q : Int} (h : q ≤ e) : (2 : ℚ) ^ (e - q).toNat * 2 ^ q = 2 ^ e := by
  rw [← zpow_natCast, Int.toNat_of_nonneg (by omega), ← zpow_add₀ two_ne_zero]
  congr 1
  omega

theorem two_zpow_pos (e : Int) : (0 : ℚ) < 2 ^ e := zpow_pos two_pos e

theorem scaled_eq (neg : Bool) (m : Nat) {e q : Int} (h : q ≤ e) :
    (scaled neg m e q : ℚ) * 2 ^ q = signQ neg * (m * 2 ^ e) := by
  unfold scaled
  rw [← two_zpow_toNat h]
  cases neg <;> simp <;> ring

theorem ratOf_ofInt (v : Int) (q : Int) (z : Bool) : ratOf (Machine.Num.ofInt v q z) = some ((v : ℚ) * 2 ^ q) := by
  unfold Machine.Num.ofInt
  split
  · rename_i h
    rw [ratOf_fin, h]
    simp
  · rw [ratOf_fin]
    have size : signQ (decide (v < 0)) * (v.natAbs : ℚ) = v := by
      by_cases hv : v < 0
      · rw [decide_eq_true hv, signQ_true, Nat.cast_natAbs, abs_of_neg hv]
        push_cast
        ring
      · rw [decide_eq_false hv, signQ_false, Nat.cast_natAbs, abs_of_nonneg (not_lt.mp hv), one_mul]
    rw [← mul_assoc, size]

/-! ### One rounding -/

/-- The natural number that `a / u` rounds to in magnitude. -/
def rounded (r : Rnd) (neg : Bool) (a u : Nat) : Nat :=
  a / u + if roundUp r neg (a / u % 2 == 1) (a % u) u then 1 else 0

theorem rounded_of_dvd {r : Rnd} {neg : Bool} {a u : Nat} (hu : 0 < u) (h : u ∣ a) : rounded r neg a u = a / u := by
  have none : roundUp r neg (a / u % 2 == 1) 0 u = false := by
    cases r <;> simp [roundUp, hu.ne]
  rw [rounded, Nat.mod_eq_zero_of_dvd h, none]
  rfl

theorem rounded_one (r : Rnd) (neg : Bool) (a : Nat) : rounded r neg a 1 = a := by
  rw [rounded_of_dvd one_pos (one_dvd a), Nat.div_one]

/-- A quotient is its whole part and a fraction. -/
theorem div_add_frac (a : Nat) {u : Nat} (hu : 0 < u) : (a : ℚ) / u = (a / u : Nat) + (a % u : Nat) / u := by
  have h : (a : ℚ) = u * (a / u : Nat) + (a % u : Nat) := by exact_mod_cast (Nat.div_add_mod a u).symm
  have : (u : ℚ) ≠ 0 := by exact_mod_cast hu.ne'
  field_simp
  linarith

/-- The signed integer of a magnitude. -/
def signedNat (neg : Bool) (n : Nat) : Int := if neg then -(n : Int) else n

theorem cast_signedNat (neg : Bool) (n : Nat) : (signedNat neg n : ℚ) = signQ neg * n := by
  cases neg <;> simp [signedNat]

/-- The nearest natural number to `k + d / u`, ties to even. -/
theorem roundsTo_rn_frac (neg : Bool) (k : Nat) {d u : Nat} (hd : d < u) :
    RoundsTo .rn (k + d / u) (k + if roundUp .rn neg (k % 2 == 1) d u then 1 else 0 : Nat) := by
  have hq : (0 : ℚ) < u := by exact_mod_cast Nat.zero_lt_of_lt hd
  have frac_lt : (d : ℚ) / u < 1 := (div_lt_one hq).mpr (by exact_mod_cast hd)
  by_cases up : u < 2 * d ∨ 2 * d = u ∧ k % 2 = 1
  · have half : (1 : ℚ) / 2 ≤ d / u := by
      rw [div_le_div_iff₀ two_pos hq]
      exact_mod_cast (by omega : 1 * u ≤ d * 2)
    have dist : |(k : ℚ) + d / u - (k + 1 : Nat)| = 1 - d / u := by
      rw [abs_sub_comm, abs_of_nonneg (by push_cast; linarith)]
      push_cast
      ring
    have up' : roundUp .rn neg (k % 2 == 1) d u = true := by simpa [roundUp] using up
    rw [up', if_pos rfl]
    refine ⟨by rw [Int.cast_natCast, dist]; linarith, fun tie => ?_⟩
    rw [Int.cast_natCast, dist] at tie
    have : (d : ℚ) * 2 = 1 * u := (div_eq_div_iff hq.ne' two_ne_zero).mp (by linarith)
    have : d * 2 = 1 * u := by exact_mod_cast this
    exact Int.even_coe_nat _ |>.mpr (Nat.even_iff.mpr (by omega))
  · have half : (d : ℚ) / u ≤ 1 / 2 := by
      rw [div_le_div_iff₀ hq two_pos]
      exact_mod_cast (by omega : d * 2 ≤ 1 * u)
    have dist : |(k : ℚ) + d / u - k| = d / u := by rw [add_sub_cancel_left, abs_of_nonneg (by positivity)]
    have up' : roundUp .rn neg (k % 2 == 1) d u = false := by
      rw [← Bool.not_eq_true]; simpa [roundUp] using up
    rw [up', if_neg Bool.false_ne_true, add_zero]
    refine ⟨by rw [Int.cast_natCast, dist]; linarith, fun tie => ?_⟩
    rw [Int.cast_natCast, dist, div_eq_div_iff hq.ne' two_ne_zero] at tie
    have : d * 2 = 1 * u := by exact_mod_cast tie
    exact Int.even_coe_nat _ |>.mpr (Nat.even_iff.mpr (by omega))

/-- Rounding a magnitude rounds the signed value in the mode (R85). -/
theorem roundsTo_rounded (r : Rnd) (neg : Bool) (a : Nat) {u : Nat} (hu : 0 < u) :
    RoundsTo r (signQ neg * (a / u)) (signedNat neg (rounded r neg a u)) := by
  have hd := Nat.mod_lt a hu
  have split_ := div_add_frac a hu
  rw [rounded]
  generalize (a : ℚ) / u = y at *
  generalize a / u = k at *
  generalize a % u = d at *
  have hq : (0 : ℚ) < u := by exact_mod_cast hu
  have frac_lt : (d : ℚ) / u < 1 := (div_lt_one hq).mpr (by exact_mod_cast hd)
  have frac_nonneg : (0 : ℚ) ≤ d / u := by positivity
  have nonneg : 0 ≤ y := by rw [split_]; positivity
  have floor_ : ⌊y⌋ = k := Int.floor_eq_iff.mpr ⟨by push_cast; linarith, by push_cast; linarith⟩
  have ceil_ : ⌈y⌉ = (k : Int) + if d = 0 then 0 else 1 := by
    by_cases h : d = 0
    · rw [split_, h]; simp
    · have : (0 : ℚ) < d / u := div_pos (by exact_mod_cast Nat.pos_of_ne_zero h) hq
      rw [if_neg h]
      exact Int.ceil_eq_iff.mpr ⟨by push_cast; linarith, by push_cast; linarith⟩
  cases r with
  | rn =>
    have nearest := roundsTo_rn_frac neg k hd
    rw [← split_] at nearest
    cases neg with
    | false => simpa [signedNat] using nearest
    | true =>
      obtain ⟨near, even⟩ := nearest
      have flip (n : Nat) : |-1 * y - (-(n : Int) : Int)| = |y - (n : Int)| := by
        rw [← abs_neg]
        congr 1
        push_cast
        ring
      exact ⟨(flip _).trans_le near, fun tie => (even ((flip _).symm.trans tie)).neg⟩
  | rz =>
    cases neg
    · simp [RoundsTo, roundUp, signedNat, floor_, nonneg]
    · rcases nonneg.eq_or_lt with h | h
      · simp [RoundsTo, roundUp, signedNat, ← h] at floor_ ⊢
        exact_mod_cast floor_.symm
      · simp [RoundsTo, roundUp, signedNat, floor_, Int.ceil_neg, not_le.mpr h]
  | ru => cases neg <;> simp [RoundsTo, roundUp, signedNat, floor_, ceil_, Int.ceil_neg]
  | rd => cases neg <;> simp [RoundsTo, roundUp, signedNat, floor_, ceil_, Int.floor_neg]

/-- Rounding to an integer rounds the value in the mode (R100, R207). -/
theorem roundInt_eq (r : Rnd) (neg : Bool) (m : Nat) (e : Int) :
    roundInt r neg m e = signedNat neg (rounded r neg (m * 2 ^ e.toNat) (2 ^ (-e).toNat)) := by
  unfold roundInt signedNat
  by_cases h : 0 ≤ e
  · rw [if_pos h, Int.toNat_eq_zero.mpr (Int.neg_nonpos_of_nonneg h), pow_zero, rounded_one]
  · rw [if_neg h, Int.toNat_eq_zero.mpr (Int.le_of_lt (not_le.mp h)), pow_zero, mul_one]
    rfl

/-- A finite magnitude as a quotient of natural numbers. -/
theorem quotient_eq (m : Nat) (e : Int) :
    ((m * 2 ^ e.toNat : Nat) : ℚ) / (2 ^ (-e).toNat : Nat) = m * 2 ^ e := by
  push_cast
  rw [← zpow_natCast, ← zpow_natCast, mul_div_assoc, ← zpow_sub₀ two_ne_zero]
  congr 2
  omega

theorem roundsTo_roundInt (r : Rnd) (neg : Bool) (m : Nat) (e : Int) :
    RoundsTo r (signQ neg * (m * 2 ^ e)) (roundInt r neg m e) := by
  rw [roundInt_eq, ← quotient_eq]
  exact roundsTo_rounded r neg _ (Nat.two_pow_pos _)

/-- When a magnitude `y` rounds to the even number `n` or above. -/
def Reaches (r : Rnd) (neg : Bool) (n y : ℚ) : Prop :=
  match r with
  | .rn => n - 1 / 2 ≤ y
  | .rz => n ≤ y
  | .ru => if neg then n ≤ y else n - 1 < y
  | .rd => if neg then n - 1 < y else n ≤ y

theorem reaches_of_le (r : Rnd) (neg : Bool) {n y : ℚ} (h : n ≤ y) : Reaches r neg n y := by
  cases r <;> cases neg <;> simp [Reaches] <;> linarith

theorem not_reaches_of_le (r : Rnd) (neg : Bool) {n y : ℚ} (h : y ≤ n - 1) : ¬ Reaches r neg n y := by
  cases r <;> cases neg <;> simp [Reaches] <;> linarith

theorem le_rounded_iff (r : Rnd) (neg : Bool) (a : Nat) {u n : Nat} (hu : 0 < u) (hn : Even n) :
    n ≤ rounded r neg a u ↔ Reaches r neg n (a / u) := by
  have hd := Nat.mod_lt a hu
  have hq : (0 : ℚ) < u := by exact_mod_cast hu
  rw [div_add_frac a hu, rounded]
  generalize a / u = k at *
  generalize a % u = d at *
  have frac_lt : (d : ℚ) / u < 1 := (div_lt_one hq).mpr (by exact_mod_cast hd)
  have frac_nonneg : (0 : ℚ) ≤ d / u := by positivity
  have bump (b : Bool) : (if b then 1 else 0) ≤ 1 := by cases b <;> decide
  rcases Nat.lt_trichotomy n (k + 1) with h | rfl | h
  · have low : (n : ℚ) ≤ k := by exact_mod_cast Nat.le_of_lt_succ h
    exact iff_of_true (by omega) (reaches_of_le r neg (by linarith))
  · have odd : k % 2 = 1 := by
      have := Nat.even_iff.mp hn
      omega
    have half : (k + 1 : ℚ) - 1 / 2 ≤ k + d / u ↔ u ≤ 2 * d := by
      rw [← sub_le_iff_le_add', show (k + 1 : ℚ) - 1 / 2 - k = 1 / 2 by ring, div_le_div_iff₀ two_pos hq]
      rw [one_mul, mul_comm]
      exact_mod_cast Iff.rfl
    have some_ : (0 : ℚ) < d / u ↔ d ≠ 0 := by
      rw [div_pos_iff_of_pos_right hq, Nat.cast_pos, Nat.pos_iff_ne_zero]
    have whole : ¬ (1 : ℚ) ≤ d / u := not_le.mpr frac_lt
    have bit (b : Bool) : k + 1 ≤ k + (if b then 1 else 0) ↔ b = true := by cases b <;> simp
    rw [bit]
    unfold Reaches
    push_cast
    cases r with
    | rn =>
      rw [half]
      simp [roundUp, odd]
      omega
    | rz => simp [roundUp, whole]
    | ru => cases neg <;> simp [roundUp, some_, whole]
    | rd => cases neg <;> simp [roundUp, some_, whole]
  · have high : (k : ℚ) + 2 ≤ n := by exact_mod_cast h
    refine iff_of_false (fun hle => ?_) (not_reaches_of_le r neg (by linarith))
    have := bump (roundUp r neg (k % 2 == 1) d u)
    omega

/-! ### Formats -/

/-- What the formats have in common: the largest exponent field is twice the bias and 1, and every fraction has fewer
bits than the bias (R82). -/
structure Regular (f : Fmt) : Prop where
  top : 2 ^ f.eb = 2 * f.bias + 2
  fits : f.fb + 1 < f.bias
  frac : 0 < f.fb

theorem regular_of_mem {f : Fmt} (h : f ∈ [Fmt.f16, Fmt.bf16, Fmt.f32, Fmt.f64]) : Regular f := by
  simp only [List.mem_cons, List.not_mem_nil, or_false] at h
  rcases h with rfl | rfl | rfl | rfl <;> exact ⟨by decide, by decide, by decide⟩

variable {f : Fmt}

theorem infBits_eq (hf : Regular f) : f.infBits = (2 * f.bias + 1) * 2 ^ f.fb := by
  rw [Fmt.infBits, hf.top]
  rfl

/-- The value of bits by their fields (R82). -/
theorem ratOf_value (bits : Nat) (hx : bits / 2 ^ f.fb % 2 ^ f.eb ≠ 2 ^ f.eb - 1) :
    ratOf (f.value bits) = some ((if bits / 2 ^ (f.fb + f.eb) % 2 = 1 then -1 else 1) *
      if bits / 2 ^ f.fb % 2 ^ f.eb = 0 then ((bits % 2 ^ f.fb : Nat) : ℚ) / 2 ^ f.fb * 2 ^ (1 - (f.bias : Int))
      else (1 + ((bits % 2 ^ f.fb : Nat) : ℚ) / 2 ^ f.fb) *
        2 ^ (((bits / 2 ^ f.fb % 2 ^ f.eb : Nat) : Int) - f.bias)) := by
  have unit (e : Int) : (2 : ℚ) ^ (e - f.fb) = 2 ^ e / 2 ^ f.fb := by
    rw [zpow_sub₀ two_ne_zero, zpow_natCast]
  have sign (b : Nat) : signQ (b == 1) = if b = 1 then -1 else 1 := by
    by_cases h : b = 1 <;> simp [signQ, h]
  unfold Fmt.value Fmt.signBit
  rw [if_neg hx, add_comm f.eb f.fb]
  generalize bits / 2 ^ f.fb % 2 ^ f.eb = ex at *
  generalize bits % 2 ^ f.fb = fr
  split
  · rw [ratOf_fin, sign, Fmt.qmin, unit]
    congr 2
    ring
  · rename_i h
    rw [ratOf_fin, sign, Fmt.qmin, show (1 : Int) - f.bias - f.fb + (ex - 1 : Nat) = ex - f.bias - f.fb by omega, unit]
    congr 2
    push_cast
    field_simp
    ring

theorem withSign_sign (neg : Bool) {mag : Nat} (h : mag < f.signBit) :
    (f.withSign neg mag / f.signBit % 2 == 1) = neg := by
  have hs : 0 < f.signBit := Nat.two_pow_pos _
  unfold Fmt.withSign
  cases neg
  · rw [if_neg Bool.false_ne_true, Nat.div_eq_of_lt h]
    rfl
  · rw [if_pos rfl, Nat.add_div_left _ hs, Nat.div_eq_of_lt h]
    rfl

theorem withSign_frac (neg : Bool) (mag : Nat) : f.withSign neg mag % 2 ^ f.fb = mag % 2 ^ f.fb := by
  unfold Fmt.withSign Fmt.signBit
  cases neg
  · rfl
  · rw [if_pos rfl, pow_add, Nat.mul_comm, Nat.mul_add_mod]

theorem withSign_exp (neg : Bool) {mag : Nat} (h : mag < f.signBit) :
    f.withSign neg mag / 2 ^ f.fb % 2 ^ f.eb = mag / 2 ^ f.fb := by
  have small : mag / 2 ^ f.fb < 2 ^ f.eb := by
    rw [Nat.div_lt_iff_lt_mul (Nat.two_pow_pos _), ← pow_add]
    exact h
  unfold Fmt.withSign Fmt.signBit
  cases neg
  · exact Nat.mod_eq_of_lt small
  · rw [if_pos rfl, pow_add, Nat.add_comm, Nat.add_mul_div_right _ _ (Nat.two_pow_pos _), Nat.add_mod_right,
      Nat.mod_eq_of_lt small]

theorem infBits_lt_signBit : f.infBits < f.signBit := by
  rw [Fmt.infBits, Fmt.signBit, pow_add]
  exact Nat.mul_lt_mul_of_pos_right (Nat.sub_lt (Nat.two_pow_pos _) one_pos) (Nat.two_pow_pos _)

/-- Bits made of a significand and an exponent have their value (R82). -/
theorem value_withSign (neg : Bool) {sig j : Nat} (hs : sig < 2 ^ (f.fb + 1))
    (hn : 2 ^ f.fb ≤ sig ∨ j = 0) (hb : sig + j * 2 ^ f.fb < f.infBits) :
    f.value (f.withSign neg (sig + j * 2 ^ f.fb)) = .fin neg sig (f.qmin + j) := by
  have room := hb.trans infBits_lt_signBit
  have hp := Nat.two_pow_pos f.fb
  have finite : sig / 2 ^ f.fb + j < 2 ^ f.eb - 1 := by
    rw [← Nat.add_mul_div_right _ _ hp, Nat.div_lt_iff_lt_mul hp]
    exact hb
  unfold Fmt.value
  simp only [withSign_sign neg room, withSign_exp neg room, withSign_frac, Nat.add_mul_div_right _ _ hp,
    Nat.add_mul_mod_self_right]
  rw [if_neg finite.ne]
  by_cases hl : sig < 2 ^ f.fb
  · obtain rfl : j = 0 := hn.resolve_left (by omega)
    rw [Nat.div_eq_of_lt hl, Nat.mod_eq_of_lt hl, if_pos rfl]
    simp
  · have one : sig / 2 ^ f.fb = 1 := by
      rw [Nat.div_eq_iff hp]
      rw [pow_succ] at hs
      omega
    have rest : sig % 2 ^ f.fb = sig - 2 ^ f.fb := by
      have := Nat.div_add_mod sig (2 ^ f.fb)
      rw [one] at this
      omega
    rw [one, rest, if_neg (by omega), Nat.sub_add_cancel (by omega), show 1 + j - 1 = j by omega]

/-- The least exponent and the bits of a magnitude that rounds once. -/
def roundExp (f : Fmt) (m : Nat) (e : Int) : Int := max ((Nat.log2 m : Int) + e - f.fb) f.qmin

/-- The significand of a magnitude that rounds once. -/
def roundSig (f : Fmt) (r : Rnd) (neg : Bool) (m : Nat) (e : Int) : Nat :=
  rounded r neg (m * 2 ^ (e - roundExp f m e).toNat) (2 ^ (-(e - roundExp f m e)).toNat)

theorem roundMag_eq (r : Rnd) (neg : Bool) (m : Nat) (e : Int) :
    f.roundMag r neg m e = roundSig f r neg m e + (roundExp f m e - f.qmin).toNat * 2 ^ f.fb := by
  unfold Fmt.roundMag roundSig
  dsimp only
  rw [show max ((Nat.log2 m : Int) + e - f.fb) f.qmin = roundExp f m e from rfl]
  congr 1
  generalize roundExp f m e = q
  by_cases h : q - e ≤ 0
  · rw [if_pos h, Int.toNat_eq_zero.mpr (by omega : -(e - q) ≤ 0), pow_zero, rounded_one, Int.neg_sub]
  · rw [if_neg h, Int.toNat_eq_zero.mpr (by omega : e - q ≤ 0), pow_zero, mul_one, Int.neg_sub]
    rfl

/-- A magnitude that is a whole number of units of the exponent it rounds at rounds to itself. -/
theorem roundSig_exact (r : Rnd) (neg : Bool) {a k m : Nat} {e : Int} (hm : m = a * 2 ^ k)
    (hq : roundExp f m e ≤ e + k) : (roundSig f r neg m e : ℚ) * 2 ^ roundExp f m e = m * 2 ^ e := by
  unfold roundSig
  generalize roundExp f m e = q at *
  have hd : 2 ^ (-(e - q)).toNat ∣ m * 2 ^ (e - q).toNat :=
    (hm ▸ (pow_dvd_pow 2 (by omega)).mul_left a).mul_right _
  rw [rounded_of_dvd (Nat.two_pow_pos _) hd, Nat.cast_div hd (by positivity), quotient_eq, mul_assoc,
    ← zpow_add₀ two_ne_zero]
  congr 2
  omega

theorem le_magnitude {m : Nat} (h : m ≠ 0) (e : Int) : (2 : ℚ) ^ ((Nat.log2 m : Int) + e) ≤ m * 2 ^ e := by
  rw [zpow_add₀ two_ne_zero, zpow_natCast]
  exact mul_le_mul_of_nonneg_right (by exact_mod_cast Nat.log2_self_le h) (two_zpow_pos e).le

theorem magnitude_lt {m : Nat} (e : Int) : (m : ℚ) * 2 ^ e < 2 ^ ((Nat.log2 m : Int) + e + 1) := by
  rw [add_right_comm, zpow_add₀ two_ne_zero]
  refine mul_lt_mul_of_pos_right ?_ (two_zpow_pos e)
  rw [← Nat.cast_succ, zpow_natCast]
  exact_mod_cast Nat.lt_log2_self

theorem two_zpow_lt {i j : Int} : (2 : ℚ) ^ i < 2 ^ j ↔ i < j := zpow_lt_zpow_iff_right₀ one_lt_two

theorem two_zpow_le {i j : Int} : (2 : ℚ) ^ i ≤ 2 ^ j ↔ i ≤ j := zpow_le_zpow_iff_right₀ one_lt_two

theorem qmin_eq (f : Fmt) : f.qmin = 1 - (f.bias : Int) - f.fb := rfl

/-- The exponent at which a magnitude rounds is that of a full significand, or the least. -/
theorem roundExp_cases (f : Fmt) (m : Nat) (e : Int) :
    roundExp f m e = (Nat.log2 m : Int) + e - f.fb ∧ f.qmin ≤ roundExp f m e ∨
      roundExp f m e = f.qmin ∧ (Nat.log2 m : Int) + e - f.fb < roundExp f m e := by
  unfold roundExp
  omega

/-- A magnitude with no more bits than the significand, inside the range, rounds to itself in every mode (R83). -/
theorem value_round_exact (hf : Regular f) (r : Rnd) (neg : Bool) {a k m : Nat} {e : Int} (h0 : m ≠ 0)
    (hm : m = a * 2 ^ k) (ha : a < 2 ^ (f.fb + 1)) (hq : f.qmin ≤ e + k)
    (hx : (m : ℚ) * 2 ^ e < 2 ^ ((f.bias : Int) + 1)) :
    ∃ n j, f.value (f.round r (.fin neg m e)) = .fin neg n j ∧ (n : ℚ) * 2 ^ j = m * 2 ^ e := by
  have bits : Nat.log2 m < f.fb + 1 + k := by
    rw [Nat.log2_lt h0, hm, pow_add 2 (f.fb + 1) k]
    exact Nat.mul_lt_mul_of_pos_right ha (Nat.two_pow_pos k)
  have shift : roundExp f m e ≤ e + k := by
    unfold roundExp
    omega
  have exact_ := roundSig_exact (f := f) r neg hm shift
  have low := le_magnitude h0 e
  have high := magnitude_lt (m := m) e
  have top : (Nat.log2 m : Int) + e < f.bias + 1 := two_zpow_lt.mp (low.trans_lt hx)
  have cases_ := roundExp_cases f m e
  have mag := roundMag_eq (f := f) r neg m e
  generalize roundSig f r neg m e = sig at *
  generalize roundExp f m e = q at *
  have hpos := two_zpow_pos q
  have sig_lt : sig < 2 ^ (f.fb + 1) := by
    have : (sig : ℚ) * 2 ^ q < 2 ^ ((f.fb : Int) + 1) * 2 ^ q := by
      rw [exact_, ← zpow_add₀ two_ne_zero]
      exact high.trans_le (two_zpow_le.mpr (by omega))
    have := lt_of_mul_lt_mul_right this hpos.le
    rw [← Nat.cast_succ, zpow_natCast] at this
    exact_mod_cast this
  have full : 2 ^ f.fb ≤ sig ∨ (q - f.qmin).toNat = 0 := by
    rcases cases_ with ⟨hq, -⟩ | ⟨hq, -⟩
    · refine .inl ?_
      have : (2 : ℚ) ^ (f.fb : Int) * 2 ^ q ≤ sig * 2 ^ q := by
        rw [exact_, ← zpow_add₀ two_ne_zero]
        exact (two_zpow_le.mpr (by omega)).trans low
      have := le_of_mul_le_mul_right this hpos
      rw [zpow_natCast] at this
      exact_mod_cast this
    · exact .inr (by omega)
  have room : sig + (q - f.qmin).toNat * 2 ^ f.fb < f.infBits := by
    have hj : (q - f.qmin).toNat ≤ 2 * f.bias - 1 := by
      rw [qmin_eq] at *
      omega
    have fits := hf.fits
    rw [infBits_eq hf]
    calc _ < 2 ^ (f.fb + 1) + (2 * f.bias - 1) * 2 ^ f.fb :=
            Nat.add_lt_add_of_lt_of_le sig_lt (Nat.mul_le_mul_right _ hj)
      _ = (2 + (2 * f.bias - 1)) * 2 ^ f.fb := by rw [pow_succ]; ring
      _ = _ := by congr 1; omega
  refine ⟨sig, q, ?_, exact_⟩
  rw [Fmt.round, if_neg h0, mag, if_neg (not_le.mpr room), value_withSign neg sig_lt full room]
  congr 1
  omega

/-! ### Overflow -/

theorem le_roundSig_iff (r : Rnd) (neg : Bool) (m : Nat) (e : Int) {n : Nat} (hn : Even n) :
    n ≤ roundSig f r neg m e ↔ Reaches r neg n (m * 2 ^ (e - roundExp f m e)) := by
  rw [roundSig, le_rounded_iff r neg _ (Nat.two_pow_pos _) hn, quotient_eq]

/-- A value overflows when its magnitude, in units of the largest exponent, reaches one bit more than a significand. -/
theorem overflows_iff (r : Rnd) (neg : Bool) {x : ℚ} (hx : 0 < x) :
    Overflows f r (signQ neg * x) ↔ Reaches r neg (2 ^ (f.fb + 1) : Nat) (x * 2 ^ ((f.fb : Int) - f.bias)) := by
  have unit : (0 : ℚ) < 2 ^ ((f.bias : Int) - f.fb) := two_zpow_pos _
  have back : x * 2 ^ ((f.fb : Int) - f.bias) = x / 2 ^ ((f.bias : Int) - f.fb) := by
    rw [div_eq_mul_inv, ← zpow_neg, neg_sub]
  have one_ : (2 : ℚ) ^ f.bias = 2 ^ f.fb * 2 ^ ((f.bias : Int) - f.fb) := by
    rw [← zpow_natCast, ← zpow_natCast, ← zpow_add₀ two_ne_zero]
    congr 1
    omega
  have top : (2 : ℚ) ^ (f.bias + 1) = (2 ^ (f.fb + 1) : Nat) * 2 ^ ((f.bias : Int) - f.fb) := by
    rw [pow_succ, one_]
    push_cast
    ring
  have near : (2 - (2 : ℚ)⁻¹ ^ (f.fb + 1)) * 2 ^ f.bias =
      (((2 ^ (f.fb + 1) : Nat) : ℚ) - 1 / 2) * 2 ^ ((f.bias : Int) - f.fb) := by
    rw [one_, inv_pow]
    push_cast
    field_simp
    ring
  have last : (2 - (2 : ℚ)⁻¹ ^ f.fb) * 2 ^ f.bias =
      (((2 ^ (f.fb + 1) : Nat) : ℚ) - 1) * 2 ^ ((f.bias : Int) - f.fb) := by
    rw [one_, inv_pow]
    push_cast
    field_simp
    ring
  rw [back]
  cases r <;> cases neg <;>
    simp only [Overflows, Reaches, near, last, top, signQ_false, signQ_true, one_mul, neg_mul, abs_neg, abs_of_pos hx,
      neg_neg, if_pos hx, if_neg hx.not_gt, Left.neg_pos_iff, Left.neg_neg_iff, le_div_iff₀ unit, lt_div_iff₀ unit,
      if_true, if_false, Bool.false_eq_true]

theorem infBits_le_roundMag (hf : Regular f) (r : Rnd) (neg : Bool) {m : Nat} {e : Int} (h0 : m ≠ 0) :
    f.infBits ≤ f.roundMag r neg m e ↔ Overflows f r (signQ neg * (m * 2 ^ e)) := by
  have low := le_magnitude h0 e
  have high := magnitude_lt (m := m) e
  have cases_ := roundExp_cases f m e
  have sig_iff {n : Nat} (hn : Even n) := le_roundSig_iff (f := f) r neg m e hn
  rw [overflows_iff r neg (lt_of_lt_of_le (two_zpow_pos _) low), roundMag_eq, infBits_eq hf]
  generalize roundSig f r neg m e = sig at *
  generalize roundExp f m e = q at *
  have scale (i : Int) : (m : ℚ) * 2 ^ (e + i) = m * 2 ^ e * 2 ^ i := by rw [zpow_add₀ two_ne_zero, mul_assoc]
  have low' (i j : Int) (h : j ≤ Nat.log2 m + e + i) : (2 : ℚ) ^ j ≤ m * 2 ^ e * 2 ^ i := by
    refine le_trans ?_ (mul_le_mul_of_nonneg_right low (two_zpow_pos i).le)
    rw [← zpow_add₀ two_ne_zero]
    exact two_zpow_le.mpr h
  have high' (i j : Int) (h : Nat.log2 m + e + i < j) : (m : ℚ) * 2 ^ e * 2 ^ i < 2 ^ j := by
    refine (mul_lt_mul_of_pos_right high (two_zpow_pos i)).trans_le ?_
    rw [← zpow_add₀ two_ne_zero]
    exact two_zpow_le.mpr (by omega)
  have nat_pow (n : Nat) : (2 : ℚ) ^ (n : Int) = (2 ^ n : Nat) := by
    rw [zpow_natCast]
    push_cast
    rfl
  have even_pow : Even (2 ^ (f.fb + 1)) := (Nat.even_pow.mpr ⟨even_two, by omega⟩)
  have two_le : 2 ≤ 2 ^ f.fb := Nat.le_self_pow (hf.frac.ne') 2
  have double : 2 ^ (f.fb + 1) = 2 * 2 ^ f.fb := by rw [pow_succ, Nat.mul_comm]
  have fits := hf.fits
  rcases lt_trichotomy ((Nat.log2 m : Int) + e) f.bias with ht | ht | ht
  · have hj : (q - f.qmin).toNat ≤ 2 * f.bias - 2 := by
      rw [qmin_eq] at *
      omega
    have sig_lt : ¬ 2 ^ (f.fb + 1) + 2 ≤ sig := by
      rw [sig_iff (even_pow.add even_two)]
      refine not_reaches_of_le r neg ?_
      have : (m : ℚ) * 2 ^ e * 2 ^ (-q) < (2 ^ (f.fb + 1) : Nat) := by
        rw [← nat_pow]
        exact high' _ _ (by push_cast; omega)
      rw [sub_eq_add_neg, scale]
      push_cast at this ⊢
      linarith
    refine iff_of_false ?_ (not_reaches_of_le r neg ?_)
    · have := Nat.mul_le_mul_right (2 ^ f.fb) hj
      have whole : (2 * f.bias + 1) * 2 ^ f.fb = (2 * f.bias - 2) * 2 ^ f.fb + 3 * 2 ^ f.fb := by
        rw [← Nat.add_mul]
        congr 1
        omega
      omega
    · have : (m : ℚ) * 2 ^ e * 2 ^ ((f.fb : Int) - f.bias) < (2 ^ f.fb : Nat) := by
        rw [← nat_pow]
        exact high' _ _ (by omega)
      have : (2 : ℚ) ≤ (2 ^ f.fb : Nat) := by exact_mod_cast two_le
      rw [double, Nat.cast_mul]
      push_cast at *
      linarith
  · have hq : q = f.bias - f.fb := by
      rw [qmin_eq] at cases_
      omega
    have hj : (q - f.qmin).toNat = 2 * f.bias - 1 := by
      rw [qmin_eq]
      omega
    rw [show (f.fb : Int) - f.bias = -q by omega, ← scale, ← sub_eq_add_neg, ← sig_iff even_pow, hj, double,
      show 2 * f.bias + 1 = 2 + (2 * f.bias - 1) by omega, Nat.add_mul]
    exact Nat.add_le_add_iff_right
  · have hq : q = Nat.log2 m + e - f.fb := by
      rw [qmin_eq] at cases_
      omega
    have hj : 2 * f.bias ≤ (q - f.qmin).toNat := by
      rw [qmin_eq]
      omega
    have full : 2 ^ f.fb ≤ sig := by
      rw [sig_iff (Nat.even_pow.mpr ⟨even_two, hf.frac.ne'⟩)]
      refine reaches_of_le r neg ?_
      rw [← nat_pow, sub_eq_add_neg, scale]
      exact low' _ _ (by omega)
    refine iff_of_true ?_ (reaches_of_le r neg ?_)
    · have := Nat.mul_le_mul_right (2 ^ f.fb) hj
      rw [Nat.add_mul]
      omega
    · rw [← nat_pow]
      exact low' _ _ (by push_cast; omega)

end Sys2Proof.Proofs
end

section
/-! What the float operations compute (O60) (04 R82, R98, R99; 08 R200 to R211): sums, products, comparisons,
conversions, rounding to an integer, classes, and the special functions where their result is rational. -/

namespace Sys2Proof.Proofs

open Sys2Proof.Machine Sys2Proof.Laws Sys2Proof.Claims

variable {f : Fmt}

/-! ### Sums and products -/

theorem ratOf_add {r : Rnd} {a b : Machine.Num} {x y : ℚ} (ha : ratOf a = some x) (hb : ratOf b = some y) :
    ratOf (Machine.Num.add r a b) = some (x + y) := by
  obtain ⟨p, m, e, rfl, rfl⟩ := eq_fin_of_ratOf ha
  obtain ⟨q, n, g, rfl, rfl⟩ := eq_fin_of_ratOf hb
  rw [Machine.Num.add, ratOf_ofInt, Int.cast_add, add_mul, scaled_eq p m (min_le_left e g),
    scaled_eq q n (min_le_right e g)]

theorem ratOf_mul {a b : Machine.Num} {x y : ℚ} (ha : ratOf a = some x) (hb : ratOf b = some y) :
    ratOf (Machine.Num.mul a b) = some (x * y) := by
  obtain ⟨p, m, e, rfl, rfl⟩ := eq_fin_of_ratOf ha
  obtain ⟨q, n, g, rfl, rfl⟩ := eq_fin_of_ratOf hb
  rw [Machine.Num.mul, ratOf_fin, signQ_xor, zpow_add₀ two_ne_zero]
  push_cast
  congr 1
  ring

theorem ratOf_neg {a : Machine.Num} {x : ℚ} (ha : ratOf a = some x) : ratOf a.neg = some (-x) := by
  obtain ⟨p, m, e, rfl, rfl⟩ := eq_fin_of_ratOf ha
  rw [Machine.Num.neg, ratOf_fin, signQ_not, neg_mul]

theorem add_nan_left (r : Rnd) (a : Machine.Num) : Machine.Num.add r .nan a = .nan := by cases a <;> rfl

theorem add_nan_right (r : Rnd) (a : Machine.Num) : Machine.Num.add r a .nan = .nan := by cases a <;> rfl

theorem mul_nan_left (a : Machine.Num) : Machine.Num.mul .nan a = .nan := by cases a <;> rfl

theorem mul_nan_right (a : Machine.Num) : Machine.Num.mul a .nan = .nan := by cases a <;> rfl

/-- FDOT2 rounds one exact sum (R204). -/
theorem dot2_rounds (h : Half) (r : Rnd) (d a b : Nat) :
    let D := Fmt.f32.value d
    let A0 := h.fmt.value (a % 65536)
    let A1 := h.fmt.value (a / 65536)
    let B0 := h.fmt.value (b % 65536)
    let B1 := h.fmt.value (b / 65536)
    ((∃ v ∈ [D, A0, A1, B0, B1], v = .nan) → dot2 h r d a b = Fmt.f32.nanBits) ∧
    ∀ x p q u v, ratOf D = some x → ratOf A0 = some p → ratOf B0 = some q → ratOf A1 = some u → ratOf B1 = some v →
      ∃ z, ratOf z = some (x + p * q + u * v) ∧ dot2 h r d a b = Fmt.f32.round r z := by
  intro D A0 A1 B0 B1
  have sum : dot2 h r d a b = Fmt.f32.round r (Machine.Num.add r D
      (Machine.Num.add r (Machine.Num.mul A0 B0) (Machine.Num.mul A1 B1))) := rfl
  refine ⟨?_, fun x p q u v hD hA0 hB0 hA1 hB1 => ⟨_, ?_, sum⟩⟩
  · rintro ⟨w, hw, rfl⟩
    rw [sum]
    simp only [List.mem_cons, List.not_mem_nil, or_false] at hw
    rcases hw with h | h | h | h | h <;> rw [← h] <;>
      simp only [add_nan_left, add_nan_right, mul_nan_left, mul_nan_right] <;> rfl
  · rw [ratOf_add hD (ratOf_add (ratOf_mul hA0 hB0) (ratOf_mul hA1 hB1)), add_assoc]

/-! ### Comparisons -/

theorem placeOf_fin (neg : Bool) (m : Nat) (e : Int) : placeOf (.fin neg m e) = (0, signQ neg * (m * 2 ^ e)) := by
  refine Prod.ext rfl ?_
  change (ratOf (.fin neg m e)).getD 0 = _
  rw [ratOf_fin]
  rfl

theorem scaled_lt_iff (x y : Bool) (m n : Nat) (e g : Int) :
    scaled x m e (min e g) < scaled y n g (min e g) ↔ signQ x * (m * (2 : ℚ) ^ e) < signQ y * (n * 2 ^ g) := by
  rw [← scaled_eq x m (min_le_left e g), ← scaled_eq y n (min_le_right e g), mul_lt_mul_iff_left₀ (two_zpow_pos _),
    Int.cast_lt]

theorem scaled_eq_iff (x y : Bool) (m n : Nat) (e g : Int) :
    scaled x m e (min e g) = scaled y n g (min e g) ↔ signQ x * (m * (2 : ℚ) ^ e) = signQ y * (n * 2 ^ g) := by
  rw [← scaled_eq x m (min_le_left e g), ← scaled_eq y n (min_le_right e g), mul_left_inj' (two_zpow_pos _).ne',
    Int.cast_inj]

theorem lt_iff (a b : Machine.Num) : a.lt b = true ↔ ¬ (a = .nan ∨ b = .nan) ∧ Under (placeOf a) (placeOf b) := by
  cases a with
  | nan => simp [Machine.Num.lt]
  | inf x =>
    cases b with
    | nan => simp [Machine.Num.lt]
    | inf y => cases x <;> cases y <;> simp [Machine.Num.lt, Under, placeOf]
    | fin y n g => cases x <;> simp [Machine.Num.lt, Under, placeOf]
  | fin x m e =>
    cases b with
    | nan => simp [Machine.Num.lt]
    | inf y => cases y <;> simp [Machine.Num.lt, Under, placeOf]
    | fin y n g => simp [Machine.Num.lt, Under, placeOf_fin, scaled_lt_iff]

theorem eqv_iff (a b : Machine.Num) : a.eqv b = true ↔ ¬ (a = .nan ∨ b = .nan) ∧ placeOf a = placeOf b := by
  cases a with
  | nan => simp [Machine.Num.eqv]
  | inf x =>
    cases b with
    | nan => simp [Machine.Num.eqv]
    | inf y => cases x <;> cases y <;> simp [Machine.Num.eqv, placeOf]
    | fin y n g => cases x <;> simp [Machine.Num.eqv, placeOf]
  | fin x m e =>
    cases b with
    | nan => simp [Machine.Num.eqv]
    | inf y => cases y <;> simp [Machine.Num.eqv, placeOf]
    | fin y n g => simp [Machine.Num.eqv, placeOf_fin, scaled_eq_iff]

/-- The conditions of FCMP (the table of R203). -/
theorem cond_iff (c : FCond) (a b : Machine.Num) : a.cond c b = true ↔ Compares c a b := by
  have nan (x : Machine.Num) : x.isNan = true ↔ x = .nan := by cases x <;> simp [Machine.Num.isNan]
  cases c with
  | eq => exact eqv_iff a b
  | lt => exact lt_iff a b
  | ne =>
    rw [Machine.Num.cond, Bool.not_eq_true', ← Bool.not_eq_true, eqv_iff, Compares]
    tauto
  | le =>
    rw [Machine.Num.cond, Bool.or_eq_true, lt_iff, eqv_iff, Compares]
    tauto
  | gt =>
    rw [Machine.Num.cond, lt_iff, Compares, or_comm]
  | ge =>
    rw [Machine.Num.cond, Bool.or_eq_true, lt_iff, eqv_iff, Compares]
    tauto
  | un => rw [Machine.Num.cond, Bool.or_eq_true, nan, nan, Compares]

theorem floatCond_iff (t : FTy) (c : FCond) (a b : Nat) : floatCond t c a b = true ↔
    if t.packed then Compares c (t.fmt.value (a % 65536)) (t.fmt.value (b % 65536)) ∧
      Compares c (t.fmt.value (a / 65536)) (t.fmt.value (b / 65536))
    else Compares c (t.fmt.value a) (t.fmt.value b) := by
  unfold floatCond
  cases t.packed <;> simp [cond_iff]

/-! ### The finite values of a format -/

/-- A finite value has a significand's bits at an exponent in the range, below the largest magnitude. -/
theorem value_fin (hf : Regular f) {bits : Nat} {neg : Bool} {m : Nat} {e : Int} (h : f.value bits = .fin neg m e) :
    m < 2 ^ (f.fb + 1) ∧ f.qmin ≤ e ∧ (m : ℚ) * 2 ^ e < 2 ^ ((f.bias : Int) + 1) := by
  have fr_lt := Nat.mod_lt bits (Nat.two_pow_pos f.fb)
  have ex_lt := Nat.mod_lt (bits / 2 ^ f.fb) (Nat.two_pow_pos f.eb)
  have double : 2 ^ (f.fb + 1) = 2 * 2 ^ f.fb := by rw [pow_succ, Nat.mul_comm]
  have fits := hf.fits
  have bound : m < 2 ^ (f.fb + 1) ∧ f.qmin ≤ e ∧ e + f.fb ≤ f.bias := by
    unfold Fmt.value at h
    dsimp only at h
    generalize bits / 2 ^ f.fb % 2 ^ f.eb = ex at *
    generalize bits % 2 ^ f.fb = fr at *
    rw [hf.top] at h ex_lt
    split at h
    · split at h <;> cases h
    · split at h <;> cases h
      · rw [qmin_eq]
        omega
      · rw [qmin_eq]
        omega
  obtain ⟨hm, hq, he⟩ := bound
  refine ⟨hm, hq, ?_⟩
  calc (m : ℚ) * 2 ^ e < (2 ^ (f.fb + 1) : Nat) * 2 ^ e :=
            mul_lt_mul_of_pos_right (by exact_mod_cast hm) (two_zpow_pos e)
    _ = 2 ^ ((f.fb : Int) + 1 + e) := by
      rw [zpow_add₀ two_ne_zero, ← Nat.cast_succ, zpow_natCast]
      push_cast
      rfl
    _ ≤ _ := two_zpow_le.mpr (by omega)

theorem withSign_zero_value (hf : Regular f) (neg : Bool) : f.value (f.withSign neg 0) = .fin neg 0 f.qmin := by
  have room : 0 + 0 * 2 ^ f.fb < f.infBits := by
    rw [infBits_eq hf, Nat.zero_mul]
    positivity
  have := value_withSign (f := f) neg (sig := 0) (j := 0) (by positivity) (.inr rfl) room
  simpa using this

theorem withSign_inf_value (neg : Bool) : f.value (f.withSign neg f.infBits) = .inf neg := by
  have hp := Nat.two_pow_pos f.fb
  have exp : f.infBits / 2 ^ f.fb = 2 ^ f.eb - 1 := Nat.mul_div_cancel _ hp
  have frac : f.infBits % 2 ^ f.fb = 0 := Nat.mul_mod_left ..
  unfold Fmt.value
  simp only [withSign_sign neg infBits_lt_signBit, withSign_exp neg infBits_lt_signBit, withSign_frac, exp, frac,
    if_true]

/-- A format rounds each of its own values, and each of a narrower format's, to itself (R83). -/
theorem value_round_fin (hf : Regular f) (r : Rnd) (neg : Bool) {a k m : Nat} {e : Int} (hm : m = a * 2 ^ k)
    (ha : a < 2 ^ (f.fb + 1)) (hq : f.qmin ≤ e + k) (hx : (m : ℚ) * 2 ^ e < 2 ^ ((f.bias : Int) + 1)) :
    ratOf (f.value (f.round r (.fin neg m e))) = some (signQ neg * (m * 2 ^ e)) ∧
      (f.value (f.round r (.fin neg m e))).isNeg = neg := by
  by_cases h0 : m = 0
  · subst h0
    rw [Fmt.round, if_pos rfl, withSign_zero_value hf, ratOf_fin]
    simp [Machine.Num.isNeg]
  · obtain ⟨n, j, hv, hnj⟩ := value_round_exact hf r neg h0 hm ha hq hx
    rw [hv, ratOf_fin, hnj]
    exact ⟨rfl, rfl⟩

/-! ### Conversions -/

theorem clampInt_eq {x lo hi : Int} (h : lo ≤ hi) : clampInt x lo hi = max lo (min hi x) := by
  unfold clampInt
  omega

/-- The limits of an integer type, and what CVT writes for it (R81, R206, R207). -/
theorem intType_limits {t : NumTy} {w : Nat} {sg : Bool} (h : intType t = some (w, sg)) : ∃ lo hi : Int,
    -(2 ^ 64) ≤ lo ∧ lo ≤ hi ∧ hi ≤ 2 ^ 64 ∧
    (∀ v, saturated w sg v = (max lo (min hi v) % 2 ^ (if w = 64 then 64 else 32)).toNat) ∧
    ∀ r x, cvtResult t r x = (x.toInt r lo hi % 2 ^ (if w = 64 then 64 else 32)).toNat := by
  cases t <;> cases h <;> exact ⟨_, _, by decide, by decide, by decide, fun _ => rfl, fun _ _ => rfl⟩

theorem cvtResult_int_nan {t : NumTy} {w : Nat} {sg : Bool} (h : intType t = some (w, sg)) (r : Rnd) :
    cvtResult t r .nan = 0 := by
  obtain ⟨lo, hi, -, -, -, -, res⟩ := intType_limits h
  rw [res, Machine.Num.toInt, Int.zero_emod, Int.toNat_zero]

theorem cvtResult_int_inf {t : NumTy} {w : Nat} {sg : Bool} (h : intType t = some (w, sg)) (r : Rnd) (neg : Bool) :
    cvtResult t r (.inf neg) = saturated w sg (if neg then -(2 ^ 64) else 2 ^ 64) := by
  obtain ⟨lo, hi, low, le, high, sat, res⟩ := intType_limits h
  have : max lo (min hi (if neg then -(2 ^ 64) else 2 ^ 64)) = if neg then lo else hi := by
    cases neg <;> simp only [if_true, if_false, Bool.false_eq_true] <;> omega
  rw [res, sat, Machine.Num.toInt, this]

theorem cvtResult_int_fin {t : NumTy} {w : Nat} {sg : Bool} (h : intType t = some (w, sg)) (r : Rnd) (neg : Bool)
    (m : Nat) (e : Int) : cvtResult t r (.fin neg m e) = saturated w sg (roundInt r neg m e) := by
  obtain ⟨lo, hi, -, le, -, sat, res⟩ := intType_limits h
  rw [res, sat, Machine.Num.toInt, clampInt_eq le]

/-- CVT rounds a finite value and brings it into the integer type's range (R207). -/
theorem cvtResult_int {t : NumTy} {w : Nat} {sg : Bool} (h : intType t = some (w, sg)) (r : Rnd)
    {x : Machine.Num} {q : ℚ}
    (hx : ratOf x = some q) : ∃ n, RoundsTo r q n ∧ cvtResult t r x = saturated w sg n := by
  obtain ⟨neg, m, e, rfl, rfl⟩ := eq_fin_of_ratOf hx
  exact ⟨_, roundsTo_roundInt r neg m e, cvtResult_int_fin h r neg m e⟩

theorem cvtResult_float {t : NumTy} {e : Fmt} (h : fmtOf t = some e) (r : Rnd) (x : Machine.Num) :
    cvtResult t r x = e.round r x := by
  cases t <;> cases h <;> rfl

theorem regular_of_fmtOf {t : NumTy} {e : Fmt} (h : fmtOf t = some e) : Regular e := by
  cases t <;> cases h <;> exact regular_of_mem (by decide)

theorem cvtSource_float {t : NumTy} {e : Fmt} (h : fmtOf t = some e) (bits : Nat) :
    cvtSource t bits = e.value (bits % 2 ^ (1 + e.eb + e.fb)) := by
  cases t <;> cases h <;> rfl

theorem toInt_ofNat_eq_intOf {w : Nat} (hw : 0 < w) (bits : Nat) : (BitVec.ofNat w bits).toInt = intOf w true bits := by
  rw [BitVec.toInt_eq_toNat_cond, BitVec.toNat_ofNat, intOf]
  have half : 2 ^ w = 2 * 2 ^ (w - 1) := by rw [← pow_succ', Nat.sub_add_cancel hw]
  have cast : ((2 ^ w : Nat) : Int) = 2 ^ w := Nat.cast_pow ..
  generalize bits % 2 ^ w = x
  simp only [true_and]
  split <;> split <;> omega

/-- The integer that a source register of CVT holds, as a number (R206). -/
theorem cvtSource_int {t : NumTy} {w : Nat} {sg : Bool} (h : intType t = some (w, sg)) (bits : Nat) :
    ratOf (cvtSource t bits) = some (intOf w sg bits : ℚ) := by
  have signed {w : Nat} (hw : 0 < w) :
      ratOf (.ofInt (BitVec.ofNat w bits).toInt 0 false) = some (intOf w true bits : ℚ) := by
    rw [ratOf_ofInt, toInt_ofNat_eq_intOf hw, zpow_zero, mul_one]
  have unsigned (w : Nat) : ratOf (.fin false (bits % 2 ^ w) 0) = some (intOf w false bits : ℚ) := by
    simp only [ratOf_fin, intOf, Bool.false_eq_true, false_and, if_false, signQ_false, one_mul, zpow_zero, mul_one,
      Int.cast_natCast]
  cases t <;> cases h
  · exact signed (by decide)
  · exact signed (by decide)
  · exact signed (by decide)
  · exact signed (by decide)
  · exact unsigned 32
  · exact unsigned 64

/-- An integer rounds to itself in every mode. -/
theorem eq_of_roundsTo {r : Rnd} {n k : Int} (h : RoundsTo r (n : ℚ) k) : k = n := by
  cases r with
  | rn =>
    have near : |((n - k : Int) : ℚ)| ≤ 1 / 2 := by
      push_cast
      exact h.1
    rw [← Int.cast_abs] at near
    have : |n - k| < 1 := by
      have : ((|n - k| : Int) : ℚ) < 1 := by linarith
      exact_mod_cast this
    rw [Int.abs_lt_one_iff] at this
    omega
  | rz =>
    rw [RoundsTo, Int.floor_intCast, Int.ceil_intCast, ite_self] at h
    exact h
  | ru => exact h.trans (Int.ceil_intCast n)
  | rd => exact h.trans (Int.floor_intCast n)

theorem qmin_le_of_wider {e : Fmt} (heb : f.eb ≤ e.eb) (hfb : f.fb < e.fb) : e.qmin ≤ f.qmin ∧ f.bias ≤ e.bias := by
  have : f.bias ≤ e.bias := Nat.sub_le_sub_right (Nat.pow_le_pow_right two_pos (Nat.sub_le_sub_right heb 1)) 1
  rw [qmin_eq, qmin_eq]
  omega

/-- CVT into a wider format is exact (R206). -/
theorem round_wider {e : Fmt} (hf : Regular f) (he : Regular e) (heb : f.eb ≤ e.eb) (hfb : f.fb < e.fb) (r : Rnd)
    (bits : Nat) (hx : f.value bits ≠ .nan) : placeOf (e.value (e.round r (f.value bits))) = placeOf (f.value bits) ∧
      (e.value (e.round r (f.value bits))).isNeg = (f.value bits).isNeg := by
  cases hv : f.value bits with
  | nan => exact absurd hv hx
  | inf neg =>
    rw [Fmt.round, withSign_inf_value]
    exact ⟨rfl, rfl⟩
  | fin neg m j =>
    obtain ⟨hm, hq, hlt⟩ := value_fin hf hv
    obtain ⟨hqmin, hbias⟩ := qmin_le_of_wider heb hfb
    have := value_round_fin he r neg (k := 0) (Nat.mul_one m).symm
      (hm.trans (Nat.pow_lt_pow_right one_lt_two (by omega)))
      (by omega) (hlt.trans_le (two_zpow_le.mpr (by omega)))
    obtain ⟨rat, sign⟩ := this
    refine ⟨?_, sign⟩
    obtain ⟨_, _, _, hw, hr⟩ := eq_fin_of_ratOf rat
    rw [hw, placeOf_fin, placeOf_fin, hr]

/-- What CVT gives between integers and formats (R206, R207). -/
theorem cvt_meaning (dt st : NumTy) (r : Rnd) (bits : Nat) :
    (∀ w sg v ds, intType st = some (w, sg) → intType dt = some (v, ds) →
      cvtResult dt r (cvtSource st bits) = saturated v ds (intOf w sg bits)) ∧
    (∀ w sg f, intType st = some (w, sg) → fmtOf dt = some f →
      ∃ z, ratOf z = some (intOf w sg bits : ℚ) ∧ cvtResult dt r (cvtSource st bits) = f.round r z) ∧
    (∀ f w sg, fmtOf st = some f → intType dt = some (w, sg) →
      let x := f.value (bits % 2 ^ (1 + f.eb + f.fb))
      (x = .nan → cvtResult dt r (cvtSource st bits) = 0) ∧
      (∀ neg, x = .inf neg → cvtResult dt r (cvtSource st bits) = saturated w sg (if neg then -(2 ^ 64) else 2 ^ 64)) ∧
      ∀ q, ratOf x = some q → ∃ n, RoundsTo r q n ∧ cvtResult dt r (cvtSource st bits) = saturated w sg n) ∧
    (∀ f e, fmtOf st = some f → fmtOf dt = some e →
      let x := f.value (bits % 2 ^ (1 + f.eb + f.fb))
      cvtResult dt r (cvtSource st bits) = e.round r x ∧
      (f.eb ≤ e.eb → f.fb < e.fb → (x = .nan → e.round r x = e.nanBits) ∧
        (x ≠ .nan → placeOf (e.value (e.round r x)) = placeOf x ∧ (e.value (e.round r x)).isNeg = x.isNeg))) := by
  refine ⟨fun w sg v ds hs hd => ?_, fun w sg f hs hd => ⟨_, cvtSource_int hs bits, cvtResult_float hd r _⟩,
    fun f w sg hs hd => ?_, fun f e hs hd => ?_⟩
  · obtain ⟨n, hn, res⟩ := cvtResult_int hd r (cvtSource_int hs bits)
    rw [res, eq_of_roundsTo hn]
  · rw [cvtSource_float hs]
    exact ⟨fun h => h ▸ cvtResult_int_nan hd r, fun neg h => h ▸ cvtResult_int_inf hd r neg,
      fun q hq => cvtResult_int hd r hq⟩
  · rw [cvtSource_float hs, cvtResult_float hd]
    exact ⟨rfl, fun heb hfb => ⟨fun h => by rw [h, Fmt.round],
      round_wider (regular_of_fmtOf hs) (regular_of_fmtOf hd) heb hfb r _⟩⟩

/-! ### The overflow table -/

theorem ovAction_eq {n : Narrow} {d : Fmt} (h : fmtOf n.dst = some d) (ovt : BitVec 16) :
    ovAction ovt d = tableField ovt n.dst := by
  have field (k : Nat) : (ovt.extractLsb' k 2).toNat = ovt.toNat / 2 ^ k % 4 := by
    rw [BitVec.extractLsb'_toNat, Nat.shiftRight_eq_div_pow]
  cases n <;> cases h <;> simp [ovAction, tableField, Narrow.dst, field, Fmt.f16, Fmt.f32, Fmt.bf16]

theorem not_overflows_zero (f : Fmt) (r : Rnd) : ¬ Overflows f r 0 := by
  have half : (2 : ℚ)⁻¹ ^ (f.fb + 1) < 1 := pow_lt_one₀ (by norm_num) (by norm_num) (by omega)
  cases r with
  | rn => simpa [Overflows] using mul_pos (by linarith : (0 : ℚ) < 2 - 2⁻¹ ^ (f.fb + 1)) (pow_pos two_pos f.bias)
  | rz => simp [Overflows]
  | ru => simp [Overflows]
  | rd => simp [Overflows]

/-- CVTN (R99, R208): the overflow table decides what an overflowing value gives; every other is rounded. -/
theorem narrowBits_meaning {n : Narrow} {f d : Fmt} (r : Rnd) (ovt : BitVec 16) (bits : Nat)
    (hd : fmtOf n.dst = some d) :
    let k := tableField ovt n.dst
    let out := narrowBits ovt f d r bits
    ((∀ x, ratOf (f.value bits) = some x → ¬ Overflows d r x) → out = d.round r (f.value bits)) ∧
    ∀ x, ratOf (f.value bits) = some x → Overflows d r x →
      (k = 0 → out = (if x < 0 then 2 ^ (d.eb + d.fb) else 0) + (d.infBits - 1)) ∧
      (k = 1 → out = d.round r (f.value bits)) ∧ (k = 2 → out = d.nanBits) := by
  intro k out
  have hk : out = d.narrow r k (f.value bits) := congrArg (d.narrow r · (f.value bits)) (ovAction_eq hd ovt)
  rw [hk]
  have reg := regular_of_fmtOf hd
  cases hv : f.value bits with
  | nan => exact ⟨fun _ => rfl, fun x hx => by cases hx⟩
  | inf neg => exact ⟨fun _ => rfl, fun x hx => by cases hx⟩
  | fin neg m e =>
    rw [ratOf_fin]
    by_cases h0 : m = 0
    · subst h0
      refine ⟨fun _ => rfl, fun x hx big => ?_⟩
      simp only [Nat.cast_zero, zero_mul, mul_zero, Option.some.injEq] at hx
      exact absurd (hx ▸ big) (not_overflows_zero d r)
    · have big_iff := infBits_le_roundMag reg r neg (e := e) h0
      simp only [Option.some.injEq, forall_eq', Fmt.narrow, Fmt.round, if_neg h0]
      refine ⟨fun fits => ?_, fun big => ?_⟩
      · rw [if_neg (big_iff.not.mpr fits), if_neg (big_iff.not.mpr fits)]
      · rw [if_pos (big_iff.mpr big), if_pos (big_iff.mpr big)]
        have pos : (0 : ℚ) < m * 2 ^ e := mul_pos (by exact_mod_cast Nat.pos_of_ne_zero h0) (two_zpow_pos e)
        refine ⟨fun hk => ?_, fun hk => ?_, fun hk => ?_⟩
        · rw [if_pos hk]
          cases neg <;> simp [Fmt.withSign, Fmt.signBit, pos, pos.le]
        · simp [hk]
        · simp [hk]

/-! ### Rounding to an integer -/

theorem natAbs_signedNat (neg : Bool) (n : Nat) : (signedNat neg n).natAbs = n := by cases neg <;> simp [signedNat]

theorem rounded_le (r : Rnd) (neg : Bool) (a u : Nat) : rounded r neg a u ≤ a / u + 1 := by
  unfold rounded
  split <;> omega

/-- FROUND gives an integer as a number of the format, with the operand's sign (R210). -/
theorem integral_fin (hf : Regular f) (r : Rnd) {a : Nat} {neg : Bool} {m : Nat} {e : Int}
    (h : f.value a = .fin neg m e) :
    ratOf (f.value (f.integral r a)) = some (roundInt r neg m e : ℚ) ∧ (f.value (f.integral r a)).isNeg = neg := by
  obtain ⟨hm, -, hlt⟩ := value_fin hf h
  have fits := hf.fits
  have low : f.qmin ≤ 0 := by rw [qmin_eq]; omega
  have value_ : ((roundInt r neg m e : Int) : ℚ) =
      signQ neg * ((rounded r neg (m * 2 ^ e.toNat) (2 ^ (-e).toNat) : Nat) * 2 ^ (0 : Int)) := by
    rw [roundInt_eq, cast_signedNat, zpow_zero, mul_one]
  rw [Fmt.integral, h]
  dsimp only
  rw [value_, roundInt_eq, natAbs_signedNat]
  rcases le_or_gt 0 e with he | he
  · have whole : (-e).toNat = 0 := by omega
    rw [whole, pow_zero, rounded_one]
    refine value_round_fin hf .rz neg rfl hm (by omega) ?_
    rw [zpow_zero, mul_one, Nat.cast_mul, Nat.cast_pow, ← zpow_natCast, Int.toNat_of_nonneg he]
    exact hlt
  · have whole : e.toNat = 0 := by omega
    rw [whole, pow_zero, mul_one]
    have half : m / 2 ^ (-e).toNat ≤ m / 2 :=
      Nat.div_le_div_left (Nat.le_self_pow (by omega) 2) two_pos
    have small : rounded r neg m (2 ^ (-e).toNat) < 2 ^ (f.fb + 1) := by
      have := rounded_le r neg m (2 ^ (-e).toNat)
      have two_le : 2 ≤ 2 ^ f.fb := Nat.le_self_pow hf.frac.ne' 2
      rw [pow_succ] at hm ⊢
      omega
    refine value_round_fin hf .rz neg (k := 0) (Nat.mul_one _).symm small (by omega) ?_
    calc _ < ((2 ^ (f.fb + 1) : Nat) : ℚ) := by rw [zpow_zero, mul_one]; exact_mod_cast small
      _ = 2 ^ ((f.fb : Int) + 1) := by rw [← Nat.cast_succ, zpow_natCast]; push_cast; rfl
      _ ≤ _ := two_zpow_le.mpr (by omega)

theorem integral_meaning (hf : Regular f) (r : Rnd) {a : Nat} {x : ℚ} (hx : ratOf (f.value a) = some x) :
    ∃ n : Int, RoundsTo r x n ∧ ratOf (f.value (f.integral r a)) = some (n : ℚ) ∧
      (f.value (f.integral r a)).isNeg = (f.value a).isNeg := by
  obtain ⟨neg, m, e, hv, rfl⟩ := eq_fin_of_ratOf hx
  exact ⟨_, roundsTo_roundInt r neg m e, hv ▸ integral_fin hf r hv⟩

theorem integral_special (f : Fmt) (r : Rnd) (a : Nat) : (f.value a = .nan → f.integral r a = f.nanBits) ∧
    ∀ neg, f.value a = .inf neg → f.integral r a = f.withSign neg f.infBits :=
  ⟨fun h => by rw [Fmt.integral, h]; rfl, fun neg h => by rw [Fmt.integral, h]; rfl⟩

/-- FFRACT rounds the distance to the largest integer not above, and gives no 1 (R210). -/
theorem fract_meaning {a : Nat} {x : ℚ} (hx : ratOf (f.value a) = some x) : ∃ z, ratOf z = some (x - ⌊x⌋) ∧
    z.isNeg = false ∧ f.fract a = if f.round .rn z = f.one then f.one - 1 else f.round .rn z := by
  obtain ⟨neg, m, e, hv, rfl⟩ := eq_fin_of_ratOf hx
  have floor_ : floorNum neg m e = ⌊signQ neg * ((m : ℚ) * 2 ^ e)⌋ := roundsTo_roundInt .rd neg m e
  have diff : ratOf (Machine.Num.add .rn (.fin neg m e) (.ofInt (-floorNum neg m e) 0 false)) = _ :=
    ratOf_add (ratOf_fin neg m e) (ratOf_ofInt _ _ _)
  obtain ⟨p, n, g, hd, hval⟩ := eq_fin_of_ratOf diff
  rw [floor_, Int.cast_neg, zpow_zero, mul_one, ← sub_eq_add_neg] at hval
  have size : (n : ℚ) * 2 ^ g = Int.fract (signQ neg * ((m : ℚ) * 2 ^ e)) := by
    rw [← abs_signQ_mul p (mul_nonneg n.cast_nonneg (two_zpow_pos g).le), ← hval]
    exact abs_of_nonneg (Int.fract_nonneg _)
  refine ⟨.fin false n g, ?_, rfl, ?_⟩
  · rw [ratOf_fin, signQ_false, one_mul, size]
    rfl
  · rw [Fmt.fract, hv]
    dsimp only
    rw [hd]

theorem fract_special {a : Nat} (h : ratOf (f.value a) = none) : f.fract a = f.nanBits := by
  rw [Fmt.fract]
  cases hv : f.value a with
  | nan => rfl
  | inf neg => rfl
  | fin neg m e => rw [hv] at h; cases h

/-- FCLASS names the class of its operand (R211). -/
theorem classOf_meaning (hf : Regular f) (a : Nat) : f.classOf a = match f.value a with
    | .inf neg => if neg then 2 ^ 0 else 2 ^ 7
    | .nan => if a / 2 ^ (f.fb - 1) % 2 = 1 then 2 ^ 9 else 2 ^ 8
    | .fin neg m _ => if m = 0 then (if neg then 2 ^ 3 else 2 ^ 4)
        else if m < 2 ^ f.fb then (if neg then 2 ^ 2 else 2 ^ 5) else if neg then 2 ^ 1 else 2 ^ 6 := by
  have quiet : a % 2 ^ f.fb / 2 ^ (f.fb - 1) = a / 2 ^ (f.fb - 1) % 2 := by
    rw [show 2 ^ f.fb = 2 ^ (f.fb - 1) * 2 by rw [← pow_succ, Nat.sub_add_cancel hf.frac], Nat.mod_mul_right_div_self]
  have small := Nat.mod_lt a (Nat.two_pow_pos f.fb)
  unfold Fmt.classOf Fmt.value
  simp only [quiet]
  split
  · split <;> rfl
  · split
    · simp only [if_pos small]
    · have := Nat.two_pow_pos f.fb
      simp only [if_neg (by omega : ¬ a % 2 ^ f.fb + 2 ^ f.fb = 0),
        if_neg (by omega : ¬ a % 2 ^ f.fb + 2 ^ f.fb < 2 ^ f.fb)]

/-! ### Special functions -/

/-- A positive magnitude is that of a positive number. -/
theorem pos_of_signQ {neg : Bool} {m : Nat} {e : Int} {y : ℚ} (hy : 0 < y) (h : signQ neg * ((m : ℚ) * 2 ^ e) = y) :
    neg = false ∧ m ≠ 0 ∧ (m : ℚ) * 2 ^ e = y := by
  have nonneg : (0 : ℚ) ≤ m * 2 ^ e := mul_nonneg m.cast_nonneg (two_zpow_pos e).le
  cases neg with
  | true => rw [signQ_true] at h; linarith
  | false =>
    rw [signQ_false, one_mul] at h
    refine ⟨rfl, ?_, h⟩
    rintro rfl
    rw [Nat.cast_zero, zero_mul] at h
    exact hy.ne h

/-- A magnitude that is a power of two has a significand that is one. -/
theorem eq_two_pow {m : Nat} {e k : Int} (h : (m : ℚ) * 2 ^ e = 2 ^ k) :
    m = 2 ^ Nat.log2 m ∧ (Nat.log2 m : Int) + e = k := by
  have h0 : m ≠ 0 := by
    rintro rfl
    rw [Nat.cast_zero, zero_mul] at h
    exact (two_zpow_pos k).ne h
  have low := le_magnitude h0 e
  have high := magnitude_lt (m := m) e
  rw [h] at low high
  have sum : (Nat.log2 m : Int) + e = k := by
    have := two_zpow_le.mp low
    have := two_zpow_lt.mp high
    omega
  refine ⟨?_, sum⟩
  rw [← sum, zpow_add₀ two_ne_zero, zpow_natCast] at h
  exact_mod_cast mul_right_cancel₀ (two_zpow_pos e).ne' h

/-- A quotient by a power of two is exact (R209). -/
theorem div_two_pow {a b : Machine.Num} {x : ℚ} {k : Int} {neg : Bool} (ha : ratOf a = some x)
    (hb : ratOf b = some (signQ neg * 2 ^ k)) : ratOf (Machine.Num.div a b) = some (x * (signQ neg * 2 ^ (-k))) := by
  obtain ⟨p, m, e, rfl, rfl⟩ := eq_fin_of_ratOf ha
  obtain ⟨q, n, g, rfl, hn⟩ := eq_fin_of_ratOf hb
  have size : (n : ℚ) * 2 ^ g = 2 ^ k := by
    rw [← abs_signQ_mul q (mul_nonneg n.cast_nonneg (two_zpow_pos g).le), ← hn]
    exact abs_signQ_mul neg (two_zpow_pos k).le
  have sign : signQ q = signQ neg := by
    rw [size] at hn
    exact (mul_right_cancel₀ (two_zpow_pos k).ne' hn).symm
  obtain ⟨pow, sum⟩ := eq_two_pow size
  have pos : 0 < n := pow ▸ Nat.two_pow_pos _
  rw [Machine.Num.div, if_neg pos.ne']
  by_cases h0 : m = 0
  · subst h0
    simp [ratOf_fin]
  · have quot : m * 2 ^ (128 + Nat.log2 n) = 2 ^ 128 * m * n := by
      conv_rhs => rw [pow]
      rw [pow_add]
      ring
    dsimp only
    rw [if_neg h0, quot, Nat.mul_div_cancel _ pos, Nat.mul_mod_left, if_pos rfl, ratOf_fin, signQ_xor, sign]
    have shift : e - g - ((128 + Nat.log2 n : Nat) : Int) - 2 = e + -k - 130 := by push_cast; omega
    rw [shift, zpow_sub₀ two_ne_zero, zpow_add₀ two_ne_zero]
    congr 1
    push_cast
    norm_num
    ring

/-! ### Roots -/

/-- The bits of a root are found from the highest down. -/
theorem isqrtAux_spec (n : Nat) : ∀ b r, r * r ≤ n → n < (r + 2 ^ b) * (r + 2 ^ b) →
    isqrtAux n b r * isqrtAux n b r ≤ n ∧ n < (isqrtAux n b r + 1) * (isqrtAux n b r + 1) := by
  intro b
  induction b with
  | zero => exact fun r hlo hhi => ⟨hlo, hhi⟩
  | succ b ih =>
    intro r hlo hhi
    rw [isqrtAux]
    by_cases h : (r + 2 ^ b) * (r + 2 ^ b) ≤ n
    · rw [if_pos h]
      refine ih _ h ?_
      rwa [add_assoc, ← mul_two, ← pow_succ]
    · rw [if_neg h]
      exact ih _ hlo (not_le.mp h)

theorem isqrt_eq (n : Nat) : isqrt n = Nat.sqrt n := by
  have top : n < (0 + 2 ^ (Nat.log2 n / 2 + 1)) * (0 + 2 ^ (Nat.log2 n / 2 + 1)) := by
    rw [Nat.zero_add, ← pow_add]
    exact Nat.lt_log2_self.trans_le (Nat.pow_le_pow_right two_pos (by omega))
  obtain ⟨lo, hi⟩ := isqrtAux_spec n _ 0 (Nat.zero_le n) top
  exact Nat.eq_sqrt.mpr ⟨lo, hi⟩

theorem isqrt_mul_self (n : Nat) : isqrt (n * n) = n := by rw [isqrt_eq, Nat.sqrt_eq]

/-- The root of a square of rationals is exact (R209). -/
theorem sqrt_square {a : Machine.Num} {y : ℚ} (hy : 0 < y) (ha : ratOf a = some (y * y)) : ratOf a.sqrt = some y := by
  obtain ⟨p, m, e, rfl, hm⟩ := eq_fin_of_ratOf ha
  obtain ⟨rfl, h0, size⟩ := pos_of_signQ (mul_pos hy hy) hm.symm
  rw [Machine.Num.sqrt, if_neg h0, if_neg Bool.false_ne_true]
  have hk : ∃ j : Int, e - (256 + (if e % 2 = 0 then 0 else 1) : Nat) = 2 * j := by
    split
    · exact ⟨e / 2 - 128, by push_cast; omega⟩
    · exact ⟨e / 2 - 128, by push_cast; omega⟩
  generalize (256 + (if e % 2 = 0 then 0 else 1) : Nat) = k at *
  obtain ⟨j, hj⟩ := hk
  have square : ((m * 2 ^ k : Nat) : ℚ) = y * 2 ^ (-j) * (y * 2 ^ (-j)) := by
    have : y * 2 ^ (-j) * (y * 2 ^ (-j)) = m * 2 ^ e * (2 ^ (-j) * 2 ^ (-j)) := by rw [size]; ring
    rw [this, ← zpow_add₀ two_ne_zero, mul_assoc, ← zpow_add₀ two_ne_zero,
      show e + (-j + -j) = k by omega, zpow_natCast]
    push_cast
    rfl
  obtain ⟨s, hs⟩ := Rat.isSquare_natCast_iff.mp ⟨_, square⟩
  have root : (s : ℚ) = y * 2 ^ (-j) := by
    rw [hs, Nat.cast_mul] at square
    have positive := mul_pos hy (two_zpow_pos (-j))
    have root : (0 : ℚ) ≤ s := s.cast_nonneg
    exact (mul_self_eq_mul_self_iff.mp square).resolve_right (by linarith)
  dsimp only
  rw [hs, isqrt_mul_self, if_pos rfl, ratOf_fin, hj, Int.mul_ediv_cancel_left j two_ne_zero,
    zpow_sub₀ two_ne_zero, signQ_false]
  congr 1
  push_cast
  rw [root, zpow_neg]
  field_simp
  norm_num

/-- One over the root of an even power of two is exact (R209). -/
theorem rsqrt_two_pow {a : Machine.Num} {k : Int} (ha : ratOf a = some (2 ^ (2 * k))) :
    ratOf a.rsqrt = some (2 ^ (-k)) := by
  obtain ⟨p, m, e, rfl, hm⟩ := eq_fin_of_ratOf ha
  obtain ⟨rfl, h0, size⟩ := pos_of_signQ (two_zpow_pos _) hm.symm
  obtain ⟨pow, sum⟩ := eq_two_pow size
  rw [Machine.Num.rsqrt, if_neg h0, if_neg Bool.false_ne_true]
  generalize Nat.log2 m = l at *
  have hn : ∃ j : Nat, (512 + 2 * l + (if e % 2 = 0 then 0 else 1) : Nat) = l + 2 * j := by
    split
    · exact ⟨256 + l / 2, by omega⟩
    · exact ⟨256 + (l + 1) / 2, by omega⟩
  generalize (512 + 2 * l + (if e % 2 = 0 then 0 else 1) : Nat) = n at *
  obtain ⟨j, rfl⟩ := hn
  have quot : 2 ^ (l + 2 * j) / m = 2 ^ j * 2 ^ j := by
    rw [pow, pow_add, Nat.mul_div_cancel_left _ (Nat.two_pow_pos l), ← pow_add, two_mul]
  have whole : 2 ^ j * 2 ^ j * m = 2 ^ (l + 2 * j) := by
    rw [pow]
    ring
  have shift : (-e - ((l + 2 * j : Nat) : Int)) / 2 = -k - j := by omega
  dsimp only
  rw [quot, isqrt_mul_self, if_pos whole, shift, ratOf_fin, zpow_sub₀ two_ne_zero, zpow_sub₀ two_ne_zero, zpow_natCast]
  congr 1
  push_cast
  field_simp
  norm_num

/-! ### Powers and logarithms of two -/

theorem fmt_regular (p : Prec) : Regular p.fmt := by cases p <;> exact regular_of_mem (by decide)

/-- A power of two beyond the range of exponents rounds to infinity (R83). -/
theorem round_two_pow_large (hf : Regular f) {n : Int} (h : (f.bias : Int) < n) :
    f.round .rn (.fin false 1 n) = f.infBits := by
  have big : f.infBits ≤ f.roundMag .rn false 1 n := by
    refine (infBits_le_roundMag hf .rn false one_ne_zero).mpr ?_
    have below : (2 - (2 : ℚ)⁻¹ ^ (f.fb + 1)) * 2 ^ f.bias ≤ 2 * 2 ^ f.bias :=
      mul_le_mul_of_nonneg_right (sub_le_self _ (by positivity)) (by positivity)
    have top : (2 : ℚ) * 2 ^ f.bias ≤ 2 ^ n := by
      rw [← pow_succ', ← zpow_natCast]
      exact two_zpow_le.mpr (by push_cast; omega)
    rw [Overflows, signQ_false, one_mul, Nat.cast_one, one_mul, abs_of_pos (two_zpow_pos n)]
    exact below.trans top
  rw [Fmt.round, if_neg one_ne_zero, if_pos big]
  rfl

/-- A power of two below half of the least magnitude rounds to zero (R83). -/
theorem round_two_pow_small {n : Int} (h : n + 1 < f.qmin) : f.round .rn (.fin false 1 n) = 0 := by
  have least : roundExp f 1 n = f.qmin := by
    rw [roundExp, show Nat.log2 1 = 0 by decide]
    omega
  have none : roundSig f .rn false 1 n = 0 := by
    have unit : 2 * 1 < 2 ^ (-(n - f.qmin)).toNat := by
      have : 2 ^ 2 ≤ 2 ^ (-(n - f.qmin)).toNat := Nat.pow_le_pow_right two_pos (by omega)
      omega
    rw [roundSig, least, Int.toNat_eq_zero.mpr (by omega : n - f.qmin ≤ 0), pow_zero, one_mul]
    generalize 2 ^ (-(n - f.qmin)).toNat = u at *
    rw [rounded, Nat.div_eq_of_lt (by omega : 1 < u), Nat.mod_eq_of_lt (by omega : 1 < u)]
    simp only [roundUp, unit.not_gt, unit.ne, decide_false, Bool.false_and, Bool.or_false, Bool.false_eq_true, if_false]
  have mag : f.roundMag .rn false 1 n = 0 := by
    rw [roundMag_eq, none, least, Int.sub_self]
    simp
  rw [Fmt.round, if_neg one_ne_zero, mag]
  by_cases h0 : f.infBits ≤ 0
  · rw [if_pos h0]
    exact Nat.le_zero.mp h0
  · rw [if_neg h0]
    rfl

/-- FEXP2 of an integer rounds the power of two (R209). -/
theorem exp2_integer (p : Prec) {a : Nat} {n : Int} (ha : ratOf (p.fmt.value a) = some (n : ℚ)) :
    p.fmt.exp2 a = p.fmt.round .rn (.fin false 1 n) := by
  obtain ⟨neg, m, e, hv, hn⟩ := eq_fin_of_ratOf ha
  have reg := fmt_regular p
  have range : (p.fmt.bias : Int) < 4096 ∧ -4095 < p.fmt.qmin := by cases p <;> decide
  rw [Fmt.exp2, hv]
  dsimp only
  by_cases h0 : m = 0
  · have : n = 0 := by
      rw [h0, Nat.cast_zero, zero_mul, mul_zero] at hn
      exact_mod_cast hn
    rw [if_pos h0, this]
    cases p <;> decide
  rw [if_neg h0]
  have size : |(n : ℚ)| = m * 2 ^ e := by
    rw [hn]
    exact abs_signQ_mul neg (mul_nonneg m.cast_nonneg (two_zpow_pos e).le)
  by_cases hbig : 12 ≤ (Nat.log2 m : Int) + e
  · have far : (4096 : ℚ) ≤ |(n : ℚ)| := by
      rw [size]
      refine le_trans ?_ ((two_zpow_le.mpr hbig).trans (le_magnitude h0 e))
      norm_num
    have pos : (0 : ℚ) < m * 2 ^ e := size ▸ lt_of_lt_of_le (by norm_num) far
    rw [if_pos hbig]
    cases neg with
    | true =>
      have low : n ≤ -4096 := by
        rw [hn, signQ_true, neg_one_mul, abs_neg, abs_of_pos pos] at far
        have : (n : ℚ) ≤ (-4096 : Int) := by rw [hn, signQ_true]; push_cast; linarith
        exact_mod_cast this
      exact (round_two_pow_small (by omega)).symm
    | false =>
      have high : 4096 ≤ n := by
        rw [hn, signQ_false, one_mul, abs_of_pos pos] at far
        have : ((4096 : Int) : ℚ) ≤ n := by rw [hn, signQ_false]; push_cast; linarith
        exact_mod_cast this
      exact (round_two_pow_large reg (by omega)).symm
  · have whole : roundInt .rz neg m e = n := eq_of_roundsTo (r := .rz) (hn ▸ roundsTo_roundInt .rz neg m e)
    have exact_ : n * 2 ^ (-e).toNat = (if neg then -(m : Int) else m) ∨ 0 ≤ e := by
      rcases le_or_gt 0 e with he | he
      · exact .inr he
      · refine .inl ?_
        have : (n : ℚ) * 2 ^ (-e).toNat = (signedNat neg m : ℚ) := by
          rw [hn, cast_signedNat, ← zpow_natCast, Int.toNat_of_nonneg (by omega), mul_assoc, mul_assoc,
            ← zpow_add₀ two_ne_zero, add_neg_cancel, zpow_zero, mul_one]
        exact_mod_cast this
    rw [if_neg hbig, whole, if_pos exact_]

/-- FLOG2 of a power of two rounds the exponent (R209). -/
theorem log2_two_pow {a : Nat} {k : Int} (ha : ratOf (f.value a) = some (2 ^ k)) :
    ∃ z, ratOf z = some (k : ℚ) ∧ z.isNeg = decide (k < 0) ∧ f.log2 a = f.round .rn z := by
  obtain ⟨neg, m, e, hv, hm⟩ := eq_fin_of_ratOf ha
  obtain ⟨rfl, h0, size⟩ := pos_of_signQ (two_zpow_pos k) hm.symm
  obtain ⟨pow, sum⟩ := eq_two_pow size
  refine ⟨.ofInt k 0 false, ?_, ?_, ?_⟩
  · rw [ratOf_ofInt, zpow_zero, mul_one]
  · unfold Machine.Num.ofInt
    split
    · rename_i h
      subst h
      rfl
    · rfl
  · rw [Fmt.log2, hv]
    dsimp only
    rw [if_neg h0, if_neg Bool.false_ne_true, if_pos pow, add_comm, sum]

/-- Settles O60: each operation by the rational value it rounds, and rounding by `roundsTo_rounded`, `value_round_exact`
and `infBits_le_roundMag`. -/
theorem floatMeanings : Obligations.FloatMeanings := by
  refine ⟨fun f _ bits hx => ratOf_value bits hx,
    fun r a b x y ha hb => ⟨ratOf_add ha hb, ratOf_mul ha hb, ratOf_neg ha⟩, floatCond_iff, dot2_rounds, cvt_meaning,
    fun n f d r ovt bits _ hd => narrowBits_meaning r ovt bits hd, fun p => ?_⟩
  have reg := fmt_regular p
  exact ⟨fun r a x hx => integral_meaning reg r hx, fun r a => integral_special _ r a, fun a x hx => fract_meaning hx,
    fun a h => fract_special h, fun a => classOf_meaning reg a, fun r a b x k neg ha hb => ⟨_, div_two_pow ha hb, rfl⟩,
    fun r a y hy ha => ⟨_, sqrt_square hy ha, rfl⟩, fun a k ha => ⟨_, rsqrt_two_pow ha, rfl⟩,
    fun a n ha => ⟨_, by rw [ratOf_fin]; simp, exp2_integer p ha⟩, fun a k ha => log2_two_pow ha⟩

end Sys2Proof.Proofs
end

section
/-! LDLOD, TEX and TEXG (06 R231, R310): the clause of O33 about a full feedback ring fails where the bytes that the
device keeps for a draw begin inside the ring's header. -/

namespace Sys2Proof.Proofs

open Sys2Proof.Machine Sys2Proof.Laws Sys2Proof.Claims

/-- A page table at 0x1000 that maps GiB 0 to itself, and a full ring at 0x5020: LOG2CAP 0, PUT 1, GET 0, OVERFLOW 5. -/
def fullRingMem : List Host.Cell :=
  [(0x1000, 0x01), (0x1001, 0x20), (0x2000, 0x01), (0x2001, 0x30), (0x3000, 0x0F), (0x3006, 0xF0), (0x3007, 0x0F),
   (0x5024, 1), (0x502C, 5)]

/-- A draw of slot 1 with one primitive, whose PRIMBUF the device keeps at 0x502C, over the ring's OVERFLOW. -/
def overRingDraw : Draw :=
  { uid := 0, slot := 1, number := 0, name := 0, watch := [], sbAt := 0, sb := [], nprims := 1, frame := 0, prio := 0
    stage := .vertex, prims := [], primHits := [], grid := none, nextBin := 0, requests := [], render := none
    defer := [], pending := [], culled := [], recAt := 0x9000, primAt := 0x502C, skips := [] }

/-- Its machine: slot 1 has that page table and that ring. -/
def overRingState : State :=
  { mem := fullRingMem, draws := [overRingDraw], blocks := [hostBlock 1]
    ctxs := [{ slot := 1, state := .live, ccb := { ptroot := 0x1000, fring := 0x5020 } }] }

/-- The accesses of the ring. -/
def overRingWho : Who := { overRingState.who (hostGroup []) with replay := none }

/-- The header as one access reads it: all of it from memory. -/
def overRingHeader : List Byte := [0, 0, 0, 0, 1, 0, 0, 0, 0, 0, 0, 0, 5, 0, 0, 0]

theorem quietLoad_overRing : overRingState.quietLoad overRingWho 0x5020 16 = some overRingHeader := by decide +kernel

/-- An access of OVERFLOW alone reads the draw's PRIMBUF, which is 0 there. -/
theorem quietNat_overRing : overRingState.quietNat overRingWho 0x502C 4 = some 0 := by decide +kernel

/-- The device counts from the OVERFLOW of the header that it read: 5 becomes 6. -/
theorem logMiss_overRing_overflow :
    Memory.read (overRingState.logMiss (hostGroup []) (parseLod []) 0 0 0).2.mem 0x502C = 6 := by decide +kernel

/-- The store of a 1 as OVERFLOW. -/
theorem quietStore_overRing_overflow :
    ∃ t, overRingState.quietStore overRingWho 0x502C (natLe 4 1) = some t ∧ Memory.read t.mem 0x502C = 1 :=
  Option.map_eq_some_iff.mp (show (overRingState.quietStore overRingWho 0x502C (natLe 4 1)).map
    (Memory.read ·.mem 0x502C) = some 1 by decide +kernel)

/-- Refutes O33: its clause about a full feedback ring says that OVERFLOW becomes one more than what an access of its
four bytes alone reads. The device takes it from the access that read the whole header, and where a draw's PRIMBUF
begins at OVERFLOW (no run places it there) that access reads memory and the other the PRIMBUF: in `overRingState`
OVERFLOW becomes 6, and the clause says 1. -/
theorem not_specialLoads : ¬ Obligations.SpecialLoads := by
  rintro ⟨-, ⟨-, -, -, -, -, -, -, -, -, misses⟩, -⟩
  obtain ⟨-, logged⟩ := misses overRingState (hostGroup []) (parseLod []) 0 0 0
  obtain ⟨-, headerRead⟩ := logged rfl (by decide +kernel) (by decide +kernel)
  obtain ⟨full, -⟩ := headerRead overRingHeader quietLoad_overRing
  obtain ⟨-, counted⟩ := full (by decide +kernel)
  obtain ⟨t, stored, one⟩ := quietStore_overRing_overflow
  have same : (overRingState.logMiss (hostGroup []) (parseLod []) 0 0 0).2 = t := counted 0 t quietNat_overRing stored
  have six := logMiss_overRing_overflow
  rw [same, one] at six
  exact absurd six (by decide)

end Sys2Proof.Proofs
end

section
/-! The elements of a matrix step (10 R262, R265) and of a tile load (10 R269), for O38: each is written once. -/

namespace Sys2Proof.Proofs

open Sys2Proof.Machine Sys2Proof.Laws Sys2Proof.Claims

/-! ### Tables written key by key -/

section
variable {α β : Type} [DecidableEq β] {d : β} {key : α → Nat} {new : α → β → β}

/-- Writes of keys other than one leave it as it was. -/
theorem tget_foldl_tset_of_notMem {xs : List α} {e : Nat} (he : ∀ x ∈ xs, key x ≠ e) (z : Table β) :
    tget d (xs.foldl (fun z x => tset d z (key x) (new x (tget d z (key x)))) z) e = tget d z e := by
  induction xs generalizing z with
  | nil => rfl
  | cons x xs ih =>
    rw [List.foldl_cons, ih fun y hy => he y (List.mem_cons_of_mem _ hy),
      tget_tset_ne _ _ _ (Ne.symm (he x List.mem_cons_self))]

/-- Where no two writes meet, each key holds what its write makes of the entry as it was before them all. -/
theorem tget_foldl_tset_of_mem {xs : List α} (hk : (xs.map key).Nodup) {x : α} (hx : x ∈ xs) (z : Table β) :
    tget d (xs.foldl (fun z x => tset d z (key x) (new x (tget d z (key x)))) z) (key x) =
      new x (tget d z (key x)) := by
  induction xs generalizing z with
  | nil => exact absurd hx (List.not_mem_nil)
  | cons y ys ih =>
    rw [List.map_cons, List.nodup_cons] at hk
    obtain ⟨fresh, hk⟩ := hk
    rw [List.foldl_cons]
    rcases List.mem_cons.mp hx with rfl | hx
    · rw [tget_foldl_tset_of_notMem (fun w hw h => fresh (List.mem_map.mpr ⟨w, hw, h⟩)), tget_tset_same]
    · rw [ih hk hx, tget_tset_ne]
      exact fun h => fresh (List.mem_map.mpr ⟨x, hx, h⟩)

end

/-! ### One step of a shape -/

/-- The place in its tile of element (i, j) of a shape's region (R262). -/
def regionKey (h : MatShape) (p : Nat × Nat) : Nat := 64 * ((matOrigin h).1 + p.1) + (matOrigin h).2 + p.2

/-- The region's elements in the order in which a step goes through them. -/
def regionPairs (h : MatShape) : List (Nat × Nat) := List.range (matRows h) ×ˢ List.range (matRows h)

theorem mem_regionPairs {h : MatShape} {p : Nat × Nat} : p ∈ regionPairs h ↔ p.1 < matRows h ∧ p.2 < matRows h := by
  obtain ⟨i, j⟩ := p
  simp [regionPairs]

/-- A region lies within its tile's 64 columns (R262). -/
theorem region_columns (h : MatShape) : (matOrigin h).2 + matRows h ≤ 64 := by
  cases h with
  | view n => simp only [matOrigin, matRows]; omega
  | whole => decide
  | deep => decide

/-- A place names one element, for columns below 64. -/
theorem regionKey_eq_iff {h : MatShape} {p : Nat × Nat} (hp : p ∈ regionPairs h) {i j : Nat} (hj : j < 64) :
    regionKey h p = 64 * i + j ↔ i = (matOrigin h).1 + p.1 ∧ j = (matOrigin h).2 + p.2 := by
  have := region_columns h
  have := (mem_regionPairs.mp hp).2
  unfold regionKey
  omega

theorem regionKeys_nodup (h : MatShape) : ((regionPairs h).map (regionKey h)).Nodup := by
  refine List.Nodup.map_on (fun p hp q hq heq => ?_) (List.nodup_range.product List.nodup_range)
  have columns := region_columns h
  have := (mem_regionPairs.mp hq).2
  obtain ⟨rows, cols⟩ := (regionKey_eq_iff hp (i := (matOrigin h).1 + q.1) (j := (matOrigin h).2 + q.2) (by omega)).mp
    (heq.trans (by unfold regionKey; omega))
  exact Prod.ext (by omega) (by omega)

/-- What the steps of a shape make of one element of its region (R265). -/
def regionStep (t : MatTy) (h : MatShape) (a b : List (List Machine.Num)) (p : Nat × Nat) (w : Word) : Word :=
  stepsElem (matK t) (matSteps h) w (a.getD p.1 []) (b.getD p.2 [])

/-- The steps of a shape write its region, element by element. -/
theorem matApply_eq (t : MatTy) (h : MatShape) (a b : List (List Machine.Num)) (z : Regs) :
    matApply t h a b z = (regionPairs h).foldl (fun z p => tset 0 z (regionKey h p)
      (regionStep t h a b p (tget 0 z (regionKey h p)))) z := by
  have pairs : regionPairs h = (List.range (matRows h)).flatMap fun i => (List.range (matRows h)).map (i, ·) := rfl
  rw [pairs, List.foldl_flatMap]
  simp only [List.foldl_map]
  rfl

theorem matApply_inside {t : MatTy} {h : MatShape} {a b : List (List Machine.Num)} {z : Regs} {p : Nat × Nat}
    (hp : p ∈ regionPairs h) :
    tget 0 (matApply t h a b z) (regionKey h p) = regionStep t h a b p (tget 0 z (regionKey h p)) := by
  rw [matApply_eq]
  exact tget_foldl_tset_of_mem (regionKeys_nodup h) hp z

theorem matApply_outside {t : MatTy} {h : MatShape} {a b : List (List Machine.Num)} {z : Regs} {e : Nat}
    (he : ∀ p ∈ regionPairs h, regionKey h p ≠ e) : tget 0 (matApply t h a b z) e = tget 0 z e := by
  rw [matApply_eq]
  exact tget_foldl_tset_of_notMem he z

/-- One step of an element is the rounded sum of its old value and the products of its row and column (R101). -/
theorem matrixElements : MatrixElements := by
  intro t h a b z i j origin K step x y old hi hj
  have begins : matOrigin h = origin := by cases h <;> rfl
  have depth : matK t = K := by cases t <;> rfl
  by_cases hin : origin.1 ≤ i ∧ i < origin.1 + matRows h ∧ origin.2 ≤ j ∧ j < origin.2 + matRows h
  · rw [if_pos hin]
    have inside : (i - origin.1, j - origin.2) ∈ regionPairs h := mem_regionPairs.mpr ⟨by omega, by omega⟩
    have place : regionKey h (i - origin.1, j - origin.2) = 64 * i + j :=
      (regionKey_eq_iff inside hj).mpr (by rw [begins]; omega)
    rw [← place, matApply_inside inside, place, regionStep, depth]
    cases h with
    | view n => rfl
    | whole => rfl
    | deep =>
      simp only [matSteps, if_true, stepsElem, List.drop_drop, ← Nat.two_mul]
      rw [show 2 * K + K = 3 * K by omega]
      rfl
  · rw [if_neg hin]
    refine matApply_outside fun p hp heq => hin ?_
    obtain ⟨rows, cols⟩ := (regionKey_eq_iff hp hj).mp heq
    have := mem_regionPairs.mp hp
    rw [begins] at rows cols
    omega

end Sys2Proof.Proofs
end

section
/-! The matrix instructions and their engine (10 R263 to R271), for O38. -/

namespace Sys2Proof.Proofs

open Sys2Proof.Machine Sys2Proof.Laws Sys2Proof.Claims

variable {s s' : State} {g src t : Machine.Group} {c : Clause} {i : Instr} {w : Who} {z : ZReg} {a b : SReg} {n : Nat}

/-! ### Operand rows -/

theorem matRegion_rows {ty : MatTy} {h : MatShape} {r : Region} {rows : List (List Machine.Num)}
    (hr : s.matRegion w ty h r n = .ok rows) :
    rows.length = n ∧ ∀ k, k < n → ∃ e, s.matRow w ty h r k = .ok e ∧ rows[k]? = some e := by
  induction n generalizing rows with
  | zero =>
    cases hr
    exact ⟨rfl, fun k hk => absurd hk (Nat.not_lt_zero k)⟩
  | succ n ih =>
    unfold State.matRegion at hr
    split at hr
    · cases hr
    · next before hbefore =>
      split at hr
      · cases hr
      · next row hrow =>
        cases hr
        obtain ⟨len, each⟩ := ih hbefore
        refine ⟨by simp [len], fun k hk => ?_⟩
        rcases Nat.lt_succ_iff_lt_or_eq.mp hk with hk | rfl
        · obtain ⟨e, he, at_⟩ := each k hk
          exact ⟨e, he, by rw [List.getElem?_append_left (len ▸ hk), at_]⟩
        · exact ⟨row, hrow, by simp [len]⟩

/-- The bytes of full scratchpad lines, unmarked and of no serai, are fetched as they stand (R61, R275). -/
theorem fetchRegion_spad {k : Block} {off at_ : Nat} {need : Need} (hk : s.block? k.uid = some k)
    (full : ∀ i ∈ linesMet (off + at_) n, (k.line i).full = true)
    (plain : ∀ i, i < n → s.inSerai k.uid (off + at_ + i) = false ∧ k.spadPoison.contains (off + at_ + i) = false) :
    s.fetchRegion w need (.spad k.uid off) at_ n = .ok (Memory.reads k.spad (off + at_) n) := by
  have bytes : s.spadBytes k (off + at_) n = (List.range n).map fun i =>
      (Memory.read k.spad (off + at_ + i), k.spadPoison.contains (off + at_ + i)) :=
    List.map_congr_left fun i hi => by rw [(plain i (List.mem_range.mp hi)).1]; rfl
  have none_empty : (linesMet (off + at_) n).filter (fun i => !(k.line i).full) = [] :=
    List.filter_eq_nil_iff.mpr fun i hi => by simp [full i hi]
  unfold State.fetchRegion
  simp only [hk, none_empty, bytes, mbBad_map fun i hi => (plain i hi).2, mbPlain_map, reads_eq_map]
  rfl

theorem fieldOf_reads {m : List Host.Cell} {at_ n k j : Nat} (h : k + j ≤ n) :
    fieldOf (Memory.reads m at_ n) k j = leNat (Memory.reads m (at_ + k) j) := by
  have part : ((Memory.reads m at_ n).drop k).take j = Memory.reads m (at_ + k) j := by
    simp only [reads_eq_map]
    refine List.ext_getElem (by simp; omega) fun i _ _ => ?_
    simp [Nat.add_assoc]
  rw [fieldOf, part]

/-- The elements of a row of 16- or 32-bit elements whose bytes are given (R263). -/
def rowElements (ty : MatTy) (p : Nat) (byte : Nat → Nat) : List Machine.Num :=
  match ty with
  | .f16 => (List.range (p / 2)).map fun n => Fmt.f16.value (byte (2 * n) + 256 * byte (2 * n + 1))
  | .bf16 => (List.range (p / 2)).map fun n => Fmt.bf16.value (byte (2 * n) + 256 * byte (2 * n + 1))
  | _ => (List.range (p / 4)).map fun n => Fmt.f32.value (byte (4 * n) + 256 * byte (4 * n + 1) +
      65536 * byte (4 * n + 2) + 2 ^ 24 * byte (4 * n + 3))

/-- A row of 16- and 32-bit elements is the bytes of its scratchpad lines (R263). -/
theorem matRow_spad {ty : MatTy} {h : MatShape} {k : Block} {off row : Nat} (hk : s.block? k.uid = some k)
    (hty : ty ≠ .bfp) (full : ∀ i ∈ linesMet (off + row * matPitch ty h) (matPitch ty h), (k.line i).full = true)
    (plain : ∀ i, i < matPitch ty h → s.inSerai k.uid (off + row * matPitch ty h + i) = false ∧
      k.spadPoison.contains (off + row * matPitch ty h + i) = false) :
    s.matRow w ty h (.spad k.uid off) row = .ok (rowElements ty (matPitch ty h) fun i =>
      (Memory.read k.spad (off + row * matPitch ty h + i)).toNat) := by
  let byte (i : Nat) : Nat := (Memory.read k.spad (off + row * matPitch ty h + i)).toNat
  have fetched := fetchRegion_spad (w := w) (need := .read) hk full plain
  have two (n : Nat) (hn : n < matPitch ty h / 2) :
      fieldOf (Memory.reads k.spad (off + row * matPitch ty h) (matPitch ty h)) (2 * n) 2 =
        byte (2 * n) + 256 * byte (2 * n + 1) := by
    rw [fieldOf_reads (by omega)]
    simp [Memory.reads, leNat, byte, Nat.add_assoc]
  have four (n : Nat) (hn : n < matPitch ty h / 4) :
      fieldOf (Memory.reads k.spad (off + row * matPitch ty h) (matPitch ty h)) (4 * n) 4 =
        byte (4 * n) + 256 * byte (4 * n + 1) + 65536 * byte (4 * n + 2) + 2 ^ 24 * byte (4 * n + 3) := by
    rw [fieldOf_reads (by omega)]
    simp only [Memory.reads, leNat, byte, Nat.add_assoc, Nat.reduceAdd]
    omega
  cases ty with
  | bfp => exact absurd rfl hty
  | f16 =>
    unfold State.matRow
    simp only [fetched]
    exact congrArg _ (List.map_congr_left fun n hn => by rw [two n (List.mem_range.mp hn)])
  | bf16 =>
    unfold State.matRow
    simp only [fetched]
    exact congrArg _ (List.map_congr_left fun n hn => by rw [two n (List.mem_range.mp hn)])
  | f32 =>
    unfold State.matRow
    simp only [fetched]
    exact congrArg _ (List.map_congr_left fun n hn => by rw [four n (List.mem_range.mp hn)])

/-! ### Instructions that issue -/

theorem execMma_good {ty : MatTy} {h : MatShape} (hi : Issues (.mma ty h z a b) s g c)
    (good : regionsGood s g ty h a b) :
    exec (.mma ty h z a b) s = .next (s.startMatrix g c (.mma ty h z a b) true) := by
  obtain ⟨ga, gb⟩ := good
  exact (issues_next hi).trans (congrArg _ (if_neg (by simp [ga, gb])))

/-- A tile image at a good address, which waits for nothing, goes to the engine (R269, R270). -/
theorem tileImage_good {write ordered : Bool} {k : Machine.Group → Clause → State} (hi : Issues i s g c)
    (help : write = true → g.allHelpers c.exec = false) (ha : wellFormed (readS64 s g a.val) 128)
    (free : ordered = true → runFree s g c i (readS64 s g a.val).toNat n) :
    tileImage i a write ordered n s k = .next (k g c) := by
  obtain ⟨canon, aligned⟩ := ha
  have first : ¬ (write && g.allHelpers c.exec) = true := by
    cases write
    · simp
    · simp [help rfl]
  have second : ¬ (ordered &&
      s.blockedAll g c i [{ addr := (readS64 s g a.val).toNat, n := n, spad := none }]) = true := by
    cases ordered
    · simp
    · simpa [State.blockedAll, runFree] using free rfl
  refine (issues_next hi).trans (congrArg _ ?_)
  simp only [if_neg first, if_neg second, canon, aligned]
  rfl

/-! ### What an instruction hands to its engine -/

/-- With the tile free, no earlier use is spoiled (R76). -/
theorem spoilOld_nil (s : State) (u k : Nat) : s.spoilOld u k [] = s := by
  have same : s.modGroup u (fun g => g) = s := by
    unfold State.modGroup
    simp
  unfold State.spoilOld
  simp only [List.foldl_nil, same]
  split
  · rfl
  · simp

theorem issueMatrix_free {reset : Bool} (free : g.usesOf (Instr.tile i) = []) :
    s.issueMatrix g c i reset = engaged s g c i reset := by
  unfold State.issueMatrix
  simp only [free, spoilOld_nil, ite_self]
  rfl

theorem engineOf_free (free : g.usesOf (Instr.tile i) = []) : (s.engineOf g c i).spoiled = false := by
  unfold State.engineOf
  rw [free]
  rfl

/-- An engine whose operation is complete is free (R268). -/
theorem startMatrix_free {reset : Bool} (free : g.usesOf (Instr.tile i) = [])
    (hg : (engaged s g c i reset).group? g.uid = some t)
    (ran : (engaged s g c i reset).runMatrix t (s.engineOf g c i).src i 0 = .ok s') :
    s.startMatrix g c i reset = { s' with engines := s'.engines.filter fun x => x ≠ s.engineOf g c i } := by
  have run : (engaged s g c i reset).runEngine t (s.engineOf g c i) = .ok s' := by
    unfold State.runEngine
    simp only [engineOf_free free, Bool.false_eq_true, if_false]
    rw [show (engaged s g c i reset).runMatrix t (s.engineOf g c i).src (s.engineOf g c i).instr
      (s.engineOf g c i).done = .ok s' from ran]
  unfold State.startMatrix State.driveEngine
  rw [issueMatrix_free free, show (engaged s g c i reset).group? (s.engineOf g c i).group = some t from hg]
  simp only [run]

/-! ### What an engine does -/

theorem touchRun_sameCalled (s : State) (w : Who) (at_ n : Nat) : SameCalled s (s.touchRun w at_ n) :=
  SameBut.foldl (fun t x => touch_sameCalled t w x false) (unitStarts at_ n) s

theorem touchRegion_sameCalled (s : State) (w : Who) (n : Nat) (r : Region) : SameCalled s (s.touchRegion w n r) := by
  cases r with
  | spad => exact .refl ..
  | glob => exact touchRun_sameCalled ..

/-- A group's tiles and their marks are as they were where only calls have been noted. -/
theorem SameCalled.tiles {x : State} {u : Nat} (h : SameCalled s x) (hg : s.group? u = some g) :
    ∃ y, x.group? u = some y ∧ y.z = g.z ∧ y.zPoison = g.zPoison := by
  obtain ⟨y, hy, same⟩ := h.some_group hg
  exact ⟨y, hy, (congrArg Machine.Group.z same :), (congrArg Machine.Group.zPoison same :)⟩

/-- A step of two regions of scratchpad changes the tile of its group (R265). -/
theorem matStep_spad {ty : MatTy} {h : MatShape} {bu offA offB z done : Nat} {ra rb : List (List Machine.Num)}
    (ha : s.matRegion (s.who g) ty h (.spad bu offA) (matRows h) = .ok ra)
    (hb : s.matRegion (s.who g) ty h (.spad bu offB) (matRows h) = .ok rb) (clean : g.tileBad z (matElems h) = false) :
    s.matStep g ty h z (.spad bu offA) (.spad bu offB) done =
      .ok (s.setGroup (g.putTile z (matApply ty h ra rb (g.tileElems z)))) := by
  unfold State.matStep
  simp only [ha, hb, clean]
  rfl

theorem runMatrix_mma {ty : MatTy} {h : MatShape} {ra rb : List (List Machine.Num)} (hg : s.group? g.uid = some g)
    (ha : s.matRegion (s.who g) ty h (.spad g.block (readS s src a.val).toNat) (matRows h) = .ok ra)
    (hb : s.matRegion (s.who g) ty h (.spad g.block (readS s src b.val).toNat) (matRows h) = .ok rb)
    (clean : g.tileBad z.val (matElems h) = false) :
    ∃ s', s.runMatrix g src (.mma ty h z a b) 0 = .ok s' ∧ OnlyGroup s s' g.uid ∧ After s' g.uid fun y =>
      tget [] y.z z.val = matApply ty h ra rb (tget [] g.z z.val) ∧ ∀ k, k ≠ z.val → tget [] y.z k = tget [] g.z k := by
  refine ⟨_, matStep_spad ha hb clean, setGroup_onlyGroup _ _, _, group?_setGroup_same hg, ?_, fun k hk => ?_⟩
  · exact tget_tset_same ..
  · exact tget_tset_ne _ _ _ hk

/-- A group whose tile has been set, and whose marks are gone (R269, R376). -/
def loadTile (g : Machine.Group) (z : Nat) (tile : Regs) : Machine.Group :=
  { g.putTile z tile with zPoison := g.zPoison.filter fun e => e.1 ≠ z }

@[simp] theorem loadTile_same (g : Machine.Group) (z : Nat) (tile : Regs) : tget [] (loadTile g z tile).z z = tile :=
  tget_tset_same ..

theorem loadTile_ne {k z : Nat} (hk : k ≠ z) (tile : Regs) : tget [] (loadTile g z tile).z k = tget [] g.z k :=
  tget_tset_ne _ _ _ hk

theorem group?_setGroup_loadTile (hg : s.group? g.uid = some g) (z : Nat) (tile : Regs) :
    (s.setGroup (loadTile g z tile)).group? g.uid = some (loadTile g z tile) :=
  group?_setGroup_same (g := loadTile g z tile) hg

/-- The tile of an image (R269). -/
def imageTile (ty : TileTy) (bs : List Byte) : Regs :=
  (List.range 4096).foldl (fun t e => tset 0 t e (tileLoad ty bs e)) []

theorem tget_imageTile {ty : TileTy} {bs : List Byte} {e : Nat} (he : e < 4096) :
    tget 0 (imageTile ty bs) e = tileLoad ty bs e := by
  have keys : ((List.range 4096).map id).Nodup := by
    rw [List.map_id]
    exact List.nodup_range
  exact tget_foldl_tset_of_mem (key := id) (new := fun e _ => tileLoad ty bs e) keys (List.mem_range.mpr he) []

theorem tileBad_of_filter {y : Machine.Group} {z : Nat} (h : y.zPoison = g.zPoison.filter fun e => e.1 ≠ z)
    (es : List Nat) : y.tileBad z es = false := by
  unfold Machine.Group.tileBad
  rw [h, List.any_filter, List.any_eq_false]
  intro e _
  by_cases he : e.1 = z <;> simp [he]

/-- MLDZ loads the tile's elements (R269). -/
theorem runMatrix_mldz {ty : TileTy} {bs : List Byte} (hg : s.group? g.uid = some g)
    (hb : s.loadRecord (s.who g) (readS64 s src a.val).toNat (4096 * tileSize ty) = .ok bs) :
    ∃ s', s.runMatrix g src (.mldz ty z a) 0 = .ok s' ∧ s'.mem = s.mem ∧ After s' g.uid fun y =>
      (∀ e, e < 4096 → tget 0 (tget [] y.z z.val) e = tileLoad ty bs e) ∧ (∀ es, y.tileBad z.val es = false) ∧
      ∀ k, k ≠ z.val → tget [] y.z k = tget [] g.z k := by
  have run : s.runMatrix g src (.mldz ty z a) 0 = .ok ((s.setGroup (loadTile g z.val (imageTile ty bs))).touchRun
      ((s.setGroup (loadTile g z.val (imageTile ty bs))).who g) (readS64 s src a.val).toNat (4096 * tileSize ty)) := by
    unfold State.runMatrix
    simp only [hb]
    rfl
  obtain ⟨y, hy, tiles, marks⟩ := (touchRun_sameCalled (s.setGroup (loadTile g z.val (imageTile ty bs))) _ _ _).tiles
    (group?_setGroup_loadTile hg z.val (imageTile ty bs))
  refine ⟨_, run, touchRun_mem .., y, hy, fun e he => ?_, tileBad_of_filter marks, fun k hk => ?_⟩
  · rw [tiles, loadTile_same, tget_imageTile he]
  · rw [tiles, loadTile_ne hk]

/-- An image that is written whole (R268 to R270). -/
theorem runImage_whole {img : List (Nat × List Byte)} {need : Need} {z : Nat}
    (clean : src.tileBad z (List.range 4096) = false)
    (hw : s.writeImage (s.who g) need img 0 = (s', none)) : s.runImage g src z need img 0 = .ok s' := by
  unfold State.runImage
  simp only [clean, List.drop_zero, hw, Bool.false_eq_true, if_false]

/-! ### MLOOP and MZERO -/

theorem execMloop_good {ty : MatTy} {h : MatShape} {p : SReg} (hi : Issues (.mloop ty h z p) s g c)
    (good : (loopArgs s g p).bad = false) (free : g.usesOf z.val = [])
    (fitsA : s.loopBreach g (loopArgs s g p).asp (loopArgs s g p).abase (loopArgs s g p).astep (loopArgs s g p).niter
      (matRows h * matPitch ty h) = false)
    (fitsB : s.loopBreach g (loopArgs s g p).bsp (loopArgs s g p).bbase (loopArgs s g p).bstep (loopArgs s g p).niter
      (matRows h * matPitch ty h) = false) :
    exec (.mloop ty h z p) s = .next (engaged s g c (.mloop ty h z p) true) := by
  refine (issues_next hi).trans (congrArg _ ?_)
  simp only [good, fitsA, fitsB, Bool.or_false, Bool.false_eq_true, if_false]
  exact issueMatrix_free free

/-- A step that comes to its end has changed no group but for the tile of its own. -/
theorem matStep_group {ty : MatTy} {h : MatShape} {ra rb : Region} {z done u : Nat} (hg : s.group? u = some g)
    (ran : s.matStep g ty h z ra rb done = .ok s') : ∃ y, s'.group? u = some y := by
  unfold State.matStep at ran
  dsimp only at ran
  have hu := group?_uid hg
  split at ran
  · cases ran
  · cases ran
  · split at ran
    · cases ran
    · cases ran
    · split at ran
      · cases ran
      · cases ran
        obtain ⟨y, hy, -⟩ := SameCalled.tiles
          ((touchRegion_sameCalled _ _ _ _).trans (touchRegion_sameCalled _ _ _ _))
          (group?_setGroup_same (g := g.putTile z _) (hu.symm ▸ hg))
        exact ⟨y, hu ▸ hy⟩

/-- The engine that performs the iterations of a tile's MLOOP. -/
def loopEngine (u : Nat) (z : ZReg) (e : Engine) : Bool :=
  e.group == u && e.record.isNone && match e.instr with
    | .mloop _ _ k _ => k == z
    | _ => false

theorem loopEngine_iff {u : Nat} {e : Engine} :
    loopEngine u z e = true ↔ e.group = u ∧ e.record = none ∧ ∃ t h p, e.instr = .mloop t h z p := by
  unfold loopEngine
  constructor
  · intro he
    simp only [Bool.and_eq_true, beq_iff_eq, Option.isNone_iff_eq_none] at he
    obtain ⟨⟨hu, hr⟩, tile⟩ := he
    split at tile
    · next t h k p hi => exact ⟨hu, hr, t, h, p, eq_of_beq tile ▸ hi⟩
    · cases tile
  · rintro ⟨hu, hr, t, h, p, hi⟩
    simp [hu, hr, hi]

/-- The state after an iteration's step: PROGRESS one higher, and the engine at the next one, if any (R267). -/
def iterated (s : State) (u : Nat) (z : ZReg) (e : Engine) (niter : Nat) : State :=
  { s.modGroup u fun y => { y with progress := tset 0 y.progress z.val (e.done + 1) } with
    engines := (s.engines.filter fun y => y ≠ e) ++ if e.done + 1 < niter then [{ e with done := e.done + 1 }] else [] }

/-- One iteration of an MLOOP (R267). -/
theorem execMloopIteration_step {u : Nat} {e : Engine} {ty : MatTy} {h : MatShape} {p : SReg}
    (hg : s.group? u = some g) (he : e ∈ s.engines) (hu : e.group = u) (hr : e.record = none)
    (hi : e.instr = .mloop ty h z p) (hs : e.spoiled = false)
    (only : ∀ x ∈ s.engines, x.group = u → x.record = none → (∃ t h p, x.instr = .mloop t h z p) → x = e)
    (ran : s.matStep g ty h z.val (loopRegion g.block (loopArgs s e.src p).asp (loopArgs s e.src p).abase
        (loopArgs s e.src p).astep e.done)
      (loopRegion g.block (loopArgs s e.src p).bsp (loopArgs s e.src p).bbase (loopArgs s e.src p).bstep e.done)
      e.done = .ok s') :
    exec (.mloopIteration u z) s =
      .next ((iterated s' u z e (loopArgs s e.src p).niter).drawn (s.slotOf g)) := by
  have found : s.engines.find? (loopEngine u z) = some e := by
    cases hf : s.engines.find? (loopEngine u z) with
    | none => exact absurd (loopEngine_iff.mpr ⟨hu, hr, _, _, _, hi⟩) (List.find?_eq_none.mp hf e he)
    | some x =>
      obtain ⟨xu, xr, xi⟩ := loopEngine_iff.mp (List.find?_some hf)
      rw [only x (List.mem_of_find?_eq_some hf) xu xr xi]
  have run : s.runEngine g e = .ok s' := by
    unfold State.runEngine State.runMatrix
    simp only [hs, hi, ran, Bool.false_eq_true, if_false]
  change execMloopIteration u z s = _
  unfold execMloopIteration
  dsimp only
  generalize first : List.find? _ s.engines = o
  obtain rfl : o = some e := first.symm.trans found
  simp only [hg, hi, run, iterated]

theorem runMatrix_mzero (s : State) (g src : Machine.Group) (z : ZReg) :
    s.runMatrix g src (.mzero z) 0 = .ok (s.setGroup (loadTile g z.val [])) := rfl

/-- MZERO leaves a zero tile without marks, and the engine as it was (R269). -/
theorem execMzero_zero (hi : Issues (.mzero z) s g c) (free : g.usesOf z.val = [])
    (idle : ∀ e ∈ s.engines, e.group = g.uid → Instr.tile? e.instr ≠ some z.val) :
    Answers (exec (.mzero z) s) fun t => OnlyGroup s t g.uid ∧
    After t g.uid fun g' => (∀ e, tget 0 (tget [] g'.z z.val) e = 0) ∧ (∀ es, g'.tileBad z.val es = false) ∧
      tget 0 g'.progress z.val = 0 ∧ ∀ k, k ≠ z.val → tget [] g'.z k = tget [] g.z k := by
  let e := s.engineOf g c (.mzero z)
  let x := engaged s g c (.mzero z) true
  have others : (s.engines ++ [e]).filter (fun y => y ≠ e) = s.engines := by
    rw [List.filter_append, List.filter_eq_self.mpr fun y hy => ?_]
    · simp
    · have : y ≠ e := fun h => idle y hy (h ▸ rfl) (h ▸ rfl)
      simpa using this
  obtain ⟨y, hy, tiles, progress⟩ : ∃ y, x.group? g.uid = some y ∧ y.z = g.z ∧ tget 0 y.progress z.val = 0 :=
    ⟨_, group?_modGroup_same (fun _ => rfl) (issues_group hi), rfl,
      show tget 0 (tset 0 g.progress z.val 0) z.val = 0 from tget_tset_same ..⟩
  have hu : y.uid = g.uid := group?_uid hy
  have start := startMatrix_free (reset := true) free hy (runMatrix_mzero x y e.src z)
  refine ⟨_, (issues_next hi).trans (congrArg _ start), ⟨?_, fun v hv => ?_, fun _ => rfl⟩,
    loadTile y z.val [], ?_, ?_, ?_⟩
  · show ({ s with engines := (s.engines ++ [e]).filter fun y => y ≠ e, groups := [] } : State) = _
    rw [others]
  · exact (group?_setGroup_ne (g := loadTile y z.val []) (hu.symm ▸ hv)).trans
      (group?_modGroup_ne (fun _ => rfl) hv : (s.use g c (.mzero z) true).group? v = _)
  · exact hu ▸ group?_setGroup_loadTile (hu.symm ▸ hy) z.val []
  · intro k
    rw [loadTile_same]
    rfl
  · exact ⟨tileBad_of_filter rfl, progress, fun k hk => (loadTile_ne hk []).trans (by rw [tiles])⟩

theorem matrixRuns : MatrixRuns := by
  refine ⟨fun ty h z a b s g c hi good => execMma_good hi good, fun ty z a s g c hi ha free => ?_,
    fun ty z a s g c hi help ha => ?_, fun k z a s g c hi help ha free => ?_,
    fun s g c i t reset s' free hg ran => startMatrix_free free hg ran,
    fun ty h z a b s g src ra rb hg ha hb clean => runMatrix_mma hg ha hb clean,
    fun s w ty h r n rows hr => matRegion_rows hr,
    fun s w ty h k off row hk hty full plain => matRow_spad hk hty full plain,
    fun ty h z p s g c hi good free fitsA fitsB => execMloop_good hi good free fitsA fitsB, ?_,
    fun z s g c hi free idle => execMzero_zero hi free idle,
    fun ty z s g src a bs hg hb => runMatrix_mldz hg hb, fun ty z s g src a s' clean hw => runImage_whole clean hw,
    fun k z s g src a s' clean hw => runImage_whole clean hw, fun d z s g c hi => ?_⟩
  · exact tileImage_good hi nofun ha fun _ => free
  · exact tileImage_good hi (fun _ => help) ha nofun
  · exact tileImage_good hi (fun _ => help) ha fun _ => free
  · intro u z s g e ty h p s' hg he hu hr hi hs only ran
    obtain ⟨y, hy⟩ := matStep_group hg ran
    refine ⟨_, execMloopIteration_step hg he hu hr hi hs only ran, rfl, rfl,
      _, group?_modGroup_same (fun _ => rfl) hy, ?_, fun k => ?_⟩
    · exact tget_tset_same 0 (e.done + 1) z.val y.progress
    · rw [hy]
      rfl
  · exact issues_next hi

/-- Settles O38: a step writes each element of its region once (`matrixElements`); a run that reads its operands ends,
and its engine is free (`startMatrix_free`). -/
theorem matrices : Obligations.Matrices := ⟨matrixRuns, matrixElements⟩

end Sys2Proof.Proofs
end

section
/-! The context instructions and what completes them (18 R350, R352 to R355), for O47. -/

namespace Sys2Proof.Proofs

open Sys2Proof.Machine Sys2Proof.Laws Sys2Proof.Claims

variable {s s' t : State} {g : Machine.Group} {c : Clause} {i : Instr} {d a r v k : SReg} {n m : Nat} {w : Word}

/-! ### Contexts of a state -/

theorem find?_putCtx_ne {x : Ctx} {n : Nat} (h : n ≠ x.slot) (l : List Ctx) :
    (putCtx x l).find? (fun c => c.slot == n) = l.find? fun c => c.slot == n := by
  induction l with
  | nil => simp [putCtx, Ne.symm h]
  | cons y ys ih =>
    rw [putCtx]
    split
    · simp [Ne.symm h]
    · split
      · next same => simp [Ne.symm h, ← same]
      · rw [List.find?_cons, List.find?_cons, ih]

theorem ctx_setCtx_ne {x : Ctx} (h : n ≠ x.slot) : (s.setCtx x).ctx n = s.ctx n := by
  unfold State.ctx
  rw [show (s.setCtx x).ctxs = putCtx x s.ctxs from rfl, find?_putCtx_ne h]

theorem modCtx_ctx_ne {f : Ctx → Ctx} (hf : ∀ c, (f c).slot = c.slot) (h : m ≠ n) : (s.modCtx n f).ctx m = s.ctx m :=
  ctx_setCtx_ne (by rw [hf, ctx_slot]; exact h)

theorem ctx_of_ctxs (h : t.ctxs = s.ctxs) (n : Nat) : t.ctx n = s.ctx n := by
  unfold State.ctx
  rw [h]

/-! ### Operations with a token -/

theorem takeToken_blocks (h : s.takeToken n = some (m, w, t)) : t.blocks = s.blocks := by
  unfold State.takeToken at h
  dsimp only at h
  split at h
  · cases h
  · cases h; rfl

theorem slotOf_of_blocks (h : t.blocks = s.blocks) (g : Machine.Group) : t.slotOf g = s.slotOf g := by
  unfold State.slotOf State.block?
  rw [h]

/-- The state in which an operation that finishes later has its token (R245, R350). -/
def tokened (s' : State) (slot n : Nat) (w : Word) (g : Machine.Group) (i : Instr) (d : SReg) : State :=
  { s' with tokenOps := s'.tokenOps ++ [(slot, n, i, g)] }.modGroup g.uid fun x => x.writeS d.val w

theorem withToken_taken {f : Nat → State → State} (h : s.takeToken (s.slotOf g) = some (n, w, s')) :
    s.withToken g i d f = f n (tokened s' (s.slotOf g) n w g i d) := by
  unfold State.withToken
  rw [h]
  dsimp only
  rw [slotOf_of_blocks (takeToken_blocks h)]
  rfl

theorem slotOf_tokened (h : s.takeToken (s.slotOf g) = some (n, w, s')) :
    (tokened s' (s.slotOf g) n w g i d).slotOf g = s.slotOf g :=
  slotOf_of_blocks (t := tokened s' (s.slotOf g) n w g i d) (takeToken_blocks (t := s') h :) g

/-- A physical address of an image that CTXSAVE and CTXLOAD take (R350, R352). -/
theorem physOk_iff {x : DWord} : physOk x = true ↔ x.toNat < 2 ^ 52 := by
  rw [physOk, beq_iff_eq, Nat.div_eq_zero_iff]
  omega

theorem execCtxsave_live (hi : Issues (.ctxsave d k a) s g c) (lo : 1 ≤ (readS s g k.val).toNat)
    (hi63 : (readS s g k.val).toNat ≤ 63) (live : (s.ctx (readS s g k.val).toNat).state = .live)
    (phys : (readS64 s g a.val).toNat < 2 ^ 52) (page : (readS64 s g a.val).toNat % 4096 = 0)
    (took : s.takeToken (s.slotOf g) = some (n, w, s')) :
    exec (.ctxsave d k a) s = .next (((tokened s' (s.slotOf g) n w g (.ctxsave d k a) d).modCtx (readS s g k.val).toNat
      fun x => { x with state := .saving, saveAt := readS64 s g a.val, saveTok := some (s.slotOf g, n) }).askStop
        (readS s g k.val).toNat .ctxsave Block.saves) := by
  refine (issues_next hi).trans (congrArg _ ?_)
  dsimp only
  rw [if_neg (by simp [physOk_iff.mpr phys, live, page]; omega), withToken_taken took, slotOf_tokened took]

theorem execCtxload_free (hi : Issues (.ctxload d k a) s g c) (lo : 1 ≤ (readS s g k.val).toNat)
    (hi63 : (readS s g k.val).toNat ≤ 63) (free : (s.ctx (readS s g k.val).toNat).state = .free)
    (phys : (readS64 s g a.val).toNat < 2 ^ 52) (page : (readS64 s g a.val).toNat % 4096 = 0)
    (good : s.imageBad (readS s g k.val).toNat (Memory.reads s.mem (readS64 s g a.val).toNat 256) = false)
    (took : s.takeToken (s.slotOf g) = some (n, w, s')) :
    exec (.ctxload d k a) s = .next ((tokened s' (s.slotOf g) n w g (.ctxload d k a) d).modCtx (readS s g k.val).toNat
      fun x => { x with
        state := .loading, ccb := parseCcb (Memory.reads s.mem (readS64 s g a.val).toNat 256)
        saveAt := readS64 s g a.val, saveTok := some (s.slotOf g, n) }) := by
  refine (issues_next hi).trans (congrArg _ ?_)
  dsimp only
  rw [if_neg (by simp [physOk_iff.mpr phys, free, page, good]; omega), withToken_taken took, slotOf_tokened took]

/-- A slot or an address that no context instruction takes (R350, R352, R353). -/
theorem ctx_operands_trap (bad : (readS s g k.val).toNat = 0 ∨ 63 < (readS s g k.val).toNat ∨
    2 ^ 52 ≤ (readS64 s g a.val).toNat ∨ (readS64 s g a.val).toNat % 4096 ≠ 0) :
    (Issues (.ctxsave d k a) s g c → exec (.ctxsave d k a) s = .next (s.trap g c (.ctxsave d k a) .privarg)) ∧
    (Issues (.ctxload d k a) s g c → exec (.ctxload d k a) s = .next (s.trap g c (.ctxload d k a) .privarg)) := by
  have form : (readS s g k.val).toNat < 1 ∨ 63 < (readS s g k.val).toNat ∨ (!physOk (readS64 s g a.val)) = true ∨
      (readS64 s g a.val).toNat % 4096 ≠ 0 := by
    rw [Bool.not_eq_true', ← Bool.not_eq_true, physOk_iff]
    omega
  constructor <;> intro hi <;> refine (issues_next hi).trans (congrArg _ (if_pos ?_)) <;> tauto

/-! ### What completes them -/

theorem resolveToken_token (s : State) (n m : Nat) (skip : Bool) :
    (((s.resolveToken n m skip).ctx n).token_ m).resolved = true ∧
      (((s.resolveToken n m skip).ctx n).token_ m).skipped = skip := by
  have hctx : (s.resolveToken n m skip).ctx n = { s.ctx n with
      tokens := tset {} (s.ctx n).tokens m { tget {} (s.ctx n).tokens m with resolved := true, skipped := skip } } :=
    modCtx_ctx s n (fun c => { c with
      tokens := tset {} c.tokens m { tget {} c.tokens m with resolved := true, skipped := skip } }) fun _ => rfl
  rw [hctx, Ctx.token_, tget_tset_same]
  exact ⟨rfl, rfl⟩

theorem execTlbinvComplete_drops {x : Slot} {b : BitVec 8} (ho : s.opOf x.val b.toNat = some (.tlbinv d r, g)) :
    Answers (exec (.tlbinvComplete x b) s) fun x => x.mem = s.mem ∧
      ∀ e, e ∈ x.tlbs ↔ e ∈ s.tlbs ∧ ¬ (e.slot = (readS s g (r.val + 3)).toNat ∧ (readS s g (r.val + 2) = 0 ∨
        (vaUnit (readS64 s g r.val).toNat ≤ e.unit ∧
          e.unit < vaUnit (readS64 s g r.val).toNat + (readS s g (r.val + 2)).toNat))) := by
  have zero : readS s g (r.val + 2) = 0 ↔ (readS s g (r.val + 2)).toNat = 0 := BitVec.toNat_eq.trans Iff.rfl
  change Answers (execTlbinvComplete x b s) _
  unfold execTlbinvComplete
  rw [ho]
  refine ⟨_, rfl, rfl, fun e => List.mem_filter.trans (and_congr_right fun _ => ?_)⟩
  rw [zero, Bool.not_eq_true', ← Bool.not_eq_true]
  refine not_congr ?_
  simp only [Bool.and_eq_true, Bool.or_eq_true, beq_iff_eq, decide_eq_true_eq]

theorem clustersOf_nodup (s : State) (p : Nat) : (s.clustersOf p).Nodup := by
  unfold State.clustersOf
  split
  · exact List.nodup_singleton 8
  · exact List.nodup_range.filter _

theorem execResfenceComplete_empties {x : Slot} {b : BitVec 8} (ho : s.opOf x.val b.toNat = some (.resfence d r, g)) :
    Answers (exec (.resfenceComplete x b) s) fun x => x.mem = s.mem ∧
      ∀ n ∈ s.clustersOf (s.ctx (readS s g r.val).toNat).ccb.part, (x.cluster n).filter = [] := by
  change Answers (execResfenceComplete x b s) _
  unfold execResfenceComplete
  rw [ho]
  refine ⟨_, rfl, foldl_keeps State.mem (fun s n => s.modCluster n fun k => { k with filter := [] })
    (fun _ _ => rfl) _ s, fun n hn => ?_⟩
  exact congrArg ClusterState.filter ((cluster_foldl_modCluster (m := n) (fun k => { k with filter := [] })
    (clustersOf_nodup s _) s).trans (if_pos hn))

/-- PGATTR's write of an entry, byte by byte (R361, R378). -/
theorem rekind_read (s : State) (at_ kind b : Nat) : Memory.read (s.rekind at_ kind).mem b =
    if kind ≠ 2 ∧ at_ + 8 ≤ b ∧ b < at_ + 16 then 0
    else if b = at_ + 1 then BitVec.ofNat 8 ((Memory.read s.mem (at_ + 1)).toNat / 4 * 4 + kind)
    else Memory.read s.mem b := by
  have first : Memory.read (s.physWrite (at_ + 1) (mbClean (natLe 1
      ((Memory.read s.mem (at_ + 1)).toNat / 4 * 4 + kind)))).mem b =
      if b = at_ + 1 then BitVec.ofNat 8 ((Memory.read s.mem (at_ + 1)).toNat / 4 * 4 + kind)
      else Memory.read s.mem b := by
    rw [physWrite_clean_read, natLe_length]
    by_cases hb : b = at_ + 1
    · rw [if_pos (by omega), if_pos hb, natLe_getD _ _ (by omega), hb, Nat.sub_self, pow_zero, Nat.div_one]
    · rw [if_neg (by omega), if_neg hb]
  unfold State.rekind
  dsimp only
  by_cases hk : kind = 2
  · rw [if_pos hk, first, if_neg fun h : kind ≠ 2 ∧ at_ + 8 ≤ b ∧ b < at_ + 16 => h.1 hk]
  · rw [if_neg hk, physWrite_clean_read, natLe_length, first]
    by_cases hb : at_ + 8 ≤ b ∧ b < at_ + 16
    · rw [if_pos (by omega), if_pos ⟨hk, hb⟩, natLe_getD _ _ (by omega), Nat.zero_div]
      rfl
    · rw [if_neg (by omega), if_neg fun h : kind ≠ 2 ∧ at_ + 8 ≤ b ∧ b < at_ + 16 => hb h.2]

/-- The state at the end of a PGATTR, which names a last-level entry or does not (R355). -/
def pgattrDone (s : State) (at_ kind slot tok : Nat) (last : Prop) [Decidable last] : State :=
  if last then ((s.rekind at_ kind).endOp slot tok).resolveToken slot tok false
  else (s.endOp slot tok).resolveToken slot tok true

/-- PGATTR's end: the KIND field of a last-level entry, or SKIPPED (R355, R378). -/
theorem execPgattrComplete_rekinds {x : Slot} {b : BitVec 8} (ho : s.opOf x.val b.toNat = some (.pgattr d r, g)) :
    let slot := (readS s g (r.val + 3)).toNat
    let kind := (readS s g (r.val + 2)).toNat
    let va := (readS64 s g r.val).toNat
    let at_ := leafSlot s.mem slot (va % 2 ^ 57) 4 (s.ctx slot).ccb.ptroot.toNat
    exec (.pgattrComplete x b) s = .next (pgattrDone s at_ kind x.val b.toNat
      ((s.walk slot va).level ≤ 2 ∧ (Memory.read s.mem at_).getLsbD 1 = true)) := by
  intro slot kind va at_
  change execPgattrComplete x b s = _
  unfold execPgattrComplete pgattrDone
  rw [ho]
  exact (apply_ite _ _ _ _).symm

theorem pgattrDone_facts (s : State) (at_ kind slot tok : Nat) (last : Prop) [Decidable last] :
    let x := pgattrDone s at_ kind slot tok last
    (∀ b, b ≠ at_ + 1 → kind = 2 ∨ b < at_ + 8 ∨ at_ + 16 ≤ b → Memory.read x.mem b = Memory.read s.mem b) ∧
    (last → kind ≠ 2 → ∀ i, i < 8 → Memory.read x.mem (at_ + 8 + i) = 0) ∧
    (last → Memory.read x.mem (at_ + 1) = BitVec.ofNat 8 ((Memory.read s.mem (at_ + 1)).toNat / 4 * 4 + kind)) ∧
    (¬ last → x.mem = s.mem) ∧ ((x.ctx slot).token_ tok).resolved = true ∧
    (((x.ctx slot).token_ tok).skipped = true ↔ ¬ last) := by
  unfold pgattrDone
  by_cases hl : last
  · rw [if_pos hl]
    have mem (b : Nat) := rekind_read s at_ kind b
    obtain ⟨done, ran⟩ := resolveToken_token ((s.rekind at_ kind).endOp slot tok) slot tok false
    refine ⟨fun b hb out => ?_, fun _ hk i hi => ?_, fun _ => ?_, fun h => absurd hl h, done, by rw [ran]; simp [hl]⟩
    · exact (mem b).trans (by rw [if_neg (by omega), if_neg hb])
    · exact (mem _).trans (if_pos ⟨hk, by omega, by omega⟩)
    · exact (mem _).trans (by rw [if_neg (by omega), if_pos rfl])
  · rw [if_neg hl]
    obtain ⟨done, ran⟩ := resolveToken_token (s.endOp slot tok) slot tok true
    exact ⟨fun _ _ _ => rfl, fun h => absurd h hl, fun h => absurd h hl, fun _ => rfl, done, by rw [ran]; simp [hl]⟩

/-! ### The instructions' clauses -/

theorem contextInstructions : ContextInstructions := by
  refine ⟨fun d k a s g c n w s' hi lo hi63 live phys page took =>
      execCtxsave_live hi lo hi63 live phys page took,
    fun d k a s g c n w s' hi lo hi63 free phys page good took =>
      execCtxload_free hi lo hi63 free phys page good took,
    fun k v s g c hi => ⟨fun lo live good => ?_, fun bad => ?_⟩,
    fun d r s g c n w s' took => ⟨fun hi canon page lo => ?_, fun hi lo => ?_, fun hi canon kind lo => ?_⟩,
    fun x b s d r g ho => execTlbinvComplete_drops ho, fun x b s d r g ho => execResfenceComplete_empties ho, ?_,
    fun d r s g c => ⟨fun hi bad => ?_, fun hi bad => ?_, fun hi bad => ?_⟩,
    fun d k a s g c => ⟨fun hi bad => ?_, fun hi bad => ?_⟩, fun d k a s g c bad => ctx_operands_trap bad⟩
  · exact (issues_next hi).trans (congrArg _ (if_neg (by simp [live, good]; omega)))
  · exact (issues_next hi).trans (congrArg _ (if_pos bad))
  · refine (issues_next hi).trans (congrArg _ ?_)
    dsimp only
    rw [if_neg (by simp [canon, page]; omega), withToken_taken took]
    rfl
  · refine (issues_next hi).trans (congrArg _ ?_)
    rw [if_neg (by omega), withToken_taken took]
    rfl
  · refine (issues_next hi).trans (congrArg _ ?_)
    dsimp only
    rw [if_neg (by simp [canon]; omega), withToken_taken took]
    rfl
  · exact fun x b s d r g ho => ⟨_, execPgattrComplete_rekinds ho, pgattrDone_facts ..⟩
  · exact (issues_next hi).trans (congrArg _ (if_pos (by simpa using by tauto)))
  · exact (issues_next hi).trans (congrArg _ (if_pos bad))
  · exact (issues_next hi).trans (congrArg _ (if_pos (by simpa using bad)))
  · exact (issues_next hi).trans (congrArg _ (if_pos (by tauto)))
  · exact (issues_next hi).trans (congrArg _ (if_pos (by tauto)))

end Sys2Proof.Proofs
end

section
/-! What accesses, records of the watch unit and tasks leave of the contexts and the queues, for O47. -/

namespace Sys2Proof.Proofs

open Sys2Proof.Machine Sys2Proof.Laws Sys2Proof.Claims

variable {s t u : State} {w : Who} {n : Nat}

/-! ### Accesses -/

/-- The parts of a state that no access to memory changes: its contexts, its queues and its grids. -/
abbrev keptByAccess (s : State) : List Ctx × List QEntry × List Grid := (s.ctxs, s.queue, s.grids)

theorem keptByAccess_logRas (r : Ras) : keptByAccess (s.logRas r) = keptByAccess s := by
  unfold State.logRas State.reportDrops
  dsimp only
  repeat' split
  all_goals rfl

theorem keptByAccess_touch (va : Nat) (d : Bool) : keptByAccess (s.touch w va d) = keptByAccess s := by
  have stale (l : Leaf) : keptByAccess (s.staleUse w va l) = keptByAccess s := by
    unfold State.staleUse
    split
    · split
      · rfl
      · exact keptByAccess_logRas _
    · rfl
  have cache (t : State) (l : Leaf) : keptByAccess (t.cacheLeaf w va l) = keptByAccess t := by
    unfold State.cacheLeaf; split <;> rfl
  have fill (t : State) (l : Leaf) : keptByAccess (t.fillLine w va l) = keptByAccess t := by
    unfold State.fillLine; split <;> rfl
  unfold State.touch
  split
  · next l _ =>
    cases d
    · exact (cache _ l).trans (stale l)
    · exact (fill _ l).trans ((cache _ l).trans (stale l))
  · rfl

theorem keptByAccess_globSpoil (pa n : Nat) : keptByAccess (s.globSpoil w pa n) = keptByAccess s := by
  unfold State.globSpoil State.spoilWhere
  split <;> rfl

theorem keptByAccess_regWrite (off : Nat) (v : Word) : keptByAccess (s.regWrite off v) = keptByAccess s := by
  unfold State.regWrite State.writeHeadCtl State.modHead State.modPart
  split
  · split <;> rfl
  · split <;> split <;> rfl

theorem keptByAccess_physWrite (pa : Nat) (bs : MBytes) : keptByAccess (s.physWrite pa bs) = keptByAccess s := by
  obtain ⟨m, p, k, h⟩ := physWrite_frame s pa bs
  rw [h]

theorem keptByAccess_codedPoison (k : List Nat) : keptByAccess { s with codedPoison := k } = keptByAccess s := rfl

theorem keptByAccess_putOne (all : List Put) (p : Put) (done : List Nat) :
    keptByAccess (putOne s all p done) = keptByAccess s := by
  unfold putOne
  split
  · rfl
  · split
    · exact keptByAccess_regWrite _ _
    · split
      · split
        · rfl
        · unfold State.recode
          dsimp only
          rw [keptByAccess_physWrite, keptByAccess_codedPoison, keptByAccess_physWrite, keptByAccess_codedPoison]
      · exact keptByAccess_physWrite _ _

theorem keptByAccess_putAll (all ps : List Put) (done : List Nat) :
    keptByAccess (s.putAll all ps done) = keptByAccess s := by
  induction ps generalizing s done with
  | nil => rfl
  | cons p ps ih => rw [putAll_cons, ih, keptByAccess_putOne]

theorem keptByAccess_perform (w : Who) (ps : List Put) : keptByAccess (s.perform w ps) = keptByAccess s := by
  unfold State.perform
  split
  · rfl
  · dsimp only
    rw [foldl_keeps keptByAccess (fun t (p : Put) => t.globSpoil w p.pa p.data.length)
        fun _ _ => keptByAccess_globSpoil ..,
      foldl_keeps keptByAccess (fun t (p : Put) => t.touch w p.va true) fun _ _ => keptByAccess_touch ..]
    exact keptByAccess_putAll ..

theorem keptByAccess_quietStore {va : Nat} {bs : List Byte} (h : s.quietStore w va bs = some t) :
    keptByAccess t = keptByAccess s := by
  unfold State.quietStore at h
  split at h
  · cases h
    exact keptByAccess_perform ..
  · cases h

/-! ### Records of the watch unit -/

/-- Quiet stores one after the other. -/
theorem keptByAccess_bind {o : Option State} (ho : ∀ t, o = some t → keptByAccess t = keptByAccess s) {va : Nat}
    {bs : List Byte} (h : (o.bind fun s => s.quietStore w va bs) = some t) : keptByAccess t = keptByAccess s := by
  obtain ⟨x, hx, ht⟩ := Option.bind_eq_some_iff.mp h
  exact (keptByAccess_quietStore ht).trans (ho x hx)

theorem keptByAccess_ringRecord (w : Who) (n : Nat) (k : Comparator) (r : WatchRec) :
    keptByAccess (s.ringRecord w n k r) = keptByAccess s := by
  unfold State.ringRecord
  dsimp only
  cases s.quietLoad w k.ring.toNat 64 with
  | none => rfl
  | some h =>
    dsimp only
    generalize hs : Option.bind (Option.bind _ _) _ = o
    cases o with
    | none => rfl
    | some t =>
      refine keptByAccess_bind (fun y hy => keptByAccess_bind (fun z hz => ?_) hy) hs
      cases hr : r.retain with
      | none =>
        rw [hr] at hz
        cases hz
        rfl
      | some f =>
        rw [hr] at hz
        exact keptByAccess_quietStore hz

theorem keptByAccess_watchRecord (w : Who) (hits : List WatchHit) (r : WatchRec) :
    keptByAccess (s.watchRecord w hits r) = keptByAccess s := by
  unfold State.watchRecord
  refine foldl_keeps keptByAccess _ (fun t h => ?_) hits s
  dsimp only
  split
  · exact keptByAccess_ringRecord ..
  · rfl

/-! ### Contexts but for their tokens and events -/

/-- A context but for its tokens and for the events it holds. -/
def ctxFrame (c : Ctx) : Ctx := { c with tokens := [], held := [], dropped := 0 }

/-- The contexts of two states are the same but for their tokens and the events they hold. -/
def SameCtxs (s t : State) : Prop := ∀ n, ctxFrame (t.ctx n) = ctxFrame (s.ctx n)

theorem SameCtxs.refl (s : State) : SameCtxs s s := fun _ => rfl

theorem SameCtxs.trans (h : SameCtxs s t) (k : SameCtxs t u) : SameCtxs s u := fun n => (k n).trans (h n)

theorem SameCtxs.of_ctxs (h : t.ctxs = s.ctxs) : SameCtxs s t := fun n => congrArg ctxFrame (ctx_of_ctxs h n)

theorem SameCtxs.modCtx (s : State) (n : Nat) {f : Ctx → Ctx} (hf : ∀ c, ctxFrame (f c) = ctxFrame c) :
    SameCtxs s (s.modCtx n f) := fun m => by
  have slot (c : Ctx) : (f c).slot = c.slot := (congrArg Ctx.slot (hf c) :)
  by_cases h : m = n
  · rw [h, modCtx_ctx s n f slot, hf]
  · rw [modCtx_ctx_ne slot h]

theorem SameCtxs.state (h : SameCtxs s t) (n : Nat) : (t.ctx n).state = (s.ctx n).state := (congrArg Ctx.state (h n) :)

theorem SameCtxs.ccb (h : SameCtxs s t) (n : Nat) : (t.ctx n).ccb = (s.ctx n).ccb := (congrArg Ctx.ccb (h n) :)

theorem SameCtxs.saveTok (h : SameCtxs s t) (n : Nat) : (t.ctx n).saveTok = (s.ctx n).saveTok :=
  (congrArg Ctx.saveTok (h n) :)

theorem SameCtxs.partFor (h : SameCtxs s t) (n : Nat) : t.partFor n = s.partFor n := by
  unfold State.partFor
  rw [h.ccb]

theorem resolveToken_sameCtxs (s : State) (n m : Nat) (skip : Bool) : SameCtxs s (s.resolveToken n m skip) :=
  (SameCtxs.modCtx s n (f := fun c => { c with
    tokens := tset {} c.tokens m { tget {} c.tokens m with resolved := true, skipped := skip } }) fun _ => rfl).trans
    (.of_ctxs rfl)

/-- An event that is sent, or held while its slot is unbound (R413). -/
theorem holdEvent_sameCtxs (x : State) (n : Nat) (c : Ctx) (e : Message) :
    SameCtxs x (if n = 0 then x else if c.conn.isSome then { x with outbox := e :: x.outbox }
      else if (c.held ++ [e]).length ≤ 4096 then x.modCtx n fun y => { y with held := c.held ++ [e] }
      else x.modCtx n fun y => { y with held := (c.held ++ [e]).drop 1, dropped := y.dropped + 1 }) := by
  split
  · exact .refl x
  · split
    · exact .of_ctxs rfl
    · split
      · exact SameCtxs.modCtx x n fun _ => rfl
      · exact SameCtxs.modCtx x n fun _ => rfl

theorem sendEvent_sameCtxs (s : State) (n op : Nat) (p : List Byte) (aw : Option Awaited) :
    SameCtxs s (s.sendEvent n op p aw) := by
  have call : (if op = 0x41 ∨ op = 0x42 ∨ op = 0x43 then s.callHalted else s).ctxs = s.ctxs := by split <;> rfl
  unfold State.sendEvent
  dsimp only
  generalize (if op = 0x41 ∨ op = 0x42 ∨ op = 0x43 then s.callHalted else s) = q at call ⊢
  refine (SameCtxs.of_ctxs call).trans ?_
  cases aw with
  | none => exact SameCtxs.trans (.of_ctxs rfl) (holdEvent_sameCtxs { q with fresh := q.fresh + 1 } n (q.ctx n) _)
  | some a => exact SameCtxs.trans (.of_ctxs rfl) (holdEvent_sameCtxs { q with
      fresh := q.fresh + 1, awaited := q.awaited ++ [(q.fresh, n, q.newTag n q.fresh, a)] } n (q.ctx n) _)

/-! ### Tasks -/

/-- The state in which the scheduler looks at a record: its TASK record has been made (R317). -/
def taskSeen (s : State) (w : Who) (name : Name) (parent : List WatchHit) : State :=
  s.watchRecord w (s.matchesOf w.slot name parent) { lin := name, stage := 6 }

theorem takeTask_taken {b : List Byte} {name : Name} {parent : List WatchHit}
    (h : taskRefusal (s.ctx w.slot).ccb.prioCeil b (taskOf w.slot b) = none) :
    (s.takeTask w b name parent).2 = (taskSeen s w name parent).newId.2.addGrid
      (mkGrid (taskSeen s w name parent).fresh w.slot b (taskOf w.slot b) .compute name
        (s.matchesOf w.slot name parent)) := by
  have same : (taskSeen s w name parent).ctx w.slot = s.ctx w.slot :=
    ctx_of_ctxs (congrArg Prod.fst (keptByAccess_watchRecord ..)) _
  unfold State.takeTask
  dsimp only
  rw [show taskRefusal ((s.watchRecord w (s.matchesOf w.slot name parent) { lin := name, stage := 6 }).ctx
    w.slot).ccb.prioCeil b (taskOf w.slot b) = none from same ▸ h]
  rfl

theorem takeTask_sameCtxs (s : State) (w : Who) (b : List Byte) (name : Name) (parent : List WatchHit) :
    SameCtxs s (s.takeTask w b name parent).2 := by
  have seen : SameCtxs s (taskSeen s w name parent) :=
    .of_ctxs (congrArg Prod.fst (keptByAccess_watchRecord ..))
  refine seen.trans ?_
  unfold State.takeTask
  dsimp only
  split
  · exact sendEvent_sameCtxs (taskSeen s w name parent) _ _ _ _
  · exact .of_ctxs rfl

/-! ### Loading -/

theorem xallsIn_kept (v : Saved) (b : List Byte) : keptByAccess (s.xallsIn v b) = keptByAccess s := by
  unfold State.xallsIn
  refine foldl_keeps keptByAccess _ (fun t e => ?_) _ s
  dsimp only
  split
  · rfl
  · split <;> rfl

theorem loadTasks_sameCtxs (s : State) (n p : Nat) (bs : List (List Byte)) (gs : List Grid) :
    SameCtxs s (s.loadTasks n p bs gs) := by
  induction bs generalizing s gs with
  | nil => exact .refl s
  | cons b bs ih =>
    unfold State.loadTasks
    dsimp only
    refine SameCtxs.trans ?_ (ih _ _)
    split
    · exact .of_ctxs rfl
    · exact takeTask_sameCtxs _ _ _ _ _

/-- The queue entry of a saved block (R353). -/
def savedEntry (part slot : Nat) (v : Saved) : QEntry :=
  { part := part, prio := v.block.task.prio, slot := slot, what := .saved v }

/-- A loaded block as its queue holds it, its caravans under new numbers (R353). -/
def queuedBlock (s : State) (v : Saved) : Saved :=
  { v with loaded := true, caravans := v.caravans.mapIdx fun i (c : Caravan) => { c with num := s.fresh + i } }

theorem recordOver_slot (s : State) (v : Saved) (b : List Byte) : (s.recordOver v b).block.slot = v.block.slot := by
  unfold State.recordOver
  split <;> rfl

/-- The blocks of an image join the tail of the queue, in order; the contexts are as they were (R353). -/
theorem loadBlocks_tail (s : State) (n p : Nat) (bs : List (List Byte)) (vs : List Saved)
    (hv : ∀ v ∈ vs, v.block.slot = n) :
    (s.loadBlocks n p bs vs).ctxs = s.ctxs ∧ ∃ us : List Saved,
      (s.loadBlocks n p bs vs).queue = s.queue ++ us.map (savedEntry p n) ∧ us.length = bs.length ∧
        ∀ v ∈ us, v.loaded = true ∧ v.block.slot = n := by
  induction bs generalizing s vs with
  | nil => exact ⟨rfl, [], by simp [State.loadBlocks], rfl, List.forall_mem_nil _⟩
  | cons b bs ih =>
    have rest : ∀ v ∈ vs.drop 1, v.block.slot = n := fun v h => hv v (List.mem_of_mem_drop h)
    have step (t : State) (v : Saved) (ht : t.ctxs = s.ctxs ∧ t.queue = s.queue ++ [savedEntry p n v])
        (hl : v.loaded = true ∧ v.block.slot = n) :
        (t.loadBlocks n p bs (vs.drop 1)).ctxs = s.ctxs ∧ ∃ us : List Saved,
          (t.loadBlocks n p bs (vs.drop 1)).queue = s.queue ++ us.map (savedEntry p n) ∧
            us.length = (b :: bs).length ∧ ∀ v ∈ us, v.loaded = true ∧ v.block.slot = n := by
      obtain ⟨ctxs, us, queue, len, all⟩ := ih t (vs.drop 1) rest
      exact ⟨ctxs.trans ht.1, v :: us, by rw [queue, ht.2]; simp, by simp [len], List.forall_mem_cons.mpr ⟨hl, all⟩⟩
    unfold State.loadBlocks
    dsimp only
    split
    · next v known =>
      have hv' : v.block.slot = n := hv v (List.mem_of_mem_head? (Option.mem_filter_iff.mp known).1)
      have kept := xallsIn_kept (s := s) v b
      exact step _ (queuedBlock (s.xallsIn v b) ((s.recordOver v b).inSlot n))
        ⟨congrArg Prod.fst kept, congrArg (· ++ _) (congrArg (fun x => x.2.1) kept)⟩
        ⟨rfl, (recordOver_slot s v b).trans hv'⟩
    · exact step _ (queuedBlock { s with fresh := _, grids := _ } (s.foreignBlock n s.fresh b).1) ⟨rfl, rfl⟩ ⟨rfl, rfl⟩

/-- The queue entry of a task (R381). -/
def taskEntry (part slot : Nat) (g : Grid) : QEntry :=
  { part := part, prio := g.task.prio, slot := slot, what := .grid g.uid }

/-- The grid of a task's record in an image (R353). -/
def GridOf (n : Nat) (b : List Byte) (g : Grid) : Prop :=
  g.bytes = b ∧ g.slot = n ∧ g.placed = 0 ∧ g.name = inSlot n (BitVec.ofNat 128 (fieldOf b 40 16))

/-- Tasks that are not refused join the tail of the queue, in order, each as the grid of its record (R353). -/
theorem loadTasks_taken (s : State) (n p : Nat) (bs : List (List Byte))
    (good : ∀ b ∈ bs, taskRefusal (s.ctx n).ccb.prioCeil b (taskOf n b) = none) :
    ∃ gs : List Grid, List.Forall₂ (GridOf n) bs gs ∧ keptByAccess (s.loadTasks n p bs []) =
      (s.ctxs, s.queue ++ gs.map (taskEntry (s.partFor n) n), s.grids ++ gs) := by
  induction bs generalizing s with
  | nil => exact ⟨[], .nil, by simp [State.loadTasks]⟩
  | cons b bs ih =>
    obtain ⟨goodHead, goodRest⟩ := List.forall_mem_cons.mp good
    let name := inSlot n (BitVec.ofNat 128 (fieldOf b 40 16))
    let w : Who := { cl := 0, slot := n }
    let g := mkGrid (taskSeen s w name []).fresh n b (taskOf n b) .compute name (s.matchesOf n name [])
    have seen : keptByAccess (taskSeen s w name []) = keptByAccess s := keptByAccess_watchRecord ..
    obtain ⟨ctxs, queueGrids⟩ := Prod.mk.inj seen
    obtain ⟨queue, grids⟩ := Prod.mk.inj queueGrids
    have part : (taskSeen s w name []).partFor n = s.partFor n := (SameCtxs.of_ctxs ctxs).partFor n
    have taken : keptByAccess (s.takeTask w b name []).2 =
        (s.ctxs, s.queue ++ [taskEntry (s.partFor n) n g], s.grids ++ [g]) := by
      rw [takeTask_taken goodHead, ← ctxs, ← queue, ← grids, ← part]
      rfl
    obtain ⟨ctxs', queueGrids'⟩ := Prod.mk.inj taken
    obtain ⟨queue', grids'⟩ := Prod.mk.inj queueGrids'
    obtain ⟨gs, each, kept⟩ := ih (s.takeTask w b name []).2 (by rwa [ctx_of_ctxs ctxs'])
    refine ⟨g :: gs, .cons ⟨rfl, rfl, rfl, rfl⟩ each, ?_⟩
    rw [(SameCtxs.of_ctxs ctxs').partFor, ctxs', queue', grids', List.append_assoc, List.append_assoc] at kept
    exact kept

/-- An image with nothing beside its bytes. -/
def emptyImage : SavedImage := { body := [], blocks := [], grids := [], queue := [], draws := [], nodes := [] }

theorem storeRoom_ctxs {m : Nat} (h : s.storeRoom m = some t) : t.ctxs = s.ctxs := by
  unfold State.storeRoom at h
  dsimp only at h
  split at h
  · cases h; rfl
  · split at h
    · cases h; rfl
    · split at h
      · cases h; rfl
      · cases h

theorem storeRecord_getD_ctxs (s : State) (r : NodeRec) : ((s.storeRecord r).getD s).ctxs = s.ctxs := by
  cases h : s.storeRecord r with
  | none => rfl
  | some t =>
    obtain ⟨x, hx, rfl⟩ := Option.map_eq_some_iff.mp h
    exact (storeRoom_ctxs hx :)

theorem loadImage_stages (s : State) (n : Nat) (im : SavedImage) (ts bs : List (List Byte)) :
    ∃ (t : State) (k : Shift) (gs : List Grid), t.ctxs = s.ctxs ∧ k.slot = n ∧ s.loadImage n im ts bs =
      (t.loadTasks n (s.partFor n) ts gs).loadBlocks n (s.partFor n) bs (im.blocks.map k.saved) := by
  refine ⟨_, ⟨_, n⟩, _, ?_, rfl, rfl⟩
  exact foldl_keeps State.ctxs _ (fun t e => storeRecord_getD_ctxs t _) _ _

theorem loadImage_empty (s : State) (n : Nat) (ts bs : List (List Byte)) :
    ∃ t : State, keptByAccess t = keptByAccess s ∧ t.mem = s.mem ∧ s.loadImage n emptyImage ts bs =
      (t.loadTasks n (s.partFor n) ts []).loadBlocks n (s.partFor n) bs [] := by
  refine ⟨_, ?_, ?_, rfl⟩
  · simp [keptByAccess, emptyImage]
  · rfl

/-! ### The ends of a save and of a load -/

/-- The token of a save or a load resolves (R352, R353). -/
def paid (tok : Option (Nat × Nat)) (s : State) : State :=
  match tok with
  | some (n, m) => s.resolveToken n m false
  | none => s

/-- The request that asked for a save or a load is answered (R408). -/
def answered (asked : Option Req) (op : Nat) (payload : List Byte) (s : State) : State :=
  match asked with
  | some q => s.respond q op .ok payload
  | none => s

/-- Neither writes memory, nor changes a queue, a grid or more of a context than its tokens. -/
theorem answered_paid (s : State) (tok : Option (Nat × Nat)) (asked : Option Req) (op : Nat) (payload : List Byte) :
    let t := answered asked op payload (paid tok s)
    SameCtxs s t ∧ t.mem = s.mem ∧ t.queue = s.queue ∧ t.grids = s.grids := by
  have token : SameCtxs s (paid tok s) ∧ (paid tok s).mem = s.mem ∧ (paid tok s).queue = s.queue ∧
      (paid tok s).grids = s.grids := by
    cases tok with
    | none => exact ⟨.refl s, rfl, rfl, rfl⟩
    | some x => exact ⟨resolveToken_sameCtxs s x.1 x.2 false, rfl, rfl, rfl⟩
  obtain ⟨ctxs, mem, queue, grids⟩ := token
  cases asked with
  | none => exact ⟨ctxs, mem, queue, grids⟩
  | some q => exact ⟨ctxs.trans (.of_ctxs rfl), mem, queue, grids⟩

theorem answered_ctx (asked : Option Req) (op : Nat) (payload : List Byte) (s : State) (n : Nat) :
    (answered asked op payload s).ctx n = s.ctx n := by
  cases asked <;> rfl

/-! ### Saving -/

theorem execContextSaveComplete_idle {c : Slot} (h : (s.ctx c.val).state ≠ .saving ∨
    (∃ b ∈ s.blocks, b.slot = c.val) ∨ s.pipeBusy c.val = true) : exec (.contextSaveComplete c) s = .next s := by
  change execContextSaveComplete c s = _
  unfold execContextSaveComplete
  dsimp only
  by_cases saving : (s.ctx c.val).state = .saving
  · have busy := h.resolve_left (not_not.mpr saving)
    rw [if_neg (not_not.mpr saving), if_pos (by simpa [List.any_eq_true] using busy)]
  · rw [if_pos saving]

/-- The body of a context's image: the waiting tasks and the block records (R357). -/
def imageBody (s : State) (n : Nat) : List Byte :=
  (unadmitted (s.imageOf n).grids (s.imageOf n).queue).flatMap queuedBytes ++ (s.imageOf n).blocks.flatMap s.blockRecord

/-- The bytes of a context's image (R352, R357). -/
def imageBytes (s : State) (n : Nat) : List Byte :=
  imageHeader (s.ctx n) (s.imageOf n).blocks.length (unadmitted (s.imageOf n).grids (s.imageOf n).queue).length ++
    imageBody s n

/-- The state in which a context's image has been written: at its save address, none at address 0 (R352). -/
def imageWritten (s : State) (n : Nat) : State :=
  let s₁ := s.flushRoutes n
  if (s.ctx n).saveAt = 0 then { s₁ with xalls := s₁.xalls.filter fun y => decide (y.slot ≠ n) || y.root.isSome }
  else
    let s₂ := s₁.physWrite (s.ctx n).saveAt.toNat (mbClean (imageBytes s₁ n))
    { s₂ with images := tput s₂.images (s.ctx n).saveAt.toNat { s₁.imageOf n with body := imageBody s₁ n } }

theorem imageWritten_mem_none (h : (s.ctx n).saveAt = 0) : (imageWritten s n).mem = (s.flushRoutes n).mem := by
  unfold imageWritten
  dsimp only
  rw [if_pos h]

theorem imageWritten_mem_some (h : (s.ctx n).saveAt ≠ 0) : (imageWritten s n).mem =
    ((s.flushRoutes n).physWrite (s.ctx n).saveAt.toNat
      ((imageBytes (s.flushRoutes n) n).map fun b => (b, false))).mem := by
  unfold imageWritten
  dsimp only
  rw [if_neg h, mbClean]

theorem execContextSaveComplete_saves {c : Slot} (saving : (s.ctx c.val).state = .saving)
    (stopped : ∀ b ∈ s.blocks, b.slot ≠ c.val) (idle : s.pipeBusy c.val = false) :
    exec (.contextSaveComplete c) s = .next (answered (s.ctx c.val).asked 0x02 []
      (paid (s.ctx c.val).saveTok ((imageWritten s c.val).dropContext c.val))) := by
  have free : ¬ ((s.blocks.any fun b => b.slot == c.val) || s.pipeBusy c.val) = true := by
    simpa [idle, List.any_eq_true] using stopped
  change execContextSaveComplete c s = _
  unfold execContextSaveComplete imageWritten
  dsimp only
  rw [if_neg (not_not.mpr saving), if_neg free]
  split <;> rfl

theorem countArea_queue (s : State) (p : Nat) : (s.countArea p).queue = s.queue := by
  unfold State.countArea
  dsimp only
  split <;> rfl

/-- A dropped context's slot is FREE and has nothing in a queue (R352). -/
theorem dropContext_free (s : State) (n : Nat) :
    ((s.dropContext n).ctx n).state = .free ∧ ∀ e ∈ (s.dropContext n).queue, e.slot ≠ n := by
  constructor
  · have gone (l : List Ctx) : (l.filter fun c => c.slot ≠ n).find? (fun c => c.slot == n) = none :=
      List.find?_eq_none.mpr fun c hc => by simpa using (List.mem_filter.mp hc).2
    unfold State.dropContext State.ctx
    dsimp only
    rw [gone]
    rfl
  · intro e he
    unfold State.dropContext at he
    dsimp only at he
    rw [foldl_keeps State.queue State.countArea countArea_queue] at he
    simpa using (List.mem_filter.mp he).2

/-- A context that has no block left is saved: its slot is FREE, and memory holds its image (R352, R357). -/
theorem contextSaved {c : Slot} (saving : (s.ctx c.val).state = .saving)
    (stopped : ∀ b ∈ s.blocks, b.slot ≠ c.val) (idle : s.pipeBusy c.val = false) :
    Answers (exec (.contextSaveComplete c) s) fun t => (t.ctx c.val).state = .free ∧ (∀ e ∈ t.queue, e.slot ≠ c.val) ∧
      t.mem = (imageWritten s c.val).mem := by
  have ended := execContextSaveComplete_saves saving stopped idle
  have free := dropContext_free (imageWritten s c.val) c.val
  have kept := dropContext_mem (s := imageWritten s c.val) c.val
  generalize (imageWritten s c.val).dropContext c.val = u at ended free kept
  obtain ⟨ctxs, mem, queue, -⟩ := answered_paid u (s.ctx c.val).saveTok (s.ctx c.val).asked 0x02 []
  exact ⟨_, ended, (ctxs.state _).trans free.1, fun e he => free.2 e (queue ▸ he), mem.trans kept⟩

/-! ### Loading a context -/

/-- The header of the image that a context is loaded from, the blocks and the tasks that it counts (R357). -/
def loadHeader (s : State) (n : Nat) : List Byte := Memory.reads s.mem (s.ctx n).saveAt.toNat 4096

def loadBlockCount (s : State) (n : Nat) : Nat := fieldOf (loadHeader s n) 104 4

def loadTaskCount (s : State) (n : Nat) : Nat := fieldOf (loadHeader s n) 108 4

/-- The records of the image's tasks and of its blocks (R357). -/
def loadTaskRecords (s : State) (n : Nat) : List (List Byte) :=
  (List.range (loadTaskCount s n)).map fun i => Memory.reads s.mem ((s.ctx n).saveAt.toNat + 4096 + 64 * i) 64

def loadBlockRecords (s : State) (n : Nat) : List (List Byte) :=
  s.blockRecords (loadBlockCount s n) ((s.ctx n).saveAt.toNat + 4096 + 64 * loadTaskCount s n)

/-- The image counts no block and no task. -/
def loadFresh (s : State) (n : Nat) : Bool := decide (loadBlockCount s n = 0) && decide (loadTaskCount s n = 0)

/-- A context that has been loaded (R353). -/
def madeLive (c : Ctx) : Ctx := { c with state := .live, saveAt := 0, saveTok := none, asked := none }

theorem madeLive_tokens (c : Ctx) : (madeLive c).tokens = c.tokens ∧ (madeLive c).comps = c.comps := ⟨rfl, rfl⟩

/-- A context as its image's header makes it LIVE (R353). -/
def liveCtx (s : State) (n : Nat) : Ctx := madeLive (parseHeader (loadFresh s n) (loadHeader s n) (s.ctx n))

/-- What a load finds beside the image's bytes. -/
def imageFound (s : State) (n : Nat) : SavedImage :=
  if loadFresh s n then emptyImage else (s.imageAt (s.ctx n).saveAt.toNat).getD emptyImage

/-- The state in which a context's image has been loaded. -/
def imageLoaded (s : State) (n : Nat) : State :=
  (s.setCtx (liveCtx s n)).loadImage n (imageFound s n) (loadTaskRecords s n) (loadBlockRecords s n)

theorem blockRecords_of_mem (h : t.mem = s.mem) (n at_ : Nat) : t.blockRecords n at_ = s.blockRecords n at_ := by
  induction n generalizing at_ with
  | zero => rfl
  | succ n ih => simp only [State.blockRecords, h, ih]

theorem execContextLoadComplete_idle {c : Slot} (h : (s.ctx c.val).state ≠ .loading) :
    exec (.contextLoadComplete c) s = .next s := by
  change execContextLoadComplete c s = _
  unfold execContextLoadComplete
  exact if_pos h

theorem execContextLoadComplete_loads {c : Slot} (h : (s.ctx c.val).state = .loading) :
    exec (.contextLoadComplete c) s = .next (answered (s.ctx c.val).asked 0x01
      (natLe 8 ((s.ctx c.val).token.getD 0).toNat) (paid (s.ctx c.val).saveTok (imageLoaded s c.val))) := by
  have records : loadBlockRecords s c.val = (s.setCtx (liveCtx s c.val)).blockRecords (loadBlockCount s c.val)
      ((s.ctx c.val).saveAt.toNat + 4096 + 64 * loadTaskCount s c.val) :=
    (blockRecords_of_mem (s := s) (t := s.setCtx (liveCtx s c.val)) rfl _ _).symm
  change execContextLoadComplete c s = _
  unfold execContextLoadComplete imageLoaded
  rw [records]
  dsimp only
  rw [if_neg (not_not.mpr h)]
  cases (s.ctx c.val).asked <;> rfl

theorem ctx_setCtx_liveCtx (s : State) (n : Nat) : (s.setCtx (liveCtx s n)).ctx n = liveCtx s n := by
  have := ctx_setCtx_same s (liveCtx s n)
  rwa [show (liveCtx s n).slot = n from ctx_slot s n] at this

theorem partFor_setCtx_liveCtx (s : State) (n : Nat) : (s.setCtx (liveCtx s n)).partFor n = s.partFor n := by
  unfold State.partFor
  rw [ctx_setCtx_liveCtx]
  rfl

/-- Loading an image leaves contexts as its header made them, but for the events they hold; its blocks come last in
their queue (R353). -/
theorem imageLoaded_facts (s : State) (n : Nat) :
    SameCtxs (s.setCtx (liveCtx s n)) (imageLoaded s n) ∧ ∃ q, ∃ vs : List Saved,
      (imageLoaded s n).queue = q ++ vs.map (savedEntry (s.partFor n) n) ∧
      vs.length = (loadBlockRecords s n).length ∧ ∀ v ∈ vs, v.loaded = true ∧ v.block.slot = n := by
  obtain ⟨t, k, gs, ctxs, slot, stages⟩ := loadImage_stages (s.setCtx (liveCtx s n)) n (imageFound s n)
    (loadTaskRecords s n) (loadBlockRecords s n)
  have slots : ∀ v ∈ (imageFound s n).blocks.map k.saved, v.block.slot = n := fun v hv => by
    obtain ⟨x, -, rfl⟩ := List.mem_map.mp hv
    exact slot
  obtain ⟨same, vs, queue, len, all⟩ := loadBlocks_tail (t.loadTasks n ((s.setCtx (liveCtx s n)).partFor n)
    (loadTaskRecords s n) gs) n ((s.setCtx (liveCtx s n)).partFor n) (loadBlockRecords s n) _ slots
  rw [← stages] at same queue
  rw [partFor_setCtx_liveCtx] at queue
  exact ⟨((SameCtxs.of_ctxs ctxs).trans (loadTasks_sameCtxs _ _ _ _ _)).trans (.of_ctxs same), _, vs, queue, len, all⟩

/-- With no block and nothing beside the bytes, the tasks join as their records give them (R353). -/
theorem imageLoaded_tasks (s : State) (n : Nat) (blocks : loadBlockCount s n = 0) (found : imageFound s n = emptyImage)
    (good : ∀ b ∈ loadTaskRecords s n, taskRefusal (s.ctx n).ccb.prioCeil b (taskOf n b) = none) :
    ∃ gs : List Grid, List.Forall₂ (GridOf n) (loadTaskRecords s n) gs ∧ keptByAccess (imageLoaded s n) =
      ((s.setCtx (liveCtx s n)).ctxs, s.queue ++ gs.map (taskEntry (s.partFor n) n), s.grids ++ gs) := by
  obtain ⟨t, kept, -, stages⟩ := loadImage_empty (s.setCtx (liveCtx s n)) n (loadTaskRecords s n) (loadBlockRecords s n)
  have none_left : loadBlockRecords s n = [] := by
    rw [loadBlockRecords, blocks]
    rfl
  obtain ⟨ctxs, queueGrids⟩ := Prod.mk.inj kept
  obtain ⟨queue, grids⟩ := Prod.mk.inj queueGrids
  have ceil : (t.ctx n).ccb.prioCeil = (s.ctx n).ccb.prioCeil := by
    rw [ctx_of_ctxs ctxs, ctx_setCtx_liveCtx]
    rfl
  obtain ⟨gs, each, loaded⟩ := loadTasks_taken t n ((s.setCtx (liveCtx s n)).partFor n) (loadTaskRecords s n)
    (by rwa [ceil])
  refine ⟨gs, each, ?_⟩
  rw [(SameCtxs.of_ctxs ctxs).partFor, partFor_setCtx_liveCtx, ctxs, queue, grids] at loaded
  rw [imageLoaded, found, stages, none_left]
  rw [partFor_setCtx_liveCtx]
  exact loaded

/-- A load of an image with no block and no task (R353). -/
theorem contextLoaded_fresh {c : Slot} (h : (s.ctx c.val).state = .loading) (tok : (s.ctx c.val).saveTok = none)
    (blocks : loadBlockCount s c.val = 0) (tasks : loadTaskCount s c.val = 0) :
    Answers (exec (.contextLoadComplete c) s) fun t => t.mem = s.mem ∧ t.ctx c.val = liveCtx s c.val := by
  have found : imageFound s c.val = emptyImage := by
    simp [imageFound, loadFresh, blocks, tasks]
  have records : loadTaskRecords s c.val = [] := by
    rw [loadTaskRecords, tasks]
    rfl
  obtain ⟨gs, -, kept⟩ := imageLoaded_tasks s c.val blocks found (by simp [records])
  have mem : (imageLoaded s c.val).mem = s.mem := by
    obtain ⟨t, -, mem, stages⟩ := loadImage_empty (s.setCtx (liveCtx s c.val)) c.val (loadTaskRecords s c.val)
      (loadBlockRecords s c.val)
    rw [imageLoaded, found, stages, loadBlocks_mem, records]
    exact mem
  have ended := execContextLoadComplete_loads h
  have ctx : (imageLoaded s c.val).ctx c.val = liveCtx s c.val :=
    (ctx_of_ctxs (congrArg Prod.fst kept) _).trans (ctx_setCtx_liveCtx ..)
  rw [tok] at ended
  generalize imageLoaded s c.val = u at ended mem ctx
  obtain ⟨-, same, -, -⟩ := answered_paid u none (s.ctx c.val).asked 0x01 (natLe 8 ((s.ctx c.val).token.getD 0).toNat)
  exact ⟨_, ended, same.trans mem, (answered_ctx ..).trans ctx⟩

/-- A loaded context is LIVE and its token resolves (R353). -/
theorem contextLoaded_token {c : Slot} {n m : Nat} (h : (s.ctx c.val).state = .loading)
    (tok : (s.ctx c.val).saveTok = some (n, m)) :
    Answers (exec (.contextLoadComplete c) s) fun t => (t.ctx c.val).state = .live ∧ (t.ctx c.val).saveTok = none ∧
      ((t.ctx n).token_ m).resolved = true ∧ ((t.ctx n).token_ m).skipped = false := by
  have ended := execContextLoadComplete_loads h
  obtain ⟨ctxs, -⟩ := imageLoaded_facts s c.val
  have state := (ctxs.state c.val).trans (congrArg Ctx.state (ctx_setCtx_liveCtx s c.val))
  have pays := (ctxs.saveTok c.val).trans (congrArg Ctx.saveTok (ctx_setCtx_liveCtx s c.val))
  rw [tok] at ended
  generalize imageLoaded s c.val = u at ended state pays
  obtain ⟨same, -⟩ := answered_paid u (some (n, m)) (s.ctx c.val).asked 0x01
    (natLe 8 ((s.ctx c.val).token.getD 0).toNat)
  refine ⟨_, ended, (same.state _).trans state, (same.saveTok _).trans pays, ?_⟩
  rw [answered_ctx]
  exact resolveToken_token u n m false

/-- The tasks and the blocks of a loaded context join the tails of their queues (R353). -/
theorem contextLoaded_queues {c : Slot} (h : (s.ctx c.val).state = .loading) :
    Answers (exec (.contextLoadComplete c) s) fun t =>
      (∃ q, ∃ vs : List Saved, t.queue = q ++ vs.map (savedEntry (s.partFor c.val) c.val) ∧
        vs.length = (loadBlockRecords s c.val).length ∧ ∀ v ∈ vs, v.loaded = true ∧ v.block.slot = c.val) ∧
      (loadBlockCount s c.val = 0 → s.imageAt (s.ctx c.val).saveAt.toNat = none →
        (∀ b ∈ loadTaskRecords s c.val, taskRefusal (s.ctx c.val).ccb.prioCeil b (taskOf c.val b) = none) →
        ∃ gs : List Grid, List.Forall₂ (GridOf c.val) (loadTaskRecords s c.val) gs ∧
          t.queue = s.queue ++ gs.map (taskEntry (s.partFor c.val) c.val) ∧ t.grids = s.grids ++ gs) := by
  have ended := execContextLoadComplete_loads h
  obtain ⟨-, blocks⟩ := imageLoaded_facts s c.val
  have tasks := imageLoaded_tasks s c.val
  generalize imageLoaded s c.val = u at ended blocks tasks
  obtain ⟨-, -, queue, grids⟩ := answered_paid u (s.ctx c.val).saveTok (s.ctx c.val).asked 0x01
    (natLe 8 ((s.ctx c.val).token.getD 0).toNat)
  refine ⟨_, ended, by rwa [queue], fun none_ image good => ?_⟩
  have found : imageFound s c.val = emptyImage := by simp [imageFound, image]
  obtain ⟨gs, each, kept⟩ := tasks none_ found good
  obtain ⟨-, kept⟩ := Prod.mk.inj kept
  obtain ⟨tail, last⟩ := Prod.mk.inj kept
  exact ⟨gs, each, queue.trans tail, grids.trans last⟩

theorem contextsMove : ContextsMove := by
  refine ⟨fun c s saving none_ stopped idle => ?_, fun c s h => execContextSaveComplete_idle (.inl h),
    fun c s h => execContextSaveComplete_idle (.inr h), fun c s saving some_ stopped idle => ?_,
    fun c s loading tok blocks tasks => ?_, fun c s sl k loading tok => contextLoaded_token loading tok,
    fun c s loading => ?_, fun c s h => execContextLoadComplete_idle h⟩
  · obtain ⟨t, ended, free, left, mem⟩ := contextSaved saving stopped idle
    exact ⟨t, ended, free, mem.trans (imageWritten_mem_none none_), left⟩
  · obtain ⟨t, ended, free, left, mem⟩ := contextSaved saving stopped idle
    exact ⟨t, ended, free, left, mem.trans (imageWritten_mem_some some_)⟩
  · obtain ⟨t, ended, mem, ctx⟩ := contextLoaded_fresh loading tok blocks tasks
    have fresh : loadFresh s c.val = true := by
      rw [loadFresh, show loadBlockCount s c.val = 0 from blocks, show loadTaskCount s c.val = 0 from tasks]
      rfl
    obtain ⟨tokens, comps⟩ := madeLive_tokens (parseHeader (loadFresh s c.val) (loadHeader s c.val) (s.ctx c.val))
    rw [← liveCtx, ← ctx, fresh] at tokens comps
    exact ⟨t, ended, by rw [ctx]; rfl, mem, by rw [ctx]; rfl, by rw [ctx]; rfl, tokens, comps⟩
  · intro at_ nb nt task entry
    obtain ⟨t, ended, ⟨q, vs, queue, len, all⟩, tasks⟩ := contextLoaded_queues loading
    refine ⟨t, ended, ⟨q, vs, queue, len, all⟩, fun blocks image good => ?_⟩
    obtain ⟨gs, each, tail, last⟩ := tasks blocks image fun b hb => by
      obtain ⟨i, hi, rfl⟩ := List.mem_map.mp hb
      exact good i (List.mem_range.mp hi)
    have count : (loadTaskRecords s c.val).length = nt := by simp [loadTaskRecords]; rfl
    refine ⟨gs, each.length_eq.symm.trans count, tail, fun i g hg => ?_⟩
    obtain ⟨hi, rfl⟩ := List.getElem?_eq_some_iff.mp hg
    have record := each.get (by rw [each.length_eq]; exact hi) hi
    obtain ⟨bytes, slot, placed, name⟩ := record
    have at_i : (loadTaskRecords s c.val).get ⟨i, by rw [each.length_eq]; exact hi⟩ = task i := by
      simp [loadTaskRecords]
      rfl
    rw [at_i] at bytes name
    exact ⟨by rw [last]; exact List.mem_append_right _ (List.getElem_mem hi), bytes, slot, placed, name⟩

/-- Settles O47: the instructions take a token and change one context (`contextInstructions`); a save drops what its
context has (`dropContext_free`), and a load puts the image's tasks and blocks last in their queues
(`loadTasks_taken`, `loadBlocks_tail`). -/
theorem contexts : Obligations.Contexts := ⟨contextInstructions, contextsMove⟩

end Sys2Proof.Proofs
end

section
/-! What a group keeps when registers and predicates of its lanes are written (R107, R112, R193, R194): which lanes and
fields each write names, one write after another. -/

namespace Sys2Proof.Proofs

open Sys2Proof.Machine Sys2Proof.Laws Sys2Proof.Claims

variable {s : State} {g y z : Machine.Group} {l r p n : Nat} {R P R' P' : Nat → Prop}
  {ws ws' ps ps' : List (Nat × Nat)}

/-! ### One lane -/

/-- What a lane keeps when only register fields that meet `R` and predicates that meet `P` are written; p15 is never
written. -/
structure LaneKept (x x' : Lane) (R P : Nat → Prop) : Prop where
  rest : { x' with v := [], t := [], vPoison := [], preds := 0 } = { x with v := [], t := [], vPoison := [], preds := 0 }
  file : (∀ r, ¬ R r) → { x' with preds := 0 } = { x with preds := 0 }
  idle : (∀ r, ¬ R r) → (∀ k, P k → k = 15) → x' = x
  regs : ∀ i, (∀ r, R r → r < 120 → i ≠ x.vIdx r) → tget 0 x'.v i = tget 0 x.v i
  marks : ∀ h, (∀ r, R r → r < 120 → h / 2 ≠ x.vIdx r) → (h ∈ x'.vPoison ↔ h ∈ x.vPoison)
  temps : ∀ r, ¬ R r → (x'.t.find? fun e => e.1 == r) = x.t.find? fun e => e.1 == r
  preds : ∀ k, ¬ P k → x'.pred k = x.pred k

namespace LaneKept

variable {x x' x'' : Lane}

theorem refl (x : Lane) (R P : Nat → Prop) : LaneKept x x R P :=
  ⟨rfl, fun _ => rfl, fun _ _ => rfl, fun _ _ => rfl, fun _ _ => .rfl, fun _ _ => rfl, fun _ _ => rfl⟩

theorem vbase (h : LaneKept x x' R P) : x'.vbase = x.vbase := by
  simpa using congrArg Lane.vbase h.rest

theorem vIdx (h : LaneKept x x' R P) (r : Nat) : x'.vIdx r = x.vIdx r := congrArg (· + r) h.vbase

theorem mono (h : LaneKept x x' R P) (hR : ∀ r, R r → R' r) (hP : ∀ k, P k → P' k) : LaneKept x x' R' P' where
  rest := h.rest
  file none_ := h.file fun r hr => none_ r (hR r hr)
  idle none_ only := h.idle (fun r hr => none_ r (hR r hr)) fun k hk => only k (hP k hk)
  regs i away := h.regs i fun r hr => away r (hR r hr)
  marks i away := h.marks i fun r hr => away r (hR r hr)
  temps r hr := h.temps r (mt (hR r) hr)
  preds k hk := h.preds k (mt (hP k) hk)

theorem trans (h : LaneKept x x' R P) (h' : LaneKept x' x'' R P) : LaneKept x x'' R P where
  rest := h'.rest.trans h.rest
  file none_ := (h'.file none_).trans (h.file none_)
  idle none_ only := (h'.idle none_ only).trans (h.idle none_ only)
  regs i away := (h'.regs i fun r hr => h.vIdx r ▸ away r hr).trans (h.regs i away)
  marks i away := (h'.marks i fun r hr => h.vIdx r ▸ away r hr).trans (h.marks i away)
  temps r hr := (h'.temps r hr).trans (h.temps r hr)
  preds k hk := (h'.preds k hk).trans (h.preds k hk)

/-- A register of the allocation is written, and its poison marks clear (R194). -/
theorem register (x : Lane) (w : Word) (hr : r < 120) : LaneKept x { x with
    v := tset 0 x.v (x.vIdx r) w, vPoison := x.vPoison.filter fun h => h / 2 ≠ x.vIdx r } (· = r) fun _ => False where
  rest := rfl
  file none_ := absurd rfl (none_ r)
  idle none_ := absurd rfl (none_ r)
  regs i away := tget_tset_ne _ _ _ (away r rfl hr)
  marks h away := by simp [away r rfl hr]
  temps _ _ := rfl
  preds _ _ := rfl

/-- A clause temporary is written (R30). -/
theorem temporary (x : Lane) (w : Word) :
    LaneKept x { x with t := (r, w) :: x.t.filter fun e => e.1 ≠ r } (· = r) fun _ => False where
  rest := rfl
  file none_ := absurd rfl (none_ r)
  idle none_ := absurd rfl (none_ r)
  regs _ _ := rfl
  marks _ _ := .rfl
  temps q hq := by
    rw [List.find?_cons_of_neg (by simpa using Ne.symm hq), List.find?_filter]
    congr 1
    funext e
    by_cases he : e.1 = q
    · simp [he, hq]
    · simp [he]
  preds _ _ := rfl

/-- Poison marks of a register of the allocation are set. -/
theorem marked (x : Lane) {hs : List Nat} (hh : ∀ h ∈ hs, r < 120 ∧ h / 2 = x.vIdx r) :
    LaneKept x { x with vPoison := hs.foldr insertNat x.vPoison } (· = r) fun _ => False where
  rest := rfl
  file none_ := absurd rfl (none_ r)
  idle none_ := absurd rfl (none_ r)
  regs _ _ := rfl
  marks h away := by
    have new : h ∉ hs := fun m => away r rfl (hh h m).1 (hh h m).2
    clear hh
    induction hs with
    | nil => rfl
    | cons k hs ih =>
      obtain ⟨ne, new⟩ := not_or.mp (mt List.mem_cons.mpr new)
      rw [List.foldr_cons, mem_insertNat, or_iff_right ne]
      exact ih new
  temps _ _ := rfl
  preds _ _ := rfl

/-- A predicate other than p15 is written (R107). -/
theorem predicate (x : Lane) (b : Bool) (hp : p ≠ 15) : LaneKept x { x with
    preds := (x.preds &&& ~~~ BitVec.ofNat 15 (2 ^ p)) ||| BitVec.ofNat 15 (if b then 2 ^ p else 0) } (fun _ => False)
    (· = p) where
  rest := rfl
  file _ := rfl
  idle _ only := absurd (only p rfl) hp
  regs _ _ := rfl
  marks _ _ := .rfl
  temps _ _ := rfl
  preds k hk := by
    refine if_congr .rfl rfl ?_
    by_cases h15 : k < 15
    · exact (getLsbD_setBit _ b h15).trans (if_neg (Ne.symm hk))
    · rw [BitVec.getLsbD_of_ge _ _ (by omega), BitVec.getLsbD_of_ge _ _ (by omega)]

/-- A change of lane `l` keeps of each lane what it keeps of that one. -/
theorem modLane {f : Lane → Lane} (h : LaneKept (g.lane l) (f (g.lane l)) R P) (k : Nat) :
    LaneKept (g.lane k) ((g.modLane l f).lane k) (fun r => k = l ∧ R r) fun q => k = l ∧ P q := by
  by_cases hk : k = l
  · subst hk
    by_cases hl : k < g.lanes.length
    · rw [lane_modLane_same hl]
      exact h.mono (fun _ hr => ⟨rfl, hr⟩) fun _ hq => ⟨rfl, hq⟩
    · rw [lane_none hl, lane_none (by simpa using hl)]
      exact .refl ..
  · rw [lane_modLane_ne hk]
    exact .refl ..

end LaneKept

/-! ### A group -/

/-- A pending result after writes of the fields `ws`, each with its lane: overwritten when one of them is its
destination (R112). -/
def overwritten (g : Machine.Group) (ws : List (Nat × Nat)) (x : Pending) : Pending :=
  if (ws.any fun e => decide (x.dst = (g.lane e.1).dst e.1 e.2)) = true then { x with clob := true } else x

theorem overwritten_nil (g : Machine.Group) : overwritten g [] = id := rfl

theorem overwritten_singleton (g : Machine.Group) (l r : Nat) : overwritten g [(l, r)] =
    fun x => if x.dst = (g.lane l).dst l r then { x with clob := true } else x := by
  funext x
  simp only [overwritten, List.any_cons, List.any_nil, Bool.or_false, decide_eq_true_eq]

theorem overwritten_append (hw : ∀ l r, (y.lane l).dst l r = (g.lane l).dst l r) (x : Pending) :
    overwritten y ws' (overwritten g ws x) = overwritten g (ws ++ ws') x := by
  have dst : (overwritten g ws x).dst = x.dst := by unfold overwritten; split <;> rfl
  rw [overwritten, dst]
  simp only [hw, overwritten, List.any_append]
  cases ws.any fun e => decide (x.dst = (g.lane e.1).dst e.1 e.2) with
  | false => rfl
  | true => exact ite_self _

/-- What a group keeps when the register fields `ws` and the predicates `ps` are written, each named with its lane. -/
structure Written (g y : Machine.Group) (ws ps : List (Nat × Nat)) : Prop where
  rest : { y with lanes := [], pend := [] } = { g with lanes := [], pend := [] }
  count : y.lanes.length = g.lanes.length
  pend : y.pend = g.pend.map (overwritten g ws)
  lane : ∀ l, LaneKept (g.lane l) (y.lane l) (fun r => (l, r) ∈ ws) fun k => (l, k) ∈ ps

namespace Written

theorem refl (g : Machine.Group) : Written g g [] [] :=
  ⟨rfl, rfl, by simp [overwritten_nil], fun _ => .refl ..⟩

theorem uid (h : Written g y ws ps) : y.uid = g.uid := by
  simpa using congrArg Machine.Group.uid h.rest

theorem dst (h : Written g y ws ps) (l r : Nat) : (y.lane l).dst l r = (g.lane l).dst l r := by
  unfold Lane.dst
  rw [(h.lane l).vIdx]

theorem trans (h : Written g y ws ps) (h' : Written y z ws' ps') : Written g z (ws ++ ws') (ps ++ ps') where
  rest := h'.rest.trans h.rest
  count := h'.count.trans h.count
  pend := by
    rw [h'.pend, h.pend, List.map_map]
    exact List.map_congr_left fun x _ => overwritten_append h.dst x
  lane l := ((h.lane l).mono (fun _ => List.mem_append_left _) fun _ => List.mem_append_left _).trans
    ((h'.lane l).mono (fun _ => List.mem_append_right _) fun _ => List.mem_append_right _)

/-- One write after another, each of them made to a group whose windows are where they were. -/
theorem foldl {f : Machine.Group → Nat → Machine.Group} {wf pf : Nat → List (Nat × Nat)}
    (hf : ∀ y l, (y.lane l).vbase = (g.lane l).vbase → Written y (f y l) (wf l) (pf l)) (ls : List Nat)
    (hy : ∀ l, (y.lane l).vbase = (g.lane l).vbase) : Written y (ls.foldl f y) (ls.flatMap wf) (ls.flatMap pf) := by
  induction ls generalizing y with
  | nil => exact .refl y
  | cons l ls ih =>
    have first := hf y l (hy l)
    exact first.trans (ih fun k => ((first.lane k).vbase).trans (hy k))

/-! ### The writes -/

theorem writeV (g : Machine.Group) (l r : Nat) (w : Word) : Written g (g.writeV l r w) [(l, r)] [] where
  rest := by unfold Machine.Group.writeV; split <;> rfl
  count := by unfold Machine.Group.writeV; split <;> exact length_modLane
  pend := by
    rw [overwritten_singleton]
    unfold Machine.Group.writeV Lane.dst
    split <;> rfl
  lane k := by
    have kept : LaneKept (g.lane k) ((g.writeV l r w).lane k) (fun q => k = l ∧ q = r) fun _ => k = l ∧ False := by
      unfold Machine.Group.writeV
      split
      · exact LaneKept.modLane (.register _ w ‹_›) k
      · exact LaneKept.modLane (.temporary _ w) k
    exact kept.mono (by rintro _ ⟨rfl, rfl⟩; exact List.mem_singleton_self _) fun _ h => h.2.elim

theorem writeP (g : Machine.Group) (l p : Nat) (b : Bool) : Written g (g.writeP l p b) [] [(l, p)] := by
  by_cases hp : p = 15
  · subst hp
    exact ⟨rfl, rfl, by simp [overwritten_nil], fun _ => .refl ..⟩
  · rw [Machine.Group.writeP, if_neg hp]
    refine ⟨rfl, length_modLane, by simp [overwritten_nil, Machine.Group.modLane], fun k => ?_⟩
    refine (LaneKept.modLane (.predicate _ b hp) k).mono (fun _ h => h.2.elim) ?_
    rintro _ ⟨rfl, rfl⟩
    exact List.mem_singleton_self _

/-- A register is written and then keeps some of its poison marks, as VBFI's does (R194). -/
theorem writeV_marked {hs : List Nat} (hh : ∀ h ∈ hs, r < 120 ∧ h / 2 = (g.lane l).vIdx r) (w : Word) :
    Written g ((g.writeV l r w).modLane l fun x => { x with vPoison := hs.foldr insertNat x.vPoison }) [(l, r)] [] where
  rest := (writeV g l r w).rest
  count := length_modLane.trans (writeV g l r w).count
  pend := (writeV g l r w).pend
  lane k := by
    have marked := LaneKept.marked ((g.writeV l r w).lane l) (r := r) (hs := hs) fun h hm =>
      ⟨(hh h hm).1, (hh h hm).2.trans (((writeV g l r w).lane l).vIdx r).symm⟩
    exact ((writeV g l r w).lane k).trans ((LaneKept.modLane marked k).mono
      (by rintro _ ⟨rfl, rfl⟩; exact List.mem_singleton_self _) fun _ h => h.2.elim)

end Written

/-- The `n` register fields from `d` on, in a lane. -/
def fieldsOf (d n l : Nat) : List (Nat × Nat) := (List.range n).map fun k => (l, d + k)

theorem mem_fieldsOf {e : Nat × Nat} {d : Nat} : e ∈ fieldsOf d n l ↔ e.1 = l ∧ d ≤ e.2 ∧ e.2 < d + n := by
  simp only [fieldsOf, List.mem_map, List.mem_range]
  constructor
  · rintro ⟨k, hk, rfl⟩
    exact ⟨rfl, by dsimp only; omega, by dsimp only; omega⟩
  · rintro ⟨rfl, lo, hi⟩
    exact ⟨e.2 - d, by omega, Prod.ext rfl (by dsimp only; omega)⟩

theorem Written.writeV64 (g : Machine.Group) (l r : Nat) (w : DWord) : Written g (g.writeV64 l r w) (fieldsOf r 2 l) [] :=
  (Written.writeV g l r _).trans (.writeV _ l (r + 1) _)

/-- A value takes one register or two. -/
theorem Written.writeBits (g : Machine.Group) (l r v : Nat) (hn : n = 1 ∨ n = 2) :
    Written g (g.writeBits l r n v) (fieldsOf r n l) [] := by
  obtain rfl | rfl := hn
  · exact .writeV g l r _
  · exact .writeV64 g l r _

theorem fty_regs (t : FTy) : t.regs = 1 ∨ t.regs = 2 := by cases t <;> decide
theorem prec_regs (t : Prec) : t.regs = 1 ∨ t.regs = 2 := by cases t <;> decide
theorem numTy_regs (t : NumTy) : t.regs = 1 ∨ t.regs = 2 := by cases t <;> decide
theorem redTy_regs (t : RedTy) : t.regs = 1 ∨ t.regs = 2 := by cases t <;> decide

/-! ### The frames that the statements name -/

theorem mem_flatMap_fieldsOf {ls : List Nat} {d : Nat} :
    (l, r) ∈ ls.flatMap (fieldsOf d n) ↔ l ∈ ls ∧ d ≤ r ∧ r < d + n := by
  simp only [List.mem_flatMap, mem_fieldsOf]
  constructor
  · rintro ⟨_, hl, rfl, h⟩
    exact ⟨hl, h⟩
  · rintro ⟨hl, h⟩
    exact ⟨l, hl, rfl, h⟩

theorem mem_destIdx {x : Lane} {d i : Nat} : i ∈ destIdx x d n ↔ ∃ r, d ≤ r ∧ r < d + n ∧ r < 120 ∧ i = x.vIdx r := by
  simp only [destIdx, List.mem_map, List.mem_filter, List.mem_range, decide_eq_true_eq]
  constructor
  · rintro ⟨k, ⟨hk, h120⟩, rfl⟩
    exact ⟨d + k, by omega, by omega, h120, rfl⟩
  · rintro ⟨r, lo, hi, h120, rfl⟩
    exact ⟨r - d, ⟨by omega, by omega⟩, by rw [Nat.add_sub_cancel' lo]⟩

/-- Writes of one destination, and of at most one predicate, in some lanes. -/
theorem Written.vectorKept {ls : List Nat} {d : Nat} {q : Option PReg}
    (h : Written g y (ls.flatMap (fieldsOf d n)) ps) (hq : ∀ l k, (l, k) ∈ ps → l ∈ ls ∧ ∃ p, q = some p ∧ k = p.val) :
    VectorKept g y ls d n q where
  rest := h.rest
  count := h.count
  pend := by
    rw [h.pend]
    refine List.map_congr_left fun x _ => ?_
    simp only [overwritten, fieldsOf, List.any_flatMap, List.any_map, Function.comp_def]
  idle l hl := (h.lane l).idle (fun r hr => hl (mem_flatMap_fieldsOf.mp hr).1) fun k hk => absurd (hq l k hk).1 hl
  lane l := (h.lane l).rest
  regs l i away := (h.lane l).regs i fun r hr h120 e =>
    away (mem_destIdx.mpr ⟨r, (mem_flatMap_fieldsOf.mp hr).2.1, (mem_flatMap_fieldsOf.mp hr).2.2, h120, e⟩)
  marks l i away := (h.lane l).marks i fun r hr h120 e =>
    away (mem_destIdx.mpr ⟨r, (mem_flatMap_fieldsOf.mp hr).2.1, (mem_flatMap_fieldsOf.mp hr).2.2, h120, e⟩)
  temps l r away := (h.lane l).temps r fun hr => by
    have := (mem_flatMap_fieldsOf.mp hr).2
    omega
  preds l k away := (h.lane l).preds k fun hk => by
    obtain ⟨-, p, hp, rfl⟩ := hq l k hk
    exact away p hp rfl

/-- A group that is put back with its number is the only thing that changes. -/
theorem setGroup_answered {Q : Machine.Group → Prop} (hg : s.group? g.uid = some g) (hu : y.uid = g.uid) (hy : Q y) :
    OnlyGroup s (s.setGroup y) g.uid ∧ After (s.setGroup y) g.uid Q := by
  rw [← hu] at hg ⊢
  exact ⟨setGroup_onlyGroup s y, y, group?_setGroup_same hg, hy⟩

end Sys2Proof.Proofs
end

section
/-! The frames of the scalar, vector and predicate instructions, for O11 and O16: the write that each of them makes. -/

namespace Sys2Proof.Proofs

open Sys2Proof.Machine Sys2Proof.Laws Sys2Proof.Claims

variable {s : State} {g : Machine.Group} {c : Clause} {i : Instr}

/-! ### Scalars -/

theorem sPoison_writeS {r : Nat} {w : Word} :
    (g.writeS r w).sPoison = g.sPoison.filter fun h => h / 2 ≠ g.sbase + r := rfl

/-- A scalar instruction makes one write (R156). -/
theorem scalarDest_writes {d : SReg} (h : scalarDest i = some d) (hi : Issues i s g c) :
    ∃ w, exec i s = .next (s.setGroup (g.writeS d.val w)) := by
  cases i with
  | sadd | ssub | smul | smulh | smulhU | sand | sor | sxor | sshl | sshr | ssar | smin | smax | sminu | smaxu | ssel
  | sclz | spop | smov | scmpEq | scmpNe | scmpLt | scmpLe | scmpGt | scmpGe | scmpLtu | scmpLeu | scmpGtu | scmpGeu
  | smovi | saddiShort | saddiXi | slit =>
    cases h
    exact ⟨_, issues_next hi⟩
  | _ => cases h

/-- Settles O11: each instruction is one write of a scalar register (`scalarDest_writes`), which says itself what it
changes. -/
theorem scalarFrame : Obligations.ScalarFrame := by
  intro i d s g c hd hi
  obtain ⟨w, answer⟩ := scalarDest_writes hd hi
  refine ⟨_, answer, setGroup_answered (issues_group hi) rfl ⟨fun r hr => ?_, fun h => ?_, rfl, rfl⟩⟩
  · rw [s_writeS, tget_tset_ne _ _ _ hr]
  · rw [sPoison_writeS, List.mem_filter, decide_eq_true_iff]

/-! ### Vectors -/

/-- The instruction changes its group lane by lane, in each executing lane by the writes `wf` and `pf`. -/
def WritesEach (i : Instr) (s : State) (g : Machine.Group) (c : Clause) (wf pf : Nat → List (Nat × Nat)) : Prop :=
  ∃ f, exec i s = .next (s.setGroup (eachLane g c f)) ∧
    ∀ y l, (y.lane l).vbase = (g.lane l).vbase → Written y (f y l) (wf l) (pf l)

theorem WritesEach.answers {wf pf : Nat → List (Nat × Nat)} {Q : Machine.Group → Prop} (h : WritesEach i s g c wf pf)
    (hg : s.group? g.uid = some g)
    (hQ : ∀ y, Written g y ((lanesOf c.exec).flatMap wf) ((lanesOf c.exec).flatMap pf) → Q y) :
    Answers (exec i s) fun t => OnlyGroup s t g.uid ∧ After t g.uid Q := by
  obtain ⟨f, answer, writes⟩ := h
  have written := Written.foldl writes (lanesOf c.exec) fun _ => rfl
  exact ⟨_, answer, setGroup_answered hg written.uid (hQ _ written)⟩

/-- The marks that VBFI keeps are those of its destination (R194). -/
theorem mem_keptMarks {l d h : Nat} {o w : Word} (hh : h ∈ keptMarks g l d o w) : d < 120 ∧ h / 2 = (g.lane l).vIdx d := by
  obtain ⟨k, hk, he⟩ := List.mem_filterMap.mp hh
  have half : k = 0 ∨ k = 1 := by simpa using List.mem_of_mem_filter hk
  split at he
  case isTrue marked =>
    cases he
    refine ⟨?_, by omega⟩
    unfold Machine.Group.vHalf at marked
    simp only [Bool.and_eq_true, decide_eq_true_eq] at marked
    exact marked.1
  case isFalse => cases he

/-- A vector instruction writes its destination in each executing lane (R193). -/
theorem vectorDest_writes {d : VReg} {n : Nat} (h : vectorDest i = some (d, n)) (hi : Issues i s g c) :
    WritesEach i s g c (fieldsOf d.val n) fun _ => [] := by
  cases i with
  | vadd | vsub | vmul | vmulhS32 | vmulhU32 | vmad | vand | vor | vxor | vshl | vshr | vsar | vminS32 | vminU32
  | vmaxS32 | vmaxU32 | vabs | vclz | vpop | vbfeS32 | vbfeU32 | vsel | vmov | vmovi | vlit | fdot2 | cvtn | fclass
  | qswapH | qswapV | qswapD | ddxFine | ddxCoarse | ddyFine | ddyCoarse =>
    cases h
    exact ⟨_, issues_next hi, fun y l _ => .writeV y l d.val _⟩
  | vbfi =>
    cases h
    refine ⟨_, issues_next hi, fun y l hl => Written.writeV_marked (fun h hm => ?_) _⟩
    obtain ⟨h120, half⟩ := mem_keptMarks hm
    exact ⟨h120, by rw [half, Lane.vIdx, Lane.vIdx, hl]⟩
  | fadd t | fsub t | fmul t | ffma t | fmin t | fmax t =>
    cases h
    exact ⟨_, issues_next hi, fun y l _ => .writeBits y l d.val _ (fty_regs t)⟩
  | cvt t =>
    cases h
    exact ⟨_, issues_next hi, fun y l _ => .writeBits y l d.val _ (numTy_regs t)⟩
  | frcp t | frsq t | fsqrt t | fdiv t | fexp2 t | flog2 t | fsin t | fcos t | fround t | ffract t =>
    cases h
    exact ⟨_, issues_next hi, fun y l _ => .writeBits y l d.val _ (prec_regs t)⟩
  | _ => cases h

/-- VADDC also writes its predicate (R197). -/
theorem vaddc_writes {d a b : VReg} {p : PReg} (hi : Issues (.vaddc d a b p) s g c) :
    WritesEach (.vaddc d a b p) s g c (fieldsOf d.val 1) fun l => [(l, p.val)] :=
  ⟨_, issues_next hi, fun y l _ => (Written.writeV y l d.val _).trans (.writeP _ l p.val _)⟩

theorem mem_flatMap_predicate {ls : List Nat} {q : Option PReg} {l k : Nat}
    (h : (l, k) ∈ ls.flatMap fun l => q.toList.map fun p : PReg => (l, p.val)) : l ∈ ls ∧ ∃ p, q = some p ∧ k = p.val := by
  simp only [List.mem_flatMap, List.mem_map, Option.mem_toList, Prod.mk.injEq] at h
  obtain ⟨_, hl, p, hp, rfl, rfl⟩ := h
  exact ⟨hl, p, hp, rfl⟩

/-! ### Operations across the lanes -/

/-- An operation across the lanes writes its destination in the lanes that it names, and may note a condition of the
replay it runs in (R325). -/
theorem acrossDest_writes {ls : List Nat} {d n : Nat} {q : Option PReg} (h : acrossDest g c i = some (ls, d, n, q))
    (hi : Issues i s g c) : ∃ note f, exec i s = .next ((noting s g note).setGroup (ls.foldl f g)) ∧
      ∀ y l, Written y (f y l) (fieldsOf d n l) (q.toList.map fun p : PReg => (l, p.val)) := by
  cases i with
  | shflIdx | shflUp | shflDown | shflXor =>
    cases h
    exact ⟨_, _, (issues_next hi).trans (by rw [shflNote_eq]; rfl), fun y l => .writeV y l _ _⟩
  | voteAny d | voteAll d =>
    cases h
    exact ⟨_, _, (issues_next hi).trans (by rw [groupWide_eq]; rfl), fun y l => .writeP y l d.val _⟩
  | voteBallot | matchAny | actmask =>
    cases h
    exact ⟨_, _, (issues_next hi).trans (by rw [groupWide_eq]; rfl), fun y l => .writeV64 y l _ _⟩
  | reduce _ t | scan _ t =>
    cases h
    exact ⟨_, _, (issues_next hi).trans (by rw [groupWide_eq]; rfl), fun y l => .writeBits y l _ _ (redTy_regs t)⟩
  | _ => cases h

/-- What a replay notes is condition 6, or nothing. -/
theorem noting_cases (s : State) (g : Machine.Group) (note : Replay → Bool) :
    noting s g note = s ∨ s.replayOf g ≠ none ∧ noting s g note = s.condition g 6 := by
  unfold noting
  cases s.replayOf g with
  | none => exact .inl rfl
  | some r =>
    dsimp only
    split
    · exact .inr ⟨Option.some_ne_none r, rfl⟩
    · exact .inl rfl

theorem group?_condition (s : State) (g : Machine.Group) (n u : Nat) : (s.condition g n).group? u = s.group? u := by
  obtain ⟨rs, h⟩ := condition_frame s g n
  rw [h]
  rfl

theorem acrossFrame {ls : List Nat} {d n : Nat} {q : Option PReg} (h : acrossDest g c i = some (ls, d, n, q))
    (hi : Issues i s g c) : Answers (exec i s) fun t =>
      (OnlyGroup s t g.uid ∨ s.replayOf g ≠ none ∧ OnlyGroup (s.condition g 6) t g.uid) ∧
      After t g.uid fun g' => VectorKept g g' ls d n q := by
  obtain ⟨note, f, answer, writes⟩ := acrossDest_writes h hi
  have written := Written.foldl (g := g) (fun y l _ => writes y l) ls fun _ => rfl
  have kept : VectorKept g (ls.foldl f g) ls d n q := written.vectorKept fun l k => mem_flatMap_predicate
  have answered (t : State) (ht : t.group? g.uid = s.group? g.uid) :
      OnlyGroup t (t.setGroup (ls.foldl f g)) g.uid ∧
        After (t.setGroup (ls.foldl f g)) g.uid fun g' => VectorKept g g' ls d n q :=
    setGroup_answered (ht.trans (issues_group hi)) written.uid kept
  refine ⟨_, answer, ?_⟩
  obtain noted | ⟨replay, noted⟩ := noting_cases s g note <;> rw [noted]
  · exact (answered s rfl).imp_left .inl
  · exact (answered _ (group?_condition s g 6 _)).imp_left fun only => .inr ⟨replay, only⟩

theorem vectorFrame : VectorFrame := by
  refine ⟨fun i d n s g c hd hi => ?_, fun d a b p s g c hi => ?_, fun i ls d n q s g c hd hi => acrossFrame hd hi⟩
  · exact (vectorDest_writes hd hi).answers (issues_group hi) fun y h => h.vectorKept fun l k hk => by simp at hk
  · exact (vaddc_writes hi).answers (issues_group hi) fun y h => h.vectorKept fun l k =>
      mem_flatMap_predicate (q := some p)

/-! ### Predicates -/

/-- A comparison or a predicate operation writes its predicate in each executing lane (R199, R221). -/
theorem predDest_writes {d : PReg} (h : predDest i = some d) (hi : Issues i s g c) :
    WritesEach i s g c (fun _ => []) fun l => [(l, d.val)] := by
  cases i with
  | vcmpEqS32 | vcmpNeS32 | vcmpLtS32 | vcmpLeS32 | vcmpGtS32 | vcmpGeS32 | vcmpEqU32 | vcmpNeU32 | vcmpLtU32
  | vcmpLeU32 | vcmpGtU32 | vcmpGeU32 | fcmp | ishelp | pand | por | pxor | pnot | pmov =>
    cases h
    exact ⟨_, issues_next hi, fun y l _ => .writeP y l d.val _⟩
  | _ => cases h

/-- With no register written the pending results stay as they are, so only lanes change. -/
theorem Written.lanes_only {y : Machine.Group} {ps : List (Nat × Nat)} (h : Written g y [] ps) :
    { y with lanes := [] } = { g with lanes := [] } := by
  have pend : y.pend = g.pend := by rw [h.pend, overwritten_nil, List.map_id]
  calc { y with lanes := [] }
    _ = { ({ y with lanes := [], pend := [] } : Machine.Group) with pend := y.pend } := rfl
    _ = { ({ g with lanes := [], pend := [] } : Machine.Group) with pend := g.pend } := by rw [h.rest, pend]
    _ = { g with lanes := [] } := rfl

theorem predicateFrame : PredicateFrame := by
  intro i d s g c hd hi
  refine (predDest_writes hd hi).answers (issues_group hi) fun y h => ?_
  rw [List.flatMap_eq_nil_iff.mpr fun _ _ => rfl] at h
  have mem {l k : Nat} (hk : (l, k) ∈ (lanesOf c.exec).flatMap fun l => [(l, d.val)]) : mHas c.exec l = true ∧ k = d.val := by
    obtain ⟨hl, _, ⟨⟩, hk⟩ := mem_flatMap_predicate (q := some d) hk
    exact ⟨(mem_lanesOf.mp hl).2, hk⟩
  refine ⟨h.lanes_only, h.count, fun l => ⟨fun idle => ?_, ?_, fun k hk => ?_⟩⟩
  · refine (h.lane l).idle (fun _ => List.not_mem_nil) fun k hk => ?_
    obtain ⟨exec, rfl⟩ := mem hk
    exact idle.resolve_left (by simp [exec])
  · exact (h.lane l).file fun _ => List.not_mem_nil
  · exact (h.lane l).preds k fun m => hk (mem m).2

/-- Settles O16: what a group keeps of one write (`Written.writeV`, `Written.writeP`) it keeps of all writes in all
lanes (`Written.foldl`), and each instruction is such writes (`vectorDest_writes`, `acrossDest_writes`,
`predDest_writes`). -/
theorem vectorFrames : Obligations.VectorFrames := ⟨vectorFrame, predicateFrame⟩

end Sys2Proof.Proofs
end

section
/-! The codes of 06 R128, R129 and R136 to R142: a code read is the code written. -/

namespace Sys2Proof.Proofs

/-- A code is read as what it is the code of, when each code written is read back and nothing else is read. -/
theorem ofCode_iff {α : Type} {ofCode : Nat → Option α} {code : α → Nat} (written : ∀ x, ofCode (code x) = some x)
    (read : ∀ n x, ofCode n = some x → code x = n) {n : Nat} {x : α} : ofCode n = some x ↔ code x = n :=
  ⟨read n x, fun h => h ▸ written x⟩

theorem scope_ofCode {n : Nat} {w : Scope} : Scope.ofCode n = some w ↔ w.code = n := by
  refine ofCode_iff (fun x => by cases x <;> rfl) fun m x h => ?_
  unfold Scope.ofCode at h
  split at h <;> cases h <;> rfl

theorem specReg_ofCode {n : Nat} {r : SpecReg} : SpecReg.ofCode n = some r ↔ r.code = n := by
  refine ofCode_iff (fun x => by cases x <;> rfl) fun m x h => ?_
  unfold SpecReg.ofCode at h
  split at h <;> cases h <;> rfl

theorem fCond_ofCode {n : Nat} {c : FCond} : FCond.ofCode n = some c ↔ c.code = n := by
  refine ofCode_iff (fun x => by cases x <;> rfl) fun m x h => ?_
  unfold FCond.ofCode at h
  split at h <;> cases h <;> rfl

theorem numTy_ofCode {n : Nat} {t : NumTy} : NumTy.ofCode n = some t ↔ t.code = n := by
  refine ofCode_iff (fun x => by cases x <;> rfl) fun m x h => ?_
  unfold NumTy.ofCode at h
  split at h <;> cases h <;> rfl

theorem redOp_ofCode {n : Nat} {o : RedOp} : RedOp.ofCode n = some o ↔ o.code = n := by
  refine ofCode_iff (fun x => by cases x <;> rfl) fun m x h => ?_
  unfold RedOp.ofCode at h
  split at h <;> cases h <;> rfl

theorem redTy_ofCode {n : Nat} {t : RedTy} : RedTy.ofCode n = some t ↔ t.code = n := by
  refine ofCode_iff (fun x => by cases x <;> rfl) fun m x h => ?_
  unfold RedTy.ofCode at h
  split at h <;> cases h <;> rfl

theorem ldSize_ofCode {n : Nat} {z : LdSize} : LdSize.ofCode n = some z ↔ z.code = n := by
  refine ofCode_iff (fun x => by cases x <;> rfl) fun m x h => ?_
  unfold LdSize.ofCode at h
  split at h <;> cases h <;> rfl

theorem lodSize_ofCode {n : Nat} {z : LodSize} : LodSize.ofCode n = some z ↔ z.code = n := by
  refine ofCode_iff (fun x => by cases x <;> rfl) fun m x h => ?_
  unfold LodSize.ofCode at h
  split at h <;> cases h <;> rfl

theorem stNarrow_ofCode {n : Nat} {x : StNarrow} : StNarrow.ofCode n = some x ↔ x.code = n := by
  refine ofCode_iff (fun x => by cases x <;> rfl) fun m x h => ?_
  unfold StNarrow.ofCode at h
  split at h <;> cases h <;> rfl

theorem texMode_ofCode {n : Nat} {u : TexMode} : TexMode.ofCode n = some u ↔ u.code = n := by
  refine ofCode_iff (fun x => by cases x <;> rfl) fun m x h => ?_
  unfold TexMode.ofCode at h
  split at h <;> cases h <;> rfl

theorem atomOp_ofCode {n : Nat} {o : AtomOp} : AtomOp.ofCode n = some o ↔ o.code = n := by
  refine ofCode_iff (fun x => by cases x <;> rfl) fun m x h => ?_
  unfold AtomOp.ofCode at h
  split at h <;> cases h <;> rfl

theorem matTy_ofCode {n : Nat} {t : MatTy} : MatTy.ofCode n = some t ↔ t.code = n := by
  refine ofCode_iff (fun x => by cases x <;> rfl) fun m x h => ?_
  unfold MatTy.ofCode at h
  split at h <;> cases h <;> rfl

theorem tileTy_ofCode {n : Nat} {t : TileTy} : TileTy.ofCode n = some t ↔ t.code = n := by
  refine ofCode_iff (fun x => by cases x <;> rfl) fun m x h => ?_
  unfold TileTy.ofCode at h
  split at h <;> cases h <;> rfl

/-- An atomic type's code says its width too (R140). -/
theorem atomTy_ofCode {wide : Bool} {n : Nat} {t : AtomTy} : 
    AtomTy.ofCode wide n = some t ↔ t.code = n ∧ t.is64 = wide := by
  constructor
  · intro h
    unfold AtomTy.ofCode at h
    cases wide <;> split at h <;> cases h <;> exact ⟨rfl, rfl⟩
  · rintro ⟨rfl, rfl⟩
    cases t <;> rfl

theorem narrow_ofCodes {m n : Nat} {x : Narrow} : Narrow.ofCodes m n = some x ↔ x.dst.code = m ∧ x.src.code = n := by
  constructor
  · intro h
    unfold Narrow.ofCodes at h
    split at h <;> cases h <;> exact ⟨rfl, rfl⟩
  · rintro ⟨rfl, rfl⟩
    cases x <;> rfl

theorem brickTy_ofCodes {m n : Nat} {k : BrickTy} : BrickTy.ofCodes m n = some k ↔ k.tya = m ∧ k.tyb = n := by
  constructor
  · intro h
    unfold BrickTy.ofCodes at h
    repeat' split at h
    all_goals cases h
    all_goals simp_all [BrickTy.tya, BrickTy.tyb]
  · rintro ⟨rfl, rfl⟩
    cases k with
    | bfp m => simp [BrickTy.ofCodes, BrickTy.tya, BrickTy.tyb]
    | int8 | f16 | bf16 => rfl

theorem quantTy_ofCodes {m n : Nat} {k : QuantTy} : QuantTy.ofCodes m n = some k ↔ k.tya = m ∧ k.tyb = n := by
  constructor
  · intro h
    unfold QuantTy.ofCodes at h
    repeat' split at h
    all_goals cases h
    all_goals simp_all [QuantTy.tya, QuantTy.tyb]
  · rintro ⟨rfl, rfl⟩
    cases k with
    | bfp m => simp [QuantTy.ofCodes, QuantTy.tya, QuantTy.tyb]
    | int8 => rfl

theorem matShape_ofCodes {m n : Nat} {h : MatShape} : MatShape.ofCodes m n = some h ↔ h.code = m ∧ h.viewNo = n := by
  constructor
  · intro h
    unfold MatShape.ofCodes at h
    repeat' split at h
    all_goals cases h
    all_goals simp_all [MatShape.code, MatShape.viewNo]
  · rintro ⟨rfl, rfl⟩
    cases h with
    | view m => simp [MatShape.ofCodes, MatShape.code, MatShape.viewNo]
    | whole | deep => rfl

/-! The codes of two bits, and the type bit of class 0x5, have no value left over. -/

theorem rnd_ofCode_code (x : Rnd) : Rnd.ofCode x.code = x := by cases x <;> rfl

theorem rnd_code_ofCode {n : Nat} (h : n < 4) : (Rnd.ofCode n).code = n := by interval_cases n <;> rfl

theorem sem_ofCode_code (x : Sem) : Sem.ofCode x.code = x := by cases x <;> rfl

theorem sem_code_ofCode {n : Nat} (h : n < 4) : (Sem.ofCode n).code = n := by interval_cases n <;> rfl

theorem fTy_ofCode_code (x : FTy) : FTy.ofCode x.code = x := by cases x <;> rfl

theorem fTy_code_ofCode {n : Nat} (h : n < 4) : (FTy.ofCode n).code = n := by interval_cases n <;> rfl

theorem prec_ofCode_code (x : Prec) : Prec.ofCode x.code = x := by cases x <;> rfl

theorem prec_code_ofCode {n : Nat} (h : n < 2) : (Prec.ofCode n).code = n := by interval_cases n <;> rfl

end Sys2Proof.Proofs
end

section
/-! The fields of any word, as against those of an encoded one: a word is its fields, an XM word its own, and a
memory word's address is read from its fields and XM (06 R125, R128, R130). -/

namespace Sys2Proof.Proofs

open Sys2Proof.Laws

variable {w x y n : Nat} {i j : Instr} {u v : Xm}

/-! ### Fields -/

/-- A field is its lower bits and the rest of it. -/
theorem fld_add (w lo k l : Nat) : fld w lo (k + l) = fld w lo k + 2 ^ k * fld w (lo + k) l := by
  simp only [fld, pow_add, Nat.mod_mul, Nat.div_div_eq_div_mul]

theorem fld_lt7 (w lo : Nat) : fld w lo 7 < 128 := Nat.mod_lt _ (by decide)

theorem fld_low (w : Nat) : fld w 0 14 = fld w 0 7 + 2 ^ 7 * fld w 7 7 := fld_add w 0 7 7

theorem fld_operands (w : Nat) : fld w 0 21 = fld w 0 14 + 2 ^ 14 * fld w 14 7 := fld_add w 0 14 7

theorem fld_dest4 (w : Nat) : fld w 14 7 = fld w 14 4 + 2 ^ 4 * fld w 18 3 := fld_add w 14 4 3

theorem fld_first4 (w : Nat) : fld w 7 7 = fld w 7 4 + 2 ^ 4 * fld w 11 3 := fld_add w 7 4 3

theorem fld_second4 (w : Nat) : fld w 0 7 = fld w 0 4 + 2 ^ 4 * fld w 4 3 := fld_add w 0 4 3

/-- A 32-bit word is its class, its opcode and its three fields. -/
theorem word_fields (hw : w < 2 ^ 32) :
    w = (fld w 28 4 * 128 + fld w 21 7) * 2 ^ 21 + fld w 14 7 * 2 ^ 14 + fld w 7 7 * 2 ^ 7 + fld w 0 7 := by
  simp only [fld]
  omega

theorem r7_val (w lo : Nat) : (r7 w lo).val = fld w lo 7 := rfl

theorem r4_val (w lo : Nat) : (r4 w lo).val = fld w lo 4 := rfl

theorem r3_val (w lo : Nat) : (r3 w lo).val = fld w lo 3 := rfl

theorem r2_val (w lo : Nat) : (r2 w lo).val = fld w lo 2 := rfl

theorem n7_val (h : n < 128) : (n7 n).val = n := Nat.mod_eq_of_lt h

theorem n4_val (h : n < 16) : (n4 n).val = n := Nat.mod_eq_of_lt h

theorem imm_val (n w : Nat) : (imm n w).toNat = fld w 0 n := by
  rw [imm, BitVec.toNat_ofNat, fld, pow_zero, Nat.div_one]

theorem fld_zero_len (h : w < 2 ^ n) : fld w 0 n = w := by
  rw [fld, pow_zero, Nat.div_one, Nat.mod_eq_of_lt h]

/-! ### XM words -/

theorem ofNat_fits (n : Nat) : Laws.Xm.Fits (Xm.ofNat n) := by
  constructor <;> exact Nat.mod_lt _ (by decide)

/-- A 32-bit XM word is the word of its fields. -/
theorem xm_toNat_ofNat (h : n < 2 ^ 32) : (Xm.ofNat n).toNat = n := by
  have cut (k l : Nat) : fld n 0 (k + l) = fld n 0 k + 2 ^ k * fld n k l := by simpa using fld_add n 0 k l
  have h32 := cut 25 7
  have h25 := cut 22 3
  have h22 := cut 20 2
  have h20 := cut 18 2
  have h18 := cut 14 4
  have h14 := cut 10 4
  have h10 := cut 6 4
  have h6 := cut 4 2
  have h4 := cut 3 1
  have h3 := cut 2 1
  rw [fld_zero_len h] at h32
  simp only [Xm.toNat, Xm.ofNat]
  linarith

theorem xm_only_iff : v.only u = true ↔ v = u := decide_eq_true_iff

theorem xm_only_self (u : Xm) : u.only u = true := xm_only_iff.mpr rfl

/-! ### Addresses -/

/-- AM of an address (R130). -/
def addrMode : MemX → Nat
  | .base _ _ | .baseXi _ _ => 0
  | .idx _ _ _ _ => 1
  | .vbase _ _ | .vbaseXi _ _ => 2

/-- SC of an address. -/
def addrScale : MemX → Nat
  | .idx _ _ sc _ => sc.toNat
  | _ => 0

/-- The XI word of an address, where it has one. -/
def addrXi : MemX → List Nat
  | .baseXi _ y | .idx _ _ _ (some y) | .vbaseXi _ y => [y.toNat]
  | _ => []

/-- The fields of XM with those of an address. -/
def withAddr (u : Xm) (m : MemX) : Xm := { u with am := addrMode m, sc := addrScale m, xi := (addrXi m).length }

/-- The words after a memory word are XM with the address's fields, and the address's XI word. -/
theorem tail_withAddr (m : MemX) (h : Laws.Xm.Plain u) : m.tail u = (withAddr u m).toNat :: addrXi m := by
  obtain ⟨c, scope, sem, rnd, opc, tya, tyb, am, sc, xi, rsv⟩ := u
  obtain ⟨rfl, rfl, rfl⟩ : am = 0 ∧ sc = 0 ∧ xi = 0 := h
  rcases m with _ | _ | ⟨b, i, sc, _ | y⟩ | _ | _ <;> rfl

theorem withAddr_fits {m : MemX} (h : Laws.Xm.Fits u) : Laws.Xm.Fits (withAddr u m) := by
  obtain ⟨hc, hscope, hsem, hrnd, hopc, htya, htyb, -, -, -, hrsv⟩ := h
  have am : addrMode m < 4 := by cases m <;> simp [addrMode]
  have sc : addrScale m < 2 := by
    cases m with
    | idx b i sc y => exact Bool.toNat_lt sc
    | base | baseXi | vbase | vbaseXi => simp [addrScale]
  have xi : (addrXi m).length < 2 := by
    rcases m with _ | _ | ⟨b, i, sc, _ | y⟩ | _ | _ <;> simp [addrXi]
  exact ⟨hc, hscope, hsem, hrnd, hopc, htya, htyb, am, sc, xi, hrsv⟩

/-- An address written is read back (R130). -/
theorem parse_withAddr (m : MemX) : MemX.parse m.reg m.low (withAddr u m) ((addrXi m).headD 0) = some m := by
  have reg (r : Fin 128) : n7 r.val = r := Fin.ext (n7_val r.isLt)
  have off {n : Nat} (o : BitVec n) : imm n o.toNat = o := by simp [imm]
  have scale (sc : Bool) : (sc.toNat == 1) = sc := by cases sc <;> rfl
  rcases m with _ | _ | ⟨b, i, sc, _ | y⟩ | _ | _ <;>
    simp [MemX.parse, MemX.reg, MemX.low, withAddr, addrMode, addrScale, addrXi, reg, off, scale]

/-- An address read is written as it was read (R130): its fields of the word, those of XM, and the XI word that XI
names. -/
theorem memX_parse {b o : Nat} {m : MemX} (hb : b < 128) (ho : o < 128) (hy : y < 2 ^ 32) (hv : Laws.Xm.Fits v)
    (h : MemX.parse b o v y = some m) : m.reg = b ∧ m.low = o ∧ addrXi m = [y].take v.xi ∧
      ∀ u, withAddr u m = { u with am := v.am, sc := v.sc, xi := v.xi } := by
  have hxi := hv.xi
  have hsc := hv.sc
  have off : (imm 7 o).toNat = o := (imm_val ..).trans (fld_zero_len ho)
  have ext : (imm 32 y).toNat = y := (imm_val ..).trans (fld_zero_len hy)
  have xi (h : v.xi ≠ 0) : v.xi = 1 := by omega
  have scale : (v.sc == 1).toNat = v.sc := by
    interval_cases v.sc <;> rfl
  unfold MemX.parse at h
  repeat' split at h
  all_goals cases h
  all_goals simp_all [MemX.reg, MemX.low, withAddr, addrMode, addrScale, addrXi, n7_val]

/-! ### What parsing answers -/

theorem okIf_ok {b : Bool} : okIf b i = .ok j ↔ b = true ∧ i = j := by
  cases b <;> simp [okIf]

theorem ok_ok : (.ok i : Except Trap Instr) = .ok j ↔ True ∧ i = j := by
  simp

/-- SEM and SCOPE of an access say its order, or that it has none (R139, R140). -/
theorem parseOrd_some {sem : Nat} {q : Option Scope} (h0 : sem ≠ 0) :
    parseOrd sem v = some q ↔ Scope.optCode q = v.scope ∧ (if q.isSome then sem else 0) = v.sem := by
  unfold parseOrd
  constructor
  · intro h
    split at h
    · next plain =>
      split at h
      · next noScope =>
        cases h
        exact ⟨noScope.symm, plain.symm⟩
      · cases h
    · split at h
      · next order =>
        obtain ⟨s, hs, rfl⟩ := Option.map_eq_some_iff.mp h
        exact ⟨scope_ofCode.mp hs, order.symm⟩
      · cases h
  · rintro ⟨hs, hm⟩
    rw [← hs, ← hm]
    cases q with
    | none => rfl
    | some s => simp [h0, Scope.optCode, scope_ofCode.mpr rfl]

/-- A store's XM says its narrowing and its order, besides its address (R140). -/
theorem parseStore_ok {mk : StNarrow → Option Scope → Instr} : parseStore v mk = .ok i ↔ ∃ n q,
    v = { v.addr with scope := Scope.optCode q, sem := if q.isSome then 2 else 0, tya := n.code } ∧ mk n q = i := by
  unfold parseStore
  constructor
  · intro h
    split at h
    · next n q hn hq =>
      obtain ⟨hu, rfl⟩ := okIf_ok.mp h
      obtain ⟨hs, hm⟩ := (parseOrd_some (by decide)).mp hq
      refine ⟨n, q, ?_, rfl⟩
      rw [hs, hm, stNarrow_ofCode.mp hn]
      exact xm_only_iff.mp hu
    · cases h
  · rintro ⟨n, q, hu, rfl⟩
    have hs : Scope.optCode q = v.scope := (congrArg Xm.scope hu).symm
    have hm : (if q.isSome then 2 else 0) = v.sem := (congrArg Xm.sem hu).symm
    have hn : n.code = v.tya := (congrArg Xm.tya hu).symm
    rw [hs, hm, hn] at hu
    rw [stNarrow_ofCode.mpr hn, (parseOrd_some (by decide)).mpr ⟨hs, hm⟩]
    exact okIf_ok.mpr ⟨xm_only_iff.mpr hu, rfl⟩

/-- An atomic's XM says its operation, type, semantics and scope, besides its address and its operand (R140). -/
theorem parseAtomic_ok {wide : Bool} {mk : AtomOp → AtomTy → Sem → Scope → Instr} (hv : v.sem < 4) :
    parseAtomic v wide mk = .ok i ↔ ∃ o t q s, t.is64 = wide ∧
      v = { v.addr with c := v.c, scope := s.code, sem := q.code, opc := o.code, tya := t.code } ∧ mk o t q s = i := by
  unfold parseAtomic
  constructor
  · intro h
    split at h
    · next o t s ho ht hs =>
      obtain ⟨hu, rfl⟩ := okIf_ok.mp h
      obtain ⟨hty, hwide⟩ := atomTy_ofCode.mp ht
      refine ⟨o, t, Sem.ofCode v.sem, s, hwide, ?_, rfl⟩
      rw [scope_ofCode.mp hs, sem_code_ofCode hv, atomOp_ofCode.mp ho, hty]
      exact xm_only_iff.mp hu
    · cases h
  · rintro ⟨o, t, q, s, hwide, hu, rfl⟩
    have hs : s.code = v.scope := (congrArg Xm.scope hu).symm
    have hq : q.code = v.sem := (congrArg Xm.sem hu).symm
    have ho : o.code = v.opc := (congrArg Xm.opc hu).symm
    have ht : t.code = v.tya := (congrArg Xm.tya hu).symm
    rw [hs, hq, ho, ht] at hu
    rw [atomOp_ofCode.mpr ho, atomTy_ofCode.mpr ⟨ht, hwide⟩, scope_ofCode.mpr hs]
    refine okIf_ok.mpr ⟨xm_only_iff.mpr hu, ?_⟩
    rw [← hq, sem_ofCode_code]

end Sys2Proof.Proofs
end

section
/-! What decodes was encoded so (O3): class by class, the words of the instruction read are the words it was read
from (06 R126, R127, R132 to R147). -/

namespace Sys2Proof.Proofs

open Sys2Proof.Laws

variable {w x y n f : Nat} {i : Instr} {u : Xm}

/-- The words of an instruction are those it was read from, as many as the fetch takes them to be (R128). -/
def Words (w x y : Nat) (i : Instr) : Prop := encode i = [w, x, y].take (wordCount w x)

theorem words_one (he : encode i = [f]) (hf : f = w) (hm : hasXm w = false) (hi : hasXi w = false) :
    Words w x y i := by
  simp [Words, he, hf, wordCount, hm, hi]

theorem words_xi (he : encode i = [f, n]) (hf : f = w) (hn : n = x) (hm : hasXm w = false) (hi : hasXi w = true) :
    Words w x y i := by
  simp [Words, he, hf, hn, wordCount, hm, hi]

theorem words_xm (he : encode i = [f, u.toNat]) (hf : f = w) (hx : x < 2 ^ 32) (hu : Xm.ofNat x = u) (h0 : u.xi = 0)
    (hm : hasXm w = true) : Words w x y i := by
  have xi : fld x 2 1 = 0 := (congrArg Xm.xi hu).trans h0
  simp [Words, he, hf, ← hu, xm_toNat_ofNat hx, wordCount, hm, xi]

theorem words_mem {m : MemX} (he : encode i = f :: m.tail u) (hp : Laws.Xm.Plain u) (hf : f = w) (hx : x < 2 ^ 32)
    (hu : Xm.ofNat x = withAddr u m) (hi : addrXi m = [y].take (Xm.ofNat x).xi) (hm : hasXm w = true) :
    Words w x y i := by
  have count : wordCount w x = (Xm.ofNat x).xi + 2 := by simp [wordCount, hm, Xm.ofNat, Nat.add_comm]
  rw [Words, he, hf, tail_withAddr m hp, hi, ← hu, xm_toNat_ofNat hx, count]
  rfl

/-! ### Scalars, immediates and control -/

theorem words_scalar (hw : w < 2 ^ 32) (hx : x < 2 ^ 32) (hc : fld w 28 4 = 0) (h : parseScalar w x = .ok i) :
    Words w x y i := by
  have whole := word_fields hw
  unfold parseScalar at h
  split at h
  all_goals
    rename_i ho
    simp only [ok_ok, okIf_ok, xm_only_iff, beq_iff_eq, reduceCtorEq] at h
  case h_16 =>
    obtain ⟨hu, rfl⟩ := h
    refine words_xm (u := { c := (n7 (Xm.ofNat x).c).val }) rfl ?_ hx ?_ rfl (by simp [hasXm, hc, ho])
    · simp only [wd, r7_val]; omega
    · rwa [n7_val (ofNat_fits x).c]
  all_goals
    obtain ⟨hz, rfl⟩ := h
    refine words_one rfl ?_ (by simp [hasXm, hc, ho]) (by simp [hasXi, hc])
    simp only [wd, r7_val]
    omega

theorem words_imm (hw : w < 2 ^ 32) (hx : x < 2 ^ 32) (hc : fld w 28 4 = 1) (h : parseImm w x = .ok i) :
    Words w x y i := by
  have whole := word_fields hw
  have low := fld_low w
  have hm : hasXm w = false := by simp [hasXm, hc]
  unfold parseImm at h
  split at h
  case h_5 ho | h_6 ho | h_7 ho =>
    split at h
    · next r hr =>
      cases h
      refine words_one rfl ?_ hm (by simp [hasXi, hc, ho])
      simp only [wd, r7_val, specReg_ofCode.mp hr]
      omega
    · cases h
  all_goals
    rename_i ho
    simp only [ok_ok, okIf_ok, beq_iff_eq, reduceCtorEq] at h
  case h_3 | h_4 =>
    obtain ⟨hz, rfl⟩ := h
    refine words_xi rfl ?_ (Nat.mod_eq_of_lt hx) hm (by simp [hasXi, hc, ho])
    simp only [wd, r7_val]
    omega
  all_goals
    obtain ⟨hz, rfl⟩ := h
    refine words_one rfl ?_ hm (by simp [hasXi, hc, ho])
    simp only [wd, r7_val, imm_val]
    omega

theorem words_control (hw : w < 2 ^ 32) (hc : fld w 28 4 = 2) (h : parseControl w = .ok i) : Words w x y i := by
  have whole := word_fields hw
  have low := fld_low w
  have all := fld_operands w
  have branch : fld w 0 21 = fld w 0 17 + 2 ^ 17 * fld w 17 4 := fld_add w 0 17 4
  have pad : fld w 0 21 = fld w 0 2 + 2 ^ 2 * fld w 2 19 := fld_add w 0 2 19
  have mask : fld w 14 7 = fld w 14 3 + 2 ^ 3 * fld w 17 4 := fld_add w 14 3 4
  have above : fld w 7 14 = fld w 7 7 + 2 ^ 7 * fld w 14 7 := fld_add w 7 7 7
  have join : fld w 7 14 = fld w 7 3 + 2 ^ 3 * fld w 10 11 := fld_add w 7 3 11
  unfold parseControl at h
  split at h
  all_goals
    rename_i ho
    simp only [ok_ok, okIf_ok, Bool.and_eq_true, beq_iff_eq, reduceCtorEq] at h
  all_goals
    obtain ⟨hz, rfl⟩ := h
    refine words_one rfl ?_ (by simp [hasXm, hc]) (by simp [hasXi, hc])
    simp only [wd, r7_val, r4_val, r3_val, r2_val, imm_val]
    omega

/-! ### Vectors -/

theorem words_vector (hw : w < 2 ^ 32) (hx : x < 2 ^ 32) (hc : fld w 28 4 = 3) (h : parseVector w x = .ok i) :
    Words w x y i := by
  have whole := word_fields hw
  have low := fld_low w
  have pred := fld_dest4 w
  unfold parseVector at h
  split at h
  all_goals
    rename_i ho
    simp only [ok_ok, okIf_ok, xm_only_iff, Bool.and_eq_true, decide_eq_true_eq, beq_iff_eq, reduceCtorEq] at h
  case h_6 | h_21 | h_22 | h_23 =>
    obtain ⟨hu, rfl⟩ := h
    refine words_xm (u := { c := (n7 (Xm.ofNat x).c).val }) rfl ?_ hx ?_ rfl (by simp [hasXm, hc, ho])
    · simp only [wd, r7_val]; omega
    · rwa [n7_val (ofNat_fits x).c]
  case h_7 | h_24 =>
    obtain ⟨⟨hu, hp⟩, rfl⟩ := h
    refine words_xm (u := { c := (n4 (Xm.ofNat x).c).val }) rfl ?_ hx ?_ rfl (by simp [hasXm, hc, ho])
    · simp only [wd, r7_val]; omega
    · rwa [n4_val hp]
  case h_27 =>
    obtain ⟨hz, rfl⟩ := h
    refine words_xi rfl ?_ (Nat.mod_eq_of_lt hx) (by simp [hasXm, hc, ho]) (by simp [hasXi, hc, ho])
    simp only [wd, r7_val]
    omega
  all_goals
    obtain ⟨hz, rfl⟩ := h
    refine words_one rfl ?_ (by simp [hasXm, hc, ho]) (by simp [hasXi, hc, ho])
    simp only [wd, r7_val, r4_val, imm_val]
    omega

theorem words_cross (hw : w < 2 ^ 32) (hx : x < 2 ^ 32) (hc : fld w 28 4 = 6) (h : parseCross w x = .ok i) :
    Words w x y i := by
  have whole := word_fields hw
  have low := fld_low w
  have dest := fld_dest4 w
  have first := fld_first4 w
  have second := fld_second4 w
  unfold parseCross at h
  dsimp only at h
  split at h
  case h_16 ho | h_17 ho =>
    split at h
    · next o t hop hty =>
      simp only [okIf_ok, xm_only_iff, Bool.and_eq_true, beq_iff_eq] at h
      obtain ⟨⟨hu, hz⟩, rfl⟩ := h
      refine words_xm (u := { rnd := (Rnd.ofCode (Xm.ofNat x).rnd).code, opc := o.code, tya := t.code }) rfl ?_ hx ?_
        rfl (by simp [hasXm, hc, ho])
      · simp only [wd, r7_val]; omega
      · rwa [rnd_code_ofCode (ofNat_fits x).rnd, redOp_ofCode.mp hop, redTy_ofCode.mp hty]
    · cases h
  all_goals
    rename_i ho
    simp only [ok_ok, okIf_ok, Bool.and_eq_true, beq_iff_eq, reduceCtorEq] at h
  all_goals
    obtain ⟨hz, rfl⟩ := h
    refine words_one rfl ?_ (by simp [hasXm, hc, ho]) (by simp [hasXi, hc])
    simp only [wd, r7_val, r4_val]
    omega

/-! ### Floats and conversions -/

theorem words_float (hw : w < 2 ^ 32) (hx : x < 2 ^ 32) (hc : fld w 28 4 = 4) (h : parseFloat w x = .ok i) :
    Words w x y i := by
  have whole := word_fields hw
  have pred := fld_dest4 w
  have rnd : (Rnd.ofCode (fld w 21 2)).code = fld w 21 2 := rnd_code_ofCode (Nat.mod_lt _ (by decide))
  have ty : (FTy.ofCode (fld w 23 2)).code = fld w 23 2 := fTy_code_ofCode (Nat.mod_lt _ (by decide))
  have mode : fld w 21 4 = fld w 21 2 + 2 ^ 2 * fld w 23 2 := fld_add w 21 2 2
  have opcode : fld w 21 7 = fld w 21 4 + 2 ^ 4 * fld w 25 3 := fld_add w 21 4 3
  have modes : fld w 21 4 < 16 := Nat.mod_lt _ (by decide)
  have op : fld w 21 7 / 16 = fld w 25 3 := by omega
  unfold parseFloat at h
  dsimp only at h
  split at h
  case h_4 ho =>
    simp only [okIf_ok, xm_only_iff] at h
    obtain ⟨hu, rfl⟩ := h
    refine words_xm (u := { c := (n7 (Xm.ofNat x).c).val }) rfl ?_ hx ?_ rfl (by simp [hasXm, hc, op, ho])
    · simp only [wd, r7_val, rnd, ty]; omega
    · rwa [n7_val (ofNat_fits x).c]
  case h_7 ho =>
    split at h
    · next c hop =>
      simp only [okIf_ok, xm_only_iff, Bool.and_eq_true, beq_iff_eq] at h
      obtain ⟨⟨⟨hu, hz⟩, hp⟩, rfl⟩ := h
      refine words_xm (u := { opc := c.code }) rfl ?_ hx ?_ rfl (by simp [hasXm, hc, op, ho])
      · simp only [wd, r7_val, r4_val, ty]; omega
      · rwa [fCond_ofCode.mp hop]
    · cases h
  case h_8 =>
    have ho : fld w 25 3 = 7 := by
      have : fld w 25 3 < 8 := Nat.mod_lt _ (by decide)
      simp only [imp_false] at *
      omega
    split at h
    case h_3 => cases h
    all_goals
      next half =>
      cases h
      rw [half] at ty
      refine words_one rfl ?_ (by simp [hasXm, hc, op, ho]) (by simp [hasXi, hc])
      simp only [wd, r7_val, rnd, Half.code, FTy.code] at ty ⊢
      omega
  all_goals
    rename_i ho
    simp only [ok_ok, okIf_ok, beq_iff_eq] at h
    obtain ⟨hz, rfl⟩ := h
    refine words_one rfl ?_ (by simp [hasXm, hc, op, ho]) (by simp [hasXi, hc])
    simp only [wd, r7_val, rnd, ty]
    omega

theorem words_convert (hw : w < 2 ^ 32) (hx : x < 2 ^ 32) (hc : fld w 28 4 = 5) (h : parseConvert w x = .ok i) :
    Words w x y i := by
  have whole := word_fields hw
  have rnd : (Rnd.ofCode (fld w 22 2)).code = fld w 22 2 := rnd_code_ofCode (Nat.mod_lt _ (by decide))
  have prec : (Prec.ofCode (fld w 21 1)).code = fld w 21 1 := prec_code_ofCode (Nat.mod_lt _ (by decide))
  have mode : fld w 21 3 = fld w 21 1 + 2 ^ 1 * fld w 22 2 := fld_add w 21 1 2
  have opcode : fld w 21 7 = fld w 21 3 + 2 ^ 3 * fld w 24 4 := fld_add w 21 3 4
  have modes : fld w 21 3 < 8 := Nat.mod_lt _ (by decide)
  have op : fld w 21 7 / 8 = fld w 24 4 := by omega
  unfold parseConvert at h
  dsimp only at h
  split at h
  case h_1 ho =>
    split at h
    · next p q hp hq =>
      simp only [okIf_ok, xm_only_iff, Bool.and_eq_true, beq_iff_eq] at h
      obtain ⟨⟨⟨hu, hz⟩, ht⟩, rfl⟩ := h
      refine words_xm (u := { tya := p.code, tyb := q.code }) rfl ?_ hx ?_ rfl (by simp [hasXm, hc, op, ho])
      · simp only [wd, r7_val, rnd]; omega
      · rwa [numTy_ofCode.mp hp, numTy_ofCode.mp hq]
    · cases h
  case h_2 ho =>
    split at h
    · next p hp =>
      simp only [okIf_ok, xm_only_iff, Bool.and_eq_true, beq_iff_eq] at h
      obtain ⟨⟨⟨hu, hz⟩, ht⟩, rfl⟩ := h
      refine words_xm (u := { tya := p.dst.code, tyb := p.src.code }) rfl ?_ hx ?_ rfl (by simp [hasXm, hc, op, ho])
      · simp only [wd, r7_val, rnd]; omega
      · rwa [(narrow_ofCodes.mp hp).1, (narrow_ofCodes.mp hp).2]
    · cases h
  all_goals
    rename_i ho
    simp only [ok_ok, okIf_ok, Bool.and_eq_true, beq_iff_eq, reduceCtorEq] at h
  all_goals
    obtain ⟨hz, rfl⟩ := h
    refine words_one rfl ?_ (by simp [hasXm, hc, op, ho]) (by simp [hasXi, hc])
    simp only [wd, r7_val, rnd, prec]
    omega

/-! ### Synchronisation, engines, generators, graphics, the service -/

theorem words_sync (hw : w < 2 ^ 32) (hc : fld w 28 4 = 9) (h : parseSync w = .ok i) : Words w x y i := by
  have whole := word_fields hw
  have low := fld_low w
  have all := fld_operands w
  have scope : fld w 0 21 = fld w 0 3 + 2 ^ 3 * fld w 3 18 := fld_add w 0 3 18
  have hm : hasXm w = false := by simp [hasXm, hc]
  have hi : hasXi w = false := by simp [hasXi, hc]
  unfold parseSync at h
  split at h
  case h_14 | h_15 | h_16 =>
    split at h
    · next v hv =>
      obtain ⟨hz, rfl⟩ := okIf_ok.mp h
      refine words_one rfl ?_ hm hi
      simp only [wd, scope_ofCode.mp hv, beq_iff_eq] at hz ⊢
      omega
    · cases h
  all_goals
    rename_i ho
    simp only [ok_ok, okIf_ok, Bool.and_eq_true, beq_iff_eq, reduceCtorEq] at h
  all_goals
    obtain ⟨hz, rfl⟩ := h
    refine words_one rfl ?_ hm hi
    simp only [wd, r7_val, imm_val]
    omega

/-- The XM word of a matrix step says its shape and its operands' type, twice, and nothing else (R142). -/
theorem mat_fields {v : Xm} {t : MatTy} {z : MatShape}
    (hu : v.only { c := v.c, opc := v.opc, tya := v.tya, tyb := v.tyb })
    (ht : MatTy.ofCode v.tya = some t) (ht' : MatTy.ofCode v.tyb = some t) (hz : MatShape.ofCodes v.opc v.c = some z) :
    v = { c := z.viewNo, opc := z.code, tya := t.code, tyb := t.code } := by
  obtain ⟨hop, hview⟩ := matShape_ofCodes.mp hz
  rw [hview, hop]
  have hu := xm_only_iff.mp hu
  rwa [← matTy_ofCode.mp ht, ← matTy_ofCode.mp ht'] at hu

/-- MMA decodes with one type for both operands, its fields in XM, and nothing else there (R142, R262). -/
theorem parseMma_ok {v : Xm} (h : parseMma w v = .ok i) : ∃ (t : MatTy) (z : MatShape),
    v = { c := z.viewNo, opc := z.code, tya := t.code, tyb := t.code } ∧ fld w 18 3 = 0 ∧
      i = .mma t z (r4 w 14) (r7 w 7) (r7 w 0) := by
  unfold parseMma at h
  split at h
  · next t t' z ht ht' hz =>
    split at h
    · cases h
    · next fields =>
      split at h
      · cases h
      · next types =>
        cases h
        simp only [Bool.or_eq_true, Bool.not_eq_true', bne_iff_ne, not_or, Bool.not_eq_false, not_not] at fields
        obtain ⟨hu, hd⟩ := fields
        obtain rfl : t = t' := by_contra fun ne => types (.inl ne)
        exact ⟨t, z, mat_fields hu ht ht' hz, hd, rfl⟩
  · cases h

/-- MLOOP decodes likewise, its second field 0 (R142, R266). -/
theorem parseMloop_ok {v : Xm} (h : parseMloop w v = .ok i) : ∃ (t : MatTy) (z : MatShape),
    v = { c := z.viewNo, opc := z.code, tya := t.code, tyb := t.code } ∧ fld w 18 3 = 0 ∧ fld w 0 7 = 0 ∧
      i = .mloop t z (r4 w 14) (r7 w 7) := by
  unfold parseMloop at h
  split at h
  · next t t' z ht ht' hz =>
    split at h
    · cases h
    · next fields =>
      split at h
      · cases h
      · next types =>
        cases h
        simp only [Bool.or_eq_true, Bool.not_eq_true', bne_iff_ne, not_or, Bool.not_eq_false, not_not] at fields
        obtain ⟨⟨⟨hu, hd⟩, hb⟩, -⟩ := fields
        obtain rfl : t = t' := by_contra fun ne => types (.inl ne)
        refine ⟨t, z, mat_fields hu ht ht' hz, hd, hb, rfl⟩
  · cases h

theorem words_matrix (hw : w < 2 ^ 32) (hx : x < 2 ^ 32) (hc : fld w 28 4 = 10) (h : parseMatrix w x = .ok i) :
    Words w x y i := by
  have whole := word_fields hw
  have low := fld_low w
  have dest := fld_dest4 w
  have first := fld_first4 w
  unfold parseMatrix at h
  dsimp only at h
  split at h
  case h_1 ho =>
    obtain ⟨t, z, hu, hd, rfl⟩ := parseMma_ok h
    refine words_xm rfl ?_ hx hu rfl (by simp [hasXm, hc, ho])
    simp only [wd, r7_val, r4_val]
    omega
  case h_2 ho =>
    obtain ⟨t, z, hu, hd, hz, rfl⟩ := parseMloop_ok h
    refine words_xm rfl ?_ hx hu rfl (by simp [hasXm, hc, ho])
    simp only [wd, r7_val, r4_val]
    omega
  case h_4 ho | h_5 ho =>
    split at h
    · next t ht =>
      obtain ⟨hz, rfl⟩ := okIf_ok.mp h
      refine words_one rfl ?_ (by simp [hasXm, hc, ho]) (by simp [hasXi, hc])
      simp only [wd, r7_val, r4_val, tileTy_ofCode.mp ht, beq_iff_eq] at hz ⊢
      omega
    · cases h
  case h_6 ho =>
    split at h
    · next k hk =>
      simp only [okIf_ok, xm_only_iff, Bool.and_eq_true, beq_iff_eq] at h
      obtain ⟨⟨⟨hu, hz⟩, ht⟩, rfl⟩ := h
      refine words_xm (u := { tya := k.tya, tyb := k.tyb }) rfl ?_ hx ?_ rfl (by simp [hasXm, hc, ho])
      · simp only [wd, r7_val, r4_val]; omega
      · rwa [(quantTy_ofCodes.mp hk).1, (quantTy_ofCodes.mp hk).2]
    · cases h
  all_goals
    rename_i ho
    simp only [okIf_ok, Bool.and_eq_true, beq_iff_eq, reduceCtorEq] at h
  all_goals
    obtain ⟨hz, rfl⟩ := h
    refine words_one rfl ?_ (by simp [hasXm, hc, ho]) (by simp [hasXi, hc])
    simp only [wd, r7_val, r4_val]
    omega

theorem words_hyper (hw : w < 2 ^ 32) (hx : x < 2 ^ 32) (hc : fld w 28 4 = 11) (h : parseHyper w x = .ok i) :
    Words w x y i := by
  have whole := word_fields hw
  have low := fld_low w
  have dest := fld_dest4 w
  have first := fld_first4 w
  have second := fld_second4 w
  have counter : fld w 14 7 = fld w 14 2 + 2 ^ 2 * fld w 16 5 := fld_add w 14 2 5
  have counted : fld w 7 7 = fld w 7 2 + 2 ^ 2 * fld w 9 5 := fld_add w 7 2 5
  have above : fld w 7 14 = fld w 7 7 + 2 ^ 7 * fld w 14 7 := fld_add w 7 7 7
  have tie : fld w 7 14 = fld w 7 4 + 2 ^ 4 * fld w 11 10 := fld_add w 7 4 10
  unfold parseHyper at h
  split at h
  all_goals
    rename_i ho
    simp only [okIf_ok, xm_only_iff, Bool.and_eq_true, beq_iff_eq, reduceCtorEq] at h
  case h_10 =>
    obtain ⟨⟨⟨hu, ha⟩, hb⟩, rfl⟩ := h
    refine words_xm (u := { c := (n7 (Xm.ofNat x).c).val }) rfl ?_ hx ?_ rfl (by simp [hasXm, hc, ho])
    · simp only [wd, r7_val, r4_val]; omega
    · rwa [n7_val (ofNat_fits x).c]
  all_goals
    obtain ⟨hz, rfl⟩ := h
    refine words_one rfl ?_ (by simp [hasXm, hc, ho]) (by simp [hasXi, hc])
    simp only [wd, r7_val, r4_val, r2_val, imm_val]
    omega

theorem words_gen (hw : w < 2 ^ 32) (hx : x < 2 ^ 32) (hc : fld w 28 4 = 12) (h : parseGen w x = .ok i) :
    Words w x y i := by
  have whole := word_fields hw
  have low := fld_low w
  have all := fld_operands w
  have hm : hasXm w = false := by simp [hasXm, hc]
  unfold parseGen at h
  split at h
  case h_1 ho | h_2 ho | h_3 ho | h_4 ho =>
    split at h
    · obtain ⟨hz, rfl⟩ := okIf_ok.mp h
      refine words_xi rfl ?_ (Nat.mod_eq_of_lt hx) hm (by simp [hasXi, hc, ho])
      simp only [wd, r7_val, beq_iff_eq] at hz ⊢
      omega
    · cases h
  all_goals
    rename_i ho
    simp only [okIf_ok, Bool.and_eq_true, beq_iff_eq, reduceCtorEq] at h
  all_goals
    obtain ⟨hz, rfl⟩ := h
    refine words_one rfl ?_ hm (by simp [hasXi, hc, ho])
    simp only [wd, r7_val]
    omega

theorem words_graphics (hw : w < 2 ^ 32) (hc : fld w 28 4 = 13) (h : parseGraphics w = .ok i) : Words w x y i := by
  have whole := word_fields hw
  have low := fld_low w
  have all := fld_operands w
  have target : fld w 14 7 = fld w 14 3 + 2 ^ 3 * fld w 17 4 := fld_add w 14 3 4
  unfold parseGraphics at h
  split at h
  all_goals
    rename_i ho
    simp only [ok_ok, okIf_ok, Bool.and_eq_true, beq_iff_eq, reduceCtorEq] at h
  all_goals
    obtain ⟨hz, rfl⟩ := h
    refine words_one rfl ?_ (by simp [hasXm, hc]) (by simp [hasXi, hc])
    simp only [wd, r7_val, r3_val]
    omega

theorem words_priv (hw : w < 2 ^ 32) (hc : fld w 28 4 = 14) (h : parsePriv w = .ok i) : Words w x y i := by
  have whole := word_fields hw
  have low := fld_low w
  have all := fld_operands w
  unfold parsePriv at h
  split at h
  all_goals
    rename_i ho
    simp only [ok_ok, okIf_ok, Bool.and_eq_true, beq_iff_eq, reduceCtorEq] at h
  all_goals
    obtain ⟨hz, rfl⟩ := h
    refine words_one rfl ?_ (by simp [hasXm, hc]) (by simp [hasXi, hc])
    simp only [wd, r7_val]
    omega

/-- A word of class 0xF that decodes is a hint (R147). -/
theorem words_hint (hw : w < 2 ^ 32) (hc : fld w 28 4 = 15) (h : parseHint w = .ok i) : Words w x y i := by
  unfold parseHint at h
  split at h
  · cases h
  · split at h
    · cases h
    · next hint =>
      cases h
      refine words_one rfl ?_ (by simp [hasXm, hc]) (by simp [hasXi, hc])
      simp only [imm_val, fld] at hc hint ⊢
      omega

/-! ### Loads and stores -/

/-- The opcode of a memory word is its operation, its size and whether XM follows (R139, R140). -/
theorem fld_memOpcode (w : Nat) : fld w 21 7 = fld w 25 3 * 16 + fld w 22 3 * 2 + fld w 21 1 := by
  have size : fld w 21 4 = fld w 21 1 + 2 ^ 1 * fld w 22 3 := fld_add w 21 1 3
  have op : fld w 21 7 = fld w 21 4 + 2 ^ 4 * fld w 25 3 := fld_add w 21 4 3
  omega

/-- The first word of a memory word from its fields. -/
theorem memWord_eq {cls op size xm d b o : Nat} (hw : w < 2 ^ 32) (hc : fld w 28 4 = cls) (ho : fld w 25 3 = op)
    (hz : size = fld w 22 3) (hx : fld w 21 1 = xm) (hd : d = fld w 14 7) (hb : b = fld w 7 7) (hl : o = fld w 0 7) :
    memWord cls op size xm d b o = w := by
  have whole := word_fields hw
  have opcode := fld_memOpcode w
  simp only [memWord, wd]
  omega

theorem words_load (hw : w < 2 ^ 32) (hx : x < 2 ^ 32) (hy : y < 2 ^ 32) (hc : fld w 28 4 = 7)
    (h : parseLoad w x y = .ok i) : Words w x y i := by
  have opcode := fld_memOpcode w
  unfold parseLoad at h
  dsimp only at h
  split at h
  · cases h
  · next z hz =>
    have size := ldSize_ofCode.mp hz
    split at h
    · next plain =>
      have hm : hasXm w = false := by simp [hasXm, hc]; omega
      have hi : hasXi w = false := by simp [hasXi, hc]
      split at h
      case h_5 ho =>
        split at h
        · next s hs =>
          cases h
          exact words_one rfl (memWord_eq hw hc ho (lodSize_ofCode.mp hs) plain rfl rfl (imm_val ..)) hm hi
        · cases h
      case h_6 => cases h
      all_goals
        next ho =>
        cases h
        exact words_one rfl (memWord_eq hw hc ho size plain rfl rfl (imm_val ..)) hm hi
    · next notPlain =>
      have ext : fld w 21 1 = 1 := by
        have : fld w 21 1 < 2 := Nat.mod_lt _ (by decide)
        omega
      have hm : hasXm w = true := by simp [hasXm, hc]; omega
      split at h
      · cases h
      · next m hp =>
        obtain ⟨reg, low, xi, addr⟩ := memX_parse (fld_lt7 w 7) (fld_lt7 w 0) hy (ofNat_fits x) hp
        have hv := ofNat_fits x
        split at h
        case h_1 ho | h_2 ho | h_3 ho | h_4 ho =>
          split at h
          · next q hq =>
            obtain ⟨hu, rfl⟩ := okIf_ok.mp h
            obtain ⟨hs, hm'⟩ := (parseOrd_some (by decide)).mp hq
            refine words_mem (u := { scope := Scope.optCode q, sem := if q.isSome then 1 else 0 }) rfl ⟨rfl, rfl, rfl⟩
              (memWord_eq hw hc ho size ext rfl reg low) hx ?_ xi hm
            rw [addr, hs, hm']
            exact xm_only_iff.mp hu
          · cases h
        case h_5 ho =>
          split at h
          · next s hs =>
            obtain ⟨hu, rfl⟩ := okIf_ok.mp h
            refine words_mem (u := { opc := (n4 (Xm.ofNat x).opc).val }) rfl ⟨rfl, rfl, rfl⟩
              (memWord_eq hw hc ho (lodSize_ofCode.mp hs) ext rfl reg low) hx ?_ xi hm
            rw [addr, n4_val hv.opc]
            exact xm_only_iff.mp hu
          · cases h
        case h_6 ho =>
          simp only [okIf_ok, Bool.and_eq_true, decide_eq_true_eq] at h
          obtain ⟨⟨hu, rfl⟩, rfl⟩ := h
          refine words_mem (u := { c := (n7 (Xm.ofNat x).c).val }) rfl ⟨rfl, rfl, rfl⟩
            (memWord_eq hw hc ho size ext rfl reg low) hx ?_ xi hm
          rw [addr, n7_val hv.c]
          exact xm_only_iff.mp hu
        case h_7 ho =>
          split at h
          · next s k hs hk =>
            simp only [okIf_ok, xm_only_iff, Bool.and_eq_true, beq_iff_eq] at h
            obtain ⟨⟨hu, h0⟩, rfl⟩ := h
            refine words_xm (u := { c := (n7 (Xm.ofNat x).c).val, opc := k.code }) rfl
              (memWord_eq hw hc ho (lodSize_ofCode.mp hs) ext rfl rfl h0.symm) hx ?_ rfl hm
            rwa [n7_val hv.c, texMode_ofCode.mp hk]
          · cases h
        case h_8 =>
          have ho : fld w 25 3 = 7 := by
            have : fld w 25 3 < 8 := Nat.mod_lt _ (by decide)
            simp only [imp_false] at *
            omega
          split at h
          · simp only [okIf_ok, xm_only_iff, Bool.and_eq_true, beq_iff_eq, decide_eq_true_eq] at h
            obtain ⟨⟨⟨hu, h0⟩, rfl⟩, rfl⟩ := h
            refine words_xm (u := { c := (n7 (Xm.ofNat x).c).val, opc := (Xm.ofNat x).opc }) rfl
              (memWord_eq hw hc ho size ext rfl rfl h0.symm) hx ?_ rfl hm
            rwa [n7_val hv.c]
          · cases h

/-- An atomic's words, whatever it makes of its operation, type, semantics and scope (R140). -/
theorem words_atomic {m : MemX} {op size d : Nat} {wide : Bool} {mk : AtomOp → AtomTy → Sem → Scope → Instr}
    (hw : w < 2 ^ 32) (hx : x < 2 ^ 32) (hy : y < 2 ^ 32) (hc : fld w 28 4 = 8) (ho : fld w 25 3 = op)
    (ext : fld w 21 1 = 1) (hz : size = fld w 22 3) (hd : d = fld w 14 7)
    (hp : MemX.parse (fld w 7 7) (fld w 0 7) (Xm.ofNat x) y = some m)
    (he : ∀ o t q s, t.is64 = wide → encode (mk o t q s) = memWord 8 op size 1 d m.reg m.low ::
      m.tail { c := (n7 (Xm.ofNat x).c).val, scope := s.code, sem := q.code, opc := o.code, tya := t.code })
    (h : parseAtomic (Xm.ofNat x) wide mk = .ok i) : Words w x y i := by
  have opcode := fld_memOpcode w
  have hv := ofNat_fits x
  obtain ⟨reg, low, xi, addr⟩ := memX_parse (fld_lt7 w 7) (fld_lt7 w 0) hy hv hp
  obtain ⟨o, t, q, s, h64, hu, rfl⟩ := (parseAtomic_ok hv.sem).mp h
  refine words_mem (he o t q s h64) ⟨rfl, rfl, rfl⟩ (memWord_eq hw hc ho hz ext hd reg low) hx ?_ xi
    (by simp [hasXm, hc]; omega)
  rw [addr, n7_val hv.c]
  exact hu

theorem words_stores (hw : w < 2 ^ 32) (hx : x < 2 ^ 32) (hy : y < 2 ^ 32) (hc : fld w 28 4 = 8)
    (h : parseStores w x y = .ok i) : Words w x y i := by
  have opcode := fld_memOpcode w
  unfold parseStores at h
  dsimp only at h
  split at h
  · next plain =>
    have hm : hasXm w = false := by simp [hasXm, hc]; omega
    have hi : hasXi w = false := by simp [hasXi, hc]
    split at h
    case h_5 => cases h
    all_goals
      next hz ho =>
      cases h
      exact words_one rfl (memWord_eq hw hc ho (ldSize_ofCode.mp hz) plain rfl rfl (imm_val ..)) hm hi
  · next notPlain =>
    have ext : fld w 21 1 = 1 := by
      have : fld w 21 1 < 2 := Nat.mod_lt _ (by decide)
      omega
    have hm : hasXm w = true := by simp [hasXm, hc]; omega
    split at h
    · cases h
    · next m hp =>
      obtain ⟨reg, low, xi, addr⟩ := memX_parse (fld_lt7 w 7) (fld_lt7 w 0) hy (ofNat_fits x) hp
      have hv := ofNat_fits x
      split at h
      · next ho =>
        have wide : fld w 22 3 = fld w 22 1 + 2 ^ 1 * fld w 23 2 := fld_add w 22 1 2
        have bit : fld w 22 1 < 2 := Nat.mod_lt _ (by decide)
        split at h
        · next hs =>
          split at h
          · next hd =>
            refine words_atomic (size := if (fld w 22 1 == 1) then 1 else 0) hw hx hy hc ho ext ?_ hd.symm hp
              (fun o t q s h => h ▸ rfl) h
            simp only [beq_iff_eq]
            split <;> omega
          · cases h
        · split at h
          · next hs =>
            refine words_atomic (size := 4 + if (fld w 22 1 == 1) then 1 else 0) hw hx hy hc ho ext ?_ rfl hp
              (fun o t q s h => h ▸ rfl) h
            simp only [beq_iff_eq]
            split <;> omega
          · cases h
      · next no7 =>
        split at h
        · cases h
        · next z hz =>
          have size := ldSize_ofCode.mp hz
          split at h
          case h_1 ho | h_2 ho | h_3 ho | h_4 ho =>
            obtain ⟨n, q, hu, rfl⟩ := parseStore_ok.mp h
            refine words_mem (u := { scope := Scope.optCode q, sem := if q.isSome then 2 else 0, tya := n.code }) rfl
              ⟨rfl, rfl, rfl⟩ (memWord_eq hw hc ho size ext rfl reg low) hx ?_ xi hm
            rw [addr]
            exact hu
          case h_5 ho =>
            split at h
            · next k hk =>
              simp only [okIf_ok, Bool.and_eq_true, decide_eq_true_eq] at h
              obtain ⟨⟨hu, rfl⟩, rfl⟩ := h
              obtain ⟨htya, htyb⟩ := brickTy_ofCodes.mp hk
              refine words_mem (u := { tya := k.tya, tyb := k.tyb }) rfl ⟨rfl, rfl, rfl⟩
                (memWord_eq hw hc ho size ext rfl reg low) hx ?_ xi hm
              rw [addr, htya, htyb]
              exact xm_only_iff.mp hu
            · cases h
          case h_6 ho =>
            split at h
            · next narrow =>
              refine words_atomic (size := if decide (z = .b64) then 3 else 2) hw hx hy hc ho ext ?_ rfl hp
                (fun o t q s h => h ▸ rfl) h
              rw [← size]
              obtain rfl | rfl := narrow <;> rfl
            · cases h
          case h_7 =>
            have ho : fld w 25 3 = 6 := by
              have : fld w 25 3 < 8 := Nat.mod_lt _ (by decide)
              simp only [imp_false] at *
              omega
            split at h
            · next narrow =>
              refine words_atomic (size := if decide (z = .b64) then 3 else 2) hw hx hy hc ho ext ?_ rfl hp
                (fun o t q s h => h ▸ rfl) h
              rw [← size]
              obtain rfl | rfl := narrow <;> rfl
            · cases h

/-! ### Every class -/

theorem parse_words (hw : w < 2 ^ 32) (hx : x < 2 ^ 32) (hy : y < 2 ^ 32) (h : parse w x y = .ok i) :
    Words w x y i := by
  unfold parse at h
  split at h
  case h_1 hc => exact words_scalar hw hx hc h
  case h_2 hc => exact words_imm hw hx hc h
  case h_3 hc => exact words_control hw hc h
  case h_4 hc => exact words_vector hw hx hc h
  case h_5 hc => exact words_float hw hx hc h
  case h_6 hc => exact words_convert hw hx hc h
  case h_7 hc => exact words_cross hw hx hc h
  case h_8 hc => exact words_load hw hx hy hc h
  case h_9 hc => exact words_stores hw hx hy hc h
  case h_10 hc => exact words_sync hw hc h
  case h_11 hc => exact words_matrix hw hx hc h
  case h_12 hc => exact words_hyper hw hx hc h
  case h_13 hc => exact words_gen hw hx hc h
  case h_14 hc => exact words_graphics hw hc h
  case h_15 hc => exact words_priv hw hc h
  case h_16 =>
    refine words_hint hw ?_ h
    have : fld w 28 4 < 16 := Nat.mod_lt _ (by decide)
    simp only [imp_false] at *
    omega

/-- What decodes is what parses and meets the limits of its entry (R126). -/
theorem decode_ok : decode w x y = .ok i ↔ parse w x y = .ok i ∧ i.wellFormed = true := by
  unfold decode
  constructor
  · intro h
    split at h
    · next j hj =>
      split at h
      · next wf =>
        cases h
        exact ⟨hj, wf⟩
      · cases h
    · cases h
  · rintro ⟨hp, wf⟩
    simp [hp, wf]

/-- Settles O3: what decodes is well formed as `decode` checks it, and the words of each class are those read
(`parse_words`), since every field that its instruction does not hold is checked to be 0. -/
theorem encodeDecode : Obligations.EncodeDecode := by
  intro w x y i hw hx hy h
  obtain ⟨hp, wf⟩ := decode_ok.mp h
  exact ⟨wf, parse_words hw hx hy hp⟩

end Sys2Proof.Proofs
end

section
/-! Decoding what the encoder writes (O2): the fields of an encoded word are what was put there, so that each class
reads its instruction back (06 R125, R128, R132 to R147). -/

namespace Sys2Proof.Proofs

open Sys2Proof.Laws

variable {w x n op d a b cls size xm o : Nat} {i : Instr} {u : Xm}

/-! ### Fields of an encoded word -/

theorem fld_dest_wd (hd : d < 2 ^ 7) (h : a * 2 ^ 7 + b < 2 ^ 14) : fld (wd op d a b) 14 7 = d := by
  simp only [fld, wd]; omega

theorem fld_first_wd (ha : a < 2 ^ 7) (hb : b < 2 ^ 7) : fld (wd op d a b) 7 7 = a := by
  simp only [fld, wd]; omega

theorem fld_second_wd (hb : b < 2 ^ 7) : fld (wd op d a b) 0 7 = b := by
  simp only [fld, wd]; omega

theorem fld_low_wd (hb : b < 2 ^ 14) : fld (wd op d 0 b) 0 14 = b := by
  simp only [fld, wd]; omega

theorem fld_operands_wd : fld (wd op 0 0 0) 0 21 = 0 := by
  simp only [fld, wd]; omega

/-! The bits above a register field of fewer than seven bits are 0. -/

theorem fld_dest4_wd {d : Fin 16} (h : a * 2 ^ 7 + b < 2 ^ 14) : fld (wd op d.val a b) 18 3 = 0 := by
  simp only [fld, wd]; omega

theorem fld_dest3_wd {d : Fin 8} (h : a * 2 ^ 7 + b < 2 ^ 14) : fld (wd op d.val a b) 17 4 = 0 := by
  simp only [fld, wd]; omega

theorem fld_dest2_wd {d : Fin 4} (h : a * 2 ^ 7 + b < 2 ^ 14) : fld (wd op d.val a b) 16 5 = 0 := by
  simp only [fld, wd]; omega

theorem fld_first4_wd {a : Fin 16} (h : b < 2 ^ 7) : fld (wd op d a.val b) 11 3 = 0 := by
  simp only [fld, wd]; omega

theorem fld_first2_wd {a : Fin 4} (h : b < 2 ^ 7) : fld (wd op d a.val b) 9 5 = 0 := by
  simp only [fld, wd]; omega

theorem fld_second4_wd {b : Fin 16} : fld (wd op d a b.val) 4 3 = 0 := by
  simp only [fld, wd]; omega

theorem fld_join_wd {a : Fin 8} : fld (wd op 0 a.val 0) 10 11 = 0 := by
  simp only [fld, wd]; omega

theorem fld_tie_wd {a : Fin 16} : fld (wd op 0 a.val 0) 11 10 = 0 := by
  simp only [fld, wd]; omega

theorem fld_pad_wd {b : Fin 4} : fld (wd op 0 0 b.val) 2 19 = 0 := by
  simp only [fld, wd]; omega

theorem fld_scope_wd (h : b < 2 ^ 3) : fld (wd op 0 0 b) 0 3 = b ∧ fld (wd op 0 0 b) 3 18 = 0 := by
  simp only [fld, wd]; omega

theorem r3_dest_wd {d : Fin 8} (h : a * 2 ^ 7 + b < 2 ^ 14) : r3 (wd op d.val a b) 14 = d := by
  apply Fin.ext; simp only [r3, wd]; omega

theorem r3_first_wd {a : Fin 8} (h : b < 2 ^ 7) : r3 (wd op d a.val b) 7 = a := by
  apply Fin.ext; simp only [r3, wd]; omega

theorem r2_dest_wd {d : Fin 4} (h : a * 2 ^ 7 + b < 2 ^ 14) : r2 (wd op d.val a b) 14 = d := by
  apply Fin.ext; simp only [r2, wd]; omega

theorem r2_first_wd {a : Fin 4} (h : b < 2 ^ 7) : r2 (wd op d a.val b) 7 = a := by
  apply Fin.ext; simp only [r2, wd]; omega

theorem r2_second_wd {b : Fin 4} : r2 (wd op d a b.val) 0 = b := by
  apply Fin.ext; simp only [r2, wd]; omega

theorem n7_self (r : Fin 128) : n7 r.val = r := Fin.ext (n7_val r.isLt)

theorem n4_self (r : Fin 16) : n4 r.val = r := Fin.ext (n4_val r.isLt)

/-! ### Classes -/

/-- The class of an instruction's word (R131); a step of the device has no word. -/
def wordClass : Instr → Option (Fin 16)
  | .sadd .. | .ssub .. | .smul .. | .smulh .. | .smulhU .. | .sand .. | .sor .. | .sxor .. | .sshl .. | .sshr ..
  | .ssar .. | .smin .. | .smax .. | .sminu .. | .smaxu .. | .ssel .. | .sclz .. | .spop .. | .smov .. | .scmpEq ..
  | .scmpNe .. | .scmpLt .. | .scmpLe .. | .scmpGt .. | .scmpGe .. | .scmpLtu .. | .scmpLeu .. | .scmpGtu ..
  | .scmpGeu .. => some 0
  | .smovi .. | .saddiShort .. | .saddiXi .. | .slit .. | .srdS .. | .srdV .. | .swr .. | .swin .. | .vwin .. => some 1
  | .bra .. | .brs .. | .brsZ .. | .jmp .. | .brx .. | .call .. | .callx .. | .ret .. | .lpad .. | .kset .. | .join ..
  | .exitLanes | .trap .. | .brk .. | .nop | .perf .. | .launch .. | .launchOrd .. | .renq .. | .rdeq ..
  | .svc .. => some 2
  | .vadd .. | .vsub .. | .vmul .. | .vmulhS32 .. | .vmulhU32 .. | .vmad .. | .vaddc .. | .vand .. | .vor ..
  | .vxor .. | .vshl .. | .vshr .. | .vsar .. | .vminS32 .. | .vminU32 .. | .vmaxS32 .. | .vmaxU32 .. | .vabs ..
  | .vclz .. | .vpop .. | .vbfeS32 .. | .vbfeU32 .. | .vbfi .. | .vsel .. | .vmov .. | .vmovi .. | .vlit ..
  | .vcmpEqS32 .. | .vcmpNeS32 .. | .vcmpLtS32 .. | .vcmpLeS32 .. | .vcmpGtS32 .. | .vcmpGeS32 .. | .vcmpEqU32 ..
  | .vcmpNeU32 .. | .vcmpLtU32 .. | .vcmpLeU32 .. | .vcmpGtU32 .. | .vcmpGeU32 .. => some 3
  | .fadd .. | .fsub .. | .fmul .. | .ffma .. | .fmin .. | .fmax .. | .fcmp .. | .fdot2 .. => some 4
  | .cvt .. | .cvtn .. | .frcp .. | .frsq .. | .fsqrt .. | .fdiv .. | .fexp2 .. | .flog2 .. | .fsin .. | .fcos ..
  | .fround .. | .ffract .. | .fclass .. => some 5
  | .qswapH .. | .qswapV .. | .qswapD .. | .ddxFine .. | .ddxCoarse .. | .ddyFine .. | .ddyCoarse .. | .shflIdx ..
  | .shflUp .. | .shflDown .. | .shflXor .. | .voteAny .. | .voteAll .. | .voteBallot .. | .matchAny .. | .reduce ..
  | .scan .. | .actmask .. | .ishelp .. | .pand .. | .por .. | .pxor .. | .pnot .. | .pmov .. => some 6
  | .ld .. | .ldX .. | .lds .. | .ldsX .. | .ldc .. | .ldcX .. | .sld .. | .sldX .. | .ldlod .. | .ldlodX .. | .ldbrk ..
  | .tex .. | .texg .. => some 7
  | .st .. | .stX .. | .sts .. | .stsX .. | .stc .. | .stcX .. | .sst .. | .sstX .. | .stbrk .. | .atom .. | .atoms ..
  | .red .. | .atomx .. => some 8
  | .cpaB32 .. | .cpaB64 .. | .cpaB128 .. | .cpb .. | .prefr .. | .tokw .. | .femarkFull .. | .femarkEmpty ..
  | .waitcToken .. | .waitcBarrier .. | .bar | .mbara .. | .mbarw .. | .fenceAcq .. | .fenceRel .. | .fenceSc ..
  | .opfence | .xall .. | .cflush .. => some 9
  | .mma .. | .mloop .. | .mzero .. | .mldz .. | .mstz .. | .mqnt .. | .mstat .. => some 10
  | .hld .. | .hst .. | .hmov .. | .hbind .. | .hperm .. | .hbund .. | .hthr .. | .hclrc .. | .hham .. | .hnear ..
  | .htie .. | .hbit .. => some 11
  | .gopenW1 .. | .gopenW2 .. | .gopenW3 .. | .gopenW4 .. | .gyield .. | .gtake .. | .gback | .gdone | .gclose
  | .repack .. | .travb .. | .travs .. | .travc .. | .trave => some 12
  | .draw .. | .vxemit .. | .primemit .. | .pxout .. | .discard | .depw .. | .wrec .. | .linset .. | .watch ..
  | .replay .. => some 13
  | .eret | .ctxsave .. | .ctxload .. | .ovtbl .. | .tlbinv .. | .resfence .. | .pgattr .. | .admitCluster ..
  | .raslog .. | .halt => some 14
  | .hint .. => some 15
  | _ => none

/-- A well-formed instruction with words is decoded from them. -/
def Decodes (i : Instr) : Prop := i.wellFormed = true → encode i ≠ [] → decodeWords (encode i) = .ok i

theorem decodes_one (he : encode i = [w]) (hp : parse w 0 0 = .ok i) : Decodes i := by
  intro wf _
  rw [he]
  exact decode_ok.mpr ⟨hp, wf⟩

theorem decodes_xi (he : encode i = [w, x]) (hp : parse w x 0 = .ok i) : Decodes i := by
  intro wf _
  rw [he]
  exact decode_ok.mpr ⟨hp, wf⟩

/-- With an XM word, which is read by its fields. -/
theorem decodes_xm (he : encode i = [w, u.toNat]) (hu : Laws.Xm.Fits u)
    (hp : ∀ x, Xm.ofNat x = u → i.wellFormed = true → parse w x 0 = .ok i) : Decodes i := by
  intro wf _
  rw [he]
  exact decode_ok.mpr ⟨hp _ (xm_ofNat_toNat hu) wf, wf⟩

theorem decodes_scalar (h : wordClass i = some 0) : Decodes i := by
  cases i <;> cases h
  case ssel =>
    refine decodes_xm rfl (xm_fits (by omega)) fun x hx _ => ?_
    simp (disch := omega) only [parse, parseScalar, fld_class_wd, fld_opcode_wd, r7_dest_wd, r7_first_wd, r7_second_wd,
      Nat.reduceDiv, Nat.reduceMod, okIf_ok, xm_only_iff, hx, n7_self, and_self]
  all_goals
    refine decodes_one rfl ?_
    simp (disch := omega) only [parse, parseScalar, fld_class_wd, fld_opcode_wd, r7_dest_wd, r7_first_wd, r7_second_wd,
      fld_second_wd, Nat.reduceDiv, Nat.reduceMod, okIf_ok, BEq.rfl, and_self]

theorem decodes_imm (h : wordClass i = some 1) : Decodes i := by
  cases i <;> cases h
  case saddiXi | slit =>
    refine decodes_xi rfl ?_
    simp (disch := omega) only [parse, parseImm, fld_class_wd, fld_opcode_wd, r7_dest_wd, r7_first_wd, fld_second_wd,
      fld_low_wd, Nat.reduceDiv, Nat.reduceMod, okIf_ok, BEq.rfl, BitVec.ofNat_toNat, BitVec.setWidth_eq, and_self]
  case srdS d n | srdV d n | swr d n =>
    have := specReg_code_lt n
    refine decodes_one rfl ?_
    simp (disch := omega) only [parse, parseImm, fld_class_wd, fld_opcode_wd, r7_dest_wd, fld_low_wd, Nat.reduceDiv,
      Nat.reduceMod, specReg_ofCode.mpr rfl]
  all_goals
    refine decodes_one rfl ?_
    simp (disch := omega) only [parse, parseImm, fld_class_wd, fld_opcode_wd, r7_dest_wd, r7_first_wd, fld_dest_wd,
      imm7_wd, imm14_wd, Nat.reduceDiv, Nat.reduceMod, okIf_ok, BEq.rfl, and_self]

theorem decodes_control (h : wordClass i = some 2) : Decodes i := by
  cases i <;> cases h
  case bra p o =>
    refine decodes_one rfl ?_
    have hc : fld (0x100 * 2 ^ 21 + p.val * 2 ^ 17 + o.toNat) 28 4 = 2 := by simp only [fld]; omega
    have ho : fld (0x100 * 2 ^ 21 + p.val * 2 ^ 17 + o.toNat) 21 7 = 0 := by simp only [fld]; omega
    have hp : r4 (0x100 * 2 ^ 21 + p.val * 2 ^ 17 + o.toNat) 17 = p := by apply Fin.ext; simp only [r4]; omega
    have hi : imm 17 (0x100 * 2 ^ 21 + p.val * 2 ^ 17 + o.toNat) = o := by
      apply BitVec.eq_of_toNat_eq; simp only [imm, BitVec.toNat_ofNat]; omega
    simp only [parse, hc, parseControl, ho, hp, hi]
  all_goals
    refine decodes_one rfl ?_
    simp (disch := omega) only [parse, parseControl, fld_class_wd, fld_opcode_wd, r7_dest_wd, r7_first_wd, r7_second_wd,
      r3_dest_wd, r3_first_wd, r2_second_wd, fld_dest_wd, fld_second_wd, fld_low_wd, fld_operands_wd, fld_dest3_wd,
      fld_join_wd, fld_pad_wd, imm14_wd, imm21_wd, Nat.reduceDiv, Nat.reduceMod, okIf_ok,
      BEq.rfl, Bool.and_self, and_self]

theorem decodes_vector (h : wordClass i = some 3) : Decodes i := by
  cases i <;> cases h
  case vmad | vbfeS32 | vbfeU32 | vbfi | vaddc | vsel =>
    refine decodes_xm rfl (xm_fits (by omega)) fun x hx _ => ?_
    simp (disch := omega) only [parse, parseVector, fld_class_wd, fld_opcode_wd, r7_dest_wd, r7_first_wd, r7_second_wd,
      Nat.reduceDiv, Nat.reduceMod, okIf_ok, xm_only_iff, hx, n7_self, n4_self, Bool.and_eq_true, decide_eq_true_eq,
      Fin.is_lt, and_self]
  case vlit =>
    refine decodes_xi rfl ?_
    simp (disch := omega) only [parse, parseVector, fld_class_wd, fld_opcode_wd, r7_dest_wd, fld_low_wd, Nat.reduceDiv,
      Nat.reduceMod, okIf_ok, BEq.rfl, BitVec.ofNat_toNat, BitVec.setWidth_eq, and_self]
  all_goals
    refine decodes_one rfl ?_
    simp (disch := omega) only [parse, parseVector, fld_class_wd, fld_opcode_wd, r7_dest_wd, r7_first_wd, r7_second_wd,
      r4_dest_wd, fld_second_wd, fld_dest4_wd, imm14_wd, Nat.reduceDiv, Nat.reduceMod, okIf_ok, BEq.rfl, and_self]

theorem decodes_cross (h : wordClass i = some 6) : Decodes i := by
  cases i <;> cases h
  case reduce o t r d a | scan o t r d a =>
    have := redOp_code_lt o
    have := redTy_code_lt t
    have := rnd_code_lt r
    refine decodes_xm rfl (xm_fits (by omega)) fun x hx _ => ?_
    simp (disch := omega) only [parse, parseCross, fld_class_wd, fld_opcode_wd, r7_dest_wd, r7_first_wd, fld_second_wd,
      Nat.reduceDiv, Nat.reduceMod, hx, redOp_ofCode.mpr rfl, redTy_ofCode.mpr rfl, rnd_ofCode_code, okIf_ok,
      xm_only_iff, Bool.and_eq_true, BEq.rfl, and_self]
  all_goals
    refine decodes_one rfl ?_
    simp (disch := omega) only [parse, parseCross, fld_class_wd, fld_opcode_wd, r7_dest_wd, r7_first_wd, r7_second_wd,
      r4_dest_wd, r4_first_wd, r4_second_wd, fld_second_wd, fld_low_wd, fld_dest4_wd, fld_first4_wd, fld_second4_wd,
      Nat.reduceDiv, Nat.reduceMod, okIf_ok, BEq.rfl, Bool.and_self, and_self]

theorem decodes_sync (h : wordClass i = some 9) : Decodes i := by
  cases i <;> cases h
  case fenceAcq v | fenceRel v | fenceSc v =>
    have := scope_code_lt v
    refine decodes_one rfl ?_
    simp (disch := omega) only [parse, parseSync, fld_class_wd, fld_opcode_wd, fld_scope_wd, Nat.reduceDiv,
      Nat.reduceMod, scope_ofCode.mpr rfl, okIf_ok, BEq.rfl, and_self]
  all_goals
    refine decodes_one rfl ?_
    simp (disch := omega) only [parse, parseSync, fld_class_wd, fld_opcode_wd, r7_dest_wd, r7_first_wd, r7_second_wd,
      fld_dest_wd, fld_second_wd, fld_operands_wd, imm14_wd, Nat.reduceDiv, Nat.reduceMod, okIf_ok, BEq.rfl,
      Bool.and_self, and_self]

theorem decodes_matrix (h : wordClass i = some 10) : Decodes i := by
  cases i <;> cases h
  case mma t s z a b =>
    have := matTy_code_lt t
    have := matShape_code_lt s
    have := matShape_viewNo_lt s
    refine decodes_xm rfl (xm_fits (by omega)) fun x hx wf => ?_
    have types : ¬ (t ≠ t ∨ s = .deep ∧ t = .bfp) := by simpa [Instr.wellFormed, imp_iff_not_or] using wf
    simp (disch := omega) only [parse, parseMatrix, parseMma, fld_class_wd, fld_opcode_wd, r4_dest_wd, r7_first_wd,
      r7_second_wd, fld_dest4_wd, Nat.reduceDiv, Nat.reduceMod, hx, matTy_ofCode.mpr rfl,
      matShape_ofCodes.mpr ⟨rfl, rfl⟩, xm_only_self, types, if_false, bne_self_eq_false, Bool.not_true, Bool.or_self,
      Bool.false_eq_true]
  case mloop t s z p =>
    have := matTy_code_lt t
    have := matShape_code_lt s
    have := matShape_viewNo_lt s
    refine decodes_xm rfl (xm_fits (by omega)) fun x hx wf => ?_
    simp only [Instr.wellFormed, Bool.and_eq_true, decide_eq_true_eq] at wf
    obtain ⟨⟨even, span⟩, shape⟩ := wf
    have types : ¬ (t ≠ t ∨ s = .deep) := by simpa using shape
    simp (disch := omega) only [parse, parseMatrix, parseMloop, fld_class_wd, fld_opcode_wd, r4_dest_wd, r7_first_wd,
      fld_second_wd, fld_dest4_wd, Nat.reduceDiv, Nat.reduceMod, hx, matTy_ofCode.mpr rfl,
      matShape_ofCodes.mpr ⟨rfl, rfl⟩, xm_only_self, even, span, types, if_false, bne_self_eq_false, Bool.not_true,
      Bool.and_self, Bool.or_self, Bool.false_eq_true]
  case mldz t z a | mstz t z a =>
    have := tileTy_code_lt t
    refine decodes_one rfl ?_
    simp (disch := omega) only [parse, parseMatrix, fld_class_wd, fld_opcode_wd, r4_dest_wd, r7_first_wd, fld_second_wd,
      fld_dest4_wd, Nat.reduceDiv, Nat.reduceMod, tileTy_ofCode.mpr rfl, okIf_ok, BEq.rfl, and_self]
  case mqnt k z a =>
    have := quantTy_tya_lt k
    have := quantTy_tyb_lt k
    refine decodes_xm rfl (xm_fits (by omega)) fun x hx _ => ?_
    simp (disch := omega) only [parse, parseMatrix, fld_class_wd, fld_opcode_wd, r4_dest_wd, r7_first_wd,
      fld_second_wd, fld_dest4_wd, Nat.reduceDiv, Nat.reduceMod, hx, quantTy_ofCodes.mpr ⟨rfl, rfl⟩, okIf_ok,
      xm_only_iff, Bool.and_eq_true, BEq.rfl, and_self]
  all_goals
    refine decodes_one rfl ?_
    simp (disch := omega) only [parse, parseMatrix, fld_class_wd, fld_opcode_wd, r7_dest_wd, r4_dest_wd, r4_first_wd,
      fld_low_wd, fld_second_wd, fld_dest4_wd, fld_first4_wd, Nat.reduceDiv, Nat.reduceMod,
      okIf_ok, BEq.rfl, Bool.and_self, and_self]

theorem decodes_hyper (h : wordClass i = some 11) : Decodes i := by
  cases i <;> cases h
  case hnear =>
    refine decodes_xm rfl (xm_fits (by omega)) fun x hx _ => ?_
    simp (disch := omega) only [parse, parseHyper, fld_class_wd, fld_opcode_wd, r7_dest_wd, r4_first_wd, r4_second_wd,
      fld_first4_wd, fld_second4_wd, Nat.reduceDiv, Nat.reduceMod, okIf_ok, xm_only_iff, hx, n7_self, Bool.and_eq_true,
      BEq.rfl, and_self]
  all_goals
    refine decodes_one rfl ?_
    simp (disch := omega) only [parse, parseHyper, fld_class_wd, fld_opcode_wd, r7_dest_wd, r7_first_wd, r7_second_wd,
      r4_dest_wd, r4_first_wd, r4_second_wd, r2_dest_wd, r2_first_wd, fld_second_wd, fld_low_wd, fld_dest4_wd,
      fld_first4_wd, fld_second4_wd, fld_dest2_wd, fld_first2_wd, fld_tie_wd, imm7_wd, Nat.reduceDiv, Nat.reduceMod,
      okIf_ok, BEq.rfl, Bool.and_self, and_self]

theorem decodes_gen (h : wordClass i = some 12) : Decodes i := by
  cases i <;> cases h
  case gopenW1 p t o | gopenW2 p t o | gopenW3 p t o | gopenW4 p t o =>
    refine decodes_xi rfl ?_
    simp (disch := omega) only [parse, parseGen, fld_class_wd, fld_opcode_wd, r7_dest_wd, fld_first_wd, fld_second_wd,
      Nat.reduceDiv, Nat.reduceMod, okIf_ok, BEq.rfl, BitVec.ofNat_toNat, BitVec.setWidth_eq, Fin.is_lt, dite_true,
      Fin.eta, and_self]
  all_goals
    refine decodes_one rfl ?_
    simp (disch := omega) only [parse, parseGen, fld_class_wd, fld_opcode_wd, r7_dest_wd, r7_first_wd, r7_second_wd,
      fld_dest_wd, fld_second_wd, fld_low_wd, fld_operands_wd, Nat.reduceDiv, Nat.reduceMod,
      okIf_ok, BEq.rfl, Bool.and_self, and_self]

theorem decodes_graphics (h : wordClass i = some 13) : Decodes i := by
  cases i <;> cases h
  all_goals
    refine decodes_one rfl ?_
    simp (disch := omega) only [parse, parseGraphics, fld_class_wd, fld_opcode_wd, r7_dest_wd, r7_first_wd,
      r7_second_wd, r3_dest_wd, fld_dest_wd, fld_second_wd, fld_operands_wd, fld_dest3_wd, Nat.reduceDiv,
      Nat.reduceMod, okIf_ok, BEq.rfl, Bool.and_self, and_self]

theorem decodes_priv (h : wordClass i = some 14) : Decodes i := by
  cases i <;> cases h
  all_goals
    refine decodes_one rfl ?_
    simp (disch := omega) only [parse, parsePriv, fld_class_wd, fld_opcode_wd, r7_dest_wd, r7_first_wd, r7_second_wd,
      fld_dest_wd, fld_second_wd, fld_operands_wd, Nat.reduceDiv, Nat.reduceMod, okIf_ok, BEq.rfl, Bool.and_self,
      and_self]

theorem decodes_hint (h : wordClass i = some 15) : Decodes i := by
  cases i <;> cases h
  next o =>
    refine decodes_one rfl ?_
    have hc : fld (0xFF * 2 ^ 24 + o.toNat) 28 4 = 15 := by simp only [fld]; omega
    have ho : 0x78 ≤ fld (0xFF * 2 ^ 24 + o.toNat) 21 7 := by simp only [fld]; omega
    have hi : imm 24 (0xFF * 2 ^ 24 + o.toNat) = o := by
      apply BitVec.eq_of_toNat_eq; simp only [imm, BitVec.toNat_ofNat]; omega
    simp only [parse, hc, parseHint, hi]
    rw [if_neg (by omega), if_neg (by omega)]

/-! ### Floats and conversions -/

section
variable {k t r : Nat}

/-- The opcode of class 0x4 is an operation, a type and a rounding mode (R136). -/
theorem fld_float (hk : k < 8) (ht : t < 4) (hr : r < 4) (hf : Fits d a b) :
    fld (wd (0x200 + k * 16 + t * 4 + r) d a b) 28 4 = 4 ∧ fld (wd (0x200 + k * 16 + t * 4 + r) d a b) 25 3 = k ∧
      fld (wd (0x200 + k * 16 + t * 4 + r) d a b) 23 2 = t ∧ fld (wd (0x200 + k * 16 + t * 4 + r) d a b) 21 2 = r := by
  unfold Fits at hf
  simp only [fld, wd]
  omega

theorem fld_float_plain (hk : k < 8) (ht : t < 4) (hf : Fits d a b) :
    fld (wd (0x200 + k * 16 + t * 4) d a b) 28 4 = 4 ∧ fld (wd (0x200 + k * 16 + t * 4) d a b) 25 3 = k ∧
      fld (wd (0x200 + k * 16 + t * 4) d a b) 23 2 = t ∧ fld (wd (0x200 + k * 16 + t * 4) d a b) 21 2 = 0 :=
  fld_float (r := 0) hk ht (by decide) hf

/-- The opcode of class 0x5 is an operation, a rounding mode and a type (R137). -/
theorem fld_convert (hk : k < 16) (hr : r < 4) (ht : t < 2) (hf : Fits d a b) :
    fld (wd (0x280 + k * 8 + r * 2 + t) d a b) 28 4 = 5 ∧ fld (wd (0x280 + k * 8 + r * 2 + t) d a b) 24 4 = k ∧
      fld (wd (0x280 + k * 8 + r * 2 + t) d a b) 22 2 = r ∧ fld (wd (0x280 + k * 8 + r * 2 + t) d a b) 21 1 = t := by
  unfold Fits at hf
  simp only [fld, wd]
  omega

theorem fld_convert_plain (hk : k < 16) (ht : t < 2) (hf : Fits d a b) :
    fld (wd (0x280 + k * 8 + t) d a b) 28 4 = 5 ∧ fld (wd (0x280 + k * 8 + t) d a b) 24 4 = k ∧
      fld (wd (0x280 + k * 8 + t) d a b) 22 2 = 0 ∧ fld (wd (0x280 + k * 8 + t) d a b) 21 1 = t :=
  fld_convert (r := 0) hk (by decide) ht hf

theorem fld_cvt (hr : r < 4) (hf : Fits d a b) :
    fld (wd (0x280 + r * 2) d a b) 28 4 = 5 ∧ fld (wd (0x280 + r * 2) d a b) 24 4 = 0 ∧
      fld (wd (0x280 + r * 2) d a b) 22 2 = r ∧ fld (wd (0x280 + r * 2) d a b) 21 1 = 0 :=
  fld_convert (k := 0) (t := 0) (by decide) hr (by decide) hf

theorem fld_cvtn (hr : r < 4) (hf : Fits d a b) :
    fld (wd (0x280 + 8 + r * 2) d a b) 28 4 = 5 ∧ fld (wd (0x280 + 8 + r * 2) d a b) 24 4 = 1 ∧
      fld (wd (0x280 + 8 + r * 2) d a b) 22 2 = r ∧ fld (wd (0x280 + 8 + r * 2) d a b) 21 1 = 0 :=
  fld_convert (k := 1) (t := 0) (by decide) hr (by decide) hf

end

theorem decodes_float (h : wordClass i = some 4) : Decodes i := by
  cases i <;> cases h
  case fadd t r d a b | fsub t r d a b | fmul t r d a b =>
    have := fTy_code_lt t
    have := rnd_code_lt r
    refine decodes_one rfl ?_
    simp (disch := omega) only [parse, parseFloat, fld_float, r7_dest_wd, r7_first_wd, r7_second_wd, fTy_ofCode_code,
      rnd_ofCode_code]
  case fmin t d a b | fmax t d a b =>
    have := fTy_code_lt t
    refine decodes_one rfl ?_
    simp (disch := omega) only [parse, parseFloat, fld_float_plain, r7_dest_wd, r7_first_wd, r7_second_wd,
      fTy_ofCode_code, okIf_ok, BEq.rfl, and_self]
  case ffma t r d a b c =>
    have := fTy_code_lt t
    have := rnd_code_lt r
    refine decodes_xm rfl (xm_fits (by omega)) fun x hx _ => ?_
    simp (disch := omega) only [parse, parseFloat, fld_float, r7_dest_wd, r7_first_wd, r7_second_wd, fTy_ofCode_code,
      rnd_ofCode_code, hx, n7_self, okIf_ok, xm_only_self, and_self]
  case fcmp t c d a b =>
    have := fTy_code_lt t
    have := fCond_code_lt c
    refine decodes_xm rfl (xm_fits (by omega)) fun x hx _ => ?_
    simp (disch := omega) only [parse, parseFloat, fld_float_plain, r4_dest_wd, r7_first_wd, r7_second_wd,
      fTy_ofCode_code, fld_dest4_wd, hx, fCond_ofCode.mpr rfl, okIf_ok, xm_only_self, BEq.rfl, Bool.and_self,
      and_self]
  case fdot2 t r d a b =>
    have : t.code < 4 := by cases t <;> decide
    have := rnd_code_lt r
    refine decodes_one rfl ?_
    simp (disch := omega) only [parse, parseFloat, fld_float, r7_dest_wd, r7_first_wd, r7_second_wd, rnd_ofCode_code]
    cases t <;> rfl

theorem decodes_convert (h : wordClass i = some 5) : Decodes i := by
  cases i <;> cases h
  case cvt p q r d a =>
    have := numTy_code_lt p
    have := numTy_code_lt q
    have := rnd_code_lt r
    refine decodes_xm rfl (xm_fits (by omega)) fun x hx _ => ?_
    simp (disch := omega) only [parse, parseConvert, fld_cvt, r7_dest_wd, r7_first_wd, fld_second_wd, rnd_ofCode_code,
      hx, numTy_ofCode.mpr rfl, okIf_ok, xm_only_self, BEq.rfl, Bool.and_self, and_self]
  case cvtn p r d a =>
    have := numTy_code_lt p.dst
    have := numTy_code_lt p.src
    have := rnd_code_lt r
    refine decodes_xm rfl (xm_fits (by omega)) fun x hx _ => ?_
    simp (disch := omega) only [parse, parseConvert, fld_cvtn, r7_dest_wd, r7_first_wd, fld_second_wd, rnd_ofCode_code,
      hx, narrow_ofCodes.mpr ⟨rfl, rfl⟩, okIf_ok, xm_only_self, BEq.rfl, Bool.and_self, and_self]
  case frcp t r d a | fsqrt t r d a | fround t r d a | fdiv t r d a b =>
    have := prec_code_lt t
    have := rnd_code_lt r
    refine decodes_one rfl ?_
    simp (disch := omega) only [parse, parseConvert, fld_convert, r7_dest_wd, r7_first_wd, r7_second_wd, fld_second_wd,
      prec_ofCode_code, rnd_ofCode_code, okIf_ok, BEq.rfl, and_self]
  all_goals
    next t d a =>
    have := prec_code_lt t
    refine decodes_one rfl ?_
    simp (disch := omega) only [parse, parseConvert, fld_convert_plain, r7_dest_wd, r7_first_wd, fld_second_wd,
      prec_ofCode_code, okIf_ok, BEq.rfl, Bool.and_self, and_self]

/-! ### Loads and stores -/

/-- The fields of a memory word above its address (R139, R140). -/
structure MemFields (w cls op size xm : Nat) (d : Fin 128) : Prop where
  cls : fld w 28 4 = cls
  op : fld w 25 3 = op
  size : fld w 22 3 = size
  xm : fld w 21 1 = xm
  dest : r7 w 14 = d

/-- The lowest bit of the size. -/
theorem MemFields.wide {d : Fin 128} (h : MemFields w cls op size xm d) : fld w 22 1 = size % 2 := by
  have cut : fld w 22 3 = fld w 22 1 + 2 ^ 1 * fld w 23 2 := fld_add w 22 1 2
  have bit : fld w 22 1 < 2 := Nat.mod_lt _ (by decide)
  rw [h.size] at cut
  omega

theorem memWord_fields {d : Fin 128} (hc : cls < 16) (ho : op < 8) (hz : size < 8) (hx : xm < 2) (hb : b < 128)
    (hl : o < 128) : MemFields (memWord cls op size xm d.val b o) cls op size xm d := by
  have fits : Fits d.val b o := by unfold Fits; omega
  refine ⟨?_, ?_, ?_, ?_, r7_dest_wd (by omega)⟩ <;> simp only [fld, memWord, wd] <;> omega

/-- Without XM, the address is a register and an offset. -/
theorem decodes_memWord {d b : Fin 128} {o : BitVec 7} (he : encode i = [memWord cls op size 0 d.val b.val o.toNat])
    (hc : cls < 16) (ho : op < 8) (hz : size < 8)
    (hp : ∀ w, MemFields w cls op size 0 d → r7 w 7 = b → imm 7 w = o → parse w 0 0 = .ok i) : Decodes i :=
  decodes_one he (hp _ (memWord_fields hc ho hz (by decide) b.isLt o.isLt) (r7_first_wd o.isLt) imm7_wd)

/-- With an address in XM, which is read as it was written. -/
theorem decodes_memX {d : Fin 128} {m : MemX} (he : encode i = memWord cls op size 1 d.val m.reg m.low :: m.tail u)
    (hc : cls < 16) (ho : op < 8) (hz : size < 8) (hu : Laws.Xm.Fits u) (plain : Laws.Xm.Plain u)
    (hp : ∀ w x y, MemFields w cls op size 1 d → fld w 7 7 = m.reg → fld w 0 7 = m.low → Xm.ofNat x = withAddr u m →
      MemX.parse m.reg m.low (withAddr u m) y = some m → parse w x y = .ok i) : Decodes i := by
  have reg : m.reg < 128 := by cases m <;> exact Fin.is_lt _
  have low : m.low < 128 := by
    cases m with
    | base b o | vbase b o => exact o.isLt
    | idx b i sc y => exact i.isLt
    | baseXi | vbaseXi => exact Nat.zero_lt_succ _
  intro wf _
  rw [he, tail_withAddr m plain]
  refine decode_ok.mpr ⟨hp _ _ _ (memWord_fields hc ho hz (by decide) reg low) (fld_first_wd reg low)
    (fld_second_wd low) (xm_ofNat_toNat (withAddr_fits hu)) ?_, wf⟩
  refine .trans ?_ (parse_withAddr (u := u) m)
  congr 1
  rcases m with _ | _ | ⟨b, i, sc, _ | y⟩ | _ | _ <;> rfl

theorem withAddr_c (u : Xm) (m : MemX) : (withAddr u m).c = u.c := rfl

theorem ord_withAddr {sem : Nat} {q : Option Scope} {m : MemX} (h0 : sem ≠ 0) :
    parseOrd sem (withAddr { scope := Scope.optCode q, sem := if q.isSome then sem else 0 } m) = some q :=
  (parseOrd_some h0).mpr ⟨rfl, rfl⟩

theorem ordFields_fits (q : Option Scope) {sem tya : Nat} (hs : sem < 4) (ht : tya < 16) :
    Laws.Xm.Fits { scope := Scope.optCode q, sem := if q.isSome then sem else 0, tya := tya } := by
  have := optCode_lt q
  have := isSome_code_lt q sem hs
  exact xm_fits (by omega)

/-- The sizes of LDLOD and TEX are sizes of loads. -/
theorem lodSize_ldSize (z : LodSize) : ∃ s, LdSize.ofCode z.code = some s := by
  cases z <;> exact ⟨_, rfl⟩

theorem decodes_load (h : wordClass i = some 7) : Decodes i := by
  cases i <;> cases h
  case ld z d b o | lds z d b o | ldc z d b o | sld z d b o =>
    have := ldSize_code_lt z
    refine decodes_memWord rfl (by decide) (by decide) (by omega) fun w hw hb ho => ?_
    simp only [parse, parseLoad, hw.cls, hw.op, hw.size, hw.xm, hw.dest, hb, ho, ldSize_ofCode.mpr rfl, if_true]
  case ldlod z d b o =>
    have := lodSize_code_lt z
    obtain ⟨s, hs⟩ := lodSize_ldSize z
    refine decodes_memWord rfl (by decide) (by decide) (by omega) fun w hw hb ho => ?_
    simp only [parse, parseLoad, hw.cls, hw.op, hw.size, hw.xm, hw.dest, hb, ho, hs, lodSize_ofCode.mpr rfl, if_true]
  case ldX z q d m | ldsX z q d m | ldcX z q d m | sldX z q d m =>
    have := ldSize_code_lt z
    refine decodes_memX rfl (by decide) (by decide) (by omega) (ordFields_fits q (by decide) (by decide)) ⟨rfl, rfl, rfl⟩
      fun w x y hw hb hl hx hp => ?_
    simp only [parse, parseLoad, hw.cls, hw.op, hw.size, hw.xm, hw.dest, hb, hl, hx, hp, ldSize_ofCode.mpr rfl,
      ord_withAddr one_ne_zero, one_ne_zero, if_false]
    exact okIf_ok.mpr ⟨xm_only_self _, rfl⟩
  case ldlodX l z d m =>
    have := lodSize_code_lt z
    obtain ⟨s, hs⟩ := lodSize_ldSize z
    refine decodes_memX rfl (by decide) (by decide) (by omega) (xm_fits (by omega)) ⟨rfl, rfl, rfl⟩
      fun w x y hw hb hl hx hp => ?_
    simp only [parse, parseLoad, hw.cls, hw.op, hw.size, hw.xm, hw.dest, hb, hl, hx, hp, hs, lodSize_ofCode.mpr rfl,
      one_ne_zero, if_false]
    exact okIf_ok.mpr ⟨xm_only_self _, by simp only [withAddr, n4_self]⟩
  case ldbrk d m c =>
    refine decodes_memX rfl (by decide) (by decide) (by decide) (xm_fits (by omega)) ⟨rfl, rfl, rfl⟩
      fun w x y hw hb hl hx hp => ?_
    simp only [parse, parseLoad, hw.cls, hw.op, hw.size, hw.xm, hw.dest, hb, hl, hx, hp, LdSize.ofCode,
      one_ne_zero, if_false]
    exact okIf_ok.mpr ⟨by simp [xm_only_self, withAddr, Xm.addr], by simp only [withAddr, n7_self]⟩
  case tex k z d s c =>
    have := lodSize_code_lt z
    have := texMode_code_lt k
    obtain ⟨y, hy⟩ := lodSize_ldSize z
    refine decodes_memX (m := .base s 0) rfl (by decide) (by decide) (by omega)
      (u := { c := c.val, opc := k.code }) (xm_fits (by omega)) ⟨rfl, rfl, rfl⟩ fun w x y hw hb hl hx hp => ?_
    have base : r7 w 7 = s := Fin.ext hb
    simp only [parse, parseLoad, hw.cls, hw.op, hw.size, hw.xm, hw.dest, hb, hl, hx, hp, hy, lodSize_ofCode.mpr rfl,
      one_ne_zero, if_false]
    simp only [withAddr, texMode_ofCode.mpr rfl, n7_self, base]
    simp [okIf_ok, xm_only_iff, MemX.low, addrMode, addrScale, addrXi]
  case texg k d s c =>
    refine decodes_memX (m := .base s 0) rfl (by decide) (by decide) (by decide)
      (u := { c := c.val, opc := k.val }) (xm_fits (by omega)) ⟨rfl, rfl, rfl⟩ fun w x y hw hb hl hx hp => ?_
    have base : r7 w 7 = s := Fin.ext hb
    simp only [parse, parseLoad, hw.cls, hw.op, hw.size, hw.xm, hw.dest, hb, hl, hx, hp, LdSize.ofCode, one_ne_zero,
      if_false]
    simp only [withAddr, k.isLt, dite_true, n7_self, base]
    simp [okIf_ok, xm_only_iff, MemX.low, addrMode, addrScale, addrXi]

/-- The fields of an atomic's XM fit. -/
theorem atomicFields_fits (c : VReg) (o : AtomOp) (t : AtomTy) (q : Sem) (s : Scope) :
    Laws.Xm.Fits { c := c.val, scope := s.code, sem := q.code, opc := o.code, tya := t.code } := by
  have := scope_code_lt s
  have := sem_code_lt q
  have := atomOp_code_lt o
  have := atomTy_code_lt t
  exact xm_fits (by omega)

/-- An atomic's XM is read as its fields were written, whatever is made of them (R140). -/
theorem parseAtomic_withAddr {wide : Bool} {mk : AtomOp → AtomTy → Sem → Scope → Instr} {c : VReg} {o : AtomOp}
    {t : AtomTy}
    {q : Sem} {s : Scope} {m : MemX} (hw : t.is64 = wide) :
    parseAtomic (withAddr { c := c.val, scope := s.code, sem := q.code, opc := o.code, tya := t.code } m) wide mk =
      .ok (mk o t q s) :=
  (parseAtomic_ok (sem_code_lt q)).mpr ⟨o, t, q, s, hw, rfl, rfl⟩

theorem decodes_stores (h : wordClass i = some 8) : Decodes i := by
  cases i <;> cases h
  case st z d b o | sts z d b o | stc z d b o | sst z d b o =>
    have := ldSize_code_lt z
    refine decodes_memWord rfl (by decide) (by decide) (by omega) fun w hw hb ho => ?_
    simp only [parse, parseStores, hw.cls, hw.op, hw.size, hw.xm, hw.dest, hb, ho, ldSize_ofCode.mpr rfl, if_true]
  case stX z n q d m | stsX z n q d m | stcX z n q d m | sstX z n q d m =>
    have := ldSize_code_lt z
    have := stNarrow_code_lt n
    refine decodes_memX rfl (by decide) (by decide) (by omega) (ordFields_fits q (by decide) (by omega)) ⟨rfl, rfl, rfl⟩
      fun w x y hw hb hl hx hp => ?_
    simp only [parse, parseStores, hw.cls, hw.op, hw.size, hw.xm, hw.dest, hb, hl, hx, hp, ldSize_ofCode.mpr rfl,
      one_ne_zero, if_false, OfNat.zero_ne_ofNat, OfNat.one_ne_ofNat, Nat.reduceEqDiff]
    exact parseStore_ok.mpr ⟨n, q, rfl, rfl⟩
  case stbrk k a m =>
    have := brickTy_tya_lt k
    have := brickTy_tyb_lt k
    refine decodes_memX rfl (by decide) (by decide) (by decide) (xm_fits (by omega)) ⟨rfl, rfl, rfl⟩
      fun w x y hw hb hl hx hp => ?_
    simp only [parse, parseStores, hw.cls, hw.op, hw.size, hw.xm, hw.dest, hb, hl, hx, hp, LdSize.ofCode,
      one_ne_zero, if_false, Nat.reduceEqDiff]
    simp only [withAddr, brickTy_ofCodes.mpr ⟨rfl, rfl⟩]
    simp [okIf_ok, xm_only_iff, Xm.addr]
  case atom o t q s d m c | atoms o t q s d m c =>
    refine decodes_memX rfl (by decide) (by decide) (by split <;> decide) (atomicFields_fits c o t q s) ⟨rfl, rfl, rfl⟩
      fun w x y hw hb hl hx hp => ?_
    cases hwide : t.is64 <;>
      simp only [parse, parseStores, hw.cls, hw.op, hw.size, hw.xm, hw.dest, hb, hl, hx, hp, LdSize.ofCode, hwide,
        one_ne_zero, if_false, if_true, Nat.reduceEqDiff, Bool.false_eq_true, reduceCtorEq, or_false, or_true,
        decide_false, decide_true, parseAtomic_withAddr hwide, withAddr_c, n7_self]
  case red o t q s m c =>
    refine decodes_memX (d := 0) rfl (by decide) (by decide) (by split <;> decide) (atomicFields_fits c o t q s)
      ⟨rfl, rfl, rfl⟩ fun w x y hw hb hl hx hp => ?_
    have dest : fld w 14 7 = 0 := congrArg Fin.val hw.dest
    cases hwide : t.is64 <;>
      simp only [parse, parseStores, hw.cls, hw.op, hw.size, hw.wide, hw.xm, dest, hb, hl, hx, hp, hwide, one_ne_zero,
        if_false, if_true, Nat.reduceLT, Nat.reduceMod, Bool.false_eq_true, BEq.rfl, Nat.reduceBEq,
        parseAtomic_withAddr hwide, withAddr_c, n7_self]
  case atomx o t q s d m c =>
    refine decodes_memX rfl (by decide) (by decide) (by split <;> decide) (atomicFields_fits c o t q s) ⟨rfl, rfl, rfl⟩
      fun w x y hw hb hl hx hp => ?_
    cases hwide : t.is64 <;>
      simp only [parse, parseStores, hw.cls, hw.op, hw.size, hw.wide, hw.xm, hw.dest, hb, hl, hx, hp, hwide,
        one_ne_zero, if_false, if_true, Nat.reduceLT, Nat.reduceMod, Nat.reduceAdd, Nat.reduceEqDiff,
        Bool.false_eq_true, BEq.rfl, Nat.reduceBEq, or_true, true_or, parseAtomic_withAddr hwide, withAddr_c, n7_self]

/-! ### Every instruction -/

theorem encode_event (h : wordClass i = none) : encode i = [] := by
  cases i <;> cases h <;> rfl

theorem decodes (i : Instr) : Decodes i := by
  cases h : wordClass i with
  | none => exact fun _ word => absurd (encode_event h) word
  | some c =>
    fin_cases c
    exacts [decodes_scalar h, decodes_imm h, decodes_control h, decodes_vector h, decodes_float h, decodes_convert h,
      decodes_cross h, decodes_load h, decodes_stores h, decodes_sync h, decodes_matrix h, decodes_hyper h,
      decodes_gen h, decodes_graphics h, decodes_priv h, decodes_hint h]

/-- Settles O2: the fields of each word are what the encoder put there, so each class reads its instruction back
(`decodes`). -/
theorem decodeEncode : Obligations.DecodeEncode := decodes

end Sys2Proof.Proofs
end

section
/-! Class 0xE and its grades of privilege (06 R146, R153; 18 R342), and the words that the spec writes out. -/

namespace Sys2Proof.Proofs

open Sys2Proof.Machine

variable {w x y : Nat} {e : Trap}

theorem okIf_error {b : Bool} {i : Instr} (h : okIf b i = .error e) : e = .illegal := by
  cases b <;> cases h
  rfl

/-- A word of class 0xE that does not decode is ILLEGAL, once its privilege is checked (R153). -/
theorem decode_priv_error (hc : fld w 28 4 = 14) (h : decode w x y = .error e) : e = .illegal := by
  have parsed : parse w x y = parsePriv w := by simp only [parse, hc]
  have error (he : parsePriv w = .error e) : e = .illegal := by
    unfold parsePriv at he
    split at he
    case h_2 | h_3 => cases he
    case h_11 =>
      cases he
      rfl
    all_goals exact okIf_error he
  unfold decode at h
  rw [parsed] at h
  split at h
  · split at h <;> cases h
    rfl
  · next he =>
    cases h
    exact error he

/-- A word that PRIV does not hold back, of a class that every core has, traps as its decoding says (R153). -/
theorem decodeIn_priv {sys handler : Bool} {t : TaskRec} (hc : fld w 28 4 = 14)
    (allowed : privBad sys handler w = false) :
    decodeIn sys handler t w x y ≠ .error .priv := by
  have served : sysBad sys w = false := by simp [sysBad, hc]
  simp only [decodeIn, hc, allowed, served, Nat.reduceEqDiff, false_and, if_false, Bool.false_eq_true]
  split
  · split <;> simp
  · split <;> simp
  · next he =>
    rw [decode_priv_error hc he]
    simp

/-- Settles O46: PRIV comes first and depends on the grade only (`privBad`), and what decoding answers after it is never
PRIV (`decodeIn_priv`). -/
theorem privilege : Obligations.Privilege := by
  intro sys handler t w x y hc
  refine ⟨?_, ?_, fun allowed => decodeIn_priv hc ?_⟩
  · rintro rfl rfl
    simp [decodeIn, privBad, hc]
  · rintro rfl grade
    simp [decodeIn, privBad, hc, grade]
  · obtain rfl | ⟨rfl, grade⟩ := allowed <;> simp [privBad, *]

/-- Settles O1: each word is decoded. -/
theorem decodeSanity : Obligations.DecodeSanity := by
  refine ⟨?_, ?_, ?_, ?_, ?_, ?_, ?_, ?_, ?_, ?_, ?_, ?_, ?_, ?_, ?_, ?_⟩ <;> decide

end Sys2Proof.Proofs
end

section
/-! What makes a target good, and the fault of a null link (06 R148, R149, R151; 07 R175). -/

namespace Sys2Proof.Proofs

open Sys2Proof.Machine Sys2Proof.Laws Sys2Proof.Claims

variable {s : State} {w : Who} {a : DWord} {pad : Option (Fin 4)}

/-! ### Good targets -/

/-- An address that a target may have: canonical, 4-byte aligned, in slot 2 to 31 of its line (R148). -/
theorem target_place : (!canonical a || decide (a.toNat % 4 ≠ 0) || decide (lineSlot a.toNat < 2)) = false ↔
    canonical a = true ∧ a.toNat % 4 = 0 ∧ 2 ≤ a.toNat % 128 / 4 := by
  simp [lineSlot, and_assoc, Nat.succ_le_iff]

/-- A line of kind 1 or 2 (R118). -/
theorem lineRuns_iff {h : Nat} : lineRuns h = true ↔ h / 2 ^ 60 = 1 ∨ h / 2 ^ 60 = 2 := by
  simp [lineRuns]

/-- A clause header whose start mark and target mark are both 1 (R117, R121). -/
theorem target_marked {h : Nat} {y : Word} :
    (!isHeader y || !lineMark h 0 (lineSlot a.toNat) || !lineMark h 30 (lineSlot a.toNat)) = false ↔
      y.toNat / 2 ^ 27 = 0x1E ∧ h.testBit (a.toNat % 128 / 4 - 2) = true ∧
        h.testBit (30 + a.toNat % 128 / 4 - 2) = true := by
  simp [isHeader, lineMark, lineSlot, and_assoc]

theorem targetChecks : TargetChecks := by
  intro s w a pad
  constructor
  · intro h
    unfold State.badTarget at h
    split at h
    · cases h
    · next place =>
      obtain ⟨canon, aligned, slot⟩ := target_place.mp (Bool.not_eq_true _ ▸ place)
      split at h
      · cases h
      · next line hline =>
        split at h
        · cases h
        · next runs =>
          split at h
          · cases h
          · next y hy =>
            split at h
            · cases h
            · next marked =>
              obtain ⟨header, start, target⟩ := target_marked.mp (Bool.not_eq_true _ ▸ marked)
              refine ⟨canon, aligned, slot, line, y, hline, lineRuns_iff.mp (by simpa using runs), hy, header, start,
                target, fun k hk => ?_⟩
              subst hk
              dsimp only at h
              split at h
              · cases h
              · next p hp =>
                split at h
                · next same => rw [hp, same]
                · cases h
  · rintro ⟨canon, aligned, slot, line, y, hline, runs, hy, header, start, target, landing⟩
    have place := target_place.mpr ⟨canon, aligned, slot⟩
    have marked := target_marked.mpr ⟨header, start, target⟩
    simp only [State.badTarget, place, hline, lineRuns_iff.mpr runs, hy, marked, Bool.false_eq_true, Bool.not_true,
      if_false]
    cases pad with
    | none => rfl
    | some k => simp only [landing k rfl, if_true]

/-! ### Null links -/

/-- No access answers NULLLINK. -/
theorem reach_ne_nulllink {va n lv : Nat} {need : Need} {k : Code} (h : s.reach w va n need = .bad k lv) :
    k ≠ .nulllink := by
  unfold State.reach at h
  rintro rfl
  repeat' split at h
  all_goals cases h

theorem fetchBytes_ne_nulllink {va n lv : Nat} {need : Need} {k : Code}
    (h : s.fetchBytes w va n need = .error (k, lv)) : k ≠ .nulllink := by
  unfold State.fetchBytes at h
  split at h
  · cases h
  · dsimp only at h
    split at h
    · cases h
    · split at h
      · cases h
      · cases h
      · next hr =>
        cases h
        exact reach_ne_nulllink hr

theorem codeBytes_ne_nulllink {va n : Nat} {e : Code × Nat} (h : s.codeBytes w va n = .error e) : e.1 ≠ .nulllink := by
  have load {k : Code} {lv : Nat} (h : s.loadBytes w va n .fetch = .error (k, lv)) : k ≠ .nulllink := by
    unfold State.loadBytes at h
    split at h
    · split at h <;> cases h
      exact Code.noConfusion
    · next he =>
      cases h
      exact fetchBytes_ne_nulllink he
  unfold State.codeBytes at h
  split at h
  · split at h <;> cases h
    exact Code.noConfusion
  · exact load h

theorem codeWord_ne_nulllink {e : Code × Nat} (h : s.codeWord w a = .error e) : e.1 ≠ .nulllink := by
  unfold State.codeWord at h
  split at h <;> cases h
  next he => exact codeBytes_ne_nulllink he

theorem lineHeader_ne_nulllink {e : Code × Nat} (h : s.lineHeader w a = .error e) : e.1 ≠ .nulllink := by
  unfold State.lineHeader at h
  split at h <;> cases h
  next he => exact codeBytes_ne_nulllink he

theorem landing_ne_nulllink {y : Word} {e : Code × Nat} (h : s.landing w a y = .error e) : e.1 ≠ .nulllink := by
  unfold State.landing at h
  dsimp only at h
  split at h <;> cases h
  next he => exact codeWord_ne_nulllink he

/-- What fails first of a target that is not 0 is never NULLLINK (R175). -/
theorem badTarget_ne_nulllink {e : Code × Nat} (h : s.badTarget w a pad = some e) : e.1 ≠ .nulllink := by
  unfold State.badTarget at h
  split at h
  · cases h
    exact Code.noConfusion
  · split at h
    · next he =>
      cases h
      exact lineHeader_ne_nulllink he
    · split at h
      · cases h
        exact Code.noConfusion
      · split at h
        · next he =>
          cases h
          exact codeWord_ne_nulllink he
        · split at h
          · cases h
            exact Code.noConfusion
          · split at h
            · cases h
            · split at h
              · next he =>
                cases h
                exact landing_ne_nulllink he
              · split at h <;> cases h
                exact Code.noConfusion

theorem failRank_zero {k : Code} : failRank k = 0 ↔ k = .nulllink := by
  unfold failRank
  split <;> simp_all

/-- How a list of lanes fails, as the check of their targets finds it (R175). -/
def laneFails (s : State) (w : Who) (pad : Option (Fin 4)) (t : Nat → DWord) (ls : List Nat) :
    List (Nat × DWord × Code × Nat) :=
  (ls.map fun l => (l, t l)).filterMap fun (l, a) => (s.targetFail w pad true a).map fun f => (l, a, f)

theorem laneFails_cons_some {t : Nat → DWord} {l : Nat} {f : Code × Nat} (ls : List Nat)
    (h : s.targetFail w pad true (t l) = some f) :
    laneFails s w pad t (l :: ls) = (l, t l, f) :: laneFails s w pad t ls :=
  List.filterMap_cons_some (by simp [h])

theorem laneFails_cons_none {t : Nat → DWord} {l : Nat} (ls : List Nat) (h : s.targetFail w pad true (t l) = none) :
    laneFails s w pad t (l :: ls) = laneFails s w pad t ls :=
  List.filterMap_cons_none (by simp [h])

/-- The failures of rank 0 are those of the lanes whose target is 0. -/
theorem laneFails_null (t : Nat → DWord) (ls : List Nat) :
    (laneFails s w pad t ls).filter (fun f => failRank f.2.2.1 == 0) =
      (ls.filter fun l => t l = 0).map fun l => (l, 0, .nulllink, 0) := by
  induction ls with
  | nil => rfl
  | cons l ls ih =>
    by_cases null : t l = 0
    · have fails : s.targetFail w pad true (t l) = some (.nulllink, 0) := if_pos ⟨rfl, null⟩
      rw [laneFails_cons_some ls fails, List.filter_cons_of_pos rfl, ih,
        List.filter_cons_of_pos (p := fun l => decide (t l = 0)) (by simpa using null), null]
      rfl
    · have only : s.targetFail w pad true (t l) = s.badTarget w (t l) pad := if_neg fun h => null h.2
      rw [List.filter_cons_of_neg (p := fun l => decide (t l = 0)) (by simpa using null), ← ih]
      cases bad : s.badTarget w (t l) pad with
      | none => rw [laneFails_cons_none ls (only.trans bad)]
      | some e =>
        have rank : failRank e.1 ≠ 0 := mt failRank_zero.mp (badTarget_ne_nulllink bad)
        rw [laneFails_cons_some ls (only.trans bad), List.filter_cons_of_neg (by simpa using rank)]

/-- With a target of 0 in some lanes, the first failure is NULLLINK, of those lanes (R175). -/
theorem firstFail_null {t : Nat → DWord} {ls : List Nat} (h : (ls.filter fun l => t l = 0) ≠ []) :
    s.firstFail w pad true (ls.map fun l => (l, t l)) =
      some (.nulllink, 0, maskOf (ls.filter fun l => t l = 0), 0) := by
  have null := laneFails_null (s := s) (w := w) (pad := pad) t ls
  obtain ⟨l, rest, hl⟩ := List.exists_cons_of_ne_nil h
  have least : ((laneFails s w pad t ls).map fun f => failRank f.2.2.1).min? = some 0 := by
    refine List.min?_eq_some_iff.mpr ⟨?_, fun n _ => Nat.zero_le n⟩
    have : (l, 0, Code.nulllink, 0) ∈ (laneFails s w pad t ls).filter fun f => failRank f.2.2.1 == 0 := by
      rw [null, hl]
      exact List.mem_cons_self
    exact List.mem_map.mpr ⟨_, List.mem_of_mem_filter this, rfl⟩
  unfold State.firstFail
  dsimp only
  rw [show List.filterMap _ _ = laneFails s w pad t ls from rfl, least]
  dsimp only
  rw [null, hl]
  simp [List.filter_map, Function.comp_def]

end Sys2Proof.Proofs
end

section
/-! What a fault of control leaves of the lanes that it does not name (06 R151; 19 R371). -/

namespace Sys2Proof.Proofs

open Sys2Proof.Machine Sys2Proof.Laws Sys2Proof.Claims

variable {s t x : State} {g y z : Machine.Group} {c : Clause} {m : Mask} {u n : Nat} {r : Record}
  {pc skip : Nat → DWord}

theorem OthersStay.trans (h : OthersStay g y m) (k : OthersStay y z m) : OthersStay g z m := fun l hl =>
  (k l hl).trans (h l hl)

theorem othersStay_modLanes {f : Nat → Lane → Lane} : OthersStay g (g.modLanes m f) m := fun _ hl =>
  congrArg called (lane_modLanes_other hl)

/-- The group of a number stays, with its lanes outside a mask as they were but for a call of the service. -/
def Spares (m : Mask) (u : Nat) (s t : State) : Prop := ∀ g, s.group? u = some g → After t u fun y => OthersStay g y m

theorem Spares.trans (h : Spares m u s t) (k : Spares m u t x) : Spares m u s x := by
  intro g hg
  obtain ⟨y, hy, stay⟩ := h g hg
  obtain ⟨z, hz, stay'⟩ := k y hy
  exact ⟨z, hz, OthersStay.trans stay stay'⟩

theorem SameSpoiled.spares (h : SameSpoiled s t) : Spares m u s t := by
  intro g hg
  obtain ⟨y, hy, same⟩ := h.some_group hg
  exact ⟨y, hy, fun l _ => called_lane (congrArg Machine.Group.lanes same :) l⟩

theorem spares_of_groups (h : t.groups = s.groups) : Spares m u s t := SameSpoiled.spares (SameBut.of_groups h)

theorem spares_modGroup {f : Machine.Group → Machine.Group} (hu : ∀ g, (f g).uid = g.uid)
    (hf : ∀ g, OthersStay g (f g) m) :
    Spares m u s (s.modGroup u f) := fun g hg => ⟨f g, group?_modGroup_same hu hg, hf g⟩

theorem spares_modCtx {k : Nat} {f : Ctx → Ctx} : Spares m u s (s.modCtx k f) := spares_of_groups rfl

theorem spares_fileRecord (h : s.fileRecord r = some (n, t)) : Spares m u s t :=
  SameSpoiled.spares (fileRecord_sameCalled h).spoiled

theorem quietStore_spares {w : Who} {va : Nat} {bs : List Byte} : Spares m u s ((s.quietStore w va bs).getD s) := by
  cases h : s.quietStore w va bs with
  | none => exact spares_of_groups rfl
  | some x => exact (quietStore_sameSpoiled h).spares

/-- Lanes that enter a handler, or wait for the service at it, leave the other lanes as they are (R371). -/
theorem enterHandler_spares {k : Nat} (h : s.enterHandler u k r m pc = some t) : Spares m u s t := by
  unfold State.enterHandler at h
  split at h
  · cases h
    exact spares_of_groups rfl
  · next g _ =>
    dsimp only at h
    have entered (va : Nat) {f : Ctx → Ctx} {e : Machine.Group → Machine.Group} (he : ∀ y, (e y).uid = y.uid)
        (stay : ∀ y, OthersStay y (e y) m) :
        let stored := (s.quietStore { s.who g with replay := none } va r.bytes).getD s
        Spares m u s ((stored.modCtx (s.ctxOf g).slot f).modGroup u e) :=
      (quietStore_spares.trans spares_modCtx).trans (spares_modGroup he stay)
    split at h
    · cases h
      exact entered _ (fun _ => rfl) fun _ => othersStay_modLanes
    · split at h
      · next hr =>
        cases h
        refine (Spares.trans ?_ (spares_fileRecord hr)).trans
          (spares_modGroup (fun _ => rfl) fun _ => othersStay_modLanes)
        exact entered _ (fun _ => rfl) fun _ => othersStay_modLanes
      · cases h

theorem deliver_spares {o : Option Nat} (h : s.deliver g r m pc skip = some (o, t)) : Spares m g.uid s t := by
  unfold State.deliver at h
  split at h
  · split at h
    · next k _ =>
      obtain ⟨x, hx, same⟩ := Option.map_eq_some_iff.mp h
      cases same
      exact enterHandler_spares hx
    · cases h
      exact (spares_of_groups rfl).trans (spares_modGroup (fun _ => rfl) fun _ => othersStay_modLanes)
  · split at h
    · cases h
    · next hr =>
      cases h
      exact (spares_fileRecord hr).trans (spares_modGroup (fun _ => rfl) fun _ => othersStay_modLanes)

theorem holdClause_spares (s : State) (u : Nat) (w : Wait) : Spares m u s (s.holdClause u w) :=
  spares_modGroup (fun _ => rfl) fun _ _ _ => rfl

theorem controlFault_spares (s : State) (g : Machine.Group) (c : Clause) (k : Code) (m : Mask) (a : Nat) :
    Spares m g.uid s (s.controlFault g c k m a) := by
  unfold State.controlFault
  dsimp only
  split
  · exact holdClause_spares s g.uid _
  · next x hx =>
    obtain ⟨⟨o, t⟩, hd, rfl⟩ := Option.map_eq_some_iff.mp hx
    exact (deliver_spares hd).trans (spares_modGroup (fun _ => rfl) fun _ _ _ => rfl)

theorem nullLinkFirst : NullLinkFirst := by
  intro i r s g c hi hiss m hm
  have lanes : ((lanesOf c.exec).filter fun l => readV64 s g l r.val = 0) ≠ [] := fun none => hm (congrArg maskOf none)
  have fault : exec i s = .next (s.controlFault g c .nulllink m 0) := by
    have {pad : Option (Fin 4)} {k : State} :
        s.checked g c pad true (pairOf s g c r.val) k = s.controlFault g c .nulllink m 0 :=
      checked_fails (firstFail_null lanes)
    obtain rfl | rfl | ⟨d, rfl⟩ := hi <;> exact (issues_next hiss).trans (congrArg _ this)
  refine ⟨fault, _, fault, ?_⟩
  exact controlFault_spares s g c .nulllink m 0 g (issues_group hiss)

/-- Settles O21: the checks of a target in order are the conditions of a good one; a lane with a target of 0 fails first
(`firstFail_null`), and its fault leaves the other lanes (`controlFault_spares`). -/
theorem targetsChecked : Obligations.TargetsChecked := ⟨targetChecks, nullLinkFirst⟩

end Sys2Proof.Proofs
end

section
/-! The service's instructions: ADMIT, RASLOG, HALT and its wake, and HINT (18 R356; 20 R405; 06 R154). -/

namespace Sys2Proof.Proofs

open Sys2Proof.Machine Sys2Proof.Laws Sys2Proof.Claims

variable {s : State} {g : Machine.Group} {c : Clause} {r d a : SReg} {cl p : Nat}

/-! ### Clusters -/

theorem logRas_clusters (x : Ras) : (s.logRas x).clusters = s.clusters := by
  unfold State.logRas State.reportDrops
  dsimp only
  repeat' split
  all_goals rfl

theorem writeBack_clusters (q : Fill → Bool) : (s.writeBack q).clusters = s.clusters := by
  refine foldl_keeps State.clusters _ (fun t f => ?_) _ s
  split
  · split
    · exact logRas_clusters _
    · rfl
  · rfl

/-- A cluster that moves keeps all but its partition and its pins, and the others stay (R347, R379). -/
theorem moveCluster_cluster (n : Nat) : (s.moveCluster cl p).cluster n =
    if n = cl then { s.cluster cl with part := p, pins := [] } else s.cluster n := by
  have same (n : Nat) : (s.writeBack fun f => f.cluster == cl).cluster n = s.cluster n := by
    rw [State.cluster, writeBack_clusters, State.cluster]
  unfold State.moveCluster
  split
  · next h =>
    subst h
    refine (cluster_modCluster_same _).trans ?_
    exact congrArg (fun k : ClusterState => { k with part := p, pins := [] }) (same n)
  · next h => exact (cluster_modCluster_ne _ h).trans (same n)

/-- After a cluster has moved where it was not yet (R356), it is in its partition with its budget, and the others and
memory stay. -/
theorem moved_cluster {moves : Bool} (h : moves = ((s.cluster cl).part != p)) :
    let t := if moves = true then s.moveCluster cl p else s
    (t.cluster cl).part = p ∧ (t.cluster cl).energyBudget = (s.cluster cl).energyBudget ∧ t.mem = s.mem ∧
      ∀ k, k ≠ cl → t.cluster k = s.cluster k := by
  cases moves with
  | true =>
    simp only [if_true, moveCluster_cluster, moveCluster_mem, true_and]
    exact fun k hk => if_neg hk
  | false => exact ⟨by simpa using h, rfl, rfl, fun _ _ => rfl⟩

/-! ### The RAS log -/

/-- With no record dropped, taking a record only takes it out of the log (R405). -/
theorem popRas_cons {x : Ras} {xs : List Ras} (h : s.ras = x :: xs) (none : s.rasDropped = 0) :
    s.popRas = some (x, { s with ras := xs }) := by
  simp [State.popRas, h, State.reportDrops, none]

theorem popRas_nil (h : s.ras = []) : s.popRas = none := by
  simp [State.popRas, h]

/-! ### Halted lanes -/

theorem called_eq (x : LaneState) : x.called = if x = .parked (.halt false) then .parked (.halt true) else x := by
  unfold LaneState.called
  split
  · next b => cases b <;> rfl
  · next none => exact (if_neg fun h => none false h).symm

/-- Settles O48: a cluster that moves changes its partition and pins only (`moveCluster_cluster`), and taking a record
leaves the rest of the state (`popRas_cons`); the rest is each instruction's own case. -/
theorem serviceInstructions : Obligations.ServiceInstructions := by
  refine ⟨?_, ?_, ?_, ?_, fun r => ?_, fun s g c hi => issues_next hi, called_eq, fun u s => rfl,
    fun h s g c hi => issues_next hi⟩
  · intro r s g c hi v cl7 part7 energy1 energy current1 current fits
    obtain ⟨part, budget, mem, others⟩ := moved_cluster (s := s) (cl := v 0) (p := v 1) rfl
    refine ⟨_, (issues_next hi).trans (congrArg _ (if_neg ?_)), ?_, ?_, ?_, ?_, mem, fun k hk => ?_⟩
    · have free : ((s.cluster (v 0)).part != v 1 && s.tenantOn (v 0)) = false := by
        obtain h | h := fits <;> simp [h]
      rintro (h | h | h | h | h | h | h)
      exacts [cl7.not_gt h, part7.not_gt h, energy1.not_gt h, energy.not_gt h, current1.not_gt h, current.not_gt h,
        Bool.false_ne_true (free.symm.trans h)]
    · rw [cluster_modCluster_same]
      exact part
    · rw [cluster_modCluster_same]
    · rw [cluster_modCluster_same]
    · rw [cluster_modCluster_same]
      exact budget
    · exact (cluster_modCluster_ne _ hk).trans (others k hk)
  · intro r s g c hi v bad
    refine (issues_next hi).trans (congrArg _ (if_pos ?_))
    have zero {n : Nat} : n = 0 ↔ n < 1 := Nat.lt_one_iff.symm
    simpa only [zero, Bool.and_eq_true, bne_iff_ne] using bad
  · intro d a s g c hi addr
    have ok : (!physOk (readS64 s g a.val)) = false := by simp [physOk_iff.mpr addr]
    refine ⟨fun empty => ?_, fun x xs some none => ?_⟩ <;> refine (issues_next hi).trans (congrArg _ ?_)
    · simp only [ok, popRas_nil empty, Bool.false_eq_true, if_false]
    · simp only [ok, popRas_cons some none, Bool.false_eq_true, if_false]
      rfl
  · intro d a s g c hi addr
    have bad : (!physOk (readS64 s g a.val)) = true := by simpa [← Bool.not_eq_true, physOk_iff] using addr
    exact (issues_next hi).trans (congrArg _ (if_pos bad))
  · simp [Ras.bytes]

end Sys2Proof.Proofs
end

section
/-! The words that the scalar arithmetic, comparisons and immediates give (R159 to R162), for O9 and O10. -/

namespace Sys2Proof.Proofs

open Sys2Proof.Machine Sys2Proof.Laws Sys2Proof.Claims

variable (a b : Word)

/-! ### Arithmetic -/

theorem extract_high (p : Int) : (BitVec.ofInt 64 p).extractLsb' 32 32 = BitVec.ofInt 32 (p / 2 ^ 32) := by
  apply BitVec.eq_of_toNat_eq
  simp only [BitVec.extractLsb'_toNat, BitVec.toNat_ofInt, Nat.shiftRight_eq_div_pow]
  omega

theorem signExtend_eq_ofInt {w v : Nat} (h : w ≤ v) (x : BitVec w) : x.signExtend v = BitVec.ofInt v x.toInt :=
  BitVec.eq_of_toInt_eq (by rw [BitVec.toInt_signExtend_of_le h, ← BitVec.toInt_signExtend_of_le h, BitVec.ofInt_toInt])

theorem addW_eq : a + b = BitVec.ofNat 32 (a.toNat + b.toNat) := by
  rw [BitVec.ofNat_add, BitVec.ofNat_toNat, BitVec.ofNat_toNat, BitVec.setWidth_eq, BitVec.setWidth_eq]

theorem subW_eq : a - b = BitVec.ofInt 32 (a.toInt - b.toInt) := by
  rw [Int.sub_eq_add_neg, BitVec.ofInt_add, BitVec.ofInt_neg, BitVec.ofInt_toInt, BitVec.ofInt_toInt,
    BitVec.sub_eq_add_neg]

theorem mulW_eq : a * b = BitVec.ofNat 32 (a.toNat * b.toNat) := by
  rw [BitVec.ofNat_mul, BitVec.ofNat_toNat, BitVec.ofNat_toNat, BitVec.setWidth_eq, BitVec.setWidth_eq]

/-- An immediate is a signed number (R162). -/
theorem add_signExtend {w : Nat} (h : w ≤ 32) (x : BitVec w) :
    a + x.signExtend 32 = BitVec.ofInt 32 (a.toInt + x.toInt) := by
  rw [BitVec.ofInt_add, BitVec.ofInt_toInt, signExtend_eq_ofInt h]

/-- The high word of the exact signed product. -/
theorem mulhS_eq : mulhS a b = (a.signExtend 64 * b.signExtend 64).extractLsb' 32 32 := by
  rw [signExtend_eq_ofInt (by decide), signExtend_eq_ofInt (by decide), ← BitVec.ofInt_mul, extract_high]
  rfl

/-- The high word of the exact unsigned product. -/
theorem mulhU_eq : mulhU a b = (a.setWidth 64 * b.setWidth 64).extractLsb' 32 32 := by
  apply BitVec.eq_of_toNat_eq
  simp only [mulhU, Nat.shiftRight_eq_div_pow, BitVec.extractLsb'_toNat, BitVec.toNat_mul, BitVec.toNat_setWidth,
    BitVec.toNat_ofNat]
  rw [Nat.mod_eq_of_lt (a := a.toNat) (by omega), Nat.mod_eq_of_lt (a := b.toNat) (by omega)]
  omega

/-! ### Shifts -/

theorem shlW_eq : shlW a b = BitVec.ofNat 32 (a.toNat * 2 ^ b.toNat) := by
  unfold shlW
  split
  · rename_i far
    obtain ⟨k, hk⟩ := Nat.exists_eq_add_of_le far
    rw [hk, Nat.pow_add, Nat.mul_left_comm]
    exact BitVec.eq_of_toNat_eq (by simp)
  · exact BitVec.eq_of_toNat_eq (by simp [Nat.shiftLeft_eq])

theorem shrW_eq : shrW a b = BitVec.ofNat 32 (a.toNat / 2 ^ b.toNat) := by
  unfold shrW
  split
  · rename_i far
    rw [Nat.div_eq_of_lt (a.isLt.trans_le (Nat.pow_le_pow_right (by decide) far))]
    rfl
  · exact BitVec.eq_of_toNat_eq (by
      simp only [BitVec.toNat_ushiftRight, Nat.shiftRight_eq_div_pow, BitVec.toNat_ofNat]
      exact (Nat.mod_eq_of_lt (Nat.lt_of_le_of_lt (Nat.div_le_self ..) a.isLt)).symm)

/-- An amount of 31 or more leaves the sign alone. -/
theorem toInt_ediv_far {n : Nat} (h : 31 ≤ n) : a.toInt / 2 ^ n = a.toInt / 2 ^ 31 := by
  have lo := BitVec.le_toInt a
  have hi := BitVec.toInt_lt (x := a)
  obtain ⟨k, rfl⟩ := Nat.exists_eq_add_of_le h
  have sign : a.toInt / 2 ^ 31 = 0 ∨ a.toInt / 2 ^ 31 = -1 := by omega
  rw [pow_add, ← Int.ediv_ediv_of_nonneg (by decide)]
  obtain z | m := sign
  · rw [z, Int.zero_ediv]
  · rw [m, Int.neg_one_ediv, Int.sign_eq_one_of_pos (by positivity)]

theorem sarW_eq : sarW a b = BitVec.ofInt 32 (a.toInt / 2 ^ b.toNat) := by
  have amount : a.toInt / 2 ^ b.toNat = a.toInt / 2 ^ min b.toNat 31 := by
    rcases Nat.le_total b.toNat 31 with h | h
    · rw [Nat.min_eq_left h]
    · rw [Nat.min_eq_right h, toInt_ediv_far a h]
  rw [amount, ← BitVec.ofInt_toInt (x := sarW a b), sarW, BitVec.toInt_sshiftRight, Int.shiftRight_eq_div_pow]
  norm_cast

/-! ### Extremes -/

theorem minS_eq : minS a b = BitVec.ofInt 32 (min a.toInt b.toInt) := by
  rw [minS, min_def]; split <;> exact BitVec.ofInt_toInt.symm

theorem maxS_eq : maxS a b = BitVec.ofInt 32 (max a.toInt b.toInt) := by
  rw [maxS, max_def]; split <;> exact BitVec.ofInt_toInt.symm

theorem minU_eq : minU a b = BitVec.ofNat 32 (min a.toNat b.toNat) := by
  rw [minU, min_def]; split <;> simp

theorem maxU_eq : maxU a b = BitVec.ofNat 32 (max a.toNat b.toNat) := by
  rw [maxU, max_def]; split <;> simp

/-! ### Counts -/

theorem clz32_eq : clz32 a = leadingZeros a := by
  unfold clz32 leadingZeros
  split
  · rename_i zero
    rw [List.find?_range_eq_none.mpr (by simp [BitVec.getLsbD, zero])]
    rfl
  · rename_i nonzero
    have low : a.toNat.log2 < 32 := (Nat.log2_lt nonzero).mpr a.isLt
    rw [(List.find?_range_eq_some (i := 31 - a.toNat.log2)).mpr ⟨?_, ?_, fun j hj => ?_⟩]
    · rfl
    · rw [Nat.sub_sub_self (by omega)]
      exact Nat.testBit_log2 nonzero
    · rw [List.mem_range]; omega
    · have : a.getLsbD (31 - j) = false := Nat.testBit_lt_two_pow ((Nat.log2_lt nonzero).mp (by omega))
      rw [this]; rfl

theorem clzW_eq : clzW a = BitVec.ofNat 32 (leadingZeros a) := congrArg _ (clz32_eq a)

theorem popNat_eq (n v : Nat) : popNat n v = ((List.range n).filter fun k => v.testBit k).length := by
  induction n generalizing v with
  | zero => rfl
  | succ n ih =>
    rw [popNat, ih, List.range_succ_eq_map, List.filter_cons, List.filter_map, ]
    simp only [Function.comp_def, Nat.testBit_succ]
    rcases Nat.mod_two_eq_zero_or_one v with h | h <;> simp [h, Nat.add_comm]

theorem popW_eq : popW a = BitVec.ofNat 32 (oneBits a) := by
  rw [popW, popNat_eq]
  rfl

theorem boolWord_decide (p : Prop) [Decidable p] : boolWord (decide p) = truth p := by
  simp [boolWord, truth]

theorem boolWord_eq : boolWord (a == b) = truth (a = b) := boolWord_decide _

theorem boolWord_ne : boolWord (a != b) = truth (a ≠ b) := by
  rw [← boolWord_decide, bne, beq_eq_decide, decide_not]

/-! ### The instructions -/

variable {i : Instr} {d : SReg}

/-- An instruction that writes one word writes any word equal to it. -/
theorem givesS_congr {v w : State → Machine.Group → Word} (h : GivesS i d w) (hv : ∀ s g, w s g = v s g) :
    GivesS i d v := by
  obtain rfl : w = v := funext fun s => funext (hv s)
  exact h

/-- Settles O9: each instruction writes its function of the sources' words, which is that of R159 (`shlW_eq`, `sarW_eq`,
`mulhS_eq`, `clz32_eq`, `popW_eq` and their like). -/
theorem scalarArithmetic : Obligations.ScalarArithmetic := by
  intro d a b
  refine ⟨?_, ?_, ?_, ?_, ?_, ?_, ?_, ?_, ?_, ?_, ?_, ?_, ?_, ?_, ?_, ?_, ?_, ?_⟩
  · exact givesS_congr (fun _ _ _ hi => issues_next hi) fun _ _ => addW_eq ..
  · exact givesS_congr (fun _ _ _ hi => issues_next hi) fun _ _ => subW_eq ..
  · exact givesS_congr (fun _ _ _ hi => issues_next hi) fun _ _ => mulW_eq ..
  · exact givesS_congr (fun _ _ _ hi => issues_next hi) fun _ _ => mulhS_eq ..
  · exact givesS_congr (fun _ _ _ hi => issues_next hi) fun _ _ => mulhU_eq ..
  · exact fun _ _ _ hi => issues_next hi
  · exact fun _ _ _ hi => issues_next hi
  · exact fun _ _ _ hi => issues_next hi
  · exact givesS_congr (fun _ _ _ hi => issues_next hi) fun _ _ => shlW_eq ..
  · exact givesS_congr (fun _ _ _ hi => issues_next hi) fun _ _ => shrW_eq ..
  · exact givesS_congr (fun _ _ _ hi => issues_next hi) fun _ _ => sarW_eq ..
  · exact givesS_congr (fun _ _ _ hi => issues_next hi) fun _ _ => minS_eq ..
  · exact givesS_congr (fun _ _ _ hi => issues_next hi) fun _ _ => maxS_eq ..
  · exact givesS_congr (fun _ _ _ hi => issues_next hi) fun _ _ => minU_eq ..
  · exact givesS_congr (fun _ _ _ hi => issues_next hi) fun _ _ => maxU_eq ..
  · exact givesS_congr (fun _ _ _ hi => issues_next hi) fun _ _ => clzW_eq ..
  · exact givesS_congr (fun _ _ _ hi => issues_next hi) fun _ _ => popW_eq ..
  · exact fun _ _ _ hi => issues_next hi

/-- Settles O10: the ten conditions, the selection, and the immediates as signed numbers (`signExtend_eq_ofInt`). -/
theorem scalarComparesAndImmediates : Obligations.ScalarComparesAndImmediates := by
  intro d a b c i14 i7 xi
  refine ⟨?_, ?_, ?_, ?_, ?_, ?_, ?_, ?_, ?_, ?_, ?_, ?_, ?_, ?_, ?_⟩
  · exact givesS_congr (fun _ _ _ hi => issues_next hi) fun _ _ => boolWord_eq ..
  · exact givesS_congr (fun _ _ _ hi => issues_next hi) fun _ _ => boolWord_ne ..
  · exact givesS_congr (fun _ _ _ hi => issues_next hi) fun _ _ => boolWord_decide _
  · exact givesS_congr (fun _ _ _ hi => issues_next hi) fun _ _ => boolWord_decide _
  · exact givesS_congr (fun _ _ _ hi => issues_next hi) fun _ _ => boolWord_decide _
  · exact givesS_congr (fun _ _ _ hi => issues_next hi) fun _ _ => boolWord_decide _
  · exact givesS_congr (fun _ _ _ hi => issues_next hi) fun _ _ => boolWord_decide _
  · exact givesS_congr (fun _ _ _ hi => issues_next hi) fun _ _ => boolWord_decide _
  · exact givesS_congr (fun _ _ _ hi => issues_next hi) fun _ _ => boolWord_decide _
  · exact givesS_congr (fun _ _ _ hi => issues_next hi) fun _ _ => boolWord_decide _
  · exact givesS_congr (fun _ _ _ hi => issues_next hi) fun _ _ => ite_not ..
  · exact givesS_congr (fun _ _ _ hi => issues_next hi) fun _ _ => signExtend_eq_ofInt (by decide) _
  · exact givesS_congr (fun _ _ _ hi => issues_next hi) fun _ _ => add_signExtend _ (by decide) _
  · exact givesS_congr (fun _ _ _ hi => issues_next hi) fun _ _ => addW_eq ..
  · exact fun _ _ _ hi => issues_next hi

end Sys2Proof.Proofs
end

section
/-! Special registers and windows (R163 to R169), for O12 and O13. -/

namespace Sys2Proof.Proofs

open Sys2Proof.Machine Sys2Proof.Laws Sys2Proof.Claims

variable {s : State} {g : Machine.Group} {c : Clause} {b : Block} {i : Instr}

/-! ### Fields of a word -/

theorem getLsbD_of_field {k n : Nat} {x : Bool} (hk : k < 32) (h : n / 2 ^ k % 2 = x.toNat) :
    (BitVec.ofNat 32 n).getLsbD k = x := by
  rw [BitVec.getLsbD_ofNat, decide_eq_true hk, Bool.true_and, Nat.testBit_eq_decide_div_mod_eq, h]
  cases x <;> rfl

theorem extract_ofNat (k w n : Nat) : ((BitVec.ofNat 32 n).extractLsb' k w).toNat = n % 2 ^ 32 / 2 ^ k % 2 ^ w := by
  rw [BitVec.extractLsb'_toNat, BitVec.toNat_ofNat, Nat.shiftRight_eq_div_pow]

theorem extract_ofNat_zero {k w n : Nat} (h : n % 2 ^ 32 / 2 ^ k % 2 ^ w = 0) :
    (BitVec.ofNat 32 n).extractLsb' k w = 0 :=
  BitVec.eq_of_toNat_eq ((extract_ofNat k w n).trans (h.trans BitVec.toNat_zero.symm))

/-- The fields of GSTATUS are where R26 puts them. -/
theorem gstatus_fields (serial restored replay helpers shared wide done : Bool) {mode role paths : Nat} (hm : mode < 4)
    (hr : role < 4) (hp : paths < 16) :
    let w := BitVec.ofNat 32 (serial.toNat + 4 * restored.toNat + 8 * replay.toNat + 16 * helpers.toNat +
      32 * shared.toNat + 64 * wide.toNat + 128 * done.toNat + 256 * mode + 1024 * role + 4096 * paths)
    w.getLsbD 0 = serial ∧ w.getLsbD 1 = false ∧ w.getLsbD 2 = restored ∧ w.getLsbD 3 = replay ∧ w.getLsbD 4 = helpers ∧
      w.getLsbD 5 = shared ∧ w.getLsbD 6 = wide ∧ w.getLsbD 7 = done ∧ (w.extractLsb' 8 2).toNat = mode ∧
      (w.extractLsb' 10 2).toNat = role ∧ (w.extractLsb' 12 4).toNat = paths ∧ w.extractLsb' 16 16 = 0 := by
  have := serial.toNat_le
  have := restored.toNat_le
  have := replay.toNat_le
  have := helpers.toNat_le
  have := shared.toNat_le
  have := wide.toNat_le
  have := done.toNat_le
  refine ⟨getLsbD_of_field (by decide) ?_, getLsbD_of_field (by decide) ?_, getLsbD_of_field (by decide) ?_,
    getLsbD_of_field (by decide) ?_, getLsbD_of_field (by decide) ?_, getLsbD_of_field (by decide) ?_,
    getLsbD_of_field (by decide) ?_, getLsbD_of_field (by decide) ?_, (extract_ofNat ..).trans ?_,
    (extract_ofNat ..).trans ?_, (extract_ofNat ..).trans ?_, extract_ofNat_zero ?_⟩
  case refine_2 => rw [Bool.toNat_false]; omega
  all_goals omega

theorem gstatus_eq (s : State) (g : Machine.Group) : s.gstatus g =
    BitVec.ofNat 32 (g.serial.toNat + 4 * g.restored.toNat + 8 * g.replay.toNat +
      16 * (decide (g.helpers g.live ≠ 0)).toNat + 32 * (s.shared g).toNat + 64 * (decide (g.width = 64)).toNat +
      128 * g.allDone.toNat + 256 * g.gmode + 1024 * (g.role % 4) +
        4096 * (if g.serial then 0 else min 8 g.paths)) := by
  have bit (x : Bool) : (if x = true then 1 else 0) = x.toNat := by cases x <;> rfl
  simp only [State.gstatus, bit]

theorem gmode_of_none (h : g.gen = none) : g.gmode = 0 := by
  rw [Machine.Group.gmode, h]

theorem gmode_of_some {x : Generator} (h : g.gen = some x) : g.gmode = if x.mode = .producer then 1 else 2 := by
  rw [Machine.Group.gmode, h]
  cases hm : x.mode <;> simp [hm]

theorem gmode_lt (g : Machine.Group) : g.gmode < 4 := by
  cases h : g.gen with
  | none => rw [gmode_of_none h]; decide
  | some x => rw [gmode_of_some h]; split <;> decide

/-- The fields of SERAI are where R166 puts them. -/
theorem serai_fields {words n : Nat} (lo : 1 ≤ words) (hi : words ≤ 4) (hn : n ≤ 4096) :
    let w := BitVec.ofNat 32 ((words - 1) * 2 ^ 14 + n)
    (w.extractLsb' 0 13).toNat = n ∧ w.getLsbD 13 = false ∧ (w.extractLsb' 14 2).toNat + 1 = words ∧
      w.extractLsb' 16 16 = 0 := by
  refine ⟨(extract_ofNat ..).trans ?_, getLsbD_of_field (by decide) ?_, ?_,
    extract_ofNat_zero ?_⟩
  · omega
  · rw [Bool.toNat_false]; omega
  · rw [extract_ofNat]; omega
  · omega

/-- The fields of PERF are where R167 puts them. -/
theorem perf_fields {req level : Nat} (hr : req < 8) (hl : level < 8) :
    let w := BitVec.ofNat 32 (req + 8 * level)
    (w.extractLsb' 0 3).toNat = req ∧ (w.extractLsb' 3 3).toNat = level ∧ w.extractLsb' 6 26 = 0 := by
  refine ⟨(extract_ofNat ..).trans ?_, (extract_ofNat ..).trans ?_, extract_ofNat_zero ?_⟩
  · omega
  · omega
  · omega

theorem wordPair (d : DWord) : [lo32 d, hi32 d] = [d.setWidth 32, d.extractLsb' 32 32] := by
  rw [extractLsb'_high]; rfl

theorem nameWord_eq (n : Name) (k : Nat) : nameWord n k = n.extractLsb' (32 * k) 32 := by
  rw [BitVec.extractLsb', Nat.shiftRight_eq_div_pow]; rfl

/-! ### The block of a group -/

theorem slotOf_block (hb : s.block? g.block = some b) : s.slotOf g = b.slot := by
  rw [State.slotOf, hb]; rfl

theorem clusterOf_block (hb : s.block? g.block = some b) : s.clusterOf g = b.cluster := by
  rw [State.clusterOf, hb]; rfl

theorem ctxOf_block (hb : s.block? g.block = some b) : s.ctxOf g = s.ctx b.slot := by
  rw [State.ctxOf, slotOf_block hb]

/-! ### SRD -/

theorem srdS_gives (d : SReg) (n : SpecReg) : Gives (.srdS d n) fun s g c =>
    (s.afterSpecial g n).setGroup ((s.special g (maskLowest c.exec) n).zipIdx.foldl
      (fun g' e => g'.writeS (d.val + e.2) e.1) g) := by
  intro s g c hi
  refine (issues_next hi).trans ?_
  simp only [List.mapIdx_eq_zipIdx_map, List.foldl_map]

theorem afterSpecial_cycle (s : State) (g : Machine.Group) : s.afterSpecial g .cycle =
    s.modCluster (s.clusterOf g) fun k => { k with cycle := s.cycleNow (s.clusterOf g) } := if_pos rfl

/-- A read of CYCLE shows the clock further on by a free number of cycles, and leaves it there (R49). -/
theorem special_cycle (s : State) (g : Machine.Group) (l : Nat) : ∃ (v : DWord) (n : Word),
    v = (s.cluster (s.clusterOf g)).cycle + n.setWidth 64 ∧
    s.special g l .cycle = [v.setWidth 32, v.extractLsb' 32 32] ∧
    (s.afterSpecial g .cycle).cluster (s.clusterOf g) = { s.cluster (s.clusterOf g) with cycle := v } ∧
    (∀ k, k ≠ s.clusterOf g → (s.afterSpecial g .cycle).cluster k = s.cluster k) ∧
    { s.afterSpecial g .cycle with clusters := [] } = { s with clusters := [] } := by
  refine ⟨s.cycleNow (s.clusterOf g), s.free 2, by rw [State.cycleNow, BitVec.ofNat_toNat], wordPair _, ?_,
    fun k hk => ?_, rfl⟩
  · rw [afterSpecial_cycle, cluster_modCluster_same]
  · rw [afterSpecial_cycle, cluster_modCluster_ne _ hk]

theorem special_gstatus (s : State) (g : Machine.Group) (l : Nat) : ∃ w : Word, s.special g l .gstatus = [w] ∧
    w.getLsbD 0 = g.serial ∧ w.getLsbD 1 = false ∧ w.getLsbD 2 = g.restored ∧ w.getLsbD 3 = g.replay ∧
    w.getLsbD 4 = decide (g.helpers g.live ≠ 0) ∧ w.getLsbD 5 = s.shared g ∧
    w.getLsbD 6 = decide (g.width = 64) ∧ w.getLsbD 7 = g.allDone ∧ (w.extractLsb' 8 2).toNat = g.gmode ∧
    (w.extractLsb' 10 2).toNat = g.role % 4 ∧ (w.extractLsb' 12 4).toNat = (if g.serial then 0 else min 8 g.paths) ∧
    w.extractLsb' 16 16 = 0 :=
  ⟨_, congrArg ([·]) (gstatus_eq s g), gstatus_fields _ _ _ _ _ _ _ (gmode_lt g) (Nat.mod_lt _ (by decide))
    (by split <;> omega)⟩

theorem special_serai (s : State) (g : Machine.Group) (l : Nat) : (g.gen = none → s.special g l .serai = [0]) ∧
    ∀ x, g.gen = some x → 1 ≤ x.words → x.words ≤ 4 → x.entries.length ≤ 4096 → ∃ w : Word,
      s.special g l .serai = [w] ∧ (w.extractLsb' 0 13).toNat = x.entries.length ∧ w.getLsbD 13 = false ∧
      (w.extractLsb' 14 2).toNat + 1 = x.words ∧ w.extractLsb' 16 16 = 0 := by
  refine ⟨fun h => ?_, fun x h lo hi len => ⟨_, ?_, serai_fields lo hi len⟩⟩
  · exact congrArg ([·]) (by rw [Machine.Group.seraiReg, h])
  · exact congrArg ([·]) (by rw [Machine.Group.seraiReg, h])

/-- Settles O12: SRD writes the register's words, and each register's words have their fields in place. -/
theorem specialReads : Obligations.SpecialReads := by
  refine ⟨srdS_gives, fun d n s g c hi => issues_next hi, fun s g n hn => if_neg hn, special_cycle, fun s g l => ?_,
    special_serai, fun s g l b hb => ?_⟩
  · obtain ⟨w, hw, b0, b1, b2, b3, b4, b5, b6, b7, mode, rest⟩ := special_gstatus s g l
    refine ⟨w, hw, b0, b1, b2, b3, b4, b5, b6, b7, mode.trans ?_, rest⟩
    cases h : g.gen with
    | none => exact gmode_of_none h
    | some x => exact gmode_of_some h
  · simp only [State.special, ctxOf_block hb, clusterOf_block hb, hb, Option.map_some, Option.getD_some, true_and]
    refine ⟨fun h => by rw [if_pos h], ?_, wordPair _, wordPair _, ?_, ?_⟩
    · simp only [nameWord_eq]
      rfl
    · intro u hu
      rw [Block.spBase, hu, Nat.mul_comm]
      rfl
    · exact fun hr hl => ⟨_, rfl, perf_fields hr hl⟩

/-! ### Windows -/

theorem ite_eq_ite_of_iff_not {α : Sort*} {p q : Prop} [Decidable p] [Decidable q] {x y : α} (h : p ↔ ¬ q) :
    (if p then x else y) = if q then y else x := by
  rw [if_congr h rfl rfl, ite_not]

/-- Settles O13: the bounds that the model checks are the negations of those stated, and its trap is that of the
executing lanes. -/
theorem windowMoves : Obligations.WindowMoves := by
  refine ⟨fun a s g c hi => ?_, fun a s g c hi => ?_, fun a s g c hi => issues_next hi, fun i s g c hi => ?_,
    fun i s g c hi => ?_⟩ <;> refine (issues_next hi).trans (congrArg _ (ite_eq_ite_of_iff_not ?_))
  · omega
  · omega
  · rw [sext]
    omega
  · simp only [sext, List.any_eq_true, not_forall, exists_prop]
    exact exists_congr fun l => and_congr_right fun _ => decide_eq_true_iff.trans (by omega)

end Sys2Proof.Proofs
end

section
/-! The service's messages (R410 to R413, R421): a request that is served and its response, for O55. -/

namespace Sys2Proof.Proofs

open Sys2Proof.Machine Sys2Proof.Laws Sys2Proof.Claims

variable {s t : State} {q : Req} {g : Machine.Group} {u n l : Nat}

/-! ### Serving and responding -/

/-- A request of a slot in use is served, when any connection may make it or it comes from the slot's own (R408). -/
theorem serve_eq {op : Nat} {any : Bool} {k : Ctx → State → State} (running : s.running ≠ none) (good : q.bad = false)
    (slot : q.slot.val ≠ 0) (used : (s.ctx q.slot.val).state ≠ .free)
    (may : any = true ∨ (s.ctx q.slot.val).conn = some q.conn) :
    s.serve q op any k = k (s.ctx q.slot.val) s.callHalted := by
  have denied : ¬ (!any ∧ (s.ctx q.slot.val).conn ≠ some q.conn) := by
    obtain rfl | own := may
    · simp
    · simp [own]
  unfold State.serve
  dsimp only
  rw [if_neg (by simpa using running), if_neg (by simp [good, slot]), if_neg used, if_neg denied]

theorem serve_served {op : Nat} {any : Bool} {k : Ctx → State → State} (h : Served s q) :
    s.serve q op any k = k (s.ctx q.slot.val) s.callHalted := by
  obtain ⟨running, good, slot, used, own⟩ := h
  exact serve_eq running good slot used (.inr own)

theorem responds {o : Host.Outcome State Fault Refusal} {op : Nat} {st : Status} {p : List Byte} {P : State → Prop}
    (answer : o = .next (t.respond q op st p)) (out : t.outbox = s.outbox) (holds : P (t.respond q op st p)) :
    Responds o s q op st.num p P :=
  ⟨_, answer, rfl, congrArg (List.length · + 1) out, holds⟩

/-! ### Groups that a message lets go on -/

theorem group?_callHalted (h : s.group? u = some g) : s.callHalted.group? u = some (calledGroup g) := by
  have map : s.callHalted.groups = s.groups.map calledGroup := rfl
  rw [State.group?, map, List.find?_map]
  exact congrArg (Option.map calledGroup) h

theorem lane_map {f : Lane → Lane} (hl : l < g.lanes.length) :
    Machine.Group.lane { g with lanes := g.lanes.map f } l = f (g.lane l) := by
  simp [Machine.Group.lane, hl]

theorem st_release {st : LaneState} (hl : l < g.lanes.length) :
    ((g.release st).lane l).st = if (g.lane l).st = st then .runnable else (g.lane l).st :=
  congrArg Lane.st (lane_map hl)

theorem called_eq_parked {x : LaneState} {p : Park} (hp : ∀ b, p ≠ .halt b) : x.called = .parked p ↔ x = .parked p := by
  unfold LaneState.called
  split
  · exact ⟨fun h => absurd (LaneState.parked.inj h).symm (hp _), fun h => absurd (LaneState.parked.inj h).symm (hp _)⟩
  · rfl

/-- What a lane of a released group does, of which the request itself has called the halted lanes (R356). -/
theorem st_release_called {p : Park} (hp : ∀ b, p ≠ .halt b) (hl : l < g.lanes.length) :
    (((calledGroup g).release (.parked p)).lane l).st =
      if (g.lane l).st = .parked p then .runnable else (called (g.lane l)).st := by
  rw [st_release (by simpa [calledGroup] using hl), calledGroup, lane_map hl]
  exact if_congr (called_eq_parked hp) rfl rfl

theorem release_idem {st : LaneState} (hst : st ≠ .runnable) (g : Machine.Group) :
    (g.release st).release st = g.release st := by
  have go (x : LaneState) : (if (if x = st then LaneState.runnable else x) = st then LaneState.runnable
      else if x = st then LaneState.runnable else x) = if x = st then LaneState.runnable else x := by
    by_cases h : x = st
    · rw [if_pos h, if_neg hst.symm]
    · rw [if_neg h, if_neg h]
  simp only [Machine.Group.release, List.map_map, Function.comp_def, go]

theorem group?_modAnywhere (s : State) (v : Nat) {f : Machine.Group → Machine.Group} (hf : ∀ g, (f g).uid = g.uid)
    (h : s.group? u = some g) : (s.modAnywhere v f).group? u = some (if u = v then f g else g) := by
  refine (group?_modGroup s v u f hf).trans ?_
  split
  · next e => rw [← e, h, Option.map_some]
  · exact h

/-- Groups of a list are let go on: one that it names twice as one that it names once. -/
theorem group?_foldl_modAnywhere {f : Machine.Group → Machine.Group} (hf : ∀ g, (f g).uid = g.uid)
    (idem : ∀ g, f (f g) = f g) (us : List Nat) (h : s.group? u = some g) :
    (us.foldl (fun s v => s.modAnywhere v f) s).group? u = some (if u ∈ us then f g else g) := by
  induction us generalizing s g with
  | nil => exact h
  | cons v us ih =>
    rw [List.foldl_cons, ih (group?_modAnywhere s v hf h)]
    by_cases hv : u = v <;> simp [hv, idem]

/-! ### The RAS log -/

theorem popRasN_all (hn : s.ras.length ≤ n) (none : s.rasDropped = 0) :
    State.popRasN n s = (s.ras, { s with ras := [] }) := by
  induction n generalizing s with
  | zero =>
    have empty : s.ras = [] := List.eq_nil_of_length_eq_zero (by omega)
    rw [State.popRasN, ← empty]
  | succ n ih =>
    cases h : s.ras with
    | nil => rw [State.popRasN, popRas_nil h, ← h]
    | cons x xs =>
      rw [h, List.length_cons] at hn
      rw [State.popRasN, popRas_cons h none]
      dsimp only
      rw [ih (s := { s with ras := xs }) (by dsimp only; omega) none]

/-! ### The requests -/

theorem askService_denied {job : Job} (h : Served s q) (off : (s.ctx q.slot.val).ccb.debug = false) :
    s.askService q job false = s.callHalted.respond q job.op .denied [] := by
  rw [State.askService, serve_served h, if_neg (by decide), if_pos (by rw [off]; rfl)]

theorem askService_launches {job : Job} (h : Served s q) (on : (s.ctx q.slot.val).ccb.debug = true)
    (room : s.clustersOf (s.ctx q.slot.val).ccb.part ≠ []) :
    s.askService q job false = s.callHalted.launchService q job := by
  rw [State.askService, serve_served h, if_neg (by decide), if_neg (by rw [on]; decide)]
  exact if_neg room

theorem watch_answers {x : List Byte} {k : Byte} (hk : k.toNat ≤ 15) (len : x.length = 64)
    (spec : specBad x = false) : exec (.watchRequest q k x) s = .next (s.askService q (.watch k.toNat x) false) := by
  change execWatchRequest q k x s = _
  rw [execWatchRequest, spec, decide_eq_false (by omega), decide_eq_false (by simp [len])]
  rfl

theorem replay_answers {a b : DWord} (ha : wellFormed a 64) (hb : wellFormed b 64) :
    exec (.replayRequest q a b) s = .next (s.askService q (.replay a b) false) := by
  obtain ⟨ca, ma⟩ := ha
  obtain ⟨cb, mb⟩ := hb
  change execReplayRequest q a b s = _
  rw [execReplayRequest, ca, cb, decide_eq_false (by simp [ma]), decide_eq_false (by simp [mb])]
  rfl

theorem attest_answers {x : List Byte} (running : s.running ≠ none) (good : q.bad = false) (slot : q.slot.val ≠ 0)
    (used : (s.ctx q.slot.val).state ≠ .free) (len : x.length = 32) : exec (.attest q x) s = .next (
      if 32768 ≤ s.leaf then s.callHalted.respond q 0x0D .exhausted []
      else { s.callHalted with leaf := s.leaf + 1 }.respond q 0x0D .ok
        (s.attested x s.leaf ++ (List.range 1616).map fun i => Config.hssSign s.leaf (s.attested x s.leaf) i)) := by
  change execAttest q x s = _
  rw [execAttest, serve_eq running good slot used (.inl rfl), if_neg (by simp [len])]
  rfl

theorem padTo_of_length {k : Nat} {x : List Byte} (h : x.length = k) : padTo k x = x := by
  rw [padTo, List.take_append_of_le_length h.ge, List.take_of_length_le h.le]

/-- The signed bytes begin with the request's own (R411). -/
theorem take_attested {x : List Byte} (h : x.length = 32) (leaf : Nat) (rest : List Byte) :
    (s.attested x leaf ++ rest).take 32 = x := by
  simp only [State.attested, padTo_of_length h, List.append_assoc]
  rw [List.take_append_of_le_length h.ge, List.take_of_length_le h.le]

theorem svcanswer_answers {t a : Word} {m : Mask} (h : Served s q)
    (event : s.eventOf (s.ctx q.slot.val).slot t = some (n, .svc u m)) : exec (.svcanswer q t a) s = .next (
      ((s.callHalted.modAnywhere u fun g => { g.release (.parked (.svc n)) with svcarg := a }).settled n).respond
        q 0x10 .ok []) := by
  change execSvcanswer q t a s = _
  rw [execSvcanswer, serve_served h, show s.callHalted.eventOf _ _ = _ from event]

theorem resume_answers {t : Word} {e : Nat} (h : Served s q)
    (event : s.eventOf (s.ctx q.slot.val).slot t = some (e, .brk n)) :
    exec (.resume q t) s = .next ((s.callHalted.releaseBreak n).respond q 0x12 .ok []) := by
  change execResume q t s = _
  rw [execResume, serve_served h, show s.callHalted.eventOf _ _ = _ from event]

theorem releaseBreak_frame (s : State) (n : Nat) :
    (s.releaseBreak n).mem = s.mem ∧ (s.releaseBreak n).outbox = s.outbox := by
  let go (s : State) (v : Nat) : State := s.modAnywhere v fun g => g.release (.parked (.brk n))
  exact ⟨foldl_keeps (·.mem) go (fun _ _ => rfl) _ s, foldl_keeps (·.outbox) go (fun _ _ => rfl) _ s⟩

theorem group?_releaseBreak {r : Record} (hr : r ∈ s.records) (hn : r.num = n) (hu : u ∈ r.groups)
    (h : s.group? u = some g) :
    (s.releaseBreak n).group? u = some (g.release (.parked (.brk n))) := by
  have mem : u ∈ (s.records.filter fun r => r.num == n).flatMap Record.groups :=
    List.mem_flatMap.mpr ⟨r, List.mem_filter.mpr ⟨hr, by simp [hn]⟩, hu⟩
  refine (group?_foldl_modAnywhere (f := fun g => g.release (.parked (.brk n))) (fun _ => rfl)
    (release_idem (by simp)) _ h).trans ?_
  rw [if_pos mem]

theorem faultanswer_answers {t a : Word} {e : Nat} {r : Record} (h : Served s q)
    (event : s.eventOf (s.ctx q.slot.val).slot t = some (e, .fault n))
    (record : s.records.find? (fun r => r.num == n) = some r) (lo : 1 ≤ a.toNat) (hi : a.toNat ≤ 4) :
    exec (.faultanswer q t a) s = .next ((s.callHalted.answer r a.toNat).mirror.respond q 0x11 .ok []) := by
  change execFaultanswer q t a s = _
  rw [execFaultanswer, serve_served h, show s.callHalted.eventOf _ _ = _ from event]
  dsimp only
  rw [show s.callHalted.records.find? _ = _ from record]
  exact congrArg _ (if_neg (by omega))

/-- The response to a BIND, and behind it the events that the slot has held, in order (R413). -/
def boundOutbox (s : State) (q : Req) : State :=
  let t := s.callHalted.respond q 0x13 .ok (natLe 4 (s.ctx q.slot.val).dropped)
  { t with outbox := ((s.ctx q.slot.val).held.map fun h => { h with conn := some q.conn }).reverse ++ t.outbox }

theorem bindSlot_binds {t : DWord} (running : s.running ≠ none) (good : q.bad = false) (slot : q.slot.val ≠ 0)
    (used : (s.ctx q.slot.val).state ≠ .free) (right : (s.ctx q.slot.val).token = some t)
    (unbound : (s.ctx q.slot.val).conn = none) : exec (.bindSlot q t) s = .next
      ((boundOutbox s q).modCtx q.slot.val fun x => { x with conn := some q.conn, held := [], dropped := 0 }) := by
  change execBindSlot q t s = _
  rw [execBindSlot, serve_eq running good slot used (.inl rfl), if_neg (not_not_intro right),
    if_neg (by simp [unbound]), ctx_slot]
  rfl

theorem bootstatus_runs (good : q.bad = false)
    (may : s.running = none ∨ q.slot.val ≠ 0 ∧ (s.ctx q.slot.val).state ≠ .free) :
    ∃ t, (t = s ∨ t = s.callHalted) ∧ exec (.bootstatus q) s = .next (t.respond q 0x0E .ok
      (natLe 4 s.bringup0.toNat ++ natLe 4 s.lpok.toNat ++ natLe 4 s.tomup.toNat)) := by
  change ∃ t, _ ∧ execBootstatus q s = _
  unfold execBootstatus
  by_cases running : s.running = none
  · exact ⟨s, .inl rfl, by simp [running, good]⟩
  · obtain ⟨slot, used⟩ := may.resolve_left running
    refine ⟨s.callHalted, .inr rfl, ?_⟩
    dsimp only
    rw [if_pos (Option.isSome_iff_ne_none.mpr running), serve_eq running good slot used (.inl rfl)]

theorem bootstatus_absent (good : q.bad = false) (running : s.running ≠ none) (slot : q.slot.val ≠ 0)
    (free : (s.ctx q.slot.val).state = .free) :
    exec (.bootstatus q) s = .next (s.callHalted.respond q 0x0E .absent []) := by
  change execBootstatus q s = _
  rw [execBootstatus, if_pos (Option.isSome_iff_ne_none.mpr running), State.serve]
  dsimp only
  rw [if_neg (by simpa using running), if_neg (by simp [good, slot]), if_pos free]
  rfl

/-- Settles O55: each request that is served (`serve_eq`) answers with one response, and what it does beside that is
one update: a launch, the RAS log taken whole (`popRasN_all`), the lanes let go on
(`st_release_called`), the slot bound. -/
theorem otherRequests : Obligations.OtherRequests := by
  refine ⟨fun q k x s h hk len spec => ⟨fun off => ?_, fun on room => ?_⟩, fun q a t s h ha ht on room => ?_,
    fun q s running good slot used => ?_, fun q s h len none => ?_, fun q x s running good slot used len leaf => ?_,
    fun q x s running good slot used len leaf => ?_, fun q s good may => ?_, fun q s good running slot free => ?_,
    fun q t a s n u m g h event hg => ?_, fun q t a s e n r h event record lo hi => ?_,
    fun q t s e n r u g h event hr hn hu hg => ?_, fun q t s running good slot used => ⟨fun wrong => ?_,
    fun right open_ => ?_, fun right unbound => ?_⟩, fun n s => ?_, fun p s => ?_⟩
  · exact responds (st := .denied) ((watch_answers hk len spec).trans (congrArg _ (askService_denied h off))) rfl rfl
  · exact (watch_answers hk len spec).trans (congrArg _ (askService_launches h on room))
  · exact (replay_answers ha ht).trans (congrArg _ (askService_launches h on room))
  · exact responds (st := .ok) (t := s.callHalted) (congrArg _ (serve_eq running good slot used (.inl rfl))) rfl rfl
  · refine responds (st := .ok) (t := { s.callHalted with ras := [] }) (congrArg _ ((serve_served h).trans ?_)) rfl rfl
    rw [popRasN_all (s := s.callHalted) len none]
    rfl
  · refine ⟨_, (attest_answers running good slot used len).trans (congrArg _ (if_neg (by omega))), rfl, _, rfl,
      rfl, rfl, take_attested len .., ?_⟩
    simp
  · exact responds (st := .exhausted)
      ((attest_answers running good slot used len).trans (congrArg _ (if_pos leaf))) rfl rfl
  · obtain ⟨t, rfl | rfl, answer⟩ := bootstatus_runs good may <;> exact responds (st := .ok) answer rfl rfl
  · exact responds (st := .absent) (bootstatus_absent good running slot free) rfl rfl
  · have group := group?_modAnywhere s.callHalted u
      (f := fun g => { g.release (.parked (.svc n)) with svcarg := a }) (fun _ => rfl) (group?_callHalted hg)
    rw [if_pos rfl] at group
    exact responds (st := .ok) (svcanswer_answers h event) rfl
      ⟨rfl, _, group, rfl, fun l hl => st_release_called (by simp) hl⟩
  · exact faultanswer_answers h event record lo hi
  · obtain ⟨mem, out⟩ := releaseBreak_frame s.callHalted n
    exact responds (st := .ok) (resume_answers h event) out ⟨mem, fun k hk => by simpa using (List.mem_filter.mp hk).2,
      fun k hk => by simpa using (List.mem_filter.mp hk).2, _, group?_releaseBreak hr hn hu (group?_callHalted hg),
      fun l hl => st_release_called (by simp) hl⟩
  · exact responds (st := .denied) (t := s.callHalted)
      (congrArg _ ((serve_eq running good slot used (.inl rfl)).trans (if_pos wrong))) rfl rfl
  · refine responds (st := .busy) (t := s.callHalted)
      (congrArg _ ((serve_eq running good slot used (.inl rfl)).trans ?_)) rfl rfl
    dsimp only
    rw [if_neg (not_not_intro right), if_pos (Option.isSome_iff_ne_none.mpr open_)]
  · have now := modCtx_ctx (boundOutbox s q) q.slot.val
      (f := fun x => { x with conn := some q.conn, held := [], dropped := 0 })
      fun _ => rfl
    refine ⟨_, bindSlot_binds running good slot used right unbound, ?_, ?_, ?_, rfl, _, rfl, rfl, rfl⟩ <;> rw [now]
  · refine ⟨_, rfl, rfl, List.length_map _, fun c hc => ?_⟩
    obtain ⟨x, -, rfl⟩ := List.mem_map.mp hc
    split
    · simp
    · assumption
  · let refused := tget 0 s.drops p.val + 1
    exact ⟨_, rfl, tget_tset_same 0 refused p.val s.drops, fun k hk => tget_tset_ne 0 refused s.drops hk, rfl⟩

end Sys2Proof.Proofs
end

section
/-! Answers to fault records (R372, R375): one clause of O53 fails where two blocks have one number. -/

namespace Sys2Proof.Proofs

open Sys2Proof.Machine Sys2Proof.Laws Sys2Proof.Claims

/-- The replay that group 10 has started. -/
def startedReplay : Replay :=
  { num := 5, group := 10, slot := 0, flag := none, dst := 0, recBytes := [], retain := [], traceAt := 0, cap := 0
    cond := 0, trace := [], written := 0, ordinal := 0, lastAt := (0, 0), overlay := [], kernel := 0, lane := 0
    block := some 1, grid := none, status := none, record := none, dropped := false, mask := 0, word := 0, header := 0 }

/-- A block of a number, in the grid of that number. -/
def numberedBlock (n : Nat) (kind : BlockKind) : Block := { hostBlock 1 with uid := n, grid := n, kind := kind }

/-- Group 10 in block 2, and group 11 in block 1, whose number the block of the replay has too. -/
def sharedNumberState : State :=
  { groups := [{ hostGroup [] with uid := 10, block := 2 }, { hostGroup [] with uid := 11, block := 1 }]
    blocks := [numberedBlock 1 .compute, numberedBlock 1 (.replay 5), numberedBlock 2 .compute]
    replays := [startedReplay] }

/-- A record that holds both groups. -/
def bothGroups : Record :=
  { sharedNumberState.recordOf (hostGroup []) { code := .notmapped } 1 0 0 with who := [(10, 1), (11, 1)] }

/-- The kill of block 2 ends the replay's block and, with it, all of number 1; group 11 is gone when its turn comes. -/
theorem killGroups_sharedNumberState :
    (((sharedNumberState.killGroups bothGroups bothGroups.groups .counted).dropRecord bothGroups.num).queue.map
      (·.what)) = [.again 2 0 1] := by decide

/-- Refutes O53: its clause about KILL and RELAUNCH says that a RELAUNCH queues the block of each group of the record
again, for every state whose groups have numbers of their own. Where two blocks have one number (no run forms such a
state) and the second is that of a replay, the kill of the block that started the replay ends both, as `scrapOne` takes
out every block of the number, and queues neither. -/
theorem not_faultAnswers : ¬ Obligations.FaultAnswers := by
  rintro ⟨-, -, -, -, -, kills, -⟩
  obtain ⟨-, -, -, relaunched⟩ := kills sharedNumberState bothGroups 11 { hostGroup [] with uid := 11, block := 1 }
    (numberedBlock 1 .compute) (by decide) (by decide) rfl rfl .counted
  obtain ⟨e, he, what, -⟩ := relaunched rfl (by decide) fun n => by simp [numberedBlock]
  have queued := List.mem_map_of_mem (f := fun e : QEntry => e.what) he
  rw [killGroups_sharedNumberState, what] at queued
  exact absurd queued (by decide)

end Sys2Proof.Proofs
end

section
/-! What a store of the device leaves of the state: all but memory, its marks and caches, the page's use, the RAS log,
the registers behind device addresses and the groups (04 R76; 19 R379; 20 R393). -/

namespace Sys2Proof.Proofs

open Sys2Proof.Machine Sys2Proof.Laws Sys2Proof.Claims

variable {s t : State} {w : Who}

/-- A state but for what an access to memory may change. -/
def accessFrame (s : State) : State := { s with
  agenda := [], mem := [], memPoison := [], codedPoison := [], groups := [], engines := [], replays := [], tlbs := []
  fills := [], heads := [], parts := [], frbase := 0, busyRoutes := [], ras := [], rasDropped := 0, rasClock := 0
  rasCount := [] }

theorem accessFrame_logRas (r : Ras) : accessFrame (s.logRas r) = accessFrame s := by
  have put (t : State) (r : Ras) : accessFrame (t.putRas r) = accessFrame t := rfl
  have drops (t : State) (u n : Nat) : accessFrame (t.reportDrops u n) = accessFrame t := by
    unfold State.reportDrops
    split
    · exact put { t with rasDropped := 0 } _
    · rfl
  have clock : accessFrame (({ s with rasClock := max s.rasClock r.time } : State).reportDrops r.unit r.time) =
      accessFrame s := drops { s with rasClock := max s.rasClock r.time } _ _
  unfold State.logRas
  dsimp only
  rw [← clock]
  generalize ({ s with rasClock := max s.rasClock r.time } : State).reportDrops r.unit r.time = t
  split
  · exact put t r
  · split
    · exact put { t with ras := t.ras.eraseP fun x => x.type == 1 } r
    · rfl

theorem accessFrame_touch (va : Nat) (d : Bool) : accessFrame (s.touch w va d) = accessFrame s := by
  have stale (l : Leaf) : accessFrame (s.staleUse w va l) = accessFrame s := by
    unfold State.staleUse
    split
    · split
      · rfl
      · exact accessFrame_logRas _
    · rfl
  have cache (t : State) (l : Leaf) : accessFrame (t.cacheLeaf w va l) = accessFrame t := by
    unfold State.cacheLeaf; split <;> rfl
  have fill (t : State) (l : Leaf) : accessFrame (t.fillLine w va l) = accessFrame t := by
    unfold State.fillLine; split <;> rfl
  unfold State.touch
  split
  · next l _ =>
    cases d
    · exact (cache _ l).trans (stale l)
    · exact (fill _ l).trans ((cache _ l).trans (stale l))
  · rfl

theorem accessFrame_globSpoil (pa n : Nat) : accessFrame (s.globSpoil w pa n) = accessFrame s := by
  unfold State.globSpoil State.spoilWhere
  split <;> rfl

theorem accessFrame_regWrite (off : Nat) (v : Word) : accessFrame (s.regWrite off v) = accessFrame s := by
  unfold State.regWrite State.writeHeadCtl State.modHead State.modPart
  split
  · split <;> rfl
  · split <;> split <;> rfl

theorem accessFrame_physWrite (pa : Nat) (bs : MBytes) : accessFrame (s.physWrite pa bs) = accessFrame s := by
  obtain ⟨m, p, k, h⟩ := physWrite_frame s pa bs
  rw [h]
  rfl

theorem accessFrame_putOne (all : List Put) (p : Put) (done : List Nat) :
    accessFrame (putOne s all p done) = accessFrame s := by
  have code (t : State) (k : List Nat) : accessFrame { t with codedPoison := k } = accessFrame t := rfl
  unfold putOne
  split
  · rfl
  · split
    · exact accessFrame_regWrite _ _
    · split
      · split
        · rfl
        · unfold State.recode
          dsimp only
          rw [accessFrame_physWrite, code, accessFrame_physWrite, code]
      · exact accessFrame_physWrite _ _

theorem accessFrame_putAll (all ps : List Put) (done : List Nat) :
    accessFrame (s.putAll all ps done) = accessFrame s := by
  induction ps generalizing s done with
  | nil => rfl
  | cons p ps ih => rw [putAll_cons, ih, accessFrame_putOne]

theorem accessFrame_perform (ps : List Put) : accessFrame (s.perform w ps) = accessFrame s := by
  unfold State.perform
  split
  · rfl
  · dsimp only
    rw [foldl_keeps accessFrame (fun t (p : Put) => t.globSpoil w p.pa p.data.length)
        fun _ _ => accessFrame_globSpoil ..,
      foldl_keeps accessFrame (fun t (p : Put) => t.touch w p.va true) fun _ _ => accessFrame_touch ..]
    exact accessFrame_putAll ..

/-- A store that the device makes for itself, performed where it can be. -/
theorem accessFrame_quietStore (va : Nat) (bs : List Byte) :
    accessFrame ((s.quietStore w va bs).getD s) = accessFrame s := by
  unfold State.quietStore
  split
  · exact accessFrame_perform ..
  · rfl

end Sys2Proof.Proofs
end

section
/-! What filing a fault record does: it goes to a fault buffer with room, by itself where it joins no unanswered record,
and leaves the blocks, and the contexts but for the events they hold (19 R367, R410). -/

namespace Sys2Proof.Proofs

open Sys2Proof.Machine Sys2Proof.Laws Sys2Proof.Claims

variable {s t : State} {r : Record} {n : Nat}

/-- With room in its fault buffer a record whose code stands in no unanswered record that it could join is entered. -/
theorem enterRecord_apart (apart : r.unit = true → ∀ x ∈ s.records, x.code ≠ r.code)
    (hb : s.buffered r.cluster < 256) :
    ∃ t, s.enterRecord r = some (s.fresh, true, t) ∧ ∃ k j, entered r s.fresh k j ∈ t.records := by
  have there : { r with num := s.fresh, index := s.freePlace r.cluster } ∈
      s.records ++ [{ r with num := s.fresh, index := s.freePlace r.cluster }] := by simp
  obtain ⟨j, hj⟩ := mem_mirror_records (s := { s with
    fresh := s.fresh + 1, records := s.records ++ [{ r with num := s.fresh, index := s.freePlace r.cluster }] }) there
  refine ⟨_, ?_, _, j, hj⟩
  unfold State.enterRecord
  dsimp only
  split
  · next x hx =>
    split at hx
    · next unit =>
      have same := List.find?_some hx
      simp only [Bool.and_eq_true, beq_iff_eq] at same
      obtain ⟨⟨-, code⟩, -⟩ := same
      exact absurd code (apart unit x (List.mem_of_find?_eq_some hx))
    · cases hx
  · rw [if_neg (by omega)]

/-- Such a record is filed with the next number. -/
theorem fileRecord_apart (apart : r.unit = true → ∀ x ∈ s.records, x.code ≠ r.code)
    (hb : s.buffered r.cluster < 256) :
    ∃ t, s.fileRecord r = some (s.fresh, t) ∧ ∃ k j, entered r s.fresh k j ∈ t.records := by
  obtain ⟨t, ht, k, j, hm⟩ := enterRecord_apart apart hb
  refine ⟨(t.sendEvent r.slot 0x42 r.bytes (some (.fault s.fresh))).countLogic r, ?_, k, j, ?_⟩
  · unfold State.fileRecord
    rw [ht]
    rfl
  · rw [countLogic_records, sendEvent_records]
    exact hm

/-- A record is filed, by itself or with another one, where its fault buffer has room. -/
theorem fileRecord_room (hb : s.buffered r.cluster < 256) : ∃ n t, s.fileRecord r = some (n, t) := by
  obtain ⟨m, b, t, ht⟩ : ∃ m b t, s.enterRecord r = some (m, b, t) := by
    unfold State.enterRecord
    dsimp only
    split
    · exact ⟨_, _, _, rfl⟩
    · rw [if_neg (by omega)]
      exact ⟨_, _, _, rfl⟩
  unfold State.fileRecord
  rw [ht]
  exact ⟨_, _, rfl⟩

/-- What a record's entry in the fault buffer leaves as it was. -/
theorem enterRecord_keeps {b : Bool} (h : s.enterRecord r = some (n, b, t)) :
    t.blocks = s.blocks ∧ t.ctxs = s.ctxs := by
  unfold State.enterRecord at h
  dsimp only at h
  split at h
  · cases h
    split
    · next x _ i _ =>
      obtain ⟨m, p, k, written⟩ := physWrite_frame _ (State.ringEntry _ i + 14) _
      rw [written]
      exact ⟨rfl, rfl⟩
    · exact ⟨rfl, rfl⟩
  · split at h
    · cases h
    · cases h
      obtain ⟨m, p, k, rs, j, shown⟩ := mirror_frame _
      rw [shown]
      exact ⟨rfl, rfl⟩

theorem sendEvent_blocks (s : State) (n op : Nat) (p : List Byte) (aw : Option Awaited) :
    (s.sendEvent n op p aw).blocks = s.blocks := by
  have call : (if op = 0x41 ∨ op = 0x42 ∨ op = 0x43 then s.callHalted else s).blocks = s.blocks := by split <;> rfl
  unfold State.sendEvent
  dsimp only
  generalize (if op = 0x41 ∨ op = 0x42 ∨ op = 0x43 then s.callHalted else s) = q at call ⊢
  rw [← call]
  cases aw <;> dsimp only <;> (repeat' split) <;> rfl

theorem SameCtxs.hslots (h : SameCtxs s t) (n : Nat) : (t.ctx n).hslots = (s.ctx n).hslots :=
  (congrArg Ctx.hslots (h n) :)

theorem fileRecord_keeps (h : s.fileRecord r = some (n, t)) : t.blocks = s.blocks ∧ SameCtxs s t := by
  unfold State.fileRecord at h
  split at h
  · cases h
  · next b x hx =>
    obtain ⟨blocks, ctxs⟩ := enterRecord_keeps hx
    have counted (y : State) : (y.countLogic r).blocks = y.blocks ∧ (y.countLogic r).ctxs = y.ctxs := by
      unfold State.countLogic
      split <;> exact ⟨rfl, rfl⟩
    cases h
    refine ⟨(counted _).1.trans ?_, .trans ?_ (.of_ctxs (counted _).2)⟩
    · split
      · exact (sendEvent_blocks ..).trans blocks
      · exact blocks
    · split
      · exact (SameCtxs.of_ctxs ctxs).trans (sendEvent_sameCtxs x _ _ _ _)
      · exact .of_ctxs ctxs

end Sys2Proof.Proofs
end

section
/-! What the destinations of a faulting instruction change when they become Undefined: registers of its group, and of
no other lane than those that fault (19 R371). -/

namespace Sys2Proof.Proofs

open Sys2Proof.Machine Sys2Proof.Laws Sys2Proof.Claims

variable {s : State} {g y z : Machine.Group} {m : Mask} {l r n : Nat}

/-- A group after writes of registers: of the group, or of the lanes of a mask. -/
structure RegsOnly (m : Mask) (g y : Machine.Group) : Prop where
  rest : { y with lanes := [], s := [], sPoison := [], h := [], hPoison := [], pend := [] } =
    { g with lanes := [], s := [], sPoison := [], h := [], hPoison := [], pend := [] }
  count : y.lanes.length = g.lanes.length
  others : ∀ l, mHas m l = false → y.lane l = g.lane l

namespace RegsOnly

theorem refl (m : Mask) (g : Machine.Group) : RegsOnly m g g := ⟨rfl, rfl, fun _ _ => rfl⟩

theorem trans (h : RegsOnly m g y) (k : RegsOnly m y z) : RegsOnly m g z :=
  ⟨k.rest.trans h.rest, k.count.trans h.count, fun l hl => (k.others l hl).trans (h.others l hl)⟩

/-- One write after another, of the lanes of the mask. -/
theorem foldl {α : Type} {f : Machine.Group → α → Machine.Group} {ls : List α}
    (hf : ∀ y, ∀ a ∈ ls, RegsOnly m y (f y a)) (g : Machine.Group) : RegsOnly m g (ls.foldl f g) := by
  induction ls generalizing g with
  | nil => exact refl m g
  | cons a ls ih =>
    exact (hf g a List.mem_cons_self).trans (ih (fun y b hb => hf y b (List.mem_cons_of_mem a hb)) (f g a))

/-- Writes of fields of one lane of the mask. -/
theorem of_written {ws ps : List (Nat × Nat)} (h : Written g y ws ps) (hl : mHas m l = true)
    (hw : ∀ e ∈ ws, e.1 = l) (hp : ∀ e ∈ ps, e.1 = l) : RegsOnly m g y where
  rest := congrArg (fun x : Machine.Group => { x with s := [], sPoison := [], h := [], hPoison := [] }) h.rest
  count := h.count
  others k hk := by
    have ne : k ≠ l := fun e => by simp [e, hl] at hk
    exact (h.lane k).idle (fun r hr => ne (hw _ hr)) fun p hp' => absurd (hp _ hp') ne

theorem uid (h : RegsOnly m g y) : y.uid = g.uid := (congrArg Machine.Group.uid h.rest :)
theorem block (h : RegsOnly m g y) : y.block = g.block := (congrArg Machine.Group.block h.rest :)
theorem handler (h : RegsOnly m g y) : y.handler = g.handler := (congrArg Machine.Group.handler h.rest :)
theorem clause (h : RegsOnly m g y) : y.clause = g.clause := (congrArg Machine.Group.clause h.rest :)
theorem replay (h : RegsOnly m g y) : y.replay = g.replay := (congrArg Machine.Group.replay h.rest :)
theorem core (h : RegsOnly m g y) : y.core = g.core := (congrArg Machine.Group.core h.rest :)

end RegsOnly

theorem regsOnly_writeVs (hl : mHas m l = true) (ws : List Word) (g : Machine.Group) (r : Nat) :
    RegsOnly m g (g.writeVs l r ws) := by
  induction ws generalizing g r with
  | nil => exact .refl m g
  | cons w ws ih => exact (RegsOnly.of_written (.writeV g l r w) hl (by simp) (by simp)).trans (ih _ _)

theorem regsOnly_writeP (hl : mHas m l = true) (b : Bool) : RegsOnly m g (g.writeP l r b) :=
  .of_written (.writeP g l r b) hl (by simp) (by simp)

theorem regsOnly_writeS (g : Machine.Group) (r : Nat) (w : Word) : RegsOnly m g (g.writeS r w) :=
  ⟨rfl, rfl, fun _ _ => rfl⟩

theorem regsOnly_writeH (g : Machine.Group) (r : Nat) (v : BitVec 8192) : RegsOnly m g (g.writeH r v) :=
  ⟨rfl, rfl, fun _ _ => rfl⟩

theorem regsOnly_undefWrites (s : State) (g : Machine.Group) (m : Mask) (i : Instr) :
    RegsOnly m g (undefWrites s g m i none) := by
  have lanes {l : Nat} (hl : l ∈ lanesOf m) : mHas m l = true := (mem_lanesOf.mp hl).2
  refine RegsOnly.foldl (fun y w _ => ?_) g
  cases w with
  | v r n => exact .foldl (fun _ _ hl => regsOnly_writeVs (lanes hl) _ _ r) y
  | p r => exact .foldl (fun _ _ hl => regsOnly_writeP (lanes hl) _) y
  | s r n =>
    change RegsOnly m y (List.foldl (fun g (e : Nat × Word) => g.writeS (r + e.1) e.2) y _)
    exact .foldl (fun x e _ => regsOnly_writeS x _ _) y
  | h r => exact regsOnly_writeH y r _

end Sys2Proof.Proofs
end

section
/-! What a read by the device does not see: the registers of a group. So a fault finds the same handler after its
destinations have become Undefined (19 R370, R371). -/

namespace Sys2Proof.Proofs

open Sys2Proof.Machine Sys2Proof.Laws Sys2Proof.Claims

variable {s : State} {g y : Machine.Group} {w : Who} {m : Mask}

theorem lookup_setGroup (va : Nat) : (s.setGroup y).lookup w va = s.lookup w va := rfl

theorem reach_setGroup (va n : Nat) (need : Need) : (s.setGroup y).reach w va n need = s.reach w va n need := by
  unfold State.reach
  rw [lookup_setGroup]
  rfl

theorem served_setGroup (slot va n : Nat) : (s.setGroup y).served slot va n = s.served slot va n := by
  unfold State.served
  rw [state_setGroup_draws]

theorem regRead_setGroup (a : Nat) : (s.setGroup y).regRead a = s.regRead a := by
  unfold State.regRead
  rw [show (s.setGroup y).head = s.head from rfl, show (s.setGroup y).partOf = s.partOf from rfl,
    state_setGroup_busyRoutes, state_setGroup_frbase, state_setGroup_bringup0, state_setGroup_lpok,
    state_setGroup_tomup]

theorem pageBytes_setGroup (l : Leaf) (va n : Nat) : (s.setGroup y).pageBytes l va n = s.pageBytes l va n := by
  have free (a : Nat) : (s.setGroup y).free a = s.free a := rfl
  have block (a : Nat) : (s.setGroup y).blockAt a = s.blockAt a := rfl
  have decoded (a : Nat) : (s.setGroup y).decodedBad a = s.decodedBad a := rfl
  have marked (a : Nat) : (s.setGroup y).marked a = s.marked a := rfl
  unfold State.pageBytes
  simp only [free, regRead_setGroup, block, decoded, state_setGroup_mem, marked]

theorem fetchBytes_setGroup (va n : Nat) (need : Need) :
    (s.setGroup y).fetchBytes w va n need = s.fetchBytes w va n need := by
  unfold State.fetchBytes
  simp only [reach_setGroup, served_setGroup, pageBytes_setGroup]
  rw [show (s.setGroup y).replay? = s.replay? from rfl]

theorem loadRun_setGroup (need : Need) (fuel va n : Nat) :
    (s.setGroup y).loadRun w need fuel va n = s.loadRun w need fuel va n := by
  induction fuel generalizing va n with
  | zero => rfl
  | succ fuel ih => simp only [State.loadRun, fetchBytes_setGroup, ih]

theorem loadRecord_setGroup (va n : Nat) : (s.setGroup y).loadRecord w va n = s.loadRecord w va n := by
  unfold State.loadRecord State.leafLevel
  simp only [loadRun_setGroup, lookup_setGroup]

theorem quietNat_setGroup (va n : Nat) : (s.setGroup y).quietNat w va n = s.quietNat w va n := by
  unfold State.quietNat State.quietLoad
  rw [loadRecord_setGroup]

theorem RegsOnly.who (h : RegsOnly m g y) : s.who y = s.who g := by
  unfold State.who State.clusterOf State.slotOf State.replayOf
  rw [h.block, h.core, h.replay]

theorem RegsOnly.slotOf (h : RegsOnly m g y) : (s.setGroup y).slotOf y = s.slotOf g := by
  unfold State.slotOf
  rw [h.block]
  rfl

theorem RegsOnly.clusterOf (h : RegsOnly m g y) : (s.setGroup y).clusterOf y = s.clusterOf g := by
  unfold State.clusterOf
  rw [h.block]
  rfl

/-- A fault has the handler that it had before its destinations became Undefined. -/
theorem handlerOf_setGroup (k : Code) : (s.setGroup y).handlerOf g k = s.handlerOf g k := by
  unfold State.handlerOf
  simp only [quietNat_setGroup]
  rfl

theorem RegsOnly.handlerOf (h : RegsOnly m g y) (k : Code) : s.handlerOf y k = s.handlerOf g k := by
  unfold State.handlerOf State.ctxOf State.slotOf
  rw [h.who, h.block, h.handler]

end Sys2Proof.Proofs
end

section
/-! Entry to a fault handler and to the service's records (19 R367, R370, R371). -/

namespace Sys2Proof.Proofs

open Sys2Proof.Machine Sys2Proof.Laws Sys2Proof.Claims

variable {s t : State} {g y z : Machine.Group} {c : Clause} {i : Instr} {f : FaultAt} {m : Mask} {u k n : Nat}
  {r : Record} {a : DWord} {pc resume : Nat → DWord} {o : Option Nat}

/-! ### Entry to a handler -/

/-- A group whose lanes of a mask enter the handler at an address with a record slot. -/
def inHandler (g : Machine.Group) (m : Mask) (k : Nat) (a : DWord) (resume : Nat → DWord) : Machine.Group :=
  { g with svcarg := BitVec.ofNat 32 k, handler := true, hslot := some k }.modLanes m fun l x =>
    { x with st := .runnable, pc := a, resume := resume l }

/-- What holds of a group whose lanes of a mask have entered the handler, or wait for the service at its address. -/
structure HandlerEntered (g y : Machine.Group) (m : Mask) (k : Nat) (a : DWord) (resume : Nat → DWord) : Prop where
  svcarg : y.svcarg = BitVec.ofNat 32 k
  handler : y.handler = true
  hslot : y.hslot = some k
  clause : y.clause = g.clause
  count : y.lanes.length = g.lanes.length
  lanes : ∀ l, l < g.lanes.length → mHas m l = true → (y.lane l).pc = a ∧ (y.lane l).resume = resume l ∧
    ((y.lane l).st = .runnable ∨ ∃ n, (y.lane l).st = .parked (.fault n))

theorem called_eq_runnable {x : LaneState} : x.called = .runnable ↔ x = .runnable := by
  unfold LaneState.called
  split <;> simp

theorem called_eq_fault {x : LaneState} {n : Nat} : x.called = .parked (.fault n) ↔ x = .parked (.fault n) := by
  unfold LaneState.called
  split <;> simp

theorem spoiledGroup_lane (h : spoiledGroup z = spoiledGroup y) (l : Nat) : called (z.lane l) = called (y.lane l) :=
  called_lane (congrArg Machine.Group.lanes h :) l

theorem spoiledGroup_length (h : spoiledGroup z = spoiledGroup y) : z.lanes.length = y.lanes.length := by
  simpa [spoiledGroup] using congrArg (fun x => x.lanes.length) h

theorem length_inHandler : (inHandler g m k a resume).lanes.length = g.lanes.length := by simp [inHandler]

theorem lane_inHandler {l : Nat} (hl : l < g.lanes.length) (hm : mHas m l = true) :
    (inHandler g m k a resume).lane l = { g.lane l with st := .runnable, pc := a, resume := resume l } :=
  (lane_modLanes (g := { g with svcarg := BitVec.ofNat 32 k, handler := true, hslot := some k }) hl).trans (if_pos hm)

theorem handlerEntered_inHandler (h : spoiledGroup y = spoiledGroup g) :
    HandlerEntered g (inHandler y m k a resume) m k a resume where
  svcarg := rfl
  handler := rfl
  hslot := rfl
  clause := (congrArg Machine.Group.clause h :)
  count := length_inHandler.trans (spoiledGroup_length h)
  lanes l hl hm := by
    rw [lane_inHandler ((spoiledGroup_length h).symm ▸ hl) hm]
    exact ⟨rfl, rfl, .inl rfl⟩

/-- A call of the service and a spoiled tile leave the entry as it is. -/
theorem HandlerEntered.of_spoiled (h : HandlerEntered g y m k a resume) (same : spoiledGroup z = spoiledGroup y) :
    HandlerEntered g z m k a resume where
  svcarg := (congrArg Machine.Group.svcarg same :).trans h.svcarg
  handler := (congrArg Machine.Group.handler same :).trans h.handler
  hslot := (congrArg Machine.Group.hslot same :).trans h.hslot
  clause := (congrArg Machine.Group.clause same :).trans h.clause
  count := (spoiledGroup_length same).trans h.count
  lanes l hl hm := by
    obtain ⟨pc, res, st⟩ := h.lanes l hl hm
    have lane := spoiledGroup_lane same l
    have state : (z.lane l).st.called = (y.lane l).st.called := (congrArg Lane.st lane :)
    refine ⟨(congrArg Lane.pc lane :).trans pc, (congrArg Lane.resume lane :).trans res, ?_⟩
    obtain run | ⟨n, park⟩ := st
    · exact .inl (called_eq_runnable.mp (state.trans (called_eq_runnable.mpr run)))
    · exact .inr ⟨n, called_eq_fault.mp (state.trans (called_eq_fault.mpr park))⟩

/-- Lanes that wait for the service at the handler's address have entered it. -/
theorem HandlerEntered.parkFault (h : HandlerEntered g y m k a resume) (n : Nat) :
    HandlerEntered g (y.parkFault m n (fun _ => a) fun _ => a) m k a resume where
  svcarg := h.svcarg
  handler := h.handler
  hslot := h.hslot
  clause := h.clause
  count := length_modLanes.trans h.count
  lanes l hl hm := by
    unfold Machine.Group.parkFault
    rw [lane_modLanes (h.count.symm ▸ hl), if_pos hm]
    exact ⟨rfl, (h.lanes l hl hm).2.1, .inr ⟨n, rfl⟩⟩

theorem clusterOf_of_blocks (h : t.blocks = s.blocks) (g : Machine.Group) : t.clusterOf g = s.clusterOf g := by
  unfold State.clusterOf State.block?
  rw [h]

theorem buffered_of_records (h : t.records = s.records) (n : Nat) : t.buffered n = s.buffered n := by
  unfold State.buffered
  rw [h]

/-- The state in which a handler's address is checked: the record is in its slot of the handler table, the slot is
taken, and the lanes stand at the address. -/
def handlerState (s : State) (g : Machine.Group) (u k : Nat) (r : Record) (m : Mask) (resume : Nat → DWord) : State :=
  (((s.quietStore (fetcher s g) ((s.ctxOf g).ccb.htab.toNat + 512 + 64 * k) r.bytes).getD s).modCtx (s.ctxOf g).slot
    fun c => { c with hslots := insertNat k c.hslots }).modGroup u fun y =>
      inHandler y m k (s.handlerOf g r.code) resume

/-- The record of a handler's address that fails its check. -/
def handlerFault (s : State) (g : Machine.Group) (u k : Nat) (r : Record) (m : Mask) (resume : Nat → DWord) (x : Code)
    (lv : Nat) : Record :=
  (handlerState s g u k r m resume).recordOf (inHandler g m k (s.handlerOf g r.code) resume)
    { code := x, addr := (s.handlerOf g r.code).toNat, level := lv, source := 3 } m (s.handlerOf g r.code)
    (s.handlerOf g r.code)

theorem handlerFault_cluster {x : Code} {lv : Nat} :
    (handlerFault s g u k r m resume x lv).cluster = (handlerState s g u k r m resume).clusterOf g := by
  have place (y : State) : y.clusterOf (inHandler g m k (s.handlerOf g r.code) resume) = y.clusterOf g := rfl
  unfold handlerFault State.recordOf
  dsimp only
  exact place _

theorem enterHandler_good (hg : s.group? u = some g)
    (good : (handlerState s g u k r m resume).badTarget (fetcher s g) (s.handlerOf g r.code) (some 3) = none) :
    s.enterHandler u k r m resume = some (handlerState s g u k r m resume) := by
  unfold State.enterHandler
  rw [hg]
  dsimp only
  split
  · rfl
  · next bad => exact absurd (good.symm.trans bad) nofun

theorem enterHandler_bad {x : Code} {lv : Nat} (hg : s.group? u = some g)
    (bad : (handlerState s g u k r m resume).badTarget (fetcher s g) (s.handlerOf g r.code) (some 3) = some (x, lv))
    (filed : (handlerState s g u k r m resume).fileRecord (handlerFault s g u k r m resume x lv) = some (n, t)) :
    s.enterHandler u k r m resume = some (t.modGroup u fun y =>
      y.parkFault m n (fun _ => s.handlerOf g r.code) fun _ => s.handlerOf g r.code) := by
  unfold State.enterHandler
  rw [hg]
  dsimp only
  split
  · next good => exact absurd (bad.symm.trans good) nofun
  · next x' lv' bad' =>
    cases bad.symm.trans bad'
    split
    · next n' t' filed' =>
      cases filed.symm.trans filed'
      rfl
    · next full => exact absurd (filed.symm.trans full) nofun

/-- The check of a handler's address finds the blocks and the fault buffers as they were, the slot taken and the group
at the address. -/
theorem handlerState_facts (hg : s.group? u = some g) :
    (handlerState s g u k r m resume).blocks = s.blocks ∧ (handlerState s g u k r m resume).records = s.records ∧
      k ∈ ((handlerState s g u k r m resume).ctx (s.slotOf g)).hslots ∧
      After (handlerState s g u k r m resume) u fun y =>
        HandlerEntered g y m k (s.handlerOf g r.code) resume := by
  have frame := accessFrame_quietStore (s := s) (w := fetcher s g) ((s.ctxOf g).ccb.htab.toNat + 512 + 64 * k) r.bytes
  have same : SameSpoiled s
      ((s.quietStore (fetcher s g) ((s.ctxOf g).ccb.htab.toNat + 512 + 64 * k) r.bytes).getD s) := by
    cases h : s.quietStore (fetcher s g) ((s.ctxOf g).ccb.htab.toNat + 512 + 64 * k) r.bytes with
    | none => exact .refl ..
    | some x => exact quietStore_sameSpoiled h
  unfold handlerState
  rw [show (s.ctxOf g).slot = s.slotOf g from ctx_slot ..]
  generalize (s.quietStore (fetcher s g) ((s.ctxOf g).ccb.htab.toNat + 512 + 64 * k) r.bytes).getD s = x at frame same ⊢
  obtain ⟨y, hy, spoiled⟩ := same.some_group hg
  refine ⟨(congrArg State.blocks frame :), (congrArg State.records frame :), ?_, _,
    group?_modGroup_same (fun _ => rfl) hy, handlerEntered_inHandler spoiled⟩
  change k ∈ ((x.modCtx (s.slotOf g) fun c => { c with hslots := insertNat k c.hslots }).ctx (s.slotOf g)).hslots
  rw [modCtx_ctx x _ (fun c => { c with hslots := insertNat k c.hslots }) fun _ => rfl]
  exact mem_insertNat.mpr (.inl rfl)

/-- With room in the fault buffer for a fault at the handler's address, lanes enter the handler: the record slot is
taken and they stand at the address. -/
theorem enterHandler_enters (hg : s.group? u = some g) (hb : s.buffered (s.clusterOf g) < 256) :
    ∃ t, s.enterHandler u k r m resume = some t ∧ t.blocks = s.blocks ∧ k ∈ (t.ctx (s.slotOf g)).hslots ∧
      After t u fun y => HandlerEntered g y m k (s.handlerOf g r.code) resume := by
  obtain ⟨blocks, records, taken, y, hy, entered⟩ := handlerState_facts (k := k) (r := r) (m := m) (resume := resume) hg
  cases check : (handlerState s g u k r m resume).badTarget (fetcher s g) (s.handlerOf g r.code) (some 3) with
  | none => exact ⟨_, enterHandler_good hg check, blocks, taken, y, hy, entered⟩
  | some bad =>
    obtain ⟨x, lv⟩ := bad
    have place : (handlerFault s g u k r m resume x lv).cluster = s.clusterOf g :=
      handlerFault_cluster.trans (clusterOf_of_blocks blocks g)
    have room : (handlerState s g u k r m resume).buffered (handlerFault s g u k r m resume x lv).cluster < 256 := by
      rw [buffered_of_records records, place]
      exact hb
    obtain ⟨n, t, filed⟩ := fileRecord_room room
    obtain ⟨unchanged, ctxs⟩ := fileRecord_keeps filed
    have same : t.blocks = s.blocks := unchanged.trans blocks
    obtain ⟨z, hz, called⟩ := (fileRecord_sameCalled filed).spoiled.some_group hy
    have there := group?_modGroup_same (f := fun y =>
      y.parkFault m n (fun _ => s.handlerOf g r.code) fun _ => s.handlerOf g r.code) (fun _ => rfl) hz
    refine ⟨_, enterHandler_bad hg check filed, same, ?_, _, there, ?_⟩
    · exact (ctxs.hslots (s.slotOf g)).symm ▸ taken
    · exact (entered.of_spoiled called).parkFault n

end Sys2Proof.Proofs
end

section
/-! Precise traps and ERET (18 R351; 19 R367, R370, R371). -/

namespace Sys2Proof.Proofs

open Sys2Proof.Machine Sys2Proof.Laws Sys2Proof.Claims

variable {s t : State} {g y z : Machine.Group} {c : Clause} {i : Instr} {f : FaultAt} {m : Mask} {k n l : Nat}
  {o : Option Nat}

/-- The record of a precise trap. -/
def trapRecord (s : State) (g : Machine.Group) (c : Clause) (i : Instr) (f : FaultAt) (m : Mask) : Record :=
  s.recordOf g { f with source := Instr.source i } m c.header c.word

/-- The state in which a precise trap is delivered: its destinations are Undefined. -/
def trapState (s : State) (g : Machine.Group) (m : Mask) (i : Instr) : State := s.setGroup (undefWrites s g m i none)

/-- A trap that is delivered takes its lanes out of the clause; what a RETRY does is noted. -/
theorem trapAt_delivered (h : (trapState s g m i).deliver g (trapRecord s g c i f m) m (fun _ => c.nextAt)
    (fun _ => c.nextAt) = some (o, t)) :
    ∃ ops, s.trapAt g c i f m = ({ t with lateOps := ops } : State).modGroup g.uid fun y =>
      y.modClause fun c' => c'.drop m := by
  have noted (w : Again) : ∃ ops,
      (if f.code = .user then t else t.onRetry o g.uid m w) = { t with lateOps := ops } := by
    split
    · exact ⟨_, rfl⟩
    · cases o <;> exact ⟨_, rfl⟩
  obtain ⟨ops, hops⟩ := noted (c.again_ g m)
  refine ⟨ops, ?_⟩
  rw [← hops]
  unfold State.trapAt
  dsimp only
  split
  · next none_ => exact absurd (h.symm.trans none_) nofun
  · next o' t' some_ =>
    cases h.symm.trans some_
    rfl

/-- The group that a trap is delivered to: its lanes outside the mask as they were, and so its clause. -/
theorem trapState_group (hg : s.group? g.uid = some g) :
    ∃ y, (trapState s g m i).group? g.uid = some y ∧ RegsOnly m g y := by
  have kept := regsOnly_undefWrites s g m i
  refine ⟨_, ?_, kept⟩
  have := group?_setGroup_same (g := undefWrites s g m i none) (kept.uid.symm ▸ hg)
  rwa [kept.uid] at this

theorem trapState_handlerOf (hy : RegsOnly m g y) (x : Code) : (trapState s g m i).handlerOf y x = s.handlerOf g x :=
  (handlerOf_setGroup x).trans (hy.handlerOf x)

/-- What a delivered trap leaves of its group: the clause without the lanes, the lanes as they were delivered. -/
theorem trapAt_after {P : Machine.Group → Prop} (h : (trapState s g m i).deliver g (trapRecord s g c i f m) m
    (fun _ => c.nextAt) (fun _ => c.nextAt) = some (o, t)) (ht : After t g.uid P) :
    After (s.trapAt g c i f m) g.uid fun y => ∃ z, P z ∧ y = z.modClause fun c' => c'.drop m := by
  obtain ⟨ops, hops⟩ := trapAt_delivered h
  obtain ⟨z, hz, hP⟩ := ht
  rw [hops]
  exact ⟨_, group?_modGroup_same (s := { t with lateOps := ops }) (fun _ => rfl) hz, z, hP, rfl⟩

/-- The lanes outside a trap's mask stay. -/
theorem trap_others (hy : (trapState s g m i).group? g.uid = some y) (kept : RegsOnly m g y)
    (h : (trapState s g m i).deliver g (trapRecord s g c i f m) m (fun _ => c.nextAt) (fun _ => c.nextAt) = some (o, t))
    (hz : t.group? g.uid = some z) : OthersStay g z m := by
  obtain ⟨z', hz', stay⟩ := deliver_spares h y hy
  cases hz.symm.trans hz'
  exact fun l hl => (stay l hl).trans (congrArg called (kept.others l hl))

theorem trapAt_keeps (h : (trapState s g m i).deliver g (trapRecord s g c i f m) m (fun _ => c.nextAt)
    (fun _ => c.nextAt) = some (o, t)) :
    (s.trapAt g c i f m).blocks = t.blocks ∧ (s.trapAt g c i f m).ctxs = t.ctxs ∧
      (s.trapAt g c i f m).records = t.records := by
  obtain ⟨ops, hops⟩ := trapAt_delivered h
  rw [hops]
  exact ⟨rfl, rfl, rfl⟩

/-- A fault whose handler has a free record slot is the handler's. -/
theorem deliver_handler {r : Record} {pc skip : Nat → DWord} (hh : s.handlerOf g r.code ≠ 0)
    (free : (s.ctxOf g).freeHslot = some k) (ht : s.enterHandler g.uid k r m pc = some t) :
    s.deliver g r m pc skip = some (none, t) := by
  unfold State.deliver
  rw [if_pos hh, free]
  dsimp only
  rw [ht]
  rfl

/-! ### The clauses of O24 -/

theorem trapEntersHandler : TrapEntersHandler := by
  intro s g c i f m k hi hh free hb
  obtain ⟨-, hg, hc⟩ := issue?_some hi
  obtain ⟨y, hy, kept⟩ := trapState_group (m := m) (i := i) hg
  have handler : (trapState s g m i).handlerOf y f.code = s.handlerOf g f.code := trapState_handlerOf kept f.code
  have slot : (trapState s g m i).slotOf y = s.slotOf g := kept.slotOf
  have cluster : (trapState s g m i).clusterOf y = s.clusterOf g := kept.clusterOf
  have room : (trapState s g m i).buffered ((trapState s g m i).clusterOf y) < 256 := by
    rw [cluster, buffered_of_records (show (trapState s g m i).records = s.records from rfl)]
    exact hb
  obtain ⟨t, ht, blocks, taken, z, hz, entered⟩ := enterHandler_enters (k := k) (r := trapRecord s g c i f m) (m := m)
    (resume := fun _ => c.nextAt) hy room
  have delivered := deliver_handler (skip := fun _ => c.nextAt)
    (show (trapState s g m i).handlerOf g (trapRecord s g c i f m).code ≠ 0 from
      (handlerOf_setGroup f.code).trans_ne hh) free ht
  have others := trap_others hy kept delivered hz
  obtain ⟨sameBlocks, ctxs, -⟩ := trapAt_keeps delivered
  constructor
  · rw [slot] at taken
    rwa [State.ctxOf, ctx_of_ctxs ctxs, slotOf_of_blocks (sameBlocks.trans blocks)]
  · obtain ⟨_, hx, _, rfl, rfl⟩ := trapAt_after (P := fun x => x = z) delivered ⟨z, hz, rfl⟩
    refine ⟨_, hx, entered.svcarg, entered.handler, entered.hslot, others, fun l hl hm => ?_, ?_⟩
    · have lane := entered.lanes l (kept.count.symm ▸ hl) hm
      rwa [show (trapState s g m i).handlerOf y (trapRecord s g c i f m).code =
        s.handlerOf g f.code from handler] at lane
    · unfold Machine.Group.modClause
      rw [entered.clause, kept.clause, hc]
      rfl

theorem trapGoesToService : TrapGoesToService := by
  intro s g c i f m hi hh apart hb
  obtain ⟨-, hg, hc⟩ := issue?_some hi
  obtain ⟨y, hy, kept⟩ := trapState_group (m := m) (i := i) hg
  have alone : (trapRecord s g c i f m).unit = true → ∀ x ∈ (trapState s g m i).records, x.code ≠ f.code := fun unit =>
    apart ((Bool.and_eq_true _ _).mp unit).1
  obtain ⟨t, ht, j, p, filed⟩ := fileRecord_apart alone hb
  have delivered := deliver_service (g := g) (m := m) (pc := fun _ => c.nextAt) (skip := fun _ => c.nextAt)
    ((handlerOf_setGroup f.code).trans hh) ht
  obtain ⟨-, -, records⟩ := trapAt_keeps delivered
  obtain ⟨z, hz, same⟩ := (fileRecord_sameCalled ht).spoiled.some_group hy
  have there := group?_modGroup_same
    (f := fun x => x.parkFault m s.fresh (fun _ => c.nextAt) fun _ => c.nextAt) (fun _ => rfl) hz
  have others := trap_others hy kept delivered there
  have count : z.lanes.length = g.lanes.length := (spoiledGroup_length same).trans kept.count
  refine ⟨_, records ▸ filed, rfl, rfl, rfl, rfl, rfl, rfl, rfl, rfl, ?_⟩
  obtain ⟨_, hx, _, rfl, rfl⟩ := trapAt_after (P := fun x => x = _) delivered ⟨_, there, rfl⟩
  refine ⟨_, hx, ?_, others, fun l hl hm => ?_⟩
  · exact (congrArg Machine.Group.handler same :).trans kept.handler
  · have lane := lane_modLanes (m := m) (f := fun l x => { x with
      st := .parked (.fault s.fresh), pc := c.nextAt, skipTo := c.nextAt }) (show l < z.lanes.length from count ▸ hl)
    rw [if_pos hm] at lane
    exact ⟨(congrArg Lane.st lane :), (congrArg Lane.pc lane :)⟩

theorem handlerTakes : HandlerTakes := by
  intro s g x
  refine ⟨fun no => ?_, fun bytes yes read => ?_, fun e yes fails => ?_⟩
  · unfold State.handlerOf
    dsimp only
    rw [if_neg (by simpa using no)]
  · unfold State.handlerOf State.quietNat State.quietLoad
    dsimp only
    rw [if_pos (by simpa using yes), read]
    rfl
  · unfold State.handlerOf State.quietNat State.quietLoad
    dsimp only
    rw [if_pos (by simpa using yes), fails]
    rfl

theorem noHelpers_eq_maskOf (g : Machine.Group) (m : Mask) :
    g.noHelpers m = maskOf ((lanesOf m).filter fun l => !(g.lane l).helper) := by
  refine BitVec.eq_of_getLsbD_eq fun l _ => Bool.eq_iff_iff.mpr ?_
  change mHas (m &&& ~~~ (m &&& g.maskWhere fun l => l.helper)) l = true ↔ mHas (maskOf _) l = true
  have beyond : ¬ l < g.lanes.length → (g.lane l).helper = false := fun h => by rw [lane_none h]
  rw [mHas_diff, mHas_and, mHas_maskOf_iff, List.mem_filter, mem_lanesOf]
  have := mHas_maskWhere_iff (g := g) (l := l) (p := fun l => l.helper)
  grind

theorem trapRaisesUser : TrapRaisesUser := by
  intro x s g c hi
  refine (issues_next hi).trans (congrArg _ ?_)
  dsimp only
  rw [noHelpers_eq_maskOf, BitVec.ofNat_toNat]

theorem popHandler_nobody (h : s.handlerQueue = []) (n : Nat) : s.popHandler n = s := by
  unfold State.popHandler
  rw [h]
  cases (s.ctx n).freeHslot <;> rfl

theorem eretReturns : EretReturns := by
  refine ⟨fun s g c hi handler queue good => ?_, fun s g c hi handler => ?_⟩
  · refine (issues_next hi).trans (congrArg _ ?_)
    dsimp only
    rw [if_neg (by simp [handler]), checked_good, popHandler_nobody (by exact queue)]
    · rfl
    · intro e he
      obtain ⟨l, hl, rfl⟩ := List.mem_map.mp he
      exact good l hl
  · refine (issues_next hi).trans (congrArg _ ?_)
    dsimp only
    rw [if_pos (by simp [handler])]
    rfl

/-- Settles O24: TRAP, entry to a handler and to the service, which faults the handler takes, and ERET. -/
theorem exceptions : Obligations.Exceptions :=
  ⟨trapRaisesUser, trapEntersHandler, trapGoesToService, handlerTakes, eretReturns⟩

end Sys2Proof.Proofs
end
